-- ==== Sys2Proof/Word.lean ====
section
/-!
DEFINITION. Word types of the Turtil W80 and their plainest readings (R3, R40).
-/

namespace Sys2Proof

/-- One byte (R3). -/
abbrev Byte := BitVec 8

/-- A halfword: an instruction unit, an FP16 or BF16 value, a generation (R3, R25, R42). -/
abbrev Half := BitVec 16

/-- A general register: 32 bits (R16). -/
abbrev Word := BitVec 32

/-- A register pair, a caller register or a 64-bit address: 64 bits (R16, R190). -/
abbrev DWord := BitVec 64

/-- Sixteen bytes: the widest access (R159). -/
abbrev QWord := BitVec 128

/-- A 64-byte line (R181, R327), byte 0 in the low bits. -/
abbrev Line := BitVec 512

/-- An operand code of a micro-thread instruction: 0-55 name g0-g55, 56-63 name t0-t7 (R76). -/
abbrev Reg := BitVec 6

/-- A predicate p0-p7 (R76). -/
abbrev PReg := BitVec 3

/-- A walker register code (R305). -/
abbrev WReg := BitVec 5

/-- A caller register x0-x31 (R190). -/
abbrev XReg := BitVec 5

/-- Low word of a 64-bit value: the even register of a pair (R16). -/
def loWord (v : DWord) : Word := v.extractLsb' 0 32

/-- High word of a 64-bit value: the odd register of a pair (R16). -/
def hiWord (v : DWord) : Word := v.extractLsb' 32 32

/-- The 64-bit value of a pair, low word first (R16). -/
def mkPair (lo hi : Word) : DWord := hi ++ lo

end Sys2Proof
end

