-- ==== Sys2Proof/Syntax.lean ====
section
/-!
DEFINITION. The instructions and events of the Turtil W80: one constructor of `Instr` per row of the
opcode table (opcode_table.json), with its operands as names and fields, never as raw words. Rows without
an encoding are the device's events; each carries what names the thing it happens to, and what arrives
from outside the module.
-/

namespace Sys2Proof

/-- Widths of a caller load (R190; RISC-V). -/
inductive LoadWidth where
  | lb | lh | lw | ld | lbu | lhu | lwu
  deriving DecidableEq, Repr, Inhabited

/-- Widths of a caller store (R190; RISC-V). -/
inductive StoreWidth where
  | sb | sh | sw | sd
  deriving DecidableEq, Repr, Inhabited

/-- The AMO operations of RV64A (R190, R191). -/
inductive AmoOp where
  | swap | add | xor | and | or | min | max | minu | maxu
  deriving DecidableEq, Repr, Inhabited

/-- The three CSR actions of Zicsr: write, set bits, clear bits (R190). -/
inductive CsrOp where
  | rw | rs | rc
  deriving DecidableEq, Repr, Inhabited

/-- The source of a CSR action: a register or a 5-bit immediate (R190). -/
inductive CsrSrc where
  | reg (rs1 : XReg)
  | imm (v : BitVec 5)
  deriving DecidableEq, Repr, Inhabited

/-- The register-register operations of RV64I and RV64M (R190). -/
inductive RvAlu where
  | add | sub | sll | slt | sltu | xor | srl | sra | or | and
  | mul | mulh | mulhsu | mulhu | div | divu | rem | remu
  deriving DecidableEq, Repr, Inhabited

/-- Branch conditions of RV64I (R190). -/
inductive RvCond where
  | eq | ne | lt | ge | ltu | geu
  deriving DecidableEq, Repr, Inhabited

/-- The caller's RISC-V instructions without a row of their own (R190): integer, branch, jump,
CSR read, environment, and every word that is no instruction of RV64IMAC, Zicsr, Zifencei or Xfig. -/
inductive RvOp where
  | lui (rd : XReg) (imm : BitVec 20)
  | auipc (rd : XReg) (imm : BitVec 20)
  | jal (rd : XReg) (off : BitVec 21)
  | jalr (rd rs1 : XReg) (imm : BitVec 12)
  | branch (cond : RvCond) (rs1 rs2 : XReg) (off : BitVec 13)
  | alui (op : RvAlu) (w32 : Bool) (rd rs1 : XReg) (imm : BitVec 12)
  | alu (op : RvAlu) (w32 : Bool) (rd rs1 rs2 : XReg)
  | csrRead (rd : XReg) (addr : BitVec 12)
  | ecall
  | ebreak
  | sret
  | wfi
  | sfenceVma
  | illegal (w : Word)
  deriving DecidableEq, Repr, Inhabited

/-- The target of a register write without a row of its own (R192, R385, R431): a caller CSR, or a
device register at an offset of the management space, written by a host or a management hart. -/
inductive RegWrite where
  | csr (op : CsrOp) (addr : BitVec 12) (rd : XReg) (src : CsrSrc)
  | device (management : Bool) (off : Nat) (value : DWord)
  /-- a 4-byte access to half of a register (R431) -/
  | half (management : Bool) (off : Nat) (value : Word)
  deriving DecidableEq, Repr, Inhabited

/-- Who performs a store at a home (R359): an access of the device, or a host hart (R368). -/
inductive StoreSource where
  | access (flight : Nat)
  | host (pa : Nat) (data : List Byte)
  deriving DecidableEq, Repr, Inhabited

/-- Who sends an RTC mailbox request (R438). -/
inductive Sender where
  | management | host
  deriving DecidableEq, Repr, Inhabited

/-- A firmware image in the flash (R436): its bytes from the header on, and whether its signature is an SLH-DSA signature of
header and payload under its public key (FIPS 205, which the spec names and does not print; log 7). -/
structure Image where
  bytes : List Byte
  signed : Bool
  deriving DecidableEq, Repr, Inhabited

/-- The firmware flash (R429, R436, R439): the trusted image, in each slot the management image and the core supervisor image
that follows it, and the certificate. -/
structure Flash where
  trusted : Image
  slotA : Image × Image
  slotB : Image × Image
  certificate : List Byte
  deriving DecidableEq, Repr, Inhabited

/-- The OTP fuses (R436, R437, R439): the digests of the vendor's and of the owner's key, 0 where the owner has fused none, and
the unique device secret. -/
structure Fuses where
  vendorKey : Line
  ownerKey : Line
  secret : List Byte
  deriving DecidableEq, Repr, Inhabited

/-- What an image shows at boot (R436, R437): its SVN, whether it verifies, and its digest. -/
structure ImageCheck where
  svn : Nat
  verifies : Bool
  digest : Line
  deriving DecidableEq, Repr, Inhabited

/-- What boot finds (R437, R446): what has been written to the flash, the fused floors, the clusters that fail self-test, the
ASID table's address, the partitions' configurations and their digest, and the serial number of the twin, if one is found. -/
structure BootInput where
  flash : Flash
  trustedFloor : Nat
  managementFloor : Nat
  offline : BitVec 10
  asidtab : DWord
  pcfg : List Line
  configDigest : Line
  twin : Option DWord
  deriving DecidableEq, Repr, Inhabited

/-- Kinds of a UALink request (R450). An LR and an SC, which R191 performs at the owning port, go as a read that reserves and as
a conditional write (log 19). A write and an atomic carry the KIND that the trace ring of R371 gives them. -/
inductive TwinOp where
  | read (size : Nat)
  | write (size : Nat) (data : QWord) (kind : Nat)
  | atomic (f7 : BitVec 7) (operand : QWord) (kind : Nat)
  | reserve (size : Nat)
  | conditional (size : Nat) (data : QWord)
  deriving DecidableEq, Repr, Inhabited

/-- What comes back from the twin for a request (R450, R157): a value with its flags, or the fault of its owning port. -/
inductive Response where
  | ok (data : QWord) (flags : BitVec 5)
  | fault (code : Byte) (sub arg : Nat)
  deriving DecidableEq, Repr, Inhabited

/-- A request from the twin (R449, R450): pair-table index, target core and offset, source core. -/
structure TwinRequest where
  index : Nat
  core : Nat
  off : Nat
  src : Nat
  tag : Nat
  op : TwinOp
  deriving DecidableEq, Repr, Inhabited

/-- An HQ message (R453): pair index, origin core, tag, hand-off number, the query record with ROOT
replaced, q0-q15 and the K-best entries. -/
structure HqMsg where
  index : Nat
  origin : Nat
  tag : Word
  h : Nat
  record : List Byte
  q : List Word
  best : List (Word × Word)
  deriving DecidableEq, Repr, Inhabited

/-- A HEND message (R453). -/
structure HendMsg where
  tag : Word
  h : Nat
  sent : Nat
  err : Nat
  code : Nat
  best : List (Word × Word)
  deriving DecidableEq, Repr, Inhabited

/-- The scheduling acts a SCHED message carries (R447, R453); a proposal also tells the MAXPRIO of the launch's root queue, which
its children on the twin are judged by (R387, R388; log 24). -/
inductive SchedAct where
  | propose (index launch x0 y0 maxPrio : Nat) (record : List Byte)
  | confirm (index launch : Nat)
  | refuse (index launch : Nat)
  | preempt (launch : Nat)
  | resume (launch : Nat)
  | abort (launch reason : Nat)
  | sweep (launch : Nat) (idle : Bool) (sent received : Nat)
  | level (index lvl episode kind : Nat)
  deriving DecidableEq, Repr, Inhabited

/-- Every instruction and event of the part, one constructor per row of the opcode table (R85, R86, R84,
R194, R307; 95_what_each_step_holds). -/
inductive Instr where
  /-- Writes the 32-bit wrapping sum of a and b to d (R100). -/
  | add (d a b : Reg)
  /-- Writes the 32-bit wrapping difference a minus b to d (R100). -/
  | sub (d a b : Reg)
  /-- Writes the bitwise AND of a and b to d (R100). -/
  | and (d a b : Reg)
  /-- Writes the bitwise OR of a and b to d (R100). -/
  | or (d a b : Reg)
  /-- Writes the bitwise XOR of a and b to d (R100). -/
  | xor (d a b : Reg)
  /-- Writes a AND NOT b to d (R100). -/
  | andn (d a b : Reg)
  /-- Shifts a left by b[4:0] into d (R100). -/
  | sll (d a b : Reg)
  /-- Shifts a right logically by b[4:0] into d (R100). -/
  | srl (d a b : Reg)
  /-- Shifts a right arithmetically by b[4:0] into d (R100). -/
  | sra (d a b : Reg)
  /-- Rotates a left by b[4:0] into d (R100). -/
  | rol (d a b : Reg)
  /-- Writes the signed minimum of a and b to d (R100). -/
  | min (d a b : Reg)
  /-- Writes the signed maximum of a and b to d (R100). -/
  | max (d a b : Reg)
  /-- Writes the unsigned minimum of a and b to d (R100). -/
  | minu (d a b : Reg)
  /-- Writes the unsigned maximum of a and b to d (R100). -/
  | maxu (d a b : Reg)
  /-- Writes the low 32 bits of a times b to d (R100). -/
  | mul (d a b : Reg)
  /-- Writes the high word of the signed 64-bit product to d (R100). -/
  | mulh (d a b : Reg)
  /-- Writes the high word of the unsigned 64-bit product to d (R100). -/
  | mulhu (d a b : Reg)
  /-- Writes the signed sum of a and b saturated to 32 bits (R101). -/
  | adds (d a b : Reg)
  /-- Writes the signed difference saturated to 32 bits (R101). -/
  | subs (d a b : Reg)
  /-- Counts the leading zero bits of a (R100). -/
  | clz (d a : Reg)
  /-- Counts the trailing zero bits of a (R100). -/
  | ctz (d a : Reg)
  /-- Counts the one bits of a (R100). -/
  | popc (d a : Reg)
  /-- Reverses the bit order of a into d (R100). -/
  | brev (d a : Reg)
  /-- Adds two 64-bit pairs modulo 2^64 (R100). -/
  | addD (d a b : Reg)
  /-- Subtracts two 64-bit pairs modulo 2^64 (R100). -/
  | subD (d a b : Reg)
  /-- Writes the full signed 64-bit product into pair d (R100). -/
  | mulWD (d a b : Reg)
  /-- Writes the full unsigned 64-bit product into pair d (R100). -/
  | muluWD (d a b : Reg)
  /-- Adds the sign-extended imm13 to a (R103). -/
  | addi (d a : Reg) (imm : BitVec 13)
  /-- ANDs a with the sign-extended imm13 (R103). -/
  | andi (d a : Reg) (imm : BitVec 13)
  /-- ORs a with the sign-extended imm13 (R103). -/
  | ori (d a : Reg) (imm : BitVec 13)
  /-- XORs a with the sign-extended imm13 (R103). -/
  | xori (d a : Reg) (imm : BitVec 13)
  /-- Multiplies a by the sign-extended imm13 modulo 2^32 (R103). -/
  | muli (d a : Reg) (imm : BitVec 13)
  /-- Shifts a left by a constant amount (R104). -/
  | slli (d a : Reg) (sh : BitVec 5)
  /-- Shifts a right logically by a constant amount (R104). -/
  | srli (d a : Reg) (sh : BitVec 5)
  /-- Shifts a right arithmetically by a constant amount (R104). -/
  | srai (d a : Reg) (sh : BitVec 5)
  /-- Rotates a left by a constant amount (R104). -/
  | roli (d a : Reg) (sh : BitVec 5)
  /-- Writes imm19 shifted left by 13 into d (R105). -/
  | lui (d : Reg) (imm : BitVec 19)
  /-- Compares two 32-bit integers and writes a predicate (R106). -/
  | cmpI32 (p : PReg) (a b : Reg) (cond : BitVec 3)
  /-- Compares two FP32 values and writes a predicate, raising NV as tabled (R106). -/
  | cmpF32 (p : PReg) (a b : Reg) (cond : BitVec 3)
  /-- Compares two FP64 pairs and writes a predicate (R106). -/
  | cmpF64 (p : PReg) (a b : Reg) (cond : BitVec 3)
  /-- Compares two 64-bit integer pairs and writes a predicate (R106). -/
  | cmpI64 (p : PReg) (a b : Reg) (cond : BitVec 3)
  /-- Compares a with a sign-extended immediate and writes a predicate (R107). -/
  | cmpi (p : PReg) (cond : BitVec 3) (a : Reg) (imm : BitVec 13)
  /-- Writes a if the predicate holds, else b (R108). -/
  | sel (d a b : Reg) (p : PReg)
  /-- Reads a special register into d, latching CYCH on a CYC read (R110). -/
  | movs (d : Reg) (idx : BitVec 6)
  /-- ANDs two predicates (R109). -/
  | pand (d a b : PReg)
  /-- ORs two predicates (R109). -/
  | por (d a b : PReg)
  /-- XORs two predicates (R109). -/
  | pxor (d a b : PReg)
  /-- Inverts a predicate (R109). -/
  | pnot (d a : PReg)
  /-- Packs p0 to p7 into a general register (R109). -/
  | p2g (d : Reg)
  /-- Writes the predicates selected by mask b from bits of a (R109). -/
  | g2p (a b : Reg)
  /-- Adds two FP32 values rounded in FRM (R125). -/
  | fadd (d a b : Reg)
  /-- Subtracts two FP32 values rounded in FRM (R125). -/
  | fsub (d a b : Reg)
  /-- Multiplies two FP32 values rounded in FRM (R125). -/
  | fmul (d a b : Reg)
  /-- Writes minimumNumber of two FP32 values (R125). -/
  | fmin (d a b : Reg)
  /-- Writes maximumNumber of two FP32 values (R125). -/
  | fmax (d a b : Reg)
  /-- Clears the sign bit of an FP32 value (R125). -/
  | fabs (d a : Reg)
  /-- Inverts the sign bit of an FP32 value (R125). -/
  | fneg (d a : Reg)
  /-- Writes the magnitude of a with the sign of b (R125). -/
  | fsgn (d a b : Reg)
  /-- Writes the class mask of an FP32 value (R126). -/
  | fcls (d a : Reg)
  /-- Rounds an FP32 value down to an integral value (R125). -/
  | fflr (d a : Reg)
  /-- Rounds an FP32 value up to an integral value (R125). -/
  | fceil (d a : Reg)
  /-- Rounds an FP32 value to the nearest integral value, ties to even (R125). -/
  | frndn (d a : Reg)
  /-- Adds two FP64 pairs rounded in FRM (R125). -/
  | dadd (d a b : Reg)
  /-- Subtracts two FP64 pairs rounded in FRM (R125). -/
  | dsub (d a b : Reg)
  /-- Multiplies two FP64 pairs rounded in FRM (R125). -/
  | dmul (d a b : Reg)
  /-- Writes minimumNumber of two FP64 values (R125). -/
  | dmin (d a b : Reg)
  /-- Writes maximumNumber of two FP64 values (R125). -/
  | dmax (d a b : Reg)
  /-- Clears the sign bit of an FP64 value (R125). -/
  | dabs (d a : Reg)
  /-- Inverts the sign bit of an FP64 value (R125). -/
  | dneg (d a : Reg)
  /-- Writes the FP64 magnitude of a with the sign of b (R125). -/
  | dsgn (d a b : Reg)
  /-- Writes the class mask of an FP64 value into one register (R126). -/
  | dcls (d a : Reg)
  /-- Rounds an FP64 value down to an integral value (R125). -/
  | dflr (d a : Reg)
  /-- Rounds an FP64 value up to an integral value (R125). -/
  | dceil (d a : Reg)
  /-- Rounds an FP64 value to the nearest integral value, ties to even (R125). -/
  | drndn (d a : Reg)
  /-- Adds two packed FP16 pairs element by element (R127). -/
  | add2 (d a b : Reg)
  /-- Subtracts packed FP16 elements (R127). -/
  | sub2 (d a b : Reg)
  /-- Multiplies packed FP16 elements (R127). -/
  | mul2 (d a b : Reg)
  /-- Takes the element-wise minimumNumber of packed FP16 values (R127). -/
  | min2 (d a b : Reg)
  /-- Takes the element-wise maximumNumber of packed FP16 values (R127). -/
  | max2 (d a b : Reg)
  /-- Adds packed BF16 elements (R127). -/
  | add2Bf (d a b : Reg)
  /-- Subtracts packed BF16 elements (R127). -/
  | sub2Bf (d a b : Reg)
  /-- Multiplies packed BF16 elements (R127). -/
  | mul2Bf (d a b : Reg)
  /-- Takes the element-wise minimumNumber of packed BF16 values (R127). -/
  | min2Bf (d a b : Reg)
  /-- Takes the element-wise maximumNumber of packed BF16 values (R127). -/
  | max2Bf (d a b : Reg)
  /-- Computes a·b + c in FP32 with one rounding (R128). -/
  | ffma (d a b c : Reg)
  /-- Computes a·b − c in FP32 with one rounding (R128). -/
  | ffms (d a b c : Reg)
  /-- Computes a·b + c in FP64 with one rounding (R128). -/
  | dfma (d a b c : Reg)
  /-- Computes a·b − c in FP64 with one rounding (R128). -/
  | dfms (d a b c : Reg)
  /-- Computes packed FP16 a·b + c with one rounding per element (R128). -/
  | hfma (d a b c : Reg)
  /-- Computes packed BF16 a·b + c with one rounding per element (R128). -/
  | hfmaBf (d a b c : Reg)
  /-- Converts FP32 to a clamped int32 (R131). -/
  | f2i (d a : Reg) (rm : BitVec 3)
  /-- Converts FP32 to a clamped uint32 (R131). -/
  | f2u (d a : Reg) (rm : BitVec 3)
  /-- Converts int32 to FP32 (R133). -/
  | i2f (d a : Reg) (rm : BitVec 3)
  /-- Converts uint32 to FP32 (R133). -/
  | u2f (d a : Reg) (rm : BitVec 3)
  /-- Narrows FP64 to FP32 (R132). -/
  | d2f (d a : Reg) (rm : BitVec 3)
  /-- Widens FP32 to FP64 exactly (R132). -/
  | f2d (d a : Reg) (rm : BitVec 3)
  /-- Converts FP64 to a clamped int32 (R131). -/
  | d2i (d a : Reg) (rm : BitVec 3)
  /-- Converts int32 to FP64 exactly (R133). -/
  | i2d (d a : Reg) (rm : BitVec 3)
  /-- Narrows FP32 to FP16 (R132). -/
  | f2h (d a : Reg) (rm : BitVec 3)
  /-- Widens FP16 to FP32 exactly (R132). -/
  | h2f (d a : Reg) (rm : BitVec 3)
  /-- Narrows FP32 to BF16 (R132). -/
  | f2bf (d a : Reg) (rm : BitVec 3)
  /-- Widens BF16 to FP32 exactly (R132). -/
  | bf2f (d a : Reg) (rm : BitVec 3)
  /-- Converts FP64 to a clamped int64 pair (R131). -/
  | d2l (d a : Reg) (rm : BitVec 3)
  /-- Converts an int64 pair to FP64 (R133). -/
  | l2d (d a : Reg) (rm : BitVec 3)
  /-- Narrows two FP32 values to packed FP16 (R132). -/
  | f2h2 (d a : Reg) (rm : BitVec 3)
  /-- Writes 1/x rounded to 12 bits (R134). -/
  | rcp (d a : Reg)
  /-- Writes 1/√x rounded to 12 bits (R134). -/
  | rsq (d a : Reg)
  /-- Writes log2 x rounded to 16 bits (R134). -/
  | log2 (d a : Reg)
  /-- Writes 2^x rounded to 16 bits (R134). -/
  | exp2 (d a : Reg)
  /-- Writes sin 2πx rounded to 16 bits (R68). -/
  | sinr (d a : Reg)
  /-- Writes cos 2πx rounded to 16 bits (R68). -/
  | cosr (d a : Reg)
  /-- Writes FP64 1/x rounded to 24 bits (R134). -/
  | drcp (d a : Reg)
  /-- Writes FP64 1/√x rounded to 24 bits (R134). -/
  | drsq (d a : Reg)
  /-- Packs four FP32 values into E4M3 bytes (R136). -/
  | pke4 (d a b : Reg)
  /-- Packs four FP32 values into E5M2 bytes (R136). -/
  | pke5 (d a b : Reg)
  /-- Unpacks four E4M3 bytes into FP32 registers (R136). -/
  | upe4 (d a : Reg)
  /-- Unpacks four E5M2 bytes into FP32 registers (R136). -/
  | upe5 (d a : Reg)
  /-- Builds one B4 block from eight FP32 values (R137). -/
  | pkb4 (d a b : Reg)
  /-- Decodes one B4 block into eight FP32 registers (R138). -/
  | upb4 (d a : Reg)
  /-- Extracts a bit field selected by a control word (R111). -/
  | bfe (d a b : Reg)
  /-- Inserts a bit field into c under a control word (R111). -/
  | bfi (d a b c : Reg)
  /-- Copies a from the lane that b names within the set (R147). -/
  | shfl (d a b : Reg)
  /-- Copies a from the lane rotated by b within the set (R147). -/
  | rotl (d a b : Reg)
  /-- Copies a from LANE XOR b within the set (R147). -/
  | bfly (d a b : Reg)
  /-- Broadcasts a from the lane that the lowest active lane's b names (R147). -/
  | bcast (d a b : Reg)
  /-- Writes the AND of a predicate over the active lanes (R148). -/
  | voteall (d a : PReg)
  /-- Writes the OR of a predicate over the active lanes (R148). -/
  | voteany (d a : PReg)
  /-- Writes a 64-bit mask of the lanes whose predicate is true (R148). -/
  | ballot (d : Reg) (a : PReg)
  /-- Reads register gn of the micro-thread in another slot (R149). -/
  | linkr (d a num : Reg)
  /-- Writes register gn of the micro-thread in another slot (R150). -/
  | linkw (d a num : Reg)
  /-- Sums int32 values over the set (R151). -/
  | radd (d a : Reg)
  /-- Takes the signed minimum over the set (R151). -/
  | rmin (d a : Reg)
  /-- Takes the signed maximum over the set (R151). -/
  | rmax (d a : Reg)
  /-- Takes the unsigned minimum over the set (R151). -/
  | rminu (d a : Reg)
  /-- Takes the unsigned maximum over the set (R151). -/
  | rmaxu (d a : Reg)
  /-- ANDs the values of the set (R151). -/
  | rand (d a : Reg)
  /-- ORs the values of the set (R151). -/
  | ror (d a : Reg)
  /-- XORs the values of the set (R151). -/
  | rxor (d a : Reg)
  /-- Sums FP32 values of the set by a pairwise tree in RNE (R60). -/
  | rfadd (d a : Reg)
  /-- Takes minimumNumber over the active lanes (R151). -/
  | rfmin (d a : Reg)
  /-- Takes maximumNumber over the active lanes (R151). -/
  | rfmax (d a : Reg)
  /-- Computes an inclusive int32 scan over the set (R61). -/
  | sadd (d a : Reg)
  /-- Computes an exclusive int32 scan over the set (R151). -/
  | saddx (d a : Reg)
  /-- Computes a sequential FP32 inclusive scan in RNE (R61). -/
  | sfadd (d a : Reg)
  /-- Sums FP64 pairs of the set by a pairwise tree in RNE (R60). -/
  | rdadd (d a : Reg)
  /-- Clears the set's exact accumulator and its sticky bits (R152). -/
  | xclr
  /-- Adds the FP32 value of every active lane to XAC exactly (R63). -/
  | xadd (a : Reg)
  /-- Adds the exact product a×b of every active lane to XAC (R63). -/
  | xmad (a b : Reg)
  /-- Rounds XAC once to FP32 into every active lane (R64). -/
  | xrnd (d : Reg)
  /-- Rounds XAC once to FP64 into every active lane (R64). -/
  | xrndd (d : Reg)
  /-- Counts the keys common to two sorted streams (R167). -/
  | icount (d a : Reg)
  /-- Writes the intersection of two sorted streams (R167). -/
  | iwrite (d a b : Reg)
  /-- Writes the union of two sorted streams (R167). -/
  | uwrite (d a b : Reg)
  /-- Writes the merge of two sorted streams (R167). -/
  | mwrite (d a b : Reg)
  /-- Issues a load of size bytes at EA, leaving d pending until arrival (R159). -/
  | ld (d base : Reg) (size : BitVec 3) (kind : BitVec 2) (off : BitVec 8)
  /-- Places a store of d at EA in the core's store FIFO (R160). -/
  | st (d base : Reg) (size : BitVec 3) (kind : BitVec 2) (off : BitVec 8)
  /-- Atomically adds a word and returns the old value (R163). -/
  | aaddW (d a b : Reg)
  /-- Atomically ANDs a word and returns the old value (R163). -/
  | aandW (d a b : Reg)
  /-- Atomically ORs a word and returns the old value (R163). -/
  | aorW (d a b : Reg)
  /-- Atomically XORs a word and returns the old value (R163). -/
  | axorW (d a b : Reg)
  /-- Atomically takes the signed minimum of a word (R163). -/
  | aminW (d a b : Reg)
  /-- Atomically takes the signed maximum of a word (R163). -/
  | amaxW (d a b : Reg)
  /-- Atomically takes the unsigned minimum of a word (R163). -/
  | aminuW (d a b : Reg)
  /-- Atomically takes the unsigned maximum of a word (R163). -/
  | amaxuW (d a b : Reg)
  /-- Atomically swaps a word (R163). -/
  | aswapW (d a b : Reg)
  /-- Atomically compares and swaps a word (R163). -/
  | acasW (d a b : Reg)
  /-- Atomically adds an FP32 value in RNE (R163). -/
  | afaddW (d a b : Reg)
  /-- Atomically adds a doubleword (R163). -/
  | aaddD (d a b : Reg)
  /-- Atomically swaps a doubleword (R163). -/
  | aswapD (d a b : Reg)
  /-- Atomically compares and swaps a doubleword (R163). -/
  | acasD (d a b : Reg)
  /-- Atomically adds an FP64 value in RNE (R163). -/
  | afaddD (d a b : Reg)
  /-- Orders all earlier accesses before all later ones at a scope (R174). -/
  | fenceFull (scope : BitVec 3)
  /-- Holds later accesses until earlier loads are performed, dropping data lines at wide scopes (R174). -/
  | fenceAcq (scope : BitVec 3)
  /-- Holds later stores until earlier accesses except remote array stores are performed (R174). -/
  | fenceRel (scope : BitVec 3)
  /-- Holds later stores until earlier remote array stores are acknowledged (R174). -/
  | fenceRsc (scope : BitVec 3)
  /-- Posts a copy descriptor to a copy-engine channel (R244). -/
  | cpost (d a b : Reg)
  /-- Cancels the launch's copy entries in a channel when it leaves the store FIFO (R251). -/
  | ccancel (a : Reg)
  /-- Posts a gather/scatter request and returns a ticket (R338). -/
  | gpost (d a : Reg)
  /-- Returns the state and progress of a gather/scatter request (R346). -/
  | gstat (d a : Reg)
  /-- Formats a hardware queue header with its ring and capacity (R255). -/
  | qinit (d a b : Reg)
  /-- Pushes an item, linking as a waiting pusher when the queue is full (R255). -/
  | qpush (a b : Reg)
  /-- Pops an item, linking as a waiting popper when the queue is empty (R255). -/
  | qpop (d a : Reg)
  /-- Pushes an item without waiting and returns whether it was pushed (R255). -/
  | qpushn (d a b : Reg)
  /-- Pops an item without waiting and returns it with a success flag (R255). -/
  | qpopn (d a : Reg)
  /-- Returns the number of items in a queue (R254). -/
  | qcount (d a : Reg)
  /-- Sends a message that creates a micro-thread on a target core and awaits its reply (R259). -/
  | spawn (d a b : Reg)
  /-- Retires the micro-thread at the end of its figure once its conditions hold (R260). -/
  | quit
  /-- Sends one word to a micro-thread named by core, slot and generation (R261). -/
  | sendw (a b : Reg)
  /-- Takes the mailbox word, or links as its waiter (R261). -/
  | recvw (d : Reg)
  /-- Sets the COUNT of a convergence register (R222). -/
  | sign (cv : BitVec 4) (a : Reg)
  /-- Parks after the figure until its signed MMAs and MXA operations are done (R223). -/
  | cvwait (cv : BitVec 4)
  /-- Fences and records an arrival in the open episode of a level barrier (R267). -/
  | lvarr (lvl : BitVec 3)
  /-- Parks until the episode of the micro-thread's arrival completes (R267). -/
  | lvwait (lvl : BitVec 3)
  /-- Arrives at a level barrier and then waits for its completion (R267). -/
  | lvsync (lvl : BitVec 3)
  /-- Places a join entry in each engine queue the mask names (R243). -/
  | qjoin (a : Reg)
  /-- Places a signal entry in a copy channel (R265). -/
  | csig (ch : BitVec 2) (a : Reg)
  /-- Consumes an event-line latch or parks until a signal arrives (R265). -/
  | waitev (a : Reg)
  /-- Makes the next figure count as newly eligible (R265). -/
  | yield
  /-- Signs a convergence register with a format word and operand pair (R225). -/
  | mma (cv : BitVec 4) (a b : Reg) (sparse m32 ow : BitVec 1)
  /-- Queues the zeroing of an accumulator tile (R230). -/
  | accz (tile : BitVec 4)
  /-- Queues a verbatim load of a tile from the pool (R230). -/
  | accld (tile : BitVec 4) (a : Reg)
  /-- Queues a store of a tile to the pool, raw or converted (R232). -/
  | accst (tile : BitVec 4) (a b : Reg)
  /-- Queues the building of a weight-buffer image from a dense B source (R233). -/
  | wbld (d a b : Reg)
  /-- Queues the setting of a skip stream to a list (R230). -/
  | skset (sk : BitVec 2) (a b : Reg)
  /-- Posts a query record to the traversal processor (R300). -/
  | tpost (d a : Reg)
  /-- Takes hit records of one key from a hit queue for the set (R317). -/
  | hpop (d a : Reg)
  /-- Returns untaken records and live queries of a hit queue (R301). -/
  | hcount (d a : Reg)
  /-- Queues a load of decode table, walker store or hit-queue descriptor (R302). -/
  | tcfg (a b : Reg)
  /-- Cancels a live query, or all of the launch's queries (R304). -/
  | tcancel (a : Reg)
  /-- Seals or releases a code object and returns a status (R205). -/
  | mint (d a : Reg)
  /-- Does nothing and counts as a body instruction (R112). -/
  | nop
  /-- Raises the fault TRAP with the value of a (R113). -/
  | trap (a : Reg)
  /-- Raises the fault breakpoint (R113). -/
  | ebrk
  /-- Reads FFLAGS and clears the flags that a names (R114). -/
  | fstat (d a : Reg)
  /-- Returns the old FRM and sets a new rounding mode (R115). -/
  | setrm (d a : Reg)
  /-- Ends the figure and goes on to the next figure or called figure (R117). -/
  | next (aw : BitVec 8)
  /-- Branches to the off10 target when the condition holds (R117). -/
  | br (p : PReg) (sense : BitVec 1) (aw : BitVec 8) (off : BitVec 10)
  /-- Jumps to the off10 target (R117). -/
  | jmp (aw : BitVec 8) (off : BitVec 10)
  /-- Pushes the next figure address and jumps when the condition holds (R118). -/
  | call (p : PReg) (sense : BitVec 1) (aw : BitVec 8) (off : BitVec 10)
  /-- Pops a return figure address when the condition holds (R118). -/
  | ret (p : PReg) (sense : BitVec 1) (aw : BitVec 8)
  /-- Enters free mode at the target when the condition holds (R27). -/
  | run (p : PReg) (sense : BitVec 1) (aw : BitVec 8) (off : BitVec 10)
  /-- Enters called mode when the condition holds (R27). -/
  | stop (p : PReg) (sense : BitVec 1) (aw : BitVec 8)
  /-- Transfers to a far target given as an offset in the extension word (R83). -/
  | farOffset (aw : BitVec 8) (sense : BitVec 1) (p : BitVec 3) (off : BitVec 25)
  /-- Transfers to the figure address held in a register named by the extension word (R83). -/
  | farRegister (aw : BitVec 8) (sense : BitVec 1) (p : BitVec 3) (r : BitVec 6)
  /-- 16-bit move of b into d (R84). -/
  | mov16 (d : Reg) (b : BitVec 5)
  /-- 16-bit form of ADD d, d, b (R84). -/
  | add16 (d : Reg) (b : BitVec 5)
  /-- 16-bit form of SUB d, d, b (R84). -/
  | sub16 (d : Reg) (b : BitVec 5)
  /-- 16-bit form of AND d, d, b (R84). -/
  | and16 (d : Reg) (b : BitVec 5)
  /-- 16-bit form of OR d, d, b (R84). -/
  | or16 (d : Reg) (b : BitVec 5)
  /-- 16-bit form of XOR d, d, b (R84). -/
  | xor16 (d : Reg) (b : BitVec 5)
  /-- 16-bit form of SLL d, d, b (R84). -/
  | sll16 (d : Reg) (b : BitVec 5)
  /-- 16-bit form of SRL d, d, b (R84). -/
  | srl16 (d : Reg) (b : BitVec 5)
  /-- 16-bit form of SRA d, d, b (R84). -/
  | sra16 (d : Reg) (b : BitVec 5)
  /-- 16-bit form of ADDI d, d, imm5 (R84). -/
  | addi16 (d : Reg) (imm : BitVec 5)
  /-- 16-bit form of MUL d, d, b (R84). -/
  | mul16 (d : Reg) (b : BitVec 5)
  /-- 16-bit form of FADD d, d, b (R84). -/
  | fadd16 (d : Reg) (b : BitVec 5)
  /-- 16-bit form of FSUB d, d, b (R84). -/
  | fsub16 (d : Reg) (b : BitVec 5)
  /-- 16-bit form of FMUL d, d, b (R84). -/
  | fmul16 (d : Reg) (b : BitVec 5)
  /-- 16-bit form of FMIN d, d, b (R84). -/
  | fmin16 (d : Reg) (b : BitVec 5)
  /-- 16-bit form of FMAX d, d, b (R84). -/
  | fmax16 (d : Reg) (b : BitVec 5)
  /-- Sets NODE and starts reading a node into the query's buffer (R308). -/
  | nfetch (a : WReg) (kind : BitVec 2)
  /-- Decodes the buffered node into n0 to n7 with a decode entry (R310). -/
  | ndec (ent : BitVec 4)
  /-- Tests the ray against the node's eight child boxes (R311). -/
  | box8 (d : WReg)
  /-- Tests the ray exactly against a triangle in the node (R312). -/
  | tri (d a : WReg)
  /-- Writes the signed distance of a query scalar to a split value (R313). -/
  | split (d a b : WReg)
  /-- Counts the node keys at or below a key (R313). -/
  | kcmp (d a b : WReg)
  /-- Computes a squared distance to a point in the node (R313). -/
  | dist (d a b : WReg)
  /-- Reads a child pointer of the decoded node (R313). -/
  | child (d a : WReg)
  /-- Pushes two words onto the query's short stack, spilling if full (R314). -/
  | push (a b : WReg)
  /-- Pops two words from the short stack, refilling from the spill area (R314). -/
  | pop (d b : WReg)
  /-- Inserts a candidate into the k-best list and returns the bound (R319). -/
  | kbest (d a b : WReg)
  /-- Appends a hit record to the query's hit queue (R315). -/
  | emit (a b : WReg) (imm : BitVec 11)
  /-- Sends a sub-query for a REMOTE pointer to the twin (R320). -/
  | handoff (a : WReg)
  /-- Ends the walk and enters drain (R316). -/
  | walkEnd
  /-- Writes a sign-extended immediate to a walker register (R307). -/
  | movi (d : WReg) (imm : BitVec 11)
  /-- Copies one walker register to another (R307). -/
  | walkMov (d a : WReg)
  /-- Adds two walker registers modulo 2^32 (R307). -/
  | walkAdd (d a b : WReg)
  /-- Subtracts two walker registers modulo 2^32 (R307). -/
  | walkSub (d a b : WReg)
  /-- Adds two walker registers in FP32 RNE (R307). -/
  | walkFadd (d a b : WReg)
  /-- Multiplies two walker registers in FP32 RNE (R307). -/
  | walkFmul (d a b : WReg)
  /-- Writes minimumNumber of two walker registers (R307). -/
  | walkFmin (d a b : WReg)
  /-- Writes maximumNumber of two walker registers (R307). -/
  | walkFmax (d a b : WReg)
  /-- Compares two walker registers as integers and writes 1 or 0 (R307). -/
  | walkCmpI32 (d a b : WReg) (cond : BitVec 4)
  /-- Compares two walker registers as FP32 and writes 1 or 0 (R307). -/
  | walkCmpF32 (d a b : WReg) (cond : BitVec 4)
  /-- Branches by a signed offset when a walker register is non-zero (R307). -/
  | walkBr (a : WReg) (imm : BitVec 11)
  /-- Jumps by a signed offset in the walker store (R307). -/
  | walkJmp (imm : BitVec 11)
  /-- Queues a figure to the called micro-threads a selector names and returns their count (R195). -/
  | figCall (rd rs1 rs2 : XReg)
  /-- Stalls the caller until CALLED holds or an enabled event is pending (R196). -/
  | figWait (rd : XReg)
  /-- Stalls until the selected micro-threads are idle, retired or faulted (R196). -/
  | figSync (rd rs1 : XReg)
  /-- Computes a grant from a request and recuts the sets if it changes (R197). -/
  | figSetw (rd rs1 : XReg)
  /-- Creates micro-threads of a budget and role in slots of the launch (R198). -/
  | figAlloc (rd rs1 rs2 : XReg)
  /-- Reads a register window entry of a micro-thread (R199). -/
  | figRdreg (rd rs1 : XReg)
  /-- Writes a register window entry of a faulted micro-thread (R199). -/
  | figWrreg (rd rs1 rs2 : XReg)
  /-- Retries, skips or retires a faulted micro-thread (R200). -/
  | figResume (rd rs1 rs2 : XReg)
  /-- Reads half of the oldest caller-mailbox entry, removing it on the second half (R201). -/
  | figMbox (rd rs1 : XReg)
  /-- Returns and clears the pending enabled events (R201). -/
  | figEvent (rd : XReg)
  /-- Posts a launch record to the die scheduler and returns its identifier (R388). -/
  | figLaunch (rd rs1 : XReg)
  /-- Moves the oldest inbox entries into the scratchpad (R202). -/
  | figInbox (rd rs1 rs2 : XReg)
  /-- Offers saved entries to the inbox through the loop-back port (R202). -/
  | figReplay (rd rs1 rs2 : XReg)
  /-- A stalled FIG.CALL, FIG.WAIT or FIG.SYNC completes once its condition holds (R196). -/
  | xfigStallComplete (core launch : Nat)
  /-- A caller load accesses a pool or global memory like a core access (R191). -/
  | callerLoad (c : Bool) (width : LoadWidth) (rd rs1 : XReg) (imm : BitVec 12)
  /-- A caller store enters the core's store FIFO (R191). -/
  | callerStore (c : Bool) (width : StoreWidth) (rs1 rs2 : XReg) (imm : BitVec 12)
  /-- A caller AMO is performed at the home or owning port (R191). -/
  | callerAmo (op : AmoOp) (dbl aq rl : Bool) (rd rs1 rs2 : XReg)
  /-- A caller LR reserves a 64-byte line at its home or owning port (R191). -/
  | callerLr (dbl aq rl : Bool) (rd rs1 : XReg)
  /-- A caller SC succeeds only if nothing wrote the reserved line since the LR (R191). -/
  | callerSc (dbl aq rl : Bool) (rd rs1 rs2 : XReg)
  /-- A RISC-V FENCE acts as a full system fence with remote-store completion (R191). -/
  | callerFence
  /-- FENCE.I makes the caller's fetches see its earlier stores (R191). -/
  | callerFenceI
  /-- ECALL with a7 = 0x58 returns from the event handler (R193). -/
  | handlerReturn
  /-- ECALL with a7 = 0x59 ends the caller's part of the launch (R397). -/
  | callerEnd
  /-- A write of xfg_events sets the event enable mask (R192). -/
  | xfgEventsWrite (op : CsrOp) (rd : XReg) (src : CsrSrc)
  /-- A write of xfg_fhandler stores the handler address with bit 0 cleared (R192). -/
  | xfgFhandlerWrite (op : CsrOp) (rd : XReg) (src : CsrSrc)
  /-- A write of xfg_fsup names the supervisor caller, refused outside the rectangle (R192). -/
  | xfgFsupWrite (op : CsrOp) (rd : XReg) (src : CsrSrc)
  /-- A write to a CSR or device register with no row of its own, refused where read-only or illegal (R385). -/
  | registerWrite (target : RegWrite)
  /-- An enabled pending event interrupts the caller and enters its handler (R193). -/
  | eventInterrupt (core launch : Nat)
  /-- A U-mode exception traps to the S-mode supervisor, which resolves it or fails the launch (R280). -/
  | callerException (core launch : Nat)
  /-- An S-mode exception halts and saves every resident launch and reports the core (R281). -/
  | corePark (core : Nat)
  /-- The management harts reset a parked core (R281). -/
  | coreReset (core : Nat)
  /-- The picker fills a free rotation slot with an issue group of a launch (R179). -/
  | rotationSlotFill (core port rot : Nat)
  /-- Missing code lines arrive for a waiting group, or the fetch faults (R182). -/
  | codeFetchArrival (core port rot : Nat)
  /-- A created micro-thread finishes initialisation and becomes called or free (R29). -/
  | microthreadInitComplete (core slot : Nat)
  /-- A long-latency result writes its destinations and clears their pending bits (R169). -/
  | longLatencyResult (flight : Nat) (response : Response)
  /-- A fault found after issue faults the micro-thread before its next figure (R169). -/
  | deferredFault (core slot : Nat)
  /-- A fault message is posted to the supervisor caller's mailbox when it has room (R277). -/
  | faultMessagePost (core slot : Nat)
  /-- A parked QUIT retires its micro-thread once its conditions come to hold (R260). -/
  | quitRetire (core slot : Nat)
  /-- Every 1,024 cycles each launch's budget counter is refilled up to CEIL (R187). -/
  | budgetRefill (core : Nat)
  /-- The oldest entry leaves the core's store FIFO and is sent or performed (R270). -/
  | storeFifoExit (core : Nat)
  /-- An acknowledgement of a remote array or global store reaches the issuer (R174). -/
  | storeAck (flight : Nat)
  /-- An array load request is checked and performed at the owning port (R157). -/
  | owningPortLoad (flight : Nat)
  /-- An array store request is checked and performed at the owning port (R157). -/
  | owningPortStore (flight : Nat)
  /-- An array atomic is performed at the owning port in its total order (R164). -/
  | owningPortAtomic (flight : Nat)
  /-- A global access reaching its TLU is translated by a Sv48 walk (R376). -/
  | tluTranslation (flight : Nat)
  /-- The DSC writes an arriving fault record into the partition's ring or refuses it (R378). -/
  | faultRecordArrival (tlu : Nat)
  /-- A global read or fill is performed at its home (R357). -/
  | homeRead (flight : Nat)
  /-- A global store is performed at its home and acknowledged (R359). -/
  | homeStore (src : StoreSource)
  /-- A global atomic is performed at its home in its total order (R164). -/
  | homeAtomic (flight : Nat)
  /-- A fill arrives at the cluster cache and is allocated or delivered (R328). -/
  | cacheFillArrival (flight : Nat)
  /-- The home acknowledges a write-through buffer entry, which leaves the buffer (R329). -/
  | writeThroughAck (flight : Nat)
  /-- A wake message reissues every access parked on its page at the core (R282). -/
  | wakeMessage (core asid page : Nat)
  /-- The array performs a queued MMA on its tile (R227). -/
  | mmaPerform (core : Nat)
  /-- The array zeroes a tile (R230). -/
  | acczPerform (core : Nat)
  /-- The array loads a tile verbatim from the pool (R230). -/
  | accldPerform (core : Nat)
  /-- The array stores a tile to the pool, raw or converted (R232). -/
  | accstPerform (core : Nat)
  /-- The array builds a weight-buffer image and writes its report word (R233). -/
  | wbldPerform (core : Nat)
  /-- The array sets a skip stream to its list (R230). -/
  | sksetPerform (core : Nat)
  /-- A join entry releases its queues once all entries ahead of it are performed (R243). -/
  | joinPass (core join : Nat)
  /-- A channel reads and checks a copy descriptor, refusing it on a breach (R246). -/
  | copyStart (core ch : Nat)
  /-- A channel reads one element and writes it to the destination (R247). -/
  | copyElement (core ch : Nat) (subtract : Bool)
  /-- A copy ends and sends its status, signalling an event line if asked (R249). -/
  | copyEnd (core ch : Nat)
  /-- A CSIG signal entry reaches the head of its channel and signals its line (R265). -/
  | signalEntryPerform (core ch : Nat)
  /-- A SPAWN message creates a micro-thread in a retired slot or bounces (R259). -/
  | spawnArrival (core src : Nat)
  /-- A SENDW word is delivered, queued in the inbox, or discarded as stale (R261). -/
  | wordArrival (core src : Nat)
  /-- A bounce returns 0xFFFF_FFFF to the sender's mailbox (R261). -/
  | bounceArrival (core src : Nat)
  /-- A signal sets an event-line latch and wakes the micro-threads parked on it (R265). -/
  | eventSignal (core : Nat)
  /-- A core's arrival reaches the level home, which summons or completes the episode (R268). -/
  | levelArrival (core : Nat)
  /-- A summons reaches a core, which sends its arrival when its part is complete (R268). -/
  | levelSummons (core : Nat)
  /-- A completion wakes a core's waiters and opens the next episode (R268). -/
  | levelCompletion (core : Nat)
  /-- A TPOST entry at the head of the query queue is checked and admitted when an entry is free (R300). -/
  | queryAdmission (core : Nat)
  /-- A TCFG is performed once earlier queries of its launch have ended (R302). -/
  | tcfgPerform (core : Nat)
  /-- Node lines arrive in a query's buffer, or the fetch faults (R308). -/
  | nodeFetchArrival (core entry : Nat)
  /-- A record waiting in hit wait is appended when a ring slot frees (R315). -/
  | hitAppend (core entry : Nat)
  /-- A query completes its list and appends its DONE record after drain (R316). -/
  | queryDone (core entry : Nat)
  /-- The engine reads and checks a gather/scatter descriptor (R340). -/
  | gteRequestStart (core : Nat)
  /-- The engine probes a page's translation before issuing its accesses (R343). -/
  | gteProbe (core : Nat)
  /-- The engine reads a table element and writes it to DATA (R341). -/
  | gteGather (core : Nat)
  /-- The engine reads a DATA element and stores it to the table (R341). -/
  | gteScatter (core : Nat)
  /-- The engine adds a DATA element to a table location atomically (R341). -/
  | gteSadd (core : Nat)
  /-- The engine adds a DATA element in floating point atomically (R341). -/
  | gteSfadd (core : Nat)
  /-- The engine takes a minimum into a table location atomically (R341). -/
  | gteSmin (core : Nat)
  /-- The engine takes a maximum into a table location atomically (R341). -/
  | gteSmax (core : Nat)
  /-- The engine drops node lines of a range in one or every cluster (R347). -/
  | gteNinv (core : Nat)
  /-- A request writes STATUS and N and signals its line (R345). -/
  | gteRequestEnd (core : Nat)
  /-- A core receiving a pre-emption request halts the launch's parts (R285). -/
  | preemptionRequest (core launch : Nat)
  /-- After the halt the core drains, records and writes the context image (R287). -/
  | contextSave (core launch : Nat)
  /-- A saved context is checked, restored, replayed and restarted on its core (R295). -/
  | contextResume (core launch : Nat)
  /-- A host write of TAIL to a doorbell publishes new queue entries (R386). -/
  | doorbellWrite (q : Nat) (tail : Word)
  /-- The DSC takes one host queue entry, checks its record and writes STATE (R386). -/
  | hostQueueTake
  /-- The DSC places the first waiting launch on the least fitting rectangle (R391). -/
  | dispatchPlacement (p : Nat)
  /-- The DSC pre-empts lower-priority launches to make room for the first waiting one (R393). -/
  | preemptionDecision (p : Nat)
  /-- The DSC resumes a saved launch once its cores fit it again (R395). -/
  | resumeDecision (p : Nat)
  /-- A full spill ring makes the DSC clear the way and resume its launch first (R396). -/
  | forcedResume (p : Nat)
  /-- The DSC collects idle bits and message counts of a launch's cores (R398). -/
  | terminationSweep (launch : Nat)
  /-- At each window end the DSC judges every host queue and flags hung ones (R401). -/
  | watchdogWindow (p : Nat)
  /-- The management harts abort a launch after a core was parked (R403). -/
  | managementAbort (launch : Nat)
  /-- The host answers a fault record, waking or refusing parked accesses (R379). -/
  | faultrespWrite (v : DWord)
  /-- The host records consumed fault records, letting refused records be offered again (R378). -/
  | faultheadWrite (p : Nat) (v : Word)
  /-- The host starts a shoot-down of an ASID range (R380). -/
  | shootgoWrite (v : DWord)
  /-- A shoot-down becomes done and DONE and INTSTAT are set (R380). -/
  | shootdownDone
  /-- The host clears INTSTAT bits by writing ones (R385). -/
  | intstatClear (v : DWord)
  /-- Management harts configure a partition, refused if cluster masks overlap (R400). -/
  | pcfgWrite (p : Nat) (v : Line)
  /-- A management read of a pool or WB word at the pool port (R432). -/
  | managementPoolRead (core off : Nat)
  /-- A management write into a core window, discarded while a launch is resident or saved (R432). -/
  | managementPoolWrite (core off : Nat) (data : DWord)
  /-- Reset starts the boot sequence from the RTC mask ROM to READY (R437). -/
  | moduleReset (boot : BootInput)
  /-- Management harts set the board power limit, discarded out of range (R433). -/
  | plimitWrite (v : DWord)
  /-- At each 1 ms window end the throttle level moves by PWR against PLIMIT (R434). -/
  | powerWindow (pwr : Half)
  /-- At 105 °C the firmware stops placing and resuming launches (R435). -/
  | thermalStop (temp : Half)
  /-- At 115 °C a hardware trip holds the SoC in reset (R435). -/
  | thermalTrip (temp : Half)
  /-- The G7 controllers read and correct every word once every 24 hours (R441). -/
  | patrolScrub (pa : Nat)
  /-- Extends MR4 to MR7 with 64 bytes (R438). -/
  | rtcExtend (sender : Sender) (idx : BitVec 3) (data : Line)
  /-- Starts a signed attestation report over a nonce (R440). -/
  | rtcAttestationReport (sender : Sender) (nonce : BitVec 256)
  /-- The signed attestation report is complete and returned (R440). -/
  | rtcAttestationDone
  /-- Returns the BOOTSTAT word (R438). -/
  | rtcReadBootstat (sender : Sender)
  /-- Raises an SVN floor to the value in use (R438). -/
  | rtcRaiseSvn (sender : Sender)
  /-- Extends MR3 before READY at the management harts' request (R438). -/
  | rtcExtendMr3 (sender : Sender) (data : Line)
  /-- Writing 1 to SNAPGO latches every block's snapshot registers (R443). -/
  | snapgoWrite (v : DWord)
  /-- Writing 0 to HELD re-arms the snapshot trigger (R443). -/
  | snapstatWrite (v : DWord)
  /-- The debug connector triggers a snapshot when enabled (R443). -/
  | debugSnapshotTrigger
  /-- The UALink trains and the modules take their card numbers (R446). -/
  | linkTraining (own twin : DWord)
  /-- Management harts request retraining of the link (R448). -/
  | pairctlRetrain (v : DWord)
  /-- The link is declared down or a lane loses lock, and the pair is torn down (R459). -/
  | linkDown
  /-- A request or HQ unanswered for 1 ms counts as link loss (R459). -/
  | linkResponseTimeout
  /-- A read, write or atomic request from the twin is performed at the owning port (R450). -/
  | twinRequestArrival (req : TwinRequest)
  /-- The twin's station takes an HQ into its buffer and answers HACK (R454). -/
  | hqArrival (msg : HqMsg)
  /-- A buffered sub-query is admitted when a query entry is free, or refused (R454). -/
  | subqueryAdmission
  /-- A HACK confirms that the twin took an HQ (R459). -/
  | hackArrival (tag : Word) (h : Nat)
  /-- A returned HIT is appended to the origin's hit queue or discarded (R456). -/
  | hitArrival (tag : Word) (h seq : Nat) (rec : List Byte)
  /-- A returned HEND merges K-best entries and closes the hand-off (R456). -/
  | hendArrival (msg : HendMsg)
  /-- An HCAN stops a sub-query at its next walker boundary (R457). -/
  | hcanArrival (origin : Nat) (tag : Word) (h : Nat)
  /-- A SCHED message carries a scheduling act between the two DSCs (R447). -/
  | schedArrival (act : SchedAct)
  /-- The caller executes an ordinary RV64IMAC integer, branch, jump or CSR-read instruction that has no row of its own (R190). -/
  | callerInstruction (c : Bool) (op : RvOp)
  /-- An admitted reserved encoding, for example major 0x00, executes and raises illegal instruction each time (R90). -/
  | reservedEncoding (w : Word)
  /-- A query executes the walker word 0x0000_0000 and ends with error 1 (R306). -/
  | unloadedWalkerSlot
  /-- TEMP falls below 95 °C and the firmware again places and resumes launches (R435). -/
  | thermalResume (temp : Half)
  /-- Board power is lost and all device state is lost (R435). -/
  | powerLoss
  /-- A cluster that no partition uses is power-gated, dropping every cache line (R350). -/
  | clusterPowerGating (cl : Nat)
  /-- A power-gated cluster returns with an empty cache, an idle engine and clear event latches (R350). -/
  | clusterPowerRestore (cl : Nat)
  /-- A UALink request of a type outside the supported subset is dropped and counted in LATE (R445). -/
  | twinUnsupportedRequest
  /-- An RTC mailbox request with an undefined code or from a disallowed sender returns status 0xFF and changes nothing (R438). -/
  | rtcUnknownRequest (sender : Sender) (code : Nat)
  deriving DecidableEq, Repr, Inhabited

/-- A soft error (R283, R350): a bit, or two, of a word of memory, of a general register, of a line of a cluster cache, of a code
cache or of the system cache, or of a gather/scatter request's state. -/
inductive Upset where
  | word (address : Nat) (double : Bool)
  | register (core slot : Nat) (reg : Reg) (double : Bool)
  | line (cluster asid vline : Nat) (node double : Bool)
  | code (core asid vline : Nat) (double : Bool)
  | slice (address : Nat) (double : Bool)
  | request (core : Nat)
  deriving DecidableEq, Repr, Inhabited

/-- Who or what moves in one step: the group in a rotation slot, a launch's caller on a core, a query's
walker, an event of the table, or a soft error (log 5, log 9, log 35). -/
inductive Turn where
  | issue (core port rot : Nat)
  | caller (core launch : Nat)
  | walker (core entry : Nat)
  | event (i : Instr)
  | upset (u : Upset)
  /-- the supervisor of a core, firmware that the spec gives by what it does, meets an exception in S-mode (R281; log 78) -/
  | supervisor (core launch cause : Nat) (pc tval : DWord)
  deriving DecidableEq, Repr, Inhabited

end Sys2Proof
end

