-- ==== Sys2Proof/WellFormed.lean ====
section
/-!
DEFINITION. Which instructions are encodings the spec defines: the operand-code, group and field rules
R76-R78, R80, R86 and R307, with register codes judged against 56 as R87 judges them (a code against the
budget is judged where the instruction executes).
-/

namespace Sys2Proof

/-- An even register code names a pair (R16, R77). -/
def isPair (r : Reg) : Bool := r.extractLsb' 0 1 == 0#1

/-- A group of 4 starts at a multiple of 4 (R77). -/
def isGroup4 (r : Reg) : Bool := r.extractLsb' 0 2 == 0#2

/-- A group of 8 starts at a multiple of 8 (R77). -/
def isGroup8 (r : Reg) : Bool := r.extractLsb' 0 3 == 0#3

/-- A code 0-55 names a general register (R76); LINKR and LINKW take no other (R149). -/
def isGeneral (r : Reg) : Bool := r.ult 56#6

/-- A rounding field of CVT is 0-4 or 7 (R86, R130). -/
def isRounding (rm : BitVec 3) : Bool := rm.ult 5#3 || rm == 7#3

/-- A special-register index of MOVS is 0-30 (R19). -/
def isSpecial (i : BitVec 6) : Bool := i.ult 31#6

/-- A fence scope is 0-6 (R86, R173). -/
def isScope (s : BitVec 3) : Bool := s != 7#3

/-- Sizes of LD: 7 is reserved (R80). -/
def loadSize (z : BitVec 3) : Bool := z != 7#3

/-- Sizes of ST: 1, 3 and 7 are reserved (R80). -/
def storeSize (z : BitVec 3) : Bool := z != 7#3 && z != 1#3 && z != 3#3

/-- Kinds of LD and ST: 3 is reserved (R80). -/
def accessKind (k : BitVec 2) : Bool := k != 3#2

/-- The data operand of LD and ST is a pair at size d and a group of 4 at size q (R80, R159). -/
def sizeGroup (z : BitVec 3) (d : Reg) : Bool :=
  if z == 5#3 then isPair d else if z == 6#3 then isGroup4 d else true

/-- A walker destination is a writable code, 0-28 (R307). -/
def isWalkDest (d : WReg) : Bool := d.ult 29#5

/-- A walker CMP condition is 0-7 (R307). -/
def isWalkCond (c : BitVec 4) : Bool := c.ult 8#4

/-- The well-formed instructions (R77, R78, R80, R86, R149, R307). An event of the device has no
encoding and no field rule. -/
def Instr.wf : Instr → Bool
  | .add _ _ _ => true
  | .sub _ _ _ => true
  | .and _ _ _ => true
  | .or _ _ _ => true
  | .xor _ _ _ => true
  | .andn _ _ _ => true
  | .sll _ _ _ => true
  | .srl _ _ _ => true
  | .sra _ _ _ => true
  | .rol _ _ _ => true
  | .min _ _ _ => true
  | .max _ _ _ => true
  | .minu _ _ _ => true
  | .maxu _ _ _ => true
  | .mul _ _ _ => true
  | .mulh _ _ _ => true
  | .mulhu _ _ _ => true
  | .adds _ _ _ => true
  | .subs _ _ _ => true
  | .clz _ _ => true
  | .ctz _ _ => true
  | .popc _ _ => true
  | .brev _ _ => true
  | .addD d a b => isPair d && isPair a && isPair b
  | .subD d a b => isPair d && isPair a && isPair b
  | .mulWD d _ _ => isPair d
  | .muluWD d _ _ => isPair d
  | .addi _ _ _ => true
  | .andi _ _ _ => true
  | .ori _ _ _ => true
  | .xori _ _ _ => true
  | .muli _ _ _ => true
  | .slli _ _ _ => true
  | .srli _ _ _ => true
  | .srai _ _ _ => true
  | .roli _ _ _ => true
  | .lui _ _ => true
  | .cmpI32 _ _ _ _ => true
  | .cmpF32 _ _ _ _ => true
  | .cmpF64 _ a b _ => isPair a && isPair b
  | .cmpI64 _ a b _ => isPair a && isPair b
  | .cmpi _ _ _ _ => true
  | .sel _ _ _ _ => true
  | .movs _ idx => isSpecial idx
  | .pand _ _ _ => true
  | .por _ _ _ => true
  | .pxor _ _ _ => true
  | .pnot _ _ => true
  | .p2g _ => true
  | .g2p _ _ => true
  | .fadd _ _ _ => true
  | .fsub _ _ _ => true
  | .fmul _ _ _ => true
  | .fmin _ _ _ => true
  | .fmax _ _ _ => true
  | .fabs _ _ => true
  | .fneg _ _ => true
  | .fsgn _ _ _ => true
  | .fcls _ _ => true
  | .fflr _ _ => true
  | .fceil _ _ => true
  | .frndn _ _ => true
  | .dadd d a b => isPair d && isPair a && isPair b
  | .dsub d a b => isPair d && isPair a && isPair b
  | .dmul d a b => isPair d && isPair a && isPair b
  | .dmin d a b => isPair d && isPair a && isPair b
  | .dmax d a b => isPair d && isPair a && isPair b
  | .dabs d a => isPair d && isPair a
  | .dneg d a => isPair d && isPair a
  | .dsgn d a b => isPair d && isPair a && isPair b
  | .dcls _ a => isPair a
  | .dflr d a => isPair d && isPair a
  | .dceil d a => isPair d && isPair a
  | .drndn d a => isPair d && isPair a
  | .add2 _ _ _ => true
  | .sub2 _ _ _ => true
  | .mul2 _ _ _ => true
  | .min2 _ _ _ => true
  | .max2 _ _ _ => true
  | .add2Bf _ _ _ => true
  | .sub2Bf _ _ _ => true
  | .mul2Bf _ _ _ => true
  | .min2Bf _ _ _ => true
  | .max2Bf _ _ _ => true
  | .ffma _ _ _ _ => true
  | .ffms _ _ _ _ => true
  | .dfma d a b c => isPair d && isPair a && isPair b && isPair c
  | .dfms d a b c => isPair d && isPair a && isPair b && isPair c
  | .hfma _ _ _ _ => true
  | .hfmaBf _ _ _ _ => true
  | .f2i _ _ rm => isRounding rm
  | .f2u _ _ rm => isRounding rm
  | .i2f _ _ rm => isRounding rm
  | .u2f _ _ rm => isRounding rm
  | .d2f _ a rm => isRounding rm && isPair a
  | .f2d d _ rm => isRounding rm && isPair d
  | .d2i _ a rm => isRounding rm && isPair a
  | .i2d d _ rm => isRounding rm && isPair d
  | .f2h _ _ rm => isRounding rm
  | .h2f _ _ rm => isRounding rm
  | .f2bf _ _ rm => isRounding rm
  | .bf2f _ _ rm => isRounding rm
  | .d2l d a rm => isRounding rm && isPair d && isPair a
  | .l2d d a rm => isRounding rm && isPair d && isPair a
  | .f2h2 _ a rm => isRounding rm && isPair a
  | .rcp _ _ => true
  | .rsq _ _ => true
  | .log2 _ _ => true
  | .exp2 _ _ => true
  | .sinr _ _ => true
  | .cosr _ _ => true
  | .drcp d a => isPair d && isPair a
  | .drsq d a => isPair d && isPair a
  | .pke4 _ a _ => isGroup4 a
  | .pke5 _ a _ => isGroup4 a
  | .upe4 d _ => isGroup4 d
  | .upe5 d _ => isGroup4 d
  | .pkb4 d a _ => isPair d && isGroup8 a
  | .upb4 d a => isGroup8 d && isPair a
  | .bfe _ _ _ => true
  | .bfi _ _ _ _ => true
  | .shfl _ _ _ => true
  | .rotl _ _ _ => true
  | .bfly _ _ _ => true
  | .bcast _ _ _ => true
  | .voteall _ _ => true
  | .voteany _ _ => true
  | .ballot d _ => isPair d
  | .linkr _ _ num => isGeneral num
  | .linkw _ _ num => isGeneral num
  | .radd _ _ => true
  | .rmin _ _ => true
  | .rmax _ _ => true
  | .rminu _ _ => true
  | .rmaxu _ _ => true
  | .rand _ _ => true
  | .ror _ _ => true
  | .rxor _ _ => true
  | .rfadd _ _ => true
  | .rfmin _ _ => true
  | .rfmax _ _ => true
  | .sadd _ _ => true
  | .saddx _ _ => true
  | .sfadd _ _ => true
  | .rdadd d a => isPair d && isPair a
  | .xclr => true
  | .xadd _ => true
  | .xmad _ _ => true
  | .xrnd _ => true
  | .xrndd d => isPair d
  | .icount _ a => isGroup8 a
  | .iwrite _ a b => isGroup8 a && isGroup4 b
  | .uwrite _ a b => isGroup8 a && isGroup4 b
  | .mwrite _ a b => isGroup8 a && isGroup4 b
  | .ld d base size kind _ => isPair base && loadSize size && accessKind kind && sizeGroup size d
  | .st d base size kind _ => isPair base && storeSize size && accessKind kind && sizeGroup size d
  | .aaddW _ a _ => isPair a
  | .aandW _ a _ => isPair a
  | .aorW _ a _ => isPair a
  | .axorW _ a _ => isPair a
  | .aminW _ a _ => isPair a
  | .amaxW _ a _ => isPair a
  | .aminuW _ a _ => isPair a
  | .amaxuW _ a _ => isPair a
  | .aswapW _ a _ => isPair a
  | .acasW _ a b => isPair a && isPair b
  | .afaddW _ a _ => isPair a
  | .aaddD d a b => isPair d && isPair a && isPair b
  | .aswapD d a b => isPair d && isPair a && isPair b
  | .acasD d a b => isPair d && isPair a && isGroup4 b
  | .afaddD d a b => isPair d && isPair a && isPair b
  | .fenceFull scope => isScope scope
  | .fenceAcq scope => isScope scope
  | .fenceRel scope => isScope scope
  | .fenceRsc scope => isScope scope
  | .cpost d _ _ => isPair d
  | .ccancel _ => true
  | .gpost _ _ => true
  | .gstat d _ => isPair d
  | .qinit _ a _ => isPair a
  | .qpush a _ => isPair a
  | .qpop _ a => isPair a
  | .qpushn _ a _ => isPair a
  | .qpopn d a => isPair d && isPair a
  | .qcount _ a => isPair a
  | .spawn _ a b => isGroup4 a && isPair b
  | .quit => true
  | .sendw _ b => isPair b
  | .recvw _ => true
  | .sign _ _ => true
  | .cvwait _ => true
  | .lvarr _ => true
  | .lvwait _ => true
  | .lvsync _ => true
  | .qjoin _ => true
  | .csig _ _ => true
  | .waitev _ => true
  | .yield => true
  | .mma _ _ b _ _ _ => isPair b
  | .accz _ => true
  | .accld _ _ => true
  | .accst _ _ _ => true
  | .wbld d _ _ => isPair d
  | .skset _ _ _ => true
  | .tpost d _ => isPair d
  | .hpop d _ => isGroup8 d
  | .hcount d _ => isPair d
  | .tcfg _ _ => true
  | .tcancel _ => true
  | .mint d a => isPair d && isGroup8 a
  | .nop => true
  | .trap _ => true
  | .ebrk => true
  | .fstat _ _ => true
  | .setrm _ _ => true
  | .next _ => true
  | .br _ _ _ _ => true
  | .jmp _ _ => true
  | .call _ _ _ _ => true
  | .ret _ _ _ => true
  | .run _ _ _ _ => true
  | .stop _ _ _ => true
  | .farOffset _ _ _ _ => true
  | .farRegister _ _ _ _ => true
  | .mov16 _ _ => true
  | .add16 _ _ => true
  | .sub16 _ _ => true
  | .and16 _ _ => true
  | .or16 _ _ => true
  | .xor16 _ _ => true
  | .sll16 _ _ => true
  | .srl16 _ _ => true
  | .sra16 _ _ => true
  | .addi16 _ _ => true
  | .mul16 _ _ => true
  | .fadd16 _ _ => true
  | .fsub16 _ _ => true
  | .fmul16 _ _ => true
  | .fmin16 _ _ => true
  | .fmax16 _ _ => true
  | .nfetch _ _ => true
  | .ndec _ => true
  | .box8 d => isWalkDest d
  | .tri d _ => isWalkDest d
  | .split d _ _ => isWalkDest d
  | .kcmp d _ _ => isWalkDest d
  | .dist d _ _ => isWalkDest d
  | .child d _ => isWalkDest d
  | .push _ _ => true
  | .pop d b => isWalkDest d && isWalkDest b
  | .kbest d _ _ => isWalkDest d
  | .emit _ _ _ => true
  | .handoff _ => true
  | .walkEnd => true
  | .movi d _ => isWalkDest d
  | .walkMov d _ => isWalkDest d
  | .walkAdd d _ _ => isWalkDest d
  | .walkSub d _ _ => isWalkDest d
  | .walkFadd d _ _ => isWalkDest d
  | .walkFmul d _ _ => isWalkDest d
  | .walkFmin d _ _ => isWalkDest d
  | .walkFmax d _ _ => isWalkDest d
  | .walkCmpI32 d _ _ cond => isWalkDest d && isWalkCond cond
  | .walkCmpF32 d _ _ cond => isWalkDest d && isWalkCond cond
  | .walkBr _ _ => true
  | .walkJmp _ => true
  | .figCall _ _ _ => true
  | .figWait _ => true
  | .figSync _ _ => true
  | .figSetw _ _ => true
  | .figAlloc _ _ _ => true
  | .figRdreg _ _ => true
  | .figWrreg _ _ _ => true
  | .figResume _ _ _ => true
  | .figMbox _ _ => true
  | .figEvent _ => true
  | .figLaunch _ _ => true
  | .figInbox _ _ _ => true
  | .figReplay _ _ _ => true
  | .xfigStallComplete _ _ => true
  | .callerLoad _ _ _ _ _ => true
  | .callerStore _ _ _ _ _ => true
  | .callerAmo _ _ _ _ _ _ _ => true
  | .callerLr _ _ _ _ _ => true
  | .callerSc _ _ _ _ _ _ => true
  | .callerFence => true
  | .callerFenceI => true
  | .handlerReturn => true
  | .callerEnd => true
  | .xfgEventsWrite _ _ _ => true
  | .xfgFhandlerWrite _ _ _ => true
  | .xfgFsupWrite _ _ _ => true
  | .registerWrite _ => true
  | .eventInterrupt _ _ => true
  | .callerException _ _ => true
  | .corePark _ => true
  | .coreReset _ => true
  | .rotationSlotFill _ _ _ => true
  | .codeFetchArrival _ _ _ => true
  | .microthreadInitComplete _ _ => true
  | .longLatencyResult _ _ => true
  | .deferredFault _ _ => true
  | .faultMessagePost _ _ => true
  | .quitRetire _ _ => true
  | .budgetRefill _ => true
  | .storeFifoExit _ => true
  | .storeAck _ => true
  | .owningPortLoad _ => true
  | .owningPortStore _ => true
  | .owningPortAtomic _ => true
  | .tluTranslation _ => true
  | .faultRecordArrival _ => true
  | .homeRead _ => true
  | .homeStore _ => true
  | .homeAtomic _ => true
  | .cacheFillArrival _ => true
  | .writeThroughAck _ => true
  | .wakeMessage _ _ _ => true
  | .mmaPerform _ => true
  | .acczPerform _ => true
  | .accldPerform _ => true
  | .accstPerform _ => true
  | .wbldPerform _ => true
  | .sksetPerform _ => true
  | .joinPass _ _ => true
  | .copyStart _ _ => true
  | .copyElement _ _ _ => true
  | .copyEnd _ _ => true
  | .signalEntryPerform _ _ => true
  | .spawnArrival _ _ => true
  | .wordArrival _ _ => true
  | .bounceArrival _ _ => true
  | .eventSignal _ => true
  | .levelArrival _ => true
  | .levelSummons _ => true
  | .levelCompletion _ => true
  | .queryAdmission _ => true
  | .tcfgPerform _ => true
  | .nodeFetchArrival _ _ => true
  | .hitAppend _ _ => true
  | .queryDone _ _ => true
  | .gteRequestStart _ => true
  | .gteProbe _ => true
  | .gteGather _ => true
  | .gteScatter _ => true
  | .gteSadd _ => true
  | .gteSfadd _ => true
  | .gteSmin _ => true
  | .gteSmax _ => true
  | .gteNinv _ => true
  | .gteRequestEnd _ => true
  | .preemptionRequest _ _ => true
  | .contextSave _ _ => true
  | .contextResume _ _ => true
  | .doorbellWrite _ _ => true
  | .hostQueueTake => true
  | .dispatchPlacement _ => true
  | .preemptionDecision _ => true
  | .resumeDecision _ => true
  | .forcedResume _ => true
  | .terminationSweep _ => true
  | .watchdogWindow _ => true
  | .managementAbort _ => true
  | .faultrespWrite _ => true
  | .faultheadWrite _ _ => true
  | .shootgoWrite _ => true
  | .shootdownDone => true
  | .intstatClear _ => true
  | .pcfgWrite _ _ => true
  | .managementPoolRead _ _ => true
  | .managementPoolWrite _ _ _ => true
  | .moduleReset _ => true
  | .plimitWrite _ => true
  | .powerWindow _ => true
  | .thermalStop _ => true
  | .thermalTrip _ => true
  | .patrolScrub _ => true
  | .rtcExtend _ _ _ => true
  | .rtcAttestationReport _ _ => true
  | .rtcAttestationDone => true
  | .rtcReadBootstat _ => true
  | .rtcRaiseSvn _ => true
  | .rtcExtendMr3 _ _ => true
  | .snapgoWrite _ => true
  | .snapstatWrite _ => true
  | .debugSnapshotTrigger => true
  | .linkTraining _ _ => true
  | .pairctlRetrain _ => true
  | .linkDown => true
  | .linkResponseTimeout => true
  | .twinRequestArrival _ => true
  | .hqArrival _ => true
  | .subqueryAdmission => true
  | .hackArrival _ _ => true
  | .hitArrival _ _ _ _ => true
  | .hendArrival _ => true
  | .hcanArrival _ _ _ => true
  | .schedArrival _ => true
  | .callerInstruction _ _ => true
  | .reservedEncoding _ => true
  | .unloadedWalkerSlot => true
  | .thermalResume _ => true
  | .powerLoss => true
  | .clusterPowerGating _ => true
  | .clusterPowerRestore _ => true
  | .twinUnsupportedRequest => true
  | .rtcUnknownRequest _ _ => true

end Sys2Proof
end

