-- ==== Sys2Proof/Decode.lean ====
section
/-!
DEFINITION. The decoders and the encoder (R71, R79-R90, R305-R307, R194). A word is read by the decoder of the
agent that fetches it: micro-thread halfwords, walker words, caller halfwords. Every decoder is total; a word
it does not know is rejected by name.
-/

namespace Sys2Proof

/-- Which instruction set a word belongs to (R71, R194, R305). -/
inductive Isa where
  | micro | walker | caller
  deriving DecidableEq, Repr, Inhabited

/-- Why a word is no defined instruction (R87, R307, R194). -/
inductive Reject where
  | reservedMajor
  | reservedSelector
  | unusedField
  | illFormed
  | truncated
  deriving DecidableEq, Repr, Inhabited

/-- The instruction if its unused fields are zero (R78). -/
def chk (ok : Prop) [Decidable ok] (i : Instr) : Except Reject Instr :=
  if ok then .ok i else .error .unusedField

/-- Low bits of an operand field (R76). -/
def lo2 (r : Reg) : BitVec 2 := r.extractLsb' 0 2
/-- Low bits of an operand field (R76). -/
def lo3 (r : Reg) : BitVec 3 := r.extractLsb' 0 3
/-- Low bits of an operand field (R76). -/
def lo4 (r : Reg) : BitVec 4 := r.extractLsb' 0 4
/-- High bits of an operand field (R76). -/
def hi2 (r : Reg) : BitVec 2 := r.extractLsb' 4 2
/-- High bits of an operand field (R76). -/
def hi3 (r : Reg) : BitVec 3 := r.extractLsb' 3 3
/-- High bits of an operand field (R76). -/
def hi4 (r : Reg) : BitVec 4 := r.extractLsb' 2 4

/-- Field d, bits [12:7] (R79). -/
def fD (w : Word) : Reg := w.extractLsb' 7 6
/-- Field a, bits [18:13] (R79). -/
def fA (w : Word) : Reg := w.extractLsb' 13 6
/-- Field b, bits [24:19] (R79). -/
def fB (w : Word) : Reg := w.extractLsb' 19 6
/-- Field c, bits [30:25] (R79). -/
def fC (w : Word) : Reg := w.extractLsb' 25 6
/-- Field f7, bits [31:25] (R79). -/
def fF7 (w : Word) : BitVec 7 := w.extractLsb' 25 7
/-- Field f1, bit [31] (R79). -/
def fF1 (w : Word) : BitVec 1 := w.extractLsb' 31 1
/-- Field imm13, bits [31:19] (R79). -/
def fImm13 (w : Word) : BitVec 13 := w.extractLsb' 19 13

/-- Two halfwords of a 32-bit word, low halfword first (R3, R71). -/
def halves (w : Word) : List Half := [w.extractLsb' 0 16, w.extractLsb' 16 16]

/-- The halfwords of a 32-bit instruction given by its fields (R79). -/
def word2 (w : Word) : List Half := halves w

/-- Format A (R79). -/
def encA (f7 : BitVec 7) (b a d maj : BitVec 6) : List Half := word2 (f7 ++ b ++ a ++ d ++ maj ++ 1#1)

/-- Format B (R79). -/
def encB (imm : BitVec 13) (a d maj : BitVec 6) : List Half := word2 (imm ++ a ++ d ++ maj ++ 1#1)

/-- Format C (R79). -/
def encC (f1 : BitVec 1) (c b a d maj : BitVec 6) : List Half := word2 (f1 ++ c ++ b ++ a ++ d ++ maj ++ 1#1)

/-- A trailer (R81). -/
def encT (off : BitVec 10) (aw : BitVec 8) (sense : BitVec 1) (p ctl : BitVec 3) : List Half :=
  word2 (off ++ aw ++ sense ++ p ++ ctl ++ 0x3F#6 ++ 1#1)


/-- Major 0x01, group IOP (R86; R100, R101). -/
def decodeIop (w : Word) : Except Reject Instr :=
  match fF7 w with
  | 0x00#7 => .ok (.add (fD w) (fA w) (fB w))
  | 0x01#7 => .ok (.sub (fD w) (fA w) (fB w))
  | 0x02#7 => .ok (.and (fD w) (fA w) (fB w))
  | 0x03#7 => .ok (.or (fD w) (fA w) (fB w))
  | 0x04#7 => .ok (.xor (fD w) (fA w) (fB w))
  | 0x05#7 => .ok (.andn (fD w) (fA w) (fB w))
  | 0x06#7 => .ok (.sll (fD w) (fA w) (fB w))
  | 0x07#7 => .ok (.srl (fD w) (fA w) (fB w))
  | 0x08#7 => .ok (.sra (fD w) (fA w) (fB w))
  | 0x09#7 => .ok (.rol (fD w) (fA w) (fB w))
  | 0x0A#7 => .ok (.min (fD w) (fA w) (fB w))
  | 0x0B#7 => .ok (.max (fD w) (fA w) (fB w))
  | 0x0C#7 => .ok (.minu (fD w) (fA w) (fB w))
  | 0x0D#7 => .ok (.maxu (fD w) (fA w) (fB w))
  | 0x0E#7 => .ok (.mul (fD w) (fA w) (fB w))
  | 0x0F#7 => .ok (.mulh (fD w) (fA w) (fB w))
  | 0x10#7 => .ok (.mulhu (fD w) (fA w) (fB w))
  | 0x11#7 => .ok (.adds (fD w) (fA w) (fB w))
  | 0x12#7 => .ok (.subs (fD w) (fA w) (fB w))
  | 0x13#7 => chk (fB w = 0#6) (.clz (fD w) (fA w))
  | 0x14#7 => chk (fB w = 0#6) (.ctz (fD w) (fA w))
  | 0x15#7 => chk (fB w = 0#6) (.popc (fD w) (fA w))
  | 0x16#7 => chk (fB w = 0#6) (.brev (fD w) (fA w))
  | 0x17#7 => .ok (.addD (fD w) (fA w) (fB w))
  | 0x18#7 => .ok (.subD (fD w) (fA w) (fB w))
  | 0x19#7 => .ok (.mulWD (fD w) (fA w) (fB w))
  | 0x1A#7 => .ok (.muluWD (fD w) (fA w) (fB w))
  | _ => .error .reservedSelector

/-- Major 0x06, group SHI (R86; R104). -/
def decodeShi (w : Word) : Except Reject Instr :=
  if w.extractLsb' 26 6 = 0#6 then
    match w.extractLsb' 24 2 with
    | 0#2 => .ok (.slli (fD w) (fA w) (w.extractLsb' 19 5))
    | 1#2 => .ok (.srli (fD w) (fA w) (w.extractLsb' 19 5))
    | 2#2 => .ok (.srai (fD w) (fA w) (w.extractLsb' 19 5))
    | 3#2 => .ok (.roli (fD w) (fA w) (w.extractLsb' 19 5))
  else .error .unusedField

/-- Major 0x09, group CMP (R86; R106). -/
def decodeCmp (w : Word) : Except Reject Instr :=
  if hi3 (fD w) = 0#3 then
    match w.extractLsb' 28 4 with
    | 0#4 => .ok (.cmpI32 (lo3 (fD w)) (fA w) (fB w) (w.extractLsb' 25 3))
    | 2#4 => .ok (.cmpF32 (lo3 (fD w)) (fA w) (fB w) (w.extractLsb' 25 3))
    | 4#4 => .ok (.cmpF64 (lo3 (fD w)) (fA w) (fB w) (w.extractLsb' 25 3))
    | 6#4 => .ok (.cmpI64 (lo3 (fD w)) (fA w) (fB w) (w.extractLsb' 25 3))
    | _ => .error .reservedSelector
  else .error .unusedField

/-- Major 0x0A, group CMPI (R86; R107). -/
def decodeCmpi (w : Word) : Except Reject Instr :=
  .ok (.cmpi (lo3 (fD w)) (hi3 (fD w)) (fA w) (fImm13 w))

/-- Major 0x0C, group PRD (R86; R110, R109). -/
def decodePrd (w : Word) : Except Reject Instr :=
  match fF7 w with
  | 0x00#7 => chk (fA w = 0#6) (.movs (fD w) (fB w))
  | 0x01#7 => chk (hi3 (fD w) = 0#3 ∧ hi3 (fA w) = 0#3 ∧ hi3 (fB w) = 0#3) (.pand (lo3 (fD w)) (lo3 (fA w)) (lo3 (fB w)))
  | 0x02#7 => chk (hi3 (fD w) = 0#3 ∧ hi3 (fA w) = 0#3 ∧ hi3 (fB w) = 0#3) (.por (lo3 (fD w)) (lo3 (fA w)) (lo3 (fB w)))
  | 0x03#7 => chk (hi3 (fD w) = 0#3 ∧ hi3 (fA w) = 0#3 ∧ hi3 (fB w) = 0#3) (.pxor (lo3 (fD w)) (lo3 (fA w)) (lo3 (fB w)))
  | 0x04#7 => chk (hi3 (fD w) = 0#3 ∧ hi3 (fA w) = 0#3 ∧ fB w = 0#6) (.pnot (lo3 (fD w)) (lo3 (fA w)))
  | 0x05#7 => chk (fA w = 0#6 ∧ fB w = 0#6) (.p2g (fD w))
  | 0x06#7 => chk (fD w = 0#6) (.g2p (fA w) (fB w))
  | _ => .error .reservedSelector

/-- Major 0x0D, group FOP (R86; R125, R126). -/
def decodeFop (w : Word) : Except Reject Instr :=
  match fF7 w with
  | 0x00#7 => .ok (.fadd (fD w) (fA w) (fB w))
  | 0x01#7 => .ok (.fsub (fD w) (fA w) (fB w))
  | 0x02#7 => .ok (.fmul (fD w) (fA w) (fB w))
  | 0x03#7 => .ok (.fmin (fD w) (fA w) (fB w))
  | 0x04#7 => .ok (.fmax (fD w) (fA w) (fB w))
  | 0x05#7 => chk (fB w = 0#6) (.fabs (fD w) (fA w))
  | 0x06#7 => chk (fB w = 0#6) (.fneg (fD w) (fA w))
  | 0x07#7 => .ok (.fsgn (fD w) (fA w) (fB w))
  | 0x08#7 => chk (fB w = 0#6) (.fcls (fD w) (fA w))
  | 0x09#7 => chk (fB w = 0#6) (.fflr (fD w) (fA w))
  | 0x0A#7 => chk (fB w = 0#6) (.fceil (fD w) (fA w))
  | 0x0B#7 => chk (fB w = 0#6) (.frndn (fD w) (fA w))
  | _ => .error .reservedSelector

/-- Major 0x0E, group DOP (R86; R125, R126). -/
def decodeDop (w : Word) : Except Reject Instr :=
  match fF7 w with
  | 0x00#7 => .ok (.dadd (fD w) (fA w) (fB w))
  | 0x01#7 => .ok (.dsub (fD w) (fA w) (fB w))
  | 0x02#7 => .ok (.dmul (fD w) (fA w) (fB w))
  | 0x03#7 => .ok (.dmin (fD w) (fA w) (fB w))
  | 0x04#7 => .ok (.dmax (fD w) (fA w) (fB w))
  | 0x05#7 => chk (fB w = 0#6) (.dabs (fD w) (fA w))
  | 0x06#7 => chk (fB w = 0#6) (.dneg (fD w) (fA w))
  | 0x07#7 => .ok (.dsgn (fD w) (fA w) (fB w))
  | 0x08#7 => chk (fB w = 0#6) (.dcls (fD w) (fA w))
  | 0x09#7 => chk (fB w = 0#6) (.dflr (fD w) (fA w))
  | 0x0A#7 => chk (fB w = 0#6) (.dceil (fD w) (fA w))
  | 0x0B#7 => chk (fB w = 0#6) (.drndn (fD w) (fA w))
  | _ => .error .reservedSelector

/-- Major 0x0F, group HOP (R86; R127). -/
def decodeHop (w : Word) : Except Reject Instr :=
  match fF7 w with
  | 0x00#7 => .ok (.add2 (fD w) (fA w) (fB w))
  | 0x01#7 => .ok (.sub2 (fD w) (fA w) (fB w))
  | 0x02#7 => .ok (.mul2 (fD w) (fA w) (fB w))
  | 0x03#7 => .ok (.min2 (fD w) (fA w) (fB w))
  | 0x04#7 => .ok (.max2 (fD w) (fA w) (fB w))
  | 0x40#7 => .ok (.add2Bf (fD w) (fA w) (fB w))
  | 0x41#7 => .ok (.sub2Bf (fD w) (fA w) (fB w))
  | 0x42#7 => .ok (.mul2Bf (fD w) (fA w) (fB w))
  | 0x43#7 => .ok (.min2Bf (fD w) (fA w) (fB w))
  | 0x44#7 => .ok (.max2Bf (fD w) (fA w) (fB w))
  | _ => .error .reservedSelector

/-- Major 0x10, group FFMA (R86; R128). -/
def decodeFfma (w : Word) : Except Reject Instr :=
  if fF1 w = 0#1 then .ok (.ffma (fD w) (fA w) (fB w) (fC w)) else .ok (.ffms (fD w) (fA w) (fB w) (fC w))

/-- Major 0x11, group DFMA (R86; R128). -/
def decodeDfma (w : Word) : Except Reject Instr :=
  if fF1 w = 0#1 then .ok (.dfma (fD w) (fA w) (fB w) (fC w)) else .ok (.dfms (fD w) (fA w) (fB w) (fC w))

/-- Major 0x12, group HFMA (R86; R128). -/
def decodeHfma (w : Word) : Except Reject Instr :=
  if fF1 w = 0#1 then .ok (.hfma (fD w) (fA w) (fB w) (fC w)) else .ok (.hfmaBf (fD w) (fA w) (fB w) (fC w))

/-- Major 0x13, group CVT (R86; R131, R133, R132). -/
def decodeCvt (w : Word) : Except Reject Instr :=
  match fF7 w with
  | 0x00#7 => chk (hi3 (fB w) = 0#3) (.f2i (fD w) (fA w) (lo3 (fB w)))
  | 0x01#7 => chk (hi3 (fB w) = 0#3) (.f2u (fD w) (fA w) (lo3 (fB w)))
  | 0x02#7 => chk (hi3 (fB w) = 0#3) (.i2f (fD w) (fA w) (lo3 (fB w)))
  | 0x03#7 => chk (hi3 (fB w) = 0#3) (.u2f (fD w) (fA w) (lo3 (fB w)))
  | 0x04#7 => chk (hi3 (fB w) = 0#3) (.d2f (fD w) (fA w) (lo3 (fB w)))
  | 0x05#7 => chk (hi3 (fB w) = 0#3) (.f2d (fD w) (fA w) (lo3 (fB w)))
  | 0x06#7 => chk (hi3 (fB w) = 0#3) (.d2i (fD w) (fA w) (lo3 (fB w)))
  | 0x07#7 => chk (hi3 (fB w) = 0#3) (.i2d (fD w) (fA w) (lo3 (fB w)))
  | 0x08#7 => chk (hi3 (fB w) = 0#3) (.f2h (fD w) (fA w) (lo3 (fB w)))
  | 0x09#7 => chk (hi3 (fB w) = 0#3) (.h2f (fD w) (fA w) (lo3 (fB w)))
  | 0x0A#7 => chk (hi3 (fB w) = 0#3) (.f2bf (fD w) (fA w) (lo3 (fB w)))
  | 0x0B#7 => chk (hi3 (fB w) = 0#3) (.bf2f (fD w) (fA w) (lo3 (fB w)))
  | 0x0C#7 => chk (hi3 (fB w) = 0#3) (.d2l (fD w) (fA w) (lo3 (fB w)))
  | 0x0D#7 => chk (hi3 (fB w) = 0#3) (.l2d (fD w) (fA w) (lo3 (fB w)))
  | 0x0E#7 => chk (hi3 (fB w) = 0#3) (.f2h2 (fD w) (fA w) (lo3 (fB w)))
  | _ => .error .reservedSelector

/-- Major 0x14, group SFU (R86; R134, R68). -/
def decodeSfu (w : Word) : Except Reject Instr :=
  match fF7 w with
  | 0x00#7 => chk (fB w = 0#6) (.rcp (fD w) (fA w))
  | 0x01#7 => chk (fB w = 0#6) (.rsq (fD w) (fA w))
  | 0x02#7 => chk (fB w = 0#6) (.log2 (fD w) (fA w))
  | 0x03#7 => chk (fB w = 0#6) (.exp2 (fD w) (fA w))
  | 0x04#7 => chk (fB w = 0#6) (.sinr (fD w) (fA w))
  | 0x05#7 => chk (fB w = 0#6) (.cosr (fD w) (fA w))
  | 0x06#7 => chk (fB w = 0#6) (.drcp (fD w) (fA w))
  | 0x07#7 => chk (fB w = 0#6) (.drsq (fD w) (fA w))
  | _ => .error .reservedSelector

/-- Major 0x15, group NPK (R86; R136, R137, R138). -/
def decodeNpk (w : Word) : Except Reject Instr :=
  match fF7 w with
  | 0x00#7 => .ok (.pke4 (fD w) (fA w) (fB w))
  | 0x01#7 => .ok (.pke5 (fD w) (fA w) (fB w))
  | 0x02#7 => chk (fB w = 0#6) (.upe4 (fD w) (fA w))
  | 0x03#7 => chk (fB w = 0#6) (.upe5 (fD w) (fA w))
  | 0x04#7 => .ok (.pkb4 (fD w) (fA w) (fB w))
  | 0x05#7 => chk (fB w = 0#6) (.upb4 (fD w) (fA w))
  | _ => .error .reservedSelector

/-- Major 0x16, group BIT (R86; R111). -/
def decodeBit (w : Word) : Except Reject Instr :=
  if fF1 w = 1#1 then .ok (.bfi (fD w) (fA w) (fB w) (fC w))
  else if fC w = 0#6 then .ok (.bfe (fD w) (fA w) (fB w)) else .error .unusedField

/-- Major 0x17, group LANE (R86; R147, R148, R149, R150). -/
def decodeLane (w : Word) : Except Reject Instr :=
  match fF7 w with
  | 0x00#7 => .ok (.shfl (fD w) (fA w) (fB w))
  | 0x01#7 => .ok (.rotl (fD w) (fA w) (fB w))
  | 0x02#7 => .ok (.bfly (fD w) (fA w) (fB w))
  | 0x03#7 => .ok (.bcast (fD w) (fA w) (fB w))
  | 0x04#7 => chk (hi3 (fD w) = 0#3 ∧ hi3 (fA w) = 0#3 ∧ fB w = 0#6) (.voteall (lo3 (fD w)) (lo3 (fA w)))
  | 0x05#7 => chk (hi3 (fD w) = 0#3 ∧ hi3 (fA w) = 0#3 ∧ fB w = 0#6) (.voteany (lo3 (fD w)) (lo3 (fA w)))
  | 0x06#7 => chk (hi3 (fA w) = 0#3 ∧ fB w = 0#6) (.ballot (fD w) (lo3 (fA w)))
  | 0x07#7 => .ok (.linkr (fD w) (fA w) (fB w))
  | 0x08#7 => .ok (.linkw (fD w) (fA w) (fB w))
  | _ => .error .reservedSelector

/-- Major 0x18, group RED (R86; R151, R60, R61). -/
def decodeRed (w : Word) : Except Reject Instr :=
  match fF7 w with
  | 0x00#7 => chk (fB w = 0#6) (.radd (fD w) (fA w))
  | 0x01#7 => chk (fB w = 0#6) (.rmin (fD w) (fA w))
  | 0x02#7 => chk (fB w = 0#6) (.rmax (fD w) (fA w))
  | 0x03#7 => chk (fB w = 0#6) (.rminu (fD w) (fA w))
  | 0x04#7 => chk (fB w = 0#6) (.rmaxu (fD w) (fA w))
  | 0x05#7 => chk (fB w = 0#6) (.rand (fD w) (fA w))
  | 0x06#7 => chk (fB w = 0#6) (.ror (fD w) (fA w))
  | 0x07#7 => chk (fB w = 0#6) (.rxor (fD w) (fA w))
  | 0x08#7 => chk (fB w = 0#6) (.rfadd (fD w) (fA w))
  | 0x09#7 => chk (fB w = 0#6) (.rfmin (fD w) (fA w))
  | 0x0A#7 => chk (fB w = 0#6) (.rfmax (fD w) (fA w))
  | 0x0B#7 => chk (fB w = 0#6) (.sadd (fD w) (fA w))
  | 0x0C#7 => chk (fB w = 0#6) (.saddx (fD w) (fA w))
  | 0x0D#7 => chk (fB w = 0#6) (.sfadd (fD w) (fA w))
  | 0x0E#7 => chk (fB w = 0#6) (.rdadd (fD w) (fA w))
  | _ => .error .reservedSelector

/-- Major 0x19, group XAC (R86; R152, R63, R64). -/
def decodeXac (w : Word) : Except Reject Instr :=
  match fF7 w with
  | 0x00#7 => chk (fD w = 0#6 ∧ fA w = 0#6 ∧ fB w = 0#6) .xclr
  | 0x01#7 => chk (fD w = 0#6 ∧ fB w = 0#6) (.xadd (fA w))
  | 0x02#7 => chk (fD w = 0#6) (.xmad (fA w) (fB w))
  | 0x03#7 => chk (fA w = 0#6 ∧ fB w = 0#6) (.xrnd (fD w))
  | 0x04#7 => chk (fA w = 0#6 ∧ fB w = 0#6) (.xrndd (fD w))
  | _ => .error .reservedSelector

/-- Major 0x1A, group MRG (R86; R167). -/
def decodeMrg (w : Word) : Except Reject Instr :=
  match fF7 w with
  | 0x00#7 => chk (fB w = 0#6) (.icount (fD w) (fA w))
  | 0x01#7 => .ok (.iwrite (fD w) (fA w) (fB w))
  | 0x02#7 => .ok (.uwrite (fD w) (fA w) (fB w))
  | 0x03#7 => .ok (.mwrite (fD w) (fA w) (fB w))
  | _ => .error .reservedSelector

/-- Major 0x1D, group ATOM (R86; R163). -/
def decodeAtom (w : Word) : Except Reject Instr :=
  match fF7 w with
  | 0x00#7 => .ok (.aaddW (fD w) (fA w) (fB w))
  | 0x01#7 => .ok (.aandW (fD w) (fA w) (fB w))
  | 0x02#7 => .ok (.aorW (fD w) (fA w) (fB w))
  | 0x03#7 => .ok (.axorW (fD w) (fA w) (fB w))
  | 0x04#7 => .ok (.aminW (fD w) (fA w) (fB w))
  | 0x05#7 => .ok (.amaxW (fD w) (fA w) (fB w))
  | 0x06#7 => .ok (.aminuW (fD w) (fA w) (fB w))
  | 0x07#7 => .ok (.amaxuW (fD w) (fA w) (fB w))
  | 0x08#7 => .ok (.aswapW (fD w) (fA w) (fB w))
  | 0x09#7 => .ok (.acasW (fD w) (fA w) (fB w))
  | 0x0A#7 => .ok (.afaddW (fD w) (fA w) (fB w))
  | 0x0B#7 => .ok (.aaddD (fD w) (fA w) (fB w))
  | 0x0C#7 => .ok (.aswapD (fD w) (fA w) (fB w))
  | 0x0D#7 => .ok (.acasD (fD w) (fA w) (fB w))
  | 0x0E#7 => .ok (.afaddD (fD w) (fA w) (fB w))
  | _ => .error .reservedSelector

/-- Major 0x1E, group FENCE (R86; R174). -/
def decodeFence (w : Word) : Except Reject Instr :=
  if w.extractLsb' 24 8 = 0#8 ∧ fA w = 0#6 ∧ fD w = 0#6 then
    match w.extractLsb' 22 2 with
    | 0#2 => .ok (.fenceFull (w.extractLsb' 19 3))
    | 1#2 => .ok (.fenceAcq (w.extractLsb' 19 3))
    | 2#2 => .ok (.fenceRel (w.extractLsb' 19 3))
    | 3#2 => .ok (.fenceRsc (w.extractLsb' 19 3))
  else .error .unusedField

/-- Major 0x1F, group CPY (R86; R244, R251). -/
def decodeCpy (w : Word) : Except Reject Instr :=
  match fF7 w with
  | 0x00#7 => .ok (.cpost (fD w) (fA w) (fB w))
  | 0x01#7 => chk (fD w = 0#6 ∧ fB w = 0#6) (.ccancel (fA w))
  | _ => .error .reservedSelector

/-- Major 0x20, group GTH (R86; R338, R346). -/
def decodeGth (w : Word) : Except Reject Instr :=
  match fF7 w with
  | 0x00#7 => chk (fB w = 0#6) (.gpost (fD w) (fA w))
  | 0x01#7 => chk (fB w = 0#6) (.gstat (fD w) (fA w))
  | _ => .error .reservedSelector

/-- Major 0x21, group QOP (R86; R255, R254). -/
def decodeQop (w : Word) : Except Reject Instr :=
  match fF7 w with
  | 0x00#7 => .ok (.qinit (fD w) (fA w) (fB w))
  | 0x01#7 => chk (fD w = 0#6) (.qpush (fA w) (fB w))
  | 0x02#7 => chk (fB w = 0#6) (.qpop (fD w) (fA w))
  | 0x03#7 => .ok (.qpushn (fD w) (fA w) (fB w))
  | 0x04#7 => chk (fB w = 0#6) (.qpopn (fD w) (fA w))
  | 0x05#7 => chk (fB w = 0#6) (.qcount (fD w) (fA w))
  | _ => .error .reservedSelector

/-- Major 0x22, group MSG (R86; R259, R260, R261). -/
def decodeMsg (w : Word) : Except Reject Instr :=
  match fF7 w with
  | 0x00#7 => .ok (.spawn (fD w) (fA w) (fB w))
  | 0x01#7 => chk (fD w = 0#6 ∧ fA w = 0#6 ∧ fB w = 0#6) .quit
  | 0x02#7 => chk (fD w = 0#6) (.sendw (fA w) (fB w))
  | 0x03#7 => chk (fA w = 0#6 ∧ fB w = 0#6) (.recvw (fD w))
  | _ => .error .reservedSelector

/-- Major 0x23, group SYNC (R86; R222, R223, R267, R243, R265). -/
def decodeSync (w : Word) : Except Reject Instr :=
  match fF7 w with
  | 0x00#7 => chk (hi2 (fD w) = 0#2 ∧ fB w = 0#6) (.sign (lo4 (fD w)) (fA w))
  | 0x01#7 => chk (hi2 (fD w) = 0#2 ∧ fA w = 0#6 ∧ fB w = 0#6) (.cvwait (lo4 (fD w)))
  | 0x02#7 => chk (hi3 (fD w) = 0#3 ∧ fA w = 0#6 ∧ fB w = 0#6) (.lvarr (lo3 (fD w)))
  | 0x03#7 => chk (hi3 (fD w) = 0#3 ∧ fA w = 0#6 ∧ fB w = 0#6) (.lvwait (lo3 (fD w)))
  | 0x04#7 => chk (hi3 (fD w) = 0#3 ∧ fA w = 0#6 ∧ fB w = 0#6) (.lvsync (lo3 (fD w)))
  | 0x05#7 => chk (fD w = 0#6 ∧ fB w = 0#6) (.qjoin (fA w))
  | 0x06#7 => chk (hi4 (fD w) = 0#4 ∧ fB w = 0#6) (.csig (lo2 (fD w)) (fA w))
  | 0x07#7 => chk (fD w = 0#6 ∧ fB w = 0#6) (.waitev (fA w))
  | 0x08#7 => chk (fD w = 0#6 ∧ fA w = 0#6 ∧ fB w = 0#6) .yield
  | _ => .error .reservedSelector

/-- Major 0x25, group MXA (R86; R230, R232, R233). -/
def decodeMxa (w : Word) : Except Reject Instr :=
  match fF7 w with
  | 0x00#7 => chk (hi2 (fD w) = 0#2 ∧ fA w = 0#6 ∧ fB w = 0#6) (.accz (lo4 (fD w)))
  | 0x01#7 => chk (hi2 (fD w) = 0#2 ∧ fB w = 0#6) (.accld (lo4 (fD w)) (fA w))
  | 0x02#7 => chk (hi2 (fD w) = 0#2) (.accst (lo4 (fD w)) (fA w) (fB w))
  | 0x03#7 => .ok (.wbld (fD w) (fA w) (fB w))
  | 0x04#7 => chk (hi4 (fD w) = 0#4) (.skset (lo2 (fD w)) (fA w) (fB w))
  | _ => .error .reservedSelector

/-- Major 0x26, group TRAV (R86; R300, R317, R301, R302, R304). -/
def decodeTrav (w : Word) : Except Reject Instr :=
  match fF7 w with
  | 0x00#7 => chk (fB w = 0#6) (.tpost (fD w) (fA w))
  | 0x01#7 => chk (fB w = 0#6) (.hpop (fD w) (fA w))
  | 0x02#7 => chk (fB w = 0#6) (.hcount (fD w) (fA w))
  | 0x03#7 => chk (fD w = 0#6) (.tcfg (fA w) (fB w))
  | 0x04#7 => chk (fD w = 0#6 ∧ fB w = 0#6) (.tcancel (fA w))
  | _ => .error .reservedSelector

/-- Major 0x27, group MINT (R86; R205). -/
def decodeMint (w : Word) : Except Reject Instr :=
  match fF7 w with
  | 0x00#7 => chk (fB w = 0#6) (.mint (fD w) (fA w))
  | _ => .error .reservedSelector

/-- Major 0x28, group SYS (R86; R112, R113, R114, R115). -/
def decodeSys (w : Word) : Except Reject Instr :=
  match fF7 w with
  | 0x00#7 => chk (fD w = 0#6 ∧ fA w = 0#6 ∧ fB w = 0#6) .nop
  | 0x01#7 => chk (fD w = 0#6 ∧ fB w = 0#6) (.trap (fA w))
  | 0x02#7 => chk (fD w = 0#6 ∧ fA w = 0#6 ∧ fB w = 0#6) .ebrk
  | 0x03#7 => chk (fB w = 0#6) (.fstat (fD w) (fA w))
  | 0x04#7 => chk (fB w = 0#6) (.setrm (fD w) (fA w))
  | _ => .error .reservedSelector

/-- Format M: LD and ST (R80). -/
def decodeMem (w : Word) (st : Bool) : Except Reject Instr :=
  if st then .ok (.st (fD w) (fA w) (w.extractLsb' 19 3) (w.extractLsb' 22 2) (w.extractLsb' 24 8))
  else .ok (.ld (fD w) (fA w) (w.extractLsb' 19 3) (w.extractLsb' 22 2) (w.extractLsb' 24 8))

/-- MMA (R86, R225). -/
def decodeMma (w : Word) : Except Reject Instr :=
  chk (w.extractLsb' 28 4 = 0#4 ∧ hi2 (fD w) = 0#2)
    (.mma (lo4 (fD w)) (fA w) (fB w) (w.extractLsb' 25 1) (w.extractLsb' 26 1) (w.extractLsb' 27 1))

/-- A trailer, with its extension word where the control is FAR (R81-R83). -/
def decodeTrailer (w ext : Word) : Except Reject Instr :=
  let off := w.extractLsb' 22 10
  let aw := w.extractLsb' 14 8
  let sense := w.extractLsb' 13 1
  let p := w.extractLsb' 10 3
  match w.extractLsb' 7 3 with
  | 0#3 => chk (off = 0#10 ∧ sense = 0#1 ∧ p = 7#3) (.next aw)
  | 1#3 => .ok (.br p sense aw off)
  | 2#3 => chk (sense = 0#1 ∧ p = 7#3) (.jmp aw off)
  | 3#3 => .ok (.call p sense aw off)
  | 4#3 => chk (off = 0#10) (.ret p sense aw)
  | 5#3 => .ok (.run p sense aw off)
  | 6#3 => chk (off = 0#10) (.stop p sense aw)
  | 7#3 =>
    if ext.extractLsb' 6 1 = 0#1 then
      chk (off = 0#10 ∧ ext.extractLsb' 0 6 = 0#6) (.farOffset aw sense p (ext.extractLsb' 7 25))
    else chk (off = 0#10 ∧ ext.extractLsb' 7 25 = 0#25) (.farRegister aw sense p (ext.extractLsb' 0 6))

/-- A 32-bit micro-thread word before the operand rules R76 and R77: major, selector and unused fields
(R85, R86). `ext` is the word after it, read only by FAR. -/
def decodeMicroRaw (w ext : Word) : Except Reject Instr :=
  match w.extractLsb' 1 6 with
  | 0x01#6 => decodeIop w
  | 0x02#6 => .ok (.addi (fD w) (fA w) (fImm13 w))
  | 0x03#6 => .ok (.andi (fD w) (fA w) (fImm13 w))
  | 0x04#6 => .ok (.ori (fD w) (fA w) (fImm13 w))
  | 0x05#6 => .ok (.xori (fD w) (fA w) (fImm13 w))
  | 0x06#6 => decodeShi w
  | 0x07#6 => .ok (.muli (fD w) (fA w) (fImm13 w))
  | 0x08#6 => .ok (.lui (fD w) (w.extractLsb' 13 19))
  | 0x09#6 => decodeCmp w
  | 0x0A#6 => decodeCmpi w
  | 0x0B#6 => chk (fF1 w = 0#1 ∧ hi3 (fC w) = 0#3) (.sel (fD w) (fA w) (fB w) (lo3 (fC w)))
  | 0x0C#6 => decodePrd w
  | 0x0D#6 => decodeFop w
  | 0x0E#6 => decodeDop w
  | 0x0F#6 => decodeHop w
  | 0x10#6 => decodeFfma w
  | 0x11#6 => decodeDfma w
  | 0x12#6 => decodeHfma w
  | 0x13#6 => decodeCvt w
  | 0x14#6 => decodeSfu w
  | 0x15#6 => decodeNpk w
  | 0x16#6 => decodeBit w
  | 0x17#6 => decodeLane w
  | 0x18#6 => decodeRed w
  | 0x19#6 => decodeXac w
  | 0x1A#6 => decodeMrg w
  | 0x1B#6 => decodeMem w false
  | 0x1C#6 => decodeMem w true
  | 0x1D#6 => decodeAtom w
  | 0x1E#6 => decodeFence w
  | 0x1F#6 => decodeCpy w
  | 0x20#6 => decodeGth w
  | 0x21#6 => decodeQop w
  | 0x22#6 => decodeMsg w
  | 0x23#6 => decodeSync w
  | 0x24#6 => decodeMma w
  | 0x25#6 => decodeMxa w
  | 0x26#6 => decodeTrav w
  | 0x27#6 => decodeMint w
  | 0x28#6 => decodeSys w
  | 0x3F#6 => decodeTrailer w ext
  | _ => .error .reservedMajor

/-- The instruction, if it is well-formed (R76-R78, R87). -/
def wellFormed (r : Except Reject Instr) : Except Reject Instr :=
  match r with
  | .ok i => if i.wf then .ok i else .error .illFormed
  | .error e => .error e

/-- A 16-bit instruction (R84): every pattern is defined. -/
def decode16 (h : Half) : Instr :=
  let b := h.extractLsb' 11 5
  let d := h.extractLsb' 5 6
  match h.extractLsb' 1 4 with
  | 0#4 => .mov16 d b
  | 1#4 => .add16 d b
  | 2#4 => .sub16 d b
  | 3#4 => .and16 d b
  | 4#4 => .or16 d b
  | 5#4 => .xor16 d b
  | 6#4 => .sll16 d b
  | 7#4 => .srl16 d b
  | 8#4 => .sra16 d b
  | 9#4 => .addi16 d b
  | 10#4 => .mul16 d b
  | 11#4 => .fadd16 d b
  | 12#4 => .fsub16 d b
  | 13#4 => .fmul16 d b
  | 14#4 => .fmin16 d b
  | _ => .fmax16 d b

/-- A 32-bit word from its two halfwords (R71). -/
def joinHalves (lo hi : Half) : Word := hi ++ lo

/-- Whether a 32-bit word is a trailer: major 0x3F, whatever its other fields (R71, R90). -/
def isTrailerWord (w : Word) : Bool := w.extractLsb' 0 7 == 0x7F#7

/-- Whether an extension word follows a 32-bit word: a trailer with control 111 (R83, R90). -/
def hasExtension (w : Word) : Bool := isTrailerWord w && w.extractLsb' 7 3 == 7#3

/-- The length in halfwords of the instruction that starts with this word (R71). -/
def microLength (w : Word) : Nat :=
  if w.extractLsb' 0 1 == 0#1 then 1 else if hasExtension w then 4 else 2

/-- A micro-thread instruction from halfwords (R71): the instruction and the halfwords after it. -/
def decodeMicro (hs : List Half) : Except Reject (Instr × List Half) :=
  match hs with
  | [] => .error .truncated
  | h :: t =>
    if h.extractLsb' 0 1 = 0#1 then .ok (decode16 h, t)
    else
      match t with
      | [] => .error .truncated
      | h2 :: t2 =>
        let w := joinHalves h h2
        if hasExtension w then
          match t2 with
          | h3 :: h4 :: t4 =>
            match wellFormed (decodeMicroRaw w (joinHalves h3 h4)) with
            | .ok i => .ok (i, t4)
            | .error e => .error e
          | _ => .error .truncated
        else
          match wellFormed (decodeMicroRaw w 0#32) with
          | .ok i => .ok (i, t2)
          | .error e => .error e

noncomputable section

/-- Field d of a walker word, bits [10:6] (R305). -/
def wD (w : Word) : WReg := w.extractLsb' 6 5
/-- Field a of a walker word, bits [15:11] (R305). -/
def wA (w : Word) : WReg := w.extractLsb' 11 5
/-- Field b of a walker word, bits [20:16] (R305). -/
def wB (w : Word) : WReg := w.extractLsb' 16 5
/-- Field imm11 of a walker word, bits [31:21] (R305). -/
def wImm (w : Word) : BitVec 11 := w.extractLsb' 21 11

/-- funct7 of a caller word (R194). -/
def xF7 (w : Word) : BitVec 7 := w.extractLsb' 25 7
/-- rs2 of a caller word (R194). -/
def xRs2 (w : Word) : XReg := w.extractLsb' 20 5
/-- rs1 of a caller word (R194). -/
def xRs1 (w : Word) : XReg := w.extractLsb' 15 5
/-- rd of a caller word (R194). -/
def xRd (w : Word) : XReg := w.extractLsb' 7 5


/-- A walker word before the operand rules (R305, R307). -/
def decodeWalkerRaw (w : Word) : Except Reject Instr :=
  match w.extractLsb' 0 6 with
  | 0x01#6 => chk (w.extractLsb' 23 9 = 0#9 ∧ wD w = 0#5 ∧ wB w = 0#5) (.nfetch (wA w) (w.extractLsb' 21 2))
  | 0x02#6 => chk (w.extractLsb' 25 7 = 0#7 ∧ wD w = 0#5 ∧ wA w = 0#5 ∧ wB w = 0#5) (.ndec (w.extractLsb' 21 4))
  | 0x03#6 => chk (wA w = 0#5 ∧ wB w = 0#5 ∧ wImm w = 0#11) (.box8 (wD w))
  | 0x04#6 => chk (wB w = 0#5 ∧ wImm w = 0#11) (.tri (wD w) (wA w))
  | 0x05#6 => chk (wImm w = 0#11) (.split (wD w) (wA w) (wB w))
  | 0x06#6 => chk (wImm w = 0#11) (.kcmp (wD w) (wA w) (wB w))
  | 0x07#6 => chk (wImm w = 0#11) (.dist (wD w) (wA w) (wB w))
  | 0x08#6 => chk (wB w = 0#5 ∧ wImm w = 0#11) (.child (wD w) (wA w))
  | 0x09#6 => chk (wD w = 0#5 ∧ wImm w = 0#11) (.push (wA w) (wB w))
  | 0x0A#6 => chk (wA w = 0#5 ∧ wImm w = 0#11) (.pop (wD w) (wB w))
  | 0x0B#6 => chk (wImm w = 0#11) (.kbest (wD w) (wA w) (wB w))
  | 0x0C#6 => chk (wD w = 0#5) (.emit (wA w) (wB w) (wImm w))
  | 0x0D#6 => chk (wD w = 0#5 ∧ wB w = 0#5 ∧ wImm w = 0#11) (.handoff (wA w))
  | 0x0E#6 => chk (wD w = 0#5 ∧ wA w = 0#5 ∧ wB w = 0#5 ∧ wImm w = 0#11) .walkEnd
  | 0x10#6 => chk (wA w = 0#5 ∧ wB w = 0#5) (.movi (wD w) (wImm w))
  | 0x11#6 => chk (wB w = 0#5 ∧ wImm w = 0#11) (.walkMov (wD w) (wA w))
  | 0x12#6 => chk (wImm w = 0#11) (.walkAdd (wD w) (wA w) (wB w))
  | 0x13#6 => chk (wImm w = 0#11) (.walkSub (wD w) (wA w) (wB w))
  | 0x14#6 => chk (wImm w = 0#11) (.walkFadd (wD w) (wA w) (wB w))
  | 0x15#6 => chk (wImm w = 0#11) (.walkFmul (wD w) (wA w) (wB w))
  | 0x16#6 => chk (wImm w = 0#11) (.walkFmin (wD w) (wA w) (wB w))
  | 0x17#6 => chk (wImm w = 0#11) (.walkFmax (wD w) (wA w) (wB w))
  | 0x18#6 => if w.extractLsb' 25 7 = 0#7 then .ok (.walkCmpI32 (wD w) (wA w) (wB w) (w.extractLsb' 21 4)) else chk (w.extractLsb' 25 7 = 1#7) (.walkCmpF32 (wD w) (wA w) (wB w) (w.extractLsb' 21 4))
  | 0x19#6 => chk (wD w = 0#5 ∧ wB w = 0#5) (.walkBr (wA w) (wImm w))
  | 0x1A#6 => chk (wD w = 0#5 ∧ wA w = 0#5 ∧ wB w = 0#5) (.walkJmp (wImm w))
  | _ => .error .reservedMajor

/-- A word of the two Xfig opcodes (R194). -/
def decodeXfig (w : Word) : Except Reject Instr :=
  match w.extractLsb' 0 7, w.extractLsb' 12 3 with
  | 0x0B#7, 0#3 => chk (xF7 w = 0#7) (.figCall (xRd w) (xRs1 w) (xRs2 w))
  | 0x0B#7, 1#3 => chk (xF7 w = 0#7 ∧ xRs2 w = 0#5 ∧ xRs1 w = 0#5) (.figWait (xRd w))
  | 0x0B#7, 2#3 => chk (xF7 w = 0#7 ∧ xRs2 w = 0#5) (.figSync (xRd w) (xRs1 w))
  | 0x0B#7, 3#3 => chk (xF7 w = 0#7 ∧ xRs2 w = 0#5) (.figSetw (xRd w) (xRs1 w))
  | 0x0B#7, 4#3 => chk (xF7 w = 0#7) (.figAlloc (xRd w) (xRs1 w) (xRs2 w))
  | 0x0B#7, 5#3 => if xF7 w = 0#7 ∧ xRs2 w = 0#5 then .ok (.figRdreg (xRd w) (xRs1 w)) else chk (xF7 w = 1#7) (.figWrreg (xRd w) (xRs1 w) (xRs2 w))
  | 0x0B#7, 6#3 => chk (xF7 w = 0#7) (.figResume (xRd w) (xRs1 w) (xRs2 w))
  | 0x0B#7, 7#3 => if xF7 w = 0#7 ∧ xRs2 w = 0#5 then .ok (.figMbox (xRd w) (xRs1 w)) else chk (xF7 w = 1#7 ∧ xRs2 w = 0#5 ∧ xRs1 w = 0#5) (.figEvent (xRd w))
  | 0x2B#7, 0#3 => chk (xF7 w = 0#7 ∧ xRs2 w = 0#5) (.figLaunch (xRd w) (xRs1 w))
  | 0x2B#7, 1#3 => chk (xF7 w = 0#7) (.figInbox (xRd w) (xRs1 w) (xRs2 w))
  | 0x2B#7, 2#3 => chk (xF7 w = 0#7) (.figReplay (xRd w) (xRs1 w) (xRs2 w))
  | _, _ => .error .reservedSelector

/-- Field funct3 of a caller word (R194; RISC-V). -/
def xF3 (w : Word) : BitVec 3 := w.extractLsb' 12 3

/-- A caller word or halfword that is no instruction of RV64IMAC, Zicsr, Zifencei or Xfig (R190; log 6). -/
def callerIllegal (c : Bool) (w : Word) : Instr := .callerInstruction c (.illegal w)

/-- The I-type immediate (RISC-V, log 6). -/
def rvImmI (w : Word) : BitVec 12 := w.extractLsb' 20 12
/-- The S-type immediate (RISC-V, log 6). -/
def rvImmS (w : Word) : BitVec 12 := w.extractLsb' 25 7 ++ w.extractLsb' 7 5
/-- The B-type offset (RISC-V, log 6). -/
def rvImmB (w : Word) : BitVec 13 :=
  w.extractLsb' 31 1 ++ w.extractLsb' 7 1 ++ w.extractLsb' 25 6 ++ w.extractLsb' 8 4 ++ 0#1
/-- The J-type offset (RISC-V, log 6). -/
def rvImmJ (w : Word) : BitVec 21 :=
  w.extractLsb' 31 1 ++ w.extractLsb' 12 8 ++ w.extractLsb' 20 1 ++ w.extractLsb' 21 10 ++ 0#1

/-- LOAD (RISC-V, log 6). -/
def rvLoad (w : Word) : Instr :=
  match xF3 w with
  | 0#3 => .callerLoad false .lb (xRd w) (xRs1 w) (rvImmI w)
  | 1#3 => .callerLoad false .lh (xRd w) (xRs1 w) (rvImmI w)
  | 2#3 => .callerLoad false .lw (xRd w) (xRs1 w) (rvImmI w)
  | 3#3 => .callerLoad false .ld (xRd w) (xRs1 w) (rvImmI w)
  | 4#3 => .callerLoad false .lbu (xRd w) (xRs1 w) (rvImmI w)
  | 5#3 => .callerLoad false .lhu (xRd w) (xRs1 w) (rvImmI w)
  | 6#3 => .callerLoad false .lwu (xRd w) (xRs1 w) (rvImmI w)
  | _ => callerIllegal false w

/-- STORE (RISC-V, log 6). -/
def rvStore (w : Word) : Instr :=
  match xF3 w with
  | 0#3 => .callerStore false .sb (xRs1 w) (xRs2 w) (rvImmS w)
  | 1#3 => .callerStore false .sh (xRs1 w) (xRs2 w) (rvImmS w)
  | 2#3 => .callerStore false .sw (xRs1 w) (xRs2 w) (rvImmS w)
  | 3#3 => .callerStore false .sd (xRs1 w) (xRs2 w) (rvImmS w)
  | _ => callerIllegal false w

/-- BRANCH (RISC-V, log 6). -/
def rvBranch (w : Word) : Instr :=
  match xF3 w with
  | 0#3 => .callerInstruction false (.branch .eq (xRs1 w) (xRs2 w) (rvImmB w))
  | 1#3 => .callerInstruction false (.branch .ne (xRs1 w) (xRs2 w) (rvImmB w))
  | 4#3 => .callerInstruction false (.branch .lt (xRs1 w) (xRs2 w) (rvImmB w))
  | 5#3 => .callerInstruction false (.branch .ge (xRs1 w) (xRs2 w) (rvImmB w))
  | 6#3 => .callerInstruction false (.branch .ltu (xRs1 w) (xRs2 w) (rvImmB w))
  | 7#3 => .callerInstruction false (.branch .geu (xRs1 w) (xRs2 w) (rvImmB w))
  | _ => callerIllegal false w

/-- OP-IMM: a shift's immediate is its 6-bit amount (RISC-V, log 6). -/
def rvOpImm (w : Word) : Instr :=
  let sh : BitVec 12 := (w.extractLsb' 20 6).setWidth 12
  let f6 := w.extractLsb' 26 6
  let mk (op : RvAlu) (imm : BitVec 12) : Instr := .callerInstruction false (.alui op false (xRd w) (xRs1 w) imm)
  match xF3 w with
  | 0#3 => mk .add (rvImmI w)
  | 1#3 => if f6 = 0#6 then mk .sll sh else callerIllegal false w
  | 2#3 => mk .slt (rvImmI w)
  | 3#3 => mk .sltu (rvImmI w)
  | 4#3 => mk .xor (rvImmI w)
  | 5#3 => if f6 = 0#6 then mk .srl sh else if f6 = 0x10#6 then mk .sra sh else callerIllegal false w
  | 6#3 => mk .or (rvImmI w)
  | 7#3 => mk .and (rvImmI w)

/-- OP-IMM-32 (RISC-V, log 6). -/
def rvOpImm32 (w : Word) : Instr :=
  let sh : BitVec 12 := (w.extractLsb' 20 5).setWidth 12
  let mk (op : RvAlu) (imm : BitVec 12) : Instr := .callerInstruction false (.alui op true (xRd w) (xRs1 w) imm)
  match xF3 w with
  | 0#3 => mk .add (rvImmI w)
  | 1#3 => if xF7 w = 0#7 then mk .sll sh else callerIllegal false w
  | 5#3 => if xF7 w = 0#7 then mk .srl sh else if xF7 w = 0x20#7 then mk .sra sh else callerIllegal false w
  | _ => callerIllegal false w

/-- The operation of OP and OP-32 (RISC-V, log 6). -/
def rvAluOf (f7 : BitVec 7) (f3 : BitVec 3) : Option RvAlu :=
  match f7, f3 with
  | 0#7, 0#3 => some .add
  | 0#7, 1#3 => some .sll
  | 0#7, 2#3 => some .slt
  | 0#7, 3#3 => some .sltu
  | 0#7, 4#3 => some .xor
  | 0#7, 5#3 => some .srl
  | 0#7, 6#3 => some .or
  | 0#7, 7#3 => some .and
  | 0x20#7, 0#3 => some .sub
  | 0x20#7, 5#3 => some .sra
  | 1#7, 0#3 => some .mul
  | 1#7, 1#3 => some .mulh
  | 1#7, 2#3 => some .mulhsu
  | 1#7, 3#3 => some .mulhu
  | 1#7, 4#3 => some .div
  | 1#7, 5#3 => some .divu
  | 1#7, 6#3 => some .rem
  | 1#7, 7#3 => some .remu
  | _, _ => none

/-- The operations that OP-32 has (RISC-V, log 6). -/
def rvHasW : RvAlu → Bool
  | .add | .sub | .sll | .srl | .sra | .mul | .div | .divu | .rem | .remu => true
  | .slt | .sltu | .xor | .or | .and | .mulh | .mulhsu | .mulhu => false

/-- OP and OP-32 (RISC-V, log 6). -/
def rvOpReg (w32 : Bool) (w : Word) : Instr :=
  match rvAluOf (xF7 w) (xF3 w) with
  | some op =>
    if w32 && !rvHasW op then callerIllegal false w
    else .callerInstruction false (.alu op w32 (xRd w) (xRs1 w) (xRs2 w))
  | none => callerIllegal false w

/-- AMO, LR and SC (RISC-V, log 6). -/
def rvAmo (w : Word) : Instr :=
  let dbl := w.extractLsb' 12 1 == 1#1
  let aq := w.extractLsb' 26 1 == 1#1
  let rl := w.extractLsb' 25 1 == 1#1
  let mk (op : AmoOp) : Instr := .callerAmo op dbl aq rl (xRd w) (xRs1 w) (xRs2 w)
  if w.extractLsb' 13 2 = 1#2 then
    match w.extractLsb' 27 5 with
    | 0x02#5 => if xRs2 w = 0#5 then .callerLr dbl aq rl (xRd w) (xRs1 w) else callerIllegal false w
    | 0x03#5 => .callerSc dbl aq rl (xRd w) (xRs1 w) (xRs2 w)
    | 0x01#5 => mk .swap
    | 0x00#5 => mk .add
    | 0x04#5 => mk .xor
    | 0x0C#5 => mk .and
    | 0x08#5 => mk .or
    | 0x10#5 => mk .min
    | 0x14#5 => mk .max
    | 0x18#5 => mk .minu
    | 0x1C#5 => mk .maxu
    | _ => callerIllegal false w
  else callerIllegal false w

/-- A CSR instruction: the three read/write CSRs of R192 have rows of their own; a form that writes nothing
is a CSR read (R190, R192). -/
def rvCsr (op : CsrOp) (w : Word) : Instr :=
  let addr := rvImmI w
  let rs := xRs1 w
  let src : CsrSrc := if w.extractLsb' 14 1 = 1#1 then .imm rs else .reg rs
  let reads : Bool := match op with | .rw => false | .rs => rs == 0#5 | .rc => rs == 0#5
  if reads then .callerInstruction false (.csrRead (xRd w) addr)
  else if addr = 0x800#12 then .xfgEventsWrite op (xRd w) src
  else if addr = 0x801#12 then .xfgFhandlerWrite op (xRd w) src
  else if addr = 0x802#12 then .xfgFsupWrite op (xRd w) src
  else .registerWrite (.csr op addr (xRd w) src)

/-- SYSTEM: the environment, return, wait and fence words and the CSR instructions (RISC-V, log 6). -/
def rvSystem (w : Word) : Instr :=
  match w.extractLsb' 12 2 with
  | 0#2 =>
    if w = 0x00000073#32 then .callerInstruction false .ecall
    else if w = 0x00100073#32 then .callerInstruction false .ebreak
    else if w = 0x10200073#32 then .callerInstruction false .sret
    else if w = 0x10500073#32 then .callerInstruction false .wfi
    else if xF7 w = 0x09#7 ∧ xRd w = 0#5 ∧ xF3 w = 0#3 then .callerInstruction false .sfenceVma
    else callerIllegal false w
  | 1#2 => rvCsr .rw w
  | 2#2 => rvCsr .rs w
  | 3#2 => rvCsr .rc w

/-- A 32-bit caller word: total, a word that is no instruction decodes to `illegal` (R190, R194; log 6). -/
def decodeCaller32 (w : Word) : Instr :=
  match w.extractLsb' 0 7 with
  | 0x03#7 => rvLoad w
  | 0x0F#7 =>
    if xF3 w = 0#3 then .callerFence else if xF3 w = 1#3 then .callerFenceI else callerIllegal false w
  | 0x13#7 => rvOpImm w
  | 0x17#7 => .callerInstruction false (.auipc (xRd w) (w.extractLsb' 12 20))
  | 0x1B#7 => rvOpImm32 w
  | 0x23#7 => rvStore w
  | 0x2F#7 => rvAmo w
  | 0x33#7 => rvOpReg false w
  | 0x37#7 => .callerInstruction false (.lui (xRd w) (w.extractLsb' 12 20))
  | 0x3B#7 => rvOpReg true w
  | 0x63#7 => rvBranch w
  | 0x67#7 =>
    if xF3 w = 0#3 then .callerInstruction false (.jalr (xRd w) (xRs1 w) (rvImmI w)) else callerIllegal false w
  | 0x6F#7 => .callerInstruction false (.jal (xRd w) (rvImmJ w))
  | 0x73#7 => rvSystem w
  | _ =>
    match decodeXfig w with
    | .ok i => i
    | .error _ => callerIllegal false w

/-- A register of the compressed quadrants' 3-bit fields: x8-x15 (RISC-V, log 6). -/
def rvcReg (r : BitVec 3) : XReg := 1#2 ++ r

/-- Quadrant 0 of the compressed instructions (RISC-V, log 6). -/
def rvcQ0 (h : Half) : Instr :=
  let rd := rvcReg (h.extractLsb' 2 3)
  let rs1 := rvcReg (h.extractLsb' 7 3)
  let bad := callerIllegal true (h.setWidth 32)
  let uw : BitVec 12 := (h.extractLsb' 5 1 ++ h.extractLsb' 10 3 ++ h.extractLsb' 6 1 ++ 0#2).setWidth 12
  let ud : BitVec 12 := (h.extractLsb' 5 2 ++ h.extractLsb' 10 3 ++ 0#3).setWidth 12
  match h.extractLsb' 13 3 with
  | 0#3 =>
    let u : BitVec 10 := h.extractLsb' 7 4 ++ h.extractLsb' 11 2 ++ h.extractLsb' 5 1 ++ h.extractLsb' 6 1 ++ 0#2
    if u = 0#10 then bad else .callerInstruction true (.alui .add false rd 2#5 (u.setWidth 12))
  | 2#3 => .callerLoad true .lw rd rs1 uw
  | 3#3 => .callerLoad true .ld rd rs1 ud
  | 6#3 => .callerStore true .sw rs1 rd uw
  | 7#3 => .callerStore true .sd rs1 rd ud
  | _ => bad

/-- The arithmetic rows of quadrant 1 (RISC-V, log 6). -/
def rvcArith (h : Half) : Instr :=
  let r := rvcReg (h.extractLsb' 7 3)
  let r2 := rvcReg (h.extractLsb' 2 3)
  let bad := callerIllegal true (h.setWidth 32)
  let sh : BitVec 12 := (h.extractLsb' 12 1 ++ h.extractLsb' 2 5).setWidth 12
  let imm : BitVec 12 := (h.extractLsb' 12 1 ++ h.extractLsb' 2 5).signExtend 12
  let mk (op : RvAlu) (w32 : Bool) : Instr := .callerInstruction true (.alu op w32 r r r2)
  match h.extractLsb' 10 2 with
  | 0#2 => .callerInstruction true (.alui .srl false r r sh)
  | 1#2 => .callerInstruction true (.alui .sra false r r sh)
  | 2#2 => .callerInstruction true (.alui .and false r r imm)
  | 3#2 =>
    match h.extractLsb' 12 1, h.extractLsb' 5 2 with
    | 0#1, 0#2 => mk .sub false
    | 0#1, 1#2 => mk .xor false
    | 0#1, 2#2 => mk .or false
    | 0#1, 3#2 => mk .and false
    | 1#1, 0#2 => mk .sub true
    | 1#1, 1#2 => mk .add true
    | _, _ => bad

/-- Quadrant 1 of the compressed instructions (RISC-V, log 6). -/
def rvcQ1 (h : Half) : Instr :=
  let rd : XReg := h.extractLsb' 7 5
  let imm6 : BitVec 6 := h.extractLsb' 12 1 ++ h.extractLsb' 2 5
  let imm : BitVec 12 := imm6.signExtend 12
  let bad := callerIllegal true (h.setWidth 32)
  let bo : BitVec 13 := (h.extractLsb' 12 1 ++ h.extractLsb' 5 2 ++ h.extractLsb' 2 1 ++ h.extractLsb' 10 2 ++
    h.extractLsb' 3 2 ++ 0#1).signExtend 13
  match h.extractLsb' 13 3 with
  | 0#3 => .callerInstruction true (.alui .add false rd rd imm)
  | 1#3 => if rd = 0#5 then bad else .callerInstruction true (.alui .add true rd rd imm)
  | 2#3 => .callerInstruction true (.alui .add false rd 0#5 imm)
  | 3#3 =>
    if imm6 = 0#6 then bad
    else if rd = 2#5 then
      let sp : BitVec 10 := h.extractLsb' 12 1 ++ h.extractLsb' 3 2 ++ h.extractLsb' 5 1 ++ h.extractLsb' 2 1 ++
        h.extractLsb' 6 1 ++ 0#4
      .callerInstruction true (.alui .add false 2#5 2#5 (sp.signExtend 12))
    else .callerInstruction true (.lui rd (imm6.signExtend 20))
  | 4#3 => rvcArith h
  | 5#3 =>
    let jo : BitVec 12 := h.extractLsb' 12 1 ++ h.extractLsb' 8 1 ++ h.extractLsb' 9 2 ++ h.extractLsb' 6 1 ++
      h.extractLsb' 7 1 ++ h.extractLsb' 2 1 ++ h.extractLsb' 11 1 ++ h.extractLsb' 3 3 ++ 0#1
    .callerInstruction true (.jal 0#5 (jo.signExtend 21))
  | 6#3 => .callerInstruction true (.branch .eq (rvcReg (h.extractLsb' 7 3)) 0#5 bo)
  | 7#3 => .callerInstruction true (.branch .ne (rvcReg (h.extractLsb' 7 3)) 0#5 bo)

/-- Quadrant 2 of the compressed instructions (RISC-V, log 6). -/
def rvcQ2 (h : Half) : Instr :=
  let rd : XReg := h.extractLsb' 7 5
  let rs2 : XReg := h.extractLsb' 2 5
  let sh : BitVec 12 := (h.extractLsb' 12 1 ++ h.extractLsb' 2 5).setWidth 12
  let bad := callerIllegal true (h.setWidth 32)
  match h.extractLsb' 13 3 with
  | 0#3 => .callerInstruction true (.alui .sll false rd rd sh)
  | 2#3 =>
    if rd = 0#5 then bad else
    .callerLoad true .lw rd 2#5 ((h.extractLsb' 2 2 ++ h.extractLsb' 12 1 ++ h.extractLsb' 4 3 ++ 0#2).setWidth 12)
  | 3#3 =>
    if rd = 0#5 then bad else
    .callerLoad true .ld rd 2#5 ((h.extractLsb' 2 3 ++ h.extractLsb' 12 1 ++ h.extractLsb' 5 2 ++ 0#3).setWidth 12)
  | 4#3 =>
    if h.extractLsb' 12 1 = 0#1 then
      if rs2 = 0#5 then
        if rd = 0#5 then bad else .callerInstruction true (.jalr 0#5 rd 0#12)
      else .callerInstruction true (.alu .add false rd 0#5 rs2)
    else if rs2 = 0#5 then
      if rd = 0#5 then .callerInstruction true .ebreak else .callerInstruction true (.jalr 1#5 rd 0#12)
    else .callerInstruction true (.alu .add false rd rd rs2)
  | 6#3 => .callerStore true .sw 2#5 rs2 ((h.extractLsb' 7 2 ++ h.extractLsb' 9 4 ++ 0#2).setWidth 12)
  | 7#3 => .callerStore true .sd 2#5 rs2 ((h.extractLsb' 7 3 ++ h.extractLsb' 10 3 ++ 0#3).setWidth 12)
  | _ => bad

/-- A caller instruction from halfwords, with its length in halfwords (R190; log 6). -/
def decodeCaller (h1 h2 : Half) : Instr × Nat :=
  match h1.extractLsb' 0 2 with
  | 3#2 => (decodeCaller32 (joinHalves h1 h2), 2)
  | 0#2 => (rvcQ0 h1, 1)
  | 1#2 => (rvcQ1 h1, 1)
  | 2#2 => (rvcQ2 h1, 1)

/-- A walker instruction (R305-R307). The zero word is an unloaded slot (R306). -/
def decodeWalker (w : Word) : Except Reject Instr :=
  if w = 0#32 then .ok .unloadedWalkerSlot else wellFormed (decodeWalkerRaw w)


/-- The halfwords of an instruction, first halfword first, and the instruction set they belong to; none
for an event and for the caller instructions whose encodings are the RISC-V standard's (R79-R84, R305, R194). -/
def encode : Instr → Option (Isa × List Half)
  | .add d a b => some (.micro, encA 0x00#7 b a d 0x01#6)
  | .sub d a b => some (.micro, encA 0x01#7 b a d 0x01#6)
  | .and d a b => some (.micro, encA 0x02#7 b a d 0x01#6)
  | .or d a b => some (.micro, encA 0x03#7 b a d 0x01#6)
  | .xor d a b => some (.micro, encA 0x04#7 b a d 0x01#6)
  | .andn d a b => some (.micro, encA 0x05#7 b a d 0x01#6)
  | .sll d a b => some (.micro, encA 0x06#7 b a d 0x01#6)
  | .srl d a b => some (.micro, encA 0x07#7 b a d 0x01#6)
  | .sra d a b => some (.micro, encA 0x08#7 b a d 0x01#6)
  | .rol d a b => some (.micro, encA 0x09#7 b a d 0x01#6)
  | .min d a b => some (.micro, encA 0x0A#7 b a d 0x01#6)
  | .max d a b => some (.micro, encA 0x0B#7 b a d 0x01#6)
  | .minu d a b => some (.micro, encA 0x0C#7 b a d 0x01#6)
  | .maxu d a b => some (.micro, encA 0x0D#7 b a d 0x01#6)
  | .mul d a b => some (.micro, encA 0x0E#7 b a d 0x01#6)
  | .mulh d a b => some (.micro, encA 0x0F#7 b a d 0x01#6)
  | .mulhu d a b => some (.micro, encA 0x10#7 b a d 0x01#6)
  | .adds d a b => some (.micro, encA 0x11#7 b a d 0x01#6)
  | .subs d a b => some (.micro, encA 0x12#7 b a d 0x01#6)
  | .clz d a => some (.micro, encA 0x13#7 0#6 a d 0x01#6)
  | .ctz d a => some (.micro, encA 0x14#7 0#6 a d 0x01#6)
  | .popc d a => some (.micro, encA 0x15#7 0#6 a d 0x01#6)
  | .brev d a => some (.micro, encA 0x16#7 0#6 a d 0x01#6)
  | .addD d a b => some (.micro, encA 0x17#7 b a d 0x01#6)
  | .subD d a b => some (.micro, encA 0x18#7 b a d 0x01#6)
  | .mulWD d a b => some (.micro, encA 0x19#7 b a d 0x01#6)
  | .muluWD d a b => some (.micro, encA 0x1A#7 b a d 0x01#6)
  | .addi d a imm => some (.micro, encB imm a d 0x02#6)
  | .andi d a imm => some (.micro, encB imm a d 0x03#6)
  | .ori d a imm => some (.micro, encB imm a d 0x04#6)
  | .xori d a imm => some (.micro, encB imm a d 0x05#6)
  | .muli d a imm => some (.micro, encB imm a d 0x07#6)
  | .slli d a sh => some (.micro, word2 (0#6 ++ 0#2 ++ sh ++ a ++ d ++ 0x06#6 ++ 1#1))
  | .srli d a sh => some (.micro, word2 (0#6 ++ 1#2 ++ sh ++ a ++ d ++ 0x06#6 ++ 1#1))
  | .srai d a sh => some (.micro, word2 (0#6 ++ 2#2 ++ sh ++ a ++ d ++ 0x06#6 ++ 1#1))
  | .roli d a sh => some (.micro, word2 (0#6 ++ 3#2 ++ sh ++ a ++ d ++ 0x06#6 ++ 1#1))
  | .lui d imm => some (.micro, word2 (imm ++ d ++ 0x08#6 ++ 1#1))
  | .cmpI32 p a b cond => some (.micro, word2 (0#4 ++ cond ++ b ++ a ++ 0#3 ++ p ++ 0x09#6 ++ 1#1))
  | .cmpF32 p a b cond => some (.micro, word2 (2#4 ++ cond ++ b ++ a ++ 0#3 ++ p ++ 0x09#6 ++ 1#1))
  | .cmpF64 p a b cond => some (.micro, word2 (4#4 ++ cond ++ b ++ a ++ 0#3 ++ p ++ 0x09#6 ++ 1#1))
  | .cmpI64 p a b cond => some (.micro, word2 (6#4 ++ cond ++ b ++ a ++ 0#3 ++ p ++ 0x09#6 ++ 1#1))
  | .cmpi p cond a imm => some (.micro, word2 (imm ++ a ++ cond ++ p ++ 0x0A#6 ++ 1#1))
  | .sel d a b p => some (.micro, encC 0#1 (0#3 ++ p) b a d 0x0B#6)
  | .movs d idx => some (.micro, encA 0x00#7 idx 0#6 d 0x0C#6)
  | .pand d a b => some (.micro, encA 0x01#7 (0#3 ++ b) (0#3 ++ a) (0#3 ++ d) 0x0C#6)
  | .por d a b => some (.micro, encA 0x02#7 (0#3 ++ b) (0#3 ++ a) (0#3 ++ d) 0x0C#6)
  | .pxor d a b => some (.micro, encA 0x03#7 (0#3 ++ b) (0#3 ++ a) (0#3 ++ d) 0x0C#6)
  | .pnot d a => some (.micro, encA 0x04#7 0#6 (0#3 ++ a) (0#3 ++ d) 0x0C#6)
  | .p2g d => some (.micro, encA 0x05#7 0#6 0#6 d 0x0C#6)
  | .g2p a b => some (.micro, encA 0x06#7 b a 0#6 0x0C#6)
  | .fadd d a b => some (.micro, encA 0x00#7 b a d 0x0D#6)
  | .fsub d a b => some (.micro, encA 0x01#7 b a d 0x0D#6)
  | .fmul d a b => some (.micro, encA 0x02#7 b a d 0x0D#6)
  | .fmin d a b => some (.micro, encA 0x03#7 b a d 0x0D#6)
  | .fmax d a b => some (.micro, encA 0x04#7 b a d 0x0D#6)
  | .fabs d a => some (.micro, encA 0x05#7 0#6 a d 0x0D#6)
  | .fneg d a => some (.micro, encA 0x06#7 0#6 a d 0x0D#6)
  | .fsgn d a b => some (.micro, encA 0x07#7 b a d 0x0D#6)
  | .fcls d a => some (.micro, encA 0x08#7 0#6 a d 0x0D#6)
  | .fflr d a => some (.micro, encA 0x09#7 0#6 a d 0x0D#6)
  | .fceil d a => some (.micro, encA 0x0A#7 0#6 a d 0x0D#6)
  | .frndn d a => some (.micro, encA 0x0B#7 0#6 a d 0x0D#6)
  | .dadd d a b => some (.micro, encA 0x00#7 b a d 0x0E#6)
  | .dsub d a b => some (.micro, encA 0x01#7 b a d 0x0E#6)
  | .dmul d a b => some (.micro, encA 0x02#7 b a d 0x0E#6)
  | .dmin d a b => some (.micro, encA 0x03#7 b a d 0x0E#6)
  | .dmax d a b => some (.micro, encA 0x04#7 b a d 0x0E#6)
  | .dabs d a => some (.micro, encA 0x05#7 0#6 a d 0x0E#6)
  | .dneg d a => some (.micro, encA 0x06#7 0#6 a d 0x0E#6)
  | .dsgn d a b => some (.micro, encA 0x07#7 b a d 0x0E#6)
  | .dcls d a => some (.micro, encA 0x08#7 0#6 a d 0x0E#6)
  | .dflr d a => some (.micro, encA 0x09#7 0#6 a d 0x0E#6)
  | .dceil d a => some (.micro, encA 0x0A#7 0#6 a d 0x0E#6)
  | .drndn d a => some (.micro, encA 0x0B#7 0#6 a d 0x0E#6)
  | .add2 d a b => some (.micro, encA 0x00#7 b a d 0x0F#6)
  | .sub2 d a b => some (.micro, encA 0x01#7 b a d 0x0F#6)
  | .mul2 d a b => some (.micro, encA 0x02#7 b a d 0x0F#6)
  | .min2 d a b => some (.micro, encA 0x03#7 b a d 0x0F#6)
  | .max2 d a b => some (.micro, encA 0x04#7 b a d 0x0F#6)
  | .add2Bf d a b => some (.micro, encA 0x40#7 b a d 0x0F#6)
  | .sub2Bf d a b => some (.micro, encA 0x41#7 b a d 0x0F#6)
  | .mul2Bf d a b => some (.micro, encA 0x42#7 b a d 0x0F#6)
  | .min2Bf d a b => some (.micro, encA 0x43#7 b a d 0x0F#6)
  | .max2Bf d a b => some (.micro, encA 0x44#7 b a d 0x0F#6)
  | .ffma d a b c => some (.micro, encC 0#1 c b a d 0x10#6)
  | .ffms d a b c => some (.micro, encC 1#1 c b a d 0x10#6)
  | .dfma d a b c => some (.micro, encC 0#1 c b a d 0x11#6)
  | .dfms d a b c => some (.micro, encC 1#1 c b a d 0x11#6)
  | .hfma d a b c => some (.micro, encC 0#1 c b a d 0x12#6)
  | .hfmaBf d a b c => some (.micro, encC 1#1 c b a d 0x12#6)
  | .f2i d a rm => some (.micro, encA 0x00#7 (0#3 ++ rm) a d 0x13#6)
  | .f2u d a rm => some (.micro, encA 0x01#7 (0#3 ++ rm) a d 0x13#6)
  | .i2f d a rm => some (.micro, encA 0x02#7 (0#3 ++ rm) a d 0x13#6)
  | .u2f d a rm => some (.micro, encA 0x03#7 (0#3 ++ rm) a d 0x13#6)
  | .d2f d a rm => some (.micro, encA 0x04#7 (0#3 ++ rm) a d 0x13#6)
  | .f2d d a rm => some (.micro, encA 0x05#7 (0#3 ++ rm) a d 0x13#6)
  | .d2i d a rm => some (.micro, encA 0x06#7 (0#3 ++ rm) a d 0x13#6)
  | .i2d d a rm => some (.micro, encA 0x07#7 (0#3 ++ rm) a d 0x13#6)
  | .f2h d a rm => some (.micro, encA 0x08#7 (0#3 ++ rm) a d 0x13#6)
  | .h2f d a rm => some (.micro, encA 0x09#7 (0#3 ++ rm) a d 0x13#6)
  | .f2bf d a rm => some (.micro, encA 0x0A#7 (0#3 ++ rm) a d 0x13#6)
  | .bf2f d a rm => some (.micro, encA 0x0B#7 (0#3 ++ rm) a d 0x13#6)
  | .d2l d a rm => some (.micro, encA 0x0C#7 (0#3 ++ rm) a d 0x13#6)
  | .l2d d a rm => some (.micro, encA 0x0D#7 (0#3 ++ rm) a d 0x13#6)
  | .f2h2 d a rm => some (.micro, encA 0x0E#7 (0#3 ++ rm) a d 0x13#6)
  | .rcp d a => some (.micro, encA 0x00#7 0#6 a d 0x14#6)
  | .rsq d a => some (.micro, encA 0x01#7 0#6 a d 0x14#6)
  | .log2 d a => some (.micro, encA 0x02#7 0#6 a d 0x14#6)
  | .exp2 d a => some (.micro, encA 0x03#7 0#6 a d 0x14#6)
  | .sinr d a => some (.micro, encA 0x04#7 0#6 a d 0x14#6)
  | .cosr d a => some (.micro, encA 0x05#7 0#6 a d 0x14#6)
  | .drcp d a => some (.micro, encA 0x06#7 0#6 a d 0x14#6)
  | .drsq d a => some (.micro, encA 0x07#7 0#6 a d 0x14#6)
  | .pke4 d a b => some (.micro, encA 0x00#7 b a d 0x15#6)
  | .pke5 d a b => some (.micro, encA 0x01#7 b a d 0x15#6)
  | .upe4 d a => some (.micro, encA 0x02#7 0#6 a d 0x15#6)
  | .upe5 d a => some (.micro, encA 0x03#7 0#6 a d 0x15#6)
  | .pkb4 d a b => some (.micro, encA 0x04#7 b a d 0x15#6)
  | .upb4 d a => some (.micro, encA 0x05#7 0#6 a d 0x15#6)
  | .bfe d a b => some (.micro, encC 0#1 0#6 b a d 0x16#6)
  | .bfi d a b c => some (.micro, encC 1#1 c b a d 0x16#6)
  | .shfl d a b => some (.micro, encA 0x00#7 b a d 0x17#6)
  | .rotl d a b => some (.micro, encA 0x01#7 b a d 0x17#6)
  | .bfly d a b => some (.micro, encA 0x02#7 b a d 0x17#6)
  | .bcast d a b => some (.micro, encA 0x03#7 b a d 0x17#6)
  | .voteall d a => some (.micro, encA 0x04#7 0#6 (0#3 ++ a) (0#3 ++ d) 0x17#6)
  | .voteany d a => some (.micro, encA 0x05#7 0#6 (0#3 ++ a) (0#3 ++ d) 0x17#6)
  | .ballot d a => some (.micro, encA 0x06#7 0#6 (0#3 ++ a) d 0x17#6)
  | .linkr d a num => some (.micro, encA 0x07#7 num a d 0x17#6)
  | .linkw d a num => some (.micro, encA 0x08#7 num a d 0x17#6)
  | .radd d a => some (.micro, encA 0x00#7 0#6 a d 0x18#6)
  | .rmin d a => some (.micro, encA 0x01#7 0#6 a d 0x18#6)
  | .rmax d a => some (.micro, encA 0x02#7 0#6 a d 0x18#6)
  | .rminu d a => some (.micro, encA 0x03#7 0#6 a d 0x18#6)
  | .rmaxu d a => some (.micro, encA 0x04#7 0#6 a d 0x18#6)
  | .rand d a => some (.micro, encA 0x05#7 0#6 a d 0x18#6)
  | .ror d a => some (.micro, encA 0x06#7 0#6 a d 0x18#6)
  | .rxor d a => some (.micro, encA 0x07#7 0#6 a d 0x18#6)
  | .rfadd d a => some (.micro, encA 0x08#7 0#6 a d 0x18#6)
  | .rfmin d a => some (.micro, encA 0x09#7 0#6 a d 0x18#6)
  | .rfmax d a => some (.micro, encA 0x0A#7 0#6 a d 0x18#6)
  | .sadd d a => some (.micro, encA 0x0B#7 0#6 a d 0x18#6)
  | .saddx d a => some (.micro, encA 0x0C#7 0#6 a d 0x18#6)
  | .sfadd d a => some (.micro, encA 0x0D#7 0#6 a d 0x18#6)
  | .rdadd d a => some (.micro, encA 0x0E#7 0#6 a d 0x18#6)
  | .xclr => some (.micro, encA 0x00#7 0#6 0#6 0#6 0x19#6)
  | .xadd a => some (.micro, encA 0x01#7 0#6 a 0#6 0x19#6)
  | .xmad a b => some (.micro, encA 0x02#7 b a 0#6 0x19#6)
  | .xrnd d => some (.micro, encA 0x03#7 0#6 0#6 d 0x19#6)
  | .xrndd d => some (.micro, encA 0x04#7 0#6 0#6 d 0x19#6)
  | .icount d a => some (.micro, encA 0x00#7 0#6 a d 0x1A#6)
  | .iwrite d a b => some (.micro, encA 0x01#7 b a d 0x1A#6)
  | .uwrite d a b => some (.micro, encA 0x02#7 b a d 0x1A#6)
  | .mwrite d a b => some (.micro, encA 0x03#7 b a d 0x1A#6)
  | .ld d base size kind off => some (.micro, word2 (off ++ kind ++ size ++ base ++ d ++ 0x1B#6 ++ 1#1))
  | .st d base size kind off => some (.micro, word2 (off ++ kind ++ size ++ base ++ d ++ 0x1C#6 ++ 1#1))
  | .aaddW d a b => some (.micro, encA 0x00#7 b a d 0x1D#6)
  | .aandW d a b => some (.micro, encA 0x01#7 b a d 0x1D#6)
  | .aorW d a b => some (.micro, encA 0x02#7 b a d 0x1D#6)
  | .axorW d a b => some (.micro, encA 0x03#7 b a d 0x1D#6)
  | .aminW d a b => some (.micro, encA 0x04#7 b a d 0x1D#6)
  | .amaxW d a b => some (.micro, encA 0x05#7 b a d 0x1D#6)
  | .aminuW d a b => some (.micro, encA 0x06#7 b a d 0x1D#6)
  | .amaxuW d a b => some (.micro, encA 0x07#7 b a d 0x1D#6)
  | .aswapW d a b => some (.micro, encA 0x08#7 b a d 0x1D#6)
  | .acasW d a b => some (.micro, encA 0x09#7 b a d 0x1D#6)
  | .afaddW d a b => some (.micro, encA 0x0A#7 b a d 0x1D#6)
  | .aaddD d a b => some (.micro, encA 0x0B#7 b a d 0x1D#6)
  | .aswapD d a b => some (.micro, encA 0x0C#7 b a d 0x1D#6)
  | .acasD d a b => some (.micro, encA 0x0D#7 b a d 0x1D#6)
  | .afaddD d a b => some (.micro, encA 0x0E#7 b a d 0x1D#6)
  | .fenceFull scope => some (.micro, word2 (0#8 ++ 0#2 ++ scope ++ 0#6 ++ 0#6 ++ 0x1E#6 ++ 1#1))
  | .fenceAcq scope => some (.micro, word2 (0#8 ++ 1#2 ++ scope ++ 0#6 ++ 0#6 ++ 0x1E#6 ++ 1#1))
  | .fenceRel scope => some (.micro, word2 (0#8 ++ 2#2 ++ scope ++ 0#6 ++ 0#6 ++ 0x1E#6 ++ 1#1))
  | .fenceRsc scope => some (.micro, word2 (0#8 ++ 3#2 ++ scope ++ 0#6 ++ 0#6 ++ 0x1E#6 ++ 1#1))
  | .cpost d a b => some (.micro, encA 0x00#7 b a d 0x1F#6)
  | .ccancel a => some (.micro, encA 0x01#7 0#6 a 0#6 0x1F#6)
  | .gpost d a => some (.micro, encA 0x00#7 0#6 a d 0x20#6)
  | .gstat d a => some (.micro, encA 0x01#7 0#6 a d 0x20#6)
  | .qinit d a b => some (.micro, encA 0x00#7 b a d 0x21#6)
  | .qpush a b => some (.micro, encA 0x01#7 b a 0#6 0x21#6)
  | .qpop d a => some (.micro, encA 0x02#7 0#6 a d 0x21#6)
  | .qpushn d a b => some (.micro, encA 0x03#7 b a d 0x21#6)
  | .qpopn d a => some (.micro, encA 0x04#7 0#6 a d 0x21#6)
  | .qcount d a => some (.micro, encA 0x05#7 0#6 a d 0x21#6)
  | .spawn d a b => some (.micro, encA 0x00#7 b a d 0x22#6)
  | .quit => some (.micro, encA 0x01#7 0#6 0#6 0#6 0x22#6)
  | .sendw a b => some (.micro, encA 0x02#7 b a 0#6 0x22#6)
  | .recvw d => some (.micro, encA 0x03#7 0#6 0#6 d 0x22#6)
  | .sign cv a => some (.micro, encA 0x00#7 0#6 a (0#2 ++ cv) 0x23#6)
  | .cvwait cv => some (.micro, encA 0x01#7 0#6 0#6 (0#2 ++ cv) 0x23#6)
  | .lvarr lvl => some (.micro, encA 0x02#7 0#6 0#6 (0#3 ++ lvl) 0x23#6)
  | .lvwait lvl => some (.micro, encA 0x03#7 0#6 0#6 (0#3 ++ lvl) 0x23#6)
  | .lvsync lvl => some (.micro, encA 0x04#7 0#6 0#6 (0#3 ++ lvl) 0x23#6)
  | .qjoin a => some (.micro, encA 0x05#7 0#6 a 0#6 0x23#6)
  | .csig ch a => some (.micro, encA 0x06#7 0#6 a (0#4 ++ ch) 0x23#6)
  | .waitev a => some (.micro, encA 0x07#7 0#6 a 0#6 0x23#6)
  | .yield => some (.micro, encA 0x08#7 0#6 0#6 0#6 0x23#6)
  | .mma cv a b sparse m32 ow => some (.micro, encA (0#4 ++ ow ++ m32 ++ sparse) b a (0#2 ++ cv) 0x24#6)
  | .accz tile => some (.micro, encA 0x00#7 0#6 0#6 (0#2 ++ tile) 0x25#6)
  | .accld tile a => some (.micro, encA 0x01#7 0#6 a (0#2 ++ tile) 0x25#6)
  | .accst tile a b => some (.micro, encA 0x02#7 b a (0#2 ++ tile) 0x25#6)
  | .wbld d a b => some (.micro, encA 0x03#7 b a d 0x25#6)
  | .skset sk a b => some (.micro, encA 0x04#7 b a (0#4 ++ sk) 0x25#6)
  | .tpost d a => some (.micro, encA 0x00#7 0#6 a d 0x26#6)
  | .hpop d a => some (.micro, encA 0x01#7 0#6 a d 0x26#6)
  | .hcount d a => some (.micro, encA 0x02#7 0#6 a d 0x26#6)
  | .tcfg a b => some (.micro, encA 0x03#7 b a 0#6 0x26#6)
  | .tcancel a => some (.micro, encA 0x04#7 0#6 a 0#6 0x26#6)
  | .mint d a => some (.micro, encA 0x00#7 0#6 a d 0x27#6)
  | .nop => some (.micro, encA 0x00#7 0#6 0#6 0#6 0x28#6)
  | .trap a => some (.micro, encA 0x01#7 0#6 a 0#6 0x28#6)
  | .ebrk => some (.micro, encA 0x02#7 0#6 0#6 0#6 0x28#6)
  | .fstat d a => some (.micro, encA 0x03#7 0#6 a d 0x28#6)
  | .setrm d a => some (.micro, encA 0x04#7 0#6 a d 0x28#6)
  | .next aw => some (.micro, encT 0#10 aw 0#1 7#3 0#3)
  | .br p sense aw off => some (.micro, encT off aw sense p 1#3)
  | .jmp aw off => some (.micro, encT off aw 0#1 7#3 2#3)
  | .call p sense aw off => some (.micro, encT off aw sense p 3#3)
  | .ret p sense aw => some (.micro, encT 0#10 aw sense p 4#3)
  | .run p sense aw off => some (.micro, encT off aw sense p 5#3)
  | .stop p sense aw => some (.micro, encT 0#10 aw sense p 6#3)
  | .farOffset aw sense p off => some (.micro, encT 0#10 aw sense p 7#3 ++ halves (off ++ 0#1 ++ 0#6))
  | .farRegister aw sense p r => some (.micro, encT 0#10 aw sense p 7#3 ++ halves (0#25 ++ 1#1 ++ r))
  | .mov16 d b => some (.micro, [b ++ d ++ 0#4 ++ 0#1])
  | .add16 d b => some (.micro, [b ++ d ++ 1#4 ++ 0#1])
  | .sub16 d b => some (.micro, [b ++ d ++ 2#4 ++ 0#1])
  | .and16 d b => some (.micro, [b ++ d ++ 3#4 ++ 0#1])
  | .or16 d b => some (.micro, [b ++ d ++ 4#4 ++ 0#1])
  | .xor16 d b => some (.micro, [b ++ d ++ 5#4 ++ 0#1])
  | .sll16 d b => some (.micro, [b ++ d ++ 6#4 ++ 0#1])
  | .srl16 d b => some (.micro, [b ++ d ++ 7#4 ++ 0#1])
  | .sra16 d b => some (.micro, [b ++ d ++ 8#4 ++ 0#1])
  | .addi16 d imm => some (.micro, [imm ++ d ++ 9#4 ++ 0#1])
  | .mul16 d b => some (.micro, [b ++ d ++ 10#4 ++ 0#1])
  | .fadd16 d b => some (.micro, [b ++ d ++ 11#4 ++ 0#1])
  | .fsub16 d b => some (.micro, [b ++ d ++ 12#4 ++ 0#1])
  | .fmul16 d b => some (.micro, [b ++ d ++ 13#4 ++ 0#1])
  | .fmin16 d b => some (.micro, [b ++ d ++ 14#4 ++ 0#1])
  | .fmax16 d b => some (.micro, [b ++ d ++ 15#4 ++ 0#1])
  | .nfetch a kind => some (.walker, halves ((0#9 ++ kind) ++ 0#5 ++ a ++ 0#5 ++ 0x01#6))
  | .ndec ent => some (.walker, halves ((0#7 ++ ent) ++ 0#5 ++ 0#5 ++ 0#5 ++ 0x02#6))
  | .box8 d => some (.walker, halves (0#11 ++ 0#5 ++ 0#5 ++ d ++ 0x03#6))
  | .tri d a => some (.walker, halves (0#11 ++ 0#5 ++ a ++ d ++ 0x04#6))
  | .split d a b => some (.walker, halves (0#11 ++ b ++ a ++ d ++ 0x05#6))
  | .kcmp d a b => some (.walker, halves (0#11 ++ b ++ a ++ d ++ 0x06#6))
  | .dist d a b => some (.walker, halves (0#11 ++ b ++ a ++ d ++ 0x07#6))
  | .child d a => some (.walker, halves (0#11 ++ 0#5 ++ a ++ d ++ 0x08#6))
  | .push a b => some (.walker, halves (0#11 ++ b ++ a ++ 0#5 ++ 0x09#6))
  | .pop d b => some (.walker, halves (0#11 ++ b ++ 0#5 ++ d ++ 0x0A#6))
  | .kbest d a b => some (.walker, halves (0#11 ++ b ++ a ++ d ++ 0x0B#6))
  | .emit a b imm => some (.walker, halves (imm ++ b ++ a ++ 0#5 ++ 0x0C#6))
  | .handoff a => some (.walker, halves (0#11 ++ 0#5 ++ a ++ 0#5 ++ 0x0D#6))
  | .walkEnd => some (.walker, halves (0#11 ++ 0#5 ++ 0#5 ++ 0#5 ++ 0x0E#6))
  | .movi d imm => some (.walker, halves (imm ++ 0#5 ++ 0#5 ++ d ++ 0x10#6))
  | .walkMov d a => some (.walker, halves (0#11 ++ 0#5 ++ a ++ d ++ 0x11#6))
  | .walkAdd d a b => some (.walker, halves (0#11 ++ b ++ a ++ d ++ 0x12#6))
  | .walkSub d a b => some (.walker, halves (0#11 ++ b ++ a ++ d ++ 0x13#6))
  | .walkFadd d a b => some (.walker, halves (0#11 ++ b ++ a ++ d ++ 0x14#6))
  | .walkFmul d a b => some (.walker, halves (0#11 ++ b ++ a ++ d ++ 0x15#6))
  | .walkFmin d a b => some (.walker, halves (0#11 ++ b ++ a ++ d ++ 0x16#6))
  | .walkFmax d a b => some (.walker, halves (0#11 ++ b ++ a ++ d ++ 0x17#6))
  | .walkCmpI32 d a b cond => some (.walker, halves ((0#7 ++ cond) ++ b ++ a ++ d ++ 0x18#6))
  | .walkCmpF32 d a b cond => some (.walker, halves ((1#7 ++ cond) ++ b ++ a ++ d ++ 0x18#6))
  | .walkBr a imm => some (.walker, halves (imm ++ 0#5 ++ a ++ 0#5 ++ 0x19#6))
  | .walkJmp imm => some (.walker, halves (imm ++ 0#5 ++ 0#5 ++ 0#5 ++ 0x1A#6))
  | .figCall rd rs1 rs2 => some (.caller, halves (0#7 ++ rs2 ++ rs1 ++ 0#3 ++ rd ++ 0x0B#7))
  | .figWait rd => some (.caller, halves (0#7 ++ 0#5 ++ 0#5 ++ 1#3 ++ rd ++ 0x0B#7))
  | .figSync rd rs1 => some (.caller, halves (0#7 ++ 0#5 ++ rs1 ++ 2#3 ++ rd ++ 0x0B#7))
  | .figSetw rd rs1 => some (.caller, halves (0#7 ++ 0#5 ++ rs1 ++ 3#3 ++ rd ++ 0x0B#7))
  | .figAlloc rd rs1 rs2 => some (.caller, halves (0#7 ++ rs2 ++ rs1 ++ 4#3 ++ rd ++ 0x0B#7))
  | .figRdreg rd rs1 => some (.caller, halves (0#7 ++ 0#5 ++ rs1 ++ 5#3 ++ rd ++ 0x0B#7))
  | .figWrreg rd rs1 rs2 => some (.caller, halves (1#7 ++ rs2 ++ rs1 ++ 5#3 ++ rd ++ 0x0B#7))
  | .figResume rd rs1 rs2 => some (.caller, halves (0#7 ++ rs2 ++ rs1 ++ 6#3 ++ rd ++ 0x0B#7))
  | .figMbox rd rs1 => some (.caller, halves (0#7 ++ 0#5 ++ rs1 ++ 7#3 ++ rd ++ 0x0B#7))
  | .figEvent rd => some (.caller, halves (1#7 ++ 0#5 ++ 0#5 ++ 7#3 ++ rd ++ 0x0B#7))
  | .figLaunch rd rs1 => some (.caller, halves (0#7 ++ 0#5 ++ rs1 ++ 0#3 ++ rd ++ 0x2B#7))
  | .figInbox rd rs1 rs2 => some (.caller, halves (0#7 ++ rs2 ++ rs1 ++ 1#3 ++ rd ++ 0x2B#7))
  | .figReplay rd rs1 rs2 => some (.caller, halves (0#7 ++ rs2 ++ rs1 ++ 2#3 ++ rd ++ 0x2B#7))
  | .xfigStallComplete _ _ => none
  | .callerLoad _ _ _ _ _ => none
  | .callerStore _ _ _ _ _ => none
  | .callerAmo _ _ _ _ _ _ _ => none
  | .callerLr _ _ _ _ _ => none
  | .callerSc _ _ _ _ _ _ => none
  | .callerFence => none
  | .callerFenceI => none
  | .handlerReturn => none
  | .callerEnd => none
  | .xfgEventsWrite _ _ _ => none
  | .xfgFhandlerWrite _ _ _ => none
  | .xfgFsupWrite _ _ _ => none
  | .registerWrite _ => none
  | .eventInterrupt _ _ => none
  | .callerException _ _ => none
  | .corePark _ => none
  | .coreReset _ => none
  | .rotationSlotFill _ _ _ => none
  | .codeFetchArrival _ _ _ => none
  | .microthreadInitComplete _ _ => none
  | .longLatencyResult _ _ => none
  | .deferredFault _ _ => none
  | .faultMessagePost _ _ => none
  | .quitRetire _ _ => none
  | .budgetRefill _ => none
  | .storeFifoExit _ => none
  | .storeAck _ => none
  | .owningPortLoad _ => none
  | .owningPortStore _ => none
  | .owningPortAtomic _ => none
  | .tluTranslation _ => none
  | .faultRecordArrival _ => none
  | .homeRead _ => none
  | .homeStore _ => none
  | .homeAtomic _ => none
  | .cacheFillArrival _ => none
  | .writeThroughAck _ => none
  | .wakeMessage _ _ _ => none
  | .mmaPerform _ => none
  | .acczPerform _ => none
  | .accldPerform _ => none
  | .accstPerform _ => none
  | .wbldPerform _ => none
  | .sksetPerform _ => none
  | .joinPass _ _ => none
  | .copyStart _ _ => none
  | .copyElement _ _ _ => none
  | .copyEnd _ _ => none
  | .signalEntryPerform _ _ => none
  | .spawnArrival _ _ => none
  | .wordArrival _ _ => none
  | .bounceArrival _ _ => none
  | .eventSignal _ => none
  | .levelArrival _ => none
  | .levelSummons _ => none
  | .levelCompletion _ => none
  | .queryAdmission _ => none
  | .tcfgPerform _ => none
  | .nodeFetchArrival _ _ => none
  | .hitAppend _ _ => none
  | .queryDone _ _ => none
  | .gteRequestStart _ => none
  | .gteProbe _ => none
  | .gteGather _ => none
  | .gteScatter _ => none
  | .gteSadd _ => none
  | .gteSfadd _ => none
  | .gteSmin _ => none
  | .gteSmax _ => none
  | .gteNinv _ => none
  | .gteRequestEnd _ => none
  | .preemptionRequest _ _ => none
  | .contextSave _ _ => none
  | .contextResume _ _ => none
  | .doorbellWrite _ _ => none
  | .hostQueueTake => none
  | .dispatchPlacement _ => none
  | .preemptionDecision _ => none
  | .resumeDecision _ => none
  | .forcedResume _ => none
  | .terminationSweep _ => none
  | .watchdogWindow _ => none
  | .managementAbort _ => none
  | .faultrespWrite _ => none
  | .faultheadWrite _ _ => none
  | .shootgoWrite _ => none
  | .shootdownDone => none
  | .intstatClear _ => none
  | .pcfgWrite _ _ => none
  | .managementPoolRead _ _ => none
  | .managementPoolWrite _ _ _ => none
  | .moduleReset _ => none
  | .plimitWrite _ => none
  | .powerWindow _ => none
  | .thermalStop _ => none
  | .thermalTrip _ => none
  | .patrolScrub _ => none
  | .rtcExtend _ _ _ => none
  | .rtcAttestationReport _ _ => none
  | .rtcAttestationDone => none
  | .rtcReadBootstat _ => none
  | .rtcRaiseSvn _ => none
  | .rtcExtendMr3 _ _ => none
  | .snapgoWrite _ => none
  | .snapstatWrite _ => none
  | .debugSnapshotTrigger => none
  | .linkTraining _ _ => none
  | .pairctlRetrain _ => none
  | .linkDown => none
  | .linkResponseTimeout => none
  | .twinRequestArrival _ => none
  | .hqArrival _ => none
  | .subqueryAdmission => none
  | .hackArrival _ _ => none
  | .hitArrival _ _ _ _ => none
  | .hendArrival _ => none
  | .hcanArrival _ _ _ => none
  | .schedArrival _ => none
  | .callerInstruction _ _ => none
  | .reservedEncoding _ => none
  | .unloadedWalkerSlot => none
  | .thermalResume _ => none
  | .powerLoss => none
  | .clusterPowerGating _ => none
  | .clusterPowerRestore _ => none
  | .twinUnsupportedRequest => none
  | .rtcUnknownRequest _ _ => none

/-- How many bits of an instruction's encoding are fixed (R79-R86, R194, R305): where one word is an instruction
of two instruction sets, the opcode table's row with the more fixed bits is the one it was written for. KBEST shares
words with FIG.CALL, FIG.ALLOC and FIG.RESUME at equal counts, and those words are read as the Xfig instruction only
where all its registers are x0. -/
def fixedBits : Instr → Nat
  | .mov16 .. | .add16 .. | .sub16 .. | .and16 .. | .or16 .. | .xor16 .. | .sll16 .. | .srl16 .. | .sra16 ..
  | .addi16 .. | .mul16 .. | .fadd16 .. | .fsub16 .. | .fmul16 .. | .fmin16 .. | .fmax16 .. => 5
  | .addi .. | .andi .. | .ori .. | .xori .. | .muli .. | .lui .. | .cmpi .. | .ld .. | .st .. => 7
  | .ffma .. | .ffms .. | .dfma .. | .dfms .. | .hfma .. | .hfmaBf .. | .bfi .. => 8
  | .br .. | .call .. | .run .. => 10
  | .sel .. | .emit .. => 11
  | .mma .. | .walkCmpI32 .. | .walkCmpF32 .. => 13
  | .add .. | .sub .. | .and .. | .or .. | .xor .. | .andn .. | .sll .. | .srl .. | .sra .. | .rol .. | .min ..
  | .max .. | .minu .. | .maxu .. | .mul .. | .mulh .. | .mulhu .. | .adds .. | .subs .. | .addD .. | .subD ..
  | .mulWD .. | .muluWD .. | .cmpI32 .. | .cmpF32 .. | .cmpF64 .. | .cmpI64 .. | .fadd .. | .fsub .. | .fmul ..
  | .fmin .. | .fmax .. | .fsgn .. | .dadd .. | .dsub .. | .dmul .. | .dmin .. | .dmax .. | .dsgn .. | .add2 ..
  | .sub2 .. | .mul2 .. | .min2 .. | .max2 .. | .add2Bf .. | .sub2Bf .. | .mul2Bf .. | .min2Bf .. | .max2Bf ..
  | .pke4 .. | .pke5 .. | .pkb4 .. | .bfe .. | .shfl .. | .rotl .. | .bfly .. | .bcast .. | .linkr .. | .linkw ..
  | .iwrite .. | .uwrite .. | .mwrite .. | .aaddW .. | .aandW .. | .aorW .. | .axorW .. | .aminW .. | .amaxW ..
  | .aminuW .. | .amaxuW .. | .aswapW .. | .acasW .. | .afaddW .. | .aaddD .. | .aswapD .. | .acasD .. | .afaddD ..
  | .cpost .. | .qinit .. | .qpushn .. | .spawn .. | .wbld .. | .jmp .. => 14
  | .slli .. | .srli .. | .srai .. | .roli .. => 15
  | .accst .. | .movi .. | .walkBr .. => 16
  | .f2i .. | .f2u .. | .i2f .. | .u2f .. | .d2f .. | .f2d .. | .d2i .. | .i2d .. | .f2h .. | .h2f .. | .f2bf ..
  | .bf2f .. | .d2l .. | .l2d .. | .f2h2 .. | .split .. | .kcmp .. | .dist .. | .kbest .. | .walkAdd .. | .walkSub ..
  | .walkFadd .. | .walkFmul .. | .walkFmin .. | .walkFmax .. | .figWrreg ..
  | .figInbox .. | .figReplay .. => 17
  | .figCall rd rs1 rs2 | .figAlloc rd rs1 rs2 | .figResume rd rs1 rs2 =>
    if rd = 0#5 ∧ rs1 = 0#5 ∧ rs2 = 0#5 then 17 else 16
  | .skset .. => 18
  | .clz .. | .ctz .. | .popc .. | .brev .. | .movs .. | .g2p .. | .fabs .. | .fneg .. | .fcls .. | .fflr ..
  | .fceil .. | .frndn .. | .dabs .. | .dneg .. | .dcls .. | .dflr .. | .dceil .. | .drndn .. | .rcp .. | .rsq ..
  | .log2 .. | .exp2 .. | .sinr .. | .cosr .. | .drcp .. | .drsq .. | .upe4 .. | .upe5 .. | .upb4 .. | .radd ..
  | .rmin .. | .rmax .. | .rminu .. | .rmaxu .. | .rand .. | .ror .. | .rxor .. | .rfadd .. | .rfmin .. | .rfmax ..
  | .sadd .. | .saddx .. | .sfadd .. | .rdadd .. | .xmad .. | .icount .. | .gpost .. | .gstat .. | .qpush ..
  | .qpop .. | .qpopn .. | .qcount .. | .sendw .. | .tpost .. | .hpop .. | .hcount .. | .tcfg .. | .mint ..
  | .fstat .. | .setrm .. | .ret .. | .stop .. => 20
  | .walkJmp .. => 21
  | .sign .. | .accld .. | .tri .. | .child .. | .push .. | .pop .. | .walkMov .. | .figSync .. | .figSetw ..
  | .figRdreg .. | .figMbox .. | .figLaunch .. => 22
  | .pand .. | .por .. | .pxor .. | .ballot .. => 23
  | .csig .. | .next .. => 24
  | .nfetch .. => 25
  | .pnot .. | .p2g .. | .voteall .. | .voteany .. | .xadd .. | .xrnd .. | .xrndd .. | .ccancel .. | .recvw ..
  | .qjoin .. | .waitev .. | .tcancel .. | .trap .. => 26
  | .box8 .. | .handoff .. | .figWait .. | .figEvent .. => 27
  | .cvwait .. | .accz .. | .ndec .. => 28
  | .fenceFull .. | .fenceAcq .. | .fenceRel .. | .fenceRsc .. | .lvarr .. | .lvwait .. | .lvsync .. => 29
  | .xclr | .quit | .yield | .nop | .ebrk | .farOffset .. | .farRegister .. | .walkEnd => 32
  | _ => 32

/-- The better of two readings of one word (see `fixedBits`). -/
def moreFixed (x y : Option (Isa × Instr)) : Option (Isa × Instr) :=
  match x, y with
  | some (a, i), some (b, j) => if fixedBits i < fixedBits j then some (b, j) else some (a, i)
  | some p, none => some p
  | none, q => q

/-- A word of the opcode table: its instruction set and its instruction. The words of the three sets overlap;
16-bit words and words with bit 0 set are micro-thread words, and the reading with more fixed bits is taken.
The bits above `nbits` are 0 (a FAR trailer's extension word is then 0). -/
def classifyTableWord (nbits w : Nat) : Option (Isa × Instr) :=
  if nbits ≤ 16 then
    if w % 2 = 0 then some (.micro, decode16 (BitVec.ofNat 16 w)) else none
  else
    let x := BitVec.ofNat 32 w
    let ext := BitVec.ofNat 32 (w / 2 ^ 32)
    let micro : Option (Isa × Instr) :=
      if w % 2 = 0 then none
      else match wellFormed (decodeMicroRaw x ext) with
        | .ok i => some (.micro, i)
        | .error _ => none
    let xfig : Option (Isa × Instr) :=
      match decodeXfig x with
      | .ok i => some (.caller, i)
      | .error _ => none
    let walk : Option (Isa × Instr) :=
      match decodeWalker x with
      | .ok i => some (.walker, i)
      | .error _ => none
    moreFixed (moreFixed micro xfig) walk

/-- The instruction this decoder reads from a word of the opcode table (see `classifyTableWord`). -/
def decodeTableWord (nbits w : Nat) : Option Instr :=
  match classifyTableWord nbits w with
  | some (_, i) => some i
  | none => none

end

end Sys2Proof
end

