-- ==== Sys2Proof/Config.lean ====
section
/-!
DEFINITION. What one implementation fixes and what the spec leaves open. A free value is an opaque constant applied to
the model's own counter (State.fresh, log 5) or to the operands: nothing can be proved of it.
-/

namespace Sys2Proof.Config

/-- Which agent or event of the table moves next when the agenda is empty: the order of independent agents
is free (R5, R13, R39, R374; log 9). -/
opaque nextTurn : Nat → Turn

/-- A free natural number: a cache or TLU victim, a count of cycles passed, the channel's choice of the point of a
subtraction (R248, R327, R374, R377; log 9). -/
opaque freeNat : Nat → Nat

/-- A free byte, by the counter and the address: a unit of a weight buffer holds it from placement until it is written
(R213; log 1). -/
opaque freeByte : Nat → Nat → Byte

/-- SLH-DSA key generation of FIPS 205 from its seeds, which the spec names and does not print: the secret and the public key
(R439; log 7). -/
opaque slhDsaKeys : List Byte → List Byte × List Byte

/-- The SLH-DSA signature of FIPS 205 with a secret key over a message, which the spec names and does not print (R440;
log 7). -/
opaque slhDsaSign : List Byte → List Byte → List Byte

/-- The serial number of the module (R440, R446; log 7). -/
opaque serialNumber : DWord

/-- Cores of the module (R1, R175). -/
def numCores : Nat := 80
/-- Columns of the mesh (R19, R351). -/
def meshW : Nat := 10
/-- Rows of the mesh. -/
def meshH : Nat := 8
/-- Micro-thread slots of a core (R24). -/
def numSlots : Nat := 1024
/-- Bytes of a pool (R183). -/
def poolBytes : Nat := 0x240000
/-- Bytes of a weight buffer (R213, R431). -/
def wbBytes : Nat := 0x80000

end Sys2Proof.Config
end

