-- ==== Sys2Proof/Machine/Tbl.lean ====
section
/-!
DEFINITION. Finite tables: association lists with strictly rising keys, so that equal tables are equal data.
Every sparse piece of state (slots, launches on a core, accesses in flight, memory bytes) is one.
-/

namespace Sys2Proof.Machine

/-- A finite table from numbers. -/
abbrev Tbl (α : Type) := List (Nat × α)

/-- The entry under a key. -/
def Tbl.get? {α : Type} : Tbl α → Nat → Option α
  | [], _ => none
  | (j, a) :: r, k => if j = k then some a else Tbl.get? r k

/-- Whether a key has an entry. -/
def Tbl.has {α : Type} (t : Tbl α) (k : Nat) : Bool := (Tbl.get? t k).isSome

/-- The table with an entry set, keys kept rising. -/
def Tbl.set {α : Type} : Tbl α → Nat → α → Tbl α
  | [], k, a => [(k, a)]
  | (j, b) :: r, k, a =>
    if k < j then (k, a) :: (j, b) :: r
    else if j = k then (k, a) :: r
    else (j, b) :: Tbl.set r k a

/-- The table without a key's entry. -/
def Tbl.erase {α : Type} : Tbl α → Nat → Tbl α
  | [], _ => []
  | (j, b) :: r, k => if j = k then r else (j, b) :: Tbl.erase r k

/-- The table with one entry changed; unchanged where the key has none. -/
def Tbl.modify {α : Type} : Tbl α → Nat → (α → α) → Tbl α
  | [], _, _ => []
  | (j, b) :: r, k, f => if j = k then (j, f b) :: r else (j, b) :: Tbl.modify r k f

/-- The table with every entry changed by a function of its key. -/
def Tbl.mapKV {α β : Type} (t : Tbl α) (f : Nat → α → β) : Tbl β :=
  t.map fun p => (p.1, f p.1 p.2)

/-- The keys, rising. -/
def Tbl.keys {α : Type} (t : Tbl α) : List Nat := t.map Prod.fst

/-- The keys rise strictly. -/
def Tbl.sorted {α : Type} : Tbl α → Bool
  | [] => true
  | [_] => true
  | (j, _) :: (k, b) :: r => decide (j < k) && Tbl.sorted ((k, b) :: r)

/-- The bytes of a number, lowest first (R3). -/
def bytesOfNat : Nat → Nat → List Byte
  | 0, _ => []
  | n + 1, v => BitVec.ofNat 8 v :: bytesOfNat n (v / 256)

/-- The number that bytes give, lowest first (R3). -/
def natOfBytes : List Byte → Nat
  | [] => 0
  | b :: r => b.toNat + 256 * natOfBytes r

/-- The bits of a mask that are set, rising. -/
def bitsSet (n v : Nat) : List Nat := (List.range n).filter fun i => v.testBit i

/-- The first element of a list that a test accepts, with the list without it. -/
def takeFirst {α : Type} (p : α → Bool) : List α → Option (α × List α)
  | [] => none
  | x :: r =>
    if p x then some (x, r)
    else match takeFirst p r with
      | some (y, r') => some (y, x :: r')
      | none => none

/-- A number kept in a list in rising order, without repeats. -/
def insertNat (n : Nat) : List Nat → List Nat
  | [] => [n]
  | x :: r => if n < x then n :: x :: r else if n = x then x :: r else x :: insertNat n r

/-- A list of numbers sorted, without repeats. -/
def sortNat (l : List Nat) : List Nat := l.foldr insertNat []

/-- A list cut into pieces of `g` (the last may be shorter). -/
def chunks {α : Type} (g : Nat) (l : List α) : List (List α) :=
  let rec go : Nat → List α → List (List α)
    | 0, _ => []
    | n + 1, x => if x.isEmpty then [] else x.take g :: go n (x.drop g)
  go l.length l

end Sys2Proof.Machine
end

