-- ==== Sys2Proof/Machine/Flags.lean ====
section
/-!
DEFINITION. Floating-point values, rounding and the flags of FFLAGS (R42-R50, R58-R68, R125-R138), and the
integer results that need more than a bit-vector operator. Values are exact dyadic numbers; a result is
the exact value rounded once.
-/

namespace Sys2Proof.Machine

/-- FFLAGS: NV [4], DZ [3], OF [2], UF [1], NX [0] (R19). -/
abbrev FFlags := BitVec 5

/-- No flag. -/
def noFlags : FFlags := 0#5
/-- Invalid operation (R46). -/
def flagNV : FFlags := 16#5
/-- Exact infinite result from finite operands (R46). -/
def flagDZ : FFlags := 8#5
/-- Overflow (R46). -/
def flagOF : FFlags := 4#5
/-- Underflow (R46). -/
def flagUF : FFlags := 2#5
/-- Inexact (R46). -/
def flagNX : FFlags := 1#5

/-- A rounding mode (R45). -/
inductive Rm where
  | rne | rtz | rdn | rup | rna
  deriving DecidableEq, Repr, Inhabited

/-- The mode of a code; codes 5-7 never reach a rounding (R20, R45). -/
def Rm.ofCode (c : BitVec 3) : Rm :=
  match c with
  | 1#3 => .rtz
  | 2#3 => .rdn
  | 3#3 => .rup
  | 4#3 => .rna
  | _ => .rne

/-- An exact value: a NaN (signalling or quiet), an infinity, or a signed dyadic number (-1)^neg · m · 2^e. -/
inductive Num where
  | nan (signalling : Bool)
  | inf (neg : Bool)
  | fin (neg : Bool) (m : Nat) (e : Int)
  deriving DecidableEq, Repr, Inhabited

/-- A binary format (R42, R48, R51): its width, its precision, the exponent of its smallest subnormal, its
largest finite code, and whether it has infinities. -/
structure Fmt where
  width : Nat
  prec : Nat
  emin : Int
  maxCode : Nat
  hasInf : Bool
  nanCode : Nat
  deriving DecidableEq, Repr

/-- FP64 (R42, R43). -/
def fp64 : Fmt := ⟨64, 53, -1074, 0x7FEFFFFFFFFFFFFF, true, 0x7FF8000000000000⟩
/-- FP32 (R42, R43). -/
def fp32 : Fmt := ⟨32, 24, -149, 0x7F7FFFFF, true, 0x7FC00000⟩
/-- FP16 (R42, R43). -/
def fp16 : Fmt := ⟨16, 11, -24, 0x7BFF, true, 0x7E00⟩
/-- BF16 (R42, R43). -/
def bf16 : Fmt := ⟨16, 8, -133, 0x7F7F, true, 0x7FC0⟩
/-- E4M3 (R48). -/
def e4m3 : Fmt := ⟨8, 4, -9, 0x7E, false, 0x7F⟩
/-- E5M2 (R48). -/
def e5m2 : Fmt := ⟨8, 3, -16, 0x7B, true, 0x7E⟩
/-- The code grid of a B4 element (R51): magnitudes 0, 0.5, 1, 1.5, 2, 3, 4, 6. -/
def e2m1 : Fmt := ⟨4, 2, -1, 7, false, 0⟩

/-- The sign bit of a format. -/
def Fmt.signBit (f : Fmt) : Nat := 2 ^ (f.width - 1)
/-- The number of bit patterns of one exponent. -/
def Fmt.hidden (f : Fmt) : Nat := 2 ^ (f.prec - 1)
/-- The code of infinity, or the first code past the largest finite one. -/
def Fmt.infCode (f : Fmt) : Nat := f.maxCode + 1

/-- The magnitude that a finite code stands for (R42, R48, R51). -/
def Fmt.magnitude (f : Fmt) (c : Nat) : Nat × Int :=
  let ex := c / f.hidden
  let fr := c % f.hidden
  if ex = 0 then (fr, f.emin) else (fr + f.hidden, f.emin + (ex : Int) - 1)

/-- The value of a code (R42, R43, R48). -/
def Fmt.value (f : Fmt) (x : Nat) : Num :=
  let neg := decide (f.signBit ≤ x % 2 ^ f.width)
  let c := x % f.signBit
  if c ≤ f.maxCode then .fin neg (f.magnitude c).1 (f.magnitude c).2
  else if f.hasInf && c == f.infCode then .inf neg
  else .nan (f.hasInf && !((c / (f.hidden / 2)).testBit 0))

/-- A power of two with a non-negative exponent taken from an integer. -/
def pow2 (e : Int) : Nat := 2 ^ e.toNat

/-- The number of bits of a number: 0 for 0. -/
def bitLen (m : Nat) : Nat := if m = 0 then 0 else Nat.log2 m + 1

/-- Whether m·2^e exceeds n·2^q. -/
def magGt (m : Nat) (e : Int) (n : Nat) (q : Int) : Bool :=
  let lo := min e q
  decide (n * pow2 (q - lo) < m * pow2 (e - lo))

/-- The magnitude m·2^e, plus a little more where `sticky`, rounded to a multiple of 2^q in a mode, and whether
the result is inexact (R45). With `sticky`, q lies above e. -/
def roundAt (rm : Rm) (neg : Bool) (m : Nat) (e : Int) (sticky : Bool) (q : Int) : Nat × Bool :=
  if q ≤ e then (m * pow2 (e - q), sticky)
  else
    let d := pow2 (q - e)
    let n := m / d
    let r := m % d
    let inexact := sticky || decide (r ≠ 0)
    let up : Bool :=
      match rm with
      | .rne => decide (d < 2 * r) || (decide (2 * r = d) && (sticky || decide (n % 2 = 1)))
      | .rna => decide (d ≤ 2 * r)
      | .rtz => false
      | .rdn => neg && inexact
      | .rup => !neg && inexact
    (if up then n + 1 else n, inexact)

/-- Whether an overflow in a mode gives an infinity rather than the largest finite value (R46). -/
def overflowsToInf (rm : Rm) (neg : Bool) : Bool :=
  match rm with
  | .rne => true
  | .rna => true
  | .rtz => false
  | .rdn => neg
  | .rup => !neg

/-- A rounded result: its value and its flags. -/
structure Rounded where
  value : Num
  flags : FFlags
  deriving DecidableEq, Repr

/-- One rounding of the magnitude m·2^e (a little more where `sticky`) to `p` significant bits in a format's range
(R45, R46, R66). An overflow that delivers no infinity delivers the largest finite value. -/
def roundTo (f : Fmt) (p : Nat) (rm : Rm) (neg : Bool) (m : Nat) (e : Int) (sticky : Bool) : Rounded :=
  if m = 0 && !sticky then ⟨.fin neg 0 f.emin, noFlags⟩
  else
    let qu := e + (bitLen m : Int) - (p : Int)
    let q := max qu f.emin
    let (nu, _) := roundAt rm neg m e sticky qu
    let (n, inexact) := roundAt rm neg m e sticky q
    let (mm, me) := f.magnitude f.maxCode
    if magGt nu qu mm me then
      ⟨if overflowsToInf rm neg then .inf neg else .fin neg mm me, flagOF ||| flagNX⟩
    else
      let tiny := magGt 1 (f.emin + (f.prec : Int) - 1) nu qu
      ⟨.fin neg n q, if inexact then (if tiny then flagUF ||| flagNX else flagNX) else noFlags⟩

/-- The code of a value that the format holds exactly; a NaN gives the canonical NaN (R43). A format without
infinities gives its NaN code for one. -/
def Fmt.code (f : Fmt) (v : Num) : Nat :=
  match v with
  | .nan _ => f.nanCode
  | .inf neg => if f.hasInf then (if neg then f.signBit else 0) + f.infCode else f.nanCode
  | .fin neg m e =>
    let s := if neg then f.signBit else 0
    if m = 0 then s
    else
      let q := max (e + (bitLen m : Int) - (f.prec : Int)) f.emin
      let n := if q ≤ e then m * pow2 (e - q) else m / pow2 (q - e)
      s + (q - f.emin).toNat * f.hidden + n

/-- A value delivered with its flags. -/
abbrev FpRes := Nat × FFlags

/-- A rounded result as a code and flags. -/
def Fmt.deliver (f : Fmt) (r : Rounded) : FpRes := (f.code r.value, r.flags)

/-- The invalid result: the canonical NaN and NV (R43, R46). -/
def Fmt.invalid (f : Fmt) : FpRes := (f.nanCode, flagNV)

/-- A quiet NaN operand's result: the canonical NaN (R43). -/
def Fmt.quiet (f : Fmt) : FpRes := (f.nanCode, noFlags)

/-- An exact value rounded once in a format (R45). -/
def Fmt.round (f : Fmt) (rm : Rm) (neg : Bool) (m : Nat) (e : Int) : FpRes :=
  f.deliver (roundTo f f.prec rm neg m e false)

/-- Whether a value is a signalling NaN (R43). -/
def Num.isSignalling : Num → Bool
  | .nan s => s
  | .inf _ => false
  | .fin _ _ _ => false

/-- Whether a value is a NaN. -/
def Num.isNan : Num → Bool
  | .nan _ => true
  | .inf _ => false
  | .fin _ _ _ => false

/-- The value with its sign inverted. -/
def Num.negate : Num → Num
  | .nan s => .nan s
  | .inf n => .inf (!n)
  | .fin n m e => .fin (!n) m e

/-- The signed number m·2^e as a multiple of 2^lo, lo at most e. -/
def scaled (neg : Bool) (m : Nat) (e lo : Int) : Int :=
  let v : Int := (m * pow2 (e - lo) : Nat)
  if neg then -v else v

/-- The exact sum of two finite values, rounded once; an exact zero follows R47. -/
def addFin (f : Fmt) (rm : Rm) (n1 : Bool) (m1 : Nat) (e1 : Int) (n2 : Bool) (m2 : Nat) (e2 : Int) : FpRes :=
  let lo := min e1 e2
  let v := scaled n1 m1 e1 lo + scaled n2 m2 e2 lo
  if v = 0 then
    let neg := if m1 = 0 && m2 = 0 && n1 == n2 then n1 else decide (rm = Rm.rdn)
    (f.code (.fin neg 0 f.emin), noFlags)
  else f.round rm (decide (v < 0)) v.natAbs lo

/-- The sum of two values (R46, R47, R125). -/
def addNum (f : Fmt) (rm : Rm) (x y : Num) : FpRes :=
  if x.isSignalling || y.isSignalling then f.invalid
  else match x, y with
    | .nan _, _ => f.quiet
    | _, .nan _ => f.quiet
    | .inf a, .inf b => if a == b then (f.code (.inf a), noFlags) else f.invalid
    | .inf a, .fin _ _ _ => (f.code (.inf a), noFlags)
    | .fin _ _ _, .inf b => (f.code (.inf b), noFlags)
    | .fin n1 m1 e1, .fin n2 m2 e2 => addFin f rm n1 m1 e1 n2 m2 e2

/-- The exact product of two values; `none` for 0 × ∞ (R46, R128). NaN operands are handled before. -/
def mulExact (x y : Num) : Option Num :=
  match x, y with
  | .nan s, _ => some (.nan s)
  | _, .nan s => some (.nan s)
  | .inf a, .inf b => some (.inf (a != b))
  | .inf a, .fin b m _ => if m = 0 then none else some (.inf (a != b))
  | .fin a m _, .inf b => if m = 0 then none else some (.inf (a != b))
  | .fin a m e, .fin b n q => some (.fin (a != b) (m * n) (e + q))

/-- The product of two values, rounded once (R125). -/
def mulNum (f : Fmt) (rm : Rm) (x y : Num) : FpRes :=
  if x.isSignalling || y.isSignalling then f.invalid
  else match mulExact x y with
    | none => f.invalid
    | some (.nan _) => f.quiet
    | some (.inf n) => (f.code (.inf n), noFlags)
    | some (.fin n m e) => f.round rm n m e

/-- x·y + z with a single rounding (R128). -/
def fmaNum (f : Fmt) (rm : Rm) (x y z : Num) : FpRes :=
  if x.isSignalling || y.isSignalling || z.isSignalling then f.invalid
  else match mulExact x y with
    | none => f.invalid
    | some p => addNum f rm p z

/-- a + b of two codes (R125). -/
def fpAdd (f : Fmt) (rm : Rm) (a b : Nat) : FpRes := addNum f rm (f.value a) (f.value b)
/-- a − b of two codes (R125). -/
def fpSub (f : Fmt) (rm : Rm) (a b : Nat) : FpRes := addNum f rm (f.value a) (f.value b).negate
/-- a × b of two codes (R125). -/
def fpMul (f : Fmt) (rm : Rm) (a b : Nat) : FpRes := mulNum f rm (f.value a) (f.value b)
/-- a·b + c of three codes (R128). -/
def fpFma (f : Fmt) (rm : Rm) (a b c : Nat) : FpRes := fmaNum f rm (f.value a) (f.value b) (f.value c)
/-- a·b − c of three codes: a·b + (−c) (R128). -/
def fpFms (f : Fmt) (rm : Rm) (a b c : Nat) : FpRes := fmaNum f rm (f.value a) (f.value b) (f.value c).negate

/-- Whether x < y, with −0 below +0 where `zeros`; neither is a NaN. -/
def numLt (zeros : Bool) (x y : Num) : Bool :=
  match x, y with
  | .nan _, _ => false
  | _, .nan _ => false
  | .inf a, .inf b => a && !b
  | .inf a, .fin _ _ _ => a
  | .fin _ _ _, .inf b => !b
  | .fin n1 m1 e1, .fin n2 m2 e2 =>
    let lo := min e1 e2
    let a := scaled n1 m1 e1 lo
    let b := scaled n2 m2 e2 lo
    decide (a < b) || (zeros && m1 == 0 && m2 == 0 && n1 && !n2)

/-- Whether two values compare equal: −0 equals +0, a NaN equals nothing (R106). -/
def numEq (x y : Num) : Bool :=
  !x.isNan && !y.isNan && !numLt false x y && !numLt false y x

/-- minimumNumber and maximumNumber (R44): the code of the result and NV for a signalling operand. -/
def fpMinMax (f : Fmt) (maximum : Bool) (a b : Nat) : FpRes :=
  let x := f.value a
  let y := f.value b
  let fl := if x.isSignalling || y.isSignalling then flagNV else noFlags
  if x.isNan then (if y.isNan then f.nanCode else b, fl)
  else if y.isNan then (a, fl)
  else if maximum then (if numLt true x y then b else a, fl)
  else (if numLt true y x then b else a, fl)

/-- The class mask of a value (R126). -/
def fpClass (f : Fmt) (a : Nat) : Nat :=
  let small := decide (a % f.signBit < f.hidden)
  match f.value a with
  | .nan true => 2 ^ 8
  | .nan false => 2 ^ 9
  | .inf true => 2 ^ 0
  | .inf false => 2 ^ 7
  | .fin true m _ => if m = 0 then 2 ^ 3 else if small then 2 ^ 2 else 2 ^ 1
  | .fin false m _ => if m = 0 then 2 ^ 4 else if small then 2 ^ 5 else 2 ^ 6

/-- Rounding to an integral value, which raises NV for a signalling operand only (R125). -/
def fpIntegral (f : Fmt) (rm : Rm) (a : Nat) : FpRes :=
  match f.value a with
  | .nan s => if s then f.invalid else f.quiet
  | .inf n => (f.code (.inf n), noFlags)
  | .fin n m e => (f.code (.fin n (roundAt rm n m e false 0).1 0), noFlags)

/-- The floating-point condition of CMP and the NV it raises (R106). -/
def fpCompare (f : Fmt) (cond : BitVec 3) (a b : Nat) : Bool × FFlags :=
  let x := f.value a
  let y := f.value b
  let un := x.isNan || y.isNan
  let quietNv := if x.isSignalling || y.isSignalling then flagNV else noFlags
  let anyNv := if un then flagNV else noFlags
  let lt := numLt false x y
  let eq := numEq x y
  match cond with
  | 0#3 => (eq, quietNv)
  | 1#3 => (!eq, quietNv)
  | 2#3 => (lt, anyNv)
  | 3#3 => (lt || eq, anyNv)
  | 4#3 => (!un && !lt && !eq, anyNv)
  | 5#3 => (!un && !lt, anyNv)
  | 6#3 => (un, quietNv)
  | 7#3 => (!un, quietNv)

/-- Conversion to an integer of the range lo..hi: clamped with NV, or rounded with NX (R131, R50). -/
def fpToInt (f : Fmt) (rm : Rm) (lo hi : Int) (a : Nat) : Int × FFlags :=
  match f.value a with
  | .nan _ => (0, flagNV)
  | .inf n => (if n then lo else hi, flagNV)
  | .fin n m e =>
    let (k, inexact) := roundAt rm n m e false 0
    let v : Int := if n then -(k : Int) else (k : Int)
    if v < lo then (lo, flagNV)
    else if hi < v then (hi, flagNV)
    else (v, if inexact then flagNX else noFlags)

/-- An integer rounded into a format (R133). -/
def fpOfInt (f : Fmt) (rm : Rm) (v : Int) : FpRes :=
  if v = 0 then (0, noFlags) else f.round rm (decide (v < 0)) v.natAbs 0

/-- Narrowing under a saturate control (R49, R132): overflow gives the largest finite value where `sat`. -/
def fpNarrow (src dst : Fmt) (sat : Bool) (rm : Rm) (a : Nat) : FpRes :=
  match src.value a with
  | .nan s => if s then dst.invalid else dst.quiet
  | .inf n =>
    if dst.hasInf then (dst.code (.inf n), noFlags)
    else if sat then ((if n then dst.signBit else 0) + dst.maxCode, noFlags)
    else dst.invalid
  | .fin n m e =>
    let r := roundTo dst dst.prec rm n m e false
    if sat && (r.flags &&& flagOF) == flagOF then ((if n then dst.signBit else 0) + dst.maxCode, r.flags)
    else dst.deliver r

/-- Exact widening: a NaN becomes the canonical NaN, with NV if it was signalling (R132, R136). -/
def fpWiden (src dst : Fmt) (a : Nat) : FpRes :=
  match src.value a with
  | .nan s => if s then dst.invalid else dst.quiet
  | v => (dst.code v, noFlags)

/-- The larger integer square root: the greatest r below 2^n with r·r at most v. -/
def isqrtBits : Nat → Nat → Nat → Nat
  | 0, _, r => r
  | n + 1, v, r => let r' := r + 2 ^ n; isqrtBits n v (if r' * r' ≤ v then r' else r)

/-- The integer square root. -/
def isqrt (v : Nat) : Nat := isqrtBits (bitLen v / 2 + 1) v 0

/-- 1/(m·2^e) to p + 3 bits and more: numerator, exponent, and whether something remains. -/
def recipParts (p m : Nat) (e : Int) : Nat × Int × Bool :=
  let k := bitLen m + p + 3
  (2 ^ k / m, -(k : Int) - e, decide (2 ^ k % m ≠ 0))

/-- 1/√(m·2^e) to p + 3 bits and more. -/
def rsqrtParts (p m : Nat) (e : Int) : Nat × Int × Bool :=
  let odd := decide (e % 2 ≠ 0)
  let m' := if odd then 2 * m else m
  let e' := if odd then e - 1 else e
  let k := bitLen m' + p + 3
  let r := isqrt (2 ^ (2 * k) / m')
  (r, -(k : Int) - e' / 2, decide (r * r * m' ≠ 2 ^ (2 * k)))

/-- RCP and DRCP at precision p (R66, R67). -/
def fpRecip (f : Fmt) (p : Nat) (a : Nat) : FpRes :=
  match f.value a with
  | .nan s => if s then f.invalid else f.quiet
  | .inf n => (f.code (.fin n 0 f.emin), noFlags)
  | .fin n m e =>
    if m = 0 then (f.code (.inf n), flagDZ)
    else let (k, q, st) := recipParts p m e; f.deliver (roundTo f p .rne n k q st)

/-- RSQ and DRSQ at precision p (R66, R67). -/
def fpRsqrt (f : Fmt) (p : Nat) (a : Nat) : FpRes :=
  match f.value a with
  | .nan s => if s then f.invalid else f.quiet
  | .inf n => if n then f.invalid else (f.code (.fin false 0 f.emin), noFlags)
  | .fin n m e =>
    if m = 0 then (f.code (.inf n), flagDZ)
    else if n then f.invalid
    else let (k, q, st) := rsqrtParts p m e; f.deliver (roundTo f p .rne false k q st)

/-- The fixed-point scale of the transcendental functions: 2^-256. -/
def fixBits : Nat := 256
/-- ln 2 · 2^256, rounded down. -/
def fixLn2 : Nat := 0xb17217f7d1cf79abc9e3b39803f2f6af40f343267298b62d8a0d175b8baafa2b
/-- π · 2^256, rounded down. -/
def fixPi : Nat := 0x3243f6a8885a308d313198a2e03707344a4093822299f31d0082efa98ec4e6c89

/-- The product of two fixed-point numbers. -/
def fixMul (x y : Nat) : Nat := x * y / 2 ^ fixBits

/-- The series Σ x^k/k! from a term on (fixed point). -/
def expSeries : Nat → Nat → Nat → Nat → Nat
  | 0, _, _, _ => 0
  | n + 1, k, x, t => t + expSeries n (k + 1) x (fixMul t x / (k + 1))

/-- 2^y for a fixed-point y in [0, 1). -/
def fixExp2 (y : Nat) : Nat := expSeries 64 0 (fixMul y fixLn2) (2 ^ fixBits)

/-- The series Σ z^(2k+1)/(2k+1) (fixed point), from a power on. -/
def atanhSeries : Nat → Nat → Nat → Nat → Nat
  | 0, _, _, _ => 0
  | n + 1, k, z2, t => t / (2 * k + 1) + atanhSeries n (k + 1) z2 (fixMul t z2)

/-- log2 of a fixed-point f in [1, 2). -/
def fixLog2 (x : Nat) : Nat :=
  let z := (x - 2 ^ fixBits) * 2 ^ fixBits / (x + 2 ^ fixBits)
  2 * atanhSeries 84 0 (fixMul z z) z * 2 ^ fixBits / fixLn2

/-- The sine series x − x³/3! + … from a term on, as an integer (fixed point). -/
def sinSeries : Nat → Nat → Nat → Nat → Int
  | 0, _, _, _ => 0
  | n + 1, k, x2, t => (t : Int) - sinSeries n (k + 2) x2 (fixMul t x2 / ((k + 1) * (k + 2)))

/-- sin 2πt for a fixed-point t in [0, 1/4] turns. -/
def fixSinTurn (t : Nat) : Nat :=
  let x := fixMul t (2 * fixPi)
  (sinSeries 36 1 (fixMul x x) x).toNat

/-- The magnitude m·2^e as a fixed-point number, rounded down (exact for FP32 operands below 2). -/
def toFix (m : Nat) (e : Int) : Nat :=
  if -(fixBits : Int) ≤ e then m * pow2 (e + (fixBits : Int)) else m / pow2 (-(fixBits : Int) - e)

/-- LOG2 (R66, R67). -/
def fpLog2 (a : Nat) : FpRes :=
  match fp32.value a with
  | .nan s => if s then fp32.invalid else fp32.quiet
  | .inf n => if n then fp32.invalid else (fp32.code (.inf false), noFlags)
  | .fin n m e =>
    if m = 0 then (fp32.code (.inf true), flagDZ)
    else if n then fp32.invalid
    else
      let k : Int := e + (bitLen m : Int) - 1
      let fr := m * 2 ^ (fixBits + 1 - bitLen m)
      if fr = 2 ^ fixBits then fp32.deliver (roundTo fp32 16 .rne (decide (k < 0)) k.natAbs 0 false)
      else
        let l : Int := k * (2 ^ fixBits : Nat) + (fixLog2 fr : Int)
        if 0 ≤ l then fp32.deliver (roundTo fp32 16 .rne false l.natAbs (-(fixBits : Int)) true)
        else fp32.deliver (roundTo fp32 16 .rne true (l.natAbs - 1) (-(fixBits : Int)) true)

/-- EXP2 (R66, R67). -/
def fpExp2 (a : Nat) : FpRes :=
  match fp32.value a with
  | .nan s => if s then fp32.invalid else fp32.quiet
  | .inf n => (fp32.code (if n then .fin false 0 0 else .inf false), noFlags)
  | .fin n m e =>
    let lo : Int := min e 0
    let v := scaled n m e lo
    let d : Int := (pow2 (-lo) : Nat)
    let k := v / d
    let r := v % d
    if 128 ≤ k then fp32.deliver ⟨.inf false, flagOF ||| flagNX⟩
    else if k < -200 then fp32.deliver (roundTo fp32 16 .rne false 1 (-200) true)
    else if r = 0 then fp32.deliver (roundTo fp32 16 .rne false 1 k false)
    else fp32.deliver (roundTo fp32 16 .rne false (fixExp2 (toFix r.toNat lo)) (k - (fixBits : Int)) true)

/-- ±sin 2πt for t in [0, 1/4] turns given as a multiple of 2^-151: exact at both ends (R68). -/
def sinQuarter (neg zeroNeg : Bool) (t : Nat) : FpRes :=
  if t = 0 then (fp32.code (.fin zeroNeg 0 0), noFlags)
  else if t = 2 ^ 149 then (fp32.code (.fin neg 1 0), noFlags)
  else fp32.deliver (roundTo fp32 16 .rne neg (fixSinTurn (t * 2 ^ (fixBits - 151))) (-(fixBits : Int)) true)

/-- The operand in turns less its nearest integer, as a multiple of 2^-151 (R68): the sign and the magnitude. -/
def turnReduce (n : Bool) (m : Nat) (e : Int) : Bool × Nat :=
  let one := 2 ^ 151
  let v := (m * pow2 (e + 151)) % one
  if v ≤ 2 ^ 150 then (n, v) else (!n, one - v)

/-- SINR (R67, R68). -/
def fpSinr (a : Nat) : FpRes :=
  match fp32.value a with
  | .nan s => if s then fp32.invalid else fp32.quiet
  | .inf _ => fp32.invalid
  | .fin n m e =>
    let (s, r) := turnReduce n m e
    if r ≤ 2 ^ 149 then sinQuarter s n r else sinQuarter s n (2 ^ 150 - r)

/-- COSR (R67, R68). -/
def fpCosr (a : Nat) : FpRes :=
  match fp32.value a with
  | .nan s => if s then fp32.invalid else fp32.quiet
  | .inf _ => fp32.invalid
  | .fin n m e =>
    let (_, r) := turnReduce n m e
    if r ≤ 2 ^ 149 then sinQuarter false false (2 ^ 149 - r) else sinQuarter true false (r - 2 ^ 149)

/-- The code value of a B4 element that is not the escape, as a multiple of 1/2 (R51). -/
def b4Half (c : BitVec 4) : Int :=
  let g : Int := match c.extractLsb' 0 3 with
    | 0#3 => 0
    | 1#3 => 1
    | 2#3 => 2
    | 3#3 => 3
    | 4#3 => 4
    | 5#3 => 6
    | 6#3 => 8
    | 7#3 => 12
  if c.extractLsb' 3 1 = 1#1 then -g else g

/-- Whether a B4 side word's record is ill-formed (R54). -/
def b4IllFormed (side : Half) : Bool :=
  side.extractLsb' 0 8 == 0xFF#8 || side.extractLsb' 8 8 == 0x7F#8 || side.extractLsb' 8 8 == 0xFF#8

/-- The exact value of element i of a B4 block (R52). -/
def b4Value (word : Word) (side : Half) (i : Nat) : Num :=
  let c := word.extractLsb' (4 * i) 4
  let sc : Int := ((side.extractLsb' 0 8).toNat : Int) - 127
  if c = 8#4 then
    match e4m3.value (side.extractLsb' 8 8).toNat with
    | .fin n m e => .fin n m (e + sc)
    | v => v
  else
    let h := b4Half c
    .fin (decide (h < 0)) h.natAbs (sc - 1)

/-- One element on its way into a B4 block: its code and its error as a multiple of 2^-160 (R137). -/
structure B4Item where
  code : Nat
  err : Nat
  flags : FFlags
  deriving DecidableEq, Repr

/-- The code of one value at scale s, and its error (R137). -/
def b4Item (rm : Rm) (s : Nat) (v : Num) : B4Item :=
  match v with
  | .nan _ => ⟨0, 0, flagNV⟩
  | .inf n => ⟨if n then 15 else 7, 0, flagNV⟩
  | .fin n m e =>
    let es := e - ((s : Int) - 127)
    let r := roundTo e2m1 2 rm n m es false
    let c := if (r.flags &&& flagOF) == flagOF then 7 else (e2m1.code r.value) % 8
    let w := (b4Half (BitVec.ofNat 4 c)).natAbs * pow2 ((s : Int) - 128 + 160)
    let x := m * pow2 (e + 160)
    ⟨if c = 0 then 0 else if n then c + 8 else c, if x ≤ w then w - x else x - w, noFlags⟩

/-- The lowest index of the largest error (R137), scanned with the best so far. -/
def b4Worst : List B4Item → Nat → Nat × Nat → Nat × Nat
  | [], _, best => best
  | it :: r, i, (j, e) => b4Worst r (i + 1) (if e < it.err then (i, it.err) else (j, e))

/-- The larger of two finite magnitudes, each m·2^e as a multiple of 2^-149 (R137). -/
def b4Max (vs : List Num) : Nat :=
  vs.foldl (fun a v => match v with
    | .fin _ m e => max a (m * pow2 (e + 149))
    | .inf _ => a
    | .nan _ => a) 0

/-- PKB4: the element word, the side word and the flags (R137). -/
def packB4 (rm : Rm) (vs : List Num) : Word × Word × FFlags :=
  let mx := b4Max vs
  let s : Nat := if mx = 0 then 127 else ((Nat.log2 mx : Int) - 149 + 125).toNat
  let items := vs.map (b4Item rm s)
  let (j, ej) := b4Worst items 0 (0, 0)
  let alt : Option (Nat × Nat) :=
    if ej = 0 then none
    else match vs[j]? with
      | some (.fin n m e) =>
        let r := roundTo e4m3 4 rm n m (e - ((s : Int) - 127)) false
        let xc := if (r.flags &&& flagOF) == flagOF then (if n then 0x80 else 0) + e4m3.maxCode else e4m3.code r.value
        match e4m3.value xc with
        | .fin _ xm xe =>
          let xv := xm * pow2 (xe + (s : Int) - 127 + 160)
          let v := m * pow2 (e + 160)
          let er := if v ≤ xv then xv - v else v - xv
          if er < ej then some (xc, er) else none
        | _ => none
      | _ => none
  let codes := items.map B4Item.code
  let codes := if alt.isSome then codes.set j 8 else codes
  let xc := match alt with
    | some (x, _) => x
    | none => 0
  let errs := items.map B4Item.err
  let errs := match alt with
    | some (_, er) => errs.set j er
    | none => errs
  let nv := items.foldl (fun f it => f ||| it.flags) noFlags
  let nx := if errs.any (fun x => x != 0) then flagNX else noFlags
  let word := codes.foldr (fun c acc => c + 16 * acc) 0
  (BitVec.ofNat 32 word, BitVec.ofNat 32 (xc * 256 + s), nv ||| nx)

/-- The exact accumulator of a set (R62). -/
structure Xac where
  v : BitVec 640
  xovf : Bool
  xnan : Bool
  xpinf : Bool
  xninf : Bool
  deriving DecidableEq, Repr

/-- A cleared accumulator (R62). -/
def Xac.zero : Xac := ⟨0#640, false, false, false, false⟩

/-- R63's last line: both infinities make a NaN. -/
def Xac.settle (x : Xac) : Xac := { x with xnan := x.xnan || (x.xpinf && x.xninf) }

/-- A term added to the accumulator (R63); the term is exact. -/
def Xac.addTerm (x : Xac) (t : Num) : Xac :=
  match t with
  | .nan _ => { x with xnan := true }
  | .inf n => Xac.settle (if n then { x with xninf := true } else { x with xpinf := true })
  | .fin n m e =>
    let w := x.v.toInt + scaled n m e (-320)
    let ovf := decide (w < -(2 ^ 639)) || decide ((2 : Int) ^ 639 ≤ w)
    Xac.settle { x with v := BitVec.ofInt 640 w, xovf := x.xovf || ovf }

/-- The product term a×b of two FP32 codes; 0 × ∞ is a NaN (R63). -/
def xacProduct (a b : Nat) : Num :=
  match mulExact (fp32.value a) (fp32.value b) with
  | some t => t
  | none => .nan false

/-- Accumulators combined when sets are recut (R36, R65): XOVF is set if the total leaves the range, whatever a partial sum does
(DEDUCED, log 67). -/
def Xac.total (l : List Xac) : Xac :=
  let w := l.foldl (fun a x => a + x.v.toInt) 0
  let ovf := decide (w < -(2 ^ 639)) || decide ((2 : Int) ^ 639 ≤ w)
  Xac.settle ⟨BitVec.ofInt 640 w, ovf || l.any Xac.xovf, l.any Xac.xnan, l.any Xac.xpinf, l.any Xac.xninf⟩

/-- XRND and XRNDD: the accumulator rounded once in RNE (R64). -/
def Xac.rounded (x : Xac) (f : Fmt) : FpRes :=
  if x.xnan || x.xovf then f.invalid
  else if x.xpinf then (f.code (.inf false), noFlags)
  else if x.xninf then (f.code (.inf true), noFlags)
  else if x.v.toInt = 0 then (0, noFlags)
  else f.round .rne (decide (x.v.toInt < 0)) x.v.toInt.natAbs (-320)

/-- One level of the pairwise tree of RFADD and RDADD, with the flags gathered (R60). -/
def treeLevel (f : Fmt) : List Nat → FFlags → List Nat × FFlags
  | a :: b :: r, fl =>
    let (s, g) := fpAdd f .rne a b
    let (t, h) := treeLevel f r (fl ||| g)
    (s :: t, h)
  | l, fl => (l, fl)

/-- The pairwise tree (R60), with as many levels as needed. A value that no addition meets, in a set of one lane or in lane 0 of a
scan, is handed on bit for bit, a NaN among them, as R60's and R61's pseudocode has it (DEDUCED, log 68). -/
def treeSum (f : Fmt) : Nat → List Nat → FFlags → FpRes
  | 0, l, fl => (l.headD 0, fl)
  | n + 1, l, fl =>
    match l with
    | [] => (0, fl)
    | [a] => (a, fl)
    | _ => let (l', g) := treeLevel f l fl; treeSum f n l' g

/-- Integer condition of CMP and CMPI on words of any width (R106). -/
def intCompare {w : Nat} (cond : BitVec 3) (a b : BitVec w) : Bool :=
  match cond with
  | 0#3 => a == b
  | 1#3 => a != b
  | 2#3 => a.slt b
  | 3#3 => a.sle b
  | 4#3 => b.slt a
  | 5#3 => b.sle a
  | 6#3 => a.ult b
  | 7#3 => b.ule a

/-- Signed clamp to 32 bits (R101). -/
def clamp32 (v : Int) : Word := BitVec.ofInt 32 (min (max v (-(2 ^ 31))) (2 ^ 31 - 1))

/-- The number of one bits (R100). -/
def popCount (v : Word) : Word := BitVec.ofNat 32 ((List.range 32).filter fun i => v.getLsbD i).length

/-- The number of leading zero bits (R100). -/
def leadingZeros (v : Word) : Word := BitVec.ofNat 32 (32 - bitLen v.toNat)

/-- The number of trailing zero bits (R100). -/
def trailingZeros (v : Word) : Word :=
  BitVec.ofNat 32 (((List.range 32).find? fun i => v.getLsbD i).getD 32)

/-- The bit order reversed (R100). -/
def bitReverse (v : Word) : Word := v.reverse

/-- BFE (R111). -/
def bitExtract (a b : Word) : Word :=
  let pos := (b.extractLsb' 0 5).toNat
  let l := min (b.extractLsb' 8 6).toNat (32 - pos)
  let m : Word := BitVec.ofNat 32 (2 ^ l - 1)
  let v := (a >>> pos) &&& m
  if b.getLsbD 16 && decide (0 < l) && v.getLsbD (l - 1) then v ||| ~~~m else v

/-- BFI (R111). -/
def bitInsert (a b c : Word) : Word :=
  let pos := (b.extractLsb' 0 5).toNat
  let l := min (b.extractLsb' 8 6).toNat (32 - pos)
  let m : Word := BitVec.ofNat 32 (2 ^ l - 1)
  (c &&& ~~~(m <<< pos)) ||| ((a &&& m) <<< pos)

end Sys2Proof.Machine
end

