-- ==== Sys2Proof/Machine/State.lean ====
section
/-!
DEFINITION. The state of one W80 module as plain data (R15, R175 and the chapters' state), and the state after reset.
-/

namespace Sys2Proof.Machine

/-- The reasons the model stops with a fault. A fault of a micro-thread, of the caller or of an engine is never
one of these: it is taken, and the machine goes on (R274, R280, R321). -/
inductive Fault where
  /-- Raised by nothing in this model: memory covers the whole physical map and every read answers. Safe. -/
  | noMemory (pa : Nat)
  deriving DecidableEq, Repr

/-- The reasons the model refuses an instruction. -/
inductive Refusal where
  /-- Raised by an arm of exec whose instruction has no meaning yet, with its mnemonic. Safe: nothing is claimed. -/
  | notModelled (mnemonic : String)
  deriving DecidableEq, Repr

/-- Lifecycle states, in the coding of window 70 (R28, R199). -/
inductive Life where
  | created | called | free | parked | faulted | halted | retired
  deriving DecidableEq, Repr, Inhabited

/-- Modes of a micro-thread (R15, R26, R27). -/
inductive Mode where
  | called | free
  deriving DecidableEq, Repr, Inhabited

/-- A position inside a figure: its address, a byte offset, and how many long-latency instructions precede it
(R72, R88). -/
structure Pos where
  fig : Word
  off : Nat
  ll : Nat
  deriving DecidableEq, Repr, Inhabited

/-- What FIG.RESUME with retry does for a fault (R88, R113, R169, R206, R221). -/
inductive Redo where
  /-- issue the faulting instruction again -/
  | instruction
  /-- send an access, a queue instruction, a post or a MINT again -/
  | access (flight : Nat)
  /-- nothing is reissued: the micro-thread continues -/
  | nothing
  deriving DecidableEq, Repr, Inhabited

/-- A fault of a micro-thread: what its message carries (R274, R275), and how it stands (R88, R169, R277). -/
structure FaultInfo where
  code : Byte
  detail : Word
  fig : Word
  off : Nat
  gen : Half
  /-- the instruction's bytes, 2 or 4 (8 for a FAR trailer), which skip passes over -/
  len : Nat
  /-- the long-latency instructions before it in the figure -/
  ll : Nat
  /-- faulted inside a figure: the temporaries and the position are kept -/
  inFig : Bool
  /-- the faulting instruction is the trailer, with this await mask -/
  trailer : Option (BitVec 8)
  redo : Redo
  posted : Bool
  /-- faults of one turn share a stamp: their messages are posted in ascending slot order (R277) -/
  stamp : Nat
  deriving DecidableEq, Repr, Inhabited

/-- The linked operation a micro-thread is parked on (R256). -/
inductive Link where
  | none
  | qpop (header : Nat)
  | qpush (header : Nat) (item : Word)
  | recvw
  deriving DecidableEq, Repr, Inhabited

/-- One micro-thread slot with the micro-thread in it (R15, R24, R25). Registers are indexed by operand code:
0-55 are g0-g55, 56-63 are t0-t7 (R76). -/
structure Micro where
  gen : Half
  owner : Option Nat
  life : Life
  held : Life
  mode : Mode
  regs : Vector Word 64
  pend : BitVec 64
  preds : BitVec 7
  pc : Word
  fflags : FFlags
  frm : BitVec 3
  csp : Word
  mailbox : Option Word
  cych : Option Word
  resume : Word
  bud : Nat
  role : Nat
  await : BitVec 8
  callq : List Word
  linked : Link
  linkDst : Option Reg
  nextWaiter : Option Nat
  /-- the convergence registers it waits for, each with the moment of its CVWAIT (R223) -/
  cvWaits : Tbl Nat
  lvWaits : BitVec 8
  evWaits : BitVec 64
  quitting : Bool
  /-- joins with WAIT it waits for (R243) -/
  joinWaits : Nat
  /-- a YIELD of this figure (R265) -/
  yielding : Bool
  /-- re-sliced while it waited: called, and it takes no figure until its waits are satisfied (R29, R37) -/
  rearmed : Bool
  arrived : BitVec 8
  late : BitVec 8
  /-- the position at which it continues inside a figure after retry or skip (R468) -/
  pos : Option Pos
  fault : Option FaultInfo
  deferred : List FaultInfo
  /-- accesses of it parked on a page, and a code fetch so parked (R170, R182) -/
  parkedOn : List Nat
  codePark : Option Nat
  /-- the order in which it became eligible (R38) -/
  since : Nat
  /-- whence the pending transfer to its next figure came: figure and trailer offset (R74) -/
  from_ : Option (Word × Nat)
  /-- registers whose word has an uncorrectable error (R283) -/
  bad : BitVec 64 := 0#64
  deriving DecidableEq, Repr

/-- A slot as it is at reset: retired, owned by no launch, generation 0 (R25; log 2, log 12). -/
def Micro.blank : Micro :=
  { gen := 0#16, owner := none, life := .retired, held := .retired, mode := .called,
    regs := Vector.replicate 64 0#32, pend := 0#64, preds := 0#7, pc := 0#32, fflags := 0#5, frm := 0#3,
    csp := 0#32, mailbox := none, cych := none, resume := 0#32, bud := 0, role := 0, await := 0#8, callq := [],
    linked := .none, linkDst := none, nextWaiter := none, cvWaits := [], lvWaits := 0#8, evWaits := 0#64,
    quitting := false, joinWaits := 0, yielding := false, rearmed := false, arrived := 0#8, late := 0#8, pos := none,
    fault := none, deferred := [], parkedOn := [], codePark := none, since := 0, from_ := none }

/-- The issue group in one rotation slot of one port (R177, R180): its launch, its figure and the offset of its next
instruction, the long-latency instructions so far, its members in ascending slot order, and the lines it waits for. -/
structure Group where
  launch : Nat
  fig : Word
  off : Nat
  ll : Nat
  members : List Nat
  waiting : List Nat
  deriving DecidableEq, Repr

/-- A signature of an epoch (R219). -/
structure Sig where
  slot : Nat
  gen : Half
  fw : Word
  f7 : BitVec 7
  p0 : Word
  p1 : Word
  fig : Word
  off : Nat
  word : Word
  regs : BitVec 12
  /-- the moment of signing -/
  seq : Nat
  deriving DecidableEq, Repr, Inhabited

/-- An operation of the matrix array (R230, R234). -/
inductive MxOp where
  | mma (f7 : BitVec 7) (fw p0 p1 : Word) (cv : Nat) (sigs : List Sig)
  | accz (tile : Nat)
  | accld (tile off : Nat)
  | accst (tile : Nat) (a fw : Word)
  | wbld (unit : Nat) (report : Word) (src : Nat) (fw : Word)
  | skset (sk ptr left : Nat)
  | join (id : Nat)
  deriving DecidableEq, Repr, Inhabited

/-- How far a merge is (R167, R168): i, j and n, the elements A[i] and B[j] it has read and not yet passed, and the keys it
has still to emit. -/
structure Merge where
  i : Nat
  j : Nat
  n : Nat
  x : Option Nat
  y : Option Nat
  out : List Nat
  deriving DecidableEq, Repr, Inhabited

/-- A merge that starts (R167, R171). -/
def Merge.start : Merge := ⟨0, 0, 0, none, none, []⟩

/-- What a flight carries out: the accesses, posts, messages and fences of a micro-thread or a caller, from issue until
nothing of them remains (R169, R173, R242, R258, R270). -/
inductive Op where
  | load (size : BitVec 3) (kind : BitVec 2)
  | store (bytes : Nat) (kind : BitVec 2) (data : QWord)
  | atomic (f7 : BitVec 7) (operand : QWord)
  /-- MRG: f7, the stream and output descriptors, and how far it is (R166, R167) -/
  | merge (f7 : BitVec 7) (a b : List Word) (at_ : Merge)
  /-- FENCE: kind, scope, and the write-through entries present when it began (R173, R174, R363) -/
  | fence (kind scope : Nat) (entries : List Nat)
  | amo (op : AmoOp) (dbl : Bool) (operand : DWord)
  | sc (dbl : Bool) (data : DWord)
  /-- LR of a line in the twin's pool (R191) -/
  | reserve (dbl : Bool)
  | copy (ch desc : Nat)
  | cancel (ch : Nat)
  | join (mask : Nat)
  | csig (ch line : Nat)
  | gpost (desc : Nat)
  | gstat (ticket : Word)
  /-- QINIT-QCOUNT by f7: header offset, ring offset (QINIT), item or capacity (R254) -/
  | queue (f7 : Nat) (header ring : Nat) (item : Word)
  | spawn (pc : Word) (target : Nat) (args : List Word)
  | sendw (word : Word) (target slot : Nat) (reply : Bool) (gen : Half)
  | recvw
  | tpost (record : Nat)
  /-- HPOP of one set: its active lanes in ascending LANE, each with its hit queue (R317) -/
  | hpop (hq : Nat)
  | hcount (hq : Nat)
  | tcfg (source : Nat) (control : Word)
  | tcancel (tag : Word)
  /-- the arrival of an LVARR, held until its fence is satisfied (R267) -/
  | arrive (lvl : Nat)
  | mint (desc : List Word)
  /-- the MMA of a signer whose fault was deferred, for its retry (R221) -/
  | mma (cv : Nat) (f7 : BitVec 7) (a b : Reg)
  /-- an array operation whose fault was deferred to its issuer, for its retry (R231) -/
  | array (op : MxOp)
  deriving DecidableEq, Repr, Inhabited

/-- Where a flight stands. -/
inductive Stage where
  /-- in the store FIFO -/
  | fifo
  /-- a global store at the head of the FIFO whose page is translated (R170) -/
  | ready (pa : Nat) (cacheable : Bool)
  /-- on its way to its owning port, or to its TLU -/
  | request
  /-- the lower half of a 16-byte access is performed (R360) -/
  | half (low : DWord)
  /-- translated, on its way to its home -/
  | home (pa : Nat) (cacheable : Bool)
  /-- the home's line is on its way to the cluster; it is allocated there if `alloc` (R328, R330) -/
  | fill (line : Line) (alloc : Bool)
  /-- waiting for its page (R170) -/
  | parked
  /-- its result is on its way -/
  | reply (data : QWord) (flags : FFlags)
  /-- performed; its acknowledgement is on its way -/
  | acked
  /-- linked in a queue or a mailbox (R255, R256, R261) -/
  | linked
  /-- in an engine, which sends the result -/
  | engine
  /-- sent to the twin (R450) -/
  | twin
  /-- an element access of an engine or a merge is with the twin (R450) -/
  | asked
  /-- the answer to that access is here: the value read, or the acknowledgement of a write -/
  | answered (data : QWord)
  /-- that access met a fault -/
  | refused (code : Byte)
  /-- caught in a spill ring: its reply comes when the entry is replayed (R293) -/
  | caught
  /-- its deferred fault stands: it waits for FIG.RESUME (R169) -/
  | faulted
  deriving DecidableEq, Repr, Inhabited

/-- Whose flight it is: a micro-thread's, a caller's, or the store of one element by an engine (R366). -/
inductive Agent where
  | micro
  | caller
  | engine
  deriving DecidableEq, Repr, Inhabited

/-- A micro-thread a flight serves: slot and generation, whether it is still in the figure that issued the access, and
whether its trailer awaits the result (R72, R120). -/
structure Who where
  slot : Nat
  gen : Half
  inFig : Bool
  awaited : Bool
  deriving DecidableEq, Repr, Inhabited

/-- An access, post, message or fence in flight. -/
structure Flight where
  core : Nat
  launch : Nat
  agent : Agent
  /-- the micro-threads it serves (R162) -/
  who : List Who
  fig : Word
  off : Nat
  word : Word
  /-- its long-latency number, 8 where it has none (R72) -/
  ll : Nat
  dst : Reg
  dstN : Nat
  ea : DWord
  /-- when it was sent to its owning port, in the order of sending (R353) -/
  sent : Nat
  op : Op
  stage : Stage
  /-- the lower half of a global 16-byte access, once it is performed (R360) -/
  low : Option DWord := none
  /-- the MRG or the copy whose store this is; an engine's store names its queue in `off` and its element in `fig` -/
  parent : Option Nat := none
  /-- the pc of the caller's store (R280) -/
  pc : DWord := 0#64
  deriving DecidableEq, Repr, Inhabited

/-- A convergence register (R213, R219). -/
structure Cv where
  count : Nat
  sigs : List Sig
  deriving DecidableEq, Repr, Inhabited

/-- A skip stream (R213, R228). -/
structure Skip where
  ptr : Nat
  left : Nat
  run : Nat
  absent : Bool
  deriving DecidableEq, Repr, Inhabited

/-- A micro-thread instruction that entered an engine: what its completion or its fault names. -/
structure Issuer where
  slot : Nat
  gen : Half
  fig : Word
  off : Nat
  word : Word
  deriving DecidableEq, Repr, Inhabited

/-- An entry of the array's queue; `seq` bounds the stores that must have left the FIFO before it (R234). -/
structure MxEntry where
  launch : Nat
  issuer : Issuer
  seq : Nat
  op : MxOp
  deriving DecidableEq, Repr, Inhabited

/-- A dimension of a copy descriptor (R245). -/
structure Dim where
  count : Nat
  ss : Int
  ds : Int
  deriving DecidableEq, Repr, Inhabited

/-- A copy descriptor as read (R245, R246). -/
structure CopyDesc where
  src : DWord
  dst : DWord
  esize : Nat
  dims : List Dim
  flags : Byte
  evline : Nat
  bar : Nat
  deriving DecidableEq, Repr, Inhabited

/-- How far an engine is with the element in progress (R247, R341, R360): the lower half of a 16-byte element, once it is
read; the value, once all of it is; and whether the lower half of a 16-byte element is written. -/
structure Elem where
  low : Option DWord
  val : Option QWord
  half : Bool
  deriving DecidableEq, Repr, Inhabited

/-- An element that nothing has been done for. -/
def Elem.fresh : Elem := ⟨none, none, false⟩

/-- How a copy stands: waiting; started, with its element index, the bytes since the last subtraction, the element in
progress and whether CCANCEL has stopped it; or ended, with its status and waiting for its report (R246-R251). -/
inductive CopyState where
  | waiting
  | started (d : CopyDesc) (n uncounted : Nat) (el : Elem) (cancelled : Bool)
  | ended (d : Option CopyDesc) (n uncounted status code : Nat)
  deriving DecidableEq, Repr, Inhabited

/-- Kinds of entries of a copy channel (R241). -/
inductive ChanOp where
  | copy (flight desc : Nat) (st : CopyState) (held : Bool)
  | sig (line : Nat) (issuer : Issuer)
  | join (id : Nat)
  deriving DecidableEq, Repr, Inhabited

/-- An entry of a copy channel. -/
structure ChanEntry where
  launch : Nat
  op : ChanOp
  deriving DecidableEq, Repr, Inhabited

/-- A join: its launch, the engine queues it stands in, and who waits for it (R243). -/
structure Join where
  launch : Nat
  mask : Nat
  issuer : Issuer
  wait : Bool
  deriving DecidableEq, Repr, Inhabited

/-- Whether a message that is on its way still holds an entry of its sender's outbox, which holds 64, or stands in the
overflow list of a launch that is being saved (R263, R286). -/
inductive Box where
  | none
  | outbox
  | overflow
  deriving DecidableEq, Repr, Inhabited

/-- A message of kinds 1-4 in the inbox's fields (R262), with its launch. -/
structure Msg where
  kind : Nat
  reply : Bool
  src : Nat
  tslot : Nat
  tgen : Half
  value : Word
  ret : Word
  args : List Word
  launch : Nat
  box : Box := .none
  deriving DecidableEq, Repr, Inhabited

/-- A barrier message: the launch, the level, the episode, the sending core and, from the twin's die, its half (R268). -/
structure LvMsg where
  launch : Nat
  lvl : Nat
  episode : Nat
  core : Nat
  twin : Bool
  deriving DecidableEq, Repr, Inhabited

/-- A level record of a launch on a core (R268, R292); for a level of domain 1, `setEp` counts each set's arrivals. -/
structure Level where
  episode : Nat
  sent : Bool
  summoned : Bool
  homeSummoned : Bool
  arrivals : Nat
  received : List Nat
  setEp : Tbl Nat
  deriving DecidableEq, Repr, Inhabited

/-- A hit queue (R303, R317): the index keeps key, query entry and taken bit of the records from HEAD to TAIL. -/
structure HitQ where
  ring : Nat
  cap : Nat
  ev : Nat
  evEn : Bool
  head : Nat
  tail : Nat
  index : List (Nat × Nat × Bool)
  deriving DecidableEq, Repr, Inhabited

/-- States of a query after admission (R298). -/
inductive QState where
  | running
  | nodeWait
  /-- waiting with a record to append: is it the DONE record -/
  | hitWait (rec : List Byte) (done : Bool)
  | drain
  deriving DecidableEq, Repr, Inhabited

/-- Where a sub-query came from (R454). -/
structure Origin where
  core : Nat
  tag : Word
  h : Nat
  deriving DecidableEq, Repr, Inhabited

/-- A query entry of the traversal processor (R296-R324). -/
structure Query where
  launch : Nat
  record : List Byte
  tag : Word
  pc : Nat
  state : QState
  q : Vector Word 16
  n : Vector Word 8
  h : Vector Word 4
  node : Word
  stack : List (Word × Word)
  spilled : Nat
  spills : Nat
  buf : List Byte
  kind : Option Nat
  dec : Option Nat
  best : List (Word × Word)
  own : List Bool
  out : List Nat
  lost : Bool
  hits : Nat
  steps : Nat
  handoffs : Nat
  err : Option (Nat × Nat)
  cancel : Bool
  pageHeld : Option Nat
  origin : Option Origin
  sent : Nat
  /-- KBEST records still to append once the list is complete (R319) -/
  survivors : Option (List (Word × Word))
  nSurv : Nat
  deriving DecidableEq, Repr

/-- Entries of the query queue (R241, R301, R302). -/
inductive QqOp where
  | tpost (flight record : Nat)
  | tcfg (source : Nat) (control : Word) (issuer : Issuer)
  | join (id : Nat)
  deriving DecidableEq, Repr, Inhabited

/-- An entry of the query queue. -/
structure QqEntry where
  launch : Nat
  op : QqOp
  deriving DecidableEq, Repr, Inhabited

/-- A gather/scatter request (R338-R346). -/
structure GteReq where
  launch : Nat
  seq : Nat
  desc : Nat
  issuer : Issuer
  deriving DecidableEq, Repr, Inhabited

/-- Entries of a core's gather/scatter queue (R241). -/
inductive GqOp where
  | req (r : GteReq)
  | join (id : Nat)
  deriving DecidableEq, Repr, Inhabited

/-- An entry of the gather/scatter queue. -/
structure GqEntry where
  launch : Nat
  op : GqOp
  deriving DecidableEq, Repr, Inhabited

/-- A started request: its descriptor's bytes, the next element, the page probed for it with the translation held (R343),
whether it waits for a page, its end (STATUS, N) once decided (R340-R345), and of the next element its index, its DATA
and whether a spill ring has a read of it (R293). -/
structure GteRun where
  req : GteReq
  bytes : List Byte
  i : Nat
  probed : Option (Nat × Nat × Bool)
  held : Bool
  ended : Option (Word × Nat)
  idx : Option Nat := none
  el : Elem := Elem.fresh
  asked : Bool := false
  /-- its state has an uncorrectable error (R350) -/
  bad : Bool := false
  deriving DecidableEq, Repr, Inhabited

/-- What a spill ring catches (R293, R294). -/
inductive Spill where
  | access (id : Nat) (f : Flight)
  | twinReq (req : TwinRequest)
  /-- the reply to an atomic or a SPAWN; its SIZE (R294) -/
  | reply (id : Nat) (data : QWord) (flags : FFlags) (size src : Nat)
  | msg (m : Msg)
  | wake (asid page : Nat)
  | signal (line : Nat)
  /-- 0 arrival, 1 completion, 2 summons -/
  | level (kind : Nat) (m : LvMsg)
  | faultMsg (bytes : List Byte)
  /-- 0 an MRG output, 1 the copy engine, 2 gather/scatter, 3 a gather/scatter status; the sending core -/
  | engineWrite (engine src off : Nat) (data : List Byte)
  /-- a read by an engine or a merge of a core: for a flight, or for the core's gather/scatter request (R294) -/
  | engineRead (src : Nat) (id : Option Nat) (off len : Nat)
  | hit (tag : Word) (h seq : Nat) (rec : List Byte)
  | hend (m : HendMsg)
  | hq (m : HqMsg)
  | hcan (origin : Nat) (tag : Word) (h : Nat)
  deriving DecidableEq, Repr, Inhabited

/-- Privilege of a caller (R190). -/
inductive Priv where
  | user | supervisor
  deriving DecidableEq, Repr, Inhabited

/-- An exception a caller has met and not yet taken (R280): its RISC-V cause and its stval. -/
structure CallerExc where
  cause : Nat
  tval : DWord
  /-- it was met in S-mode (R281) -/
  fromS : Bool
  deriving DecidableEq, Repr, Inhabited

/-- The Xfig instruction a caller is stalled at (R195, R196, R388). -/
inductive Stall where
  | call (rd rs1 rs2 : XReg)
  | wait (rd : XReg)
  | sync (rd rs1 : XReg)
  | launch (rd rs1 : XReg)
  deriving DecidableEq, Repr, Inhabited

/-- The caller context of a launch on a core (R190-R193, R392). x0 is entry 0 and is never written. -/
structure Caller where
  x : Vector DWord 32
  pc : DWord
  priv : Priv
  /-- where U-mode code goes on, while the supervisor runs (R280, R285) -/
  upc : DWord := 0#64
  sstatus : DWord
  sie : DWord
  sip : DWord
  stvec : DWord
  sscratch : DWord
  sepc : DWord
  scause : DWord
  stval : DWord
  satp : DWord
  evPending : BitVec 16
  evEnable : BitVec 16
  fhandler : DWord
  fsup : BitVec 10
  /-- the event handler is running: the saved a0, a1 and interrupted pc (R193) -/
  handler : Option (DWord × DWord × DWord)
  /-- the Xfig instruction the caller is stalled at (R195, R196, R203) -/
  stall : Option Stall
  /-- the access whose result the caller waits for (R191) -/
  waitFor : Option Nat
  exc : Option CallerExc
  ended : Bool
  deriving DecidableEq, Repr

/-- A caller before it is set up (log 2, log 3). -/
def Caller.blank : Caller :=
  { x := Vector.replicate 32 0#64, pc := 0#64, priv := .user, sstatus := 0#64, sie := 0#64, sip := 0#64,
    stvec := 0#64, sscratch := 0#64, sepc := 0#64, scause := 0#64, stval := 0#64, satp := 0#64,
    evPending := 0#16, evEnable := 0#16, fhandler := 0#64, fsup := 0#10, handler := none,
    stall := none, waitFor := none, exc := none, ended := false }

/-- Where a launch stands on a core (R285, R287, R295). -/
inductive Phase where
  | resident
  /-- a pre-emption request has been received; the launch halts and is being saved -/
  | halting
  | saved
  deriving DecidableEq, Repr, Inhabited

/-- The parts of a saved context that the core's memories hold while the launch is resident (R288). -/
structure SavedMem where
  sp : List Byte
  tiles : List (List Byte)
  wb : List Byte
  part : Word
  chans : List (List ChanEntry)
  joins : Tbl Join
  mx : List MxEntry
  trp : List QqEntry
  gteq : List GqEntry
  inbox : List Msg
  /-- the launch's messages in the outbox and its overflow list, with their target cores (R286, R288) -/
  outbox : List (Nat × Msg) := []
  cwp : Vector Word 4
  /-- loads and MRGs that had not returned, and accesses parked on a page (R171, R287) -/
  reissue : List Nat
  damaged : Bool
  deriving DecidableEq, Repr, Inhabited

/-- A launch on a core. -/
structure Res where
  record : List Byte
  x0 : Nat
  y0 : Nat
  phase : Phase
  grant : Option Nat
  setw : Option DWord
  xacs : Tbl Xac
  budget : Int
  rfUsed : Nat
  caller : Caller
  mbox : List (List Byte)
  cvs : List Cv
  sks : List Skip
  /-- the physical tiles of its tiles 0 to T − 1 (R213) -/
  tileMap : List Nat
  /-- the physical units of its WB units 0 to U − 1 (R213) -/
  wbMap : List Nat
  latches : BitVec 64
  levels : List Level
  decode : List (List Byte)
  walker : List Word
  hitqs : List (Option HitQ)
  qseq : Nat
  gteSeq : Nat
  gteLog : List (Nat × Word × Nat)
  sent : Nat
  received : Nat
  figures : Nat
  /-- what the spill ring catches and has not replayed, and the ring entries filled since the halt (R293) -/
  spill : List Spill
  ringNext : Nat
  saved : Option SavedMem
  deriving DecidableEq, Repr

/-- A core (R175). -/
structure Core where
  slots : Tbl Micro
  res : Tbl Res
  groups : Tbl Group
  lastServed : List Nat
  part : Word
  bRefill : Word
  bCeil : BitVec 31
  bEn : Bool
  cyc : DWord
  stale : Word
  cwp : Vector Word 4
  fifo : List Nat
  code : List (Nat × Nat × Line)
  inbox : List Msg
  /-- messages that have left their core for this one, by sending core, in the order they left; a SPAWN and a SENDW keep their
  outbox entry until they arrive (R258, R263; log 65) -/
  net : Tbl (List Msg)
  chans : Vector (List ChanEntry) 4
  joins : Tbl Join
  mx : List MxEntry
  /-- the resident tile, by launch and tile number, and the 16 KiB that the array's cells hold of it (R212, R236) -/
  resident : Option (Nat × Nat)
  cells : List Byte := []
  trp : List QqEntry
  queries : Tbl Query
  /-- the query that the traversal processor served last (R322) -/
  walked : Nat := 0
  gteq : List GqEntry
  /-- event-line signals on their way: launch and line (R265) -/
  signals : List (Nat × Nat)
  lvArr : List LvMsg
  lvSum : List LvMsg
  lvDone : List LvMsg
  parked : Bool
  report : Option (List Byte)
  traceEn : Bool
  traceRing : Nat
  traceSeq : Word
  mgmtErr : Word
  eligible : Nat
  deriving DecidableEq, Repr

/-- A core at reset (log 2). -/
def Core.reset : Core :=
  { slots := [], res := [], groups := [], lastServed := [0, 0, 0, 0, 0, 0, 0, 0], part := 0#32, bRefill := 0#32,
    bCeil := 0#31, bEn := false, cyc := 0#64, stale := 0#32, cwp := Vector.replicate 4 0#32, fifo := [], code := [],
    inbox := [], net := [], chans := Vector.replicate 4 [], joins := [], mx := [], resident := none, trp := [],
    queries := [], gteq := [], signals := [], lvArr := [], lvSum := [], lvDone := [], parked := false,
    report := none, traceEn := false, traceRing := 0, traceSeq := 0#32, mgmtErr := 0#32, eligible := 0 }

/-- A line of a cluster cache (R327). -/
structure CLine where
  asid : Nat
  vline : Nat
  node : Bool
  data : Line
  deriving DecidableEq, Repr, Inhabited

/-- A cluster (R326): its cache, the flights in its write-through buffer in order of entry, its engine's started
requests by core, and whether it is powered and online (R350). -/
structure Cluster where
  lines : List CLine
  wtb : List Nat
  gte : Tbl GteRun
  powered : Bool
  offline : Bool
  deriving DecidableEq, Repr, Inhabited

/-- A cluster at reset (R350). -/
def Cluster.reset : Cluster := { lines := [], wtb := [], gte := [], powered := true, offline := false }

/-- A cached leaf translation (R377): ASID, virtual page number of its first 4 KiB page, its level, its entry. -/
structure Leaf where
  asid : Nat
  vpn : Nat
  level : Nat
  pte : DWord
  deriving DecidableEq, Repr, Inhabited

/-- How a fault record stands: offered to the DSC, in the ring, or refused and held (R378). -/
inductive RecState where
  | offered | written | refused
  deriving DecidableEq, Repr, Inhabited

/-- An outstanding fault record of a TLU (R378). -/
structure FaultRec where
  seq : Nat
  kind : Nat
  asid : Nat
  page : Nat
  leaf : DWord
  state : RecState
  deriving DecidableEq, Repr, Inhabited

/-- A translation unit (R375-R379): cached leaves, records outstanding, the count of records formed, and the probe
holds of gather/scatter requests (R343): core, ASID and page. -/
structure Tlu where
  leaves : List Leaf
  recs : List FaultRec
  formed : Nat
  holds : List (Nat × Nat × Nat)
  deriving DecidableEq, Repr, Inhabited

/-- A sealed code object (R205): its ASID, base, lengths, figure starts and physical pages. -/
structure Sealed where
  asid : Nat
  base : Nat
  clen : Nat
  hlen : Nat
  starts : List Nat
  pages : List Nat
  deriving DecidableEq, Repr, Inhabited

/-- How an accepted launch stands (R390-R403). -/
inductive LaunchState where
  | waiting
  | placed
  | saving
  | saved
  | resuming
  /-- ended; the end word waits for its page (R399) -/
  | ending
  deriving DecidableEq, Repr, Inhabited

/-- An accepted launch that has not ended (R386-R403). -/
structure Launch where
  record : List Byte
  state : LaunchState
  rootq : Nat
  /-- MAXPRIO of a root queue that is the twin's (R387, R388; log 24) -/
  rootPrio : Nat := 0
  /-- the host queue entry it came from: queue and entry number -/
  entry : Option (Nat × Nat)
  /-- the core and launch that posted it (R388) -/
  poster : Option (Nat × Nat)
  restarts : Nat
  order : Nat
  since : Nat
  x0 : Nat
  y0 : Nat
  /-- the save area and the spill ring of each core (R394) -/
  areas : Tbl (Nat × Nat)
  sweep : Option (Nat × Nat)
  twinSweep : Option (Bool × Nat × Nat)
  pairIndex : Option Nat
  /-- card 0 has proposed its placement or its resume to the twin (R391, R395, R447) -/
  proposed : Bool
  /-- the twin has confirmed while placing and resuming were stopped (R435, R447) -/
  confirmed : Bool := false
  /-- a spill ring of the twin's half is full (R396) -/
  twinFull : Bool := false
  /-- a sweep report is awaited from the twin, and whether it still counts (R398) -/
  swept : Option Bool := none
  /-- the twin's half has ended (R447) -/
  twinGone : Bool := false
  /-- once it ends: the STATE and REASON of its end word, and whether it is restarted (R399, R402, R403) -/
  fin : Option (Nat × Nat × Bool)
  /-- its cores are released (R399) -/
  released : Bool
  /-- the host refused the page of its end word (R399) -/
  endRefused : Bool
  deriving DecidableEq, Repr, Inhabited

/-- A host queue (R385, R386). -/
structure HostQ where
  ring : DWord
  cfg : DWord
  head : Word
  tail : Word
  strikes : Nat
  held : Bool
  deriving DecidableEq, Repr, Inhabited

/-- A partition's configuration and counts (R378, R390, R400). -/
structure Part where
  cfg : Line
  consumed : Word
  written : Nat
  decisions : Nat
  window : Nat
  deriving DecidableEq, Repr, Inhabited

/-- The die scheduler (R385-R403). -/
structure Dsc where
  queues : List HostQ
  nextQueue : Nat
  parts : List Part
  shootAsid : DWord
  shootVa : DWord
  shootLen : DWord
  shootBusy : Option (Nat × Nat × Nat)
  shootDone : Word
  shootLost : Half
  asidtab : DWord
  intstat : BitVec 25
  launches : Tbl Launch
  idents : Nat
  orders : Nat
  placingStopped : Bool
  /-- what the last management read returned (R432; log 5) -/
  lastMgmtRead : DWord
  deriving DecidableEq, Repr

/-- What a station sends to the twin (R450, R453). -/
inductive ToTwin where
  | request (flight : Nat) (wire : Nat) (op : TwinOp)
  | response (tag : Nat) (r : Response)
  | hq (m : HqMsg)
  | hack (tag : Word) (h : Nat)
  | hit (tag : Word) (h seq : Nat) (rec : List Byte)
  | hend (m : HendMsg)
  | hcan (origin : Nat) (tag : Word) (h : Nat)
  | sched (a : SchedAct)
  deriving DecidableEq, Repr, Inhabited

/-- The UALink station (R445-R460). -/
structure Station where
  up : Bool
  present : Bool
  card : Bool
  losses : Half
  late : Word
  table : List (Option Nat)
  retraining : Bool
  /-- sub-queries taken into the buffer and not yet admitted (R454) -/
  hqs : List HqMsg
  /-- returned records that wait for room in a hit queue (R456) -/
  hits : List (Word × Nat × List Byte)
  /-- HQs sent that have no HACK yet (R459) -/
  unhacked : List (Word × Nat)
  /-- what has been sent to the twin, the newest last (R450, R453) -/
  out : List ToTwin
  /-- 16-byte requests of the twin whose lower half is performed, with what it read (R360) -/
  halves : List (TwinRequest × DWord) := []
  deriving DecidableEq, Repr, Inhabited

/-- Power and temperature (R433-R435). -/
structure Power where
  plimit : Half
  throttle : Nat
  pwr : Half
  temp : Half
  inReset : Bool
  powered : Bool
  deriving DecidableEq, Repr, Inhabited

/-- A mailbox request of the root-of-trust core (R438). -/
inductive RtcReq where
  | extend (i : Nat) (data : Line)
  | report (nonce : BitVec 256)
  | bootstat
  | raise
  | extendMr3 (data : Line)
  | unknown
  deriving DecidableEq, Repr, Inhabited

/-- The root-of-trust core (R436-R440). BOOTSTAT is held by its parts: READY, the failing step, its reason, the slot. -/
structure Rtc where
  mr : Vector Line 8
  ready : Bool
  failStep : Nat
  failReason : Nat
  slot : Nat
  refusedA : Bool
  /-- why slot A was refused, in the numbers of `failReason` (R437) -/
  reasonA : Nat := 0
  floors : Nat × Nat
  fuses : Fuses := ⟨0#512, 0#512, []⟩
  /-- the SVNs in use of the trusted and the management image, and of the core supervisor image (R437, R440) -/
  used : Nat × Nat
  usedCore : Nat := 0
  /-- the identity key pair, once the trusted firmware has derived it (R437, R439) -/
  identity : Option (List Byte × List Byte) := none
  running : Option (BitVec 256 × Vector Line 8)
  waiting : List (Sender × RtcReq)
  /-- the last result: its status and its word; and every result since reset, in the order of the requests (R438) -/
  status : Byte
  reports : List (List Byte)
  lastWord : DWord
  answers : List (Byte × DWord) := []
  deriving DecidableEq, Repr

/-- What a snapshot latches (R442): the blocks' registers and what is on the links. -/
structure Snap where
  mem : List Host.Cell
  cores : Vector Core 80
  flights : Tbl Flight
  clusters : Vector Cluster 10
  tlus : Vector Tlu 16
  wakes : List (Nat × Nat × Nat)
  dsc : Dsc
  station : Station
  deriving DecidableEq, Repr

/-- Snapshot control (R443) and the error counts and log (R441). -/
structure Watch where
  arm : BitVec 4
  held : Bool
  count : Half
  lost : Half
  snap : Option Snap
  /-- what the blocks that the trigger reaches late have latched, the turns until they do, and which they are (R444) -/
  late : Option Snap := none
  skew : Nat := 0
  pick : Nat := 0
  errSeq : Word
  errLog : List (BitVec 128)
  corrected : Tbl Nat
  refetched : Tbl Nat
  /-- memory words (address / 4) with an uncorrectable error, and those with a single-bit error (R283) -/
  bad : List Nat
  weak : List Nat := []
  deriving DecidableEq, Repr

/-- Who executes the current instruction (log 5). -/
inductive Focus where
  | none
  | group (core port rot : Nat)
  | caller (core launch : Nat)
  | walker (core entry : Nat)
  deriving DecidableEq, Repr, Inhabited

/-- The module. -/
structure State where
  mem : List Host.Cell
  cores : Vector Core 80
  clusters : Vector Cluster 10
  tlus : Vector Tlu 16
  flights : Tbl Flight
  /-- load reservations: core, launch and the 64-byte line reserved (R191) -/
  resvs : List (Nat × Nat × Nat)
  wakes : List (Nat × Nat × Nat)
  sealed : List Sealed
  dsc : Dsc
  station : Station
  power : Power
  rtc : Rtc
  watch : Watch
  /-- the firmware flash, as the last boot found it (R429, R436) -/
  flash : Flash := ⟨⟨[], false⟩, (⟨[], false⟩, ⟨[], false⟩), (⟨[], false⟩, ⟨[], false⟩), []⟩
  /-- the model's own fields (log 5) -/
  agenda : List Turn
  focus : Focus
  curWord : Word
  fresh : Nat
  nextId : Nat
  deriving DecidableEq, Repr

/-- The scheduler at reset (log 2). -/
def Dsc.reset : Dsc :=
  { queues := List.replicate 64 ⟨0#64, 0#64, 0#32, 0#32, 0, false⟩, nextQueue := 0,
    parts := List.replicate 8 ⟨0#512, 0#32, 0, 0, 0⟩, shootAsid := 0#64, shootVa := 0#64, shootLen := 0#64,
    shootBusy := none, shootDone := 0#32, shootLost := 0#16, asidtab := 0#64, intstat := 0#25, launches := [],
    idents := 0, orders := 0, placingStopped := false, lastMgmtRead := 0#64 }

/-- The station at reset: no twin found yet, card 0 (R446). -/
def Station.reset : Station :=
  { up := false, present := false, card := false, losses := 0#16, late := 0#32, table := List.replicate 16 none,
    retraining := false, hqs := [], hits := [], unhacked := [], out := [] }

/-- Power at reset: PLIMIT 700 (R433), THROTTLE 8 (log 4). -/
def Power.reset : Power :=
  { plimit := 700#16, throttle := 8, pwr := 0#16, temp := 0#16, inReset := false, powered := true }

/-- The root-of-trust core at reset: MR0-MR7 zero (R438). -/
def Rtc.reset : Rtc :=
  { mr := Vector.replicate 8 0#512, ready := false, failStep := 0, failReason := 0, slot := 0, refusedA := false,
    floors := (0, 0), used := (0, 0), running := none, waiting := [], status := 0#8, reports := [], lastWord := 0#64 }

/-- Snapshot control and error state at reset (log 2). -/
def Watch.reset : Watch :=
  { arm := 0#4, held := false, count := 0#16, lost := 0#16, snap := none, errSeq := 0#32, errLog := [],
    corrected := [], refetched := [], bad := [] }

/-- The state right after reset (R25, R62, R350, R433, R438; log 1, log 2, log 4). -/
def State.reset : State :=
  { mem := [], cores := Vector.replicate 80 Core.reset, clusters := Vector.replicate 10 Cluster.reset,
    tlus := Vector.replicate 16 ⟨[], [], 0, []⟩, flights := [], resvs := [], wakes := [], sealed := [], dsc := Dsc.reset,
    station := Station.reset, power := Power.reset, rtc := Rtc.reset, watch := Watch.reset, agenda := [],
    focus := .none, curWord := 0#32, fresh := 0, nextId := 0 }

end Sys2Proof.Machine
end

