-- ==== Sys2Proof/Machine/Operands.lean ====
section
/-!
DEFINITION. Operands of micro-thread instructions: register codes against the budget, pending bits, pairs and
groups, predicates, and the precise faults they raise (R16-R19, R76-R78, R87, R98). An instruction checks
register codes first, then its sources, then its destinations, then its operands' values (R226's order; log 10).
-/

namespace Sys2Proof.Machine

/-- A precise fault an instruction raises: its code and its DETAIL; none stands for the instruction word (R275). -/
structure Flt where
  code : Byte
  detail : Option Word
  deriving DecidableEq, Repr

/-- DETAIL of the codes with fields: DEF [31], SUB [29:22], ARG [21:0] (R275). -/
def detailOf (deferred : Bool) (sub arg : Nat) : Word :=
  BitVec.ofNat 32 ((if deferred then 2 ^ 31 else 0) + (sub % 256) * 2 ^ 22 + arg % 2 ^ 22)

/-- "illegal instruction" (R87). -/
def Flt.illegal : Flt := ⟨0x01#8, none⟩
/-- "breakpoint" (R112). -/
def Flt.breakpoint : Flt := ⟨0x0C#8, none⟩
/-- "TRAP" with a value (R112). -/
def Flt.trap (v : Word) : Flt := ⟨0x0B#8, some v⟩
/-- "figure form" with its reason (R74). -/
def Flt.figureForm (reason : Nat) : Flt := ⟨0x02#8, some (detailOf false reason 0)⟩
/-- "unawaited read": register code, write [6], link [7] (R276). -/
def Flt.unawaited (r : Reg) (write link : Bool) : Flt :=
  ⟨0x03#8, some (detailOf false 0 (r.toNat + (if write then 64 else 0) + (if link then 128 else 0)))⟩
/-- "protection" with its detail number and argument (R276). -/
def Flt.protection (sub arg : Nat) : Flt := ⟨0x04#8, some (detailOf false sub arg)⟩
/-- "misaligned" (R276). -/
def Flt.misaligned (arg : Nat) : Flt := ⟨0x06#8, some (detailOf false 0 arg)⟩
/-- "array address out of range" (R276). -/
def Flt.arrayRange (arg : Nat) : Flt := ⟨0x07#8, some (detailOf false 0 arg)⟩
/-- "format divergence" on a convergence register (R221). -/
def Flt.divergence (cv : Nat) : Flt := ⟨0x08#8, some (detailOf false 0 cv)⟩
/-- "reserved code" (R276). -/
def Flt.reserved (arg : Nat) : Flt := ⟨0x09#8, some (detailOf false 0 arg)⟩
/-- "machine check" of a general register (R283). -/
def Flt.machineCheck (r : Reg) : Flt := ⟨0x0D#8, some (detailOf false 2 r.toNat)⟩
/-- "queue misuse" with its detail number (R254-R256). -/
def Flt.queue (sub arg : Nat) : Flt := ⟨0x0E#8, some (detailOf false sub arg)⟩

/-- Whether a register code is legal for the micro-thread's budget (R16, R76). -/
def Micro.codeOk (m : Micro) (r : Reg) : Bool := decide (56 ≤ r.toNat) || decide (r.toNat < m.bud)

/-- The codes of an instruction checked against the budget (R76, R77). Budgets are multiples of 8, so a group that
starts below the budget lies below it. -/
def Micro.need (m : Micro) (rs : List Reg) : Except Flt Unit :=
  if rs.all m.codeOk then .ok () else .error .illegal

/-- The codes of a group of n from r. -/
def groupCodes (r : Reg) (n : Nat) : List Reg := (List.range n).map fun i => r + BitVec.ofNat 6 i

/-- The first pending register of a group (R18). -/
def Micro.pending? (m : Micro) (r : Reg) (n : Nat) : Option Reg :=
  (groupCodes r n).find? fun c => m.pend.getLsbD c.toNat

/-- The first register of a group whose word has an uncorrectable error (R283). -/
def Micro.broken? (m : Micro) (r : Reg) (n : Nat) : Option Reg :=
  (groupCodes r n).find? fun c => m.bad.getLsbD c.toNat

/-- The value a code holds. -/
def Micro.reg (m : Micro) (r : Reg) : Word := m.regs[r.toNat]'(r.isLt)

/-- A register set, whatever its pending bit; a word that is written whole is good again (R284). -/
def Micro.setReg (m : Micro) (r : Reg) (v : Word) : Micro :=
  { m with regs := m.regs.set r.toNat v r.isLt, bad := m.bad &&& ~~~(1#64 <<< r.toNat) }

/-- A pair set: low word in the even register (R16). -/
def Micro.setPair (m : Micro) (r : Reg) (v : DWord) : Micro :=
  (m.setReg r (loWord v)).setReg (r + 1#6) (hiWord v)

/-- A group set from its first register. -/
def Micro.setGroup (m : Micro) (r : Reg) : List Word → Micro
  | [] => m
  | v :: t => Micro.setGroup (m.setReg r v) (r + 1#6) t

/-- Flags ORed into FFLAGS (R46). -/
def Micro.raise (m : Micro) (f : FFlags) : Micro := { m with fflags := m.fflags ||| f }

/-- A source register read: "unawaited read" if pending (R18), "machine check" if its word has an uncorrectable error
(R283). -/
def Micro.rd (m : Micro) (r : Reg) : Except Flt Word :=
  if m.pend.getLsbD r.toNat then .error (.unawaited r false false)
  else if m.bad.getLsbD r.toNat then .error (.machineCheck r)
  else .ok (m.reg r)

/-- A source group checked. -/
def Micro.rdOk (m : Micro) (r : Reg) (n : Nat) : Except Flt Unit :=
  match m.pending? r n with
  | some c => .error (.unawaited c false false)
  | none =>
    match m.broken? r n with
    | some c => .error (.machineCheck c)
    | none => .ok ()

/-- A source pair read, low word first (R16). -/
def Micro.rdPair (m : Micro) (r : Reg) : Except Flt DWord := do
  m.rdOk r 2
  .ok (mkPair (m.reg r) (m.reg (r + 1#6)))

/-- A source group read. -/
def Micro.rdGroup (m : Micro) (r : Reg) (n : Nat) : Except Flt (List Word) := do
  m.rdOk r n
  .ok ((groupCodes r n).map m.reg)

/-- A destination checked: "unawaited read" with the write mark if pending (R18). -/
def Micro.wrOk (m : Micro) (r : Reg) (n : Nat) : Except Flt Unit :=
  match m.pending? r n with
  | some c => .error (.unawaited c true false)
  | none => .ok ()

/-- A predicate's value: p7 reads true (R17). -/
def Micro.pred (m : Micro) (p : PReg) : Bool := p == 7#3 || m.preds.getLsbD p.toNat

/-- A predicate written: a write to p7 is discarded (R17). -/
def Micro.setPred (m : Micro) (p : PReg) (v : Bool) : Micro :=
  if p = 7#3 then m
  else
    let bit : BitVec 7 := 1#7 <<< p.toNat
    { m with preds := if v then m.preds ||| bit else m.preds &&& ~~~bit }

/-- The rounding mode in FRM (R20). -/
def Micro.rm (m : Micro) : Rm := Rm.ofCode m.frm

/-- The mode a CVT names: 7 means FRM (R130). -/
def Micro.cvtRm (m : Micro) (rm : BitVec 3) : Rm := if rm = 7#3 then m.rm else Rm.ofCode rm

/-- d := f(a, b) on words. -/
def Micro.op2 (m : Micro) (f : Word → Word → Word) (d a b : Reg) : Except Flt Micro := do
  m.need [d, a, b]
  let x ← m.rd a
  let y ← m.rd b
  m.wrOk d 1
  .ok (m.setReg d (f x y))

/-- d := f(a) on a word. -/
def Micro.op1 (m : Micro) (f : Word → Word) (d a : Reg) : Except Flt Micro := do
  m.need [d, a]
  let x ← m.rd a
  m.wrOk d 1
  .ok (m.setReg d (f x))

/-- d := v. -/
def Micro.op0 (m : Micro) (v : Word) (d : Reg) : Except Flt Micro := do
  m.need [d]
  m.wrOk d 1
  .ok (m.setReg d v)

/-- d := f(a, b) on pairs. -/
def Micro.opD2 (m : Micro) (f : DWord → DWord → DWord) (d a b : Reg) : Except Flt Micro := do
  m.need [d, a, b]
  let x ← m.rdPair a
  let y ← m.rdPair b
  m.wrOk d 2
  .ok (m.setPair d (f x y))

/-- pair d := f(a) on a pair. -/
def Micro.opD1 (m : Micro) (f : DWord → DWord) (d a : Reg) : Except Flt Micro := do
  m.need [d, a]
  let x ← m.rdPair a
  m.wrOk d 2
  .ok (m.setPair d (f x))

/-- d := f(a, b, c) on words. -/
def Micro.op3 (m : Micro) (f : Word → Word → Word → Word) (d a b c : Reg) : Except Flt Micro := do
  m.need [d, a, b, c]
  let x ← m.rd a
  let y ← m.rd b
  let z ← m.rd c
  m.wrOk d 1
  .ok (m.setReg d (f x y z))

/-- pair d := f(a, b) on words. -/
def Micro.opWD (m : Micro) (f : Word → Word → DWord) (d a b : Reg) : Except Flt Micro := do
  m.need [d, a, b]
  let x ← m.rd a
  let y ← m.rd b
  m.wrOk d 2
  .ok (m.setPair d (f x y))

/-- d, with flags := f(a, b) on words. -/
def Micro.fop2 (m : Micro) (f : Word → Word → FpRes) (d a b : Reg) : Except Flt Micro := do
  m.need [d, a, b]
  let x ← m.rd a
  let y ← m.rd b
  m.wrOk d 1
  .ok ((m.setReg d (BitVec.ofNat 32 (f x y).1)).raise (f x y).2)

/-- d, with flags := f(a) on a word. -/
def Micro.fop1 (m : Micro) (f : Word → FpRes) (d a : Reg) : Except Flt Micro := do
  m.need [d, a]
  let x ← m.rd a
  m.wrOk d 1
  .ok ((m.setReg d (BitVec.ofNat 32 (f x).1)).raise (f x).2)

/-- d, with flags := f(a, b, c) on words. -/
def Micro.fop3 (m : Micro) (f : Word → Word → Word → FpRes) (d a b c : Reg) : Except Flt Micro := do
  m.need [d, a, b, c]
  let x ← m.rd a
  let y ← m.rd b
  let z ← m.rd c
  m.wrOk d 1
  .ok ((m.setReg d (BitVec.ofNat 32 (f x y z).1)).raise (f x y z).2)

/-- pair d, with flags := f(a, b) on pairs. -/
def Micro.dop2 (m : Micro) (f : DWord → DWord → FpRes) (d a b : Reg) : Except Flt Micro := do
  m.need [d, a, b]
  let x ← m.rdPair a
  let y ← m.rdPair b
  m.wrOk d 2
  .ok ((m.setPair d (BitVec.ofNat 64 (f x y).1)).raise (f x y).2)

/-- pair d, with flags := f(a) on a pair. -/
def Micro.dop1 (m : Micro) (f : DWord → FpRes) (d a : Reg) : Except Flt Micro := do
  m.need [d, a]
  let x ← m.rdPair a
  m.wrOk d 2
  .ok ((m.setPair d (BitVec.ofNat 64 (f x).1)).raise (f x).2)

/-- pair d, with flags := f(a, b, c) on pairs. -/
def Micro.dop3 (m : Micro) (f : DWord → DWord → DWord → FpRes) (d a b c : Reg) : Except Flt Micro := do
  m.need [d, a, b, c]
  let x ← m.rdPair a
  let y ← m.rdPair b
  let z ← m.rdPair c
  m.wrOk d 2
  .ok ((m.setPair d (BitVec.ofNat 64 (f x y z).1)).raise (f x y z).2)

/-- pair d, with flags := f(a) on a word. -/
def Micro.fopWD (m : Micro) (f : Word → FpRes) (d a : Reg) : Except Flt Micro := do
  m.need [d, a]
  let x ← m.rd a
  m.wrOk d 2
  .ok ((m.setPair d (BitVec.ofNat 64 (f x).1)).raise (f x).2)

/-- d, with flags := f(a) on a pair. -/
def Micro.fopDW (m : Micro) (f : DWord → FpRes) (d a : Reg) : Except Flt Micro := do
  m.need [d, a]
  let x ← m.rdPair a
  m.wrOk d 1
  .ok ((m.setReg d (BitVec.ofNat 32 (f x).1)).raise (f x).2)

/-- A comparison of words into a predicate, with its flags (R106). -/
def Micro.cmp2 (m : Micro) (f : Word → Word → Bool × FFlags) (p : PReg) (a b : Reg) : Except Flt Micro := do
  m.need [a, b]
  let x ← m.rd a
  let y ← m.rd b
  .ok ((m.setPred p (f x y).1).raise (f x y).2)

/-- A comparison with an immediate into a predicate (R107). -/
def Micro.cmpImm (m : Micro) (f : Word → Bool) (p : PReg) (a : Reg) : Except Flt Micro := do
  m.need [a]
  let x ← m.rd a
  .ok (m.setPred p (f x))

/-- The register a 5-bit operand of a 16-bit form names: 0-23 are g0-g23, 24-31 are t0-t7 (R84). -/
def reg16 (b : BitVec 5) : Reg := if b.toNat < 24 then b.setWidth 6 else b.setWidth 6 + 32#6

/-- A comparison of pairs into a predicate, with its flags (R106). -/
def Micro.cmpD2 (m : Micro) (f : DWord → DWord → Bool × FFlags) (p : PReg) (a b : Reg) : Except Flt Micro := do
  m.need [a, b]
  let x ← m.rdPair a
  let y ← m.rdPair b
  .ok ((m.setPred p (f x y).1).raise (f x y).2)

end Sys2Proof.Machine
end

