-- ==== Sys2Proof/Machine/Ops.lean ====
section
/-!
DEFINITION. The shared operations of the machine: bytes of memory, the parts of a core, sets and grants, taking a
fault of a micro-thread and resuming from it, one turn of an issue group, and taking and leaving a caller exception.
-/

namespace Sys2Proof.Machine

/-- The outcome of a step of this machine. -/
abbrev Out := Host.Outcome State Fault Refusal

/-! Memory: one list of bytes over the physical map of R430 and R431. A byte that nothing has written reads 0
(DESIGN CHOICE, log 1), and a write of 0 removes the entry. -/

/-- One byte of memory. -/
def Memory.read1 (m : List Host.Cell) (a : Nat) : Byte := (Tbl.get? m a).getD 0#8

/-- One byte of memory written. -/
def Memory.write1 (m : List Host.Cell) (a : Nat) (b : Byte) : List Host.Cell :=
  if b = 0#8 then Tbl.erase m a else Tbl.set m a b

/-- `n` bytes from `a`, lowest address first. -/
def Memory.readN (m : List Host.Cell) (a : Nat) : Nat → List Byte
  | 0 => []
  | n + 1 => Memory.read1 m a :: Memory.readN m (a + 1) n

/-- Bytes written from `a` upward. -/
def Memory.writeN (m : List Host.Cell) (a : Nat) : List Byte → List Host.Cell
  | [] => m
  | b :: r => Memory.writeN (Memory.write1 m a b) (a + 1) r

/-- The canonical form: addresses strictly rising, and no entry that an unlisted address reads as. -/
def Memory.wf (m : List Host.Cell) : Bool := Tbl.sorted m && m.all fun c => c.2 != 0#8

/-- The number that `n` bytes give (R3). -/
def State.peek (s : State) (a n : Nat) : Nat := natOfBytes (Memory.readN s.mem a n)

/-- Bytes written at a physical address: every load reservation on a line written ends (R191), and a word with an error
that is written whole is good again (R284). -/
def State.write (s : State) (a : Nat) (bs : List Byte) : State :=
  { s with
    mem := Memory.writeN s.mem a bs
    resvs := s.resvs.filter fun r => !(decide (a / 64 ≤ r.2.2) && decide (r.2.2 * 64 < a + bs.length))
    watch := { s.watch with
      bad := s.watch.bad.filter fun w => !(decide (a ≤ w * 4) && decide (w * 4 + 4 ≤ a + bs.length))
      weak := s.watch.weak.filter fun w => !(decide (a ≤ w * 4) && decide (w * 4 + 4 ≤ a + bs.length)) } }

/-- A number written as `n` bytes. -/
def State.poke (s : State) (a n v : Nat) : State := s.write a (bytesOfNat n v)

/-- The management window of a core (R431): its pool, then its weight buffer. -/
def poolBase (core : Nat) : Nat := 0x8001000000 + 0x400000 * core

/-- The physical key of a pool offset. -/
def poolAddr (core off : Nat) : Nat := poolBase core + off

/-- The physical key of a weight-buffer byte. -/
def wbAddr (core off : Nat) : Nat := poolBase core + Config.poolBytes + off

/-! Cores by number `10·y + x` (R19, R326). -/

/-- The column of a core. -/
def coreX (n : Nat) : Nat := n % 10
/-- The row of a core. -/
def coreY (n : Nat) : Nat := n / 10
/-- A core in CORE format without its card (R19). -/
def coreCode (n : Nat) : Nat := n % 10 + 32 * (n / 10)
/-- The core that x and y name. -/
def coreAt (x y : Nat) : Option Nat := if x < Config.meshW ∧ y < Config.meshH then some (10 * y + x) else none
/-- The core a CORE-format value names (R19). -/
def coreOfCode (v : Nat) : Option Nat := coreAt (v % 32) (v / 32 % 16)
/-- The cluster of a core (R326). -/
def clusterOf (n : Nat) : Nat := n / 10 / 4 * 5 + n % 10 / 2
/-- The card of this module. -/
def State.cardNo (s : State) : Nat := if s.station.card then 1 else 0
/-- CORE of a core of this module, with its card (R19). -/
def State.coreWord (s : State) (n : Nat) : Nat := coreCode n + 512 * s.cardNo

/-! Parts of a core. -/

/-- A core changed. -/
def State.modCore (s : State) (n : Nat) (f : Core → Core) : State :=
  match s.cores[n]? with
  | some c => { s with cores := s.cores.setIfInBounds n (f c) }
  | none => s

/-- A core by number; an idle core where the number names none. -/
def State.core (s : State) (n : Nat) : Core := (s.cores[n]?).getD Core.reset

/-- A cluster changed. -/
def State.modCluster (s : State) (n : Nat) (f : Cluster → Cluster) : State :=
  match s.clusters[n]? with
  | some c => { s with clusters := s.clusters.setIfInBounds n (f c) }
  | none => s

/-- A cluster by number. -/
def State.cluster (s : State) (n : Nat) : Cluster := (s.clusters[n]?).getD Cluster.reset

/-- A translation unit changed. -/
def State.modTlu (s : State) (n : Nat) (f : Tlu → Tlu) : State :=
  match s.tlus[n]? with
  | some c => { s with tlus := s.tlus.setIfInBounds n (f c) }
  | none => s

/-- A translation unit by number. -/
def State.tlu (s : State) (n : Nat) : Tlu := (s.tlus[n]?).getD ⟨[], [], 0, []⟩

/-- The micro-thread slot of a core. -/
def Core.micro (c : Core) (slot : Nat) : Micro := (Tbl.get? c.slots slot).getD Micro.blank

/-- A slot set. -/
def Core.setMicro (c : Core) (slot : Nat) (m : Micro) : Core := { c with slots := Tbl.set c.slots slot m }

/-- A slot changed. -/
def Core.modMicro (c : Core) (slot : Nat) (f : Micro → Micro) : Core := c.setMicro slot (f (c.micro slot))

/-- A slot of a core changed. -/
def State.modMicro (s : State) (n slot : Nat) (f : Micro → Micro) : State := s.modCore n fun c => c.modMicro slot f

/-- A launch on a core changed. -/
def Core.modRes (c : Core) (l : Nat) (f : Res → Res) : Core := { c with res := Tbl.modify c.res l f }

/-- A launch on a core changed. -/
def State.modRes (s : State) (n l : Nat) (f : Res → Res) : State := s.modCore n fun c => c.modRes l f

/-- A launch on a core. -/
def State.res? (s : State) (n l : Nat) : Option Res := Tbl.get? (s.core n).res l

/-- The live micro-thread that slot and generation name (R25). -/
def Core.liveAt (c : Core) (slot : Nat) (gen : Half) : Option Micro :=
  match Tbl.get? c.slots slot with
  | some m => if m.gen = gen ∧ m.life ≠ .retired then some m else none
  | none => none

/-- A number from a launch record's bytes (R381). -/
def recNat (r : List Byte) (off n : Nat) : Nat := natOfBytes ((r.drop off).take n)

/-- A declared role's budget and group count (R381). -/
def roleOf (r : List Byte) (i : Nat) : Nat × Nat × Nat :=
  (recNat r (100 + 8 * i) 4, recNat r (104 + 8 * i) 1, recNat r (105 + 8 * i) 1)

/-- The declared roles, by number from 0. -/
def rolesOf (r : List Byte) : List Nat := bitsSet 3 (recNat r 73 1)

/-- Register-file bytes and slots of the gang (R269, R382). -/
def gangBytes (r : List Byte) : Nat := ((rolesOf r).map fun i => 4 * (roleOf r i).2.1 * 64 * (roleOf r i).2.2).sum
/-- Slots of the gang. -/
def gangSlots (r : List Byte) : Nat := ((rolesOf r).map fun i => 64 * (roleOf r i).2.2).sum

/-- ASID of a launch on a core. -/
def Res.asid (r : Res) : Nat := recNat r.record 8 2
/-- The code base of a launch (R21). -/
def Res.code (r : Res) : Nat := recNat r.record 16 8
/-- The launch's rectangle contains a core (R356). -/
def Res.inRect (r : Res) (n : Nat) : Bool :=
  decide (r.x0 ≤ coreX n ∧ coreX n < r.x0 + recNat r.record 14 1 ∧ r.y0 ≤ coreY n ∧ coreY n < r.y0 + recNat r.record 15 1)
/-- Its context is saved, or it halts to be saved: its arrivals go to the spill ring (R285, R293). -/
def Res.away (r : Res) : Bool := r.phase != .resident

/-- Where the scratchpad starts: the partition word's register file and tiles lie below it (R183). -/
def Core.spStart (c : Core) : Nat := (c.part.toNat % 256 + c.part.toNat / 256 % 32) * 16384
/-- A range lies in the scratchpad. -/
def Core.inSp (c : Core) (off len : Nat) : Bool := decide (c.spStart ≤ off ∧ off + len ≤ Config.poolBytes)

/-- The base of a micro-thread's call stack (R382). -/
def Res.stackBase (r : Res) (slot : Nat) : Nat := recNat r.record 68 4 + 8 * recNat r.record 72 1 * slot
/-- The depth of a call stack in entries (R382). -/
def Res.stackDepth (r : Res) : Nat := recNat r.record 72 1

/-! Sets and grants (R30-R36). -/

/-- The slots a launch owns on a core, ascending (R24). -/
def Core.owned (c : Core) (l : Nat) : List Nat := (c.slots.filter fun p => p.2.owner == some l).map Prod.fst

/-- The grant of a launch on a core, 0 while it holds none (R31). -/
def Core.grantOf (c : Core) (l : Nat) : Nat :=
  match Tbl.get? c.res l with
  | some r => r.grant.getD 0
  | none => 0

/-- The sets of a launch: its slots in ascending order, cut by the grant (R32). -/
def Core.sets (c : Core) (l : Nat) : List (List Nat) := chunks (max 1 (c.grantOf l)) (c.owned l)

/-- The number of a slot's set, its lane and its set (R32). -/
def Core.place (c : Core) (l slot : Nat) : Nat × Nat × List Nat :=
  let g := max 1 (c.grantOf l)
  let i := (c.owned l).idxOf slot
  (i / g, i % g, ((c.owned l).drop (i / g * g)).take g)

/-- The launches resident on a core (R30, R392): a saved one is not. -/
def Core.launches (c : Core) : List Nat := (c.res.filter fun p => p.2.phase != .saved).map Prod.fst

/-- The cap on a grant (R30). -/
def Core.cap (c : Core) : Nat :=
  match c.launches.length with
  | 0 => 64
  | 1 => 64
  | 2 => 32
  | 3 => 16
  | 4 => 16
  | _ => 8

/-- The grant that a request gets under a cap (R31). -/
def grantFor (cap w : Nat) : Nat := if w = 0 then cap else min cap (2 ^ Nat.log2 w)

/-- The exact accumulators after a recut: each new set sums those of the old sets whose first slot it holds (R36, R65). -/
def recutXacs (old : Tbl Xac) (oldSets newSets : List (List Nat)) : Tbl Xac :=
  newSets.mapIdx fun j new =>
    (j, Xac.total (((oldSets.mapIdx fun i o => (i, o)).filter fun p => p.2.head?.any new.contains).map fun p =>
      (Tbl.get? old p.1).getD Xac.zero))

/-! Micro-thread states (R28, R29). -/

/-- The state of the mode a micro-thread left. -/
def Micro.modeLife (m : Micro) : Life := match m.mode with | .called => .called | .free => .free

/-- It waits on something listed under parked (R28, R256). -/
def Micro.waits (m : Micro) : Bool :=
  !m.parkedOn.isEmpty || m.codePark.isSome || m.linked != .none || !m.cvWaits.isEmpty || m.lvWaits != 0#8 ||
    m.evWaits != 0#64 || m.quitting || m.joinWaits != 0

/-- What parks it now: between figures each of its waits, inside a figure it has to finish only the page of its code (R29,
R182, R256). -/
def Micro.blocked (m : Micro) : Bool := if m.pos.isSome then m.codePark.isSome else m.waits

/-- A micro-thread is in an issue group. -/
def Core.inGroup (c : Core) (slot : Nat) : Bool := c.groups.any fun p => p.2.members.contains slot

/-- A micro-thread stamped as newly eligible (R38). -/
def Core.stamp (c : Core) (slot : Nat) : Core :=
  { c.modMicro slot (fun m => { m with since := c.eligible }) with eligible := c.eligible + 1 }

/-- The state of a micro-thread between figures brought up to date with its waits (R29): parked while one is left, else
the mode it left. One re-sliced while it waited stays called (R37). -/
def Core.refresh (c : Core) (slot : Nat) : Core :=
  let m := c.micro slot
  if c.inGroup slot then c
  else match m.life with
    | .called | .free | .parked =>
      let life := if m.blocked && !m.rearmed then .parked else m.modeLife
      if m.rearmed && !m.waits then (c.modMicro slot fun m => { m with rearmed := false }).stamp slot
      else if life = m.life then c
      else (c.modMicro slot fun m => { m with life := life }).stamp slot
    | _ => c

/-- A micro-thread ends: its slot is retired, with the next generation (R25, R29). -/
def Micro.retire (m : Micro) : Micro :=
  { m with
    gen := m.gen + 1#16, life := .retired, pend := 0#64, await := 0#8, callq := [], mailbox := none, linked := .none,
    linkDst := none, nextWaiter := none, cvWaits := [], lvWaits := 0#8, evWaits := 0#64, quitting := false,
    joinWaits := 0, yielding := false, rearmed := false,
    arrived := 0#8, late := 0#8, pos := none, fault := none, deferred := [], parkedOn := [], codePark := none,
    from_ := none }

/-! Taking a fault of a micro-thread (R87, R88, R169, R274) and resuming from it (R88, R200). -/

/-- What a precise fault records: the instruction's place in its figure, and its word where the code has no detail. -/
def Flt.info (e : Flt) (m : Micro) (fig : Word) (off len ll : Nat) (word : Word) (trailer : Option (BitVec 8))
    (stamp : Nat) : FaultInfo :=
  { code := e.code, detail := e.detail.getD word, fig := fig, off := off, gen := m.gen, len := len, ll := ll,
    inFig := true, trailer := trailer, redo := .instruction, posted := false, stamp := stamp }

/-- A fault is taken: the micro-thread becomes faulted, and keeps everything else (R29, R88). -/
def Micro.takeFault (m : Micro) (i : FaultInfo) : Micro := { m with life := .faulted, fault := some i }

/-- A fault found after issue: it waits until the micro-thread is between figures (R169). -/
def Micro.defer (m : Micro) (i : FaultInfo) : Micro := { m with deferred := m.deferred ++ [i] }

/-- What a deferred fault records: it names the figure and offset of its access, and bit 31 of its detail is set
(R169, R275). -/
def deferredInfo (code : Byte) (sub arg : Nat) (fig : Word) (off : Nat) (gen : Half) (redo : Redo) : FaultInfo :=
  { code := code, detail := detailOf true sub arg, fig := fig, off := off, gen := gen, len := 4, ll := 0,
    inFig := false, trailer := none, redo := redo, posted := false, stamp := 0 }

/-- The micro-thread goes back to the mode it left, at a position of its figure if it was inside one (R29, R88, R468). -/
def Micro.resumeAt (m : Micro) (p : Option Pos) : Micro :=
  let m := { m with fault := none, pos := p }
  { m with life := if m.waits && p.isNone && !m.rearmed then .parked else m.modeLife }

/-- Retry: the faulting instruction is issued again (R88). -/
def Micro.retry (m : Micro) (i : FaultInfo) : Micro :=
  m.resumeAt (if i.inFig then some ⟨i.fig, i.off, i.ll⟩ else none)

/-- Skip of a body instruction: the figure goes on at the next one (R88). A long-latency instruction that raised the
fault set no pending bit, and keeps its number (R72, R120). -/
def Micro.skipBody (m : Micro) (i : FaultInfo) (isLL : Bool) : Micro :=
  m.resumeAt (if i.inFig then some ⟨i.fig, i.off + i.len, i.ll + (if isLL then 1 else 0)⟩ else none)

/-- The 16 bytes of a fault message (R274). -/
def faultBytes (who : Nat) (i : FaultInfo) : List Byte :=
  bytesOfNat 4 who ++ bytesOfNat 2 i.gen.toNat ++ [i.code, BitVec.ofNat 8 i.off] ++ bytesOfNat 4 i.fig.toNat ++
    bytesOfNat 4 i.detail.toNat

/-! One turn of an issue group (R176-R178). -/

/-- The group in focus: its core, the key of its rotation slot, the core's state and the group. -/
def State.seat? (s : State) : Option (Nat × Nat × Core × Group) :=
  match s.focus with
  | .group n p r =>
    match s.cores[n]? with
    | some c =>
      match Tbl.get? c.groups (p * 8 + r) with
      | some g => some (n, p * 8 + r, c, g)
      | none => none
    | none => none
  | _ => none

/-- A launch's budget counter charged, when charging is on (R187, R188). -/
def Core.charge (c : Core) (l cost : Nat) : Core :=
  if c.bEn then c.modRes l fun r => { r with budget := r.budget - cost } else c

/-- The members of a group that have not faulted. -/
def Core.standing (c : Core) (g : Group) : List Nat := g.members.filter fun slot => (c.micro slot).life != .faulted

/-- The turn ends: members that faulted leave the group, the others go on at the next instruction, and every member, for each
executed the instruction, is charged (R87, R178, R188). -/
def Core.endTurn (c : Core) (k : Nat) (g : Group) (len w : Nat) (ll : Bool) : Core :=
  let live := c.standing g
  let c := c.charge g.launch (w * g.members.length)
  { c with
    groups := if live.isEmpty then Tbl.erase c.groups k
      else Tbl.set c.groups k
        { g with off := g.off + len, ll := if ll then g.ll + 1 else g.ll, members := live }
    eligible := c.eligible + 1 }

/-- Each member of the group executes: it gets its new state, or takes its fault. -/
def Core.runLanes (c : Core) (g : Group) (word : Word) (len : Nat) (f : Nat → Micro → Except Flt Micro) : Core :=
  { c with slots := Tbl.mapKV c.slots fun slot m =>
      if g.members.contains slot then
        match f slot m with
        | .ok m' => m'
        | .error e => m.takeFault (e.info m g.fig g.off len g.ll word none c.eligible)
      else m }

/-- An instruction of `len` bytes and weight `w` on every member of the group in focus, each on its own registers. -/
def lanes (len w : Nat) (f : Core → Nat → Micro → Except Flt Micro) (s : State) : Out :=
  match s.seat? with
  | none => .next s
  | some (n, k, c, g) =>
    .next (s.modCore n fun _ => (c.runLanes g s.curWord len (f c)).endTurn k g len w false)

/-- An instruction of the register file alone. -/
def alu (w : Nat) (f : Micro → Except Flt Micro) (s : State) : Out := lanes 4 w (fun _ _ m => f m) s

/-- A 16-bit instruction of the register file alone. -/
def alu16 (w : Nat) (f : Micro → Except Flt Micro) (s : State) : Out := lanes 2 w (fun _ _ m => f m) s

/-- A member takes a precise fault at the group's instruction. -/
def State.faultMember (s : State) (n : Nat) (g : Group) (len slot : Nat) (trailer : Option (BitVec 8)) (e : Flt) :
    State :=
  s.modCore n fun c =>
    c.modMicro slot fun m => m.takeFault (e.info m g.fig g.off len g.ll s.curWord trailer c.eligible)

/-- The members execute one after another in ascending slot order, each acting on the whole machine or taking its
fault. -/
def State.foldMembers (s : State) (n : Nat) (g : Group) (len : Nat) (trailer : Option (BitVec 8))
    (body : State → Nat → Micro → Except Flt State) : State :=
  g.members.foldl
    (fun t slot =>
      match body t slot ((t.core n).micro slot) with
      | .ok t' => t'
      | .error e => t.faultMember n g len slot trailer e) s

/-- An instruction whose members act on the machine beyond their registers, in ascending slot order (R242). `room`
says whether the turn can issue; where it cannot, the turn is repeated (R177). -/
def turn (w : Nat) (ll : Bool) (room : State → Nat → Group → Bool)
    (body : State → Nat → Group → Nat → Micro → Except Flt State) (s : State) : Out :=
  match s.seat? with
  | none => .next s
  | some (n, k, _, g) =>
    if room s n g then
      .next ((s.foldMembers n g 4 none fun t slot m => body t n g slot m).modCore n fun c => c.endTurn k g 4 w ll)
    else .next s

/-- A turn that always finds room. -/
def always (_ : State) (_ : Nat) (_ : Group) : Bool := true

/-! The caller (R190, R280). -/

/-- The caller of a launch on a core changed. -/
def State.modCaller (s : State) (n l : Nat) (f : Caller → Caller) : State :=
  s.modRes n l fun r => { r with caller := f r.caller }

/-- A caller register: x0 reads 0. -/
def Caller.reg (h : Caller) (r : XReg) : DWord := if r = 0#5 then 0#64 else h.x[r.toNat]'(r.isLt)

/-- A caller register written: a write of x0 is discarded. -/
def Caller.setReg (h : Caller) (r : XReg) (v : DWord) : Caller :=
  if r = 0#5 then h else { h with x := h.x.set r.toNat v r.isLt }

/-- Bits of sstatus (PRESUMED, log 3): SIE, SPIE, SPP. -/
def sstatusSie : Nat := 1
/-- SPIE. -/
def sstatusSpie : Nat := 5
/-- SPP. -/
def sstatusSpp : Nat := 8

/-- One bit of a word set to a value. -/
def putBit (v : DWord) (i : Nat) (b : Bool) : DWord :=
  if b then v ||| (1#64 <<< i) else v &&& ~~~(1#64 <<< i)

/-- An exception of the caller is taken into S-mode (R190, R280): sepc names the instruction, scause the cause, stval
the address or word; sstatus keeps the mode and the interrupt enable; the pc goes to stvec. -/
def Caller.trap (h : Caller) (cause : Nat) (tval : DWord) : Caller :=
  let st := putBit h.sstatus sstatusSpie (h.sstatus.getLsbD sstatusSie)
  let st := putBit st sstatusSpp (h.priv == .supervisor)
  { h with
    sepc := h.pc, scause := BitVec.ofNat 64 cause, stval := tval, sstatus := putBit st sstatusSie false,
    priv := .supervisor, pc := h.stvec &&& ~~~3#64,
    upc := if h.priv = .user then h.pc else h.upc
    exc := some ⟨cause, tval, h.priv == .supervisor⟩ }

/-- The supervisor meets an exception in S-mode, at a pc of its own (R281). -/
def Caller.lapse (h : Caller) (cause : Nat) (pc tval : DWord) : Caller :=
  ({ h with upc := if h.priv = .user then h.pc else h.upc, priv := .supervisor, pc := pc } : Caller).trap cause tval

/-- sret: the mode, the interrupt enable and the pc come back (R280; log 3). -/
def Caller.sret (h : Caller) : Caller :=
  let st := putBit h.sstatus sstatusSie (h.sstatus.getLsbD sstatusSpie)
  let st := putBit st sstatusSpie true
  { h with
    priv := if h.sstatus.getLsbD sstatusSpp then .supervisor else .user
    sstatus := putBit st sstatusSpp false, pc := h.sepc }

/-- The caller in focus. -/
def State.callerSeat? (s : State) : Option (Nat × Nat × Core × Res) :=
  match s.focus with
  | .caller n l =>
    match s.cores[n]? with
    | some c =>
      match Tbl.get? c.res l with
      | some r => some (n, l, c, r)
      | none => none
    | none => none
  | _ => none

/-- An instruction of the caller in focus that reaches only its own context. -/
def callerDo (f : Core → Res → Caller → Caller) (s : State) : Out :=
  match s.callerSeat? with
  | none => .next s
  | some (n, l, c, r) => .next (s.modCaller n l (f c r))

/-- RISC-V exception causes (PRESUMED, log 6). -/
def causeIllegal : Nat := 2
/-- Breakpoint. -/
def causeBreak : Nat := 3
/-- ECALL from U-mode and from S-mode. -/
def causeEcall (p : Priv) : Nat := match p with | .user => 8 | .supervisor => 9

/-! Free values. -/

/-- A free number (log 9). -/
def State.draw (s : State) : Nat := Config.freeNat s.fresh

/-- The next free number. -/
def State.drawn (s : State) : State := { s with fresh := s.fresh + 1 }

end Sys2Proof.Machine
end

