-- ==== Sys2Proof/Machine/Predicate.lean ====
section
/-!
DEFINITION. Predicates, special registers and the SYS group (R19, R109, R110, R112-R115), and the fate of reserved
encodings (R87, R90).
-/

namespace Sys2Proof.Machine

/-- Domain codes of work levels (R6, R383). -/
def domSet : Nat := 1
/-- Core. -/
def domCore : Nat := 2
/-- Cluster. -/
def domCluster : Nat := 3
/-- Die. -/
def domDie : Nat := 4
/-- Pair. -/
def domPair : Nat := 6

/-- The cores of a launch's rectangle in ascending (y, x) (R356, R383). -/
def Res.cores (r : Res) : List Nat := (List.range Config.numCores).filter r.inRect

/-- The number of declared levels (R383). -/
def Res.nlevel (r : Res) : Nat := recNat r.record 11 1
/-- The domain of a level (R381). -/
def Res.levelDom (r : Res) (k : Nat) : Nat := recNat r.record (128 + 8 * k) 1
/-- The launch runs on both cards (R381). -/
def Res.isPair (r : Res) : Bool := (recNat r.record 7 1).testBit 1

/-- The number of instances of a domain on some cores of this module (R383): micro-threads and sets by the slots each
core owns, retired slots included. -/
def State.instances (s : State) (l dom : Nat) (cores : List Nat) : Nat :=
  if dom = 0 then cores.foldl (fun a n => a + ((s.core n).owned l).length) 0
  else if dom = domSet then cores.foldl (fun a n => a + ((s.core n).sets l).length) 0
  else if dom = domCore then cores.length
  else if dom = domCluster then ((cores.map clusterOf).eraseDups).length
  else 1

/-- The instances of a domain on the cores of the twin's half of a launch (R383). How many slots and sets they hold this module
cannot see: the number is free between what the gang gives each core and what a core can hold (R24, R32, R269; log 9). -/
def State.twinInstances (s : State) (l : Nat) (r : Res) (dom : Nat) : Nat :=
  let cores := r.cores.length
  let free (lo : Nat) : Nat := cores * lo + s.draw % (cores * (Config.numSlots - lo) + 1)
  if dom = 0 then free (gangSlots r.record)
  else if dom = domSet then free (if gangSlots r.record = 0 then 0 else 1)
  else s.instances l dom r.cores

/-- LVLk (R19, R383): the index of a slot's instance of level k among those in its instance of level k + 1, or in the
whole launch, in ascending order of their keys. Instances of the twin's card 0 come before those of card 1. -/
def State.levelIndex (s : State) (n l slot k : Nat) : Nat :=
  match s.res? n l with
  | none => 0
  | some r =>
    if r.nlevel ≤ k then 0
    else
      let dom := r.levelDom k
      let outer := if k + 1 < r.nlevel then r.levelDom (k + 1) else if r.isPair then domPair else domDie
      let c := s.core n
      let (setNo, lane, _) := c.place l slot
      if outer = domSet then lane
      else
        let cores :=
          if outer = domCore then [n]
          else if outer = domCluster then r.cores.filter fun m => clusterOf m == clusterOf n
          else r.cores
        let before := cores.filter fun m => decide (m < n)
        let here :=
          if dom = 0 then s.instances l 0 before + (c.owned l).idxOf slot
          else if dom = domSet then s.instances l domSet before + setNo
          else if dom = domCore then before.length
          else if dom = domCluster then ((cores.map clusterOf).eraseDups).idxOf (clusterOf n)
          else 0
        let twins :=
          if outer = domPair ∧ s.cardNo = 1 then s.twinInstances l r dom else 0
        here + twins

/-- What MOVS reads (R19, R110). -/
def State.special (s : State) (n l slot : Nat) (m : Micro) (idx : Nat) : Word :=
  let c := s.core n
  let (setNo, lane, set) := c.place l slot
  let w (v : Nat) : Word := BitVec.ofNat 32 v
  match idx with
  | 0 => 0#32
  | 1 => w lane
  | 2 => w (c.grantOf l)
  | 3 => w slot
  | 4 => m.gen.setWidth 32
  | 5 => w setNo
  | 6 => w (s.coreWord n)
  | 7 => w (clusterOf n)
  | 8 => w l
  | 9 | 10 | 11 | 12 | 13 | 14 | 15 | 16 => w (s.levelIndex n l slot (idx - 9))
  | 17 => loWord c.cyc
  | 18 => m.cych.getD (hiWord c.cyc)
  | 19 => m.fflags.setWidth 32
  | 20 => m.frm.setWidth 32
  | 21 => BitVec.ofInt 32 (match Tbl.get? c.res l with | some r => r.budget | none => 0)
  | 22 => m.csp
  | 23 => m.resume
  | 24 | 25 | 26 | 27 => (c.cwp[idx - 24]?).getD 0#32
  | 28 => c.stale
  | 29 => w m.role
  | 30 => w set.length
  | _ => 0#32

/-- The core's cycle counter has moved on by a free number of cycles when it is read (R19, R374; log 9). -/
def State.passTime (s : State) (n : Nat) : State :=
  { (s.modCore n fun c => { c with cyc := c.cyc + BitVec.ofNat 64 s.draw }) with fresh := s.fresh + 1 }

/-- MOVS: a special register; a read of CYC latches the high word in CYCH (R19, R110). -/
def execMovs (d : Reg) (idx : BitVec 6) (s : State) : Out :=
  match s.seat? with
  | none => .next s
  | some (n, _, _, g) =>
    let s := if idx.toNat = 17 ∨ idx.toNat = 18 then s.passTime n else s
    lanes 4 1 (fun c slot m => do
      if 31 ≤ idx.toNat then .error .illegal
      else
        m.need [d]
        m.wrOk d 1
        let m := m.setReg d (s.special n g.launch slot m idx.toNat)
        .ok (if idx.toNat = 17 then { m with cych := some (hiWord c.cyc) } else m)) s

/-- A predicate computed from two (R109). -/
def Micro.pred2 (m : Micro) (f : Bool → Bool → Bool) (d a b : PReg) : Except Flt Micro :=
  .ok (m.setPred d (f (m.pred a) (m.pred b)))

/-- PAND (R109). -/
def execPand (d a b : PReg) (s : State) : Out := alu 1 (fun m => m.pred2 (fun x y => x && y) d a b) s

/-- POR (R109). -/
def execPor (d a b : PReg) (s : State) : Out := alu 1 (fun m => m.pred2 (fun x y => x || y) d a b) s

/-- PXOR (R109). -/
def execPxor (d a b : PReg) (s : State) : Out := alu 1 (fun m => m.pred2 (fun x y => xor x y) d a b) s

/-- PNOT (R109). -/
def execPnot (d a : PReg) (s : State) : Out := alu 1 (fun m => m.pred2 (fun x _ => !x) d a a) s

/-- P2G: p0 to p7 in bits 0 to 7 (R109). -/
def execP2g (d : Reg) (s : State) : Out := alu 1 (fun m => m.op0 (0#24 ++ 1#1 ++ m.preds) d) s

/-- G2P: the predicates that b's bits 0 to 6 name take a's bits (R109). -/
def execG2p (a b : Reg) (s : State) : Out :=
  alu 1 (fun m => do
    m.need [a, b]
    let x ← m.rd a
    let y ← m.rd b
    let mask : BitVec 7 := y.setWidth 7
    .ok { m with preds := (m.preds &&& ~~~mask) ||| (x.setWidth 7 &&& mask) }) s

/-- NOP: nothing but its place in the body; it weighs nothing (R112, R188). -/
def execNop (s : State) : Out := alu 0 (fun m => .ok m) s

/-- TRAP: the precise fault TRAP with the value of a (R112, R113). -/
def execTrap (a : Reg) (s : State) : Out :=
  alu 1 (fun m => do
    m.need [a]
    let x ← m.rd a
    .error (.trap x)) s

/-- EBRK: the precise fault breakpoint (R112, R113). -/
def execEbrk (s : State) : Out := alu 1 (fun _ => .error .breakpoint) s

/-- FSTAT: FFLAGS read, then the flags a names cleared (R114). -/
def execFstat (d a : Reg) (s : State) : Out :=
  alu 1 (fun m => do
    m.need [d, a]
    let x ← m.rd a
    m.wrOk d 1
    .ok { m.setReg d (m.fflags.setWidth 32) with fflags := m.fflags &&& ~~~(x.setWidth 5) }) s

/-- SETRM: the old FRM into d and a new mode; a value above 4 is a reserved code (R115). -/
def execSetrm (d a : Reg) (s : State) : Out :=
  alu 1 (fun m => do
    m.need [d, a]
    let x ← m.rd a
    m.wrOk d 1
    if x.toNat ≤ 4 then .ok { m.setReg d (m.frm.setWidth 32) with frm := x.setWidth 3 }
    else .error (.reserved 0)) s

end Sys2Proof.Machine
end

