-- ==== Sys2Proof/Machine/Ring.lean ====
section
/-!
DEFINITION. Inbox entries as bytes (R262), and the spill ring of a launch that is halted or saved (R285, R293, R294).
-/

namespace Sys2Proof.Machine

/-- An inbox entry's 32 bytes (R262). -/
def Msg.bytes (m : Msg) : List Byte :=
  bytesOfNat 1 m.kind ++ bytesOfNat 1 (if m.reply then 1 else 0) ++ bytesOfNat 2 m.src ++ bytesOfNat 2 m.tslot ++
    bytesOfNat 2 m.tgen.toNat ++ bytesOfNat 4 m.value.toNat ++ bytesOfNat 4 m.ret.toNat ++
    (List.range 4).flatMap fun i => bytesOfNat 4 (m.args.getD i 0#32).toNat

/-- The inbox entry that 32 bytes give, for a launch (R262); none for a kind outside 1-4 or a non-zero reserved place: RET of
a kind 2 holds a slot in [15:10] and nothing else, that of a kind 4 is zero. -/
def Msg.ofBytes (l : Nat) (b : List Byte) : Option Msg :=
  let f (off n : Nat) : Nat := recNat b off n
  let kind := f 0 1
  let ret : Word := BitVec.ofNat 32 (f 12 4)
  let broken := kind = 0 ∨ 4 < kind ∨ 1 < f 1 1 ∨ (kind ≠ 3 ∧ f 1 1 ≠ 0) ∨ (kind = 1 ∧ (f 4 2 ≠ 0 ∨ f 6 2 ≠ 0)) ∨
    (kind ≠ 1 ∧ (f 16 8 ≠ 0 ∨ f 24 8 ≠ 0)) ∨ (kind = 2 ∧ ret &&& 0xFFFF03FF#32 ≠ 0#32) ∨ (kind = 4 ∧ ret ≠ 0#32)
  if broken then none
  else
    some
      { kind := kind, reply := f 1 1 == 1, src := f 2 2, tslot := f 4 2, tgen := BitVec.ofNat 16 (f 6 2)
        value := BitVec.ofNat 32 (f 8 4), ret := ret
        args := if kind = 1 then (List.range 4).map fun i => BitVec.ofNat 32 (f (16 + 4 * i) 4) else []
        launch := l }

/-- One 64-byte entry of a spill ring (R293). -/
def ringEntry (kind size src tag arg : Nat) (data body : List Byte) : List Byte :=
  (bytesOfNat 1 kind ++ bytesOfNat 1 size ++ bytesOfNat 2 src ++ bytesOfNat 4 tag ++ bytesOfNat 8 arg ++
    (data ++ List.replicate 16 0#8).take 16 ++ (body ++ List.replicate 32 0#8).take 32)

/-- The continuation entries that carry a message's further bytes, 48 in each (R294). -/
def ringMore (b : List Byte) : List (List Byte) :=
  (List.range ((b.length + 47) / 48)).map fun i =>
    ringEntry 15 0 0 0 0 ((b.drop (48 * i)).take 16) ((b.drop (48 * i + 16)).take 32)

/-- The bytes of a K-best list (R324). -/
def bestBytes (l : List (Word × Word)) : List Byte :=
  l.flatMap fun p => bytesOfNat 4 p.1.toNat ++ bytesOfNat 4 p.2.toNat

/-- The operation code a request to a port carries: an ATOM's f7, or the f7 of the member with a caller AMO's effect; a
doubleword AMO without a member carries the code of its word form plus 16 (R294, R450; log 19). -/
def amoCode (op : AmoOp) (dbl : Bool) : Nat :=
  let code : Nat := match op with
    | .add => 0
    | .and => 1
    | .or => 2
    | .xor => 3
    | .min => 4
    | .max => 5
    | .minu => 6
    | .maxu => 7
    | .swap => 8
  if dbl then (if code = 0 then 11 else if code = 8 then 12 else code + 16) else code

/-- The ring entries of what the spill ring of core `here` catches (R294), in a module of the given card; the reply tag is
the access's own number, and the core's own where the gather/scatter engine reads for it. A hand-off's messages come from
the twin's core at the same place (R454). An arrival from the twin has its card bit set on either card (DEDUCED, log 79). -/
def Spill.entries (card here : Nat) (spawn : Nat → Bool) : Spill → List (List Byte)
  | .access id f =>
    let src := coreCode f.core + 512 * card
    let off := f.ea.toNat % 2 ^ 22
    match f.op with
    | .store n _ data => [ringEntry 1 (Nat.log2 n) src 0 off (bytesOfNat 16 data.toNat) []]
    | .atomic f7 b => [ringEntry 2 (if f7.toNat < 11 then 2 else 3) src (f7.toNat + 256 * id) off (bytesOfNat 16 b.toNat) []]
    | .amo op dbl b =>
      [ringEntry 2 (if dbl then 3 else 2) src (amoCode op dbl + 256 * id) off (bytesOfNat 16 b.toNat) []]
    | .sc dbl b => [ringEntry 1 (if dbl then 3 else 2) src 0 off (bytesOfNat 16 b.toNat) []]
    | .load sz _ =>
      [ringEntry 3 (match sz.toNat with
        | 0 | 1 => 0
        | 2 | 3 => 1
        | 4 => 2
        | 5 => 3
        | _ => 4) src id off [] []]
    | _ => [ringEntry 3 0 src id off [] []]
  | .twinReq r =>
    let src := coreCode r.src + 512
    match r.op with
    | .read n => [ringEntry 3 (Nat.log2 n) src r.tag r.off [] []]
    | .reserve n => [ringEntry 3 (Nat.log2 n) src r.tag r.off [] []]
    | .conditional n d => [ringEntry 1 (Nat.log2 n) src r.tag r.off (bytesOfNat 16 d.toNat) []]
    | .write n d _ => [ringEntry 1 (Nat.log2 n) src 0 r.off (bytesOfNat 16 d.toNat) []]
    | .atomic f7 b _ =>
      [ringEntry 2 (if f7.toNat < 11 then 2 else 3) src (f7.toNat + 256 * r.tag) r.off (bytesOfNat 16 b.toNat) []]
  | .reply id d fl size src =>
    if spawn id then [ringEntry 5 2 src id 0 (bytesOfNat 4 d.toNat) []]
    else [ringEntry 4 size src id 0 (bytesOfNat 16 d.toNat) (bytesOfNat 1 fl.toNat)]
  | .msg m => [ringEntry 6 0 m.src 0 0 [] m.bytes]
  | .wake asid page => [ringEntry 7 0 0 asid (page * 4096) [] []]
  | .signal line => [ringEntry 8 0 (coreCode here + 512 * card) 0 line [] []]
  | .level kind m =>
    [ringEntry 9 0 (coreCode m.core + 512 * (if m.twin then 1 else card)) (m.lvl + 8 * kind) m.episode [] []]
  | .faultMsg b => [ringEntry 10 0 (recNat b 0 4 / 1024) 0 0 b []]
  | .engineWrite e src off d =>
    match e with
    | 0 => [ringEntry 1 (Nat.log2 d.length) src 0 off d []]
    | 3 => [ringEntry 12 3 src 0 off d []]
    | _ => [ringEntry 11 (Nat.log2 d.length) src e off d []]
  | .engineRead src id off len =>
    [ringEntry 3 (Nat.log2 len) (coreCode src + 512 * card) (id.getD src) off [] []]
  | .hit tag h seq rec => [ringEntry 13 0 (coreCode here + 512) h (tag.toNat + 2 ^ 32 * seq) [] rec]
  | .hend m =>
    ringEntry 14 0 (coreCode here + 512) (m.h + 2 ^ 8 * m.err + 2 ^ 16 * m.code + 2 ^ 24 * m.best.length)
        (m.tag.toNat + 2 ^ 32 * m.sent) [] [] :: ringMore (bestBytes m.best)
  | .hq m =>
    ringEntry 16 0 (m.origin % 512 + 512) (m.h + 2 ^ 8 * m.best.length) (m.tag.toNat + 2 ^ 32 * m.index)
        [] [] :: ringMore (m.record ++ m.q.flatMap (fun w => bytesOfNat 4 w.toNat) ++ bestBytes m.best)
  | .hcan origin tag h => [ringEntry 17 0 (origin % 512 + 512) h tag.toNat [] []]

/-- Entries of a spill ring before its reply reserve (R293, R394). -/
def ringRoom : Nat := 4096

/-- The spill ring of a launch on a core takes no further request or message (R293): its senders wait. -/
def State.ringFull (s : State) (core l : Nat) : Bool :=
  match s.res? core l with
  | some r => decide (ringRoom ≤ r.ringNext)
  | none => false

/-- An arrival joins a launch's spill ring (R293): its entries are written to the ring's memory in order. -/
def State.catchSpill (s : State) (core l : Nat) (e : Spill) : State :=
  let spawn (id : Nat) : Bool := match Tbl.get? s.flights id with
    | some f => match f.op with
      | .spawn .. => true
      | _ => false
    | none => false
  let entries := e.entries s.cardNo core spawn
  let s := match s.res? core l, Tbl.get? s.dsc.launches l with
    | some r, some x =>
      match Tbl.get? x.areas core with
      | some (_, ring) => s.write (ring + 64 * r.ringNext) (entries.flatMap id)
      | none => s
    | _, _ => s
  s.modRes core l fun r => { r with spill := r.spill ++ [e], ringNext := r.ringNext + entries.length }

/-- A flight that goes to a launch's spill ring is caught there; a full ring makes it wait (R293). -/
def State.catchFlight (s : State) (core id : Nat) (f : Flight) (st : Stage) : State :=
  if s.ringFull core f.launch then s
  else
    let s := s.catchSpill core f.launch (.access id f)
    { s with flights := Tbl.modify s.flights id fun f => { f with stage := st } }

end Sys2Proof.Machine
end

