-- ==== Sys2Proof/Machine/Access.lean ====
section
/-!
DEFINITION. Memory accesses: addresses and their checks (R154-R158, R355, R356), translation (R375-R377), the cluster
cache (R326-R330), accesses in flight, the store FIFO and fences (R169-R174, R270-R272, R353, R363).
-/

namespace Sys2Proof.Machine

/-! Addresses. -/

/-- Where an access goes: a pool offset of a core of this module or of the twin, or a global virtual address. -/
inductive Target where
  | pool (twin : Bool) (core off : Nat)
  | global (va : Nat)
  deriving DecidableEq, Repr

/-- An array address (R154). -/
def isArray (ea : DWord) : Bool := ea.extractLsb' 48 16 == 0xFFFE#16 || ea.extractLsb' 48 16 == 0xFFFD#16

/-- A canonical Sv48 address (R155). -/
def canonical (ea : DWord) : Bool := ea.extractLsb' 47 17 == 0#17 || ea.extractLsb' 47 17 == 0x1FFFF#17

/-- EA[21:0], the argument of address faults (R276). -/
def ea22 (ea : DWord) : Nat := ea.toNat % 0x400000

/-- A coordinate that may lie below zero or past the mesh. -/
def coreAtInt (x y : Int) : Option Nat :=
  if 0 ≤ x ∧ 0 ≤ y then coreAt x.toNat y.toNat else none

/-- An array address resolved against the issuing core and its launch's rectangle (R156, R355, R356). -/
def resolveArray (n : Nat) (r : Res) (ea : DWord) : Option Target :=
  let twin := ea.getLsbD 40
  let off := ea22 ea
  let xf : BitVec 5 := ea.extractLsb' 35 5
  let yf : BitVec 4 := ea.extractLsb' 31 4
  if ea.extractLsb' 22 9 ≠ 0#9 ∨ Config.poolBytes ≤ off then none
  else if ea.extractLsb' 48 16 = 0xFFFE#16 then
    if ea.extractLsb' 41 7 ≠ 0#7 then none
    else (coreAt xf.toNat yf.toNat).map fun c => .pool twin c off
  else if ea.extractLsb' 42 6 ≠ 0#6 then none
  else
    let x : Int := (coreX n : Int) + xf.toInt
    let y : Int := (coreY n : Int) + yf.toInt
    if ea.getLsbD 41 then
      let w := max 1 (recNat r.record 14 1)
      let h := max 1 (recNat r.record 15 1)
      (coreAtInt (r.x0 + (x - r.x0) % w) (r.y0 + (y - r.y0) % h)).map fun c => .pool twin c off
    else (coreAtInt x y).map fun c => .pool twin c off

/-- The checks of an address at issue, in the order R155, R156, R158; R155 is left out for an LD or ST of kind 10. -/
def checkAddr (n : Nat) (r : Res) (ea : DWord) (size : Nat) (arrayKind : Bool) : Except Flt Target := do
  let t ←
    if isArray ea then
      match resolveArray n r ea with
      | some t => .ok t
      | none => .error (.arrayRange (ea22 ea))
    else if arrayKind then .error (.arrayRange (ea22 ea))
    else if canonical ea then .ok (.global (ea.toNat % 2 ^ 48))
    else .error (.protection 3 (ea22 ea))
  if ea.toNat % size = 0 then .ok t else .error (.misaligned (ea22 ea))

/-- The first byte of an access as one number, the same for every form of its address (R154-R156, R373): a virtual address, or
for a byte of a pool a number above all of them. -/
def Target.place : Target → Nat
  | .pool twin core off => 2 ^ 48 + (if twin then 2 ^ 40 else 0) + core * 2 ^ 22 + off
  | .global va => va

/-- The target of a checked address, resolved again (the launch's rectangle never moves). -/
def targetOf (n : Nat) (r : Res) (ea : DWord) : Target :=
  if isArray ea then (resolveArray n r ea).getD (.global 0) else .global (ea.toNat % 2 ^ 48)

/-- The owning port's checks (R157): the core runs the launch or holds its saved context, and the range lies in the
scratchpad. -/
def State.portOk (s : State) (core l off len : Nat) : Bool :=
  ((s.core core).res.any fun p => p.1 == l) && (s.core core).inSp off len

/-- The arrivals for a launch on a core go to its spill ring (R285, R293). -/
def State.away (s : State) (core l : Nat) : Bool :=
  match s.res? core l with
  | some r => r.away
  | none => false

/-! Translation. -/

/-- What an access needs of its page (R376). -/
inductive Need where
  | read | write | exec
  deriving DecidableEq, Repr

/-- What a translation gives: the physical address and whether the page is cacheable; a failed walk with the leaf entry
found; or an ASID without tables (R375, R376). -/
inductive Walk where
  | ok (pa : Nat) (cacheable : Bool)
  | fail (leaf : DWord)
  | noTables
  deriving DecidableEq, Repr

/-- End of G7 memory (R430). -/
def g7End : Nat := 0x2000000000

/-- The TLU of a virtual address (R357). -/
def tluOf (va : Nat) : Nat := (va / 0x1000 % 16) ^^^ (va / 0x100000 % 16)

/-- The home of a physical address: PA[11:8] XOR PA[19:16] (R357). `State.mem` holds each location once, at its home. -/
def homeOf (pa : Nat) : Nat := (pa / 0x100 % 16) ^^^ (pa / 0x10000 % 16)

/-- An entry that no walk may pass (R376): V clear, or W set with R clear, or N, PBMT 3 or a reserved bit set. -/
def pteBroken (p : DWord) : Bool :=
  !p.getLsbD 0 || (p.getLsbD 2 && !p.getLsbD 1) || p.getLsbD 63 || p.extractLsb' 61 2 == 3#2 ||
    p.extractLsb' 54 7 != 0#7

/-- The leaf's permissions for an access (R376). -/
def pteAllows (p : DWord) (need : Need) : Bool :=
  p.getLsbD 4 && p.getLsbD 6 &&
    (match need with
     | .read => p.getLsbD 1
     | .write => p.getLsbD 1 && p.getLsbD 2 && p.getLsbD 7
     | .exec => p.getLsbD 3)

/-- The physical address a leaf of a level gives (R376); none for a misaligned superpage or past G7 memory. -/
def leafAddr (p : DWord) (level va : Nat) : Option Nat :=
  let ppn := (p.extractLsb' 10 44).toNat
  let span := 2 ^ (9 * level)
  let pa := ppn * 0x1000 + va % (span * 0x1000)
  if ppn % span = 0 ∧ pa < g7End then some pa else none

/-- A leaf entry applied to an access. -/
def applyLeaf (p : DWord) (level va : Nat) (need : Need) : Walk :=
  match leafAddr p level va with
  | some pa => if !pteBroken p && pteAllows p need then .ok pa (p.extractLsb' 61 2 == 0#2) else .fail p
  | none => .fail p

/-- An entry of a page table or of the ASID table, read at its home (R375, R376); where nothing is mapped the read is refused, and
the walk finds no valid entry (R430). -/
def tableEntry (m : List Host.Cell) (pa : Nat) : DWord :=
  if pa < g7End then BitVec.ofNat 64 (natOfBytes (Memory.readN m pa 8)) else 0#64

/-- The Sv48 walk from a table at `level` (R376): its outcome, and the leaf to cache. -/
def walkFrom (m : List Host.Cell) (va : Nat) (need : Need) : Nat → Nat → Walk × Option (Nat × DWord)
  | 0, ppn =>
    let p := tableEntry m (ppn * 0x1000 + 8 * (va / 0x1000 % 512))
    if !p.getLsbD 1 && !p.getLsbD 3 then (.fail p, none)
    else match applyLeaf p 0 va need with
      | .ok pa c => (.ok pa c, some (0, p))
      | w => (w, none)
  | level + 1, ppn =>
    let vpn := va / (0x1000 * 2 ^ (9 * (level + 1))) % 512
    let p := tableEntry m (ppn * 0x1000 + 8 * vpn)
    if p.getLsbD 0 && (p.getLsbD 1 || p.getLsbD 3) then
      match applyLeaf p (level + 1) va need with
      | .ok pa c => (.ok pa c, some (level + 1, p))
      | w => (w, none)
    else if pteBroken p then (.fail 0#64, none)
    else walkFrom m va need level (p.extractLsb' 10 44).toNat

/-- The root of an ASID's tables (R375). -/
def State.asidRoot (s : State) (asid : Nat) : Option Nat :=
  let e := tableEntry s.mem (s.dsc.asidtab.toNat + 8 * asid)
  if e.getLsbD 63 ∧ e.extractLsb' 44 19 = 0#19 then some (e.extractLsb' 0 44).toNat else none

/-- A leaf that covers an address. -/
def Leaf.covers (l : Leaf) (asid va : Nat) : Bool :=
  l.asid == asid && va / 0x1000 / 2 ^ (9 * l.level) * 2 ^ (9 * l.level) == l.vpn

/-- An address translated: by a cached leaf that allows the access, else by a walk (R376, R377). -/
def State.translate (s : State) (asid va : Nat) (need : Need) : Walk :=
  let cached := ((s.tlu (tluOf va)).leaves.find? fun l => l.covers asid va).map fun l => applyLeaf l.pte l.level va need
  match cached with
  | some (.ok pa c) => .ok pa c
  | _ =>
    match s.asidRoot asid with
    | none => .noTables
    | some root => (walkFrom s.mem va need 3 root).1

/-- The leaf a walk leaves in the TLU, after a free choice of what it replaces (R377; log 9). -/
def State.cacheLeaf (s : State) (asid va : Nat) (need : Need) : State :=
  match s.asidRoot asid with
  | none => s
  | some root =>
    match (walkFrom s.mem va need 3 root).2 with
    | none => s
    | some (level, p) =>
      let l : Leaf := ⟨asid, va / 0x1000 / 2 ^ (9 * level) * 2 ^ (9 * level), level, p⟩
      (s.modTlu (tluOf va) fun t =>
        if t.leaves.any fun x => x.covers asid va then t
        else { t with leaves := l :: t.leaves.eraseIdx (s.draw % (t.leaves.length + 1)) }).drawn

/-- A page is sealed (R205). -/
def State.isSealed (s : State) (pa : Nat) : Bool := s.sealed.any fun o => o.pages.contains (pa / 0x1000)

/-- The sealed object at a launch's code base, a canonical address (R155, R207). -/
def State.codeObject (s : State) (asid base : Nat) : Option Sealed :=
  if canonical (BitVec.ofNat 64 base) then s.sealed.find? fun o => o.asid == asid && o.base == base % 2 ^ 48 else none

/-! Lines of a cluster cache. -/

/-- Bytes of a line as a number. -/
def getLine (l : Line) (off n : Nat) : Nat := l.toNat / 2 ^ (8 * off) % 2 ^ (8 * n)

/-- Bytes of a line replaced. -/
def putLine (l : Line) (off n v : Nat) : Line :=
  let mask : Line := BitVec.ofNat 512 (2 ^ (8 * n) - 1) <<< (8 * off)
  (l &&& ~~~mask) ||| ((BitVec.ofNat 512 v <<< (8 * off)) &&& mask)

/-- The line of memory that holds an address. -/
def State.lineAt (s : State) (pa : Nat) : Line := BitVec.ofNat 512 (s.peek (pa / 64 * 64) 64)

/-- A line of the cluster cache (R327, R328): node accesses hit node lines, all others data lines. -/
def Cluster.find (c : Cluster) (asid vline : Nat) (node : Bool) : Option CLine :=
  c.lines.find? fun l => l.asid == asid && l.vline == vline && l.node == node

/-- A line allocated, after a free choice of the line it replaces (R327; log 9). -/
def Cluster.fill (c : Cluster) (l : CLine) (choice : Nat) : Cluster :=
  let rest := c.lines.filter fun x => !(x.asid == l.asid && x.vline == l.vline && x.node == l.node)
  { c with lines := l :: rest.eraseIdx (if rest.length < 65536 then choice % (rest.length + 1) else choice % rest.length) }

/-- ASID of a flight's launch. -/
def State.asidOf (s : State) (n l : Nat) : Nat :=
  match s.res? n l with
  | some r => r.asid
  | none => 0

/-- The 64-byte virtual line of a flight's address. -/
def Flight.vline (f : Flight) : Nat := f.ea.toNat % 2 ^ 48 / 64

/-- The flight is a load, an MRG and an LR among them: it holds later own-pool loads and stores, and an acquire waits for it
(R173, R174). -/
def Flight.isLoad (f : Flight) : Bool :=
  match f.op with
  | .load .. => true
  | .reserve .. => true
  | .merge .. => true
  | _ => false

/-- Fills on their way to a cluster, and those asked for, are not allocated when an event drops their lines (R330). -/
def State.dropFills (s : State) (cl : Nat) (p : Flight → Bool) : State :=
  { s with flights := Tbl.mapKV s.flights fun _ f =>
      if clusterOf f.core == cl && f.isLoad && p f then
        match f.stage with
        | .fill line _ => { f with stage := .fill line false }
        | .home pa _ => { f with stage := .home pa false }
        | _ => f
      else f }

/-- Lines of a cluster dropped (R330). -/
def State.dropLines (s : State) (cl : Nat) (p : CLine → Bool) : State :=
  s.modCluster cl fun c => { c with lines := c.lines.filter fun l => !p l }

/-- An acquire at scope 4 or wider: every data line of the cluster is dropped (R330). -/
def State.acquire (s : State) (cl : Nat) : State :=
  (s.dropLines cl fun l => !l.node).dropFills cl fun _ => true

/-- A global store enters the cluster's write-through buffer: it updates the bytes of every line of its ASID and address,
and of the fills on their way (R329). -/
def State.updateLines (s : State) (cl asid va n v : Nat) : State :=
  let s := s.modCluster cl fun c =>
    { c with lines := c.lines.map fun l =>
        if l.asid == asid && l.vline == va / 64 then { l with data := putLine l.data (va % 64) n v } else l }
  { s with flights := Tbl.mapKV s.flights fun _ f =>
      match f.stage with
      | .fill line al =>
        if clusterOf f.core == cl && s.asidOf f.core f.launch == asid && f.vline == va / 64 then
          { f with stage := .fill (putLine line (va % 64) n v) al }
        else f
      | _ => f }

/-- A global atomic leaves the cluster: the data line and node line of its address are invalidated (R164, R329). -/
def State.invalidateLine (s : State) (cl asid vline : Nat) : State :=
  (s.dropLines cl fun l => l.asid == asid && l.vline == vline).dropFills cl
    fun f => s.asidOf f.core f.launch == asid && f.vline == vline

/-- A global access is translated and not yet performed at its home. -/
def Flight.toHome (f : Flight) : Bool :=
  match f.stage with
  | .home .. => true
  | _ => false

/-- The stores of a cluster's write-through buffer laid over a line of memory (R329): what the home has performed of them is
in the line already, under what came after. -/
def State.mergeBuffer (s : State) (cl asid vline : Nat) (line : Line) : Line :=
  (s.cluster cl).wtb.foldl
    (fun l id =>
      match Tbl.get? s.flights id with
      | some f =>
        match f.op with
        | .store n _ data =>
          if f.toHome && s.asidOf f.core f.launch == asid && f.vline == vline then
            (if f.low.isSome then putLine l (f.ea.toNat % 64 + 8) 8 (data.toNat / 2 ^ 64)
             else putLine l (f.ea.toNat % 64) n data.toNat)
          else l
        | _ => l
      | none => l) line

/-! Accesses in flight. -/

/-- A flight entered: its number is the next identifier. -/
def State.addFlight (s : State) (f : Flight) : State :=
  { s with flights := Tbl.set s.flights s.nextId { f with sent := s.nextId }, nextId := s.nextId + 1 }

/-- A flight entered at the tail of its core's store FIFO (R270). -/
def State.addFifo (s : State) (f : Flight) : State :=
  (s.addFlight f).modCore f.core fun c => { c with fifo := c.fifo ++ [s.nextId] }

/-- A flight is sent on: requests leave for their owning port or home in the order of this stamp (R353). -/
def State.sendOn (s : State) (id : Nat) (st : Stage) : State :=
  { s with
    flights := Tbl.modify s.flights id fun f => { f with stage := st, sent := s.nextId }
    nextId := s.nextId + 1 }

/-- A flight changed. -/
def State.modFlight (s : State) (id : Nat) (f : Flight → Flight) : State :=
  { s with flights := Tbl.modify s.flights id f }

/-- A flight's stage set. -/
def State.setStage (s : State) (id : Nat) (st : Stage) : State := s.modFlight id fun f => { f with stage := st }

/-- A flight ended. -/
def State.dropFlight (s : State) (id : Nat) : State := { s with flights := Tbl.erase s.flights id }

/-- An entry leaves its core's store FIFO. -/
def State.popFifo (s : State) (n id : Nat) : State := s.modCore n fun c => { c with fifo := c.fifo.filter fun x => x != id }

/-- The issuer of a flight, as an engine's entry names it. -/
def Flight.issuer (f : Flight) : Issuer :=
  let w := f.who.headD ⟨0, 0#16, false, false⟩
  ⟨w.slot, w.gen, f.fig, f.off, f.word⟩

/-- Two flights of one agent (R271, R272): one micro-thread, or one caller. -/
def Flight.sameAgent (f g : Flight) : Bool :=
  f.core == g.core && f.agent == g.agent &&
    (match f.agent with
     | .caller => f.launch == g.launch
     | .engine => false
     | .micro => f.who.any fun w => g.who.any fun v => v.slot == w.slot && v.gen == w.gen)

/-- The flight is an MRG member. -/
def Flight.isMerge (f : Flight) : Bool :=
  match f.op with
  | .merge .. => true
  | _ => false

/-- The flight is an access performed like an atomic (R164, R204, R242). -/
def Flight.isAtomic (f : Flight) : Bool :=
  match f.op with
  | .atomic .. => true
  | .amo .. => true
  | .sc .. => true
  | _ => false

/-- The flight is a plain store. -/
def Flight.isStore (f : Flight) : Bool :=
  match f.op with
  | .store .. => true
  | _ => false

/-- The flight is a CPOST. -/
def Flight.isCopy (f : Flight) : Bool :=
  match f.op with
  | .copy .. => true
  | _ => false

/-- The flight is a fence. -/
def Flight.isFence (f : Flight) : Bool :=
  match f.op with
  | .fence .. => true
  | _ => false

/-- Its value is fixed, or nothing of it is left to perform (R174). -/
def Flight.bound (f : Flight) : Bool :=
  match f.stage with
  | .reply .. => true
  | .acked => true
  | .faulted => true
  | .linked => true
  | .engine => true
  | _ => false

/-- The bytes of a load or store. -/
def Flight.size (f : Flight) : Nat :=
  match f.op with
  | .load sz _ => match sz.toNat with
    | 0 | 1 => 1
    | 2 | 3 => 2
    | 4 => 4
    | 5 => 8
    | _ => 16
  | .store n _ _ => n
  | .atomic f7 _ => if f7.toNat < 11 then 4 else 8
  | .amo _ dbl _ => if dbl then 8 else 4
  | .sc dbl _ => if dbl then 8 else 4
  | .reserve dbl => if dbl then 8 else 4
  | _ => 0

/-- The flight is still in its core's store FIFO. -/
def State.inFifo (s : State) (n id : Nat) : Bool := (s.core n).fifo.contains id

/-- A pool target of a flight on this module. -/
def State.targetOfFlight (s : State) (f : Flight) : Target :=
  match s.res? f.core f.launch with
  | some r => targetOf f.core r f.ea
  | none => .global 0

/-- The place of a flight's first byte (see `Target.place`). -/
def State.placeOf (s : State) (f : Flight) : Nat := (s.targetOfFlight f).place

/-- A range of places: its start and its length. -/
abbrev Span := Nat × Nat

/-- Two ranges share a byte. -/
def Span.meets (a b : Span) : Bool := decide (a.1 < b.1 + b.2) && decide (b.1 < a.1 + a.2) && a.2 != 0 && b.2 != 0

/-- A range begins in a pool of this module: its core. -/
def Span.inPool (a : Span) : Option Nat :=
  if 2 ^ 48 ≤ a.1 ∧ a.1 < 2 ^ 48 + 2 ^ 40 then some ((a.1 - 2 ^ 48) / 2 ^ 22) else none

/-- Word i of a descriptor. -/
def wordAt (l : List Word) (i : Nat) : Word := l.getD i 0#32

/-- A pair of a descriptor. -/
def pairAt (l : List Word) (i : Nat) : DWord := mkPair (wordAt l i) (wordAt l (i + 1))

/-- The key size of an MRG (R166). -/
def mergeKey (a : List Word) : Nat := if (wordAt a 6).getLsbD 0 then 8 else 4

/-- A range of `n` elements of a flight's descriptor. -/
def State.spanOf (s : State) (f : Flight) (ea : DWord) (len : Nat) : Span := (s.placeOf { f with ea := ea }, len)

/-- The ranges a flight reads as a load does (R159, R166). -/
def State.spansRead (s : State) (f : Flight) : List Span :=
  match f.op with
  | .load .. => [(s.placeOf f, f.size)]
  | .reserve .. => [(s.placeOf f, f.size)]
  | .merge _ a _ _ =>
    [s.spanOf f (pairAt a 0) ((wordAt a 4).toNat * mergeKey a), s.spanOf f (pairAt a 2) ((wordAt a 5).toNat * mergeKey a)]
  | _ => []

/-- The ranges a flight writes (R160, R163, R166). -/
def State.spansWritten (s : State) (f : Flight) : List Span :=
  match f.op with
  | .merge f7 a b _ => if f7 = 0#7 then [] else [s.spanOf f (pairAt b 0) ((wordAt b 2).toNat * mergeKey a)]
  | _ => if f.isStore || f.isAtomic then [(s.placeOf f, f.size)] else []

/-- Some ranges of two lists share a byte. -/
def spansMeet (a b : List Span) : Bool := a.any fun x => b.any fun y => x.meets y

/-- Some range lies in the pool of a core. -/
def spansIn (core : Nat) (a : List Span) : Bool := a.any fun x => x.inPool == some core && x.2 != 0

/-- An array store to another core (R174). -/
def State.remoteStore (s : State) (f : Flight) : Bool :=
  f.isStore && (match s.targetOfFlight f with
    | .pool twin core _ => twin || core != f.core
    | .global _ => false)

/-- The flight counts as performed for a fence of a kind and scope (R174, R293, R363, R452). Kinds: 0 full, 1 acquire,
2 release, 3 remote-store completion, 4 FENCE.I, 5 the caller's FENCE. A full fence waits until a remote array store has
left the FIFO, and not for its acknowledgement (DEDUCED, log 13). A post counts once it has entered its queue. -/
def State.fenceSees (s : State) (id : Nat) (f : Flight) (kind scope : Nat) : Bool :=
  if f.isFence || f.bound && !f.isStore then true
  else if f.isLoad then f.bound
  else if f.isStore then
    if kind = 1 then true
    else if s.remoteStore f then
      if (kind = 3 ∧ 2 ≤ scope) ∨ kind = 5 ∨ kind = 4 then
        (f.stage == .twin && decide (scope < 6)) || f.stage == .faulted
      else kind == 2 || !s.inFifo f.core id
    else if s.inFifo f.core id then false
    else if scope ≤ 3 then true
    else f.stage == .acked || f.stage == .faulted
  else if s.inFifo f.core id then false
  else f.isAtomic && f.stage == .caught || f.isCopy && f.stage != .fifo

/-- A fence's condition holds (R174): every earlier access of its agent counts as performed, and the write-through entries
it waits for have left. -/
def State.fenceDone (s : State) (id : Nat) (f : Flight) : Bool :=
  match f.op with
  | .fence kind scope entries =>
    (s.flights.all fun p => decide (id ≤ p.1) || !p.2.sameAgent f || s.fenceSees p.1 p.2 kind scope) &&
      entries.all fun e => !(s.cluster (clusterOf f.core)).wtb.contains e
  | _ => false

/-- A satisfied fence goes; one with an acquire at scope 4 or wider drops the cluster's data lines (R174, R330). -/
def State.endFence (s : State) (p : Nat × Flight) : State :=
  match p.2.op with
  | .fence kind scope _ =>
    let s := s.dropFlight p.1
    if (kind = 0 ∨ kind = 1 ∨ kind = 5) ∧ 4 ≤ scope then s.acquire (clusterOf p.2.core) else s
  | _ => s

/-- Every fence whose condition holds ends. Called after each event that performs an access. -/
def State.settle (s : State) : State :=
  (s.flights.filter fun p => s.fenceDone p.1 p.2).foldl State.endFence s

/-- An earlier fence of its agent holds an access (R174): a release and a remote-store completion hold stores and
atomics, the other kinds hold every access. -/
def State.held (s : State) (id : Nat) (f : Flight) : Bool :=
  s.flights.any fun p =>
    decide (p.1 < id) && p.2.sameAgent f &&
      (match p.2.op with
       | .fence kind _ _ => !f.isLoad || !(kind == 2 || kind == 3)
       | _ => false)

/-- A fence still holds an access of a halting launch: its loads and parked accesses are recorded and not waited for (R171,
R287). -/
def State.heldHalting (s : State) (id : Nat) (f : Flight) : Bool :=
  s.flights.any fun p =>
    decide (p.1 < id) && p.2.sameAgent f &&
      (match p.2.op with
       | .fence kind scope entries =>
         (!f.isLoad || !(kind == 2 || kind == 3)) &&
           (!(s.flights.all fun q => decide (p.1 ≤ q.1) || !q.2.sameAgent f || q.2.isLoad || q.2.stage == .parked ||
               s.fenceSees q.1 q.2 kind scope) ||
             entries.any fun e => (s.cluster (clusterOf f.core)).wtb.contains e)
       | _ => false)

/-- An earlier access of the agent keeps a load, or the reads of a merge, waiting: an atomic still to be performed (R164); an
unbound load of the same line, or of the own pool where both are (R272, R361); a merge that writes its bytes (R362). -/
def State.loadAfter (s : State) (f p : Flight) : Bool :=
  p.isAtomic ||
    (let mine := s.spansRead f
     let its := s.spansRead p
     spansMeet mine its || (!p.isMerge && p.isLoad && its.any fun x => mine.any fun y => decide (x.1 / 64 = y.1 / 64)) ||
       (spansIn f.core mine && spansIn f.core its) || (p.isMerge && spansMeet mine (s.spansWritten p)))

/-- A load may be performed now: no fence holds it, and no earlier access of its agent that it follows is unbound (R164,
R272, R361). -/
def State.loadMay (s : State) (id : Nat) (f : Flight) : Bool :=
  !s.held id f && !(s.flights.any fun p => decide (p.1 < id) && p.2.sameAgent f && !p.2.bound && s.loadAfter f p.2)

/-- What an own buffered store gives a load (R271): wait for it, or its bytes. -/
inductive Forward where
  | none
  | wait
  | bytes (v : Nat)
  deriving DecidableEq, Repr

/-- The agent's youngest buffered store to the load's bytes (R271): a store that covers them is forwarded, a partial
overlap waits. -/
def State.forward (s : State) (id : Nat) (f : Flight) : Forward :=
  s.flights.foldl
    (fun acc p =>
      if decide (p.1 < id) && p.2.sameAgent f && s.inFifo f.core p.1 then
        let a := s.placeOf f
        let b := s.placeOf p.2
        match p.2.op with
        | .store n _ data =>
          if !Span.meets (a, f.size) (b, n) then acc
          else if b ≤ a ∧ a + f.size ≤ b + n then .bytes (data.toNat / 2 ^ (8 * (a - b)) % 2 ^ (8 * f.size))
          else .wait
        | _ => acc
      else acc) .none

/-- The registers that a loaded value gives (R159): extended by the size code. -/
def extendLoad (size : BitVec 3) (v : Nat) : QWord :=
  match size.toNat with
  | 1 => ((BitVec.ofNat 8 v).signExtend 32).setWidth 128
  | 3 => ((BitVec.ofNat 16 v).signExtend 32).setWidth 128
  | _ => BitVec.ofNat 128 v

/-- The result of a load is bound: it is on its way to the registers. -/
def State.bindLoad (s : State) (id : Nat) (f : Flight) (v : Nat) : State :=
  match f.op with
  | .load sz _ => s.setStage id (.reply (extendLoad sz v) noFlags)
  | _ => s.setStage id (.reply (BitVec.ofNat 128 v) noFlags)

/-- A micro-thread's pending bits for a group of destinations set (R18). -/
def Micro.setPend (m : Micro) (d : Reg) (n : Nat) : Micro :=
  { m with pend := (groupCodes d n).foldl (fun p c => p ||| (1#64 <<< c.toNat)) m.pend }

/-- The pending bits of a group cleared. -/
def Micro.clearPend (m : Micro) (d : Reg) (n : Nat) : Micro :=
  { m with pend := (groupCodes d n).foldl (fun p c => p &&& ~~~(1#64 <<< c.toNat)) m.pend }

/-- The flight of a group's instruction at its member. -/
def Group.flight (g : Group) (s : State) (n slot : Nat) (m : Micro) (ll : Bool) (d : Reg) (dstN : Nat) (ea : DWord)
    (op : Op) (stage : Stage) : Flight :=
  { core := n, launch := g.launch, agent := .micro, who := [⟨slot, m.gen, true, false⟩], fig := g.fig, off := g.off,
    word := s.curWord, ll := if ll then g.ll else 8, dst := d, dstN := dstN, ea := ea, sent := 0, op := op,
    stage := stage }

/-- An exception of the caller whose access this is, precise at its instruction: a load has not yet moved the pc, an AMO or
SC has, and a store keeps its own (R191, R280, R285). -/
def Flight.callerTrap (f : Flight) (id cause : Nat) (h : Caller) : Caller :=
  let pc := if f.isStore then f.pc else if h.waitFor = some id ∧ f.isAtomic then h.pc - 4#64 else h.pc
  { ({ h with pc := pc } : Caller).trap cause f.ea with waitFor := if h.waitFor = some id then none else h.waitFor }

/-- What the blocks' state registers and the links hold now (R442). -/
def State.blocks (s : State) : Snap :=
  { mem := s.mem, cores := s.cores, flights := s.flights, clusters := s.clusters, tlus := s.tlus, wakes := s.wakes
    dsc := s.dsc, station := s.station }

/-- Every block's snapshot registers are latched, or the trigger is lost (R442, R443). The trigger reaches some blocks at once and
some a turn later (R444; log 85): a free number names the late ones. -/
def State.trigger (s : State) (source : Nat) : State :=
  let w := s.watch
  if !w.arm.getLsbD source then s
  else if w.held then { s with watch := { w with lost := w.lost + 1#16 } }
  else
    { s with
      watch := { w with
        held := true, count := w.count + 1#16, snap := some s.blocks, late := none, skew := 1
        pick := Config.freeNat s.fresh }
      fresh := s.fresh + 1 }

/-- The blocks that the trigger reaches late are latched, one turn after the others (R444). -/
def State.latchLate (s : State) : State :=
  if s.watch.snap.isNone ∨ s.watch.late.isSome then s
  else if s.watch.skew = 0 then { s with watch := { s.watch with late := some s.blocks } }
  else { s with watch := { s.watch with skew := s.watch.skew - 1 } }

/-- What a block's snapshot registers show (R442, R444): blocks 0 to 79 are the cores, 80 to 89 the clusters, 90 to 105 the
controllers, 106 the scheduler, 107 the station; 108 and on the links of the mesh, by the core a packet left. -/
def Watch.blockAt (w : Watch) (block : Nat) : Option Snap := if w.pick.testBit block then w.late else w.snap

/-- An uncorrectable error is logged (R441), by its pool offset or its physical address: the 16 newest entries are kept. The
block is the source code of R283 (log 27). -/
def State.logError (s : State) (block kind reader addr : Nat) : State :=
  let w := s.watch
  let entry : BitVec 128 := BitVec.ofNat 128
    (block % 2 ^ 8 + 2 ^ 8 * kind + 2 ^ 16 * (reader % 2 ^ 16) + 2 ^ 32 * w.errSeq.toNat + 2 ^ 64 * addr)
  { s with watch :=
    { w with errSeq := w.errSeq + 1#32, errLog := (w.errLog ++ [entry]).drop (w.errLog.length + 1 - 16) } }

/-- A machine check is logged and triggers a snapshot where that is armed (R283, R441, R443). -/
def State.machineCheck (s : State) (block reader addr : Nat) : State := (s.logError block 2 reader addr).trigger 2

/-- A deferred fault of a flight's micro-threads, or an access fault of its caller (R169, R191, R280). Its flight stays,
faulted, until FIG.RESUME; an engine's stays, with the code in its word, until the engine that waits for it has seen it
(R250, R344). -/
def State.deferFlight (s : State) (id : Nat) (f : Flight) (code : Byte) (sub arg : Nat) : State :=
  let s := (s.popFifo f.core id).setStage id .faulted
  let s := if code = 0x0D#8 then
      s.machineCheck sub (s.coreWord f.core) (match f.stage with
        | .home pa _ => pa
        | _ => arg)
    else s
  match f.agent with
  | .micro =>
    f.who.foldl
      (fun t w => t.modMicro f.core w.slot fun m =>
        if m.gen = w.gen then { (m.defer (deferredInfo code sub arg f.fig f.off w.gen (.access id))) with
          parkedOn := m.parkedOn.filter fun x => x != id }
        else m) s
  | .caller => (s.modCaller f.core f.launch (f.callerTrap id (if f.isLoad then 5 else 7))).dropFlight id
  | .engine =>
    if f.parent.isNone && f.off != 6 then s.dropFlight id else s.modFlight id fun f => { f with word := code.setWidth 32 }

/-- The states of a flight's micro-threads brought up to date with their waits. -/
def State.refreshWho (s : State) (f : Flight) : State :=
  f.who.foldl (fun t w => t.modCore f.core fun c => c.refresh w.slot) s

/-! Fault records and parked accesses (R170, R282, R378). -/

/-- A failed walk that may wait: a record is formed unless one is outstanding for the page (R378). -/
def State.postRecord (s : State) (kind asid va : Nat) (leaf : DWord) : State :=
  s.modTlu (tluOf va) fun t =>
    if t.recs.any fun r => r.asid == asid && r.page == va / 0x1000 then t
    else
      { t with
        recs := t.recs ++ [⟨t.formed % 2 ^ 32, kind, asid, va / 0x1000, leaf, .offered⟩]
        formed := t.formed + 1 }

/-- A flight parks on its page (R170): its micro-threads park when they are next between figures. Its stamp is the moment it
parked, the order in which a wake reissues (R282). -/
def State.parkFlight (s : State) (id : Nat) (f : Flight) : State :=
  let s := s.sendOn id .parked
  f.who.foldl
    (fun t w => t.modCore f.core fun c =>
      (c.modMicro w.slot fun m => if m.gen = w.gen then { m with parkedOn := insertNat id m.parkedOn } else m).refresh
        w.slot) s

/-! Pool accesses performed at their owning port. -/

/-- Who wrote a traced word (R371): its CORE, the kind of the entry. -/
structure Tracer where
  src : Nat
  kind : Nat
  deriving DecidableEq, Repr

/-- A remote write is logged in the core's trace ring (R370, R371): entry SEQ mod 1,024. -/
def State.trace (s : State) (core : Nat) (t : Tracer) (off size : Nat) (v : Nat) : State :=
  let c := s.core core
  if c.traceEn then
    let entry := bytesOfNat 4 c.traceSeq.toNat ++ bytesOfNat 2 t.src ++
      [BitVec.ofNat 8 t.kind, BitVec.ofNat 8 (Nat.log2 size)] ++ bytesOfNat 4 off ++ bytesOfNat 4 (v % 2 ^ 32)
    (s.write (poolAddr core (c.traceRing + 16 * (c.traceSeq.toNat % 1024))) entry).modCore core
      fun c => { c with traceSeq := c.traceSeq + 1#32 }
  else s

/-- A write is applied at its owning port; one that comes from outside the core is traced (R359, R370). -/
def State.portWrite (s : State) (core off size v : Nat) (tr : Option Tracer) : State :=
  let s := s.poke (poolAddr core off) size v
  match tr with
  | some t => s.trace core t off size v
  | none => s

/-- The new value, and the old value's flags, of an ATOM member (R163). The operand is b, or expected then new. -/
def atomResult (f7 : BitVec 7) (old : Nat) (operand : QWord) : Nat × FFlags :=
  let o : Word := BitVec.ofNat 32 old
  let b : Word := operand.extractLsb' 0 32
  let od : DWord := BitVec.ofNat 64 old
  let bd : DWord := operand.extractLsb' 0 64
  match f7.toNat with
  | 0 => ((o + b).toNat, noFlags)
  | 1 => ((o &&& b).toNat, noFlags)
  | 2 => ((o ||| b).toNat, noFlags)
  | 3 => ((o ^^^ b).toNat, noFlags)
  | 4 => ((if b.slt o then b else o).toNat, noFlags)
  | 5 => ((if o.slt b then b else o).toNat, noFlags)
  | 6 => ((if b.ult o then b else o).toNat, noFlags)
  | 7 => ((if o.ult b then b else o).toNat, noFlags)
  | 8 => (b.toNat, noFlags)
  | 9 => ((if o = b then operand.extractLsb' 32 32 else o).toNat, noFlags)
  | 10 => fpAdd fp32 .rne old b.toNat
  | 11 => ((od + bd).toNat, noFlags)
  | 12 => (bd.toNat, noFlags)
  | 13 => ((if od = bd then operand.extractLsb' 64 64 else od).toNat, noFlags)
  | _ => fpAdd fp64 .rne old bd.toNat

/-- The new value of a caller AMO (R190, R191). -/
def amoResult (op : AmoOp) (dbl : Bool) (old : Nat) (operand : DWord) : Nat :=
  let o : DWord := if dbl then BitVec.ofNat 64 old else (BitVec.ofNat 32 old).signExtend 64
  let b : DWord := if dbl then operand else (operand.setWidth 32).signExtend 64
  let ou : DWord := if dbl then o else BitVec.ofNat 64 (old % 2 ^ 32)
  let bu : DWord := if dbl then b else (operand.setWidth 32).setWidth 64
  let v : DWord := match op with
    | .swap => b
    | .add => o + b
    | .xor => o ^^^ b
    | .and => o &&& b
    | .or => o ||| b
    | .min => if b.slt o then b else o
    | .max => if o.slt b then b else o
    | .minu => if bu.ult ou then b else o
    | .maxu => if ou.ult bu then b else o
  if dbl then v.toNat else v.toNat % 2 ^ 32

/-- The tracer of a flight's write to a core: none for the core's own (R370). -/
def State.tracerOf (s : State) (f : Flight) (core : Nat) : Option Tracer :=
  if f.core = core then none
  else
    let kind := match f.agent, f.op with
      | .micro, .store .. => 1
      | .micro, _ => 2
      | .engine, _ => 3
      | .caller, .store .. => 5
      | .caller, _ => 6
    some ⟨s.coreWord f.core, kind⟩

/-- A request of a core, sent before a moment, to a line of a pool is still on its way (R353). -/
def State.poolBusy (s : State) (n before core off : Nat) : Bool :=
  s.flights.any fun p =>
    p.2.core == n && decide (p.2.sent < before) && !s.inFifo p.2.core p.1 &&
      (match p.2.stage with
       | .request => true
       | .half _ => true
       | _ => false) &&
      (p.2.isLoad || p.2.isStore || p.2.isAtomic) &&
      (match s.targetOfFlight p.2 with
       | .pool false c o => c == core && decide (o / 64 = off / 64)
       | _ => false)

/-- An earlier request of the same core to the same pool line is still on its way (R353). -/
def State.lineBusy (s : State) (f : Flight) (core off : Nat) : Bool := s.poolBusy f.core f.sent core off

/-- A request of a core, sent before a moment, to a line of G7 memory is not yet performed at its home (R353). -/
def State.homeBusy (s : State) (n before pa : Nat) : Bool :=
  s.flights.any fun p =>
    p.2.core == n && decide (p.2.sent < before) &&
      (match p.2.stage with
       | .home q _ => decide (q / 64 = pa / 64)
       | _ => false)

/-- An atomic of a cluster to a line of G7 memory is not yet performed (R164, R361): a read of the line would bring back what
the atomic's issuer has seen replaced. -/
def State.atomicBusy (s : State) (cl pa : Nat) : Bool :=
  (s.cluster cl).wtb.any fun id =>
    match Tbl.get? s.flights id with
    | some f =>
      f.isAtomic &&
        (match f.stage with
         | .home q _ => decide (q / 64 = pa / 64)
         | _ => false)
    | none => false

/-- Blocks that count the errors they correct and the clean copies they fetch again (R283, R441), by the source codes of R283:
1 a pool, 3 a weight buffer, 4 G7 memory with the system cache; beside them 5 a cluster cache and 6 a code cache
(log 27). -/
def blockOf (pa : Nat) : Nat :=
  if pa < poolBase 0 then 4
  else if (pa - poolBase 0) % 0x400000 < Config.poolBytes then 1
  else 3

/-- A counter of R441 goes up by one, to 0xFFFF_FFFF at most. -/
def countUp (t : Tbl Nat) (block n : Nat) : Tbl Nat := Tbl.set t block (min ((Tbl.get? t block).getD 0 + n) (2 ^ 32 - 1))

/-- A read corrects the single-bit errors of the words it meets, and they are counted (R283, R441). -/
def State.corrects (s : State) (pa len : Nat) : State :=
  let met (w : Nat) : Bool := decide (pa / 4 ≤ w) && decide (w * 4 < pa + len)
  let k := (s.watch.weak.filter met).length
  if k = 0 then s
  else
    { s with watch := { s.watch with
        weak := s.watch.weak.filter fun w => !met w, corrected := countUp s.watch.corrected (blockOf pa) k } }

/-- The lowest word of a range with an uncorrectable error, by its address (R283). -/
def State.badAt (s : State) (pa len : Nat) : Option Nat :=
  (s.watch.bad.filter fun w => decide (pa / 4 ≤ w) && decide (w * 4 < pa + len)).foldl
    (fun b w => some (match b with
      | some x => min x (4 * w)
      | none => 4 * w)) none

/-- A word of memory has an uncorrectable error (R283). -/
def State.isBad (s : State) (pa len : Nat) : Bool :=
  s.watch.bad.any fun w => decide (pa / 4 ≤ w) && decide (w * 4 < pa + len)

end Sys2Proof.Machine
end

