-- ==== Sys2Proof/Machine/MemoryOps.lean ====
section
/-!
DEFINITION. LD, ST, ATOM, MRG and FENCE of micro-threads at issue (R154-R168, R173), and the performing of pool
accesses at a port.
-/

namespace Sys2Proof.Machine

/-- Registers of a load or store by its size code (R159). -/
def sizeRegs (size : BitVec 3) : Nat := match size.toNat with | 5 => 2 | 6 => 4 | _ => 1

/-- Bytes of a load or store by its size code (R159). -/
def sizeBytes (size : BitVec 3) : Nat := match size.toNat with | 0 | 1 => 1 | 2 | 3 => 2 | 4 => 4 | 5 => 8 | _ => 16

/-- EA of an LD or ST (R154). -/
def effective (base : DWord) (off : BitVec 8) (size : BitVec 3) : DWord :=
  base + off.signExtend 64 * BitVec.ofNat 64 (sizeBytes size)

/-- The words of a group as one value, the first lowest. -/
def joinWords : List Word → Nat
  | [] => 0
  | w :: r => w.toNat + 2 ^ 32 * joinWords r

/-- One member's LD at issue (R159): members with the same EA share one access (R162), unless one of them has an own
buffered store to those bytes (DEDUCED, log 14). -/
def issueLoad (first : Nat) (d base : Reg) (size : BitVec 3) (kind : BitVec 2) (off : BitVec 8) (s : State) (n : Nat)
    (g : Group) (slot : Nat) (m : Micro) : Except Flt State := do
  let k := sizeRegs size
  m.need [d, base]
  let b ← m.rdPair base
  m.wrOk d k
  match s.res? n g.launch with
  | none => .ok s
  | some r =>
    let ea := effective b off size
    let _ ← checkAddr n r ea (sizeBytes size) (kind == 2#2)
    let f := g.flight s n slot m true d k ea (.load size kind) .request
    let s := s.modMicro n slot fun m => m.setPend d k
    match s.flights.find? fun p => decide (first ≤ p.1) && p.2.core == n && p.2.ea == ea &&
        s.forward p.1 p.2 == .none && s.forward s.nextId f == .none with
    | some (id, _) => .ok (s.modFlight id fun h => { h with who := h.who ++ f.who })
    | none => .ok (s.addFlight f)

/-- LD (R159). -/
def execLd (d base : Reg) (size : BitVec 3) (kind : BitVec 2) (off : BitVec 8) (s : State) : Out :=
  turn 1 true always (issueLoad s.nextId d base size kind off) s

/-- One member's ST at issue: the data are read and the store enters the FIFO (R160). -/
def issueStore (d base : Reg) (size : BitVec 3) (kind : BitVec 2) (off : BitVec 8) (s : State) (n : Nat) (g : Group)
    (slot : Nat) (m : Micro) : Except Flt State := do
  m.need [d, base]
  let b ← m.rdPair base
  let vs ← m.rdGroup d (sizeRegs size)
  match s.res? n g.launch with
  | none => .ok s
  | some r =>
    let ea := effective b off size
    let _ ← checkAddr n r ea (sizeBytes size) (kind == 2#2)
    let data := joinWords vs % 2 ^ (8 * sizeBytes size)
    .ok (s.addFifo (g.flight s n slot m false d 0 ea (.store (sizeBytes size) kind (BitVec.ofNat 128 data)) .fifo))

/-- ST (R160). -/
def execSt (d base : Reg) (size : BitVec 3) (kind : BitVec 2) (off : BitVec 8) (s : State) : Out :=
  turn 1 false always (issueStore d base size kind off) s

/-- One member's ATOM at issue: it enters the store FIFO (R163, R164). `nb` and `nd` are the registers of b and d. -/
def issueAtomic (f7 : BitVec 7) (nb nd size : Nat) (d a b : Reg) (s : State) (n : Nat) (g : Group) (slot : Nat)
    (m : Micro) : Except Flt State := do
  m.need [d, a, b]
  let ea ← m.rdPair a
  let vs ← m.rdGroup b nb
  m.wrOk d nd
  match s.res? n g.launch with
  | none => .ok s
  | some r =>
    let _ ← checkAddr n r ea size false
    let f := g.flight s n slot m true d nd ea (.atomic f7 (BitVec.ofNat 128 (joinWords vs))) .fifo
    .ok ((s.modMicro n slot fun m => m.setPend d nd).addFifo f)

/-- A word atomic with one operand register. -/
def atomicW (f7 : BitVec 7) (d a b : Reg) (s : State) : Out := turn 1 true always (issueAtomic f7 1 1 4 d a b) s

/-- AADD.w (R163). -/
def execAaddW (d a b : Reg) (s : State) : Out := atomicW 0#7 d a b s
/-- AAND.w (R163). -/
def execAandW (d a b : Reg) (s : State) : Out := atomicW 1#7 d a b s
/-- AOR.w (R163). -/
def execAorW (d a b : Reg) (s : State) : Out := atomicW 2#7 d a b s
/-- AXOR.w (R163). -/
def execAxorW (d a b : Reg) (s : State) : Out := atomicW 3#7 d a b s
/-- AMIN.w (R163). -/
def execAminW (d a b : Reg) (s : State) : Out := atomicW 4#7 d a b s
/-- AMAX.w (R163). -/
def execAmaxW (d a b : Reg) (s : State) : Out := atomicW 5#7 d a b s
/-- AMINU.w (R163). -/
def execAminuW (d a b : Reg) (s : State) : Out := atomicW 6#7 d a b s
/-- AMAXU.w (R163). -/
def execAmaxuW (d a b : Reg) (s : State) : Out := atomicW 7#7 d a b s
/-- ASWAP.w (R163). -/
def execAswapW (d a b : Reg) (s : State) : Out := atomicW 8#7 d a b s
/-- ACAS.w: b is the pair expected, new (R163). -/
def execAcasW (d a b : Reg) (s : State) : Out := turn 1 true always (issueAtomic 9#7 2 1 4 d a b) s
/-- AFADD.w (R163). -/
def execAfaddW (d a b : Reg) (s : State) : Out := atomicW 10#7 d a b s
/-- AADD.d (R163). -/
def execAaddD (d a b : Reg) (s : State) : Out := turn 1 true always (issueAtomic 11#7 2 2 8 d a b) s
/-- ASWAP.d (R163). -/
def execAswapD (d a b : Reg) (s : State) : Out := turn 1 true always (issueAtomic 12#7 2 2 8 d a b) s
/-- ACAS.d: b is a group of four, the expected pair and the new pair (R163). -/
def execAcasD (d a b : Reg) (s : State) : Out := turn 1 true always (issueAtomic 13#7 4 2 8 d a b) s
/-- AFADD.d (R163). -/
def execAfaddD (d a b : Reg) (s : State) : Out := turn 1 true always (issueAtomic 14#7 2 2 8 d a b) s

/-- Two byte ranges share a byte, judged on the addresses as given (R168); an empty range shares none. -/
def rangesMeet (x nx y ny : Nat) : Bool := Span.meets (x, nx) (y, ny)

/-- One member's MRG at issue (R166, R168). ICOUNT (f7 0) has no output. -/
def issueMerge (f7 : BitVec 7) (d a b : Reg) (s : State) (n : Nat) (g : Group) (slot : Nat) (m : Micro) :
    Except Flt State := do
  m.need (if f7 = 0#7 then [d, a] else [d, a, b])
  let da ← m.rdGroup a 8
  let db ← if f7 = 0#7 then .ok [] else m.rdGroup b 4
  m.wrOk d 1
  let ks := mergeKey da
  if (wordAt da 6).extractLsb' 2 30 ≠ 0#30 ∨ wordAt da 7 ≠ 0#32 ∨ wordAt db 3 ≠ 0#32 then .error (.reserved 0)
  else
    match s.res? n g.launch with
    | none => .ok s
    | some r =>
      let pa := pairAt da 0
      let pb := pairAt da 2
      let po := pairAt db 0
      let cap := (wordAt db 2).toNat
      let _ ← checkAddr n r pa ks false
      let _ ← checkAddr n r pb ks false
      let _ ← if f7 = 0#7 then .ok (.global 0) else checkAddr n r po ks false
      if f7 ≠ 0#7 ∧ (rangesMeet po.toNat (cap * ks) pa.toNat ((wordAt da 4).toNat * ks) ∨
          rangesMeet po.toNat (cap * ks) pb.toNat ((wordAt da 5).toNat * ks)) then
        .error (.protection 5 (ea22 po))
      else
        .ok ((s.modMicro n slot fun m => m.setPend d 1).addFlight
          (g.flight s n slot m true d 1 pa (.merge f7 da db Merge.start) .request))

/-- ICOUNT (R167). -/
def execIcount (d a : Reg) (s : State) : Out := turn 1 true always (issueMerge 0#7 d a 0#6) s
/-- IWRITE (R167). -/
def execIwrite (d a b : Reg) (s : State) : Out := turn 1 true always (issueMerge 1#7 d a b) s
/-- UWRITE (R167). -/
def execUwrite (d a b : Reg) (s : State) : Out := turn 1 true always (issueMerge 2#7 d a b) s
/-- MWRITE (R167). -/
def execMwrite (d a b : Reg) (s : State) : Out := turn 1 true always (issueMerge 3#7 d a b) s

/-- The write-through entries a fence waits for (R363): those present, unless it is an acquire or narrower than the
device. -/
def State.fenceEntries (s : State) (n kind scope : Nat) : List Nat :=
  if kind ≠ 1 ∧ 4 ≤ scope then (s.cluster (clusterOf n)).wtb else []

/-- One member's FENCE (R173): at scope 0 it has no effect. -/
def issueFence (kind scope : Nat) (s : State) (n : Nat) (g : Group) (slot : Nat) (m : Micro) : Except Flt State :=
  if scope = 0 then .ok s
  else
    .ok (s.addFlight (g.flight s n slot m false 0#6 0 0#64 (.fence kind scope (s.fenceEntries n kind scope)) .request)).settle

/-- FENCE.full (R174). -/
def execFenceFull (scope : BitVec 3) (s : State) : Out := turn 1 false always (issueFence 0 scope.toNat) s
/-- FENCE.acq (R174). -/
def execFenceAcq (scope : BitVec 3) (s : State) : Out := turn 1 false always (issueFence 1 scope.toNat) s
/-- FENCE.rel (R174). -/
def execFenceRel (scope : BitVec 3) (s : State) : Out := turn 1 false always (issueFence 2 scope.toNat) s
/-- FENCE.rsc (R174). -/
def execFenceRsc (scope : BitVec 3) (s : State) : Out := turn 1 false always (issueFence 3 scope.toNat) s

/-! Performing accesses. -/

/-- A store to a pool performed at its port, or its next half where it has 16 bytes (R360): `true` when it is done. Its trace
entry is written with its first half (R371; log 21). -/
def State.portStore (s : State) (id : Nat) (f : Flight) (core off bytes : Nat) (data : QWord) : State × Bool :=
  let tr := s.tracerOf f core
  if bytes = 16 then
    match f.stage with
    | .half _ => (s.portWrite core (off + 8) 8 (data.extractLsb' 64 64).toNat none, true)
    | _ =>
      let s := s.portWrite core off 8 (data.extractLsb' 0 64).toNat none
      let s := match tr with
        | some t => s.trace core t off 16 data.toNat
        | none => s
      (s.setStage id (.half 0#64), false)
  else (s.portWrite core off bytes data.toNat tr, true)

/-- The result registers of an atomic, AMO or SC that returned `old` (R163, R191). -/
def atomicReply (f : Flight) (old : Nat) : QWord :=
  match f.op with
  | .amo _ dbl _ => if dbl then BitVec.ofNat 128 old else ((BitVec.ofNat 32 old).signExtend 64).setWidth 128
  | _ => BitVec.ofNat 128 old

/-- The caller whose access this is holds a reservation of a line (R191). -/
def State.holdsLine (s : State) (f : Flight) (line : Nat) : Bool :=
  s.resvs.any fun r => r.1 == f.core && r.2.1 == f.launch && r.2.2 == line

/-- An atomic, AMO or SC applied to bytes at a key of memory: the reply, its flags, and what is written (R163, R191).
A failed SC writes nothing and returns 1. -/
def State.atomicAt (s : State) (f : Flight) (pa : Nat) : QWord × FFlags × Option Nat :=
  let old := s.peek pa f.size
  match f.op with
  | .atomic f7 operand =>
    let (v, fl) := atomResult f7 old operand
    (atomicReply f old, fl, some v)
  | .amo op dbl operand => (atomicReply f old, noFlags, some (amoResult op dbl old operand))
  | .sc _ data =>
    if s.holdsLine f (pa / 64) then
      (0#128, noFlags, some (data.toNat % 2 ^ (8 * f.size)))
    else (1#128, noFlags, none)
  | _ => (0#128, noFlags, none)

/-- An SC ends its caller's reservation, whether it succeeds or not (R191; log 6). -/
def State.endReservation (s : State) (f : Flight) : State :=
  match f.op with
  | .sc .. => { s with resvs := s.resvs.filter fun r => !(r.1 == f.core && r.2.1 == f.launch) }
  | _ => s

/-- An atomic performed at a pool port: its old value is on its way back (R164). -/
def State.portAtomic (s : State) (id : Nat) (f : Flight) (core off : Nat) : State :=
  let (reply, fl, w) := s.atomicAt f (poolAddr core off)
  let s := s.corrects (poolAddr core off) f.size
  let s := match w with
    | some v => s.portWrite core off f.size v (s.tracerOf f core)
    | none => s
  (s.endReservation f).setStage id (.reply reply fl)

/-- A load performed at a pool port (R157, R159): the value is bound, the lower half of 16 bytes first (R360). -/
def State.portLoad (s : State) (id : Nat) (f : Flight) (core off : Nat) : State :=
  let s := s.corrects (poolAddr core off) f.size
  if f.size = 16 then
    match f.stage with
    | .half low => s.bindLoad id f (low.toNat + 2 ^ 64 * s.peek (poolAddr core (off + 8)) 8)
    | _ => s.setStage id (.half (BitVec.ofNat 64 (s.peek (poolAddr core off) 8)))
  else s.bindLoad id f (s.peek (poolAddr core off) f.size)

end Sys2Proof.Machine
end

