-- ==== Sys2Proof/Machine/Network.lean ====
section
/-!
DEFINITION. What happens to accesses in flight: at owning ports, translation units, homes and cluster caches, and on the
way back (R157, R161, R164, R169, R174, R282, R327-R329, R357-R363, R375-R378). An event that cannot happen in a state
leaves it unchanged.
-/

namespace Sys2Proof.Machine

/-- The event acts on a flight, if there is one. -/
def onFlight (id : Nat) (f : Flight → State → State) (s : State) : Out :=
  match Tbl.get? s.flights id with
  | some h => .next (f h s)
  | none => .next s

/-- A flight is on its way to its owning port, or half performed there. -/
def Flight.atPort (f : Flight) : Bool :=
  match f.stage with
  | .request => true
  | .half _ => true
  | _ => false

/-- A 16-byte access whose lower half is performed (R360). -/
def Flight.halfDone (f : Flight) : Bool :=
  match f.stage with
  | .half _ => true
  | _ => false

/-- The pair-table index of a launch, if it is a PAIR launch (R447, R449). -/
def State.pairIndex? (s : State) (l : Nat) : Option Nat :=
  match Tbl.get? s.dsc.launches l with
  | some x => x.pairIndex
  | none => none

/-- The pair index of a launch (R449). -/
def State.pairIndexOf (s : State) (l : Nat) : Nat := (s.pairIndex? l).getD 0

/-- A message for the twin is sent (R447, R450, R453). -/
def State.sendTwin (s : State) (m : ToTwin) : State := { s with station := { s.station with out := s.station.out ++ [m] } }

/-- The address a station carries (R449). -/
def wireAddr (index core off : Nat) : Nat := index * 2 ^ 40 + coreX core * 2 ^ 35 + coreY core * 2 ^ 31 + off

/-- How the link takes a launch's access to the twin (R449, R459, R460): the wire address, or the fault it meets. -/
def State.twinWire (s : State) (l core off : Nat) (ea : DWord) : Except (Byte × Nat × Nat) Nat :=
  match s.pairIndex? l with
  | none => .error (0x04#8, 4, off)
  | some i => if s.station.up then .ok (wireAddr i core off) else .error (0x0D#8, 5, ea22 ea)

/-- A flight's request to the twin (R450). A caller AMO carries the ATOM value with the same effect (log 19). -/
def Flight.twinOp (f : Flight) : TwinOp :=
  match f.op with
  | .store bytes _ data => .write bytes data (if f.agent = .caller then 5 else 1)
  | .atomic f7 operand => .atomic f7 operand 2
  | .amo op dbl operand => .atomic (BitVec.ofNat 7 (amoCode op dbl)) (operand.setWidth 128) 6
  | .sc _ data => .conditional f.size (data.setWidth 128)
  | .reserve _ => .reserve f.size
  | _ => .read f.size

/-- A flight's request is sent to the twin, or meets its fault (R449, R450, R460). -/
def State.sendFlight (s : State) (id : Nat) (f : Flight) (core off : Nat) : State :=
  match s.twinWire f.launch core off f.ea with
  | .ok w => ((s.popFifo f.core id).setStage id .twin).sendTwin (.request id w f.twinOp)
  | .error (code, sub, arg) => (s.deferFlight id f code sub arg).refreshWho f

/-- OWNING_PORT_LOAD: an array load is checked and performed at its owning port (R157, R272); one of the twin's pool is sent
there (R450). One that takes an own buffered store (R271) never reaches the port, and the port checks it not (DESIGN CHOICE,
log 62). -/
def execOwningPortLoad (flight : Nat) (s : State) : Out :=
  onFlight flight (fun f s =>
    match f.op, s.targetOfFlight f with
    | .load _ _, .pool false core off =>
      if !f.atPort || !s.loadMay flight f || s.away f.core f.launch || s.lineBusy f core off then s
      else
        match s.forward flight f with
        | .wait => s
        | .bytes v => if f.halfDone then s else (s.bindLoad flight f v).settle
        | .none =>
          if !s.portOk core f.launch off f.size then (s.deferFlight flight f 0x04#8 4 off).refreshWho f
          else if s.away core f.launch then s.catchFlight core flight f .caught
          else if s.isBad (poolAddr core off) f.size then (s.deferFlight flight f 0x0D#8 1 off).refreshWho f
          else (s.portLoad flight f core off).settle
    | .load _ _, .pool true core off =>
      if f.stage != .request || !s.loadMay flight f || s.away f.core f.launch then s
      else
        match s.forward flight f with
        | .wait => s
        | .bytes v => (s.bindLoad flight f v).settle
        | .none => (s.sendFlight flight f core off).settle
    | .reserve _, .pool true core off =>
      if f.stage != .request || !s.loadMay flight f || s.away f.core f.launch then s
      else (s.sendFlight flight f core off).settle
    | _, _ => s) s

/-- OWNING_PORT_STORE: a remote array store is checked and performed, and acknowledged (R157, R364). -/
def execOwningPortStore (flight : Nat) (s : State) : Out :=
  onFlight flight (fun f s =>
    match f.op, s.targetOfFlight f with
    | .store bytes _ data, .pool false core off =>
      if !f.atPort || s.inFifo f.core flight || s.lineBusy f core off then s
      else if !s.portOk core f.launch off bytes then (s.deferFlight flight f 0x04#8 4 off).refreshWho f
      else if s.away core f.launch then (s.catchFlight core flight f .acked).settle
      else if decide (bytes < 4) && s.isBad (poolAddr core off) bytes then
        (s.deferFlight flight f 0x0D#8 1 off).refreshWho f
      else
        let (s, done) := (s.corrects (poolAddr core off) bytes).portStore flight f core off bytes data
        if done then (s.setStage flight .acked).settle else s
    | _, _ => s) s

/-- OWNING_PORT_ATOMIC: an array atomic is checked and performed in the location's order (R157, R164). -/
def execOwningPortAtomic (flight : Nat) (s : State) : Out :=
  onFlight flight (fun f s =>
    match f.stage, s.targetOfFlight f with
    | .request, .pool false core off =>
      if !f.isAtomic || s.lineBusy f core off then s
      else if !s.portOk core f.launch off f.size then (s.deferFlight flight f 0x04#8 4 off).refreshWho f
      else if s.away core f.launch then s.catchFlight core flight f .caught
      else if s.isBad (poolAddr core off) f.size then (s.deferFlight flight f 0x0D#8 1 off).refreshWho f
      else (s.portAtomic flight f core off).settle
    | _, _ => s) s

/-- The MRG or the copy whose store a flight is has still to see its end. -/
def State.hasParent (s : State) (f : Flight) : Bool :=
  match f.parent with
  | some p => Tbl.has s.flights p
  | none => false

/-- STORE_ACK: the acknowledgement of a remote array store or of a global store reaches its issuer (R174, R452). -/
def execStoreAck (flight : Nat) (s : State) : Out :=
  onFlight flight (fun f s =>
    if f.isStore && (f.stage == .acked || f.stage == .twin) && !s.hasParent f &&
        !(s.cluster (clusterOf f.core)).wtb.contains flight then (s.dropFlight flight).settle
    else s) s

/-- Whether a global access may be translated now: a load when it may be performed, a store or atomic at the head of its
core's FIFO that no fence holds (R170, R270). -/
def State.translateMay (s : State) (id : Nat) (f : Flight) : Bool :=
  if f.isLoad then f.stage == .request && s.loadMay id f && !s.away f.core f.launch
  else (f.isStore || f.isAtomic) && f.stage == .fifo && (s.core f.core).fifo.head? == some id && !s.held id f

/-- TLU_TRANSLATION: a global access is translated; a failed walk posts a fault record and parks the access, an ASID
without tables ends it (R170, R375-R378). A caller's load, AMO or SC takes its page-fault exception instead (R280). -/
def execTluTranslation (flight : Nat) (s : State) : Out :=
  onFlight flight (fun f s =>
    match s.targetOfFlight f with
    | .pool .. => s
    | .global va =>
      if f.isMerge || !s.translateMay flight f then s
      else
        let need : Need := if f.isLoad then .read else .write
        let asid := s.asidOf f.core f.launch
        match s.translate asid va need with
        | .ok pa c =>
          let s := s.cacheLeaf asid va need
          if f.isLoad then s.sendOn flight (.home pa c) else s.setStage flight (.ready pa c)
        | .fail leaf =>
          let t := s.postRecord (if f.isLoad then 0 else 1) asid va leaf
          if f.agent = .caller ∧ !f.isStore then
            ((t.modCaller f.core f.launch (f.callerTrap flight (if f.isLoad then 13 else 15))).popFifo f.core
              flight).dropFlight flight
          else t.parkFlight flight f
        | .noTables => (s.deferFlight flight f 0x05#8 0 (ea22 f.ea)).refreshWho f) s

/-- A fill of a line is on its way to a cluster. -/
def State.lineFilling (s : State) (cl asid vline : Nat) : Bool :=
  s.flights.any fun p =>
    clusterOf p.2.core == cl && p.2.vline == vline && s.asidOf p.2.core p.2.launch == asid &&
      (match p.2.stage with
       | .fill .. => true
       | _ => false)

/-- A read at the home must wait: for a fill of its line, for an earlier request of its core to that line (R353), or for an
atomic of its cluster there (R361). -/
def State.readHeld (s : State) (n l vline before pa : Nat) : Bool :=
  s.lineFilling (clusterOf n) (s.asidOf n l) vline || s.homeBusy n before pa || s.atomicBusy (clusterOf n) pa

/-- The part of a global access that is performed next (R360): its offset and its bytes. -/
def Flight.part (f : Flight) : Nat × Nat := if f.size = 16 then (if f.low.isSome then (8, 8) else (0, 8)) else (0, f.size)

/-- A line may be allocated: its page is cacheable, the access of kind 00, and no word of it has an error (R283, R328,
R372). -/
def State.allocates (s : State) (pa : Nat) (cacheable : Bool) (kind : BitVec 2) : Bool :=
  cacheable && kind == 0#2 && !s.isBad (pa / 64 * 64) 64

/-- HOME_READ: a global load or fill is performed at its home; stores of its cluster still in the write-through buffer lie
over the line (R161, R329, R357). -/
def execHomeRead (flight : Nat) (s : State) : Out :=
  onFlight flight (fun f s =>
    match f.stage, f.op with
    | .home pa c, .load _ kind =>
      let cl := clusterOf f.core
      let asid := s.asidOf f.core f.launch
      if s.readHeld f.core f.launch f.vline f.sent pa || (c && ((s.cluster cl).find asid f.vline false).isSome) then s
      else if s.isBad (pa + f.part.1) f.part.2 then (s.deferFlight flight f 0x0D#8 4 (ea22 f.ea)).refreshWho f
      else
        (s.corrects (pa / 64 * 64) 64).setStage flight
          (.fill (s.mergeBuffer cl asid f.vline (s.lineAt pa)) (s.allocates pa c kind))
    | _, _ => s) s

/-- A line is here for a global load: its value is bound, or the lower half of 16 bytes kept, and the upper half read as an
access of its own (R360). -/
def State.takeLine (s : State) (id : Nat) (f : Flight) (line : Line) : State :=
  let v := getLine line (f.ea.toNat % 64 + f.part.1) f.part.2
  match f.low with
  | some lo => s.bindLoad id f (lo.toNat + 2 ^ 64 * v)
  | none =>
    if f.size = 16 then s.modFlight id fun f => { f with low := some (BitVec.ofNat 64 v), stage := .request }
    else s.bindLoad id f v

/-- CACHE_FILL_ARRIVAL: a fill arrives, is allocated unless its line was dropped meanwhile, and binds the load's value; or
the load hits a line the cluster holds (R161, R328, R330). An own buffered store comes first (R271). -/
def execCacheFillArrival (flight : Nat) (s : State) : Out :=
  onFlight flight (fun f s =>
    if !f.isLoad || f.isMerge || !s.loadMay flight f then s
    else
      let cl := clusterOf f.core
      let asid := s.asidOf f.core f.launch
      let take (line : Line) (s : State) : State :=
        match s.forward flight f with
        | .wait => s
        | .bytes v => (s.bindLoad flight f v).settle
        | .none => (s.takeLine flight f line).settle
      match s.targetOfFlight f with
      | .pool .. => s
      | .global _ =>
        match f.stage with
        | .fill line alloc =>
          if s.forward flight f = .wait then s
          else
            let s := if alloc then
                (s.modCluster cl fun c => c.fill ⟨asid, f.vline, false, line⟩ s.draw).drawn
              else s
            take line s
        | .request | .home _ true =>
          match (s.cluster cl).find asid f.vline false with
          | some l => take l.data s
          | none => s
        | _ => s) s

/-- Two global accesses of a cluster go to one 64-byte line. -/
def State.sameLine (s : State) (f g : Flight) : Bool :=
  g.vline == f.vline && s.asidOf g.core g.launch == s.asidOf f.core f.launch ||
    (match f.stage, g.stage with
     | .home p _, .home q _ => decide (p / 64 = q / 64)
     | _, _ => false)

/-- The entries of the cluster's write-through buffer ahead of one, to the same line. -/
def State.entriesAhead (s : State) (id : Nat) (f : Flight) : List Flight :=
  (((s.cluster (clusterOf f.core)).wtb.takeWhile fun x => x != id).filterMap fun x => Tbl.get? s.flights x).filter
    fun g => s.sameLine f g

/-- An earlier entry of the cluster's write-through buffer to the same line is not yet performed (R329), or an earlier request
of its core to that line (R353). -/
def State.bufferBusy (s : State) (id : Nat) (f : Flight) : Bool :=
  (s.entriesAhead id f).any Flight.toHome ||
    (match f.stage with
     | .home pa _ => s.homeBusy f.core f.sent pa
     | _ => false)

/-- A store's bytes at its home, those of 16 bytes in two halves, or the fault of a sealed page (R208, R359, R360). -/
def State.homeWrite (s : State) (id : Nat) (f : Flight) (pa bytes v : Nat) : State :=
  if s.isSealed pa then
    ((s.dropLines (clusterOf f.core) fun l => l.vline == f.vline).deferFlight id f 0x0A#8 0 (ea22 f.ea)).refreshWho f
  else if decide (bytes < 4) && s.isBad pa bytes then (s.deferFlight id f 0x0D#8 4 (ea22 f.ea)).refreshWho f
  else if bytes = 16 ∧ f.low.isNone then (s.poke pa 8 (v % 2 ^ 64)).modFlight id fun f => { f with low := some 0#64 }
  else if bytes = 16 then ((s.poke (pa + 8) 8 (v / 2 ^ 64)).setStage id .acked).settle
  else (((s.corrects pa bytes).poke pa bytes v).setStage id .acked).settle

/-- HOME_STORE: a global store is performed at its home and acknowledged; or a host hart stores (R208, R359, R368). -/
def execHomeStore (src : StoreSource) (s : State) : Out :=
  match src with
  | .access flight =>
    onFlight flight (fun f s =>
      match f.stage, f.op with
      | .home pa _, .store bytes _ data =>
        if s.bufferBusy flight f then s else s.homeWrite flight f pa bytes data.toNat
      | _, _ => s) s
  | .host pa data =>
    if data.length = 0 ∨ 8 < data.length ∨ g7End < pa + data.length ∨ s.isSealed pa ∨ pa % data.length ≠ 0 then .next s
    else .next (s.write pa data)

/-- HOME_ATOMIC: a global atomic is performed at its home in the location's order (R164, R208). -/
def execHomeAtomic (flight : Nat) (s : State) : Out :=
  onFlight flight (fun f s =>
    match f.stage with
    | .home pa _ =>
      if !f.isAtomic || s.bufferBusy flight f then s
      else if s.isSealed pa then (s.deferFlight flight f 0x0A#8 0 (ea22 f.ea)).refreshWho f
      else if s.isBad pa f.size then (s.deferFlight flight f 0x0D#8 4 (ea22 f.ea)).refreshWho f
      else
        let (reply, fl, w) := s.atomicAt f pa
        let s := s.corrects pa f.size
        let s := match w with
          | some v => s.poke pa f.size v
          | none => s
        ((s.endReservation f).setStage flight (.reply reply fl)).settle
    | _ => s) s

/-- WRITE_THROUGH_ACK: a performed entry leaves the write-through buffer, those of one line in the order they entered
(R329). -/
def execWriteThroughAck (flight : Nat) (s : State) : Out :=
  let performed := match Tbl.get? s.flights flight with
    | some f => f.bound && (s.entriesAhead flight f).isEmpty
    | none => true
  let leave (c : Cluster) : Cluster := { c with wtb := c.wtb.filter fun x => x != flight }
  if performed then .next (State.settle { s with clusters := s.clusters.map leave }) else .next s

/-! Results. -/

/-- The words of a result. -/
def resultWords (n : Nat) (data : QWord) : List Word := (List.range n).map fun i => data.extractLsb' (32 * i) 32

/-- A result delivered to one micro-thread: its registers, flags and pending bits, and its await bit (R18, R120, R169). -/
def Micro.deliver (m : Micro) (f : Flight) (awaited : Bool) (data : QWord) (flags : FFlags) : Micro :=
  let m := ((m.setGroup f.dst (resultWords f.dstN data)).clearPend f.dst f.dstN).raise flags
  if awaited then { m with await := m.await &&& ~~~(1#8 <<< f.ll) } else m

/-- A result delivered to the caller: a load's word, byte or halfword is sign-extended, and the pc passes the load (R190,
R191; RISC-V, log 6). -/
def Caller.deliver (h : Caller) (id : Nat) (f : Flight) (data : QWord) : Caller :=
  let v : DWord := if f.dstN = 1 then (data.setWidth 32).signExtend 64 else data.setWidth 64
  { h.setReg (f.dst.setWidth 5) v with
    pc := if h.waitFor = some id ∧ f.isLoad then h.pc + BitVec.ofNat 64 f.off else h.pc
    waitFor := if h.waitFor = some id then none else h.waitFor }

/-- An LR's line is reserved for its caller, and no other (R191). -/
def State.reserveLine (s : State) (n l line : Nat) : State :=
  { s with resvs := (n, l, line) :: s.resvs.filter fun r => !(r.1 == n && r.2.1 == l) }

/-- A caller whose LR of the twin's pool is answered holds its reservation there (R191; log 19). -/
def State.holdLine (s : State) (f : Flight) : State :=
  match f.op with
  | .reserve .. => s.reserveLine f.core f.launch (s.placeOf f / 64)
  | _ => s

/-- A result delivered to every micro-thread a flight serves, or to its caller; the flight ends (R169, R191). -/
def State.deliver (s : State) (id : Nat) (f : Flight) (data : QWord) (flags : FFlags) : State :=
  let s := match f.agent with
    | .micro =>
      f.who.foldl
        (fun (t : State) (w : Who) => t.modCore f.core fun c =>
          match c.liveAt w.slot w.gen with
          | none => c
          | some m =>
            let m' := m.deliver f w.awaited data flags
            let c := c.setMicro w.slot m'
            (if m.await ≠ 0#8 ∧ m'.await = 0#8 then c.stamp w.slot else c).refresh w.slot) s
    | .caller => (s.modCaller f.core f.launch fun h => h.deliver id f data).holdLine f
    | .engine => s
  (s.dropFlight id).settle

/-- Where an engine's or a merge's element lies, or why it cannot be reached now. -/
inductive Reach where
  | pool (core off : Nat)
  /-- a pool of a launch that is halted there: the read goes to its spill ring (R293) -/
  | ring (core off : Nat)
  /-- the twin's pool, at a wire address (R449) -/
  | twin (wire : Nat)
  | home (pa : Nat) (cacheable : Bool)
  | page (va : Nat) (leaf : DWord)
  | refused (code : Byte) (sub arg : Nat)
  | absent
  deriving DecidableEq, Repr

/-- SUB and ARG of a fault found at issue, for one found after issue (R275). -/
def Flt.parts (e : Flt) : Nat × Nat :=
  match e.detail with
  | some d => (d.toNat / 2 ^ 22 % 256, d.toNat % 2 ^ 22)
  | none => (0, 0)

/-- Where an engine's or a merge's element lies, with the checks of R155 to R158 (R168, R247): a pool at its owning port, a
global address by its translation. -/
def State.reach (s : State) (n l : Nat) (ea : DWord) (len : Nat) (need : Need) : Reach :=
  match s.res? n l with
  | none => .absent
  | some r =>
    match checkAddr n r ea len false with
    | .error e => .refused e.code e.parts.1 e.parts.2
    | .ok (.pool true core off) =>
      match s.twinWire l core off ea with
      | .ok w => .twin w
      | .error (code, sub, arg) => .refused code sub arg
    | .ok (.pool false core off) =>
      if !s.portOk core l off len then .refused 0x04#8 4 off
      else if s.away core l then
        (if s.ringFull core l then .absent else if need = .write then .pool core off else .ring core off)
      else .pool core off
    | .ok (.global va) =>
      match s.translate r.asid va need with
      | .ok pa c => if need = .write ∧ s.isSealed pa then .refused 0x0A#8 0 (ea22 ea) else .home pa c
      | .fail leaf => .page va leaf
      | .noTables => .refused 0x05#8 0 (ea22 ea)

/-- What an engine's or a merge's read of (part of) an element comes to. A refusal gives its code and SUB, and ARG, for a bad
word at the home its physical address (R283, R441). -/
inductive Fetch where
  /-- its value, and the state with the line it allocated -/
  | value (v : Nat) (s : State)
  | ring (core off : Nat)
  | twin (wire : Nat)
  | page (va : Nat) (leaf : DWord)
  | refused (code : Byte) (sub arg : Nat)
  | wait

/-- A global read of `len` bytes at a physical address through the cluster's cache (R161, R328, R329): a hit, or a read of the
home that allocates a line for kind 00. -/
def State.readGlobal (s : State) (n l : Nat) (ea : DWord) (len pa : Nat) (cacheable stream : Bool) : Fetch :=
  let cl := clusterOf n
  let asid := s.asidOf n l
  let vline := ea.toNat % 2 ^ 48 / 64
  match if cacheable then (s.cluster cl).find asid vline false else none with
  | some c => .value (getLine c.data (ea.toNat % 64) len) s
  | none =>
    if s.readHeld n l vline s.nextId pa then .wait
    else if s.isBad pa len then .refused 0x0D#8 4 pa
    else
      let line := s.mergeBuffer cl asid vline (s.lineAt pa)
      let t := s.corrects (pa / 64 * 64) 64
      .value (getLine line (ea.toNat % 64) len)
        (if s.allocates pa cacheable (if stream then 1#2 else 0#2) then
          (t.modCluster cl fun c => c.fill ⟨asid, vline, false, line⟩ t.draw).drawn
         else t)

/-- A read of a pool by an engine of core `n`: at the port, behind the core's earlier requests to that line (R283, R353). -/
def State.readPool (s : State) (n core off len : Nat) : Fetch :=
  if core != n && s.poolBusy n s.nextId core off then .wait
  else if s.isBad (poolAddr core off) len then .refused 0x0D#8 1 off
  else .value (s.peek (poolAddr core off) len) (s.corrects (poolAddr core off) len)

/-- The read of `k` bytes from byte `lo` of an element of `len` bytes (R161, R247, R341, R360); one in the twin's pool or in a
spill ring is asked for as a whole. -/
def State.readElement (s : State) (n l : Nat) (ea : DWord) (len lo k : Nat) (stream : Bool) : Fetch :=
  match s.reach n l ea len .read with
  | .pool core off => s.readPool n core (off + lo) k
  | .home pa c => s.readGlobal n l (ea + BitVec.ofNat 64 lo) k (pa + lo) c stream
  | .ring core off => .ring core off
  | .twin w => .twin w
  | .page va leaf => .page va leaf
  | .refused code sub arg => .refused code sub arg
  | .absent => .wait

/-- Entries a cluster's write-through buffer holds (R329). -/
def bufferRoom : Nat := 64

/-- A cluster's write-through buffer has room. -/
def State.bufferOpen (s : State) (cl : Nat) : Bool := decide ((s.cluster cl).wtb.length < bufferRoom)

/-- A translated store enters the write-through buffer of its cluster (R329). -/
def State.intoBuffer (s : State) (id : Nat) (f : Flight) (bytes v : Nat) : State :=
  let cl := clusterOf f.core
  (s.modCluster cl fun k => { k with wtb := k.wtb ++ [id] }).updateLines cl (s.asidOf f.core f.launch)
    (f.ea.toNat % 2 ^ 48) bytes v

/-- The global store of an element (R161, R329, R341): an access of its own, from the write-through buffer on. `queue` is the
channel or 6, `index` the element, `parent` the MRG or the copy that waits for it. -/
def State.storeElement (s : State) (n l : Nat) (ea : DWord) (len v pa : Nat) (cacheable : Bool) (queue index : Nat)
    (parent : Option Nat) : State :=
  let f : Flight :=
    { core := n, launch := l, agent := .engine, who := [], fig := BitVec.ofNat 32 index, off := queue, word := 0#32, ll := 8
      dst := 0#6, dstN := 0, ea := ea, sent := 0, op := .store len 0#2 (BitVec.ofNat 128 v), stage := .home pa cacheable
      parent := parent }
  (s.addFlight f).intoBuffer s.nextId f len v

/-- An element write to a pool: at its port, traced where it comes from another core, or into the spill ring of a launch halted
there (R247, R293, R359, R370); what the cluster's gather/scatter engine writes comes from outside the core (DEDUCED, log 86). Of 16
bytes it is the lower half, traced for both (R360; log 21). -/
def State.writePool (s : State) (n l core off len v engine traceKind : Nat) : State :=
  if s.away core l then s.catchSpill core l (.engineWrite engine (s.coreWord n) off (bytesOfNat len v))
  else
    let s := s.corrects (poolAddr core off) len
    let tr : Option Tracer := if core = n ∧ traceKind ≠ 4 then none else some ⟨s.coreWord n, traceKind⟩
    if len = 16 then
      let s := s.portWrite core off 8 (v % 2 ^ 64) none
      match tr with
      | some t => s.trace core t off 16 v
      | none => s
    else s.portWrite core off len v tr

/-- The store of an MRG's or a copy's element that is on its way, if one is. -/
def State.childOf (s : State) (id : Nat) : Option (Nat × Flight) := s.flights.find? fun p => p.2.parent == some id

/-- What a merge does next (R167). -/
inductive MergeAct where
  | emit (v : Nat)
  | readX
  | readY
  | advance (m : Merge)
  | done
  deriving DecidableEq, Repr

/-- What a merge does next (R167): it emits what it has to, reads the element that its next step compares or copies and does
not have yet, makes that step, or is complete. -/
def mergeNext (f7 na nb : Nat) (m : Merge) : MergeAct :=
  let tail : Bool := f7 == 2 || f7 == 3
  match m.out with
  | v :: _ => .emit v
  | [] =>
    if m.i < na ∧ m.j < nb then
      match m.x, m.y with
      | none, _ => .readX
      | some _, none => .readY
      | some x, some y =>
        if x < y then .advance { m with i := m.i + 1, x := none, out := if tail then [x] else [] }
        else if y < x then .advance { m with j := m.j + 1, y := none, out := if tail then [y] else [] }
        else
          .advance { m with i := m.i + 1, j := m.j + 1, x := none, y := none, out := if f7 = 3 then [x, y] else [x] }
    else if tail && decide (m.i < na) then
      match m.x with
      | none => .readX
      | some x => .advance { m with i := m.i + 1, x := none, out := [x] }
    else if tail && decide (m.j < nb) then
      match m.y with
      | none => .readY
      | some y => .advance { m with j := m.j + 1, y := none, out := [y] }
    else .done

/-- A merge's state set; it goes on. -/
def State.setMerge (s : State) (id : Nat) (m : Merge) : State :=
  s.modFlight id fun f =>
    match f.op with
    | .merge f7 a b _ => { f with op := .merge f7 a b m, stage := .request }
    | _ => f

/-- The key at the head of a merge's output is written or passed over. -/
def Merge.emitted (m : Merge) : Merge := { m with out := m.out.tail, n := (m.n + 1) % 2 ^ 32 }

/-- A request of an engine or a merge to the twin; its flight waits for the answer. -/
def State.askTwin (s : State) (id w : Nat) (op : TwinOp) : State := (s.setStage id .asked).sendTwin (.request id w op)

/-- A read of an engine or a merge is caught in a spill ring; its flight waits for the replay (R293). -/
def State.askRing (s : State) (id : Nat) (f : Flight) (core off len : Nat) : State :=
  (s.catchSpill core f.launch (.engineRead f.core (some id) off len)).setStage id .caught

/-- A merge reads the element A[i] or B[j] (R167, R168, R170). -/
def State.mergeRead (s : State) (id : Nat) (f : Flight) (ea : DWord) (ks : Nat) (stream : Bool) (put : Nat → Merge) : State :=
  match s.readElement f.core f.launch ea ks 0 ks stream with
  | .value v t => t.setMerge id (put v)
  | .ring core off => s.askRing id f core off ks
  | .twin w => s.askTwin id w (.read ks)
  | .page va leaf => (s.postRecord 0 (s.asidOf f.core f.launch) va leaf).parkFlight id f
  | .refused code 4 pa =>
    if code = 0x0D#8 then (s.deferFlight id { f with stage := .home pa false } code 4 (ea22 ea)).refreshWho f
    else (s.deferFlight id f code 4 pa).refreshWho f
  | .refused code sub arg => (s.deferFlight id f code sub arg).refreshWho f
  | .wait => s

/-- A fence of its agent stands before an access (R174). -/
def State.fenceBefore (s : State) (id : Nat) (f : Flight) : Bool :=
  s.flights.any fun p => decide (p.1 < id) && p.2.sameAgent f && p.2.isFence

/-- A merge writes the key at the head of its output (R167, R168, R170); a release holds it (R174). -/
def State.mergeWrite (s : State) (id : Nat) (f : Flight) (ea : DWord) (ks v : Nat) (m : Merge) : State :=
  if s.fenceBefore id f then s
  else
    match s.reach f.core f.launch ea ks .write with
    | .pool core off =>
      if core != f.core && s.poolBusy f.core s.nextId core off then s
      else (s.writePool f.core f.launch core off ks v 0 1).setMerge id m.emitted
    | .home pa c =>
      if s.bufferOpen (clusterOf f.core) then s.storeElement f.core f.launch ea ks v pa c 7 m.n (some id) else s
    | .twin w => s.askTwin id w (.write ks (BitVec.ofNat 128 v) 1)
    | .page va leaf => (s.postRecord 1 (s.asidOf f.core f.launch) va leaf).parkFlight id f
    | .refused code sub arg => (s.deferFlight id f code sub arg).refreshWho f
    | _ => s

/-- One step of a merge (R167): one access, or one step of its loop; at its end the count is on its way. Its global writes are
performed one after another (R168), and one that meets a fault at its home faults the merge. -/
def State.mergeAdvance (s : State) (id : Nat) (f : Flight) : State :=
  match f.op with
  | .merge f7 a b m =>
    let ks := mergeKey a
    let stream := (wordAt a 6).getLsbD 1
    let act := mergeNext f7.toNat (wordAt a 4).toNat (wordAt a 5).toNat m
    match s.childOf id, f.stage with
    | some (c, g), _ =>
      (match g.stage with
       | .acked => (s.dropFlight c).setMerge id m.emitted
       | .faulted => ((s.dropFlight c).deferFlight id f (g.word.setWidth 8) 0 (ea22 g.ea)).refreshWho f
       | _ => s)
    | none, .answered data =>
      (match act with
       | .readX => s.setMerge id { m with x := some (data.toNat % 2 ^ (8 * ks)) }
       | .readY => s.setMerge id { m with y := some (data.toNat % 2 ^ (8 * ks)) }
       | _ => s.setMerge id m.emitted)
    | none, _ =>
      match act with
      | .done => (s.setStage id (.reply (BitVec.ofNat 128 m.n) noFlags)).settle
      | .advance m' => s.setMerge id m'
      | .readX =>
        s.mergeRead id f (pairAt a 0 + BitVec.ofNat 64 (m.i * ks)) ks stream fun v => { m with x := some v }
      | .readY =>
        s.mergeRead id f (pairAt a 2 + BitVec.ofNat 64 (m.j * ks)) ks stream fun v => { m with y := some v }
      | .emit v =>
        if f7 = 0#7 ∨ (wordAt b 2).toNat ≤ m.n then s.setMerge id m.emitted
        else s.mergeWrite id f (pairAt b 0 + BitVec.ofNat 64 (m.n * ks)) ks v m
  | _ => s

/-- An earlier access of the agent keeps a merge waiting: what keeps its reads waiting, a store of bytes it reads or writes, and
before its writes an own-pool store or load, or an access to the bytes it writes (R164, R271, R272, R362). -/
def State.mergeAfter (s : State) (f : Flight) (id : Nat) (p : Flight) : Bool :=
  let reads := s.spansRead f
  let writes := s.spansWritten f
  s.loadAfter f p ||
    (p.isStore && p.stage != .twin &&
      (spansMeet (s.spansWritten p) (reads ++ writes) ||
        (s.inFifo p.core id && spansIn f.core (s.spansWritten p) && spansIn f.core writes))) ||
    (p.isLoad && !writes.isEmpty && (spansIn f.core (s.spansRead p) || spansMeet (s.spansRead p) writes)) ||
    (p.isMerge && spansMeet (s.spansWritten p) writes)

/-- A merge may go on: nothing holds it, and its agent's earlier accesses that it follows are performed. -/
def State.mergeMay (s : State) (id : Nat) (f : Flight) : Bool :=
  !s.held id f && !s.away f.core f.launch &&
    !(s.flights.any fun p => decide (p.1 < id) && p.2.sameAgent f && !p.2.bound && s.mergeAfter f p.1 p.2)

/-- The reply to a launch's own atomic or SPAWN, which its spill ring catches while the launch is halted (R293). -/
def Flight.owesReply (f : Flight) : Bool :=
  f.isAtomic ||
    (match f.op with
     | .spawn .. => true
     | _ => false)

/-- The twin's answer to a flight (R450, R157): a value on its way to the registers, an engine's or a merge's value, or a
deferred fault; only a fault comes back for a store, whose acknowledgement is STORE_ACK. -/
def State.twinAnswer (s : State) (id : Nat) (f : Flight) (response : Response) : State :=
  match response, f.stage with
  | .fault code sub arg, .twin => ((s.deferFlight id f code sub arg).refreshWho f).settle
  | .ok data flags, .twin =>
    if f.isStore then s
    else
      let v := data.toNat % 2 ^ (8 * f.size)
      (if f.isLoad then s.bindLoad id f v
       else
        match f.op with
        | .sc .. => s.setStage id (.reply (if data = 0#128 then 0#128 else 1#128) noFlags)
        | _ => s.setStage id (.reply (atomicReply f v) flags)).settle
  | .fault code sub arg, .asked =>
    if f.isMerge then ((s.deferFlight id f code sub arg).refreshWho f).settle else s.setStage id (.refused code)
  | .ok data _, .asked => s.setStage id (.answered data)
  | _, _ => s

/-- SIZE and source CORE of a reply in a spill ring (R294): the port that answers, of this module or the twin, and none for a
home. -/
def State.replyFrom (s : State) (f : Flight) : Nat × Nat :=
  (if f.size = 8 then 3 else 2,
   match f.op, s.targetOfFlight f with
   | .spawn _ target _, _ => s.coreWord target
   | _, .pool twin core _ => coreCode core + 512 * (if twin then 1 else s.cardNo)
   | _, _ => 0)

/-- A message is the reply to a SPAWN in flight (R259, R262). -/
def Flight.repliedBy (f : Flight) (m : Msg) : Bool :=
  f.launch == m.launch && f.stage == .engine && f.dst.toNat == m.ret.toNat / 1024 % 64 &&
    (match f.op with
     | .spawn .. => true
     | _ => false) && (f.who.any fun w => w.slot == m.tslot && w.gen == m.tgen)

/-- The oldest message from a source leaves the network of a core. -/
def State.popNet (s : State) (n src : Nat) : State :=
  s.modCore n fun c =>
    let rest := ((Tbl.get? c.net src).getD []).tail
    { c with net := if rest.isEmpty then Tbl.erase c.net src else Tbl.set c.net src rest }

/-- The reply to a SPAWN arrives over the message network, behind what its target has sent to this core before (R258, R352): its
word is delivered and counted as received (R264), or caught for a halted launch (R293). A full inbox keeps it waiting
(R263). -/
def State.spawnResult (s : State) (id : Nat) (f : Flight) : State :=
  match f.op with
  | .spawn _ target _ =>
    match (Tbl.get? (s.core f.core).net target).getD [] with
    | m :: _ =>
      if m.kind ≠ 2 || !f.repliedBy m then s
      else if s.away f.core f.launch then
        ((s.popNet f.core target).catchSpill f.core f.launch (.reply id (m.value.setWidth 128) noFlags 2 m.src)).setStage id
          .caught
      else if 256 ≤ (s.core f.core).inbox.length then s
      else
        ((s.popNet f.core target).modRes f.core f.launch fun r => { r with received := r.received + 1 }).deliver id f
          (m.value.setWidth 128) noFlags
    | [] => s
  | _ => s

/-- LONG_LATENCY_RESULT: a result writes its destinations and clears their pending bits; a merge takes one step; the twin's
response arrives (R167, R169, R293, R450). For a halted launch the replies to its atomics and SPAWNs are caught, and those
to its loads and merges are discarded, for they are issued again (R171, R287); what its own core answers is delivered. -/
def execLongLatencyResult (flight : Nat) (response : Response) (s : State) : Out :=
  onFlight flight (fun f s =>
    match f.stage with
    | .reply data flags =>
      if !s.away f.core f.launch then s.deliver flight f data flags
      else if f.owesReply then
        (s.catchSpill f.core f.launch (.reply flight data flags (s.replyFrom f).1 (s.replyFrom f).2)).setStage flight .caught
      else if f.isLoad then s
      else s.deliver flight f data flags
    | .request => if f.isMerge && s.mergeMay flight f then s.mergeAdvance flight f else s
    | .answered _ => if f.isMerge && s.mergeMay flight f then s.mergeAdvance flight f else s
    | .twin => if s.station.up then s.twinAnswer flight f response else s
    | .asked => if s.station.up then s.twinAnswer flight f response else s
    | .engine => s.spawnResult flight f
    | _ => s) s

/-- DEFERRED_FAULT: a fault found after issue is taken before the micro-thread's next figure (R169), and not before it has
finished one it goes on inside (R29, R468). A second one waits. -/
def execDeferredFault (core slot : Nat) (s : State) : Out :=
  .next (s.modCore core fun c =>
    let m := c.micro slot
    match m.deferred, m.life, m.fault with
    | i :: r, .called, none | i :: r, .free, none | i :: r, .parked, none =>
      if c.inGroup slot || m.pos.isSome then c
      else
        { c.setMicro slot { m.takeFault { i with stamp := c.eligible } with deferred := r } with
          eligible := c.eligible + 1 }
    | _, _, _ => c)

/-- The accesses, code fetches and engine entries of a launch on a core that wait for a page go on, the accesses in the order
they parked (R250, R282). -/
def State.wakeLaunch (s : State) (core l page : Nat) : State :=
  let hit := (s.flights.filter fun p =>
    p.2.core == core && p.2.launch == l && p.2.stage == .parked).mergeSort fun a b => decide (a.2.sent ≤ b.2.sent)
  let s := hit.foldl
    (fun t p =>
      if p.2.ea.toNat % 2 ^ 48 / 0x1000 = page ∨ p.2.isMerge ∨ !(p.2.isLoad || p.2.isStore || p.2.isAtomic) then
        let t := (t.sendOn p.1 (if t.inFifo core p.1 then .fifo else .request)).modFlight p.1 fun f => { f with low := none }
        p.2.who.foldl
          (fun u w => u.modCore core fun c =>
            (c.modMicro w.slot fun m =>
              if m.gen = w.gen then { m with parkedOn := m.parkedOn.filter fun x => x != p.1 } else m).refresh w.slot) t
      else t) s
  let s := s.modCore core fun c =>
    let c := (c.owned l).foldl
      (fun c slot =>
        if (c.micro slot).codePark = some page then
          (c.modMicro slot fun m => { m with codePark := none }).refresh slot
        else c) c
    { c with
      chans := c.chans.map fun q => q.map fun e =>
        match e.op with
        | .copy fl d st _ => if e.launch = l then { e with op := .copy fl d st false } else e
        | _ => e
      queries := Tbl.mapKV c.queries fun _ q => if q.launch = l then { q with pageHeld := none } else q }
  s.modCluster (clusterOf core) fun c =>
    { c with gte := Tbl.mapKV c.gte fun n g => if n = core ∧ g.req.launch = l then { g with held := false } else g }

/-- WAKE_MESSAGE: a wake reaches a core and reissues what waits there for the page; for a halted launch it is caught, and it
waits only where the ring of a launch of its ASID is full (R282, R293, R354, R379). -/
def execWakeMessage (core asid page : Nat) (s : State) : Out :=
  if s.wakes.contains (core, asid, page) &&
      !((s.core core).res.any fun p => p.2.asid == asid && p.2.away && s.ringFull core p.1) then
    let s := { s with wakes := s.wakes.erase (core, asid, page) }
    .next ((s.core core).res.foldl
      (fun t p =>
        if p.2.asid = asid then
          if p.2.away then t.catchSpill core p.1 (.wake asid page) else t.wakeLaunch core p.1 page
        else t) s)
  else .next s

end Sys2Proof.Machine
end

