-- ==== Sys2Proof/Machine/Posts.lean ====
section
/-!
DEFINITION. What posts share: room in the engine queues and the outbox, reservations, fences that other instructions act
as, and signals of event lines (R241-R243, R263, R265, R286).
-/

namespace Sys2Proof.Machine

/-- Entries an engine queue or the outbox holds (R241, R263). -/
def queueRoom : Nat := 64

/-- The queues a flight in the FIFO has a reserved entry in: 0-3 the channels, 4 the array queue, 5 the query queue, 6 the
gather/scatter queue, 7 the outbox (R242, R263). -/
def Op.reserves : Op → List Nat
  | .copy ch _ => [ch]
  | .csig ch _ => [ch]
  | .join mask => (bitsSet 7 mask)
  | .tpost _ => [5]
  | .tcfg _ _ => [5]
  | .gpost _ => [6]
  | .spawn .. => [7]
  | .sendw .. => [7]
  | _ => []

/-- Entries occupied in an engine queue of a core (R242). -/
def Core.occupied (c : Core) (q : Nat) : Nat :=
  if q < 4 then ((c.chans[q]?).getD []).length
  else if q = 4 then c.mx.length
  else if q = 5 then c.trp.length
  else if q = 6 then c.gteq.length
  else 0

/-- The entries of a core's outbox in use (R263). -/
def State.outboxed (s : State) (n : Nat) : Nat :=
  s.cores.toList.foldl (fun k c => k + (((Tbl.get? c.net n).getD []).filter fun m => m.box != .none).length) 0

/-- Entries occupied in a queue of a core, its outbox among them (R242, R263). -/
def State.occupied (s : State) (n q : Nat) : Nat := if q = 7 then s.outboxed n else (s.core n).occupied q

/-- Entries reserved in a queue by posts in the core's FIFO. The mask of a join has bit 4 for the array, bit 5 for the
query queue, bit 6 for the gather/scatter queue (R243). -/
def State.reserved (s : State) (n q : Nat) : Nat :=
  ((s.core n).fifo.filter fun id =>
    match Tbl.get? s.flights id with
    | some f => f.op.reserves.contains q
    | none => false).length

/-- Every queue has room for what the group's members need, or the launch is halting (R242, R263, R286). -/
def hasRoom (needs : Micro → List Nat) (s : State) (n : Nat) (g : Group) : Bool :=
  s.away n g.launch ||
    (List.range 8).all fun q =>
      let k := (g.members.filter fun slot => (needs ((s.core n).micro slot)).contains q).length
      k == 0 || decide (s.occupied n q + s.reserved n q + k ≤ queueRoom)

/-- A fence that another instruction or a wake of a micro-thread acts as (R265, R267). -/
def State.addFence (s : State) (n l slot : Nat) (gen : Half) (kind scope : Nat) : State :=
  if scope = 0 then s
  else
    s.addFlight
      { core := n, launch := l, agent := .micro, who := [⟨slot, gen, false, false⟩], fig := 0#32, off := 0,
        word := 0#32, ll := 8, dst := 0#6, dstN := 0, ea := 0#64, sent := 0,
        op := .fence kind scope (s.fenceEntries n kind scope), stage := .request }

/-- A signal to an event line of a launch on a core is sent (R265). -/
def State.signal (s : State) (n l line : Nat) : State :=
  s.modCore n fun c => { c with signals := c.signals ++ [(l, line)] }

/-- An event bit of a caller raised (R193). -/
def State.raiseEvent (s : State) (n l bit : Nat) : State :=
  s.modCaller n l fun h => { h with evPending := h.evPending ||| (1#16 <<< bit) }

/-- EVLINE and CHILD (R193). -/
def evChild : Nat := 3
/-- EVLINE. -/
def evLine : Nat := 5

/-- A signal is performed: it sets the latch, wakes every micro-thread parked on the line and then clears the latch, and
raises EVLINE (R265). The wake is an acquire at core scope. -/
def State.performSignal (s : State) (n l line : Nat) : State :=
  let c := s.core n
  let woken := (c.owned l).filter fun slot =>
    (c.micro slot).evWaits.getLsbD line && (c.micro slot).life != .retired && !c.inGroup slot && (c.micro slot).pos.isNone
  let s := s.modRes n l fun r =>
    { r with latches := if woken.isEmpty then r.latches ||| (1#64 <<< line) else r.latches &&& ~~~(1#64 <<< line) }
  let s := woken.foldl
    (fun (t : State) (slot : Nat) =>
      let m := (t.core n).micro slot
      (t.addFence n l slot m.gen 1 2).modCore n fun c =>
        (c.modMicro slot fun m => { m with evWaits := m.evWaits &&& ~~~(1#64 <<< line) }).refresh slot) s
  (s.raiseEvent n l evLine).settle

/-- EVENT_SIGNAL: the oldest signal on its way to a core arrives; for a halted launch it is caught (R265, R293). One that waits
for room in a full spill ring lets those of other launches pass (R354). -/
def execEventSignal (core : Nat) (s : State) : Out :=
  match (s.core core).signals.find? fun p => !(s.away core p.1 && s.ringFull core p.1) with
  | none => .next s
  | some (l, line) =>
    let s := s.modCore core fun c => { c with signals := c.signals.erase (l, line) }
    .next (if s.away core l then s.catchSpill core l (.signal line) else s.performSignal core l line)

/-- WAITEV: a set latch is consumed; else the micro-thread waits on the line from the end of its figure (R265). -/
def execWaitev (a : Reg) (s : State) : Out :=
  turn 1 false always (fun s n g slot m => do
    m.need [a]
    let x ← m.rd a
    if 64 ≤ x.toNat then .error (.reserved 0)
    else
      match s.res? n g.launch with
      | none => .ok s
      | some r =>
        let bit : BitVec 64 := 1#64 <<< x.toNat
        if r.latches.getLsbD x.toNat then
          .ok ((s.modRes n g.launch fun r => { r with latches := r.latches &&& ~~~bit }).addFence n g.launch slot m.gen 1 2).settle
        else .ok (s.modMicro n slot fun m => { m with evWaits := m.evWaits ||| bit })) s

/-- YIELD: the next figure counts as newly eligible at the end of this one (R265). -/
def execYield (s : State) : Out := lanes 4 1 (fun _ _ m => .ok { m with yielding := true }) s

/-- QJOIN at issue (R243): a mask that names no queue has no effect; WAIT parks the issuer until the join is passed. -/
def issueJoin (a : Reg) (s : State) (n : Nat) (g : Group) (slot : Nat) (m : Micro) : Except Flt State := do
  m.need [a]
  let x ← m.rd a
  if 256 ≤ x.toNat then .error (.reserved 0)
  else if x.toNat % 128 = 0 then .ok s
  else
    let s := if x.toNat < 128 then s else s.modMicro n slot fun m => { m with joinWaits := m.joinWaits + 1 }
    .ok (s.addFifo (g.flight s n slot m false 0#6 0 0#64 (.join x.toNat) .fifo))

/-- QJOIN (R243). -/
def execQjoin (a : Reg) (s : State) : Out :=
  turn 1 false (hasRoom fun m => bitsSet 7 (m.reg a).toNat) (issueJoin a) s

/-- CSIG: a signal entry into a copy channel (R265). -/
def execCsig (ch : BitVec 2) (a : Reg) (s : State) : Out :=
  turn 1 false (hasRoom fun _ => [ch.toNat]) (fun s n g slot m => do
    m.need [a]
    let x ← m.rd a
    if 64 ≤ x.toNat then .error (.reserved 0)
    else .ok (s.addFifo (g.flight s n slot m false 0#6 0 0#64 (.csig ch.toNat x.toNat) .fifo))) s

/-- A join leaves the FIFO and enters all its queues in one step (R243). -/
def State.enterJoin (s : State) (n id mask : Nat) (f : Flight) : State :=
  s.modCore n fun c =>
    { c with
      joins := Tbl.set c.joins id
        { launch := f.launch, mask := mask % 128, issuer := f.issuer,
          wait := mask.testBit 7 }
      chans := Vector.ofFn fun i =>
        if mask.testBit i.val then c.chans[i] ++ [⟨f.launch, .join id⟩] else c.chans[i]
      mx := if mask.testBit 4 then c.mx ++ [⟨f.launch, f.issuer, 0, .join id⟩] else c.mx
      trp := if mask.testBit 5 then c.trp ++ [⟨f.launch, .join id⟩] else c.trp
      gteq := if mask.testBit 6 then c.gteq ++ [⟨f.launch, .join id⟩] else c.gteq }

/-- A join stands at the head of a queue of the core (R243): in the query queue, which the launches share, it also waits until
the earlier queries have appended their DONE records, in the gather/scatter queue until the started request has ended. -/
def State.joinAtHead (s : State) (n id : Nat) (c : Core) (q : Nat) : Bool :=
  if q < 4 then
    match ((c.chans[q]?).getD []).head? with
    | some e => e.op == .join id
    | none => false
  else if q = 4 then
    match c.mx.head? with
    | some e => e.op == .join id
    | none => false
  else if q = 5 then
    match c.trp.head? with
    | some e => e.op == .join id && !(c.queries.any fun p => p.2.origin.isNone && !s.away n p.2.launch)
    | none => false
  else
    match c.gteq.head? with
    | some e => e.op == .join id && !Tbl.has (s.cluster (clusterOf n)).gte n
    | none => false

/-- JOIN_PASS: every queue a join names has performed what stood ahead of it; they all go on (R243). -/
def execJoinPass (core join : Nat) (s : State) : Out :=
  let c := s.core core
  match Tbl.get? c.joins join with
  | none => .next s
  | some j =>
    if s.away core j.launch || !((bitsSet 7 j.mask).all fun q => s.joinAtHead core join c q) then .next s
    else
      .next (s.modCore core fun c =>
        let c := { c with
          joins := Tbl.erase c.joins join
          chans := Vector.ofFn fun i => if j.mask.testBit i.val then c.chans[i].tail else c.chans[i]
          mx := if j.mask.testBit 4 then c.mx.tail else c.mx
          trp := if j.mask.testBit 5 then c.trp.tail else c.trp
          gteq := if j.mask.testBit 6 then c.gteq.tail else c.gteq }
        if j.wait then
          match c.liveAt j.issuer.slot j.issuer.gen with
          | some _ => (c.modMicro j.issuer.slot fun m => { m with joinWaits := m.joinWaits - 1 }).refresh j.issuer.slot
          | none => c
        else c)

/-- SIGNAL_ENTRY_PERFORM: a signal entry at the head of its channel signals its line (R265). -/
def execSignalEntryPerform (core ch : Nat) (s : State) : Out :=
  let c := s.core core
  match ((c.chans[ch]?).getD []) with
  | ⟨l, .sig line _⟩ :: _ =>
    if s.away core l then .next s
    else
      .next ((s.modCore core fun c =>
        { c with chans := c.chans.mapIdx fun i q => if i = ch then q.tail else q }).signal core l line)
  | _ => .next s

end Sys2Proof.Machine
end

