-- ==== Sys2Proof/Machine/Trailer.lean ====
section
/-!
DEFINITION. Trailers: the end of a figure, the call stack, far targets, QUIT, and the fate of reserved encodings (R22,
R27, R70-R75, R81-R83, R87, R90, R117-R120, R260).
-/

namespace Sys2Proof.Machine

/-- A figure address is a figure start of the launch's code object (R74, R205). -/
def State.isStart (s : State) (n l : Nat) (fig : Word) : Bool :=
  match s.res? n l with
  | some r =>
    match s.codeObject r.asid r.code with
    | some o => o.starts.contains fig.toNat
    | none => false
  | none => false

/-- The absolute array address of an offset in a core's own pool (R156). -/
def ownArray (n off : Nat) : DWord :=
  BitVec.ofNat 64 (0xFFFE * 2 ^ 48 + coreX n * 2 ^ 35 + coreY n * 2 ^ 31 + off)

/-- A byte of the own pool as a micro-thread's next load in program order reads it: its youngest store of it in the FIFO,
else the pool's (R118, R271). -/
def State.ownByte (s : State) (n slot : Nat) (gen : Half) (off : Nat) : Byte :=
  s.flights.foldl
    (fun b p =>
      if p.2.core == n && p.2.agent == .micro && s.inFifo n p.1 &&
          (p.2.who.any fun w => w.slot == slot && w.gen == gen) then
        match p.2.op, s.targetOfFlight p.2 with
        | .store bytes _ data, .pool false c o =>
          if c = n ∧ o ≤ off ∧ off < o + bytes then data.extractLsb' (8 * (off - o)) 8 else b
        | _, _ => b
      else b)
    (Memory.read1 s.mem (poolAddr n off))

/-- The return address at a pool offset (R118). A word with an uncorrectable error gives its bytes as they stand, with no machine
check (DESIGN CHOICE, log 63). -/
def State.popWord (s : State) (n slot : Nat) (gen : Half) (off : Nat) : Word :=
  BitVec.ofNat 32 (natOfBytes ((List.range 4).map fun i => s.ownByte n slot gen (off + i)))

/-- The load that a RET's pop is, in the order of its micro-thread's accesses (R118). -/
def popLoad (n l slot : Nat) (m : Micro) : Flight :=
  { core := n, launch := l, agent := .micro, who := [⟨slot, m.gen, true, false⟩], fig := 0#32, off := 0, word := 0#32, ll := 8
    dst := 0#6, dstN := 0, ea := ownArray n (m.csp.toNat - 8), sent := 0, op := .load 4#3 2#2, stage := .request }

/-- A pop may be performed now, as an LD.w.arr of that word may (R118, R164, R174, R271, R272): loads of a halting launch are
recorded and not waited for (R171). -/
def State.popMay (s : State) (n l slot : Nat) (m : Micro) : Bool :=
  let f := popLoad n l slot m
  s.forward s.nextId f != .wait && (if s.away n l then !s.heldHalting s.nextId f else s.loadMay s.nextId f)

/-- What a trailer decides for one member (R27, R117): its mode, its PC if it goes on in free mode, and the change of its
call stack. -/
structure Go where
  mode : Mode
  pc : Option Word
  push : Bool
  pop : Bool
  deriving DecidableEq, Repr

/-- A called member's figure is done. -/
def Go.stay : Go := ⟨.called, none, false, false⟩

/-- A member goes on, or goes to, free mode at a figure. -/
def Go.to (pc : Word) : Go := ⟨.free, some pc, false, false⟩

/-- The next figure address: the figure's address and length, rounded up to 8 (R71). -/
def nextFigure (fig : Word) (off len : Nat) : Word := fig + BitVec.ofNat 32 ((off + len + 7) / 8 * 8)

/-- The target of off10, or of a FAR's offset (R75, R83). -/
def farTarget (fig : Word) (off : BitVec 25) : Word := fig + off.signExtend 32 * 8#32

/-- A condition holds (R81). -/
def Micro.holds (m : Micro) (p : PReg) (sense : BitVec 1) : Bool := m.pred p != (sense == 1#1)

/-- A target is a figure start, or the trailer faults (R119). -/
def State.goStart (s : State) (n l : Nat) (g : Go) : Except Flt Go :=
  match g.pc with
  | some pc => if s.isStart n l pc then .ok g else .error (.figureForm 5)
  | none => .ok g

/-- A trailer that is legal in free mode only (R27). -/
def Micro.freeOnly (m : Micro) (k : Except Flt Go) : Except Flt Go :=
  match m.mode with
  | .called => .error .illegal
  | .free => k

/-- Long-latency results outstanding of a micro-thread's current figure, of those a mask names (R72, R120). -/
def State.awaitBits (s : State) (n slot : Nat) (gen : Half) (aw : BitVec 8) : BitVec 8 :=
  aw &&& s.flights.foldl
    (fun b p =>
      if p.2.core == n && p.2.agent == .micro && decide (p.2.ll < 8) &&
          (p.2.who.any fun w => w.slot == slot && w.gen == gen && w.inFig) then b ||| (1#8 <<< p.2.ll)
      else b) 0#8

/-- The results a micro-thread's next figure awaits are marked, and its flights belong to no current figure any more
(R120). -/
def State.closeFlights (s : State) (n slot : Nat) (gen : Half) (aw : BitVec 8) : State :=
  { s with flights := Tbl.mapKV s.flights fun _ f =>
      if f.core == n && f.agent == .micro then
        { f with who := f.who.map fun w =>
            if w.slot == slot && w.gen == gen && w.inFig then
              { w with inFig := false, awaited := decide (f.ll < 8) && aw.getLsbD f.ll }
            else w }
      else f }

/-- A micro-thread's QUIT may complete (R260): nothing linked, no long-latency result outstanding, nothing of it in the
FIFO. A deferred fault comes first (R29). -/
def State.quitReady (s : State) (n slot : Nat) (m : Micro) : Bool :=
  m.linked == .none && m.deferred.isEmpty && m.pend == 0#64 &&
    !(s.flights.any fun p =>
        p.2.core == n && p.2.agent == .micro && (decide (p.2.ll < 8) || s.inFifo n p.1) &&
          (p.2.who.any fun w => w.slot == slot && w.gen == m.gen))

/-- A micro-thread is between figures (R29): it retires if its QUIT may complete, it parks if a wait is left, and a YIELD
stamps it as newly eligible (R38, R265). -/
def State.settleMicro (s : State) (n slot : Nat) : State :=
  let m := (s.core n).micro slot
  if m.quitting && s.quitReady n slot m then s.modMicro n slot Micro.retire
  else
    let s := s.modCore n fun c => c.refresh slot
    if m.yielding then s.modCore n fun c => (c.modMicro slot fun m => { m with yielding := false }).stamp slot else s

/-- The end of a figure for one micro-thread: the await mask, and its mode's state (R29, R120). -/
def State.endFigure (s : State) (n l slot : Nat) (aw : BitVec 8) : State :=
  let m := (s.core n).micro slot
  let bits := s.awaitBits n slot m.gen aw
  ((s.closeFlights n slot m.gen aw).modMicro n slot fun m =>
    { m with await := bits, pos := none, life := m.modeLife }).modRes n l fun r => { r with figures := r.figures + 1 }

/-- What a trailer decided is done for one member; a QUIT stands in place of the control (R117, R118, R260). One that leaves
called mode with no figure queued is newly eligible (R38). -/
def State.goOn (s : State) (n : Nat) (g : Group) (slot : Nat) (m : Micro) (next : Word) (go : Go) : State :=
  if m.quitting then s
  else
    let s :=
      if go.push then
        s.addFifo (g.flight s n slot m false 0#6 0 (ownArray n m.csp.toNat) (.store 8 2#2 (next.setWidth 128)) .fifo)
      else s
    let s := if m.mode = .called ∧ m.callq = [] ∧ go.mode = .free then s.modCore n fun c => c.stamp slot else s
    s.modMicro n slot fun m =>
      { m with
        mode := go.mode
        pc := go.pc.getD m.pc
        csp := if go.push then m.csp + 8#32 else if go.pop then m.csp - 8#32 else m.csp
        from_ := go.pc.map fun _ => (g.fig, g.off) }

/-- A trailer of `len` bytes on every member of the group in focus; the group ends with the figure (R117, R177). -/
def trailer (len : Nat) (aw : BitVec 8)
    (control : State → Nat → Group → Nat → Micro → Word → Except Flt Go) (s : State) : Out :=
  match s.seat? with
  | none => .next s
  | some (n, k, _, g) =>
    let next := nextFigure g.fig g.off len
    let s := s.foldMembers n g len (some aw) fun t slot m => do
      let go ← control t n g slot m next
      .ok (t.goOn n g slot m next go)
    let live := (s.core n).standing g
    let s := live.foldl (fun t slot => t.endFigure n g.launch slot aw) s
    let s := s.modCore n fun c => { c with groups := Tbl.erase c.groups k, eligible := c.eligible + 1 }
    .next (live.foldl (fun t slot => t.settleMicro n slot) s)

/-- NEXT (R117). -/
def Micro.goNext (m : Micro) (next : Word) : Go :=
  match m.mode with
  | .called => Go.stay
  | .free => Go.to next

/-- NEXT (R27, R117). -/
def execNext (aw : BitVec 8) (s : State) : Out := trailer 4 aw (fun _ _ _ _ m next => .ok (m.goNext next)) s

/-- A transfer to a target in free mode when its condition holds, as FAR, BR and JMP do (R83, R117). -/
def State.goFar (s : State) (n : Nat) (g : Group) (m : Micro) (next : Word) (holds : Bool)
    (target : Except Flt Word) : Except Flt Go :=
  m.freeOnly (do
    if holds then
      let t ← target
      s.goStart n g.launch (Go.to t)
    else .ok (Go.to next))

/-- BR (R27, R117). -/
def execBr (p : PReg) (sense : BitVec 1) (aw : BitVec 8) (off : BitVec 10) (s : State) : Out :=
  trailer 4 aw
    (fun s n g _ m next => s.goFar n g m next (m.holds p sense) (.ok (farTarget g.fig (off.signExtend 25)))) s

/-- JMP (R27, R117). -/
def execJmp (aw : BitVec 8) (off : BitVec 10) (s : State) : Out :=
  trailer 4 aw (fun s n g _ m next => s.goFar n g m next true (.ok (farTarget g.fig (off.signExtend 25)))) s

/-- CALL: pushes the next figure address (R22, R117-R119). -/
def execCall (p : PReg) (sense : BitVec 1) (aw : BitVec 8) (off : BitVec 10) (s : State) : Out :=
  trailer 4 aw
    (fun s n g slot m next =>
      m.freeOnly (do
        if m.holds p sense then
          match s.res? n g.launch with
          | none => .ok (Go.to next)
          | some r =>
            if m.csp.toNat = r.stackBase slot + 8 * r.stackDepth then .error (.protection 1 (m.csp.toNat % 0x400000))
            else s.goStart n g.launch { Go.to (farTarget g.fig (off.signExtend 25)) with push := true }
        else .ok (Go.to next))) s

/-- A RET pops for a member: in free mode, its condition met, its stack not empty (R27, R81, R118). -/
def State.pops (s : State) (n l slot : Nat) (m : Micro) (p : PReg) (sense : BitVec 1) : Bool :=
  m.mode == .free && m.holds p sense &&
    (match s.res? n l with
     | some r => m.csp.toNat != r.stackBase slot
     | none => false)

/-- Every pop of a RET may be performed: the turn waits until it may (R118). -/
def State.retMay (s : State) (p : PReg) (sense : BitVec 1) : Bool :=
  match s.seat? with
  | some (n, _, c, g) =>
    g.members.all fun slot => !s.pops n g.launch slot (c.micro slot) p sense || s.popMay n g.launch slot (c.micro slot)
  | none => true

/-- RET: pops a figure address (R22, R117-R119). A CSP that FIG.WRREG has set outside the stack or off an entry's start is used as
it stands, and a pop below offset 8 reads at offset 0 (DESIGN CHOICE, log 64). -/
def execRet (p : PReg) (sense : BitVec 1) (aw : BitVec 8) (s : State) : Out :=
  if s.retMay p sense then
    trailer 4 aw
      (fun s n g slot m next =>
        m.freeOnly (do
          if m.holds p sense then
            match s.res? n g.launch with
            | none => .ok (Go.to next)
            | some r =>
              if m.csp.toNat = r.stackBase slot then .error (.protection 2 (m.csp.toNat % 0x400000))
              else s.goStart n g.launch { Go.to (s.popWord n slot m.gen (m.csp.toNat - 8)) with pop := true }
          else .ok (Go.to next))) s
  else .next s

/-- RUN: enters free mode where its condition holds; in free mode it acts as JMP (R27, R117). -/
def execRun (p : PReg) (sense : BitVec 1) (aw : BitVec 8) (off : BitVec 10) (s : State) : Out :=
  trailer 4 aw
    (fun s n g _ m _ =>
      match m.mode with
      | .called =>
        if m.holds p sense then s.goStart n g.launch (Go.to (farTarget g.fig (off.signExtend 25))) else .ok Go.stay
      | .free => s.goStart n g.launch (Go.to (farTarget g.fig (off.signExtend 25)))) s

/-- STOP: enters called mode where its condition holds (R27, R117). -/
def execStop (p : PReg) (sense : BitVec 1) (aw : BitVec 8) (s : State) : Out :=
  trailer 4 aw
    (fun _ _ _ _ m next =>
      match m.mode with
      | .called => .ok Go.stay
      | .free => .ok (if m.holds p sense then Go.stay else Go.to next)) s

/-- FAR in offset form: its next figure lies past the extension word (R83). -/
def execFarOffset (aw : BitVec 8) (sense : BitVec 1) (p : PReg) (off : BitVec 25) (s : State) : Out :=
  trailer 8 aw (fun s n g _ m next => s.goFar n g m next (m.holds p sense) (.ok (farTarget g.fig off))) s

/-- FAR in register form: the register is judged against the budget, and read where the condition holds (R83, R119;
log 16). -/
def execFarRegister (aw : BitVec 8) (sense : BitVec 1) (p : PReg) (r : Reg) (s : State) : Out :=
  trailer 8 aw
    (fun s n g _ m next => do
      m.need [r]
      s.goFar n g m next (m.holds p sense) (m.rd r)) s

/-- QUIT: the micro-thread ends with its figure (R260). -/
def execQuit (s : State) : Out := lanes 4 1 (fun _ _ m => .ok { m with quitting := true }) s

/-- QUIT_RETIRE: a parked QUIT whose conditions have come to hold retires its micro-thread (R29, R260). -/
def execQuitRetire (core slot : Nat) (s : State) : Out :=
  let c := s.core core
  let m := c.micro slot
  if m.quitting && (m.life == .parked || m.rearmed) && !c.inGroup slot && s.quitReady core slot m then
    .next (s.modMicro core slot Micro.retire)
  else .next s

/-- RESERVED_ENCODING: an admitted reserved encoding raises "illegal instruction" each time it executes (R87, R90). A
word of major 0x3F stands as the trailer, eight bytes long with control 111. -/
def execReservedEncoding (w : Word) (s : State) : Out :=
  let isTrailer := w.extractLsb' 0 7 == 0x7F#7
  let len := if w.getLsbD 0 then (if isTrailer && w.extractLsb' 7 3 == 7#3 then 8 else 4) else 2
  let aw : Option (BitVec 8) := if isTrailer then some (w.extractLsb' 14 8) else none
  match s.seat? with
  | none => .next s
  | some (n, k, _, g) =>
    .next (((s.foldMembers n g len aw fun _ _ _ => .error .illegal)).modCore n fun c => c.endTurn k g len 1 false)

end Sys2Proof.Machine
end

