-- ==== Sys2Proof/Machine/Queue.lean ====
section
/-!
DEFINITION. Hardware queues: the QOP group at issue, and what a queue instruction does when it leaves the store FIFO
(R253-R256).
-/

namespace Sys2Proof.Machine

/-- The checks of a queue header's address at issue, in order (R254): its pool offset. -/
def queueHeader (n : Nat) (c : Core) (r : Res) (ea : DWord) : Except Flt Nat :=
  match if isArray ea then resolveArray n r ea else none with
  | some (.pool twin core off) =>
    if twin ∨ core ≠ n then .error (.queue 1 off)
    else if off % 64 ≠ 0 then .error (.misaligned off)
    else if !c.inSp off 64 then .error (.protection 4 off)
    else .ok off
  | _ => .error (.arrayRange (ea22 ea))

/-- A capacity of a queue is legal: a power of two from 1 to 65,536 (R253). -/
def queueCapOk (cap : Nat) : Bool := decide (0 < cap) && decide (cap ≤ 65536) && decide (2 ^ Nat.log2 cap = cap)

/-- QINIT's own operands (R254). -/
def queueRing (c : Core) (ring cap : Nat) : Except Flt Unit :=
  if !queueCapOk cap ∨ 0x400000 ≤ ring then .error (.reserved 0)
  else if ring % 4 ≠ 0 then .error (.misaligned ring)
  else if !c.inSp ring (4 * cap) then .error (.protection 4 ring)
  else .ok ()

/-- One member's queue instruction at issue: checked, and entered in the store FIFO (R242, R254). `nd` is the number of its
destination registers, `src` its source besides the header, `ring` QINIT's ring register. -/
def issueQueue (f7 nd : Nat) (d a : Reg) (src ring : Option Reg) (s : State) (n : Nat) (g : Group) (slot : Nat)
    (m : Micro) : Except Flt State := do
  m.need ([a] ++ src.toList ++ ring.toList ++ (if nd = 0 then [] else [d]))
  let ea ← m.rdPair a
  let rv ← match ring with
    | some x => m.rd x
    | none => .ok 0#32
  let x ← match src with
    | some x => m.rd x
    | none => .ok 0#32
  m.wrOk d nd
  match s.res? n g.launch with
  | none => .ok s
  | some r =>
    let h ← queueHeader n (s.core n) r ea
    let _ ← if f7 = 0 then queueRing (s.core n) rv.toNat x.toNat else .ok ()
    let s := if nd = 0 then s else s.modMicro n slot fun m => m.setPend d nd
    .ok (s.addFifo (g.flight s n slot m (nd ≠ 0) d nd ea (.queue f7 h rv.toNat x) .fifo))

/-- QINIT (R254, R255): d is its ring offset, b its capacity. -/
def execQinit (d a b : Reg) (s : State) : Out := turn 1 false always (issueQueue 0 0 0#6 a (some b) (some d)) s
/-- QPUSH (R254, R255). -/
def execQpush (a b : Reg) (s : State) : Out := turn 1 false always (issueQueue 1 0 0#6 a (some b) none) s
/-- QPOP (R254, R255). -/
def execQpop (d a : Reg) (s : State) : Out := turn 1 true always (issueQueue 2 1 d a none none) s
/-- QPUSHN (R254, R255). -/
def execQpushn (d a b : Reg) (s : State) : Out := turn 1 true always (issueQueue 3 1 d a (some b) none) s
/-- QPOPN (R254, R255). -/
def execQpopn (d a : Reg) (s : State) : Out := turn 1 true always (issueQueue 4 2 d a none none) s
/-- QCOUNT (R254, R255). -/
def execQcount (d a : Reg) (s : State) : Out := turn 1 true always (issueQueue 5 1 d a none none) s

/-! Headers (R253). -/

/-- A field of a queue header. -/
def State.qGet (s : State) (n h off len : Nat) : Nat := s.peek (poolAddr n (h + off)) len

/-- A field of a queue header written. -/
def State.qPut (s : State) (n h off len v : Nat) : State := s.poke (poolAddr n (h + off)) len v

/-- Item i's pool offset. -/
def State.qItem (s : State) (n h i : Nat) : Nat := s.qGet n h 0 4 + 4 * (i % max 1 (s.qGet n h 4 4 % 2 ^ 17))

/-- What a member other than QINIT finds wrong with the header (R255). -/
def State.qBad (s : State) (n h l : Nat) : Option Nat :=
  let ring := s.qGet n h 0 4
  let cfg := s.qGet n h 4 4
  let cap := cfg % 2 ^ 17
  if cfg / 2 ^ 24 ≠ 0xA5 ∨ 0x400000 ≤ ring ∨ cfg / 2 ^ 17 % 128 ≠ 0 ∨ s.qGet n h 23 1 ≠ 0 ∨ s.qGet n h 28 36 ≠ 0 ∨
      2 < s.qGet n h 22 1 ∨ !queueCapOk cap ∨ ring % 4 ≠ 0 ∨ !(s.core n).inSp ring (4 * cap) then some 2
  else if s.qGet n h 24 4 ≠ l then some 5
  else none

/-- The linked flight of a micro-thread. -/
def State.linkedFlight (s : State) (n slot : Nat) : Option (Nat × Flight) :=
  s.flights.find? fun p =>
    p.2.core == n && p.2.agent == .micro && p.2.stage == .linked && (p.2.who.any fun w => w.slot == slot)

/-- The oldest waiter is unlinked (R255, R256). -/
def State.qUnlink (s : State) (n h : Nat) : State × Nat :=
  let w := s.qGet n h 16 2
  let m := (s.core n).micro w
  let count := s.qGet n h 20 2 - 1
  let s := s.qPut n h 20 2 count
  let s := s.qPut n h 16 2 (if count = 0 then 0xFFFF else m.nextWaiter.getD 0xFFFF)
  let s := if count = 0 then (s.qPut n h 18 2 0xFFFF).qPut n h 22 1 0 else s
  (s.modMicro n w fun m => { m with nextWaiter := none }, w)

/-- The issuer becomes the newest waiter of a kind (R255). -/
def State.qLink (s : State) (n h slot kind : Nat) : State :=
  let last := s.qGet n h 18 2
  let s :=
    if s.qGet n h 20 2 = 0 then s.qPut n h 16 2 slot
    else s.modMicro n last fun m => { m with nextWaiter := some slot }
  ((s.qPut n h 18 2 slot).qPut n h 20 2 (s.qGet n h 20 2 + 1)).qPut n h 22 1 kind

/-- A waiting popper gets an item (R255). -/
def State.qHand (s : State) (n h w : Nat) (x : Word) : State :=
  if ((s.core n).micro w).linked = .qpop h then
    match s.linkedFlight n w with
    | some (id, f) => (s.modMicro n w fun m => { m with linked := .none }).deliver id f (x.setWidth 128) noFlags
    | none => s
  else s

/-- A waiting pusher is released: its item (R255). -/
def State.qRelease (s : State) (n h w : Nat) : State × Option Word :=
  match ((s.core n).micro w).linked with
  | .qpush h' item =>
    if h' = h then
      let s := match s.linkedFlight n w with
        | some (id, _) => s.dropFlight id
        | none => s
      ((s.modMicro n w fun m => { m with linked := .none }).modCore n fun c => c.refresh w, some item)
    else (s, none)
  | _ => (s, none)

/-- push(x) (R255): whether the item was pushed. -/
def State.qPush (s : State) (n h : Nat) (x : Word) : State × Bool :=
  let head := s.qGet n h 8 4
  let tail := s.qGet n h 12 4
  if s.qGet n h 22 1 = 1 then
    let (s, w) := s.qUnlink n h
    (((s.qPut n h 8 4 (head + 1)).qPut n h 12 4 (tail + 1)).qHand n h w x, true)
  else if (tail + 2 ^ 32 - head) % 2 ^ 32 < s.qGet n h 4 4 % 2 ^ 17 then
    ((s.poke (poolAddr n (s.qItem n h tail)) 4 x.toNat).qPut n h 12 4 (tail + 1), true)
  else (s, false)

/-- pop() (R255): the item, none where the queue is empty. -/
def State.qPop (s : State) (n h : Nat) : State × Option Word :=
  let head := s.qGet n h 8 4
  let tail := s.qGet n h 12 4
  if tail = head then (s, none)
  else
    let x : Word := BitVec.ofNat 32 (s.peek (poolAddr n (s.qItem n h head)) 4)
    let s := s.qPut n h 8 4 (head + 1)
    if s.qGet n h 22 1 = 2 then
      let (s, w) := s.qUnlink n h
      match s.qRelease n h w with
      | (s, some item) => ((s.poke (poolAddr n (s.qItem n h tail)) 4 item.toNat).qPut n h 12 4 (tail + 1), some x)
      | (s, none) => (s, some x)
    else (s, some x)

/-- The issuer waits on the queue, or its second waiting operation is "queue misuse", detail 3 (R255, R256). -/
def State.qWait (s : State) (n id : Nat) (f : Flight) (h kind : Nat) (link : Link) : State :=
  match f.who.head? with
  | none => s
  | some w =>
    match (s.core n).liveAt w.slot w.gen with
    | none => (s.popFifo n id).dropFlight id
    | some m =>
      if m.linked ≠ .none then (s.deferFlight id f 0x0E#8 3 h).refreshWho f
      else
        (((s.qLink n h w.slot kind).popFifo n id).setStage id .linked).modCore n fun c =>
          (c.modMicro w.slot fun m => { m with linked := link }).refresh w.slot

/-- The bytes QINIT writes (R255). -/
def queueBytes (ring cap launch : Nat) : List Byte :=
  bytesOfNat 4 ring ++ bytesOfNat 4 (cap + 0xA5000000) ++ bytesOfNat 8 0 ++ bytesOfNat 4 0xFFFFFFFF ++ bytesOfNat 4 0 ++
    bytesOfNat 4 launch ++ bytesOfNat 36 0

/-- A queue instruction leaves the store FIFO and is performed (R255). -/
def State.performQueue (s : State) (n id : Nat) (f : Flight) (f7 h ring : Nat) (x : Word) : State :=
  let answer (s : State) (v : Nat) : State := (s.popFifo n id).deliver id f (BitVec.ofNat 128 v) noFlags
  if f7 = 0 then
    if s.qGet n h 7 1 = 0xA5 ∧ 0 < s.qGet n h 20 2 then (s.deferFlight id f 0x0E#8 4 h).refreshWho f
    else ((s.write (poolAddr n h) (queueBytes ring x.toNat f.launch)).popFifo n id).dropFlight id
  else
    match s.qBad n h f.launch with
    | some sub => (s.deferFlight id f 0x0E#8 sub h).refreshWho f
    | none =>
      if f7 = 1 then
        match s.qPush n h x with
        | (s, true) => (s.popFifo n id).dropFlight id
        | (s, false) => s.qWait n id f h 2 (.qpush h x)
      else if f7 = 2 then
        match s.qPop n h with
        | (s, some v) => answer s v.toNat
        | (s, none) => s.qWait n id f h 1 (.qpop h)
      else if f7 = 3 then
        match s.qPush n h x with
        | (s, true) => answer s 1
        | (s, false) => answer s 0
      else if f7 = 4 then
        match s.qPop n h with
        | (s, some v) => answer s (v.toNat + 2 ^ 32)
        | (s, none) => answer s 0
      else answer s ((s.qGet n h 12 4 + 2 ^ 32 - s.qGet n h 8 4) % 2 ^ 32)

/-- A retired micro-thread's waiting operation is unlinked, and a held item dropped (R256). -/
def State.unlinkMicro (s : State) (n slot : Nat) : State :=
  let m := (s.core n).micro slot
  let s := match s.linkedFlight n slot with
    | some (id, _) => s.dropFlight id
    | none => s
  let fromQueue (h : Nat) : State :=
    let prev := ((s.core n).slots.find? fun p => p.2.nextWaiter == some slot).map Prod.fst
    let count := s.qGet n h 20 2 - 1
    let s := s.qPut n h 20 2 count
    let s := match prev with
      | some p => s.modMicro n p fun q => { q with nextWaiter := m.nextWaiter }
      | none => s.qPut n h 16 2 (m.nextWaiter.getD 0xFFFF)
    let s := if s.qGet n h 18 2 = slot then s.qPut n h 18 2 (prev.getD 0xFFFF) else s
    if count = 0 then s.qPut n h 22 1 0 else s
  match m.linked with
  | .qpop h => fromQueue h
  | .qpush h _ => fromQueue h
  | _ => s

end Sys2Proof.Machine
end

