-- ==== Sys2Proof/Machine/Levels.lean ====
section
/-!
DEFINITION. Level barriers: LVARR, LVWAIT, LVSYNC, and the arrivals, summonses and completions between cores and homes
(R266-R268).
-/

namespace Sys2Proof.Machine

/-- A level as it is when its first episode opens. -/
def Level.blank : Level :=
  { episode := 0, sent := false, summoned := false, homeSummoned := false, arrivals := 0, received := [], setEp := [] }

/-- A level of a launch on a core. -/
def Res.level (r : Res) (k : Nat) : Level := r.levels.getD k Level.blank

/-- A level changed. -/
def Res.modLevel (r : Res) (k : Nat) (f : Level → Level) : Res :=
  { r with levels := r.levels.mapIdx fun i v => if i = k then f v else v }

/-- A level of a launch on a core changed. -/
def State.modLevel (s : State) (n l k : Nat) (f : Level → Level) : State := s.modRes n l fun r => r.modLevel k f

/-- An arrival of a slot at a level is still held by its fence. -/
def State.arriving (s : State) (n slot : Nat) (gen : Half) (k : Nat) : Bool :=
  s.flights.any fun p =>
    p.2.core == n && p.2.op == .arrive k && (p.2.who.any fun w => w.slot == slot && w.gen == gen)

/-- A micro-thread's arrival is recorded. -/
def State.arrivedAt (s : State) (n slot k : Nat) (m : Micro) : Bool := m.arrived.getLsbD k && !s.arriving n slot m.gen k

/-- Every registered micro-thread among some slots has arrived (R268). -/
def State.allArrived (s : State) (n k : Nat) (slots : List Nat) : Bool :=
  slots.all fun slot =>
    let m := (s.core n).micro slot
    m.life == .retired || m.late.getLsbD k || s.arrivedAt n slot k m

/-- The late bits of a micro-thread created in a slot: judged at this core alone (R268). -/
def State.lateBits (s : State) (n l slot : Nat) : BitVec 8 :=
  match s.res? n l with
  | none => 0#8
  | some r =>
    (List.range 8).foldl
      (fun b k =>
        let v := r.level k
        let dom := r.levelDom k
        let late :=
          if r.nlevel ≤ k ∨ dom = 0 then false
          else if dom = domSet then decide (0 < (Tbl.get? v.setEp ((s.core n).place l slot).1).getD 0)
          else decide (0 < v.arrivals) || v.sent
        if late then b ||| (1#8 <<< k) else b) 0#8

/-- The part of LVARR at issue (R267): the fence, and the arrival behind it. -/
def State.levelArrive (s : State) (n : Nat) (g : Group) (slot : Nat) (m : Micro) (k dom : Nat) : State :=
  let s := s.addFence n g.launch slot m.gen 3 dom
  (s.modMicro n slot fun m => { m with arrived := m.arrived ||| (1#8 <<< k) }).addFifo
    (g.flight s n slot m false 0#6 0 0#64 (.arrive k) .fifo)

/-- The part of LVWAIT at issue (R267): it waits where its arrival is in an open episode, else it acts as the acquire
(log 17). -/
def State.levelWait (s : State) (n l slot k dom : Nat) : State :=
  let m := (s.core n).micro slot
  if m.arrived.getLsbD k then s.modMicro n slot fun m => { m with lvWaits := m.lvWaits ||| (1#8 <<< k) }
  else (s.addFence n l slot m.gen 1 dom).settle

/-- A level instruction on one member: an undeclared level is "protection", detail 13; a second arrival detail 14
(R267). -/
def issueLevel (k : Nat) (arrive wait : Bool) (s : State) (n : Nat) (g : Group) (slot : Nat) (m : Micro) :
    Except Flt State :=
  match s.res? n g.launch with
  | none => .ok s
  | some r =>
    if r.nlevel ≤ k then .error (.protection 13 0)
    else if arrive && m.arrived.getLsbD k then .error (.protection 14 0)
    else
      let dom := r.levelDom k
      let s := if arrive then s.levelArrive n g slot m k dom else s
      .ok (if wait then s.levelWait n g.launch slot k dom else s)

/-- LVARR (R267). -/
def execLvarr (lvl : BitVec 3) (s : State) : Out := turn 1 false always (issueLevel lvl.toNat true false) s
/-- LVWAIT (R267). -/
def execLvwait (lvl : BitVec 3) (s : State) : Out := turn 1 false always (issueLevel lvl.toNat false true) s
/-- LVSYNC: LVARR, then LVWAIT (R267). -/
def execLvsync (lvl : BitVec 3) (s : State) : Out := turn 1 false always (issueLevel lvl.toNat true true) s

/-- One micro-thread's part in a completion: its late bit clears, or its arrival does and its wait is satisfied, with an
acquire at the level's scope (R267, R268). -/
def State.releaseLevel (s : State) (n l slot k dom : Nat) : State :=
  let m := (s.core n).micro slot
  let bit : BitVec 8 := 1#8 <<< k
  if m.life = .retired then s
  else if m.late.getLsbD k then s.modMicro n slot fun m => { m with late := m.late &&& ~~~bit }
  else
    let s := s.modMicro n slot fun m => { m with arrived := m.arrived &&& ~~~bit }
    if m.lvWaits.getLsbD k then
      (s.addFence n l slot m.gen 1 dom).modCore n fun c =>
        (c.modMicro slot fun m => { m with lvWaits := m.lvWaits &&& ~~~bit }).refresh slot
    else s

/-- Arrivals recorded for the next episode by late micro-threads among some slots. -/
def State.lateArrivals (s : State) (n k : Nat) (slots : List Nat) : Nat :=
  (slots.filter fun slot =>
    let m := (s.core n).micro slot
    m.life != .retired && m.late.getLsbD k && s.arrivedAt n slot k m).length

/-- An episode completes for some slots of a core (R268). -/
def State.completeSlots (s : State) (n l k dom : Nat) (slots : List Nat) : State :=
  (slots.foldl (fun t slot => t.releaseLevel n l slot k dom) s).settle

/-- An episode completes on a core, and the next one opens (R268). -/
def State.completeLevel (s : State) (n l k dom : Nat) : State :=
  let slots := (s.core n).owned l
  let next := s.lateArrivals n k slots
  (s.completeSlots n l k dom slots).modLevel n l k fun v =>
    { v with episode := v.episode + 1, sent := false, summoned := false, arrivals := next }

/-- An episode of one set completes (R268). -/
def State.completeSet (s : State) (n l k setNo : Nat) (slots : List Nat) : State :=
  let next := s.lateArrivals n k slots
  (s.completeSlots n l k domSet slots).modLevel n l k fun v => { v with setEp := Tbl.set v.setEp setNo next }

/-- An arrival leaves its fence and the store FIFO and is recorded (R267, R268); at domain 0 its episode completes at
once. -/
def State.recordArrival (s : State) (n id k : Nat) (f : Flight) : State :=
  let s := (s.popFifo n id).dropFlight id
  match f.who.head? with
  | none => s
  | some w =>
    match (s.core n).liveAt w.slot w.gen, s.res? n f.launch with
    | some m, some r =>
      let dom := r.levelDom k
      if dom = 0 then s.releaseLevel n f.launch w.slot k 0
      else if m.late.getLsbD k then s
      else
        s.modLevel n f.launch k fun v =>
          if dom = domSet then
            let no := ((s.core n).place f.launch w.slot).1
            { v with setEp := Tbl.set v.setEp no ((Tbl.get? v.setEp no).getD 0 + 1) }
          else { v with arrivals := v.arrivals + 1 }
    | _, _ => s

/-- The cores of a level's instance on this module that hold the launch (R266, R268). -/
def State.levelCores (s : State) (r : Res) (n l dom : Nat) : List Nat :=
  r.cores.filter fun m => (s.res? m l).isSome && (dom != domCluster || clusterOf m == clusterOf n)

/-- A core's part of an episode is complete and may be sent to the home (R268). -/
def State.partReady (s : State) (n l k : Nat) : Bool :=
  match s.res? n l with
  | none => false
  | some r =>
    let v := r.level k
    !r.away && !v.sent && (decide (0 < v.arrivals) || v.summoned) && s.allArrived n k ((s.core n).owned l)

/-- A barrier message to cores, for their queues of arrivals, summonses or completions. -/
def State.tellCores (s : State) (cores : List Nat) (kind : Nat) (m : LvMsg) : State :=
  cores.foldl
    (fun t n => t.modCore n fun c =>
      if kind = 0 then { c with lvArr := c.lvArr ++ [m] }
      else if kind = 1 then { c with lvDone := c.lvDone ++ [m] }
      else { c with lvSum := c.lvSum ++ [m] }) s

/-- The home takes an arrival: it summons the episode at the first, and completes it when every core has arrived (R268).
For a level of the pair the twin's cores, as many as the rectangle has, count too (R453; log 18). -/
def State.homeArrival (s : State) (home : Nat) (m : LvMsg) : State :=
  match s.res? home m.launch with
  | none => s
  | some r =>
    let v := r.level m.lvl
    let dom := r.levelDom m.lvl
    let cores := s.levelCores r home m.launch dom
    let pair := dom = domPair
    let from_ := if m.twin then 80 + (v.received.filter fun x => decide (80 ≤ x)).length else m.core
    let received := if v.received.contains from_ then v.received else v.received ++ [from_]
    let twins := if pair then recNat r.record 14 1 * recNat r.record 15 1 else 0
    let tell (s : State) (kind : Nat) : State :=
      let s := s.tellCores cores kind m
      if pair then s.sendTwin (.sched (.level (s.pairIndexOf m.launch) m.lvl m.episode kind)) else s
    let s := if v.homeSummoned then s else tell s 2
    let here := received.filter fun x => decide (x < 80)
    if (cores.all fun c => here.contains c) && decide (twins ≤ (received.filter fun x => decide (80 ≤ x)).length) then
      (tell s 1).modLevel home m.launch m.lvl fun v => { v with homeSummoned := false, received := [] }
    else s.modLevel home m.launch m.lvl fun v => { v with homeSummoned := true, received := received }

/-- An arrival reaches a home, or its spill ring while the launch is halted there (R268, R293). -/
def State.arriveHome (s : State) (home : Nat) (m : LvMsg) : State :=
  if s.away home m.launch then s.catchSpill home m.launch (.level 0 m) else s.homeArrival home m

/-- The launches and levels of a core, in order. -/
def Core.levelList (c : Core) : List (Nat × Nat) :=
  c.res.flatMap fun p => (List.range p.2.nlevel).map fun k => (p.1, k)

/-- The arrivals that the cores of instances homed at a core may send now: launch, level and core. -/
def State.readyArrivals (s : State) (home : Nat) : List (Nat × Nat × Nat) :=
  (s.core home).levelList.flatMap fun (l, k) =>
    match s.res? home l with
    | none => []
    | some r =>
      let dom := r.levelDom k
      if dom < domCluster then []
      else
        let cores := s.levelCores r home l dom
        if cores.head? = some home then (cores.filter fun m => s.partReady m l k).map fun m => (l, k, m) else []

/-- LEVEL_ARRIVAL: an arrival of the twin that has crossed the link, or that of a core whose part is complete, reaches its
home (R268). The home of a level of the pair is on card 0; card 1 sends it its cores' arrivals. A full spill ring holds the
arrivals of its own launch alone (R354). -/
def execLevelArrival (core : Nat) (s : State) : Out :=
  match takeFirst (fun m => !s.ringFull core m.launch) (s.core core).lvArr with
  | some (m, rest) => .next ((s.modCore core fun c => { c with lvArr := rest }).arriveHome core m)
  | none =>
    match (s.readyArrivals core).filter fun p => !s.ringFull core p.1 with
    | [] => .next s
    | (l, k, m) :: _ =>
      match s.res? m l with
      | none => .next s
      | some r =>
        let e := (r.level k).episode
        let s := s.modLevel m l k fun v => { v with sent := true }
        if r.levelDom k = domPair ∧ s.cardNo = 1 then .next (s.sendTwin (.sched (.level (s.pairIndexOf l) k e 0)))
        else .next (s.arriveHome core ⟨l, k, e, m, false⟩)

/-- A summons is taken by a core (R268). -/
def State.takeSummons (s : State) (n : Nat) (m : LvMsg) : State :=
  s.modLevel n m.launch m.lvl fun v => if v.episode = m.episode then { v with summoned := true } else v

/-- A completion is taken by a core (R268). -/
def State.takeCompletion (s : State) (n : Nat) (m : LvMsg) : State :=
  match s.res? n m.launch with
  | some r => if (r.level m.lvl).episode = m.episode then s.completeLevel n m.launch m.lvl (r.levelDom m.lvl) else s
  | none => s

/-- A barrier message is of an episode the core has not reached yet. -/
def State.early (s : State) (n : Nat) (m : LvMsg) : Bool :=
  match s.res? n m.launch with
  | some r => decide ((r.level m.lvl).episode < m.episode)
  | none => false

/-- LEVEL_SUMMONS: a summons reaches a core; for a halted launch it is caught (R268, R293). -/
def execLevelSummons (core : Nat) (s : State) : Out :=
  match takeFirst (fun m => !s.early core m && !s.ringFull core m.launch) (s.core core).lvSum with
  | none => .next s
  | some (m, rest) =>
    let s := s.modCore core fun c => { c with lvSum := rest }
    .next (if s.away core m.launch then s.catchSpill core m.launch (.level 2 m) else s.takeSummons core m)

/-- The first set of a launch on a core whose open episode is complete (R268). -/
def State.completeSetAt (s : State) (n l k : Nat) (r : Res) : Option (Nat × List Nat) :=
  (((s.core n).sets l).mapIdx fun i slots => (i, slots)).find? fun p =>
    decide (0 < (Tbl.get? (r.level k).setEp p.1).getD 0) && s.allArrived n k p.2

/-- An episode of domain 1 or 2 that a core can complete by itself. -/
def State.localCompletion (s : State) (n : Nat) : List (Nat × Nat) → Option State
  | [] => none
  | (l, k) :: rest =>
    match s.res? n l with
    | none => State.localCompletion s n rest
    | some r =>
      if r.away then State.localCompletion s n rest
      else if r.levelDom k = domSet then
        match s.completeSetAt n l k r with
        | some (i, slots) => some (s.completeSet n l k i slots)
        | none => State.localCompletion s n rest
      else if r.levelDom k = domCore ∧ s.partReady n l k then some (s.completeLevel n l k domCore)
      else State.localCompletion s n rest

/-- LEVEL_COMPLETION: a completion reaches a core, wakes its waiters and opens the next episode; or the core completes an
episode of its own sets or of itself (R266-R268, R293). -/
def execLevelCompletion (core : Nat) (s : State) : Out :=
  match takeFirst (fun m => !s.early core m && !s.ringFull core m.launch) (s.core core).lvDone with
  | some (m, rest) =>
    let s := s.modCore core fun c => { c with lvDone := rest }
    .next (if s.away core m.launch then s.catchSpill core m.launch (.level 1 m) else s.takeCompletion core m)
  | none =>
    match s.localCompletion core (s.core core).levelList with
    | some t => .next t
    | none => .next s

/-- The episodes of a set level that a recut leaves complete are completed at once, before any micro-thread issues (R268). -/
def State.completeSets (s : State) (n l k : Nat) : State :=
  (((s.core n).sets l).mapIdx fun i slots => (i, slots)).foldl
    (fun t p =>
      match t.res? n l with
      | some r =>
        if decide (0 < (Tbl.get? (r.level k).setEp p.1).getD 0) && t.allArrived n k p.2 then t.completeSet n l k p.1 p.2
        else t
      | none => t) s

/-- The open episodes of set levels after a recut: each set's arrivals are those its members hold (R268). -/
def State.recutLevels (s : State) (n l : Nat) : State :=
  match s.res? n l with
  | none => s
  | some r =>
    (List.range r.nlevel).foldl
      (fun t k =>
        if r.levelDom k = domSet then
          let counts := ((t.core n).sets l).mapIdx fun i slots =>
            (i, (slots.filter fun slot =>
              let m := (t.core n).micro slot
              m.life != .retired && !m.late.getLsbD k && t.arrivedAt n slot k m).length)
          (t.modLevel n l k fun v => { v with setEp := counts }).completeSets n l k
        else t) s

end Sys2Proof.Machine
end

