-- ==== Sys2Proof/Machine/Message.lean ====
section
/-!
DEFINITION. Messages between micro-threads: SPAWN, SENDW, RECVW, their arrivals and bounces, and the creation of a
micro-thread (R23, R25, R29, R257-R264).
-/

namespace Sys2Proof.Machine

/-- The state of a newly created micro-thread (R23): its slot keeps its generation. -/
def Micro.create (m : Micro) (l bud role : Nat) (mode : Mode) (pc csp : Word) (args : List Word) (late : BitVec 8) :
    Micro :=
  { Micro.blank.setGroup 0#6 args with
    gen := m.gen, owner := some l, life := .created, mode := mode, bud := bud, role := role, pc := pc, csp := csp,
    late := late }

/-- A micro-thread created in a slot of a launch (R23, R24, R268). -/
def State.createMicro (s : State) (n l slot bud role : Nat) (mode : Mode) (pc : Word) (args : List Word) : State :=
  match s.res? n l with
  | none => s
  | some r =>
    let late := s.lateBits n l slot
    s.modMicro n slot fun m => m.create l bud role mode pc (BitVec.ofNat 32 (r.stackBase slot)) args late

/-- MICROTHREAD_INIT_COMPLETE: a created micro-thread becomes called or free (R29). -/
def execMicrothreadInitComplete (core slot : Nat) (s : State) : Out :=
  .next (s.modCore core fun c =>
    if (c.micro slot).life = .created then
      (c.modMicro slot fun m => { m with life := m.modeLife }).stamp slot
    else c)

/-- A message's target core, in CORE format (R257): inside the launch's rectangle on this module, or "protection", detail
15. -/
def State.messageCore (s : State) (r : Res) (code : Nat) : Except Flt Nat :=
  match coreOfCode (code % 512) with
  | some c => if r.inRect c ∧ code / 512 % 2 = s.cardNo then .ok c else .error (.protection 15 0)
  | none => .error (.protection 15 0)

/-- SPAWN (R257-R259): the message enters the store FIFO. -/
def execSpawn (d a b : Reg) (s : State) : Out :=
  turn 1 true (hasRoom fun _ => [7]) (fun s n g slot m => do
    m.need [d, a, b]
    let args ← m.rdGroup a 4
    let ws ← m.rdGroup b 2
    m.wrOk d 1
    let code := wordAt ws 1
    if code.extractLsb' 10 22 ≠ 0#22 then .error (.reserved 0)
    else
      match s.res? n g.launch with
      | none => .ok s
      | some r =>
        let t ← s.messageCore r code.toNat
        .ok ((s.modMicro n slot fun m => m.setPend d 1).addFifo
          (g.flight s n slot m true d 1 0#64 (.spawn (wordAt ws 0) t args) .fifo))) s

/-- SENDW (R257, R261): the word enters the store FIFO. -/
def execSendw (a b : Reg) (s : State) : Out :=
  turn 1 false (hasRoom fun _ => [7]) (fun s n g slot m => do
    m.need [a, b]
    let w ← m.rd a
    let ws ← m.rdGroup b 2
    let t0 := wordAt ws 0
    let t1 := wordAt ws 1
    if t0.extractLsb' 21 11 ≠ 0#11 ∨ t1.extractLsb' 16 16 ≠ 0#16 then .error (.reserved 0)
    else
      match s.res? n g.launch with
      | none => .ok s
      | some r =>
        let t ← s.messageCore r (t0.toNat % 1024)
        .ok (s.addFifo (g.flight s n slot m false 0#6 0 0#64
          (.sendw w t (t0.toNat / 1024 % 1024) (t0.getLsbD 20) (t1.setWidth 16)) .fifo))) s

/-- RECVW (R256, R261): the mailbox's word is on its way to d, or the micro-thread links as the mailbox's waiter; a second
waiting operation is "queue misuse", detail 3. -/
def execRecvw (d : Reg) (s : State) : Out :=
  turn 1 true always (fun s n g slot m => do
    m.need [d]
    m.wrOk d 1
    let id := s.nextId
    let f := g.flight s n slot m true d 1 0#64 .recvw .request
    let s := (s.modMicro n slot fun m => m.setPend d 1).addFlight f
    match m.mailbox with
    | some w =>
      .ok ((s.modMicro n slot fun m => { m with mailbox := none }).setStage id (.reply (w.setWidth 128) noFlags))
    | none =>
      if m.linked ≠ .none then .ok (s.deferFlight id f 0x0E#8 3 0)
      else .ok ((s.setStage id .linked).modMicro n slot fun m => { m with linked := .recvw })) s

/-- A message stands behind those that left a core for a target before it (R258). -/
def State.enterNet (s : State) (n target : Nat) (m : Msg) : State :=
  s.modCore target fun c => { c with net := Tbl.set c.net n ((Tbl.get? c.net n).getD [] ++ [m]) }

/-- A message leaves for a core, and is counted as sent (R258, R264). -/
def State.post (s : State) (n target : Nat) (m : Msg) : State :=
  (s.modRes n m.launch fun r => { r with sent := r.sent + 1 }).enterNet n target m

/-- Where a SPAWN or SENDW stands when it leaves the store FIFO: in the entry it reserved in the outbox, or, of a launch that is
being saved, in the overflow list once the outbox is full (R263, R286). -/
def State.boxFor (s : State) (n l : Nat) : Box := if s.away n l && decide (queueRoom ≤ s.outboxed n) then .overflow else .outbox

/-- An entry is consumed at a core (R264). -/
def State.consume (s : State) (n l : Nat) : State := s.modRes n l fun r => { r with received := r.received + 1 }

/-- SPAWN leaves the store FIFO: the message of kind 1 (R258, R262). -/
def State.sendSpawn (s : State) (n id : Nat) (f : Flight) (pc : Word) (target : Nat) (args : List Word) : State :=
  match f.who.head? with
  | none => s
  | some w =>
    ((s.popFifo n id).setStage id .engine).post n target
      { kind := 1, reply := false, src := s.coreWord n, tslot := 0, tgen := 0#16, value := pc,
        ret := BitVec.ofNat 32 (w.slot + 1024 * f.dst.toNat + 65536 * w.gen.toNat), args := args, launch := f.launch
        box := s.boxFor n f.launch }

/-- SENDW leaves the store FIFO: the message of kind 3 (R261, R262). -/
def State.sendWord (s : State) (n id : Nat) (f : Flight) (word : Word) (target slot : Nat) (reply : Bool) (gen : Half) :
    State :=
  match f.who.head? with
  | none => s
  | some w =>
    ((s.popFifo n id).dropFlight id).post n target
      { kind := 3, reply := reply, src := s.coreWord n, tslot := slot, tgen := gen, value := word,
        ret := BitVec.ofNat 32 (w.slot + 65536 * w.gen.toNat), args := [], launch := f.launch, box := s.boxFor n f.launch }

/-- A word on a slot that cannot take it is discarded and counted (R25, R261). -/
def State.countStale (s : State) (n : Nat) : State := s.modCore n fun c => { c with stale := c.stale + 1#32 }

/-- The reply to a SPAWN leaves for its sender, a message of kind 2 (R259, R262, R352): the sender's slot, generation and
register are those the message carries. -/
def State.replySpawn (s : State) (n : Nat) (m : Msg) (v : Word) : State :=
  match coreOfCode (m.src % 512) with
  | none => s
  | some c =>
    s.post n c
      { kind := 2, reply := false, src := s.coreWord n, tslot := m.ret.toNat % 1024, tgen := m.ret.extractLsb' 16 16, value := v
        ret := m.ret &&& 0xFC00#32, args := [], launch := m.launch }

/-- The slot a SPAWN takes (R259): the lowest retired slot of the launch with the sender's budget and role. -/
def State.spawnSlot (s : State) (n : Nat) (m : Msg) : Option (Nat × Micro) :=
  match coreOfCode (m.src % 512) with
  | none => none
  | some c =>
    let sender := (s.core c).micro (m.ret.toNat % 1024)
    (((s.core n).owned m.launch).map fun slot => (slot, (s.core n).micro slot)).find? fun p =>
      p.2.life == .retired && p.2.bud == sender.bud && p.2.role == sender.role

/-- A SPAWN is performed at its target, or bounces with the reply 0 (R259, R264). -/
def State.takeSpawn (s : State) (n : Nat) (m : Msg) : State :=
  let found := if (s.res? n m.launch).isSome then s.spawnSlot n m else none
  let s := s.consume n m.launch
  match found with
  | some (slot, x) =>
    (s.createMicro n m.launch slot x.bud x.role .free m.value m.args).replySpawn n m
      (BitVec.ofNat 32 (2 ^ 31 + slot + 1024 * x.gen.toNat))
  | none => s.replySpawn n m 0#32

/-- How a word stands at its target (R261). -/
inductive Mail where
  | stale
  | waiter
  | empty
  | full
  deriving DecidableEq, Repr

/-- How a word for a slot and generation stands. -/
def State.mail (s : State) (n : Nat) (m : Msg) : Mail :=
  let x := (s.core n).micro m.tslot
  if x.gen ≠ m.tgen ∨ x.owner ≠ some m.launch ∨ x.life = .retired then .stale
  else if x.linked = .recvw then .waiter
  else if x.mailbox.isNone then .empty
  else .full

/-- A word or bounce is delivered, queued in the inbox, or discarded; a stale word that asked for replies bounces
(R261, R264). -/
def State.takeWord (s : State) (n : Nat) (m : Msg) : State :=
  match s.mail n m with
  | .stale =>
    let s := (s.consume n m.launch).countStale n
    if m.kind = 3 ∧ m.reply then
      match coreOfCode (m.src % 512) with
      | none => s
      | some c =>
        s.post n c
          { kind := 4, reply := false, src := s.coreWord n, tslot := m.ret.toNat % 1024,
            tgen := m.ret.extractLsb' 16 16, value := 0xFFFFFFFF#32, ret := 0#32, args := [], launch := m.launch }
    else s
  | .waiter =>
    let s := s.consume n m.launch
    match s.linkedFlight n m.tslot with
    | some (id, f) =>
      (s.modMicro n m.tslot fun x => { x with linked := .none }).deliver id f (m.value.setWidth 128) noFlags
    | none => s
  | .empty => (s.consume n m.launch).modMicro n m.tslot fun x => { x with mailbox := some m.value }
  | .full => s.modCore n fun c => { c with inbox := c.inbox ++ [m] }

/-- A word or bounce that arrives stays behind an inbox entry for the same target (R261). -/
def State.arriveWord (s : State) (n : Nat) (m : Msg) : State :=
  if (s.core n).inbox.any fun x => x.launch == m.launch && x.tslot == m.tslot && x.tgen == m.tgen then
    s.modCore n fun c => { c with inbox := c.inbox ++ [m] }
  else s.takeWord n m

/-- A message of any kind is performed at its core (R258-R261); kind 2 is a reply that was drained and offered again. -/
def State.takeMsg (s : State) (n : Nat) (m : Msg) : State :=
  if m.kind = 1 then s.takeSpawn n m
  else if m.kind = 2 then
    match s.flights.find? fun p => p.2.core == n && p.2.repliedBy m with
    | some (id, _) => (s.consume n m.launch).setStage id (.reply (m.value.setWidth 128) noFlags)
    | none => (s.consume n m.launch).countStale n
  else s.arriveWord n m

/-- The oldest message from a source of a kind arrives (R258), and frees its outbox entry; it waits while the inbox is full
(R263); for a halted launch it is caught (R293). What an overflow list holds does not go before the save (R286). -/
def State.arriveMsg (s : State) (n src kind : Nat) : State :=
  match (Tbl.get? (s.core n).net src).getD [] with
  | [] => s
  | m :: _ =>
    if m.kind ≠ kind || m.box == .overflow then s
    else if s.away n m.launch then
      (if s.ringFull n m.launch then s else (s.popNet n src).catchSpill n m.launch (.msg { m with box := .none }))
    else if 256 ≤ (s.core n).inbox.length then s
    else (s.popNet n src).takeMsg n { m with box := .none }

/-- The oldest message from a source is the reply to a SPAWN of which nothing is left: it is discarded (R264). -/
def State.dropReply (s : State) (n src : Nat) : State :=
  match (Tbl.get? (s.core n).net src).getD [] with
  | m :: _ =>
    if m.kind = 2 ∧ !(s.flights.any fun p => p.2.core == n && p.2.repliedBy m) then
      ((s.popNet n src).consume n m.launch).countStale n
    else s
  | [] => s

/-- SPAWN_ARRIVAL (R259, R263). -/
def execSpawnArrival (core src : Nat) (s : State) : Out :=
  .next (if (((Tbl.get? (s.core core).net src).getD []).head?.any fun m => m.kind == 2) then s.dropReply core src
    else s.arriveMsg core src 1)

/-- An inbox entry whose target can take it, or whose target is gone; entries of one target stay in order (R261). -/
def State.inboxReady (s : State) (n : Nat) : Option (Msg × List Msg) :=
  takeFirst (fun m => !s.away n m.launch && s.mail n m != .full) (s.core n).inbox

/-- WORD_ARRIVAL: an inbox entry whose target has become able to take it is delivered; else the oldest word from a source
arrives (R261, R263). -/
def execWordArrival (core src : Nat) (s : State) : Out :=
  match s.inboxReady core with
  | some (m, rest) => .next ((s.modCore core fun c => { c with inbox := rest }).takeWord core m)
  | none => .next (s.arriveMsg core src 3)

/-- BOUNCE_ARRIVAL (R261, R263). -/
def execBounceArrival (core src : Nat) (s : State) : Out := .next (s.arriveMsg core src 4)

end Sys2Proof.Machine
end

