-- ==== Sys2Proof/Machine/Matrix.lean ====
section
/-!
DEFINITION. The matrix array: format words, convergence registers and signing, the MXA instructions, and the operations
of the array (R52-R58, R212-R240).
-/

namespace Sys2Proof.Machine

/-! Format words and operand classes. -/

/-- A well-formed format word's fields (R55). -/
structure FormatWord where
  af : Nat
  bf : Nat
  acc : Nat
  rm : Rm
  sat : Bool
  deriving DecidableEq, Repr

/-- A format word, if it is well-formed (R56). -/
def formatWord (w : Word) : Option FormatWord :=
  let af := w.toNat % 16
  let bf := w.toNat / 16 % 16
  let acc := w.toNat / 256 % 4
  let rm := w.toNat / 1024 % 8
  let okPair :=
    (decide (af ≤ 1) && decide (bf ≤ 1) && decide (acc ≤ 1)) ||
    ((af == 2 || af == 3) && (bf == 2 || bf == 3) && decide (acc ≤ 1)) ||
    (af == 4 && bf == 4 && acc == 2) ||
    (af == 5 && bf == 5 && decide (acc ≤ 1))
  if w.toNat < 2 ^ 14 ∧ rm ≤ 4 ∧ okPair then
    some ⟨af, bf, acc, Rm.ofCode (BitVec.ofNat 3 rm), w.getLsbD 13⟩
  else none

/-- K, chunk and chunks per MMA of an operand format (R212). -/
def mmaShape (f : Nat) : Nat × Nat × Nat :=
  if f ≤ 1 then (16, 8, 2) else if f = 5 then (64, 8, 8) else (32, 16, 2)

/-- Bytes of an element, other than B4's (R214). -/
def elemBytes (f : Nat) : Nat := if f ≤ 1 then 2 else 1

/-- The exact value of an element, other than B4's (R57). -/
def elemNum (f bits : Nat) : Num :=
  match f with
  | 0 => fp16.value bits
  | 1 => bf16.value bits
  | 2 => e4m3.value bits
  | 3 => e5m2.value bits
  | _ =>
    let v : Int := (BitVec.ofNat 8 bits).toInt
    .fin (decide (v < 0)) v.natAbs 0

/-- Bytes of an entry of a WB image (R217). -/
def entryBytes (f : Nat) : Nat := if f = 5 then 8 else 16

/-- Bytes of an A tile of M rows (R214). -/
def tileBytes (af m : Nat) : Nat := if af = 5 then m * 48 else m * 32

/-- Bytes of a dense B source (R216). -/
def sourceBytes (bf : Nat) : Nat := if bf = 5 then 3072 else 2048

/-! Sums (R57, R58). -/

/-- The value of an exact sum of signed numbers with a common scale. -/
def numOfInt (v : Int) (e : Int) : Num := .fin (decide (v < 0)) v.natAbs e

/-- The sign of a zero chunk sum (R47, R58). -/
def zeroNeg (rm : Rm) (ps : List Num) : Bool :=
  let negZero (p : Num) : Bool :=
    match p with
    | .fin n m _ => n && m == 0
    | _ => false
  let posZero (p : Num) : Bool :=
    match p with
    | .fin n m _ => !n && m == 0
    | _ => false
  if rm = Rm.rdn then !(ps.all posZero) else ps.all negZero

/-- The exact sum of finite products. -/
def finSum (rm : Rm) (ps : List Num) : Num :=
  let lo : Int := ps.foldl
    (fun a p =>
      match p with
      | .fin _ _ e => min a e
      | _ => a) 0
  let v : Int := ps.foldl
    (fun a p =>
      match p with
      | .fin n m e => a + scaled n m e lo
      | _ => a) 0
  if v = 0 then .fin (zeroNeg rm ps) 0 0 else numOfInt v lo

/-- The exact sum of a chunk's products: a NaN, an infinity or a number (R58). `none` is 0 × ∞. -/
def chunkSum (rm : Rm) (ps : List (Option Num)) : Num :=
  let pinf := ps.any fun p => p == some (.inf false)
  let ninf := ps.any fun p => p == some (.inf true)
  let nan := ps.any fun p =>
    match p with
    | none => true
    | some q => q.isNan
  if nan || (pinf && ninf) then .nan false
  else if pinf then .inf false
  else if ninf then .inf true
  else finSum rm (ps.filterMap id)

/-- An accumulator's floating-point format (R215). -/
def accFmt (acc : Nat) : Fmt := if acc = 1 then fp16 else fp32

/-- An I32 product sum of a chunk. -/
def intSum (ps : List (Option Num)) : Int :=
  ps.foldl
    (fun a p =>
      match p with
      | some (.fin n m _) => a + (if n then -(m : Int) else (m : Int))
      | _ => a) 0

/-- One chunk step on an accumulator element (R57): one rounding per chunk; exact and modulo 2^32 for I32. -/
def chunkStep (w : FormatWord) (c : Nat) (ps : List (Option Num)) : Nat :=
  if w.acc = 2 then (BitVec.ofInt 32 ((c : Int) + intSum ps)).toNat
  else
    let f := accFmt w.acc
    (addNum f w.rm (f.value c) (chunkSum w.rm ps)).1

/-- The element an overwriting MMA starts from (R57, R227): -0 in a floating-point format, where a chunk is present. Where the
first present chunk sums to +0 and RM is RDN, the two add to -0 by R47, and that stands (DEDUCED, log 66). -/
def overwriteStart (w : FormatWord) (anyPresent : Bool) : Nat :=
  if w.acc = 2 || !anyPresent then 0 else (accFmt w.acc).signBit

/-! Where a launch's tiles and units lie. -/

/-- T and U of a launch (R213, R381). -/
def Res.tiles (r : Res) : Nat := recNat r.record 54 1
/-- U. -/
def Res.units (r : Res) : Nat := recNat r.record 56 2
/-- The pool offset of a launch's tile (R183, R213). -/
def Core.tileOff (c : Core) (r : Res) (t : Nat) : Nat := (c.part.toNat % 256 + r.tileMap.getD t 0) * 16384
/-- The key of a byte of a launch's WB unit. -/
def Res.unitAddr (r : Res) (n u off : Nat) : Nat := wbAddr n (r.wbMap.getD (u + off / 256) 0 * 256 + off % 256)

/-! Operands. -/

/-- Element (i, k) of an A tile of M rows (R214). -/
def State.aElem (s : State) (n base m af i k : Nat) : Num :=
  if af = 5 then
    b4Value (BitVec.ofNat 32 (s.peek (poolAddr n (base + 32 * i + 4 * (k / 8))) 4))
      (BitVec.ofNat 16 (s.peek (poolAddr n (base + 32 * m + 16 * i + 2 * (k / 8))) 2)) (k % 8)
  else elemNum af (s.peek (poolAddr n (base + 32 * i + k * elemBytes af)) (elemBytes af))

/-- A WB image (R217): where it lies, its format, and its mask by column. -/
structure Image where
  /-- the keys of its units, in order -/
  units : List Nat
  bf : Nat
  mask : List Nat
  deriving DecidableEq, Repr

/-- A chunk column is present. -/
def Image.has (g : Image) (q j : Nat) : Bool := (g.mask.getD j 0).testBit q

/-- The place of a chunk column among the packed entries: ascending q, and within q ascending j (R217). -/
def Image.index (g : Image) (q j : Nat) : Nat :=
  ((List.range q).map fun p => ((List.range 64).filter fun i => g.has p i).length).sum +
    ((List.range j).filter fun i => g.has q i).length

/-- The key of an entry. -/
def Image.entry (g : Image) (q j : Nat) : Nat :=
  let o := 256 + g.index q j * entryBytes g.bf
  g.units.getD (o / 256) 0 + o % 256

/-- Element (k, j) of an image; a missing chunk column is zeros, a missing block the word 0 with side 0x007F (R218). -/
def State.bElem (s : State) (g : Image) (k j : Nat) : Num :=
  let chunk := (mmaShape g.bf).2.1
  let q := k / chunk
  if g.bf = 5 then
    if g.has q j then
      b4Value (BitVec.ofNat 32 (s.peek (g.entry q j) 4)) (BitVec.ofNat 16 (s.peek (g.entry q j + 4) 2)) (k % 8)
    else b4Value 0#32 0x007F#16 (k % 8)
  else if g.has q j then
    elemNum g.bf (s.peek (g.entry q j + (k % chunk) * elemBytes g.bf) (elemBytes g.bf))
  else elemNum g.bf 0

/-! Faults of an array operation: code, detail number and argument (R229, R231, R233). -/

/-- The resident tile is written back to the pool, and none is resident (R236, R239). -/
def State.writeBack (s : State) (n : Nat) : State :=
  let c := s.core n
  match c.resident with
  | none => s
  | some (l, t) =>
    let s := match s.res? n l with
      | some r => s.write (poolAddr n (c.tileOff r t)) ((c.cells ++ List.replicate 16384 0#8).take 16384)
      | none => s
    s.modCore n fun c => { c with resident := none, cells := [] }

/-- A launch's tile is in the array's cells. -/
def Core.holdsTile (c : Core) (l t : Nat) : Bool := c.resident == some (l, t)

/-- The whole contents of a tile set, in the cells if it is resident, else in the pool (R236). -/
def State.setTile (s : State) (n l : Nat) (r : Res) (t : Nat) (bytes : List Byte) : State :=
  if (s.core n).holdsTile l t then s.modCore n fun c => { c with cells := bytes }
  else s.write (poolAddr n ((s.core n).tileOff r t)) bytes

/-- A fault found while an operation is performed. -/
structure ArrayFault where
  code : Byte
  sub : Nat
  arg : Nat
  deriving DecidableEq, Repr

/-- The first word with an uncorrectable error that an operation meets in some ranges (R229, R283). -/
def State.badIn (s : State) (ranges : List (Nat × Nat)) : Option Nat := ranges.findSome? fun p => s.badAt p.1 p.2

/-- "machine check" of an operation that reads the pool: the offset of the bad word (R229, R283). -/
def poolCheck (n pa : Nat) : ArrayFault := ⟨0x0D#8, 1, pa - poolAddr n 0⟩

/-- An operation reads ranges of a pool, or meets an error in them (R229, R283). -/
def State.readsPool (s : State) (n : Nat) (ranges : List (Nat × Nat)) : Except ArrayFault State :=
  match s.badIn ranges with
  | some pa => .error (poolCheck n pa)
  | none => .ok (ranges.foldl (fun t p => t.corrects p.1 p.2) s)

/-- The image an MMA names, checked: its header, its extent (R229, R283). -/
def State.image (s : State) (n : Nat) (r : Res) (wbu bf : Nat) : Except ArrayFault Image :=
  let at_ (off len : Nat) : Nat := s.peek (r.unitAddr n wbu off) len
  let (k, _, nq) := mmaShape bf
  let mask := (List.range 64).map fun j => at_ (8 + j) 1
  let p := at_ 4 2
  let units := (List.range (r.units - wbu)).map fun i => r.unitAddr n (wbu + i) 0
  let g : Image := ⟨units, bf, mask⟩
  let bits := ((List.range nq).map fun q => ((List.range 64).filter fun j => g.has q j).length).sum
  let len := 1 + (p * entryBytes bf + 255) / 256
  if s.isBad (r.unitAddr n wbu 0) 256 then .error ⟨0x0D#8, 3, wbu⟩
  else if at_ 0 1 ≠ bf ∨ at_ 1 1 ≠ k ∨ at_ 2 1 ≠ nq ∨ at_ 3 1 ≠ 0 ∨ at_ 6 2 ≠ 0 ∨ at_ 72 184 ≠ 0 ∨ 512 < p ∨
      (mask.any fun b => decide (2 ^ nq ≤ b)) ∨ bits ≠ p then .error ⟨0x09#8, 0, wbu⟩
  else if r.units < wbu + len then .error ⟨0x04#8, 11, wbu⟩
  else .ok g

/-- A skip stream's next state (R228): present, and the stream after it, or the fault of a stream that runs out or whose entry
cannot be read (R229). The list's entries left bound the search. -/
def State.skipNext (s : State) (n sk : Nat) : Nat → Skip → Except ArrayFault (Bool × Skip)
  | fuel, k =>
    if 0 < k.run then .ok (!k.absent, { k with run := k.run - 1 })
    else
      match fuel with
      | 0 => .error ⟨0x04#8, 12, sk⟩
      | fuel' + 1 =>
        if k.left = 0 then .error ⟨0x04#8, 12, sk⟩
        else
          match s.badAt (poolAddr n k.ptr) 2 with
          | some pa => .error (poolCheck n pa)
          | none =>
            let e := s.peek (poolAddr n k.ptr) 2
            State.skipNext s n sk fuel'
              { ptr := k.ptr + 2, left := k.left - 1, run := e % 2 ^ 15, absent := decide (2 ^ 15 ≤ e) }

/-- The presence states of an MMA's chunks, and the stream after them (R227, R228). -/
def State.presence (s : State) (n sk : Nat) : Nat → Skip → Except ArrayFault (List Bool × Skip)
  | 0, k => .ok ([], k)
  | q + 1, k => do
    let (b, k') ← s.skipNext n sk (k.left + 1) k
    let (bs, k'') ← State.presence s n sk q k'
    .ok (b :: bs, k'')

/-- The first ill-formed B4 record of A that an MMA reads (R54, R229). -/
def State.badA (s : State) (n base m : Nat) (qs : List Nat) : Option Nat :=
  ((List.range m).flatMap fun i => qs.map fun q => (i, q)).findSome? fun (i, q) =>
    if b4IllFormed (BitVec.ofNat 16 (s.peek (poolAddr n (base + 32 * m + 16 * i + 2 * q)) 2)) then
      some (base + 32 * i + 4 * q)
    else none

/-- A B4 record of the image that an MMA reads is ill-formed. -/
def State.badB (s : State) (g : Image) (qs : List Nat) : Bool :=
  qs.any fun q => (List.range 64).any fun j =>
    g.has q j && b4IllFormed (BitVec.ofNat 16 (s.peek (g.entry q j + 4) 2))

/-- Accumulator element (i, j) read under an ACC (R215). -/
def State.accElem (s : State) (n tile acc i j : Nat) : Nat :=
  s.peek (poolAddr n (tile + 256 * i + 4 * j)) 4 % (if acc = 1 then 2 ^ 16 else 2 ^ 32)

/-- One accumulator element after an MMA (R227). -/
def State.mmaCell (s : State) (n aoff tile m : Nat) (g : Image) (w : FormatWord) (ow : Bool) (present : List Nat)
    (i j : Nat) : Nat :=
  let chunk := (mmaShape w.af).2.1
  let c := if ow then overwriteStart w (!present.isEmpty) else s.accElem n tile w.acc i j
  present.foldl
    (fun c q =>
      chunkStep w c ((List.range chunk).map fun x =>
        mulExact (s.aElem n aoff m w.af i (q * chunk + x)) (s.bElem g (q * chunk + x) j))) c

/-- A launch's skip stream changed. -/
def Res.setSk (r : Res) (i : Nat) (k : Skip) : Res := { r with sks := r.sks.mapIdx fun x v => if x = i then k else v }

/-- The ranges of an A tile that an MMA reads: those of its present chunks (R214, R228). -/
def aRanges (n base m af : Nat) (present : List Nat) : List (Nat × Nat) :=
  (List.range m).flatMap fun i => present.flatMap fun q =>
    if af = 5 then [(poolAddr n (base + 32 * i + 4 * q), 4), (poolAddr n (base + 32 * m + 16 * i + 2 * q), 2)]
    else [(poolAddr n (base + 32 * i + 16 * q), 16)]

/-- The first unit of an image in which an entry that an MMA reads has a word with an error (R217, R228, R283). -/
def State.badEntry (s : State) (g : Image) (wbu : Nat) (present : List Nat) : Option Nat :=
  present.findSome? fun q => (List.range 64).findSome? fun j =>
    if g.has q j && s.isBad (g.entry q j) (entryBytes g.bf) then some (wbu + (256 + g.index q j * entryBytes g.bf) / 256)
    else none

/-- The 16 KiB of a tile after an MMA: its first `m` rows computed, the others as they were (R227). -/
def State.mmaTile (s : State) (n aoff tile m : Nat) (g : Image) (w : FormatWord) (ow : Bool) (present : List Nat) : List Byte :=
  ((List.range m).flatMap fun i => (List.range 64).flatMap fun j =>
    bytesOfNat 4 (s.mmaCell n aoff tile m g w ow present i j)) ++
    Memory.readN s.mem (poolAddr n (tile + 256 * m)) (16384 - 256 * m)

/-- The array performs an MMA (R227, R229): a fault leaves the tile, the stream and the WB as they were. The tile it names becomes
resident: another one is written back first, and the new one is read from the pool unless it is overwritten (R236). -/
def State.runMma (s : State) (n l : Nat) (r : Res) (f7 : BitVec 7) (fw p0 p1 : Word) : Except ArrayFault State :=
  match formatWord fw with
  | none => .error ⟨0x09#8, 0, 0⟩
  | some w =>
    let m := if f7.getLsbD 1 then 32 else 64
    let sparse := f7.getLsbD 0
    let nq := (mmaShape w.af).2.2
    let aoff := p0.toNat % 2 ^ 22
    let wbu := p1.toNat % 2 ^ 11
    let t := p1.toNat / 2 ^ 16 % 16
    let tile := (s.core n).tileOff r t
    let sk := p1.toNat / 2 ^ 20 % 4
    let old := r.sks.getD sk default
    do
      let (states, k) ← if sparse then s.presence n sk nq old else .ok (List.replicate nq true, default)
      let g ← s.image n r wbu w.bf
      let present := (List.range nq).filter fun q => states.getD q false
      let s ← s.readsPool n (aRanges n aoff m w.af present)
      let _ ← match s.badEntry g wbu present with
        | some u => .error ⟨0x0D#8, 3, u⟩
        | none => .ok ()
      let _ ←
        if w.af = 5 then
          match s.badA n aoff m present with
          | some off => .error ⟨0x09#8, 0, off⟩
          | none => if s.badB g present then .error ⟨0x09#8, 0, wbu⟩ else .ok ()
        else .ok ()
      let s ← if (s.core n).holdsTile l t || f7.getLsbD 2 then .ok s
        else s.readsPool n [(poolAddr n tile, 256 * m)]
      let cells := (s.writeBack n).mmaTile n aoff tile m g w (f7.getLsbD 2) present
      let s := if (s.core n).holdsTile l t then s else s.writeBack n
      let s := s.modCore n fun c => { c with resident := some (l, t), cells := cells }
      .ok (if sparse then
          (s.corrects (poolAddr n old.ptr) (2 * (old.left - k.left))).modRes n l fun r => r.setSk sk k
        else s)

/-- The target format of ACCST, other than I8 and B4 (R232). -/
def accTarget (af : Nat) : Fmt := match af with | 0 => fp16 | 1 => bf16 | 2 => e4m3 | _ => e5m2

/-- An accumulator element converted for ACCST (R49, R50, R232). -/
def accConvert (w : FormatWord) (c : Nat) : Nat :=
  if w.af = 4 then
    if w.sat then (BitVec.ofInt 8 (min (max (BitVec.ofNat 32 c).toInt (-128)) 127)).toNat else c % 256
  else (fpNarrow (accFmt w.acc) (accTarget w.af) (w.sat && w.af != 1) w.rm c).1

/-- The B4 block of columns 8b to 8b+7 of a row of a tile (R137, R232). -/
def State.accBlock (s : State) (n tile : Nat) (w : FormatWord) (i b : Nat) : Word × Word :=
  let p := packB4 w.rm ((List.range 8).map fun x => (accFmt w.acc).value (s.accElem n tile w.acc i (8 * b + x)))
  (p.1, p.2.1)

/-- The bytes ACCST stores without RAW (R232). -/
def State.accBytes (s : State) (n tile : Nat) (w : FormatWord) : List Byte :=
  if w.af = 5 then
    ((List.range 64).flatMap fun i => (List.range 8).flatMap fun b => bytesOfNat 4 (s.accBlock n tile w i b).1.toNat) ++
    ((List.range 64).flatMap fun i => (List.range 8).flatMap fun b => bytesOfNat 2 (s.accBlock n tile w i b).2.toNat)
  else
    (List.range 64).flatMap fun i => (List.range 64).flatMap fun j =>
      bytesOfNat (elemBytes w.af) (accConvert w (s.accElem n tile w.acc i j))

/-- The bytes ACCST stores (R232). -/
def accExtent (raw : Bool) (fw : Word) : Nat :=
  if raw then 16384
  else match formatWord fw with
    | some w => if w.af = 5 then 3072 else 4096 * elemBytes w.af
    | none => 0

/-- The array stores a tile to the pool (R232): the resident tile from the cells (R236). -/
def State.runAccst (s : State) (n l : Nat) (r : Res) (tile : Nat) (a fw : Word) : Except ArrayFault State :=
  let off := a.toNat % 2 ^ 22
  let t := (s.core n).tileOff r tile
  do
    let s ← if (s.core n).holdsTile l tile then .ok s else s.readsPool n [(poolAddr n t, 16384)]
    let now := s.writeBack n
    if a.getLsbD 31 then .ok (s.write (poolAddr n off) (Memory.readN now.mem (poolAddr n t) 16384))
    else
      match formatWord fw with
      | none => .error ⟨0x09#8, 0, 0⟩
      | some w => .ok (s.write (poolAddr n off) (now.accBytes n t w))

/-- The bytes of a chunk column of a dense source, as an entry of an image; none where its element bytes are all zero
(R216, R217). -/
def State.sourceEntry (s : State) (n src bf q j : Nat) : Option (List Byte) :=
  if bf = 5 then
    let e := s.peek (poolAddr n (src + 32 * j + 4 * q)) 4
    if e = 0 then none
    else some (bytesOfNat 4 e ++ Memory.readN s.mem (poolAddr n (src + 2048 + 16 * j + 2 * q)) 2 ++ [0#8, 0#8])
  else
    let bs := Memory.readN s.mem (poolAddr n (src + 32 * j + 16 * q)) 16
    if bs.all fun b => b == 0#8 then none else some bs

/-- The image of a dense source (R217). -/
def State.buildImage (s : State) (n src bf : Nat) : List Byte :=
  let (k, _, nq) := mmaShape bf
  let cols := (List.range nq).flatMap fun q => (List.range 64).map fun j => (q, j)
  let entries := cols.filterMap fun (q, j) => s.sourceEntry n src bf q j
  let mask := (List.range 64).map fun j =>
    BitVec.ofNat 8 (((List.range nq).filter fun q => (s.sourceEntry n src bf q j).isSome).foldl (fun a q => a + 2 ^ q) 0)
  let body := entries.flatten
  [BitVec.ofNat 8 bf, BitVec.ofNat 8 k, BitVec.ofNat 8 nq, 0#8] ++ bytesOfNat 2 entries.length ++ [0#8, 0#8] ++ mask ++
    List.replicate 184 0#8 ++ body ++ List.replicate ((256 - body.length % 256) % 256) 0#8

/-- The array builds a WB image and writes its report word (R233). -/
def State.runWbld (s : State) (n : Nat) (r : Res) (unit : Nat) (report : Word) (src : Nat) (fw : Word) :
    Except ArrayFault State :=
  match formatWord fw with
  | none => .error ⟨0x09#8, 0, 0⟩
  | some w =>
    let bad := if w.bf = 5 then
        ((List.range 64).flatMap fun j => (List.range 8).map fun q => (j, q)).findSome? fun (j, q) =>
          if b4IllFormed (BitVec.ofNat 16 (s.peek (poolAddr n (src + 2048 + 16 * j + 2 * q)) 2)) then
            some (src + 32 * j + 4 * q)
          else none
      else none
    match bad with
    | some off => .error ⟨0x09#8, 0, off⟩
    | none =>
      let img := s.buildImage n src w.bf
      if r.units < unit + img.length / 256 then .error ⟨0x04#8, 11, unit⟩
      else do
        let s ← s.readsPool n [(poolAddr n src, sourceBytes w.bf)]
        let s := (List.range ((img.length + 255) / 256)).foldl
          (fun (t : State) i => t.write (r.unitAddr n unit (256 * i)) ((img.drop (256 * i)).take 256)) s
        .ok (if report = 0xFFFFFFFF#32 then s else s.poke (poolAddr n report.toNat) 4 (img.length / 256))

/-! Convergence registers (R219-R223). -/

/-- A convergence register of a launch on a core. -/
def Res.cv (r : Res) (i : Nat) : Cv := r.cvs.getD i ⟨1, []⟩

/-- A convergence register set. -/
def Res.setCv (r : Res) (i : Nat) (v : Cv) : Res := { r with cvs := r.cvs.mapIdx fun x c => if x = i then v else c }

/-- SIGN sets COUNT, unless the value is out of range or an epoch is open (R222). -/
def Cv.sign (v : Cv) (cv : Nat) (x : Word) : Except Flt Cv :=
  if x.toNat = 0 ∨ 1024 < x.toNat then .error (.reserved 0)
  else if !v.sigs.isEmpty then .error (.protection 8 cv)
  else .ok { v with count := x.toNat }

/-- SIGN (R222). -/
def execSign (cv : BitVec 4) (a : Reg) (s : State) : Out :=
  turn 1 false always (fun s n g _ m => do
    m.need [a]
    let x ← m.rd a
    match s.res? n g.launch with
    | none => .ok s
    | some r =>
      let v ← (r.cv cv.toNat).sign cv.toNat x
      .ok (s.modRes n g.launch fun r => r.setCv cv.toNat v)) s

/-- Work that a CVWAIT made at a moment still waits for (R223). -/
def State.cvBusy (s : State) (n : Nat) (r : Res) (l slot : Nat) (gen : Half) (cv moment : Nat) : Bool :=
  let mine (x : Sig) : Bool := x.slot == slot && x.gen == gen && decide (x.seq < moment)
  ((r.cv cv).sigs.any mine) ||
    ((s.core n).mx.any fun e =>
      e.launch == l &&
        (match e.op with
         | .mma _ _ _ _ c sigs => c == cv && sigs.any mine
         | .join _ => false
         | _ => e.issuer.slot == slot && e.issuer.gen == gen && decide (e.seq < moment)))

/-- The CVWAITs of a launch's micro-threads that are satisfied go (R223). -/
def State.settleCv (s : State) (n l : Nat) : State :=
  match s.res? n l with
  | none => s
  | some r =>
    ((s.core n).owned l).foldl
      (fun t slot =>
        let m := (t.core n).micro slot
        if m.cvWaits.isEmpty then t
        else
          t.modCore n fun c =>
            (c.modMicro slot fun m =>
              { m with cvWaits := m.cvWaits.filter fun p => t.cvBusy n r l slot m.gen p.1 p.2 }).refresh slot) s

/-- CVWAIT (R223). -/
def execCvwait (cv : BitVec 4) (s : State) : Out :=
  turn 1 false always (fun s n g slot m =>
    match s.res? n g.launch with
    | none => .ok s
    | some r =>
      if s.cvBusy n r g.launch slot m.gen cv.toNat s.nextId then
        .ok (s.modMicro n slot fun m => { m with cvWaits := Tbl.set m.cvWaits cv.toNat s.nextId })
      else .ok s) s

/-- A fault deferred to a micro-thread that has no access in flight for it: a faulted flight stands for the operation,
so that retry can do it again (R169, R221, R231). -/
def State.deferWith (s : State) (n l slot : Nat) (gen : Half) (e : ArrayFault) (fig : Word) (off : Nat) (word : Word)
    (op : Op) : State :=
  match (s.core n).liveAt slot gen with
  | none => s
  | some _ =>
    let id := s.nextId
    (s.addFlight
      { core := n, launch := l, agent := .micro, who := [⟨slot, gen, false, false⟩], fig := fig, off := off,
        word := word, ll := 8, dst := 0#6, dstN := 0, ea := 0#64, sent := 0, op := op, stage := .faulted }).modMicro n slot
      fun m => m.defer (deferredInfo e.code e.sub e.arg fig off gen (.access id))

/-- The signers of an epoch, each once, by their earliest signature. -/
def signers : List Sig → List Sig
  | [] => []
  | x :: r => x :: (signers r).filter fun y => !(y.slot == x.slot && y.gen == x.gen)

/-- A fault at every signer's MMA, deferred (R221, R229). -/
def State.deferSigners (s : State) (n l cv : Nat) (sigs : List Sig) (e : ArrayFault) : State :=
  (signers sigs).foldl
    (fun t x => t.deferWith n l x.slot x.gen e x.fig x.off x.word
      (.mma cv x.f7 (x.regs.extractLsb' 6 6) (x.regs.extractLsb' 0 6))) s

/-- The signature whose operands an epoch uses: the lowest slot's earliest (R221). -/
def leadSig : List Sig → Option Sig
  | [] => none
  | x :: r =>
    match leadSig r with
    | none => some x
    | some y => if x.slot ≤ y.slot then some x else some y

/-- The checks of an MMA at signing (R226): the signature it would give. -/
def Micro.mmaSig (m : Micro) (c : Core) (r : Res) (slot cv : Nat) (f7 : BitVec 7) (a b : Reg) (fig : Word) (off : Nat)
    (word : Word) (seq : Nat) : Except Flt Sig := do
  m.need [a, b]
  let fw ← m.rd a
  let ops ← m.rdPair b
  let p0 := loWord ops
  let p1 := hiWord ops
  match formatWord fw with
  | none => .error (.reserved 0)
  | some w =>
    let aoff := p0.toNat
    let bytes := tileBytes w.af (if f7.getLsbD 1 then 32 else 64)
    if p0.extractLsb' 22 10 ≠ 0#10 ∨ p1 &&& 0xFFC0F800#32 ≠ 0#32 then .error (.reserved 0)
    else if aoff % 64 ≠ 0 then .error (.misaligned aoff)
    else if !c.inSp aoff bytes then .error (.protection 4 aoff)
    else if (r.cv cv).count = 0 then .error (.protection 9 cv)
    else if r.tiles ≤ p1.toNat / 2 ^ 16 % 16 then .error (.protection 10 (p1.toNat / 2 ^ 16 % 16))
    else if r.units ≤ p1.toNat % 2 ^ 11 then .error (.protection 11 (p1.toNat % 2 ^ 11))
    else .ok ⟨slot, m.gen, fw, f7, p0, p1, fig, off, word, a ++ b, seq⟩

/-- An operation enters the array's queue (R234). -/
def State.enterArray (s : State) (n l : Nat) (i : Issuer) (op : MxOp) : State :=
  { s.modCore n (fun c => { c with mx := c.mx ++ [⟨l, i, s.nextId, op⟩] }) with nextId := s.nextId + 1 }

/-- A signature is taken; one that closes its epoch sends the MMA to the array, or faults every signer where the vote
fails, the closing one at once (R219-R221). -/
def State.signCv (s : State) (n l cv : Nat) (x : Sig) : State × Option Flt :=
  match s.res? n l with
  | none => (s, none)
  | some r =>
    let v := r.cv cv
    let s := { s with nextId := s.nextId + 1 }
    let sigs := v.sigs ++ [x]
    if sigs.length < v.count then (s.modRes n l fun r => r.setCv cv { v with sigs := sigs }, none)
    else
      let s := s.modRes n l fun r => r.setCv cv { v with sigs := [] }
      if sigs.all fun y => y.fw == x.fw && y.f7 == x.f7 then
        let y := (leadSig sigs).getD x
        (s.enterArray n l ⟨y.slot, y.gen, y.fig, y.off, y.word⟩ (.mma x.f7 x.fw y.p0 y.p1 cv sigs), none)
      else
        let others := v.sigs.filter fun y => !(y.slot == x.slot && y.gen == x.gen)
        ((s.deferSigners n l cv others ⟨0x08#8, 0, cv⟩).settleCv n l, some (.divergence cv))

/-- The array queue has room for every epoch that the group's signatures close (R234), or the launch is halting
(R286). -/
def mmaRoom (cv : Nat) (f7 : BitVec 7) (a b : Reg) (s : State) (n : Nat) (g : Group) : Bool :=
  match s.res? n g.launch with
  | none => true
  | some r =>
    let c := s.core n
    let v := r.cv cv
    let k := (g.members.filter fun slot =>
      match (c.micro slot).mmaSig c r slot cv f7 a b g.fig g.off 0#32 0 with
      | .ok _ => true
      | .error _ => false).length
    r.away || decide (s.occupied n 4 + s.reserved n 4 + (v.sigs.length + k) / max 1 v.count ≤ queueRoom)

/-- MMA: each member signs, in ascending slot order (R220, R225, R226). -/
def execMma (cv : BitVec 4) (a b : Reg) (sparse m32 ow : BitVec 1) (s : State) : Out :=
  let f7 : BitVec 7 := 0#4 ++ ow ++ m32 ++ sparse
  turn 1 false (mmaRoom cv.toNat f7 a b) (fun s n g slot m =>
    match s.res? n g.launch with
    | none => .ok s
    | some r => do
      let x ← m.mmaSig (s.core n) r slot cv.toNat f7 a b g.fig g.off s.curWord s.nextId
      match s.signCv n g.launch cv.toNat x with
      | (t, none) => .ok t
      | (t, some e) => .ok (t.faultMember n g 4 slot none e)) s

/-! The MXA instructions at issue (R230, R231). -/

/-- Offsets of a pool-offset register: its other bits zero, its alignment, its extent (R230, R231). -/
def poolOffset (c : Core) (w : Word) (align len : Nat) : Except Flt Nat :=
  let off := w.toNat % 2 ^ 22
  if off % align ≠ 0 then .error (.misaligned off)
  else if !c.inSp off len then .error (.protection 4 off)
  else .ok off

/-- A member's MXA instruction: its checks give the operation, which enters the queue at once (R234). -/
def mxa (check : Core → Res → Micro → Except Flt MxOp) (s : State) : Out :=
  turn 1 false (hasRoom fun _ => [4]) (fun s n g slot m =>
    match s.res? n g.launch with
    | none => .ok s
    | some r => do
      let op ← check (s.core n) r m
      .ok (s.enterArray n g.launch ⟨slot, m.gen, g.fig, g.off, s.curWord⟩ op)) s

/-- A tile number below T (R231). -/
def needTile (r : Res) (tile : Nat) : Except Flt Unit :=
  if r.tiles ≤ tile then .error (.protection 10 tile) else .ok ()

/-- ACCZ (R230, R231). -/
def execAccz (tile : BitVec 4) (s : State) : Out :=
  mxa (fun _ r _ => do
    needTile r tile.toNat
    .ok (.accz tile.toNat)) s

/-- ACCLD (R230, R231). -/
def execAccld (tile : BitVec 4) (a : Reg) (s : State) : Out :=
  mxa (fun c r m => do
    m.need [a]
    let x ← m.rd a
    if x.extractLsb' 22 10 ≠ 0#10 then .error (.reserved 0)
    else
      let off ← poolOffset c x 64 16384
      needTile r tile.toNat
      .ok (.accld tile.toNat off)) s

/-- ACCST: bit 31 of a is RAW, and b is not read with it (R230-R232). -/
def execAccst (tile : BitVec 4) (a b : Reg) (s : State) : Out :=
  mxa (fun c r m => do
    m.need [a, b]
    let x ← m.rd a
    let raw := x.getLsbD 31
    let fw ← if raw then .ok 0#32 else m.rd b
    if x.extractLsb' 22 9 ≠ 0#9 ∨ (!raw ∧ formatWord fw = none) then .error (.reserved 0)
    else
      let _ ← poolOffset c x 64 (accExtent raw fw)
      needTile r tile.toNat
      .ok (.accst tile.toNat x fw)) s

/-- WBLD: d is a pair read as a source, the unit and the report offset (R230, R231, R233). -/
def execWbld (d a b : Reg) (s : State) : Out :=
  mxa (fun c r m => do
    m.need [d, a, b]
    let dd ← m.rdPair d
    let x ← m.rd a
    let fw ← m.rd b
    let unit := loWord dd
    let report := hiWord dd
    let named := report != 0xFFFFFFFF#32
    match formatWord fw with
    | none => .error (.reserved 0)
    | some w =>
      if unit.extractLsb' 11 21 ≠ 0#21 ∨ x.extractLsb' 22 10 ≠ 0#10 ∨ (named ∧ report.extractLsb' 22 10 ≠ 0#10) then
        .error (.reserved 0)
      else if x.toNat % 64 ≠ 0 then .error (.misaligned x.toNat)
      else if named ∧ report.toNat % 4 ≠ 0 then .error (.misaligned report.toNat)
      else
        let _ ← poolOffset c x 64 (sourceBytes w.bf)
        let _ ← if named then poolOffset c report 4 4 else .ok 0
        if r.units ≤ unit.toNat then .error (.protection 11 unit.toNat)
        else .ok (.wbld unit.toNat report x.toNat fw)) s

/-- SKSET (R228, R230, R231). -/
def execSkset (sk : BitVec 2) (a b : Reg) (s : State) : Out :=
  mxa (fun c _ m => do
    m.need [a, b]
    let x ← m.rd a
    let y ← m.rd b
    if x.extractLsb' 22 10 ≠ 0#10 ∨ y.extractLsb' 16 16 ≠ 0#16 then .error (.reserved 0)
    else
      let off ← poolOffset c x 2 (2 * y.toNat)
      .ok (.skset sk.toNat off y.toNat)) s

/-! The array's operations (R234-R236). -/

/-- A store that entered the FIFO before an operation entered the queue has not left it yet (R234). -/
def State.storesBefore (s : State) (n seq : Nat) : Bool :=
  (s.core n).fifo.any fun id =>
    decide (id < seq) &&
      (match Tbl.get? s.flights id with
       | some f => f.isStore
       | none => false)

/-- An operation that faults is reported to its issuer, or to every signer (R229, R231). -/
def State.failArray (s : State) (n : Nat) (e : MxEntry) (x : ArrayFault) : State :=
  let s := if x.code = 0x0D#8 then s.machineCheck x.sub (s.coreWord n) x.arg else s
  match e.op with
  | .mma _ _ _ _ cv sigs => s.deferSigners n e.launch cv sigs x
  | op => s.deferWith n e.launch e.issuer.slot e.issuer.gen x e.issuer.fig e.issuer.off e.issuer.word (.array op)

/-- The array performs the operation at the head of its queue, if it is of the kind the event names and its launch is
not halted (R234, R239). -/
def onArray (core : Nat) (run : State → Res → MxEntry → Option (Except ArrayFault State)) (s : State) : Out :=
  match (s.core core).mx with
  | [] => .next s
  | e :: rest =>
    match s.res? core e.launch with
    | none => .next s
    | some r =>
      if r.away || s.storesBefore core e.seq then .next s
      else
        let t := s.modCore core fun c => { c with mx := rest }
        match run t r e with
        | none => .next s
        | some (.ok u) => .next (u.settleCv core e.launch)
        | some (.error x) => .next ((t.failArray core e x).settleCv core e.launch)

/-- MMA_PERFORM (R227, R229). -/
def execMmaPerform (core : Nat) (s : State) : Out :=
  onArray core (fun s r e =>
    match e.op with
    | .mma f7 fw p0 p1 _ _ =>
      some (s.runMma core e.launch r f7 fw p0 p1)
    | _ => none) s

/-- ACCZ_PERFORM: every word of the tile becomes 0 (R230, R236). -/
def execAcczPerform (core : Nat) (s : State) : Out :=
  onArray core (fun s r e =>
    match e.op with
    | .accz t => some (.ok (s.setTile core e.launch r t (List.replicate 16384 0#8)))
    | _ => none) s

/-- ACCLD_PERFORM: 16 KiB copied verbatim from the pool (R230, R236). -/
def execAccldPerform (core : Nat) (s : State) : Out :=
  onArray core (fun s r e =>
    match e.op with
    | .accld t off =>
      some ((s.readsPool core [(poolAddr core off, 16384)]).map fun s =>
        s.setTile core e.launch r t (Memory.readN s.mem (poolAddr core off) 16384))
    | _ => none) s

/-- ACCST_PERFORM (R232). -/
def execAccstPerform (core : Nat) (s : State) : Out :=
  onArray core (fun s r e =>
    match e.op with
    | .accst t a fw => some (s.runAccst core e.launch r t a fw)
    | _ => none) s

/-- WBLD_PERFORM (R233). -/
def execWbldPerform (core : Nat) (s : State) : Out :=
  onArray core (fun s r e =>
    match e.op with
    | .wbld unit report src fw => some (s.runWbld core r unit report src fw)
    | _ => none) s

/-- SKSET_PERFORM (R230). -/
def execSksetPerform (core : Nat) (s : State) : Out :=
  onArray core (fun s _ e =>
    match e.op with
    | .skset sk ptr left =>
      some (.ok (s.modRes core e.launch fun r => r.setSk sk { ptr := ptr, left := left, run := 0, absent := false }))
    | _ => none) s

end Sys2Proof.Machine
end

