-- ==== Sys2Proof/Machine/Copy.lean ====
section
/-!
DEFINITION. The copy engine: CPOST and CCANCEL, descriptors, elements, barrier objects and status (R241-R252).
-/

namespace Sys2Proof.Machine

/-- CPOST at issue (R242, R244): the descriptor's offset and the channel are checked and an entry reserved. -/
def execCpost (d a b : Reg) (s : State) : Out :=
  turn 1 true (hasRoom fun m => if (m.reg b).toNat < 4 then [(m.reg b).toNat] else []) (fun s n g slot m => do
    m.need [d, a, b]
    let x ← m.rd a
    let y ← m.rd b
    m.wrOk d 2
    if y.extractLsb' 2 30 ≠ 0#30 ∨ x.extractLsb' 22 10 ≠ 0#10 then .error (.reserved 0)
    else if x.toNat % 32 ≠ 0 then .error (.misaligned x.toNat)
    else if !(s.core n).inSp x.toNat 32 then .error (.protection 4 x.toNat)
    else
      .ok ((s.modMicro n slot fun m => m.setPend d 2).addFifo
        (g.flight s n slot m true d 2 0#64 (.copy y.toNat x.toNat) .fifo))) s

/-- CCANCEL at issue (R244, R251). -/
def execCcancel (a : Reg) (s : State) : Out :=
  turn 1 false always (fun s n g slot m => do
    m.need [a]
    let x ← m.rd a
    if x.extractLsb' 2 30 ≠ 0#30 then .error (.reserved 0)
    else .ok (s.addFifo (g.flight s n slot m false 0#6 0 0#64 (.cancel x.toNat) .fifo))) s

/-- A channel of a core changed. -/
def State.modChan (s : State) (n ch : Nat) (f : List ChanEntry → List ChanEntry) : State :=
  s.modCore n fun c => { c with chans := c.chans.mapIdx fun i q => if i = ch then f q else q }

/-- A channel of a core. -/
def Core.chan (c : Core) (ch : Nat) : List ChanEntry := (c.chans[ch]?).getD []

/-- CPOST leaves the store FIFO and enters its channel (R242). -/
def State.enterCopy (s : State) (n id : Nat) (f : Flight) (ch desc : Nat) : State :=
  ((s.popFifo n id).setStage id .engine).modChan n ch fun q => q ++ [⟨f.launch, .copy id desc .waiting false⟩]

/-- A copy entry cancelled (R251): a queued one ends with n = 0; one in progress stops after its current element, at once where
that element waits for its page. -/
def CopyState.cancel (held : Bool) : CopyState → CopyState
  | .waiting => .ended none 0 0 2 0
  | .started d n u el _ => if held then .ended (some d) n u 2 0 else .started d n u el true
  | e => e

/-- CCANCEL leaves the store FIFO: every copy entry of its launch in the channel ends (R251). -/
def State.cancelCopies (s : State) (n id : Nat) (f : Flight) (ch : Nat) : State :=
  ((s.popFifo n id).dropFlight id).modChan n ch fun q => q.map fun e =>
    match e.op with
    | .copy fl d st held => if e.launch = f.launch then ⟨e.launch, .copy fl d (st.cancel held) false⟩ else e
    | _ => e

/-- A signed 64-bit field. -/
def signed64 (v : Nat) : Int := (BitVec.ofNat 64 v).toInt

/-- A dimension record of a descriptor (R245). -/
def State.readDim (s : State) (n off : Nat) : Dim :=
  { count := s.peek (poolAddr n off) 4, ss := signed64 (s.peek (poolAddr n (off + 4)) 8),
    ds := signed64 (s.peek (poolAddr n (off + 12)) 8) }

/-- The descriptor at a pool offset (R245), with ESIZE as its code. -/
def State.readDesc (s : State) (n off : Nat) : CopyDesc :=
  let ndim := s.peek (poolAddr n (off + 17)) 1
  { src := BitVec.ofNat 64 (s.peek (poolAddr n off) 8), dst := BitVec.ofNat 64 (s.peek (poolAddr n (off + 8)) 8)
    esize := s.peek (poolAddr n (off + 16)) 1
    dims := if ndim ≤ 16 then (List.range ndim).map fun k => s.readDim n (off + 32 + 20 * k) else []
    flags := BitVec.ofNat 8 (s.peek (poolAddr n (off + 18)) 1), evline := s.peek (poolAddr n (off + 19)) 1
    bar := s.peek (poolAddr n (off + 20)) 4 }

/-- Elements of a copy (R247). -/
def CopyDesc.total (d : CopyDesc) : Nat := d.dims.foldl (fun a x => a * x.count) 1

/-- Bytes of an element. -/
def CopyDesc.bytes (d : CopyDesc) : Nat := 2 ^ d.esize

/-- The destination walk is strictly ascending (R246): every stride is at least the span inside it. -/
def ascending : List Dim → Int → Bool
  | [], _ => true
  | x :: r, span => if x.count ≤ 1 then ascending r span else decide (span ≤ x.ds) && ascending r (span + (x.count - 1) * x.ds)

/-- The first breach of a descriptor (R246). -/
def CopyDesc.reason (d : CopyDesc) (c : Core) (off ndim reserved : Nat) : Option Nat :=
  let es : Int := d.bytes
  if ndim = 0 ∨ 16 < ndim ∨ !c.inSp (off + 32) (20 * ndim) then some 1
  else if 4 < d.esize then some 2
  else if 2 ^ 32 ≤ d.total then some 3
  else if 8 ≤ d.flags.toNat ∨ 64 ≤ d.evline ∨ 2 ^ 22 ≤ d.bar ∨ reserved ≠ 0 then some 4
  else if !ascending d.dims es then some 5
  else if d.src.toNat % d.bytes ≠ 0 ∨ d.dst.toNat % d.bytes ≠ 0 ∨
      (d.dims.any fun x => decide (1 < x.count) && (x.ss % es != 0 || x.ds % es != 0)) then some 6
  else if d.flags.getLsbD 0 ∧ (d.bar % 8 ≠ 0 ∨ !c.inSp d.bar 8) then some 7
  else none

/-- The offset of element n along its dimensions, index 0 fastest (R247). -/
def walkOffset (stride : Dim → Int) : List Dim → Nat → Int
  | [], _ => 0
  | x :: r, n => (n % x.count : Nat) * stride x + walkOffset stride r (n / x.count)

/-- The source of element n (R247). -/
def CopyDesc.srcAt (d : CopyDesc) (n : Nat) : DWord := d.src + BitVec.ofInt 64 (walkOffset Dim.ss d.dims n)
/-- The destination of element n (R247). -/
def CopyDesc.dstAt (d : CopyDesc) (n : Nat) : DWord := d.dst + BitVec.ofInt 64 (walkOffset Dim.ds d.dims n)

/-- The head of a channel, if it is a copy of a launch on the core: launch, flight, descriptor offset, state and whether it is
held. -/
def State.copyAt (s : State) (n ch : Nat) : Option (Nat × Nat × Nat × CopyState × Bool) :=
  match (s.core n).chan ch with
  | ⟨l, .copy fl d st held⟩ :: _ => if (s.res? n l).isSome then some (l, fl, d, st, held) else none
  | _ => none

/-- The head of a channel, if it is a copy of a launch that is not halted (R252). -/
def State.headCopy (s : State) (n ch : Nat) : Option (Nat × Nat × Nat × CopyState × Bool) :=
  (s.copyAt n ch).filter fun p => !s.away n p.1

/-- The state of the copy at a channel's head set. -/
def State.setCopy (s : State) (n ch : Nat) (st : CopyState) (held : Bool) : State :=
  s.modChan n ch fun q =>
    match q with
    | ⟨l, .copy fl d _ _⟩ :: r => ⟨l, .copy fl d st held⟩ :: r
    | q => q

/-- An address lies in a core's own pool: its offset. -/
def ownOffset (n : Nat) (r : Res) (ea : DWord) : Option Nat :=
  if isArray ea then
    match resolveArray n r ea with
    | some (.pool false c off) => if c = n then some off else none
    | _ => none
  else none

/-- CWP of a channel set (R247). -/
def State.setCwp (s : State) (n ch off : Nat) : State :=
  s.modCore n fun c => { c with cwp := c.cwp.mapIdx fun i v => if i = ch then BitVec.ofNat 32 off else v }

/-- A descriptor whose words cannot be read (R250, R283): its header, or its dimension records. -/
def State.descBad (s : State) (n off : Nat) : Bool :=
  let ndim := s.peek (poolAddr n (off + 17)) 1
  s.isBad (poolAddr n off) 32 || decide (ndim ≤ 16) && s.isBad (poolAddr n (off + 32)) (20 * ndim)

/-- COPY_START: the channel reads the descriptor and checks it (R246, R247); one with an error ends as FAULT (R250, R283). -/
def execCopyStart (core ch : Nat) (s : State) : Out :=
  match s.headCopy core ch with
  | some (l, _, off, .waiting, _) =>
    match s.res? core l with
    | none => .next s
    | some r =>
      let d := s.readDesc core off
      let ndim := s.peek (poolAddr core (off + 17)) 1
      if s.descBad core off then
        .next ((s.machineCheck 1 (s.coreWord core) off).setCopy core ch (.ended (some d) 0 0 1 0x0D) false)
      else
        let s := s.corrects (poolAddr core off) 32
        match d.reason (s.core core) off ndim (s.peek (poolAddr core (off + 24)) 8) with
        | some k => .next (s.setCopy core ch (.ended (some d) 0 0 3 k) false)
        | none =>
          let s := (s.corrects (poolAddr core (off + 32)) (20 * ndim)).setCopy core ch (.started d 0 0 Elem.fresh false) false
          match ownOffset core r d.dst with
          | some o => .next (s.setCwp core ch o)
          | none => .next s
  | _ => .next s

/-- A barrier object counted down (R248). -/
def State.countDown (s : State) (n : Nat) (d : CopyDesc) (k : Nat) : State :=
  if d.flags.getLsbD 0 ∧ k ≠ 0 then
    s.poke (poolAddr n d.bar) 8 (s.peek (poolAddr n d.bar) 8 + 2 ^ 64 - k % 2 ^ 64)
  else s

/-- A started copy as its channel works on it: its core and channel, its launch, its flight, the descriptor, the elements and
uncounted bytes so far, the element in progress, and whether CCANCEL has stopped it. -/
structure CopyRun where
  core : Nat
  ch : Nat
  launch : Nat
  id : Nat
  d : CopyDesc
  n : Nat
  u : Nat
  el : Elem
  cancelled : Bool

/-- The element in progress set. -/
def State.setElem (s : State) (c : CopyRun) (el : Elem) : State :=
  (s.setStage c.id .engine).setCopy c.core c.ch (.started c.d c.n c.u el c.cancelled) false

/-- Element n is delivered: the count, CWP, and the subtraction if the channel chooses this point (R247, R248). -/
def State.copied (s : State) (c : CopyRun) (r : Res) (subtract : Bool) : State :=
  let s := s.setStage c.id .engine
  let s := match ownOffset c.core r (c.d.dstAt c.n) with
    | some o => s.setCwp c.core c.ch (o + c.d.bytes)
    | none => s
  let u := c.u + c.d.bytes
  if subtract then
    (s.countDown c.core c.d u).setCopy c.core c.ch (.started c.d (c.n + 1) 0 Elem.fresh c.cancelled) false
  else s.setCopy c.core c.ch (.started c.d (c.n + 1) u Elem.fresh c.cancelled) false

/-- A copy ends as FAULT with n (R250). -/
def State.stopCopy (s : State) (c : CopyRun) (code : Byte) : State :=
  (s.setStage c.id .engine).setCopy c.core c.ch (.ended (some c.d) c.n c.u 1 code.toNat) false

/-- A copy ends as FAULT at an access that cannot be performed; an uncorrectable error is logged (R250, R283, R441). -/
def State.failCopy (s : State) (c : CopyRun) (code : Byte) (sub arg : Nat) : State :=
  (if code = 0x0D#8 then s.machineCheck sub (s.coreWord c.core) arg else s).stopCopy c code

/-- A held copy: its page's record is posted (R250). One that CCANCEL has stopped waits for no page and ends (R251). -/
def State.holdCopy (s : State) (c : CopyRun) (kind va : Nat) (leaf : DWord) : State :=
  if c.cancelled then s.setCopy c.core c.ch (.ended (some c.d) c.n c.u 2 0) false
  else
    (s.postRecord kind (s.asidOf c.core c.launch) va leaf).setCopy c.core c.ch (.started c.d c.n c.u c.el false) true

/-- The element is read, 16 bytes in halves (R247, R250, R360). -/
def State.copyRead (s : State) (c : CopyRun) (f : Flight) : State :=
  let len := c.d.bytes
  let (lo, k) := if len = 16 then (if c.el.low.isSome then (8, 8) else (0, 8)) else (0, len)
  let ea := c.d.srcAt c.n
  match s.readElement c.core c.launch ea len lo k (c.d.flags.getLsbD 1) with
  | .value v t =>
    t.setElem c (match c.el.low with
      | some x => { c.el with val := some (BitVec.ofNat 128 (x.toNat + 2 ^ 64 * v)) }
      | none =>
        if len = 16 then { c.el with low := some (BitVec.ofNat 64 v) } else { c.el with val := some (BitVec.ofNat 128 v) })
  | .ring core off => s.askRing c.id f core off len
  | .twin w => s.askTwin c.id w (.read len)
  | .page va leaf => s.holdCopy c 0 va leaf
  | .refused code sub arg => s.failCopy c code sub arg
  | .wait => s

/-- The element is written (R247, R250): to a pool at its port, 16 bytes in halves (R360), to a global address as a store does
(R161). -/
def State.copyWrite (s : State) (c : CopyRun) (r : Res) (v : QWord) (subtract : Bool) : State :=
  let len := c.d.bytes
  let ea := c.d.dstAt c.n
  match s.reach c.core c.launch ea len .write with
  | .pool core off =>
    if core != c.core && s.poolBusy c.core s.nextId core off then s
    else if decide (len < 4) && !s.away core c.launch && s.isBad (poolAddr core off) len then s.failCopy c 0x0D#8 1 off
    else if c.el.half then
      ((if s.away core c.launch then s else s.portWrite core (off + 8) 8 (v.toNat / 2 ^ 64) none).copied c r subtract)
    else
      let t := s.writePool c.core c.launch core off len v.toNat 1 3
      if len = 16 ∧ !s.away core c.launch then t.setElem c { c.el with half := true } else t.copied c r subtract
  | .home pa cacheable =>
    if s.bufferOpen (clusterOf c.core) then
      s.storeElement c.core c.launch ea len v.toNat pa cacheable c.ch c.n (some c.id)
    else s
  | .twin w => s.askTwin c.id w (.write len v 3)
  | .page va leaf => s.holdCopy c 1 va leaf
  | .refused code sub arg => s.failCopy c code sub arg
  | _ => s

/-- The write of the element in progress has begun: a halt waits for it (R252). -/
def State.writeBegun (s : State) (id : Nat) (f : Flight) (el : Elem) : Bool :=
  el.val.isSome && (el.half || (s.childOf id).isSome || f.stage != .engine)

/-- One step of the element in progress: an access of it, or the answer to one. -/
def State.copyStep (s : State) (c : CopyRun) (r : Res) (f : Flight) (subtract : Bool) : State :=
  match s.childOf c.id, f.stage, c.el.val with
  | some (i, g), _, _ =>
    (match g.stage with
     | .acked => (s.dropFlight i).copied c r subtract
     | .faulted => (s.dropFlight i).stopCopy c (g.word.setWidth 8)
     | _ => s)
  | none, .answered data, none => s.setElem c { c.el with val := some (BitVec.ofNat 128 (data.toNat % 2 ^ (8 * c.d.bytes))) }
  | none, .answered _, some _ => s.copied c r subtract
  | none, .refused code, _ => s.stopCopy c code
  | none, .engine, none => s.copyRead c f
  | none, .engine, some v => s.copyWrite c r v subtract
  | _, _, _ => s

/-- COPY_ELEMENT: the channel's current element is read, written, or delivered (R247, R250). While the launch halts, only an
element whose write has begun goes on (R252). -/
def execCopyElement (core ch : Nat) (subtract : Bool) (s : State) : Out :=
  match s.copyAt core ch with
  | some (l, fl, _, .started d n u el cancelled, held) =>
    match s.res? core l, Tbl.get? s.flights fl with
    | some r, some f =>
      let idle := el == Elem.fresh && f.stage == .engine
      if held ∨ d.total ≤ n ∨ (cancelled ∧ idle) ∨ (r.away ∧ !(r.phase == .halting && s.writeBegun fl f el)) then .next s
      else .next (s.copyStep ⟨core, ch, l, fl, d, n, u, el, cancelled⟩ r f subtract)
    | _, _ => .next s
  | _ => .next s

/-- The status pair of a copy (R249). -/
def copyStatus (status code n : Nat) : QWord := BitVec.ofNat 128 (status + 256 * code + 2 ^ 32 * n)

/-- A copy ends: its last subtraction, its status, and its signal; the channel goes on (R248, R249). A descriptor not read before
is read for its signal (log 74). -/
def State.endCopy (s : State) (core ch l fl off : Nat) (d : Option CopyDesc) (n u status code : Nat) : State :=
  let d := d.getD (s.readDesc core off)
  let s := ((s.modChan core ch List.tail).countDown core d u).setStage fl (.reply (copyStatus status code n) noFlags)
  if d.flags.getLsbD 2 then s.signal core l (d.evline % 64) else s

/-- COPY_END (R249): a copy whose elements are delivered, that CCANCEL has stopped between elements, or that has ended, reports
and leaves its channel. -/
def execCopyEnd (core ch : Nat) (s : State) : Out :=
  match s.headCopy core ch with
  | some (l, fl, off, .started d n u el cancelled, _) =>
    let idle := el == Elem.fresh && (match Tbl.get? s.flights fl with
      | some f => f.stage == .engine
      | none => true)
    if cancelled then (if idle then .next (s.endCopy core ch l fl off (some d) n u 2 0) else .next s)
    else if d.total ≤ n then .next (s.endCopy core ch l fl off (some d) n u 0 0) else .next s
  | some (l, fl, off, .ended d n u status code, _) => .next (s.endCopy core ch l fl off d n u status code)
  | _ => .next s

end Sys2Proof.Machine
end

