-- ==== Sys2Proof/Machine/Gather.lean ====
section
/-!
DEFINITION. The gather/scatter engine: GPOST and GSTAT, requests, probes, elements, NINV and the end of a request
(R337-R348).
-/

namespace Sys2Proof.Machine

/-- GPOST at issue (R337, R338). -/
def execGpost (d a : Reg) (s : State) : Out :=
  turn 1 true (hasRoom fun _ => [6]) (fun s n g slot m => do
    m.need [d, a]
    let x ← m.rd a
    m.wrOk d 1
    if x.extractLsb' 22 10 ≠ 0#10 then .error (.reserved 0)
    else if x.toNat % 64 ≠ 0 then .error (.misaligned x.toNat)
    else if !(s.core n).inSp x.toNat 64 then .error (.protection 4 x.toNat)
    else
      .ok ((s.modMicro n slot fun m => m.setPend d 1).addFifo (g.flight s n slot m true d 1 0#64 (.gpost x.toNat) .fifo))) s

/-- GSTAT at issue (R337, R346). -/
def execGstat (d a : Reg) (s : State) : Out :=
  turn 1 true always (fun s n g slot m => do
    m.need [d, a]
    let x ← m.rd a
    m.wrOk d 2
    .ok ((s.modMicro n slot fun m => m.setPend d 2).addFifo (g.flight s n slot m true d 2 0#64 (.gstat x) .fifo))) s

/-- What the launch keeps of its 64 most recent posts: sequence number, STATUS and N (R346). -/
def Res.logGte (r : Res) (seq : Nat) (status : Word) (n : Nat) : Res :=
  { r with gteLog := r.gteLog.map fun e => if e.1 = seq then (seq, status, n) else e }

/-- GPOST leaves the store FIFO: its request enters the queue and the ticket is on its way (R338). -/
def State.enterGpost (s : State) (n id : Nat) (f : Flight) (desc : Nat) : State :=
  match s.res? n f.launch with
  | none => s
  | some r =>
    let seq := r.gteSeq
    let s := s.modRes n f.launch fun r =>
      { r with
        gteSeq := (seq + 1) % 2 ^ 16
        gteLog := (r.gteLog ++ [(seq, 0#32, 0)]).drop (r.gteLog.length + 1 - 64) }
    let s := s.modCore n fun c => { c with gteq := c.gteq ++ [⟨f.launch, .req ⟨f.launch, seq, desc, f.issuer⟩⟩] }
    (s.popFifo n id).setStage id (.reply (BitVec.ofNat 128 (2 ^ 31 + seq)) noFlags)

/-- The stores of a core's scatter that are on their way to their homes, or have met a fault there (R341, R344). -/
def State.scatters (s : State) (n : Nat) : List (Nat × Flight) :=
  s.flights.filter fun p => p.2.core == n && p.2.agent == .engine && p.2.off == 6

/-- The leading elements a started request has performed (R346). -/
def State.gtePerformed (s : State) (n : Nat) (g : GteRun) : Nat :=
  (s.scatters n).foldl (fun k p => if p.2.stage == .acked then k else min k p.2.fig.toNat) g.i

/-- The state GSTAT returns (R346): UNKNOWN for a ticket outside the 64, the elements performed so far for one that
runs. -/
def State.gteState (s : State) (n l : Nat) (ticket : Word) : Nat × Nat :=
  match s.res? n l with
  | none => (5, 0)
  | some r =>
    if ticket.toNat / 2 ^ 16 ≠ 2 ^ 15 then (5, 0)
    else
      match r.gteLog.find? fun e => e.1 == ticket.toNat % 2 ^ 16 with
      | none => (5, 0)
      | some (seq, st, k) =>
        match Tbl.get? (s.cluster (clusterOf n)).gte n with
        | some run => if run.req.launch = l ∧ run.req.seq = seq then (st.toNat, s.gtePerformed n run) else (st.toNat, k)
        | none => (st.toNat, k)

/-- GSTAT leaves the store FIFO (R337, R346). -/
def State.performGstat (s : State) (n id : Nat) (f : Flight) (ticket : Word) : State :=
  let (st, k) := s.gteState n f.launch ticket
  (s.popFifo n id).setStage id (.reply (BitVec.ofNat 128 (st + 2 ^ 32 * k)) noFlags)

/-! Descriptors (R339). -/

/-- A field of a started request's descriptor. -/
def GteRun.field (g : GteRun) (off len : Nat) : Nat := natOfBytes ((g.bytes.drop off).take len)
/-- OP. -/
def GteRun.op (g : GteRun) : Nat := g.field 0 1
/-- Bytes of an element. -/
def GteRun.elem (g : GteRun) : Nat := 2 ^ g.field 1 1
/-- Bytes of an index. -/
def GteRun.isize (g : GteRun) : Nat := if g.field 2 1 = 0 then 4 else 8
/-- A flag. -/
def GteRun.flag (g : GteRun) (i : Nat) : Bool := (g.field 3 1).testBit i
/-- COUNT. -/
def GteRun.count (g : GteRun) : Nat := g.field 20 4
/-- STRIDE. -/
def GteRun.stride (g : GteRun) : Int := (BitVec.ofNat 32 (g.field 16 4)).toInt

/-- DATA's breach of reason 6 (R340). -/
def GteRun.badData (g : GteRun) (n : Nat) (r : Res) : Bool :=
  let ea : DWord := BitVec.ofNat 64 (g.field 32 8)
  let off := ea22 ea
  match if isArray ea then resolveArray n r ea else none with
  | some (.pool twin c _) =>
    twin || clusterOf c != clusterOf n || off % g.elem != 0 || decide (Config.poolBytes < off + g.count * g.elem)
  | _ => true

/-- The first breach of a descriptor (R340). An NINV has no index list and no DATA: rows 4 and 6 judge those fields of one that
are not the zero that row 7 asks for (DEDUCED, log 75). -/
def GteRun.reason (g : GteRun) (n : Nat) (c : Core) (r : Res) : Option Nat :=
  let es := g.field 1 1
  let base : DWord := BitVec.ofNat 64 (g.field 8 8)
  let idx := g.field 24 4
  let combine := decide (2 ≤ g.op) && decide (g.op ≤ 5)
  let minmax := g.op == 4 || g.op == 5
  if 6 < g.op ∨ 32 ≤ g.field 3 1 ∨ 64 ≤ g.field 4 1 ∨ g.field 5 3 ≠ 0 ∨ 2 ^ 22 ≤ idx ∨ g.field 28 4 ≠ 0 ∨
      g.field 40 24 ≠ 0 then some 1
  else if 4 < es ∨ (combine ∧ es ≠ 2 ∧ es ≠ 3) ∨ ((g.flag 2 ∨ g.flag 3) ∧ !minmax) ∨ (g.flag 2 ∧ g.flag 3) ∨
      (g.flag 4 ∧ g.op ≠ 6) then some 2
  else if 2 ^ 24 < g.count then some 3
  else if 1 < g.field 2 1 ∨ ((g.op ≠ 6 ∨ idx ≠ 0) ∧ !c.inSp idx (g.count * g.isize)) ∨ idx % g.isize ≠ 0 then some 4
  else if isArray base ∨ canonical base = false ∨ base.toNat % g.elem ≠ 0 ∨ g.stride % (g.elem : Int) ≠ 0 then some 5
  else if (g.op ≠ 6 ∨ g.field 32 8 ≠ 0) ∧ g.badData n r then some 6
  else if g.op = 6 ∧ (base.toNat % 64 ≠ 0 ∨ es ≠ 0 ∨ g.field 2 1 ≠ 0 ∨ g.field 16 4 ≠ 0 ∨ idx ≠ 0 ∨ g.field 32 8 ≠ 0) then
    some 7
  else none

/-! Requests. -/

/-- STATUS of an ended request: its state and its code or reason (R345). -/
def gteStatus (state code : Nat) : Word := BitVec.ofNat 32 (state + 256 * code)

/-- The request in progress of a core set. -/
def State.setRun (s : State) (n : Nat) (g : GteRun) : State :=
  s.modCluster (clusterOf n) fun c => { c with gte := Tbl.set c.gte n g }

/-- GTE_REQUEST_START: the request at the head of a core's queue starts; its descriptor is read once and checked
(R338, R340), or has an error (R283). -/
def execGteRequestStart (core : Nat) (s : State) : Out :=
  let cl := s.cluster (clusterOf core)
  match (s.core core).gteq with
  | ⟨l, .req q⟩ :: rest =>
    match s.res? core l with
    | none => .next s
    | some r =>
      if r.away || Tbl.has cl.gte core || !cl.powered then .next s
      else
        let g : GteRun :=
          { req := q, bytes := Memory.readN s.mem (poolAddr core q.desc) 64, i := 0, probed := none, held := false
            ended := none }
        let bad := s.isBad (poolAddr core q.desc) 64
        let g :=
          if bad then { g with ended := some (gteStatus 3 0x0D, 0) }
          else
            match g.reason core (s.core core) r with
            | some k => { g with ended := some (gteStatus 4 k, 0) }
            | none => if g.count = 0 ∧ g.op ≠ 6 then { g with ended := some (gteStatus 2 0, 0) } else g
        let s := if bad then s.machineCheck 1 (s.coreWord core) q.desc else s.corrects (poolAddr core q.desc) 64
        .next (((s.modCore core fun c => { c with gteq := rest }).setRun core g).modRes core l fun r =>
          r.logGte q.seq 1#32 0)
  | _ => .next s

/-- The table address of element i, whose index is `x` (R341). -/
def GteRun.addr (g : GteRun) (x : Nat) : DWord :=
  let xi : Int := if g.isize = 4 then (x : Int) else (BitVec.ofNat 64 x).toInt
  BitVec.ofNat 64 (g.field 8 8) + BitVec.ofInt 64 (xi * g.stride)

/-- The pool offset of index i (R341). -/
def GteRun.idxAt (g : GteRun) : Nat := g.field 24 4 + g.i * g.isize

/-- The table address of element i, by the index read for it or by the one in the poster's pool (R341). -/
def State.gteAddr (s : State) (n : Nat) (g : GteRun) : DWord := g.addr (g.idx.getD (s.peek (poolAddr n g.idxAt) g.isize))

/-- The TLU's holds of a core's request are released (R343). -/
def State.releaseHolds (s : State) (n : Nat) : State :=
  { s with tlus := s.tlus.map fun t => { t with holds := t.holds.filter fun h => h.1 != n } }

/-- The request ends: its state, its code and its N (R341, R343, R344). -/
def State.endRun (s : State) (n : Nat) (g : GteRun) (state code k : Nat) : State :=
  (s.setRun n { g with ended := some (gteStatus state code, k), probed := none }).releaseHolds n

/-- The request ends as FAULT at its next element; an uncorrectable error is logged (R344, R441). -/
def State.failRun (s : State) (n : Nat) (g : GteRun) (code : Byte) (sub arg : Nat) : State :=
  (if code = 0x0D#8 then s.machineCheck sub (s.coreWord n) arg else s).endRun n g 3 code.toNat g.i

/-- The core's request in progress, where it may issue: its launch on the core, and the request. A pre-emption of the launch
does not stop it (R348); the fault of a store it has issued does (R344). -/
def State.gteRun? (s : State) (n : Nat) : Option (Res × GteRun) :=
  match Tbl.get? (s.cluster (clusterOf n)).gte n with
  | none => none
  | some g =>
    match s.res? n g.req.launch with
    | none => none
    | some r =>
      if g.held || g.ended.isSome || g.asked || (s.scatters n).any fun p => p.2.stage == .faulted then none else some (r, g)

/-- The access kind of a request's table (R343). -/
def GteRun.need (g : GteRun) : Need := if g.op = 0 then .read else .write

/-- Element i of DATA (R341): its core and pool offset. -/
def GteRun.dataAt (g : GteRun) (n : Nat) (r : Res) : Nat × Nat :=
  match resolveArray n r (BitVec.ofNat 64 (g.field 32 8)) with
  | some (.pool _ c off) => (c, off + g.i * g.elem)
  | _ => (n, 0)

/-- A read of a pool for the request: at the port, or through the spill ring of the launch while it is halted there (R157, R293,
R341, R348). -/
def State.gteRead (s : State) (n l core off lo len k : Nat) : Fetch :=
  if !s.portOk core l off len then .refused 0x04#8 4 off
  else if s.away core l then (if s.ringFull core l then .wait else .ring core off)
  else s.readPool n core (off + lo) k

/-- The read of the request stands in a spill ring; its holds are released, and the page is probed again before the access
(R293, R343). -/
def State.gteAsk (s : State) (n : Nat) (g : GteRun) (core off len : Nat) : State :=
  ((s.catchSpill core g.req.launch (.engineRead n none off len)).setRun n { g with asked := true, probed := none }).releaseHolds n

/-- The request goes on with the index of its next element, read once (R341, R344), or ends where its own state has an error
(R350). -/
def gteIndexed (core : Nat) (run : State → Res → GteRun → Nat → State) (s : State) : Out :=
  match s.gteRun? core with
  | none => .next s
  | some (r, g) =>
    if g.bad then .next (s.failRun core g 0x0D#8 7 g.req.desc)
    else
      match g.idx with
      | some x => .next (run s r g x)
      | none =>
        match s.gteRead core g.req.launch core g.idxAt 0 g.isize g.isize with
        | .value x t => .next (run t r { g with idx := some x } x)
        | .ring c off => .next (s.gteAsk core g c off g.isize)
        | .refused code sub arg => .next (s.failRun core g code sub arg)
        | _ => .next s

/-- The page of a table address is probed (R343): the translation is held, and kept for the request's accesses to that page. -/
def State.gteProbe (s : State) (n : Nat) (r : Res) (g : GteRun) (ea : DWord) : State :=
  let va := ea.toNat % 2 ^ 48
  let s := s.releaseHolds n
  match s.translate r.asid va g.need with
  | .ok pa c =>
    if g.need = .write ∧ s.isSealed pa then s.endRun n g 3 0x0A g.i
    else
      ((s.cacheLeaf r.asid va g.need).setRun n { g with probed := some (va / 0x1000, pa - va % 0x1000, c) }).modTlu (tluOf va)
        fun t => { t with holds := t.holds ++ [(n, r.asid, va / 0x1000)] }
  | .fail leaf =>
    (s.postRecord (if g.op = 0 then 0 else 1) r.asid va leaf).setRun n { g with held := true, probed := none }
  | .noTables => s.endRun n g 3 5 g.i

/-- GTE_PROBE: the page of the next element is probed, before any access to it (R341, R343). -/
def execGteProbe (core : Nat) (s : State) : Out :=
  gteIndexed core (fun s r g x =>
    let ea := g.addr x
    let va := ea.toNat % 2 ^ 48
    if g.op = 6 then s
    else if isArray ea ∨ canonical ea = false then s.endRun core g 3 4 g.i
    else if (g.probed.map fun p => p.1) = some (va / 0x1000) then s.setRun core g
    else s.gteProbe core r g ea) s

/-- Element i is performed or on its way: the next one, or the end (R341). The hold stays while the next element may lie on the
page. -/
def State.gteNext (s : State) (n : Nat) (g : GteRun) : State :=
  let g' := { g with i := g.i + 1, idx := none, el := Elem.fresh }
  if g'.i = g.count then s.endRun n g' 2 0 g'.i else s.setRun n g'

/-- What an access of an element comes to: a new element in progress, the next element, a fault of the request, a read that a
spill ring has, or nothing yet. -/
inductive GteAct where
  | goes (s : State) (el : Elem)
  | done (s : State)
  | fails (code : Byte) (sub arg : Nat)
  | asks (core off : Nat)
  | waits

/-- One access of an element whose page is probed (R341, R343, R344): `fetch` gives the state's read of its value, `put` its
write, with the table address, its physical address, whether its page is cacheable, and the core and offset of DATA. -/
def gteElement (core op : Nat) (fetch put : State → GteRun → DWord → Nat → Bool → Nat → Nat → GteAct) (s : State) : Out :=
  gteIndexed core (fun s r g x =>
    let ea := g.addr x
    let va := ea.toNat % 2 ^ 48
    match g.probed with
    | some (page, base, c) =>
      if g.op ≠ op ∨ page ≠ va / 0x1000 ∨ isArray ea ∨ canonical ea = false then s.setRun core g
      else
        let (dc, off) := g.dataAt core r
        match (if g.el.val.isSome then put else fetch) s g ea (base + va % 0x1000) c dc off with
        | .goes t el => t.setRun core { g with el := el }
        | .done t => t.gteNext core g
        | .fails code sub arg => s.failRun core g code sub arg
        | .asks dc off => s.gteAsk core g dc off g.elem
        | .waits => s.setRun core g
    | none => s.setRun core g) s

/-- Which bytes of an element are accessed next: 16 bytes in halves (R360). -/
def GteRun.part (g : GteRun) : Nat × Nat :=
  if g.elem = 16 then (if g.el.low.isSome then (8, 8) else (0, 8)) else (0, g.elem)

/-- What the value just read makes of the element in progress. -/
def GteRun.read (g : GteRun) (v : Nat) : Elem :=
  match g.el.low with
  | some x => { g.el with val := some (BitVec.ofNat 128 (x.toNat + 2 ^ 64 * v)) }
  | none =>
    if g.elem = 16 then { g.el with low := some (BitVec.ofNat 64 v) } else { g.el with val := some (BitVec.ofNat 128 v) }

/-- The outcome of a read, as an act of the element. -/
def GteRun.took (g : GteRun) : Fetch → GteAct
  | .value v t => .goes t (g.read v)
  | .ring core off => .asks core off
  | .refused code sub arg => .fails code sub arg
  | _ => .waits

/-- The value an element carries. -/
def GteRun.val (g : GteRun) : Nat := (g.el.val.getD 0#128).toNat

/-- A gather's table element is read through the cluster's cache, of kind 01 with STREAM (R341). -/
def gatherRead (core : Nat) (s : State) (g : GteRun) (ea : DWord) (pa : Nat) (c : Bool) (dc off : Nat) : GteAct :=
  let (lo, k) := g.part
  if !s.portOk dc g.req.launch off g.elem then .fails 0x04#8 4 off
  else g.took (s.readGlobal core g.req.launch (ea + BitVec.ofNat 64 lo) k (pa + lo) c (g.flag 0))

/-- A gather's value is written to DATA (R341, R344, R348). -/
def gatherWrite (core : Nat) (s : State) (g : GteRun) (_ : DWord) (_ : Nat) (_ : Bool) (dc off : Nat) : GteAct :=
  let l := g.req.launch
  if !s.portOk dc l off g.elem then .fails 0x04#8 4 off
  else if s.away dc l then (if s.ringFull dc l then .waits else .done (s.writePool core l dc off g.elem g.val 2 4))
  else if dc != core && s.poolBusy core s.nextId dc off then .waits
  else if decide (g.elem < 4) && s.isBad (poolAddr dc off) g.elem then .fails 0x0D#8 1 off
  else if g.el.half then .done (s.portWrite dc (off + 8) 8 (g.val / 2 ^ 64) none)
  else
    let t := s.writePool core l dc off g.elem g.val 2 4
    if g.elem = 16 then .goes t { g.el with half := true } else .done t

/-- A DATA element is read (R341, R342). -/
def dataRead (core : Nat) (s : State) (g : GteRun) (_ : DWord) (_ : Nat) (_ : Bool) (dc off : Nat) : GteAct :=
  let (lo, k) := g.part
  g.took (s.gteRead core g.req.launch dc off lo g.elem k)

/-- GTE_GATHER: a table element is read, or its value written to DATA (R341). -/
def execGteGather (core : Nat) (s : State) : Out := gteElement core 0 (gatherRead core) (gatherWrite core) s

/-- GTE_SCATTER: a DATA element is read, or its value stored to the table (R161, R329, R341). -/
def execGteScatter (core : Nat) (s : State) : Out :=
  gteElement core 1 (dataRead core) (fun s g ea pa c _ _ =>
    if s.bufferOpen (clusterOf core) then .done (s.storeElement core g.req.launch ea g.elem g.val pa c 6 g.i none)
    else .waits) s

/-- A location's earlier stores and atomics of the cluster, or requests of the core, are still on their way to its home (R329,
R353, R362). -/
def State.locationBusy (s : State) (n pa : Nat) : Bool :=
  s.homeBusy n s.nextId pa ||
    (s.cluster (clusterOf n)).wtb.any fun id =>
      match Tbl.get? s.flights id with
      | some f =>
        (match f.stage with
         | .home q _ => decide (q / 64 = pa / 64)
         | _ => false)
      | none => false

/-- A combining element: a DATA element is read, or an atomic with it performed at the home (R164, R341, R344). -/
def gteCombine (core op : Nat) (f : GteRun → Nat → Nat → Nat) (s : State) : Out :=
  gteElement core op (dataRead core) (fun s g ea pa _ _ _ =>
    if s.locationBusy core pa then .waits
    else if s.isSealed pa then .fails 0x0A#8 0 (ea22 ea)
    else if s.isBad pa g.elem then .fails 0x0D#8 4 (ea22 ea)
    else
      .done (((s.corrects pa g.elem).invalidateLine (clusterOf core) (s.asidOf core g.req.launch)
        (ea.toNat % 2 ^ 48 / 64)).poke pa g.elem (f g (s.peek pa g.elem) g.val))) s

/-- The floating-point format of a combining element. -/
def GteRun.fmt (g : GteRun) : Fmt := if g.elem = 8 then fp64 else fp32

/-- The smaller or larger of two elements: signed, unsigned with UNS, minimumNumber or maximumNumber with FP (R341). -/
def GteRun.pick (g : GteRun) (larger : Bool) (a b : Nat) : Nat :=
  if g.flag 3 then (fpMinMax g.fmt larger a b).1
  else if g.flag 2 then (if larger then max a b else min a b)
  else
    let w := 8 * g.elem
    let le := (BitVec.ofNat w a).toInt ≤ (BitVec.ofNat w b).toInt
    if larger then (if le then b else a) else (if le then a else b)

/-- GTE_SADD (R341). -/
def execGteSadd (core : Nat) (s : State) : Out := gteCombine core 2 (fun _ a b => a + b) s
/-- GTE_SFADD (R341). -/
def execGteSfadd (core : Nat) (s : State) : Out := gteCombine core 3 (fun g a b => (fpAdd g.fmt .rne a b).1) s
/-- GTE_SMIN (R341). -/
def execGteSmin (core : Nat) (s : State) : Out := gteCombine core 4 (fun g a b => g.pick false a b) s
/-- GTE_SMAX (R341). -/
def execGteSmax (core : Nat) (s : State) : Out := gteCombine core 5 (fun g a b => g.pick true a b) s

/-- GTE_NINV: node lines of a range, or all of the ASID, are dropped in this cluster or in every powered one (R347). -/
def execGteNinv (core : Nat) (s : State) : Out :=
  match s.gteRun? core with
  | none => .next s
  | some (r, g) =>
    if g.op ≠ 6 then .next s
    else if g.bad then .next (s.failRun core g 0x0D#8 7 g.req.desc)
    else
      let first := g.field 8 8 % 2 ^ 48 / 64
      let drop (s : State) (cl : Nat) : State := s.dropLines cl fun x =>
        x.node && x.asid == r.asid && (g.count == 0 || (decide (first ≤ x.vline) && decide (x.vline < first + g.count)))
      let cls := if g.flag 4 then (List.range 10).filter fun cl => (s.cluster cl).powered else [clusterOf core]
      .next ((cls.foldl drop s).endRun core g 2 0 g.count)

/-- What ends a request (R344, R345): the fault of the lowest element whose store met one, once every store it issued is
performed, with AFTER where a later element was issued; else its own end. -/
def State.gteEnd? (s : State) (n : Nat) (g : GteRun) : Option (Word × Nat) :=
  let out := s.scatters n
  let faults := out.filter fun p => p.2.stage == .faulted
  if out.any fun p => p.2.stage != .faulted && p.2.stage != .acked then none
  else
    match faults with
    | [] => g.ended
    | p :: r =>
      let q := r.foldl (fun (b x : Nat × Flight) => if x.2.fig.toNat < b.2.fig.toNat then x else b) p
      let i := q.2.fig.toNat
      some (gteStatus 3 q.2.word.toNat + (if i + 1 < g.i then 0x10000#32 else 0#32), i)

/-- A write of STATUS or N in the poster's descriptor (R345), which R370 has logged though it goes to the poster's own pool: the engine
is the cluster's (DEDUCED, log 86). -/
def State.statusWrite (s : State) (n off v : Nat) : State := s.portWrite n off 4 v (some ⟨s.coreWord n, 4⟩)

/-- GTE_REQUEST_END: STATUS and N are written into the poster's descriptor, and its line signalled (R345). -/
def execGteRequestEnd (core : Nat) (s : State) : Out :=
  match Tbl.get? (s.cluster (clusterOf core)).gte core with
  | none => .next s
  | some g =>
    match s.gteEnd? core g with
    | none => .next s
    | some (status, k) =>
      let l := g.req.launch
      if s.ringFull core l then .next s
      else
        let s := (s.scatters core).foldl (fun t p => t.dropFlight p.1) (s.releaseHolds core)
        let s := s.modCluster (clusterOf core) fun c => { c with gte := Tbl.erase c.gte core }
        let s :=
          if s.away core l then
            s.catchSpill core l (.engineWrite 3 (s.coreWord core) (g.req.desc + 40)
              (bytesOfNat 4 status.toNat ++ bytesOfNat 4 k))
          else (s.statusWrite core (g.req.desc + 40) status.toNat).statusWrite core (g.req.desc + 44) k
        let s := s.modRes core l fun r => r.logGte g.req.seq status k
        .next (if g.flag 1 then s.signal core l (g.field 4 1 % 64) else s)

end Sys2Proof.Machine
end

