-- ==== Sys2Proof/Machine/Traverse.lean ====
section
/-!
DEFINITION. The traversal processor's queue and hit queues: TPOST, HPOP, HCOUNT, TCFG and TCANCEL, admission, appends,
and the end of a query (R296-R304, R315-R317, R319, R321, R455).
-/

namespace Sys2Proof.Machine

/-! The TRAV instructions at issue (R301, R302). -/

/-- TPOST at issue (R301). -/
def execTpost (d a : Reg) (s : State) : Out :=
  turn 1 true (hasRoom fun _ => [5]) (fun s n g slot m => do
    m.need [d, a]
    let x ← m.rd a
    m.wrOk d 2
    if x.extractLsb' 22 10 ≠ 0#10 then .error (.reserved 0)
    else if x.toNat % 128 ≠ 0 then .error (.misaligned x.toNat)
    else if !(s.core n).inSp x.toNat 128 then .error (.protection 4 x.toNat)
    else
      .ok ((s.modMicro n slot fun m => m.setPend d 2).addFifo (g.flight s n slot m true d 2 0#64 (.tpost x.toNat) .fifo))) s

/-- The number of a hit queue from its register (R301). -/
def hitQueueNo (x : Word) : Except Flt Nat :=
  if x.extractLsb' 3 29 ≠ 0#29 then .error (.reserved 0) else .ok x.toNat

/-- HCOUNT at issue (R301). -/
def execHcount (d a : Reg) (s : State) : Out :=
  turn 1 true always (fun s n g slot m => do
    m.need [d, a]
    let x ← m.rd a
    m.wrOk d 2
    let q ← hitQueueNo x
    .ok ((s.modMicro n slot fun m => m.setPend d 2).addFifo (g.flight s n slot m true d 2 0#64 (.hcount q) .fifo))) s

/-- The control word of a TCFG is legal (R302). -/
def tcfgControlOk (w : Word) : Bool :=
  let first := (w.extractLsb' 16 10).toNat
  let count := (w.extractLsb' 0 11).toNat
  match (w.extractLsb' 30 2).toNat with
  | 0 => w.extractLsb' 0 30 == 0#30
  | 1 => w.extractLsb' 26 4 == 0#4 && w.extractLsb' 11 5 == 0#5 && decide (1 ≤ count) && decide (count ≤ 1024) &&
      decide (first + count ≤ 1024)
  | 2 => w.extractLsb' 3 27 == 0#27
  | _ => false

/-- Bytes and alignment of a TCFG's source (R302). -/
def tcfgSource (w : Word) : Nat × Nat :=
  match (w.extractLsb' 30 2).toNat with
  | 0 => (512, 64)
  | 1 => (4 * (w.extractLsb' 0 11).toNat, 4)
  | _ => (16, 16)

/-- TCFG at issue (R302). -/
def execTcfg (a b : Reg) (s : State) : Out :=
  turn 1 false (hasRoom fun _ => [5]) (fun s n g slot m => do
    m.need [a, b]
    let x ← m.rd a
    let w ← m.rd b
    if x.extractLsb' 22 10 ≠ 0#10 ∨ !tcfgControlOk w then .error (.reserved 0)
    else
      let (len, align) := tcfgSource w
      if x.toNat % align ≠ 0 then .error (.misaligned x.toNat)
      else if !(s.core n).inSp x.toNat len then .error (.protection 4 x.toNat)
      else .ok (s.addFifo (g.flight s n slot m false 0#6 0 0#64 (.tcfg x.toNat w) .fifo))) s

/-- TCANCEL at issue (R304). -/
def execTcancel (a : Reg) (s : State) : Out :=
  turn 1 false always (fun s n g slot m => do
    m.need [a]
    let x ← m.rd a
    .ok (s.addFifo (g.flight s n slot m false 0#6 0 0#64 (.tcancel x) .fifo))) s

/-- The checks of HPOP on one member (R301): the queue it names. -/
def Micro.hpopCheck (m : Micro) (d a : Reg) : Except Flt Nat := do
  m.need [d, a]
  let x ← m.rd a
  m.wrOk d 8
  hitQueueNo x

/-- HPOP at issue (R301, R317): each member is checked; then each set of the group, in ascending order of first slots,
sends one HPOP with its active lanes in ascending LANE. -/
def execHpop (d a : Reg) (s : State) : Out :=
  match s.seat? with
  | none => .next s
  | some (n, k, _, g) =>
    let t := s.foldMembers n g 4 none fun t slot m => do
      let _ ← m.hpopCheck d a
      .ok (t.modMicro n slot fun m => m.setPend d 8)
    let live := (t.core n).standing g
    let send (t : State) (set : List Nat) : State :=
      let lanes := set.filter fun slot => live.contains slot
      match lanes.head? with
      | none => t
      | some first =>
        let hq := match ((s.core n).micro first).hpopCheck d a with
          | .ok q => q
          | .error _ => 0
        t.addFifo
          { core := n, launch := g.launch, agent := .micro,
            who := lanes.map fun slot => ⟨slot, ((t.core n).micro slot).gen, true, false⟩
            fig := g.fig, off := g.off, word := s.curWord, ll := g.ll, dst := d, dstN := 8, ea := 0#64, sent := 0,
            op := .hpop hq, stage := .fifo }
    let t := (((s.core n).sets g.launch)).foldl send t
    .next (t.modCore n fun c => c.endTurn k g 4 1 true)

/-! Hit queues (R303, R315, R317). -/

/-- A hit queue of a launch on a core, if it is configured. -/
def Res.hitq (r : Res) (q : Nat) : Option HitQ := (r.hitqs[q]?).getD none

/-- A hit queue set. -/
def Res.setHitq (r : Res) (q : Nat) (h : HitQ) : Res :=
  { r with hitqs := r.hitqs.mapIdx fun i v => if i = q then some h else v }

/-- A slot of the ring is free (R317). -/
def HitQ.room (h : HitQ) : Bool := decide (h.tail - h.head < h.cap)

/-- Untaken records. -/
def HitQ.untaken (h : HitQ) : Nat := (h.index.filter fun e => !e.2.2).length

/-- The records HPOP takes (R317): their places in the index, oldest first, at most `room` of them, and none whose query
has an older untaken record. `blocked` are the queries already passed over. -/
def takeHits (key : Nat) : List (Nat × Nat × Bool) → Nat → Nat → List Nat → List Nat
  | [], _, _, _ => []
  | (k, e, taken) :: r, i, room, blocked =>
    if room = 0 then []
    else if taken then takeHits key r (i + 1) room blocked
    else if k = key ∧ !blocked.contains e then i :: takeHits key r (i + 1) (room - 1) blocked
    else takeHits key r (i + 1) room (e :: blocked)

/-- HEAD advances over taken records (R317). -/
def HitQ.advance (h : HitQ) : HitQ :=
  let gone := (h.index.takeWhile fun e => e.2.2).length
  { h with head := h.head + gone, index := h.index.drop gone }

/-- What an HPOP of some lanes gives each, and the queue after it (R317). -/
def State.popHits (s : State) (n : Nat) (h : HitQ) (lanes : Nat) : HitQ × List (List Word) :=
  match h.index.find? fun e => !e.2.2 with
  | none => (h, [])
  | some (key, _, _) =>
    let took := takeHits key h.index 0 lanes []
    let recs := took.map fun i =>
      (List.range 8).map fun w =>
        BitVec.ofNat 32 (s.peek (poolAddr n (h.ring + 32 * ((h.head + i) % max 1 h.cap) + 4 * w)) 4)
    (HitQ.advance { h with index := h.index.mapIdx fun i e => if took.contains i then (e.1, e.2.1, true) else e }, recs)

/-- The empty record (R317). -/
def emptyHit : List Word := 0xFFFFFFFF#32 :: List.replicate 7 0#32

/-- One lane receives a record of eight words (R317); its pending bits clear and its await bit is satisfied. -/
def State.deliverHit (s : State) (f : Flight) (w : Who) (ws : List Word) : State :=
  s.modCore f.core fun c =>
    match c.liveAt w.slot w.gen with
    | none => c
    | some m =>
      let m' := (m.setGroup f.dst ws).clearPend f.dst 8
      let m' := if w.awaited then { m' with await := m'.await &&& ~~~(1#8 <<< f.ll) } else m'
      let c := c.setMicro w.slot m'
      (if m.await ≠ 0#8 ∧ m'.await = 0#8 then c.stamp w.slot else c).refresh w.slot

/-- HPOP leaves the store FIFO and is performed (R301, R317). -/
def State.performHpop (s : State) (n id : Nat) (f : Flight) (hq : Nat) : State :=
  let found := match s.res? n f.launch with
    | some r => r.hitq hq
    | none => none
  let (s, recs) := match found with
    | none => (s, [])
    | some h =>
      let (h, recs) := s.popHits n h f.who.length
      (s.modRes n f.launch fun r => r.setHitq hq h, recs)
  let s := (f.who.mapIdx fun i w => (i, w)).foldl (fun t p => t.deliverHit f p.2 (recs.getD p.1 emptyHit)) (s.popFifo n id)
  (s.dropFlight id).settle

/-- A query names a hit queue of its launch: a sub-query counts toward none (R301, R455). -/
def Query.names (q : Query) (l hq : Nat) : Bool := q.launch == l && q.origin.isNone && recNat q.record 2 1 % 8 == hq

/-- HCOUNT leaves the store FIFO and is performed (R301). -/
def State.performHcount (s : State) (n id : Nat) (f : Flight) (hq : Nat) : State :=
  let v := match s.res? n f.launch with
    | some r =>
      match r.hitq hq with
      | some h => h.untaken + 2 ^ 32 * ((s.core n).queries.filter fun p => p.2.names f.launch hq).length
      | none => 0
    | none => 0
  (s.popFifo n id).setStage id (.reply (BitVec.ofNat 128 v) noFlags)

/-- A record is appended to a hit queue: its bytes at the owning port, its key and query in the index, its signal (R315,
R317). -/
def State.appendHit (s : State) (n l hq entry : Nat) (h : HitQ) (rec : List Byte) : State :=
  let s := s.write (poolAddr n (h.ring + 32 * (h.tail % max 1 h.cap))) rec
  let s := s.modRes n l fun r =>
    r.setHitq hq { h with tail := h.tail + 1, index := h.index ++ [(recNat rec 4 2, entry, false)] }
  if h.evEn then s.signal n l h.ev else s

/-! Queries. -/

/-- A query of a core. -/
def State.query? (s : State) (n e : Nat) : Option Query := Tbl.get? (s.core n).queries e

/-- A query set. -/
def State.setQuery (s : State) (n e : Nat) (q : Query) : State :=
  s.modCore n fun c => { c with queries := Tbl.set c.queries e q }

/-- A query ends: its entry is free (R298). -/
def State.freeQuery (s : State) (n e : Nat) : State := s.modCore n fun c => { c with queries := Tbl.erase c.queries e }

/-- The hit queue of a query. -/
def Query.hq (q : Query) : Nat := recNat q.record 2 1 % 8
/-- MODE bits: 0 KBEST, 1 FILTER, 2 FRESH (R299). -/
def Query.mode (q : Query) (i : Nat) : Bool := (recNat q.record 3 1).testBit i
/-- K (R299). -/
def Query.k (q : Query) : Nat := recNat q.record 4 2
/-- SPILL and SPILLN (R299). -/
def Query.spillAt (q : Query) : Nat := recNat q.record 20 4 % 2 ^ 22
/-- SPILLN. -/
def Query.spillN (q : Query) : Nat := recNat q.record 24 2

/-- A record's bytes as eight words. -/
def hitBytes (tag : Word) (key flags : Nat) (t prim u v inst aux : Word) : List Byte :=
  bytesOfNat 4 tag.toNat ++ bytesOfNat 2 key ++ bytesOfNat 2 flags ++ bytesOfNat 4 t.toNat ++ bytesOfNat 4 prim.toNat ++
    bytesOfNat 4 u.toNat ++ bytesOfNat 4 v.toNat ++ bytesOfNat 4 inst.toNat ++ bytesOfNat 4 aux.toNat

/-- The DONE record (R315, R316). -/
def Query.doneRecord (q : Query) : List Byte :=
  let short := q.mode 0 && decide (q.nSurv < q.k)
  let flags := 1 + (if short then 2 else 0) + (if q.lost then 4 else 0) + (if q.err.isSome then 8 else 0) +
    (if q.cancel then 16 else 0) +
    (match q.err with
     | some (c, _) => 256 * c
     | none => 0)
  let aux := match q.err with
    | some (_, code) => code
    | none => if q.cancel then 0 else if q.mode 0 then q.nSurv else 0
  hitBytes q.tag 0xFFFF flags 0#32 (BitVec.ofNat 32 q.hits) (BitVec.ofNat 32 q.spills) (BitVec.ofNat 32 q.steps)
    (BitVec.ofNat 32 q.handoffs) (BitVec.ofNat 32 aux)

/-- A query starts (R300, R454). -/
def Query.start (l : Nat) (record : List Byte) (tag : Word) (q : List Word) (best : List (Word × Word))
    (origin : Option Origin) : Query :=
  { launch := l, record := record, tag := tag, pc := recNat record 0 2 % 1024, state := .running
    q := Vector.ofFn fun i => q.getD i.val 0#32, n := Vector.replicate 8 0#32, h := Vector.replicate 4 0#32
    node := BitVec.ofNat 32 (recNat record 16 4), stack := [], spilled := 0, spills := 0, buf := [], kind := none
    dec := none, best := best, own := best.map fun _ => false, out := [], lost := false, hits := 0, steps := 0
    handoffs := 0, err := none, cancel := false, pageHeld := none, origin := origin, sent := 0, survivors := none
    nSurv := 0 }

/-- The words q0-q15 of a record. -/
def recordQ (record : List Byte) : List Word := (List.range 16).map fun i => BitVec.ofNat 32 (recNat record (64 + 4 * i) 4)

/-- The first status of R300 that applies to a record. -/
def admissionStatus (c : Core) (r : Res) (rec : List Byte) : Nat :=
  let f := recNat rec
  let mode := f 3 1
  let kbest := mode.testBit 0
  let filter := mode.testBit 1
  let base : DWord := BitVec.ofNat 64 (f 8 8)
  let fbase : DWord := BitVec.ofNat 64 (f 32 8)
  if 1024 ≤ f 0 2 ∨ 8 ≤ f 2 1 ∨ 8 ≤ mode ∨ 2 ^ 22 ≤ f 20 4 ∨ f 26 2 ≠ 0 ∨ f 40 24 ≠ 0 ∨ (filter ∧ !kbest) ∨
      (!filter ∧ (f 28 4 ≠ 0 ∨ f 32 8 ≠ 0)) then 1
  else if (r.hitq (f 2 1)).isNone then 2
  else if (kbest ∧ (f 4 2 = 0 ∨ 32 < f 4 2)) ∨ (!kbest ∧ (f 4 2 ≠ 0 ∨ f 6 2 ≠ 0)) then 3
  else if 4096 < f 24 2 ∨ f 20 4 % 8 ≠ 0 ∨ (f 24 2 ≠ 0 ∧ !c.inSp (f 20 4) (8 * f 24 2)) then 4
  else if isArray base ∨ !canonical base ∨ f 8 8 % 256 ≠ 0 ∨
      (filter ∧ (isArray fbase ∨ !canonical fbase ∨ f 32 8 % 8 ≠ 0)) then 5
  else if f 6 2 = 0xFFFF then 6
  else 0

/-- The free query entries of a core. -/
def Core.freeEntries (c : Core) : List Nat := (List.range 512).filter fun e => !Tbl.has c.queries e

/-- QUERY_ADMISSION: the TPOST entry at the head of the query queue is checked and, with a free entry, admitted (R297,
R300, R301). Which free entry it takes is free (log 9); a refused record's tag register is free too. A record with an
uncorrectable error ends its entry with the code 0x0D, as its status (R283; log 76). -/
def execQueryAdmission (core : Nat) (s : State) : Out :=
  let c := s.core core
  match c.trp with
  | ⟨l, .tpost flight record⟩ :: rest =>
    match s.res? core l with
    | none => .next s
    | some r =>
      let free := c.freeEntries
      if r.away ∨ free = [] then .next s
      else
        let rec_ := Memory.readN s.mem (poolAddr core record) 128
        let bad := s.isBad (poolAddr core record) 128
        let status := if bad then 0x0D else admissionStatus c r rec_
        let choice := s.draw
        let s := if bad then s.machineCheck 1 (s.coreWord core) record else s.corrects (poolAddr core record) 128
        let s := (s.drawn).modCore core fun c => { c with trp := rest }
        if status = 0 then
          let e := free.getD (choice % free.length) 0
          let tag := e + 512 * r.qseq
          let s := s.modRes core l fun r => { r with qseq := (r.qseq + 1) % 2 ^ 22 }
          .next ((s.setQuery core e (Query.start l rec_ (BitVec.ofNat 32 tag) (recordQ rec_) [] none)).setStage flight
            (.reply (BitVec.ofNat 128 tag) noFlags))
        else
          .next (s.setStage flight (.reply (BitVec.ofNat 128 (choice % 2 ^ 32 + 2 ^ 32 * status)) noFlags))
  | _ => .next s

/-- Hand-offs outstanding are abandoned, each with an HCAN (R457). -/
def State.abandonHandoffs (s : State) (n : Nat) (q : Query) : State :=
  q.out.foldl (fun t h => t.sendTwin (.hcan (s.coreWord n) q.tag h)) s

/-- A sub-query ends with HEND (R455). -/
def State.endSub (s : State) (n e : Nat) (q : Query) (o : Origin) (err code : Nat) : State :=
  let mine := ((q.best.zip q.own).filter fun p => p.2).map Prod.fst
  (s.freeQuery n e).sendTwin (.hend
    { tag := o.tag, h := o.h, sent := q.sent, err := err, code := code
      best := if err = 0 ∧ q.mode 0 then mine else [] })

/-- An error ends a query (R316, R321): its list is discarded, its hand-offs are abandoned, and its DONE record follows.
A sub-query's error goes to its origin (R455). -/
def State.failQuery (s : State) (n e : Nat) (q : Query) (err code : Nat) : State :=
  match q.origin with
  | some o => s.endSub n e q o err code
  | none =>
    (s.abandonHandoffs n q).setQuery n e
      { q with
        state := .drain, err := some (err, code), best := [], own := [], out := [], pageHeld := none
        survivors := some [], nSurv := q.k }

/-- A read that met a fault ends a query (R321); an uncorrectable error is logged too (R283, R441). -/
def State.failRead (s : State) (n e : Nat) (q : Query) (err : Nat) (code : Byte) (sub addr : Nat) : State :=
  (if code = 0x0D#8 then s.machineCheck sub (s.coreWord n) addr else s).failQuery n e q err code.toNat

/-- A cancelled query (R304, R316): its list is dropped, its hand-offs are abandoned, and its DONE record follows. -/
def State.cancelQuery (s : State) (n e : Nat) (q : Query) : State :=
  let changed := match q.state with
    | .running => true
    | .nodeWait => true
    | .hitWait _ done => !done && q.survivors.isNone
    | .drain => false
  if !changed then s
  else
    (s.abandonHandoffs n q).setQuery n e
      { q with
        state := .drain, cancel := true, best := [], own := [], out := [], pageHeld := none, survivors := some []
        nSurv := q.k }

/-- TCANCEL leaves the store FIFO (R304). -/
def State.performTcancel (s : State) (n id : Nat) (f : Flight) (tag : Word) : State :=
  let s := (s.popFifo n id).dropFlight id
  let all := tag = 0xFFFFFFFF#32
  let refuse (t : State) (e : QqEntry) : State :=
    match e.op with
    | .tpost flight _ =>
      (t.setStage flight (.reply (BitVec.ofNat 128 (t.draw % 2 ^ 32 + 2 ^ 32 * 7)) noFlags)).drawn
    | _ => t
  let mine (e : QqEntry) : Bool := e.launch == f.launch &&
    (match e.op with
     | .tpost .. => true
     | _ => false)
  let s := if all then
      let s := ((s.core n).trp.filter mine).foldl refuse s
      s.modCore n fun c => { c with trp := c.trp.filter fun e => !mine e }
    else s
  (s.core n).queries.foldl
    (fun t p =>
      if p.2.launch = f.launch ∧ p.2.origin.isNone ∧ (all ∨ p.2.tag = tag) then t.cancelQuery n p.1 p.2 else t) s

/-! The end of a query (R316, R319). -/

/-- The value of an FP32 code. -/
def f32 (w : Word) : Num := fp32.value w.toNat

/-- An insertion into a k-best list (R319): a NaN is not inserted, an entry past K is dropped. The flags tell which
entries a sub-query inserted itself (R455). -/
def kbestInsert (k : Nat) (l : List ((Word × Word) × Bool)) (x id : Word) (mine : Bool) : List ((Word × Word) × Bool) :=
  let below := match l[k - 1]? with
    | some e => numLt false (f32 x) (f32 e.1.1)
    | none => true
  if (f32 x).isNan || !(decide (l.length < k) || below) then l
  else
    let stays (e : (Word × Word) × Bool) : Bool := !numLt false (f32 x) (f32 e.1.1)
    ((l.takeWhile stays) ++ ((x, id), mine) :: (l.dropWhile stays)).take k

/-- A query with a candidate inserted. -/
def Query.insert (q : Query) (x id : Word) (mine : Bool) : Query :=
  let l := kbestInsert q.k (q.best.zip q.own) x id mine
  { q with best := l.map Prod.fst, own := l.map Prod.snd }

/-- What the filter says of an entry (R319): it survives (1), it does not (0), or its byte cannot be read. The bitmap is read
through the cluster cache as kind 00. -/
def State.filterEntry (s : State) (n : Nat) (q : Query) (id : Word) : Fetch :=
  if !q.mode 1 then .value 1 s
  else if recNat q.record 28 4 ≤ id.toNat then .value 0 s
  else
    match s.readElement n q.launch (BitVec.ofNat 64 (recNat q.record 32 8 + id.toNat / 8)) 1 0 1 false with
    | .value v t => .value (v / 2 ^ (id.toNat % 8) % 2) t
    | e => e

/-- A list whose filter is read: the state with the lines that this allocated and the survivors, or what stopped it. -/
inductive Sift where
  | done (s : State) (l : List (Word × Word))
  | stopped (why : Fetch)

/-- The survivors of a list (R319). -/
def State.filterList (s : State) (n : Nat) (q : Query) : List (Word × Word) → Sift
  | [] => .done s []
  | e :: r =>
    match s.filterEntry n q e.2 with
    | .value v t =>
      match State.filterList t n q r with
      | .done u l => .done u (if v = 1 then e :: l else l)
      | x => x
    | x => .stopped x

/-- The survivors' records and then the DONE record are appended, as far as the ring has room (R316, R319). -/
def State.appendRest (s : State) (n e : Nat) (q : Query) : List (Word × Word) → State
  | [] =>
    match (s.res? n q.launch).bind fun r => r.hitq q.hq with
    | none => s.freeQuery n e
    | some h =>
      if h.room then (s.appendHit n q.launch q.hq e h q.doneRecord).freeQuery n e
      else s.setQuery n e { q with state := .hitWait q.doneRecord true, survivors := some [] }
  | (dist, id) :: r =>
    let rec_ := hitBytes q.tag (recNat q.record 6 2) 0 dist id 0#32 0#32 0#32 0#32
    match (s.res? n q.launch).bind fun r => r.hitq q.hq with
    | none => s.freeQuery n e
    | some h =>
      if h.room then State.appendRest (s.appendHit n q.launch q.hq e h rec_) n e q r
      else s.setQuery n e { q with state := .hitWait rec_ false, survivors := some r }

/-- QUERY_DONE: a query in drain whose hand-offs have all returned completes its list and appends its DONE record (R316,
R319). A page of the filter is waited for; another fault is error 8. -/
def execQueryDone (core entry : Nat) (s : State) : Out :=
  match s.query? core entry with
  | none => .next s
  | some q =>
    if q.state ≠ .drain ∨ q.out ≠ [] ∨ s.away core q.launch ∨ q.pageHeld.isSome ∨
        (s.station.hits.any fun x => x.1 == q.tag) then .next s
    else
      match q.survivors, q.mode 0 with
      | some l, _ => .next (s.appendRest core entry q l)
      | none, false => .next (s.appendRest core entry q [])
      | none, true =>
        match s.filterList core q q.best with
        | .done t l => .next (t.appendRest core entry { q with survivors := some l, nSurv := l.length } l)
        | .stopped (.page va leaf) =>
          .next ((s.postRecord 0 (s.asidOf core q.launch) va leaf).setQuery core entry
            { q with pageHeld := some (va / 0x1000) })
        | .stopped (.refused code sub arg) => .next (s.failRead core entry q 8 code sub arg)
        | .stopped _ => .next s

/-- A query goes on at the next instruction; past index 1,023 it ends with error 9 (R306). -/
def State.advanceQuery (s : State) (n e : Nat) (q : Query) (pc : Nat) : State :=
  if 1023 < pc then s.failQuery n e { q with pc := pc } 9 0
  else s.setQuery n e { q with pc := pc, state := .running }

/-- A record that a hand-off returned is appended, if there is room: the earliest that waits in the station for a
query. -/
def State.appendReturned (s : State) (n e : Nat) (q : Query) (h : HitQ) : Option State :=
  match takeFirst (fun x => x.1 == q.tag) s.station.hits with
  | none => none
  | some ((_, _, rec_), rest) =>
    some ((({ s with station := { s.station with hits := rest } } : State).appendHit n q.launch q.hq e h rec_).setQuery n e
      { q with hits := q.hits + 1 })

/-- HIT_APPEND: with room in its hit queue, a query's waiting record is appended (R315): an EMIT's, after which the walker
goes on; a survivor's; the DONE record, after which the query has ended; or one a hand-off returned (R456). -/
def execHitAppend (core entry : Nat) (s : State) : Out :=
  match s.query? core entry with
  | none => .next s
  | some q =>
    match (s.res? core q.launch).bind fun r => r.hitq q.hq with
    | none => .next s
    | some h =>
      if s.away core q.launch || !h.room then .next s
      else
        match q.state with
        | .hitWait rec_ true => .next ((s.appendHit core q.launch q.hq entry h rec_).freeQuery core entry)
        | .hitWait rec_ false =>
          let t := s.appendHit core q.launch q.hq entry h rec_
          match q.survivors with
          | some l => .next (t.appendRest core entry q l)
          | none => .next (t.advanceQuery core entry { q with hits := q.hits + 1 } (q.pc + 1))
        | _ => .next ((s.appendReturned core entry q h).getD s)

/-! TCFG performed (R302, R303, R307, R310). -/

/-- A field descriptor of a decode entry is legal (R310): its offset is aligned to its width, whether or not VALID is set. -/
def decodeFieldOk (v : Nat) : Bool :=
  let width := v / 256 % 4
  let align := if width = 0 then 4 else if width = 2 then 1 else 2
  decide (v / 1024 % 32 = 0) && decide (v % 256 % align = 0)

/-- A decode entry is legal (R310). -/
def decodeEntryOk (b : List Byte) : Bool :=
  let fmt := recNat b 0 1
  decide (fmt ≤ 2) && (if fmt = 2 then decide (recNat b 1 1 % 4 = 0) else decide (recNat b 1 1 = 0)) &&
    decide (recNat b 2 1 % 4 = 0) && decide (recNat b 3 13 = 0) &&
    (List.range 8).all fun k => decodeFieldOk (recNat b (16 + 2 * k) 2)

/-- A walker word is legal at an index of the store (R307). -/
def walkWordOk (pc : Nat) (w : Word) : Bool :=
  let d := (w.extractLsb' 6 5).toNat
  let a := (w.extractLsb' 11 5).toNat
  let b := (w.extractLsb' 16 5).toNat
  let imm := (w.extractLsb' 21 11).toNat
  let dst := decide (d ≤ 28)
  let target := decide (0 ≤ (pc : Int) + (w.extractLsb' 21 11).toInt) && decide ((pc : Int) + (w.extractLsb' 21 11).toInt ≤ 1023)
  match (w.extractLsb' 0 6).toNat with
  | 0x01 => d == 0 && b == 0 && decide (imm < 4)
  | 0x02 => d == 0 && a == 0 && b == 0 && decide (imm < 16)
  | 0x03 => dst && a == 0 && b == 0 && imm == 0
  | 0x04 => dst && b == 0 && imm == 0
  | 0x05 => dst && imm == 0
  | 0x06 => dst && imm == 0
  | 0x07 => dst && imm == 0
  | 0x08 => dst && b == 0 && imm == 0
  | 0x09 => d == 0 && imm == 0
  | 0x0A => dst && a == 0 && decide (b ≤ 28) && imm == 0
  | 0x0B => dst && imm == 0
  | 0x0C => d == 0
  | 0x0D => d == 0 && b == 0 && imm == 0
  | 0x0E => d == 0 && a == 0 && b == 0 && imm == 0
  | 0x10 => dst && a == 0 && b == 0
  | 0x11 => dst && b == 0 && imm == 0
  | 0x12 => dst && imm == 0
  | 0x13 => dst && imm == 0
  | 0x14 => dst && imm == 0
  | 0x15 => dst && imm == 0
  | 0x16 => dst && imm == 0
  | 0x17 => dst && imm == 0
  | 0x18 => dst && decide (imm < 32) && decide (imm % 16 < 8)
  | 0x19 => d == 0 && b == 0 && target
  | 0x1A => d == 0 && a == 0 && b == 0 && target
  | _ => false

/-- A TCFG loads what its control word names, or says why not (R302, R303). A source with an uncorrectable error ends it with
the code 0x0D (R283; log 76). -/
def State.loadTcfg (s : State) (n l : Nat) (r : Res) (source : Nat) (w : Word) : Except ArrayFault State :=
  let first := (w.extractLsb' 16 10).toNat
  let count := (w.extractLsb' 0 11).toNat
  if s.isBad (poolAddr n source) (tcfgSource w).1 then .error ⟨0x0D#8, 1, source⟩
  else match (w.extractLsb' 30 2).toNat with
  | 0 =>
    let entries := (List.range 16).map fun i => Memory.readN s.mem (poolAddr n (source + 32 * i)) 32
    match entries.findIdx? fun b => !decodeEntryOk b with
    | some i => .error ⟨0x09#8, 0, i⟩
    | none => .ok (s.modRes n l fun r => { r with decode := entries })
  | 1 =>
    let words : List Word := (List.range count).map fun i => BitVec.ofNat 32 (s.peek (poolAddr n (source + 4 * i)) 4)
    match (words.mapIdx fun i x => walkWordOk (first + i) x).findIdx? fun ok => !ok with
    | some i => .error ⟨0x09#8, 0, i⟩
    | none =>
      .ok (s.modRes n l fun r => { r with walker := r.walker.take first ++ words ++ r.walker.drop (first + count) })
  | _ =>
    let no := w.toNat % 8
    let b := Memory.readN s.mem (poolAddr n source) 16
    let ring := recNat b 0 4
    let cap := recNat b 4 2
    let ev := recNat b 6 1
    if 2 ^ 22 ≤ ring ∨ ring % 32 ≠ 0 ∨ cap = 0 ∨ 4096 < cap ∨ 2 ^ Nat.log2 cap ≠ cap ∨ ev.testBit 6 ∨ recNat b 7 9 ≠ 0 then
      .error ⟨0x09#8, 0, no⟩
    else if !(s.core n).inSp ring (32 * cap) then .error ⟨0x04#8, 4, ring⟩
    else if (match r.hitq no with
        | some h => decide (0 < h.untaken)
        | none => false) || (s.core n).queries.any (fun p => p.2.names l no) then .error ⟨0x04#8, 16, 0⟩
    else
      .ok (s.modRes n l fun r => r.setHitq no
        { ring := ring, cap := cap, ev := ev % 64, evEn := ev.testBit 7, head := 0, tail := 0, index := [] })

/-- TCFG_PERFORM: the TCFG at the head of the query queue is performed once every query of its launch has ended (R302). -/
def execTcfgPerform (core : Nat) (s : State) : Out :=
  match (s.core core).trp with
  | ⟨l, .tcfg source control issuer⟩ :: rest =>
    match s.res? core l with
    | none => .next s
    | some r =>
      if r.away || (s.core core).queries.any fun p => p.2.launch == l then .next s
      else
        let s := s.modCore core fun c => { c with trp := rest }
        match s.loadTcfg core l r source control with
        | .ok t => .next (t.corrects (poolAddr core source) (tcfgSource control).1)
        | .error e =>
          let s := if e.code = 0x0D#8 then s.machineCheck e.sub (s.coreWord core) e.arg else s
          .next (s.deferWith core l issuer.slot issuer.gen e issuer.fig issuer.off issuer.word (.tcfg source control))
  | _ => .next s

/-- TPOST or TCFG leaves the store FIFO and enters the query queue (R242, R301, R302). -/
def State.enterTrp (s : State) (n id : Nat) (f : Flight) (op : QqOp) : State :=
  let s := (s.popFifo n id).modCore n fun c => { c with trp := c.trp ++ [⟨f.launch, op⟩] }
  match op with
  | .tpost .. => s.setStage id .engine
  | _ => s.dropFlight id

end Sys2Proof.Machine
end

