-- ==== Sys2Proof/Machine/Walker.lean ====
section
/-!
DEFINITION. Walker instructions: registers, node fetch and expansion, decode, tests, the short stack, hits, nearest
neighbours and hand-offs (R305-R315, R319-R321, R332-R335, R454, R455).
-/

namespace Sys2Proof.Machine

/-- A walker register (R305). -/
def Query.reg (q : Query) (r : WReg) : Word :=
  let c := r.toNat
  if c < 16 then (q.q[c]?).getD 0#32
  else if c < 24 then (q.n[c - 16]?).getD 0#32
  else if c < 28 then (q.h[c - 24]?).getD 0#32
  else if c = 28 then q.node
  else if c = 29 then BitVec.ofNat 32 (q.stack.length + q.spilled)
  else if c = 30 then BitVec.ofNat 32 q.spills
  else q.tag

/-- A walker register written (R305): codes 29-31 are not writable. -/
def Query.setReg (q : Query) (r : WReg) (v : Word) : Query :=
  let c := r.toNat
  if c < 16 then { q with q := q.q.setIfInBounds c v }
  else if c < 24 then { q with n := q.n.setIfInBounds (c - 16) v }
  else if c < 28 then { q with h := q.h.setIfInBounds (c - 24) v }
  else if c = 28 then { q with node := v }
  else q

/-- One walker instruction of the query in focus, counted (R306, R315). It executes only while the query runs and its
launch is not halted (R298, R323), and it is the last one served (R322). -/
def walk (f : State → Nat → Nat → Res → Query → State) (s : State) : Out :=
  match s.focus with
  | .walker n e =>
    match s.query? n e with
    | none => .next s
    | some q =>
      match s.res? n q.launch with
      | none => .next s
      | some r =>
        if q.state ≠ .running ∨ r.away then .next s
        else .next (f (s.modCore n fun c => { c with walked := e }) n e r { q with steps := q.steps + 1 })
  | _ => .next s

/-- An instruction that acts on the query alone, or ends it with error 6 where it has no result (R313, R321). -/
def walkTry (f : Res → Query → Option Query) (s : State) : Out :=
  walk (fun s n e r q =>
    match f r q with
    | some t => s.advanceQuery n e t (q.pc + 1)
    | none => s.failQuery n e q 6 0) s

/-- An instruction that writes one register from others. -/
def walkAlu (d : WReg) (f : Query → Word) (s : State) : Out := walkTry (fun _ q => some (q.setReg d (f q))) s

/-- MOVI (R307). -/
def execMovi (d : WReg) (imm : BitVec 11) (s : State) : Out := walkAlu d (fun _ => imm.signExtend 32) s
/-- MOV (R307). -/
def execWalkMov (d a : WReg) (s : State) : Out := walkAlu d (fun q => q.reg a) s
/-- ADD (R307). -/
def execWalkAdd (d a b : WReg) (s : State) : Out := walkAlu d (fun q => q.reg a + q.reg b) s
/-- SUB (R307). -/
def execWalkSub (d a b : WReg) (s : State) : Out := walkAlu d (fun q => q.reg a - q.reg b) s
/-- An FP32 operation in RNE, without flags (R306). -/
def walkFp (d a b : WReg) (f : Nat → Nat → FpRes) (s : State) : Out :=
  walkAlu d (fun q => BitVec.ofNat 32 (f (q.reg a).toNat (q.reg b).toNat).1) s
/-- FADD (R307). -/
def execWalkFadd (d a b : WReg) (s : State) : Out := walkFp d a b (fpAdd fp32 .rne) s
/-- FMUL (R307). -/
def execWalkFmul (d a b : WReg) (s : State) : Out := walkFp d a b (fpMul fp32 .rne) s
/-- FMIN (R307). -/
def execWalkFmin (d a b : WReg) (s : State) : Out := walkFp d a b (fpMinMax fp32 false) s
/-- FMAX (R307). -/
def execWalkFmax (d a b : WReg) (s : State) : Out := walkFp d a b (fpMinMax fp32 true) s

/-- 1 or 0. -/
def boolWord (b : Bool) : Word := if b then 1#32 else 0#32

/-- CMP.cond.i32 (R106, R307). -/
def execWalkCmpI32 (d a b : WReg) (cond : BitVec 4) (s : State) : Out :=
  walkAlu d (fun q => boolWord (intCompare (cond.setWidth 3) (q.reg a) (q.reg b))) s
/-- CMP.cond.f32 (R106, R307). -/
def execWalkCmpF32 (d a b : WReg) (cond : BitVec 4) (s : State) : Out :=
  walkAlu d (fun q => boolWord (fpCompare fp32 (cond.setWidth 3) (q.reg a).toNat (q.reg b).toNat).1) s

/-- PC plus a signed offset (R307). -/
def walkTarget (pc : Nat) (imm : BitVec 11) : Nat := ((pc : Int) + imm.toInt).toNat

/-- BR (R307). -/
def execWalkBr (a : WReg) (imm : BitVec 11) (s : State) : Out :=
  walk (fun s n e _ q => s.advanceQuery n e q (if q.reg a ≠ 0#32 then walkTarget q.pc imm else q.pc + 1)) s
/-- JMP (R307). -/
def execWalkJmp (imm : BitVec 11) (s : State) : Out :=
  walk (fun s n e _ q => s.advanceQuery n e q (walkTarget q.pc imm)) s

/-- An unloaded slot is executed: error 1 (R306, R321). It is no instruction, and is not counted. -/
def execUnloadedWalkerSlot (s : State) : Out := walk (fun s n e _ q => s.failQuery n e { q with steps := q.steps - 1 } 1 0) s

/-! Nodes (R308, R309, R332-R335). -/

/-- The address of a node (R308). -/
def Query.nodeAddr (q : Query) : DWord :=
  BitVec.ofNat 64 (recNat q.record 8 8 + 128 * (q.node.toNat % 2 ^ 30))

/-- NFETCH: NODE is set, and the read begins (R308). -/
def execNfetch (a : WReg) (kind : BitVec 2) (s : State) : Out :=
  walk (fun s n e _ q =>
    let x := q.reg a
    let q := { q with node := x, buf := [], kind := none, dec := none }
    if x.getLsbD 31 || (kind.getLsbD 0 && x.getLsbD 0) || !canonical q.nodeAddr then s.failQuery n e q 5 0
    else s.setQuery n e { q with state := .nodeWait }) s

/-- Lines of a node by its kind (R308). -/
def nodeLines (kind : Nat) : Nat := if kind = 1 ∨ kind = 3 then 4 else 2

/-- The FP32 code at an offset of a node image. -/
def bufWord (b : List Byte) (off : Nat) : Word := BitVec.ofNat 32 (recNat b off 4)

/-- One expanded bound (R335). -/
def expandBound (rm : Rm) (org : Nat) (e q : Nat) : Nat :=
  if e = 255 then fp32.code (.inf (rm == .rdn))
  else (addNum fp32 rm (fp32.value org) (.fin false q ((e : Int) - 127))).1

/-- The image of a CW8 node (R334, R335). -/
def expandCw8 (b : List Byte) : List Byte :=
  let child (i : Nat) : List Byte :=
    let bound (rm : Rm) (base : Nat) : List Byte :=
      (List.range 3).flatMap fun ax =>
        bytesOfNat 4 (expandBound rm (recNat b (4 * ax) 4) (recNat b (12 + ax) 1) (recNat b (16 + 6 * i + base + ax) 1))
    bound .rdn 0 ++ bound .rup 3
  (List.range 8).flatMap child ++ (b.drop 64).take 64

/-- The image a node's bytes give in the buffer (R332). -/
def nodeImage (kind : Nat) (b : List Byte) : List Byte := if kind = 0 then expandCw8 b else b

/-- The lines of a node that a query posted with FRESH ignores are dropped at its first read (R308, R330). -/
def State.freshLine (s : State) (cl asid vline : Nat) (q : Query) : State :=
  if q.mode 2 then s.dropLines cl fun l => l.node && l.asid == asid && l.vline == vline else s

/-- NODE_FETCH_ARRIVAL: the next line of a node arrives, from a cached node line or from its home; after the last the
walker goes on (R308, R309). A failed walk holds the query; another fault is error 2. -/
def execNodeFetchArrival (core entry : Nat) (s : State) : Out :=
  match s.query? core entry with
  | none => .next s
  | some q =>
    match s.res? core q.launch with
    | none => .next s
    | some r =>
      if q.state ≠ .nodeWait ∨ r.away ∨ q.pageHeld.isSome then .next s
      else
        let kind := ((r.walker.getD q.pc 0#32).extractLsb' 21 2).toNat
        let va := (q.nodeAddr.toNat + q.buf.length) % 2 ^ 48
        let cl := clusterOf core
        let take (s : State) (line : Line) : State :=
          let buf := q.buf ++ bytesOfNat 64 line.toNat
          if 64 * nodeLines kind ≤ buf.length then
            s.advanceQuery core entry { q with buf := nodeImage kind buf, kind := some kind } (q.pc + 1)
          else s.setQuery core entry { q with buf := buf }
        let s := s.freshLine cl r.asid (va / 64) q
        match (s.cluster cl).find r.asid (va / 64) true with
        | some l => .next (take s l.data)
        | none =>
          match s.translate r.asid va .read with
          | .ok pa cacheable =>
            if s.homeBusy core s.nextId pa || s.atomicBusy cl pa then .next s
            else if s.isBad (pa / 64 * 64) 64 then
              .next (s.failRead core entry { q with buf := [] } 2 0x0D#8 4 (pa / 64 * 64))
            else
              let line := s.mergeBuffer cl r.asid (va / 64) (s.lineAt pa)
              let s := (s.corrects (pa / 64 * 64) 64).cacheLeaf r.asid va .read
              let s := if cacheable then
                  (s.modCluster cl fun c => c.fill ⟨r.asid, va / 64, true, line⟩ s.draw).drawn
                else s
              .next (take s line)
          | .fail leaf =>
            .next ((s.postRecord 0 r.asid va leaf).setQuery core entry { q with pageHeld := some (va / 0x1000) })
          | .noTables => .next (s.failQuery core entry { q with buf := [] } 2 0x05)

/-- A decode entry of a launch (R310). -/
def Res.decodeEntry (r : Res) (i : Nat) : List Byte := r.decode.getD i []

/-- One field of a node by its descriptor (R310); none where it lies beyond the node. -/
def decodeField (b : List Byte) (v : Nat) : Option Word :=
  let width := v / 256 % 4
  let len := if width = 0 then 4 else if width = 2 then 1 else 2
  let off := v % 256
  if v < 32768 then some 0#32
  else if b.length < off + len then none
  else
    let x := recNat b off len
    some (if width = 3 then (BitVec.ofNat 16 x).signExtend 32 else BitVec.ofNat 32 x)

/-- The decoded node of a query: its decode entry (R310). -/
def Query.decoded (q : Query) (r : Res) : Option (List Byte) := q.dec.map fun i => r.decodeEntry i

/-- NDEC (R310). -/
def execNdec (ent : BitVec 4) (s : State) : Out :=
  walkTry (fun r q =>
    let b := r.decodeEntry ent.toNat
    let fmt := recNat b 0 1
    match q.kind with
    | none => none
    | some k =>
      let fields := (List.range 8).map fun i => decodeField q.buf (recNat b (16 + 2 * i) 2)
      if fmt ≠ min k 2 ∨ (fields.any Option.isNone) ∨ q.buf.length < recNat b 1 1 + 32 ∨ q.buf.length ≤ recNat b 2 1 then
        none
      else some { q with n := Vector.ofFn fun i => (fields.getD i.val none).getD 0#32, dec := some ent.toNat }) s

/-! Tests (R311-R313). -/

/-- An exact difference. -/
def subExact (x y : Num) : Num :=
  match x, y with
  | .nan _, _ => .nan false
  | _, .nan _ => .nan false
  | .inf a, .inf b => if a = b then .nan false else .inf a
  | .inf a, .fin .. => .inf a
  | .fin .., .inf b => .inf (!b)
  | .fin n1 m1 e1, .fin n2 m2 e2 =>
    let lo := min e1 e2
    let v := scaled n1 m1 e1 lo - scaled n2 m2 e2 lo
    .fin (decide (v < 0)) v.natAbs lo

/-- An exact value rounded to FP32. -/
def roundNum (rm : Rm) : Num → Num
  | .fin n m e => (roundTo fp32 24 rm n m e false).value
  | x => x

/-- The smaller or larger of two values, with −∞ or +∞ for a NaN. -/
def pickNum (larger : Bool) (a b : Num) : Num :=
  let fix (x : Num) : Num := if x.isNan then .inf (!larger) else x
  let x := fix a
  let y := fix b
  if larger then (if numLt false x y then y else x) else (if numLt false y x then y else x)

/-- The larger of two values. -/
def maxNum (a b : Num) : Num := if numLt false a b then b else a
/-- The smaller of two values. -/
def minNum (a b : Num) : Num := if numLt false b a then b else a

/-- The ray's test of one child box (R311): its distance where it hits. -/
def boxHit (q : Query) (i : Nat) : Option Num :=
  let v (k : Nat) : Num := f32 ((q.q[k]?).getD 0#32)
  let lo (ax : Nat) : Num := f32 (bufWord q.buf (24 * i + 4 * ax))
  let hi (ax : Nat) : Num := f32 (bufWord q.buf (24 * i + 12 + 4 * ax))
  let axes := List.range 3
  if bufWord q.buf (192 + 4 * i) = 0xFFFFFFFF#32 || (axes.any fun ax => numLt false (hi ax) (lo ax)) ||
      ([0, 1, 2, 6, 7, 8, 9, 10].any fun k => (v k).isNan) then none
  else
    let step (p : Num × Num) (ax : Nat) : Num × Num :=
      let a := (mulExact (subExact (lo ax) (v ax)) (v (6 + ax))).getD (.nan false)
      let b := (mulExact (subExact (hi ax) (v ax)) (v (6 + ax))).getD (.nan false)
      (maxNum p.1 (roundNum .rdn (pickNum false a b)), minNum p.2 (roundNum .rup (pickNum true a b)))
    let (ent, ext) := axes.foldl step (v 9, v 10)
    if numLt false ext ent then none else some ent

/-- A child inserted in order of distance, behind equal ones. -/
def insertHit (i : Nat) (d : Num) : List (Nat × Num) → List (Nat × Num)
  | [] => [(i, d)]
  | (j, x) :: r => if numLt false d x then (i, d) :: (j, x) :: r else (j, x) :: insertHit i d r

/-- BOX8's result word (R311). -/
def boxResult (q : Query) : Word :=
  let hits := (List.range 8).map fun i => (i, boxHit q i)
  let near := hits.foldl
    (fun l p =>
      match p.2 with
      | some d => insertHit p.1 d l
      | none => l) []
  let missed := (hits.filter fun p => p.2.isNone).map Prod.fst
  let order := near.map Prod.fst ++ missed
  let mask := hits.foldl (fun a p => if p.2.isSome then a + 2 ^ p.1 else a) 0
  BitVec.ofNat 32 (mask + ((order.mapIdx fun k i => i * 2 ^ (8 + 3 * k)).foldl (· + ·) 0))

/-- BOX8 (R311). -/
def execBox8 (d : WReg) (s : State) : Out :=
  walkTry (fun r q =>
    match q.decoded r with
    | none => none
    | some b => if recNat b 0 1 = 2 then none else some (q.setReg d (boxResult q))) s

/-- A finite FP32 value as a multiple of 2^-149. -/
def gridInt (w : Word) : Int :=
  match f32 w with
  | .fin n m e => scaled n m e (-149)
  | _ => 0

/-- A finite value. -/
def isFinite (w : Word) : Bool :=
  match f32 w with
  | .fin .. => true
  | _ => false

/-- A vector of exact numbers. -/
structure Vec3 where
  x : Int
  y : Int
  z : Int
  deriving DecidableEq, Repr

/-- The difference of two vectors. -/
def Vec3.sub (a b : Vec3) : Vec3 := ⟨a.x - b.x, a.y - b.y, a.z - b.z⟩
/-- The cross product. -/
def Vec3.cross (a b : Vec3) : Vec3 := ⟨a.y * b.z - a.z * b.y, a.z * b.x - a.x * b.z, a.x * b.y - a.y * b.x⟩
/-- The dot product. -/
def Vec3.dot (a b : Vec3) : Int := a.x * b.x + a.y * b.y + a.z * b.z

/-- A quotient rounded to FP32 in RNE; the divisor is positive. -/
def roundRatio (num : Int) (den : Nat) : Word :=
  let k := 200 + bitLen den
  let m := num.natAbs * 2 ^ k
  if num = 0 then 0#32
  else
    BitVec.ofNat 32 (fp32.deliver (roundTo fp32 24 .rne (decide (num < 0)) (m / den) (-(k : Int)) (decide (m % den ≠ 0)))).1

/-- A bound of the ray against t = num/den: is the bound at most t. -/
def boundBelow (w : Word) (num : Int) (den : Nat) : Bool :=
  match f32 w with
  | .nan _ => false
  | .inf n => n
  | .fin .. => decide (gridInt w * (den : Int) ≤ num * 2 ^ 149)

/-- Is t = num/den at most the bound. -/
def boundAbove (w : Word) (num : Int) (den : Nat) : Bool :=
  match f32 w with
  | .nan _ => false
  | .inf n => !n
  | .fin .. => decide (num * 2 ^ 149 ≤ gridInt w * (den : Int))

/-- The test of a ray and a triangle (R312): t, u and v where it hits. Every number is exact: coordinates are multiples of
2^-149, and t, u and v are quotients of equal scale. -/
def triHit (q : Query) (off : Nat) : Option (Word × Word × Word) :=
  let v (k : Nat) : Word := (q.q[k]?).getD 0#32
  let p (k : Nat) : Word := bufWord q.buf (off + 4 * k)
  let vec (f : Nat → Word) (i : Nat) : Vec3 := ⟨gridInt (f i), gridInt (f (i + 1)), gridInt (f (i + 2))⟩
  if !((List.range 9).all fun k => isFinite (p k)) || !((List.range 6).all fun k => isFinite (v k)) || (f32 (v 9)).isNan ||
      (f32 (v 10)).isNan then none
  else
    let v0 := vec p 0
    let e1 := (vec p 3).sub v0
    let e2 := (vec p 6).sub v0
    let sv := (vec v 0).sub v0
    let dir := vec v 3
    let pv := dir.cross e2
    let det := e1.dot pv
    let w := sv.cross e1
    let sign : Int := if det < 0 then -1 else 1
    let den := det.natAbs
    let un := sign * sv.dot pv
    let vn := sign * dir.dot w
    let tn := sign * e2.dot w
    if det = 0 then none
    else if 0 ≤ un ∧ 0 ≤ vn ∧ un + vn ≤ den ∧ boundBelow (v 9) tn den ∧ boundAbove (v 10) tn den then
      some (roundRatio tn den, roundRatio un den, roundRatio vn den)
    else none

/-- TRI (R312): d is written before h0, h1 and h2. -/
def execTri (d a : WReg) (s : State) : Out :=
  walkTry (fun _ q =>
    let off := (q.reg a).toNat
    if q.dec.isNone ∨ off % 4 ≠ 0 ∨ q.buf.length < off + 36 then none
    else
      match triHit q off with
      | some (t, u, v) =>
        let q := q.setReg d 1#32
        some { q with h := ((q.h.setIfInBounds 0 t).setIfInBounds 1 u).setIfInBounds 2 v }
      | none => some (q.setReg d 0#32)) s

/-- SPLIT (R313). -/
def execSplit (d a b : WReg) (s : State) : Out :=
  walkTry (fun _ q =>
    let j := (q.reg a).toNat
    if 15 < j then none
    else some (q.setReg d (BitVec.ofNat 32 (fpSub fp32 .rne ((q.q[j]?).getD 0#32).toNat (q.reg b).toNat).1))) s

/-- KCMP (R313). -/
def execKcmp (d a b : WReg) (s : State) : Out :=
  walkTry (fun r q =>
    match q.decoded r with
    | none => none
    | some ent =>
      let ko := recNat ent 2 1
      let k := (q.reg b).toNat
      if q.buf.length < ko + 4 * k then none
      else
        some (q.setReg d (BitVec.ofNat 32
          (((List.range k).filter fun i => (bufWord q.buf (ko + 4 * i)).ule (q.reg a)).length)))) s

/-- The running sum of DIST (R313). -/
def distSum (q : Query) (off k : Nat) : Nat :=
  (List.range k).foldl
    (fun acc i =>
      let diff := (fpSub fp32 .rne ((q.q[i]?).getD 0#32).toNat (bufWord q.buf (off + 4 * i)).toNat).1
      (fpFma fp32 .rne diff diff acc).1) 0

/-- DIST (R313). -/
def execDist (d a b : WReg) (s : State) : Out :=
  walkTry (fun _ q =>
    let off := (q.reg a).toNat
    let k := (q.reg b).toNat
    if q.dec.isNone ∨ k < 1 ∨ 16 < k ∨ off % 4 ≠ 0 ∨ q.buf.length < off + 4 * k then none
    else some (q.setReg d (BitVec.ofNat 32 (distSum q off k)))) s

/-- CHILD (R313). -/
def execChild (d a : WReg) (s : State) : Out :=
  walkTry (fun r q =>
    match q.decoded r with
    | none => none
    | some ent =>
      let i := (q.reg a).toNat
      if 7 < i then none
      else
        let base := if recNat ent 0 1 = 2 then recNat ent 1 1 else 192
        some (q.setReg d (bufWord q.buf (base + 4 * i)))) s

/-! The short stack (R314). `stack` holds the newest entry first. -/

/-- PUSH (R314). -/
def execPush (a b : WReg) (s : State) : Out :=
  walk (fun s n e _ q =>
    let x := (q.reg a, q.reg b)
    if q.stack.length < 4 then s.advanceQuery n e { q with stack := x :: q.stack } (q.pc + 1)
    else if q.spilled = q.spillN then s.failQuery n e q 3 0
    else
      let off := q.spillAt + 8 * q.spilled
      if !(s.core n).inSp off 8 then s.failQuery n e q 2 0x04
      else
        let old := q.stack.getD 3 (0#32, 0#32)
        (s.poke (poolAddr n off) 8 (old.1.toNat + 2 ^ 32 * old.2.toNat)).advanceQuery n e
          { q with stack := x :: q.stack.take 3, spilled := q.spilled + 1, spills := q.spills + 1 } (q.pc + 1)) s

/-- POP: b is written last (R314). -/
def execPop (d b : WReg) (s : State) : Out :=
  walk (fun s n e _ q =>
    match q.stack with
    | x :: rest => s.advanceQuery n e (({ q with stack := rest }.setReg d x.1).setReg b x.2) (q.pc + 1)
    | [] =>
      let off := q.spillAt + 8 * (q.spilled - 1)
      if q.spilled = 0 then s.failQuery n e q 4 0
      else if !(s.core n).inSp off 8 then s.failQuery n e q 2 0x04
      else if s.isBad (poolAddr n off) 8 then s.failRead n e q 2 0x0D#8 1 off
      else
        let v := s.peek (poolAddr n off) 8
        (s.corrects (poolAddr n off) 8).advanceQuery n e
          (({ q with spilled := q.spilled - 1 }.setReg d (BitVec.ofNat 32 v)).setReg b (BitVec.ofNat 32 (v / 2 ^ 32)))
          (q.pc + 1)) s

/-! Neighbours, hits, hand-offs and the end. -/

/-- KBEST (R319). -/
def execKbest (d a b : WReg) (s : State) : Out :=
  walkTry (fun _ q =>
    if !q.mode 0 then none
    else
      let q := q.insert (q.reg a) (q.reg b) true
      let bound := if q.best.length = q.k then ((q.best.getLast?).getD (0#32, 0#32)).1 else 0x7F800000#32
      some (q.setReg d bound)) s

/-- EMIT: a record is appended, or waits in hit wait (R315); a sub-query sends it to its origin (R455). -/
def execEmit (a b : WReg) (imm : BitVec 11) (s : State) : Out :=
  walk (fun s n e r q =>
    let key := (q.reg a).toNat % 65536
    let h (k : Nat) : Word := (q.h[k]?).getD 0#32
    let rec_ := hitBytes q.tag key 0 (h 0) (h 3) (h 1) (h 2) (q.reg b) (imm.setWidth 32)
    if key = 0xFFFF then s.failQuery n e q 7 0
    else
      match q.origin with
      | some o =>
        (s.sendTwin (.hit o.tag o.h q.sent rec_)).advanceQuery n e { q with sent := q.sent + 1 } (q.pc + 1)
      | none =>
        match r.hitq q.hq with
        | none => s
        | some hq =>
          if hq.room then
            (s.appendHit n q.launch q.hq e hq rec_).advanceQuery n e { q with hits := q.hits + 1 } (q.pc + 1)
          else s.setQuery n e { q with state := .hitWait rec_ false }) s

/-- The lowest free hand-off number of a query (R454). -/
def Query.freeHandoff (q : Query) : Option Nat := (List.range 8).find? fun h => !q.out.contains h

/-- HANDOFF: a sub-query is sent to the twin; a ninth waits; without a link the hand-off is lost (R320, R453, R454). A
launch that is no PAIR launch has no index, and 16 names none (R447). -/
def execHandoff (a : WReg) (s : State) : Out :=
  walk (fun s n e _ q =>
    let x := q.reg a
    if !x.getLsbD 31 || q.origin.isSome then s.failQuery n e q 5 0
    else
      match q.freeHandoff with
      | none => s
      | some h =>
        let q := { q with handoffs := q.handoffs + 1 }
        if !s.station.up then s.advanceQuery n e { q with lost := true } (q.pc + 1)
        else
          let rec_ := q.record.take 16 ++ bytesOfNat 4 (x.toNat % 2 ^ 31) ++ q.record.drop 20
          let msg : HqMsg :=
            { index := (s.pairIndex? q.launch).getD 16, origin := s.coreWord n, tag := q.tag, h := h, record := rec_
              q := q.q.toList, best := if q.mode 0 then q.best else [] }
          let s := s.sendTwin (.hq msg)
          let s : State := { s with station := { s.station with unhacked := s.station.unhacked ++ [(q.tag, h)] } }
          s.advanceQuery n e { q with out := q.out ++ [h] } (q.pc + 1)) s

/-- END: the query drains, and ends with QUERY_DONE (R316); a sub-query ends with HEND (R455). -/
def execWalkEnd (s : State) : Out :=
  walk (fun s n e _ q =>
    match q.origin with
    | some o => s.endSub n e q o 0 0
    | none => s.setQuery n e { q with state := .drain }) s

end Sys2Proof.Machine
end

