-- ==== Sys2Proof/Machine/Figure.lean ====
section
/-!
DEFINITION. Figures as sealed code: what each instruction reads and writes, its traits, the length of a figure, the
checks of MINT, sealing and releasing (R70-R74, R85, R87, R90, R181, R204-R209).
-/

namespace Sys2Proof.Machine

/-- The operands of a micro-thread instruction, as first code and count, and its traits: long-latency, FP64,
set-converged (R85, R86). -/
structure Uses where
  reads : List (Reg × Nat)
  writes : List (Reg × Nat)
  ll : Bool
  fp64 : Bool
  sc : Bool
  deriving DecidableEq, Repr

/-- No operand and no trait. -/
def Uses.none : Uses := ⟨[], [], false, false, false⟩

/-- The operands and traits of each micro-thread instruction (R85, R86, R116). An event or an instruction of another agent
has none. -/
def usesOf : Instr → Uses
  | .add d a b => ⟨[(a, 1), (b, 1)], [(d, 1)], false, false, false⟩
  | .sub d a b => ⟨[(a, 1), (b, 1)], [(d, 1)], false, false, false⟩
  | .and d a b => ⟨[(a, 1), (b, 1)], [(d, 1)], false, false, false⟩
  | .or d a b => ⟨[(a, 1), (b, 1)], [(d, 1)], false, false, false⟩
  | .xor d a b => ⟨[(a, 1), (b, 1)], [(d, 1)], false, false, false⟩
  | .andn d a b => ⟨[(a, 1), (b, 1)], [(d, 1)], false, false, false⟩
  | .sll d a b => ⟨[(a, 1), (b, 1)], [(d, 1)], false, false, false⟩
  | .srl d a b => ⟨[(a, 1), (b, 1)], [(d, 1)], false, false, false⟩
  | .sra d a b => ⟨[(a, 1), (b, 1)], [(d, 1)], false, false, false⟩
  | .rol d a b => ⟨[(a, 1), (b, 1)], [(d, 1)], false, false, false⟩
  | .min d a b => ⟨[(a, 1), (b, 1)], [(d, 1)], false, false, false⟩
  | .max d a b => ⟨[(a, 1), (b, 1)], [(d, 1)], false, false, false⟩
  | .minu d a b => ⟨[(a, 1), (b, 1)], [(d, 1)], false, false, false⟩
  | .maxu d a b => ⟨[(a, 1), (b, 1)], [(d, 1)], false, false, false⟩
  | .mul d a b => ⟨[(a, 1), (b, 1)], [(d, 1)], false, false, false⟩
  | .mulh d a b => ⟨[(a, 1), (b, 1)], [(d, 1)], false, false, false⟩
  | .mulhu d a b => ⟨[(a, 1), (b, 1)], [(d, 1)], false, false, false⟩
  | .adds d a b => ⟨[(a, 1), (b, 1)], [(d, 1)], false, false, false⟩
  | .subs d a b => ⟨[(a, 1), (b, 1)], [(d, 1)], false, false, false⟩
  | .clz d a => ⟨[(a, 1)], [(d, 1)], false, false, false⟩
  | .ctz d a => ⟨[(a, 1)], [(d, 1)], false, false, false⟩
  | .popc d a => ⟨[(a, 1)], [(d, 1)], false, false, false⟩
  | .brev d a => ⟨[(a, 1)], [(d, 1)], false, false, false⟩
  | .addD d a b => ⟨[(a, 2), (b, 2)], [(d, 2)], false, false, false⟩
  | .subD d a b => ⟨[(a, 2), (b, 2)], [(d, 2)], false, false, false⟩
  | .mulWD d a b => ⟨[(a, 1), (b, 1)], [(d, 2)], false, false, false⟩
  | .muluWD d a b => ⟨[(a, 1), (b, 1)], [(d, 2)], false, false, false⟩
  | .addi d a _ => ⟨[(a, 1)], [(d, 1)], false, false, false⟩
  | .andi d a _ => ⟨[(a, 1)], [(d, 1)], false, false, false⟩
  | .ori d a _ => ⟨[(a, 1)], [(d, 1)], false, false, false⟩
  | .xori d a _ => ⟨[(a, 1)], [(d, 1)], false, false, false⟩
  | .muli d a _ => ⟨[(a, 1)], [(d, 1)], false, false, false⟩
  | .slli d a _ => ⟨[(a, 1)], [(d, 1)], false, false, false⟩
  | .srli d a _ => ⟨[(a, 1)], [(d, 1)], false, false, false⟩
  | .srai d a _ => ⟨[(a, 1)], [(d, 1)], false, false, false⟩
  | .roli d a _ => ⟨[(a, 1)], [(d, 1)], false, false, false⟩
  | .lui d _ => ⟨[], [(d, 1)], false, false, false⟩
  | .cmpI32 _ a b _ => ⟨[(a, 1), (b, 1)], [], false, false, false⟩
  | .cmpF32 _ a b _ => ⟨[(a, 1), (b, 1)], [], false, false, false⟩
  | .cmpF64 _ a b _ => ⟨[(a, 2), (b, 2)], [], false, true, false⟩
  | .cmpI64 _ a b _ => ⟨[(a, 2), (b, 2)], [], false, false, false⟩
  | .cmpi _ _ a _ => ⟨[(a, 1)], [], false, false, false⟩
  | .sel d a b _ => ⟨[(a, 1), (b, 1)], [(d, 1)], false, false, false⟩
  | .movs d _ => ⟨[], [(d, 1)], false, false, false⟩
  | .pand _ _ _ => .none
  | .por _ _ _ => .none
  | .pxor _ _ _ => .none
  | .pnot _ _ => .none
  | .p2g d => ⟨[], [(d, 1)], false, false, false⟩
  | .g2p a b => ⟨[(a, 1), (b, 1)], [], false, false, false⟩
  | .fadd d a b => ⟨[(a, 1), (b, 1)], [(d, 1)], false, false, false⟩
  | .fsub d a b => ⟨[(a, 1), (b, 1)], [(d, 1)], false, false, false⟩
  | .fmul d a b => ⟨[(a, 1), (b, 1)], [(d, 1)], false, false, false⟩
  | .fmin d a b => ⟨[(a, 1), (b, 1)], [(d, 1)], false, false, false⟩
  | .fmax d a b => ⟨[(a, 1), (b, 1)], [(d, 1)], false, false, false⟩
  | .fabs d a => ⟨[(a, 1)], [(d, 1)], false, false, false⟩
  | .fneg d a => ⟨[(a, 1)], [(d, 1)], false, false, false⟩
  | .fsgn d a b => ⟨[(a, 1), (b, 1)], [(d, 1)], false, false, false⟩
  | .fcls d a => ⟨[(a, 1)], [(d, 1)], false, false, false⟩
  | .fflr d a => ⟨[(a, 1)], [(d, 1)], false, false, false⟩
  | .fceil d a => ⟨[(a, 1)], [(d, 1)], false, false, false⟩
  | .frndn d a => ⟨[(a, 1)], [(d, 1)], false, false, false⟩
  | .dadd d a b => ⟨[(a, 2), (b, 2)], [(d, 2)], false, true, false⟩
  | .dsub d a b => ⟨[(a, 2), (b, 2)], [(d, 2)], false, true, false⟩
  | .dmul d a b => ⟨[(a, 2), (b, 2)], [(d, 2)], false, true, false⟩
  | .dmin d a b => ⟨[(a, 2), (b, 2)], [(d, 2)], false, true, false⟩
  | .dmax d a b => ⟨[(a, 2), (b, 2)], [(d, 2)], false, true, false⟩
  | .dabs d a => ⟨[(a, 2)], [(d, 2)], false, true, false⟩
  | .dneg d a => ⟨[(a, 2)], [(d, 2)], false, true, false⟩
  | .dsgn d a b => ⟨[(a, 2), (b, 2)], [(d, 2)], false, true, false⟩
  | .dcls d a => ⟨[(a, 2)], [(d, 1)], false, true, false⟩
  | .dflr d a => ⟨[(a, 2)], [(d, 2)], false, true, false⟩
  | .dceil d a => ⟨[(a, 2)], [(d, 2)], false, true, false⟩
  | .drndn d a => ⟨[(a, 2)], [(d, 2)], false, true, false⟩
  | .add2 d a b => ⟨[(a, 1), (b, 1)], [(d, 1)], false, false, false⟩
  | .sub2 d a b => ⟨[(a, 1), (b, 1)], [(d, 1)], false, false, false⟩
  | .mul2 d a b => ⟨[(a, 1), (b, 1)], [(d, 1)], false, false, false⟩
  | .min2 d a b => ⟨[(a, 1), (b, 1)], [(d, 1)], false, false, false⟩
  | .max2 d a b => ⟨[(a, 1), (b, 1)], [(d, 1)], false, false, false⟩
  | .add2Bf d a b => ⟨[(a, 1), (b, 1)], [(d, 1)], false, false, false⟩
  | .sub2Bf d a b => ⟨[(a, 1), (b, 1)], [(d, 1)], false, false, false⟩
  | .mul2Bf d a b => ⟨[(a, 1), (b, 1)], [(d, 1)], false, false, false⟩
  | .min2Bf d a b => ⟨[(a, 1), (b, 1)], [(d, 1)], false, false, false⟩
  | .max2Bf d a b => ⟨[(a, 1), (b, 1)], [(d, 1)], false, false, false⟩
  | .ffma d a b c => ⟨[(a, 1), (b, 1), (c, 1)], [(d, 1)], false, false, false⟩
  | .ffms d a b c => ⟨[(a, 1), (b, 1), (c, 1)], [(d, 1)], false, false, false⟩
  | .dfma d a b c => ⟨[(a, 2), (b, 2), (c, 2)], [(d, 2)], false, true, false⟩
  | .dfms d a b c => ⟨[(a, 2), (b, 2), (c, 2)], [(d, 2)], false, true, false⟩
  | .hfma d a b c => ⟨[(a, 1), (b, 1), (c, 1)], [(d, 1)], false, false, false⟩
  | .hfmaBf d a b c => ⟨[(a, 1), (b, 1), (c, 1)], [(d, 1)], false, false, false⟩
  | .f2i d a _ => ⟨[(a, 1)], [(d, 1)], false, false, false⟩
  | .f2u d a _ => ⟨[(a, 1)], [(d, 1)], false, false, false⟩
  | .i2f d a _ => ⟨[(a, 1)], [(d, 1)], false, false, false⟩
  | .u2f d a _ => ⟨[(a, 1)], [(d, 1)], false, false, false⟩
  | .d2f d a _ => ⟨[(a, 2)], [(d, 1)], false, true, false⟩
  | .f2d d a _ => ⟨[(a, 1)], [(d, 2)], false, true, false⟩
  | .d2i d a _ => ⟨[(a, 2)], [(d, 1)], false, true, false⟩
  | .i2d d a _ => ⟨[(a, 1)], [(d, 2)], false, true, false⟩
  | .f2h d a _ => ⟨[(a, 1)], [(d, 1)], false, false, false⟩
  | .h2f d a _ => ⟨[(a, 1)], [(d, 1)], false, false, false⟩
  | .f2bf d a _ => ⟨[(a, 1)], [(d, 1)], false, false, false⟩
  | .bf2f d a _ => ⟨[(a, 1)], [(d, 1)], false, false, false⟩
  | .d2l d a _ => ⟨[(a, 2)], [(d, 2)], false, true, false⟩
  | .l2d d a _ => ⟨[(a, 2)], [(d, 2)], false, true, false⟩
  | .f2h2 d a _ => ⟨[(a, 2)], [(d, 1)], false, false, false⟩
  | .rcp d a => ⟨[(a, 1)], [(d, 1)], false, false, false⟩
  | .rsq d a => ⟨[(a, 1)], [(d, 1)], false, false, false⟩
  | .log2 d a => ⟨[(a, 1)], [(d, 1)], false, false, false⟩
  | .exp2 d a => ⟨[(a, 1)], [(d, 1)], false, false, false⟩
  | .sinr d a => ⟨[(a, 1)], [(d, 1)], false, false, false⟩
  | .cosr d a => ⟨[(a, 1)], [(d, 1)], false, false, false⟩
  | .drcp d a => ⟨[(a, 2)], [(d, 2)], false, true, false⟩
  | .drsq d a => ⟨[(a, 2)], [(d, 2)], false, true, false⟩
  | .pke4 d a b => ⟨[(a, 4), (b, 1)], [(d, 1)], false, false, false⟩
  | .pke5 d a b => ⟨[(a, 4), (b, 1)], [(d, 1)], false, false, false⟩
  | .upe4 d a => ⟨[(a, 1)], [(d, 4)], false, false, false⟩
  | .upe5 d a => ⟨[(a, 1)], [(d, 4)], false, false, false⟩
  | .pkb4 d a b => ⟨[(a, 8), (b, 1)], [(d, 2)], false, false, false⟩
  | .upb4 d a => ⟨[(a, 2)], [(d, 8)], false, false, false⟩
  | .bfe d a b => ⟨[(a, 1), (b, 1)], [(d, 1)], false, false, false⟩
  | .bfi d a b c => ⟨[(a, 1), (b, 1), (c, 1)], [(d, 1)], false, false, false⟩
  | .shfl d a b => ⟨[(a, 1), (b, 1)], [(d, 1)], false, false, true⟩
  | .rotl d a b => ⟨[(a, 1), (b, 1)], [(d, 1)], false, false, true⟩
  | .bfly d a b => ⟨[(a, 1), (b, 1)], [(d, 1)], false, false, true⟩
  | .bcast d a b => ⟨[(a, 1), (b, 1)], [(d, 1)], false, false, true⟩
  | .voteall _ _ => ⟨[], [], false, false, true⟩
  | .voteany _ _ => ⟨[], [], false, false, true⟩
  | .ballot d _ => ⟨[], [(d, 2)], false, false, true⟩
  | .linkr d a _ => ⟨[(a, 1)], [(d, 1)], false, false, true⟩
  | .linkw d a _ => ⟨[(d, 1), (a, 1)], [], false, false, true⟩
  | .radd d a => ⟨[(a, 1)], [(d, 1)], false, false, true⟩
  | .rmin d a => ⟨[(a, 1)], [(d, 1)], false, false, true⟩
  | .rmax d a => ⟨[(a, 1)], [(d, 1)], false, false, true⟩
  | .rminu d a => ⟨[(a, 1)], [(d, 1)], false, false, true⟩
  | .rmaxu d a => ⟨[(a, 1)], [(d, 1)], false, false, true⟩
  | .rand d a => ⟨[(a, 1)], [(d, 1)], false, false, true⟩
  | .ror d a => ⟨[(a, 1)], [(d, 1)], false, false, true⟩
  | .rxor d a => ⟨[(a, 1)], [(d, 1)], false, false, true⟩
  | .rfadd d a => ⟨[(a, 1)], [(d, 1)], false, false, true⟩
  | .rfmin d a => ⟨[(a, 1)], [(d, 1)], false, false, true⟩
  | .rfmax d a => ⟨[(a, 1)], [(d, 1)], false, false, true⟩
  | .sadd d a => ⟨[(a, 1)], [(d, 1)], false, false, true⟩
  | .saddx d a => ⟨[(a, 1)], [(d, 1)], false, false, true⟩
  | .sfadd d a => ⟨[(a, 1)], [(d, 1)], false, false, true⟩
  | .rdadd d a => ⟨[(a, 2)], [(d, 2)], false, true, true⟩
  | .xclr => ⟨[], [], false, false, true⟩
  | .xadd a => ⟨[(a, 1)], [], false, false, true⟩
  | .xmad a b => ⟨[(a, 1), (b, 1)], [], false, false, true⟩
  | .xrnd d => ⟨[], [(d, 1)], false, false, true⟩
  | .xrndd d => ⟨[], [(d, 2)], false, true, true⟩
  | .icount d a => ⟨[(a, 8)], [(d, 1)], true, false, false⟩
  | .iwrite d a b => ⟨[(a, 8), (b, 4)], [(d, 1)], true, false, false⟩
  | .uwrite d a b => ⟨[(a, 8), (b, 4)], [(d, 1)], true, false, false⟩
  | .mwrite d a b => ⟨[(a, 8), (b, 4)], [(d, 1)], true, false, false⟩
  | .ld d base size _ _ => ⟨[(base, 2)], [(d, sizeRegs size)], true, false, false⟩
  | .st d base size _ _ => ⟨[(base, 2), (d, sizeRegs size)], [], false, false, false⟩
  | .aaddW d a b => ⟨[(a, 2), (b, 1)], [(d, 1)], true, false, false⟩
  | .aandW d a b => ⟨[(a, 2), (b, 1)], [(d, 1)], true, false, false⟩
  | .aorW d a b => ⟨[(a, 2), (b, 1)], [(d, 1)], true, false, false⟩
  | .axorW d a b => ⟨[(a, 2), (b, 1)], [(d, 1)], true, false, false⟩
  | .aminW d a b => ⟨[(a, 2), (b, 1)], [(d, 1)], true, false, false⟩
  | .amaxW d a b => ⟨[(a, 2), (b, 1)], [(d, 1)], true, false, false⟩
  | .aminuW d a b => ⟨[(a, 2), (b, 1)], [(d, 1)], true, false, false⟩
  | .amaxuW d a b => ⟨[(a, 2), (b, 1)], [(d, 1)], true, false, false⟩
  | .aswapW d a b => ⟨[(a, 2), (b, 1)], [(d, 1)], true, false, false⟩
  | .acasW d a b => ⟨[(a, 2), (b, 2)], [(d, 1)], true, false, false⟩
  | .afaddW d a b => ⟨[(a, 2), (b, 1)], [(d, 1)], true, false, false⟩
  | .aaddD d a b => ⟨[(a, 2), (b, 2)], [(d, 2)], true, false, false⟩
  | .aswapD d a b => ⟨[(a, 2), (b, 2)], [(d, 2)], true, false, false⟩
  | .acasD d a b => ⟨[(a, 2), (b, 4)], [(d, 2)], true, false, false⟩
  | .afaddD d a b => ⟨[(a, 2), (b, 2)], [(d, 2)], true, false, false⟩
  | .fenceFull _ => .none
  | .fenceAcq _ => .none
  | .fenceRel _ => .none
  | .fenceRsc _ => .none
  | .cpost d a b => ⟨[(a, 1), (b, 1)], [(d, 2)], true, false, false⟩
  | .ccancel a => ⟨[(a, 1)], [], false, false, false⟩
  | .gpost d a => ⟨[(a, 1)], [(d, 1)], true, false, false⟩
  | .gstat d a => ⟨[(a, 1)], [(d, 2)], true, false, false⟩
  | .qinit d a b => ⟨[(d, 1), (a, 2), (b, 1)], [], false, false, false⟩
  | .qpush a b => ⟨[(a, 2), (b, 1)], [], false, false, false⟩
  | .qpop d a => ⟨[(a, 2)], [(d, 1)], true, false, false⟩
  | .qpushn d a b => ⟨[(a, 2), (b, 1)], [(d, 1)], true, false, false⟩
  | .qpopn d a => ⟨[(a, 2)], [(d, 2)], true, false, false⟩
  | .qcount d a => ⟨[(a, 2)], [(d, 1)], true, false, false⟩
  | .spawn d a b => ⟨[(a, 4), (b, 2)], [(d, 1)], true, false, false⟩
  | .quit => .none
  | .sendw a b => ⟨[(a, 1), (b, 2)], [], false, false, false⟩
  | .recvw d => ⟨[], [(d, 1)], true, false, false⟩
  | .sign _ a => ⟨[(a, 1)], [], false, false, false⟩
  | .cvwait _ => .none
  | .lvarr _ => .none
  | .lvwait _ => .none
  | .lvsync _ => .none
  | .qjoin a => ⟨[(a, 1)], [], false, false, false⟩
  | .csig _ a => ⟨[(a, 1)], [], false, false, false⟩
  | .waitev a => ⟨[(a, 1)], [], false, false, false⟩
  | .yield => .none
  | .mma _ a b _ _ _ => ⟨[(a, 1), (b, 2)], [], false, false, false⟩
  | .accz _ => .none
  | .accld _ a => ⟨[(a, 1)], [], false, false, false⟩
  | .accst _ a b => ⟨[(a, 1), (b, 1)], [], false, false, false⟩
  | .wbld d a b => ⟨[(d, 2), (a, 1), (b, 1)], [], false, false, false⟩
  | .skset _ a b => ⟨[(a, 1), (b, 1)], [], false, false, false⟩
  | .tpost d a => ⟨[(a, 1)], [(d, 2)], true, false, false⟩
  | .hpop d a => ⟨[(a, 1)], [(d, 8)], true, false, true⟩
  | .hcount d a => ⟨[(a, 1)], [(d, 2)], true, false, false⟩
  | .tcfg a b => ⟨[(a, 1), (b, 1)], [], false, false, false⟩
  | .tcancel a => ⟨[(a, 1)], [], false, false, false⟩
  | .mint d a => ⟨[(a, 8)], [(d, 2)], true, false, false⟩
  | .nop => .none
  | .trap a => ⟨[(a, 1)], [], false, false, false⟩
  | .ebrk => .none
  | .fstat d a => ⟨[(a, 1)], [(d, 1)], false, false, false⟩
  | .setrm d a => ⟨[(a, 1)], [(d, 1)], false, false, false⟩
  | .next _ => .none
  | .br _ _ _ _ => .none
  | .jmp _ _ => .none
  | .call _ _ _ _ => .none
  | .ret _ _ _ => .none
  | .run _ _ _ _ => .none
  | .stop _ _ _ => .none
  | .farOffset _ _ _ _ => .none
  | .farRegister _ _ _ r => ⟨[(r, 1)], [], false, false, false⟩
  | .mov16 d b => ⟨[(reg16 b, 1)], [(d, 1)], false, false, false⟩
  | .add16 d b => ⟨[(d, 1), (reg16 b, 1)], [(d, 1)], false, false, false⟩
  | .sub16 d b => ⟨[(d, 1), (reg16 b, 1)], [(d, 1)], false, false, false⟩
  | .and16 d b => ⟨[(d, 1), (reg16 b, 1)], [(d, 1)], false, false, false⟩
  | .or16 d b => ⟨[(d, 1), (reg16 b, 1)], [(d, 1)], false, false, false⟩
  | .xor16 d b => ⟨[(d, 1), (reg16 b, 1)], [(d, 1)], false, false, false⟩
  | .sll16 d b => ⟨[(d, 1), (reg16 b, 1)], [(d, 1)], false, false, false⟩
  | .srl16 d b => ⟨[(d, 1), (reg16 b, 1)], [(d, 1)], false, false, false⟩
  | .sra16 d b => ⟨[(d, 1), (reg16 b, 1)], [(d, 1)], false, false, false⟩
  | .addi16 d _ => ⟨[(d, 1)], [(d, 1)], false, false, false⟩
  | .mul16 d b => ⟨[(d, 1), (reg16 b, 1)], [(d, 1)], false, false, false⟩
  | .fadd16 d b => ⟨[(d, 1), (reg16 b, 1)], [(d, 1)], false, false, false⟩
  | .fsub16 d b => ⟨[(d, 1), (reg16 b, 1)], [(d, 1)], false, false, false⟩
  | .fmul16 d b => ⟨[(d, 1), (reg16 b, 1)], [(d, 1)], false, false, false⟩
  | .fmin16 d b => ⟨[(d, 1), (reg16 b, 1)], [(d, 1)], false, false, false⟩
  | .fmax16 d b => ⟨[(d, 1), (reg16 b, 1)], [(d, 1)], false, false, false⟩
  | _ => .none

/-- The temporaries a group of codes names, as bits t0-t7 (R76). -/
def tempMask (rs : List (Reg × Nat)) : BitVec 8 :=
  rs.foldl (fun m p => (List.range p.2).foldl
    (fun m i => if 56 ≤ p.1.toNat + i then m ||| (1#8 <<< (p.1.toNat + i - 56)) else m) m) 0#8

/-- A halfword of a code object, by its physical pages (R205). -/
def codeHalf (m : List Host.Cell) (pages : List Nat) (off : Nat) : Half :=
  BitVec.ofNat 16 (natOfBytes (Memory.readN m (pages.getD (off / 0x1000) 0 * 0x1000 + off % 0x1000) 2))

/-- The instruction at an offset of a code object and its length in bytes (R71): none is a reserved encoding (R87). -/
def codeInstr (h : Nat → Half) (off : Nat) : Option Instr × Nat × Bool :=
  let hs := [h off, h (off + 2), h (off + 4), h (off + 6)]
  let w := joinHalves (h off) (h (off + 2))
  let len := if (h off).getLsbD 0 then 2 * microLength w else 2
  match decodeMicro hs with
  | .ok (i, _) => (some i, len, (h off).getLsbD 0 && isTrailerWord w)
  | .error _ => (none, len, (h off).getLsbD 0 && isTrailerWord w)

/-- The offset of the end of the figure whose next instruction stands at `off`, none where it does not end within `clen`
(R71, R205). `fuel` bounds the instructions. -/
def figureEnd (h : Nat → Half) (clen : Nat) : Nat → Nat → Option Nat
  | 0, _ => none
  | fuel + 1, off =>
    let (_, len, trailer) := codeInstr h off
    if clen < off + len then none
    else if trailer then some (off + len)
    else figureEnd h clen fuel (off + len)

/-- The traits of a figure: FP64 and set-converged (R85, R122, R34). -/
def figureTraits (h : Nat → Half) : Nat → Nat → Bool × Bool
  | 0, _ => (false, false)
  | fuel + 1, off =>
    let (i, len, trailer) := codeInstr h off
    if trailer then (false, false)
    else
      let (fp, sc) := figureTraits h fuel (off + len)
      match i with
      | some i => ((usesOf i).fp64 || fp, (usesOf i).sc || sc)
      | none => (fp, sc)

/-- A breach MINT reports: its status, reason and instruction offset in its figure (R206). -/
structure Breach where
  status : Nat
  reason : Nat
  off : Nat
  deriving DecidableEq, Repr

/-- The checks of one figure (R70-R74, R87, R90): `body` and `ll` count the instructions before `off`, `temps` are the
temporaries written. A trailer alone, an empty body, is no breach (DESIGN CHOICE, log 71). Of several breaches of one
instruction the first in the order of these tests is reported (DESIGN CHOICE, log 72). -/
def checkFigure (h : Nat → Half) (accept : Bool) (fig : Nat) : Nat → Nat → Nat → Nat → BitVec 8 → Option Breach
  | 0, _, _, _, _ => none
  | fuel + 1, off, body, ll, temps =>
    let (i, len, trailer) := codeInstr h off
    let u := match i with
      | some i => usesOf i
      | none => Uses.none
    let unwritten := tempMask u.reads &&& ~~~temps
    if trailer then
      let aw := (joinHalves (h off) (h (off + 2))).extractLsb' 14 8
      if unwritten ≠ 0#8 then some ⟨1, 3, off - fig⟩
      else if i.isNone ∧ !accept then some ⟨2, 0, off - fig⟩
      else if aw.toNat / 2 ^ ll ≠ 0 then some ⟨1, 7, off - fig⟩
      else none
    else if body = 24 then some ⟨1, 1, off - fig⟩
    else if u.ll ∧ ll = 8 then some ⟨1, 2, off - fig⟩
    else if unwritten ≠ 0#8 then some ⟨1, 3, off - fig⟩
    else if u.ll ∧ tempMask u.writes ≠ 0#8 then some ⟨1, 4, off - fig⟩
    else if i.isNone ∧ !accept then some ⟨2, 0, off - fig⟩
    else
      checkFigure h accept fig fuel (off + len) (body + 1) (if u.ll then ll + 1 else ll) (temps ||| tempMask u.writes)

/-- The figure starts of an object, or the first breach with its figure address (R205, R206). -/
def scanObject (h : Nat → Half) (accept : Bool) (clen : Nat) : Nat → Nat → Except (Breach × Nat) (List Nat)
  | 0, _ => .ok []
  | fuel + 1, fig =>
    match figureEnd h clen clen fig with
    | none => .ok []
    | some last =>
      match checkFigure h accept fig clen fig 0 0 0#8 with
      | some b => .error (b, fig)
      | none =>
        match scanObject h accept clen fuel ((last + 7) / 8 * 8) with
        | .ok r => .ok (fig :: r)
        | .error e => .error e

/-! MINT (R204-R207). -/

/-- The checks of a descriptor at issue (R204). -/
def mintCheck (d : List Word) : Except Flt Unit :=
  let base := pairAt d 0
  let clen := (wordAt d 2).toNat
  if isArray base then .error (.protection 6 (ea22 base))
  else if !canonical base then .error (.protection 3 (ea22 base))
  else if base.toNat % 4096 ≠ 0 then .error (.misaligned (ea22 base))
  else if clen % 8 ≠ 0 ∨ clen < 8 ∨ 0x8000000 < clen ∨ (wordAt d 3).toNat % 8 ≠ 0 ∨ (wordAt d 4).extractLsb' 2 30 ≠ 0#30 ∨
      wordAt d 5 ≠ 0#32 ∨ wordAt d 6 ≠ 0#32 ∨ wordAt d 7 ≠ 0#32 then .error (.reserved 0)
  else .ok ()

/-- MINT at issue (R204). -/
def execMint (d a : Reg) (s : State) : Out :=
  turn 1 true always (fun s n g slot m => do
    m.need [d, a]
    let ws ← m.rdGroup a 8
    m.wrOk d 2
    mintCheck ws
    .ok ((s.modMicro n slot fun m => m.setPend d 2).addFifo
      (g.flight s n slot m true d 2 (pairAt ws 0) (.mint ws) .fifo))) s

/-- The physical pages of a range, or why they are not all there (R206). -/
def State.pagesOf (s : State) (asid : Nat) : Nat → Nat → Except (Nat × Walk) (List Nat)
  | 0, _ => .ok []
  | n + 1, va =>
    match s.translate asid va .read with
    | .ok pa _ =>
      match State.pagesOf s asid n (va + 0x1000) with
      | .ok r => .ok (pa / 0x1000 :: r)
      | .error e => .error e
    | w => .error (va, w)

/-- A launch that has not ended uses an object (R206). -/
def State.objectUsed (s : State) (o : Sealed) : Bool :=
  s.dsc.launches.any fun p => recNat p.2.record 8 2 == o.asid && recNat p.2.record 16 8 % 2 ^ 48 == o.base

/-- The object's lines leave every code cache (R207). -/
def State.dropCode (s : State) (asid base len : Nat) : State :=
  { s with cores := s.cores.map fun c =>
      { c with code := c.code.filter fun x =>
          !(x.1 == asid && decide (base / 64 ≤ x.2.1) && decide (x.2.1 * 64 < base + len)) } }

/-- The status pair of MINT (R206). -/
def mintStatus (status reason off fig : Nat) : QWord := BitVec.ofNat 128 (status + 256 * reason + 65536 * off + 2 ^ 32 * fig)

/-- An earlier store of the core is not yet performed (R204). -/
def State.storesOpen (s : State) (n id : Nat) : Bool :=
  s.flights.any fun p =>
    p.2.core == n && decide (p.1 < id) && p.2.isStore && !s.remoteStore p.2 && !(p.2.stage == .acked || p.2.stage == .faulted)

/-- MINT is performed (R205-R207): the whole of it in one step. -/
def State.performMint (s : State) (n id : Nat) (f : Flight) (d : List Word) : State :=
  let asid := s.asidOf n f.launch
  let base := (pairAt d 0).toNat % 2 ^ 48
  let clen := (wordAt d 2).toNat
  let hlen := (wordAt d 3).toNat
  let done (s : State) (v : QWord) : State := ((s.popFifo n id).setStage id (.reply v noFlags)).settle
  if s.storesOpen n id then s
  else if (wordAt d 4).getLsbD 1 then
    match s.sealed.find? fun o => o.asid == asid && o.base == base && o.clen == clen && o.hlen == hlen with
    | none => done s (mintStatus 6 0 0 0)
    | some o =>
      if s.objectUsed o then done s (mintStatus 5 0 0 0)
      else
        let s := s.dropCode asid base (clen + hlen)
        done { s with sealed := s.sealed.filter fun x => x != o } (mintStatus 4 0 0 0)
  else
    match s.pagesOf asid ((clen + hlen + 4095) / 4096) base with
    | .error (va, .fail leaf) => (s.postRecord 3 asid va leaf).parkFlight id f
    | .error (va, _) => (s.deferFlight id f 0x05#8 0 (va % 0x400000)).refreshWho f
    | .ok pages =>
      if pages.any fun p => s.sealed.any fun o => o.pages.contains p then done s (mintStatus 3 0 0 0)
      else
        match scanObject (codeHalf s.mem pages) ((wordAt d 4).getLsbD 0) clen clen 0 with
        | .error (b, fig) => done s (mintStatus b.status b.reason b.off fig)
        | .ok starts => done { s with sealed := s.sealed ++ [⟨asid, base, clen, hlen, starts, pages⟩] } (mintStatus 0 0 0 0)

end Sys2Proof.Machine
end

