-- ==== Sys2Proof/Machine/Exit.lean ====
section
/-!
DEFINITION. The oldest entry leaves a core's store FIFO: stores, atomics, posts, messages, queue instructions, arrivals and
MINT (R164, R170, R242, R270-R272, R285-R287, R329, R449).
-/

namespace Sys2Proof.Machine

/-- An earlier load or merge of the agent must be bound before an entry that writes leaves the FIFO: one that reads or writes
the own pool, or one of the bytes written (R272, R361). A halting launch's are recorded instead (R171). -/
def State.loadsOpen (s : State) (id : Nat) (f : Flight) : Bool :=
  s.flights.any fun p =>
    decide (p.1 < id) && p.2.sameAgent f && !p.2.bound && p.2.isLoad &&
      (let its := s.spansRead p.2 ++ if p.2.isMerge then s.spansWritten p.2 else []
       spansIn f.core its || spansMeet its (s.spansWritten f))

/-- A request leaves the FIFO for its owning port (R353). -/
def State.sendRequest (s : State) (n id : Nat) : State := (s.popFifo n id).sendOn id .request

/-- A store leaves the FIFO (R270, R329, R449); one of 16 bytes to the own pool in two halves (R360). -/
def State.exitStore (s : State) (n id : Nat) (f : Flight) (bytes : Nat) (data : QWord) : State :=
  match s.targetOfFlight f with
  | .pool false core off =>
    if core ≠ n then s.sendRequest n id
    else if !s.portOk n f.launch off bytes then (s.deferFlight id f 0x04#8 4 off).refreshWho f
    else if decide (bytes < 4) && s.isBad (poolAddr n off) bytes then (s.deferFlight id f 0x0D#8 1 off).refreshWho f
    else
      let (s, done) := (s.corrects (poolAddr n off) bytes).portStore id f n off bytes data
      if done then ((s.popFifo n id).dropFlight id).settle else s
  | .pool true core off => (s.sendFlight id f core off).settle
  | .global _ =>
    match f.stage with
    | .ready pa c =>
      if s.bufferOpen (clusterOf n) then
        (((s.popFifo n id).sendOn id (.home pa c)).intoBuffer id f bytes data.toNat).settle
      else s
    | _ => s

/-- The flight is an SC. -/
def Flight.isSc (f : Flight) : Bool :=
  match f.op with
  | .sc .. => true
  | _ => false

/-- An atomic, AMO or SC leaves the FIFO (R164, R191, R329). An SC to the twin goes there where its caller's LR reserved that
line; the twin, which holds the reservation, says whether it stands (log 19). -/
def State.exitAtomic (s : State) (n id : Nat) (f : Flight) : State :=
  match s.targetOfFlight f with
  | .pool false core off =>
    if core ≠ n then s.sendRequest n id
    else if !s.portOk n f.launch off f.size then (s.deferFlight id f 0x04#8 4 off).refreshWho f
    else if s.isBad (poolAddr n off) f.size then (s.deferFlight id f 0x0D#8 1 off).refreshWho f
    else ((s.popFifo n id).portAtomic id f n off).settle
  | .pool true core off =>
    if f.isSc && !s.holdsLine f (s.placeOf f / 64) then
      (((s.popFifo n id).endReservation f).setStage id (.reply 1#128 noFlags)).settle
    else ((s.endReservation f).sendFlight id f core off).settle
  | .global _ =>
    match f.stage with
    | .ready pa c =>
      if s.bufferOpen (clusterOf n) then
        ((((s.popFifo n id).sendOn id (.home pa c)).modCluster (clusterOf n) fun k => { k with wtb := k.wtb ++ [id] })
          |>.invalidateLine (clusterOf n) (s.asidOf n f.launch) f.vline)
      else s
    | _ => s

/-- An entry that is not held leaves the FIFO by its kind. -/
def State.exitEntry (s : State) (n id : Nat) (f : Flight) : State :=
  match f.op with
  | .store bytes _ data => s.exitStore n id f bytes data
  | .atomic .. => s.exitAtomic n id f
  | .amo .. => s.exitAtomic n id f
  | .sc .. => s.exitAtomic n id f
  | .copy ch desc => (s.enterCopy n id f ch desc).settle
  | .cancel ch => (s.cancelCopies n id f ch).settle
  | .join mask => (((s.enterJoin n id mask f).popFifo n id).dropFlight id).settle
  | .csig ch line =>
    (((s.popFifo n id).dropFlight id).modChan n ch fun q => q ++ [⟨f.launch, .sig line f.issuer⟩]).settle
  | .gpost desc => (s.enterGpost n id f desc).settle
  | .gstat ticket => (s.performGstat n id f ticket).settle
  | .queue f7 h ring x => (s.performQueue n id f f7 h ring x).settle
  | .spawn pc target args => (s.sendSpawn n id f pc target args).settle
  | .sendw w target slot reply gen => (s.sendWord n id f w target slot reply gen).settle
  | .tpost record => (s.enterTrp n id f (.tpost id record)).settle
  | .tcfg source control =>
    (s.enterTrp n id f (.tcfg source control f.issuer)).settle
  | .tcancel tag => (s.performTcancel n id f tag).settle
  | .hpop hq => s.performHpop n id f hq
  | .hcount hq => (s.performHcount n id f hq).settle
  | .arrive k => (s.recordArrival n id k f).settle
  | .mint d => s.performMint n id f d
  | _ => (s.popFifo n id).settle

/-- STORE_FIFO_EXIT: the oldest entry of a core's store FIFO is sent or performed, unless a fence or an earlier load of its
agent holds it (R174, R270, R272). An entry parked on its page holds the FIFO; one of a halting launch is recorded and
leaves (R170, R287). -/
def execStoreFifoExit (core : Nat) (s : State) : Out :=
  match (s.core core).fifo with
  | [] => .next s
  | id :: _ =>
    match Tbl.get? s.flights id with
    | none => .next (s.popFifo core id)
    | some f =>
      if s.away core f.launch then
        if f.stage = .parked then .next (s.popFifo core id)
        else if s.heldHalting id f then .next s
        else .next (s.exitEntry core id f)
      else if f.stage = .parked || s.held id f || ((f.isStore || f.isAtomic) && s.loadsOpen id f) then .next s
      else .next (s.exitEntry core id f)

end Sys2Proof.Machine
end

