-- ==== Sys2Proof/Machine/Picker.lean ====
section
/-!
DEFINITION. The picker, figure fetch and the energy budget: which micro-threads form an issue group (R34, R38, R74,
R179-R182, R187, R189, R468).
-/

namespace Sys2Proof.Machine

/-- The figure address a micro-thread would issue next (R26, R37, R88). -/
def Micro.nextFig (m : Micro) : Option Word :=
  match m.pos with
  | some p => some p.fig
  | none =>
    match m.mode with
    | .free => some m.pc
    | .called => m.callq.head?

/-- A micro-thread may be placed, but for R34 and the budget (R38): its figure. One that goes on inside a figure finishes it
first, whatever waits for it between figures (R29, R468). -/
def Core.readyFig (c : Core) (slot : Nat) : Option Word :=
  let m := c.micro slot
  if (m.life = .called ∨ m.life = .free) ∧ m.await = 0#8 ∧ (m.pos.isSome ∨ m.deferred = []) ∧ !m.blocked ∧ !c.inGroup slot then
    m.nextFig
  else none

/-- The code of a launch: its object's halfwords and length. -/
def State.codeOf (s : State) (r : Res) : Option (Sealed × (Nat → Half)) :=
  (s.codeObject r.asid r.code).map fun o => (o, codeHalf s.mem o.pages)

/-- The traits of a figure of a launch: FP64 and set-converged. -/
def State.traits (s : State) (r : Res) (fig : Word) : Bool × Bool :=
  match s.codeOf r with
  | some (_, h) => figureTraits h 25 fig.toNat
  | none => (false, false)

/-- Every live member of a slot's set stands at a set-converged figure and may be placed (R34). -/
def Core.setReady (c : Core) (l slot : Nat) (fig : Word) : Bool :=
  (c.place l slot).2.2.all fun x =>
    (c.micro x).life == .retired || (c.readyFig x == some fig && (c.micro x).pos.isNone)

/-- A micro-thread is eligible on a port (R38, R179). -/
def State.eligibleOn (s : State) (n l port : Nat) (r : Res) (slot : Nat) : Option Word :=
  let c := s.core n
  match c.readyFig slot with
  | none => none
  | some fig =>
    let (fp, sc) := s.traits r fig
    if (fp && decide (4 ≤ port)) || (sc && (c.micro slot).pos.isNone && !c.setReady l slot fig) then none else some fig

/-- A launch's energy budget allows placement (R179, R187, R189). -/
def Core.budgetOk (c : Core) (r : Res) : Bool := !c.bEn || decide (0 < r.budget)

/-- When a micro-thread that may be placed became eligible (R38): for a set-converged figure, when the last live member of its
set did (R34). While the budget holds a launch none of its micro-threads is eligible, and all become so again together. -/
def State.eligibleSince (s : State) (n l : Nat) (r : Res) (slot : Nat) (fig : Word) : Nat :=
  let c := s.core n
  if (s.traits r fig).2 && (c.micro slot).pos.isNone then
    ((c.place l slot).2.2.filter fun x => (c.micro x).life != .retired).foldl (fun t x => max t (c.micro x).since) 0
  else (c.micro slot).since

/-- The eligible micro-threads of a launch on a port, longest-eligible first, with their figures. -/
def State.eligible (s : State) (n l port : Nat) : List (Nat × Word) :=
  match s.res? n l with
  | none => []
  | some r =>
    if r.away || !(s.core n).budgetOk r then []
    else
      let all := ((s.core n).owned l).filterMap fun slot => (s.eligibleOn n l port r slot).map fun f => (slot, f)
      let since (p : Nat × Word) : Nat := s.eligibleSince n l r p.1 p.2
      all.mergeSort fun a b => decide (since a ≤ since b)

/-- The launches in the order a port serves them: after the one it served last (R179). -/
def Core.serviceOrder (c : Core) (port : Nat) : List Nat :=
  let last := c.lastServed.getD port 0
  (c.launches.filter fun l => decide (last < l)) ++ (c.launches.filter fun l => decide (l ≤ last))

/-- The members of the group that a figure's longest-eligible micro-thread leads (R38, R180): itself alone where it goes
on inside a figure (R468); whole sets for a set-converged figure. -/
def State.gather (s : State) (n l : Nat) (r : Res) (lead : Nat) (fig : Word) (list : List (Nat × Word)) : List Nat :=
  let c := s.core n
  if (c.micro lead).pos.isSome then [lead]
  else
    let at_ := (list.filter fun p => p.2 = fig ∧ (c.micro p.1).pos.isNone).map Prod.fst
    if (s.traits r fig).2 then
      let sets := (at_.map fun slot => (c.place l slot).2.2).eraseDups
      let whole := (sets.take (64 / max 1 (c.grantOf l))).flatMap id
      sortNat (at_.filter fun slot => whole.contains slot)
    else sortNat (at_.take 64)

/-- A figure address that names no figure start faults its micro-thread alone (R74): reason 6 for a figure that runs past
the object, reason 5 otherwise. Reason 6 names the figure before with its trailer's offset, as reason 5 does for a transfer; an
entry or a SPAWN's PC has none before it, and the fault names the address itself with offset 0 (DESIGN CHOICE, log 73). -/
def State.badFigure (s : State) (n slot : Nat) (r : Res) (fig : Word) : State :=
  let m := (s.core n).micro slot
  let tail : Bool := match s.codeObject r.asid r.code with
    | some o => decide (fig.toNat ≠ o.clen)
    | none => false
  let free := m.mode == .free
  let reason := if free && m.from_.isSome && tail then 6 else 5
  let (f, off) := if free then m.from_.getD (fig, 0) else (fig, 0)
  s.modCore n fun c =>
    { c.modMicro slot fun m => m.takeFault
        { code := 0x02#8, detail := detailOf false reason 0, fig := f, off := off, gen := m.gen, len := 4, ll := 0
          inFig := false, trailer := none, redo := .instruction, posted := false, stamp := c.eligible } with
      eligible := c.eligible + 1 }

/-- The lines of a figure, by virtual line number (R181). -/
def figureLines (base fig len : Nat) : List Nat :=
  let first := (base + fig) / 64
  (List.range ((base + fig + len - 1) / 64 - first + 1)).map fun i => first + i

/-- A line is in a core's code cache. -/
def Core.hasCode (c : Core) (asid vline : Nat) : Bool := c.code.any fun x => x.1 == asid && x.2.1 == vline

/-- A member enters its group: its called figure leaves its call queue, and its temporaries hold nothing known (R73;
log 9), unless it goes on inside a figure. -/
def Micro.enterGroup (m : Micro) (fresh : Nat) : Micro :=
  match m.pos with
  | some _ => m
  | none =>
    let m := if m.mode = .called then { m with callq := m.callq.tail } else m
    m.setGroup 56#6 ((List.range 8).map fun i => BitVec.ofNat 32 (Config.freeNat (fresh + i)))

/-- A group is placed in a rotation slot. -/
def State.placeGroup (s : State) (n l port rot : Nat) (r : Res) (lead : Nat) (fig : Word) (list : List (Nat × Word)) :
    State :=
  let members := s.gather n l r lead fig list
  let c := s.core n
  let len := match s.codeOf r with
    | some (o, h) => ((figureEnd h o.clen 26 fig.toNat).getD (fig.toNat + 8)) - fig.toNat
    | none => 8
  let waiting := (figureLines (r.code % 2 ^ 48) fig.toNat len).filter fun v => !c.hasCode r.asid v
  let (off, ll) := match (c.micro lead).pos with
    | some p => (p.off, p.ll)
    | none => (0, 0)
  let s := { s with fresh := s.fresh + 8 * members.length }
  s.modCore n fun c =>
    let c := (members.mapIdx fun i slot => (i, slot)).foldl
      (fun c p => c.modMicro p.2 fun m => m.enterGroup (s.fresh + 8 * p.1 - 8 * members.length)) c
    { c with
      groups := Tbl.set c.groups (port * 8 + rot)
        { launch := l, fig := fig, off := off, ll := ll, members := members, waiting := waiting }
      lastServed := c.lastServed.mapIdx fun i v => if i = port then l else v }

/-- ROTATION_SLOT_FILL: a free rotation slot takes a group of the first launch in order that has an eligible micro-thread
(R38, R179, R180); the power controller's throttle leaves the first rotation slots (R434). -/
def execRotationSlotFill (core port rot : Nat) (s : State) : Out :=
  let c := s.core core
  if 8 ≤ port ∨ 8 ≤ rot ∨ s.power.throttle ≤ rot ∨ Tbl.has c.groups (port * 8 + rot) ∨ c.parked then .next s
  else
    match (c.serviceOrder port).find? fun l => !(s.eligible core l port).isEmpty with
    | none => .next s
    | some l =>
      match s.res? core l, s.eligible core l port with
      | some r, (lead, fig) :: rest =>
        if s.isStart core l fig then .next (s.placeGroup core l port rot r lead fig ((lead, fig) :: rest))
        else .next (s.badFigure core lead r fig)
      | _, _ => .next s

/-- A group is dissolved before its figure has begun: its called members' figures go back to the heads of their queues
(R182). -/
def Core.dissolve (c : Core) (k : Nat) (g : Group) : Core :=
  let back (m : Micro) : Micro := if m.mode = .called ∧ m.pos.isNone then { m with callq := g.fig :: m.callq } else m
  let c := g.members.foldl (fun c slot => c.modMicro slot back) c
  { c with groups := Tbl.erase c.groups k }

/-- The members of a group that waits for code fault, or park on the page, and the group is dissolved (R170, R182). -/
def State.stopFetch (s : State) (n k : Nat) (g : Group) (f : Nat → Micro → Micro) : State :=
  s.modCore n fun c =>
    let c := c.dissolve k g
    let c := g.members.foldl (fun c slot => (c.modMicro slot (f c.eligible)).refresh slot) c
    { c with eligible := c.eligible + 1 }

/-- A fault of a code fetch (R182). -/
def fetchFault (g : Group) (code : Byte) (deferred : Bool) (sub va : Nat) (stamp : Nat) (m : Micro) : Micro :=
  m.takeFault
    { code := code, detail := detailOf deferred sub (va % 0x400000), fig := g.fig, off := g.off, gen := m.gen, len := 0
      ll := g.ll, inFig := m.pos.isSome, trailer := none, redo := .instruction, posted := false, stamp := stamp }

/-- Lines the code cache holds: 64 KiB (R181). -/
def codeLines : Nat := 1024

/-- A line enters the code cache, after a free choice of what it replaces (R181; log 9). -/
def Core.fillCode (c : Core) (asid vline choice : Nat) (l : Line) : Core :=
  let out := if c.code.length < codeLines then c.code.length else choice % c.code.length
  { c with code := (asid, vline, l) :: c.code.eraseIdx out }

/-- A line of code enters a core's code cache (R181). -/
def State.keepCode (s : State) (n asid vline : Nat) (l : Line) : State :=
  (s.modCore n fun c => c.fillCode asid vline s.draw l).drawn

/-- CODE_FETCH_ARRIVAL: the next missing line of a waiting group's figure arrives, through the cluster cache (R181, R182, R328,
R329); an unmapped page parks the members, and a page that is not a sealed page of their code object faults them. A line of
an uncacheable page is kept in no cache (R372). An uncorrectable error of the line at its home faults the members as a load's
does (DESIGN CHOICE, log 76). -/
def execCodeFetchArrival (core port rot : Nat) (s : State) : Out :=
  let c := s.core core
  let k := port * 8 + rot
  match Tbl.get? c.groups k with
  | none => .next s
  | some g =>
    match g.waiting, s.res? core g.launch with
    | v :: rest, some r =>
      let arrived (s : State) : State := s.modCore core fun c =>
        { c with groups := Tbl.set c.groups k { g with waiting := rest } }
      if r.away then .next s
      else if c.hasCode r.asid v then .next (arrived s)
      else
        let va := v * 64
        match s.translate r.asid va .exec with
        | .ok pa cacheable =>
          let mine := match s.codeObject r.asid r.code with
            | some o => o.pages.contains (pa / 0x1000)
            | none => false
          if !mine then .next (s.stopFetch core k g (fetchFault g 0x04#8 false 7 va))
          else
            match if cacheable then (s.cluster (clusterOf core)).find r.asid v false else none with
            | some l => .next (arrived ((s.cacheLeaf r.asid va .exec).keepCode core r.asid v l.data))
            | none =>
              if s.isBad pa 64 then
                .next ((s.machineCheck 4 (s.coreWord core) pa).stopFetch core k g (fetchFault g 0x0D#8 true 4 va))
              else
                let line := s.mergeBuffer (clusterOf core) r.asid v (s.lineAt pa)
                let s := (s.corrects pa 64).cacheLeaf r.asid va .exec
                if cacheable then
                  let s := (s.modCluster (clusterOf core) fun q => q.fill ⟨r.asid, v, false, line⟩ s.draw).drawn
                  .next (arrived (s.keepCode core r.asid v line))
                else .next (arrived s)
        | .fail leaf =>
          .next ((s.postRecord 2 r.asid va leaf).stopFetch core k g fun _ m => { m with codePark := some (va / 0x1000) })
        | .noTables => .next (s.stopFetch core k g (fetchFault g 0x05#8 true 0 va))
    | _, _ => .next s

/-- BUDGET_REFILL: the core's counter reaches a multiple of 1,024, and every launch's budget is refilled (R187). -/
def execBudgetRefill (core : Nat) (s : State) : Out :=
  .next (s.modCore core fun c =>
    let c := { c with cyc := BitVec.ofNat 64 ((c.cyc.toNat / 1024 + 1) * 1024) }
    if c.bEn then
      { c with res := Tbl.mapKV c.res fun _ r =>
          if r.phase = .saved then r else { r with budget := min (r.budget + c.bRefill.toNat) c.bCeil.toNat } }
    else c)

end Sys2Proof.Machine
end

