-- ==== Sys2Proof/Machine/End.lean ====
section
/-!
DEFINITION. Ending a launch: stopping it on its cores, releasing them, the end word, the queue entry, INTSTAT and CHILD, and
restarting (R348, R388, R389, R399, R402, R403).
-/

namespace Sys2Proof.Machine

/-! A launch in the scheduler. -/

/-- An accepted launch. -/
def State.launch? (s : State) (l : Nat) : Option Launch := Tbl.get? s.dsc.launches l

/-- The scheduler changed. -/
def State.modDsc (s : State) (f : Dsc → Dsc) : State := { s with dsc := f s.dsc }

/-- An accepted launch changed. -/
def State.modLaunch (s : State) (l : Nat) (f : Launch → Launch) : State :=
  s.modDsc fun d => { d with launches := Tbl.modify d.launches l f }

/-- PART of a launch record (R381). -/
def Launch.part (x : Launch) : Nat := recNat x.record 10 1
/-- ASID. -/
def Launch.asid (x : Launch) : Nat := recNat x.record 8 2
/-- W. -/
def Launch.width (x : Launch) : Nat := recNat x.record 14 1
/-- H. -/
def Launch.height (x : Launch) : Nat := recNat x.record 15 1
/-- A PAIR launch (R381). -/
def Launch.isPair (x : Launch) : Bool := (recNat x.record 7 1).testBit 1
/-- It runs alone on each core (R381). -/
def Launch.isExcl (x : Launch) : Bool := (recNat x.record 7 1).testBit 0

/-- The cores of a W × H rectangle at (x0, y0), in ascending (y, x). -/
def rectCores (x0 y0 w h : Nat) : List Nat :=
  (List.range Config.numCores).filter fun n =>
    decide (x0 ≤ coreX n ∧ coreX n < x0 + w ∧ y0 ≤ coreY n ∧ coreY n < y0 + h)

/-- The cores of a launch's rectangle. -/
def Launch.cores (x : Launch) : List Nat := rectCores x.x0 x.y0 x.width x.height

/-- A partition changed. -/
def State.modPart (s : State) (p : Nat) (f : Part → Part) : State :=
  s.modDsc fun d => { d with parts := d.parts.mapIdx fun i v => if i = p then f v else v }

/-- A partition. -/
def State.part (s : State) (p : Nat) : Part := s.dsc.parts.getD p ⟨0#512, 0#32, 0, 0, 0⟩

/-- A bit of INTSTAT set (R385). -/
def State.interrupt (s : State) (bit : Nat) : State :=
  s.modDsc fun d => { d with intstat := d.intstat ||| (1#25 <<< bit) }

/-- The place of entry n of a host queue (R386). -/
def HostQ.entryAt (q : HostQ) (n : Nat) : Nat :=
  (q.ring.extractLsb' 6 50).toNat * 64 + 64 * (n % max 1 (q.cfg.extractLsb' 0 16).toNat)

/-- What the scheduler writes into a queue entry (R386): STATE, and with it REASON, or RESTARTS and LAUNCH. -/
def State.writeEntry (s : State) (entry : Option (Nat × Nat)) (state : Nat) (reason : Option Nat)
    (launch : Option (Nat × Nat)) : State :=
  match entry with
  | none => s
  | some (q, n) =>
    match s.dsc.queues[q]? with
    | none => s
    | some h =>
      let at_ := h.entryAt n
      let s := s.poke (at_ + 16) 1 state
      let s := match reason with
        | some r => s.poke (at_ + 17) 1 r
        | none => s
      match launch with
      | some (restarts, id) => s.write (at_ + 18) (bytesOfNat 2 restarts ++ bytesOfNat 4 id)
      | none => s

/-- A new identifier (R389): the counter skips 0 and wraps after 2^31 − 1; bit 31 is the card. -/
def State.newIdent (s : State) : Nat × State :=
  let k := if s.dsc.idents + 1 = 2 ^ 31 then 1 else s.dsc.idents + 1
  (k + 2 ^ 31 * s.cardNo, s.modDsc fun d => { d with idents := k })

/-! Stopping a launch on its cores (R403). -/

/-- A store or atomic of a launch that has left its core and is not yet performed, or an engine's or a merge's access that is
with the twin (R403). -/
def State.sentOpen (s : State) (id : Nat) (f : Flight) : Bool :=
  f.stage == .asked || (f.isStore || f.isAtomic) && !s.inFifo f.core id &&
    (match f.stage with
     | .request => true
     | .half _ => true
     | .home _ _ => true
     | .twin => true
     | _ => false)

/-- A launch's entries on one core are discarded unperformed, its groups dissolved, its gather/scatter request stopped and its
hand-offs abandoned; what has been sent stays (R348, R403, R457). -/
def State.stopOn (s : State) (n l : Nat) : State :=
  let c := s.core n
  let drop := (s.flights.filter fun p => p.2.core == n && p.2.launch == l && !s.sentOpen p.1 p.2).map Prod.fst
  let s := c.queries.foldl (fun t p => if p.2.launch = l then (t.abandonHandoffs n p.2).freeQuery n p.1 else t) s
  let s := match Tbl.get? (s.cluster (clusterOf n)).gte n with
    | some g =>
      if g.req.launch = l then
        (s.modCluster (clusterOf n) fun k => { k with gte := Tbl.erase k.gte n }).releaseHolds n
      else s
    | none => s
  let s := s.modCore n fun c =>
    { c with
      groups := c.groups.filter fun p => p.2.launch != l
      fifo := c.fifo.filter fun id => !drop.contains id
      inbox := c.inbox.filter fun m => m.launch != l
      net := (Tbl.mapKV c.net fun _ q => q.filter fun m => m.launch != l).filter fun p => !p.2.isEmpty
      chans := c.chans.map fun q => q.filter fun e => e.launch != l
      joins := c.joins.filter fun p => p.2.launch != l
      mx := c.mx.filter fun e => e.launch != l
      trp := c.trp.filter fun e => e.launch != l
      gteq := c.gteq.filter fun e => e.launch != l
      signals := c.signals.filter fun p => p.1 != l
      lvArr := c.lvArr.filter fun m => m.launch != l
      lvSum := c.lvSum.filter fun m => m.launch != l
      lvDone := c.lvDone.filter fun m => m.launch != l
      res := Tbl.modify c.res l fun r => { r with phase := .halting, spill := [], mbox := [] } }
  { s with
    flights := s.flights.filter fun p => !drop.contains p.1
    resvs := s.resvs.filter fun r => !(r.1 == n && r.2.1 == l) }

/-- A launch's resources on a core are released; slot generations are kept, and its trace ring ends (R25, R399). -/
def State.releaseOn (s : State) (n l : Nat) : State :=
  let traced : Bool := match s.res? n l with
    | some r => (recNat r.record 80 16).testBit ((coreY n - r.y0) * recNat r.record 14 1 + (coreX n - r.x0))
    | none => false
  let s := s.modCore n fun c =>
    { c with
      slots := Tbl.mapKV c.slots fun _ m => if m.owner = some l then { Micro.blank with gen := m.gen } else m
      res := Tbl.erase c.res l
      resident := c.resident.filter fun p => p.1 != l
      cells := if c.resident.any fun p => p.1 == l then [] else c.cells
      traceEn := c.traceEn && !traced }
  { s with flights := s.flights.filter fun p => !(p.2.core == n && p.2.launch == l) }

/-- A launch begins to end with a STATE and REASON (R399, R403): it stops on every core it holds. -/
def State.beginEnd (s : State) (l state reason : Nat) (restart : Bool) : State :=
  match s.launch? l with
  | none => s
  | some x =>
    if x.state = .ending then s
    else
      let s := if x.state = .waiting then s else x.cores.foldl (fun t n => t.stopOn n l) s
      s.modLaunch l fun x =>
        { x with
          released := x.state == .waiting, state := .ending, fin := some (state, reason, restart), sweep := none }

/-! The end (R399). -/

/-- What becomes of the end word (R399): it is not written, it waits for its page, or its place. -/
inductive EndWord where
  | skip
  | wait (va : Nat) (leaf : DWord)
  | place (pa : Nat)
  deriving DecidableEq, Repr

/-- Where a launch's end word goes (R399). A valid leaf without write permission is no place; a page the host may still
map or make dirty is waited for. -/
def State.endWord (s : State) (x : Launch) : EndWord :=
  let d : DWord := BitVec.ofNat 64 (recNat x.record 192 8)
  if d = 0#64 ∨ x.endRefused ∨ d.toNat % 8 ≠ 0 ∨ !canonical d ∨ isArray d then .skip
  else
    match s.translate x.asid (d.toNat % 2 ^ 48) .write with
    | .ok pa _ => if s.isSealed pa then .skip else .place pa
    | .fail leaf =>
      if leaf.getLsbD 0 ∧ !pteBroken leaf ∧ leaf.getLsbD 4 ∧ !leaf.getLsbD 2 then .skip
      else .wait (d.toNat % 2 ^ 48) leaf
    | .noTables => .skip

/-- A launch's pair-table entry is free, unless another launch has taken it (R447). -/
def State.freePair (s : State) (i l : Nat) : State :=
  { s with station := { s.station with table := s.station.table.mapIdx fun j v => if j = i ∧ v = some l then none else v } }

/-- A launch leaves the scheduler (R399). The twin is told that this half has ended, and the pair-table entry is free once both
have (R447). -/
def State.forget (s : State) (l : Nat) (x : Launch) : State :=
  let s := s.modDsc fun d => { d with launches := Tbl.erase d.launches l }
  match x.pairIndex with
  | some i =>
    let s := if x.twinGone then s.freePair i l else s
    if s.station.up then s.sendTwin (.sched (.refuse i l)) else s
  | none => s

/-- The end is reported (R388, R399, R402): the queue entry, then INTSTAT or CHILD; a restarted launch is accepted again from
its record, in its order, under a new identifier. -/
def State.report (s : State) (l : Nat) (x : Launch) (state reason : Nat) (restart : Bool) : State :=
  let s := s.forget l x
  if restart then
    let (id, s) := s.newIdent
    let s := s.modDsc fun d =>
      { d with
        launches := Tbl.set d.launches id
          { x with
            state := .waiting, restarts := x.restarts + 1, since := (s.part x.part).decisions, x0 := 0, y0 := 0
            areas := [], sweep := none, twinSweep := none, pairIndex := none, proposed := false, confirmed := false
            twinFull := false, swept := none, twinGone := false, fin := none, released := false, endRefused := false } }
    s.writeEntry x.entry 5 none (some (x.restarts + 1, id))
  else
    let s := s.writeEntry x.entry state (if state = 2 then none else some reason) none
    match x.poster with
    | some (n, k) => if s.away n k then s else s.raiseEvent n k evChild
    | none => s.interrupt x.part

/-- An ending launch goes on (R399, R403): once no access it has sent is open, its cores are released, the end word is
written or waits for its page, and the end is reported. Card 1's half of a PAIR launch is only released: card 0 reports it
(log 24). -/
def State.tryFinish (s : State) (l : Nat) : State :=
  match s.launch? l with
  | none => s
  | some x =>
    match x.state, x.fin with
    | .ending, some (state, reason, restart) =>
      if !x.released && s.flights.any fun p => p.2.launch == l && s.sentOpen p.1 p.2 then s
      else
        let s := if x.released then s else x.cores.foldl (fun t n => t.releaseOn n l) s
        let s := (s.modLaunch l fun x => { x with released := true, areas := [] }).settle
        if x.isPair && s.cardNo == 1 then s.forget l x
        else if restart then s.report l x state reason true
        else
          match s.endWord x with
          | .skip => s.report l x state reason false
          | .wait va leaf => s.postRecord 1 x.asid va leaf
          | .place pa =>
            (s.poke pa 8 (l + 2 ^ 32 * state + 2 ^ 40 * reason + 2 ^ 48 * x.restarts)).report l x state reason false
    | _, _ => s

/-- A launch is aborted with a reason (R403); the twin's half of a PAIR launch with it (R447). -/
def State.abort (s : State) (l reason : Nat) (restart tell : Bool) : State :=
  let pair : Bool := match s.launch? l with
    | some x => x.isPair && x.state != .waiting && x.state != .ending
    | none => false
  let s := s.beginEnd l 4 reason restart
  let s := if pair && tell then s.sendTwin (.sched (.abort l reason)) else s
  s.tryFinish l

end Sys2Proof.Machine
end

