-- ==== Sys2Proof/Machine/Place.lean ====
section
/-!
DEFINITION. Launch records: reading and checking them (R381-R383, R386-R389); which launch waits first, which rectangles fit
it, and placement (R390-R392, R395, R269).
-/

namespace Sys2Proof.Machine

/-! Partitions (R400). -/

/-- A field of a partition's configuration. -/
def Part.field (p : Part) (off n : Nat) : Nat := getLine p.cfg off n
/-- EN. -/
def Part.enabled (p : Part) : Bool := (p.field 2 1).testBit 0
/-- The clusters of a partition. -/
def Part.hasCluster (p : Part) (cl : Nat) : Bool := p.enabled && (p.field 0 2).testBit cl

/-! The record (R381). -/

/-- The 512 bytes of a record, read line by line under an ASID (R386, R388): none where a line cannot be read, with the page
and leaf where the host could still map it. -/
def State.readRecord (s : State) (asid va : Nat) : Nat → Except (Option (Nat × DWord)) (List Byte)
  | 0 => .ok []
  | n + 1 =>
    match s.translate asid va .read with
    | .ok pa _ =>
      if s.isBad pa 64 then .error none
      else
        match s.readRecord asid ((va + 64) % 2 ^ 48) n with
        | .ok r => .ok (Memory.readN s.mem pa 64 ++ r)
        | .error e => .error e
    | .fail leaf => .error (some (va, leaf))
    | .noTables => .error none

/-- Bytes of a record that are not all zero. -/
def recSet (r : List Byte) (off n : Nat) : Bool := ((r.drop off).take n).any fun b => b != 0#8

/-- Reason 2 of R387: MAGIC, VERSION, or a reserved field or bit. The reserved bits of TRACE count here where its EN is clear, and
for reason 6, which R370 gives them, where it is set (DEDUCED, log 77). -/
def badForm (r : List Byte) : Bool :=
  recNat r 0 4 != 0x57C01A5C || recNat r 4 2 != 1 || decide (8 ≤ recNat r 6 1) || decide (8 ≤ recNat r 7 1) ||
    (!(recNat r 7 1).testBit 2 && recSet r 12 2) || recSet r 58 2 || decide (2 ^ 22 ≤ recNat r 60 4) ||
    decide (2 ^ 22 ≤ recNat r 68 4) || decide (8 ≤ recNat r 73 1) || recSet r 74 6 ||
    ((List.range 3).any fun i => recSet r (106 + 8 * i) 2) || recSet r 124 4 ||
    ((List.range 8).any fun k => recSet r (129 + 8 * k) 3) || recSet r 200 56 ||
    (!(recNat r 96 4).testBit 31 && recNat r 96 4 / 2 ^ 22 != 0)

/-- Where the scratchpad starts under a partition word (R183). -/
def spOf (pw : Nat) : Nat := (pw % 256 + pw / 256 % 32) * 16384

/-- Reason 6 of R387. -/
def badNeeds (r : List Byte) : Bool :=
  let pw := recNat r 48 4
  let rf := pw % 256
  let at_ := pw / 256 % 32
  let base := recNat r 60 4
  let len := recNat r 64 4
  let stk := recNat r 68 4
  let depth := recNat r 72 1
  let tr := recNat r 96 4
  let ring := tr % 2 ^ 22
  decide (2 ^ 13 ≤ pw) || decide (144 < rf) || decide (16 < at_) || decide (144 < rf + at_) ||
    decide (rf < recNat r 52 2) || decide (at_ < recNat r 54 1) || decide (2048 < recNat r 56 2) ||
    base % 64 != 0 || len % 64 != 0 || decide (base < spOf pw) || decide (Config.poolBytes < base + len) ||
    stk % 8 != 0 || decide (64 < depth) || decide (stk < base) || decide (base + len < stk + 8192 * depth) ||
    decide (2 ^ (recNat r 14 1 * recNat r 15 1) ≤ recNat r 80 16) ||
    ((tr.testBit 31) && (tr / 2 ^ 22 % 512 != 0 || ring % 16384 != 0 || decide (ring < spOf pw) ||
      decide (Config.poolBytes < ring + 16384)))

/-- Level k of a record: its domain and COUNT (R383). -/
def levelOf (r : List Byte) (k : Nat) : Nat × Nat := (recNat r (128 + 8 * k) 1, recNat r (132 + 8 * k) 4)

/-- Domains strictly ascending. -/
def rising : List Nat → Bool
  | [] => true
  | [_] => true
  | a :: b :: r => decide (a < b) && rising (b :: r)

/-- Reason 7 of R387. -/
def badLevels (r : List Byte) : Bool :=
  let n := recNat r 11 1
  let doms := (List.range n).map fun k => (levelOf r k).1
  decide (8 < n) || ((List.range 8).any fun k => decide (n ≤ k) && recSet r (128 + 8 * k) 8) || !rising doms ||
    (doms.any fun d => !([0, 1, 2, 3, 4, 6].contains d) || (d == 6 && !(recNat r 7 1).testBit 1)) ||
    ((List.range n).any fun k => decide ((levelOf r k).1 < 2) && (levelOf r k).2 != 0)

/-- The budgets (R16). -/
def budgetOk (b : Nat) : Bool := [16, 24, 32, 40, 48, 56].contains b

/-- Reason 8 of R387. -/
def badRoles (r : List Byte) : Bool :=
  ((List.range 3).any fun i =>
    if (recNat r 73 1).testBit i then
      let (entry, b, g) := roleOf r i
      !budgetOk b || g == 0 || decide (16 < g) || entry % 8 != 0
    else recSet r (100 + 8 * i) 8) ||
    decide (recNat r 52 2 * 16384 < gangBytes r) || decide (Config.numSlots < gangSlots r)

/-! Rectangles (R383, R391). -/

/-- The instance of a domain that holds a core of a card: numbers that name it. -/
def instanceKey (dom card n : Nat) : Nat × Nat :=
  if dom = 2 then (card, n)
  else if dom = 3 then (card, clusterOf n)
  else if dom = 4 then (card, 0)
  else (0, 0)

/-- A rectangle meets the record's counts (R383): every instance of the next declared level, or the launch, holds COUNT
instances of the level's domain. Levels that break R383 give no counts: they are reason 7. -/
def countsOk (r : List Byte) (cores : List Nat) : Bool :=
  let cards := if (recNat r 7 1).testBit 1 then [0, 1] else [0]
  let n := recNat r 11 1
  badLevels r || (List.range n).all fun k =>
    let (d, count) := levelOf r k
    if d < 2 ∨ count = 0 then true
    else
      let outer := if k + 1 < n then (levelOf r (k + 1)).1 else 7
      let all := cards.flatMap fun c => cores.map fun m => (instanceKey outer c m, instanceKey d c m)
      all.all fun p => ((all.filter fun q => q.1 == p.1).map Prod.snd).eraseDups.length == count

/-- The origins of the rectangles a record could take in its partition, in ascending (y0, x0) (R391): within the mesh and the
partition's online clusters, with the counts met. -/
def State.rectangles (s : State) (r : List Byte) (part : Nat) : List (Nat × Nat) :=
  let w := recNat r 14 1
  let h := recNat r 15 1
  let all := if (recNat r 7 1).testBit 2 then [(recNat r 12 1, recNat r 13 1)]
    else (List.range 8).flatMap fun y => (List.range 10).map fun x => (x, y)
  if w = 0 ∨ 10 < w ∨ h = 0 ∨ 8 < h then []
  else
    all.filter fun o =>
      let cores := rectCores o.1 o.2 w h
      decide (o.1 + w ≤ Config.meshW) && decide (o.2 + h ≤ Config.meshH) &&
        (cores.all fun n => (s.part part).hasCluster (clusterOf n) && !(s.cluster (clusterOf n)).offline) &&
        countsOk r cores

/-! Checking a record (R387). -/

/-- The first reason, from 2 on, for which a record read is refused; none where it is accepted. -/
def State.refuses (s : State) (r : List Byte) (asid part maxPrio : Nat) : Option Nat :=
  let entry (off : Nat) : Nat := recNat r off 8
  if badForm r then some 2
  else if recNat r 8 2 ≠ asid ∨ recNat r 10 1 ≠ part ∨ maxPrio < recNat r 6 1 then some 3
  else if (s.codeObject asid (recNat r 16 8)).isNone ∨ entry 24 = 0 ∨ entry 24 % 2 ≠ 0 ∨ entry 32 = 0 ∨
      entry 32 % 2 ≠ 0 then some 4
  else if (s.rectangles r part).isEmpty then some 5
  else if badNeeds r then some 6
  else if badLevels r then some 7
  else if badRoles r then some 8
  else if (recNat r 7 1).testBit 1 ∧ (!s.station.up ∨ s.station.card ∨ !((s.part part).field 2 1).testBit 1) then some 9
  else if 1024 ≤ (s.dsc.launches.filter fun p => p.2.part == part).length then some 10
  else none

/-- A launch is accepted (R386, R388, R389): its identifier, and the state. `rootq` and `prio` are its root queue, and MAXPRIO of
one that is the twin's. -/
def State.accept (s : State) (record : List Byte) (rootq prio : Nat) (entry poster : Option (Nat × Nat)) : Nat × State :=
  let (id, s) := s.newIdent
  (id, s.modDsc fun d =>
    { d with
      orders := d.orders + 1
      launches := Tbl.set d.launches id
        { record := record, state := .waiting, rootq := rootq, rootPrio := prio, entry := entry, poster := poster
          restarts := 0
          order := d.orders, since := (s.part (recNat record 10 1)).decisions, x0 := 0, y0 := 0, areas := []
          sweep := none, twinSweep := none, pairIndex := none, proposed := false, fin := none, released := false
          endRefused := false } })

/-! The first waiting launch (R390). -/

/-- This module holds card 1's half of a PAIR launch, which card 0's scheduler decides on (R391, R447). -/
def State.mirror (s : State) (x : Launch) : Bool := x.isPair && s.cardNo == 1

/-- The effective priority of a launch (R390). -/
def State.effective (s : State) (x : Launch) : Nat :=
  min 7 (recNat x.record 6 1 + ((s.part x.part).decisions - x.since) / 65536)

/-- The waiting launches of a partition (R390). -/
def State.waitingIn (s : State) (p : Nat) : List (Nat × Launch) :=
  s.dsc.launches.filter fun q =>
    q.2.part == p && (q.2.state == .waiting || q.2.state == .saved) && !s.mirror q.2

/-- One waiting launch stands before another (R390). -/
def State.before (s : State) (a b : Launch) : Bool :=
  decide (s.effective b < s.effective a) || (s.effective a == s.effective b && decide (a.order < b.order))

/-- The first waiting launch of a partition (R390). -/
def State.firstWaiting (s : State) (p : Nat) : Option (Nat × Launch) :=
  let l := s.waitingIn p
  l.find? fun a => l.all fun b => a.1 == b.1 || s.before a.2 b.2

/-- A saved context of a launch on this card has a full spill ring, and its core accepts a resume (R281, R396). -/
def State.fullHere (s : State) (l : Nat) (x : Launch) : Bool :=
  x.cores.any fun n => s.ringFull n l && !(s.core n).parked && (match s.res? n l with
    | some r => r.phase == .saved
    | none => false)

/-- A launch of the partition that a full spill ring on either card makes resume first (R396): it is saved, or its context on a
core was saved where that core was parked. -/
def State.fullIn (s : State) (p : Nat) : Option (Nat × Launch) :=
  s.dsc.launches.find? fun q =>
    q.2.part == p && ((q.2.state == .saved && (q.2.twinFull || s.fullHere q.1 q.2)) ||
      (q.2.state == .placed && s.fullHere q.1 q.2))

/-! Fitting (R391, R395). -/

/-- The resident launches of a core, but for some, with their records. -/
def Core.besides (c : Core) (ignore : List Nat) : List (Nat × Res) :=
  c.res.filter fun p => p.2.phase != .saved && !ignore.contains p.1

/-- A number of the records of some launches, summed. -/
def sumOf (l : List (Nat × Res)) (off n : Nat) : Nat := (l.map fun p => recNat p.2.record off n).sum

/-- The runs of weight-buffer units that launches hold, each by its first unit and its length (R213). -/
def unitRuns (l : List (Nat × Res)) : List (Nat × Nat) :=
  l.filterMap fun p => p.2.wbMap.head?.map fun u => (u, p.2.wbMap.length)

/-- The lowest run of `u` consecutive units that no launch holds (R213): it starts at 0 or where another run ends. -/
def unitStart (runs : List (Nat × Nat)) (u : Nat) : Option Nat :=
  (sortNat (0 :: runs.map fun p => p.1 + p.2)).find? fun a =>
    decide (a + u ≤ 2048) && runs.all fun p => decide (p.1 + p.2 ≤ a) || decide (a + u ≤ p.1)

/-- The units of a run. -/
def unitsOf (runs : List (Nat × Nat)) (u : Nat) : List Nat := (List.range u).map fun i => (unitStart runs u).getD 0 + i

/-- A launch's needs fit beside resident launches (R391): register file, tiles, consecutive WB units and scratchpad range; no
EXCL. -/
def Core.fitsBeside (c : Core) (rec : List Byte) (l : List (Nat × Res)) : Bool :=
  let base := recNat rec 60 4
  let len := recNat rec 64 4
  !(recNat rec 7 1).testBit 0 && !(l.any fun p => (recNat p.2.record 7 1).testBit 0) &&
    decide (recNat rec 52 2 + sumOf l 52 2 ≤ c.part.toNat % 256) &&
    decide (recNat rec 54 1 + sumOf l 54 1 ≤ c.part.toNat / 256 % 32) &&
    (unitStart (unitRuns l) (recNat rec 56 2)).isSome && decide (c.spStart ≤ base) &&
    l.all fun p =>
      let b := recNat p.2.record 60 4
      let k := recNat p.2.record 64 4
      decide (b + k ≤ base) || decide (base + len ≤ b)

/-- Slots of a core that no launch owns, ascending (R24). -/
def Core.freeSlots (c : Core) : List Nat := (List.range Config.numSlots).filter fun slot => (c.micro slot).owner.isNone

/-- A core fits a launch to be placed, some launches not counted (R281, R391). -/
def Core.fits (c : Core) (rec : List Byte) (ignore : List Nat) : Bool :=
  let l := c.besides ignore
  !c.parked && decide (gangSlots rec ≤ c.freeSlots.length) && (l.isEmpty || c.fitsBeside rec l)

/-- A core fits a saved launch again, some launches not counted (R395). -/
def Core.fitsAgain (c : Core) (l : Nat) (rec : List Byte) (ignore : List Nat) : Bool :=
  let rest := c.besides (l :: ignore)
  let part : Word := match Tbl.get? c.res l with
    | some r => match r.saved with
      | some v => v.part
      | none => c.part
    | none => c.part
  !c.parked && (rest.isEmpty || (part == c.part && c.fitsBeside rec rest))

/-- The lowest pair-table index free (R447). -/
def State.freeIndex (s : State) : Option Nat := (List.range 16).find? fun i => (s.station.table.getD i none).isNone

/-- The rectangles that a waiting launch may take (R391, R395). -/
def State.candidates (s : State) (x : Launch) : List (Nat × Nat) :=
  if x.state = .saved then [(x.x0, x.y0)] else s.rectangles x.record x.part

/-- A rectangle fits a waiting launch (R391, R395); a PAIR launch also needs the link and a pair-table index (R447). -/
def State.fitsAt (s : State) (l : Nat) (x : Launch) (ignore : List Nat) (o : Nat × Nat) : Bool :=
  let cores := rectCores o.1 o.2 x.width x.height
  if x.state ≠ .waiting then
    cores.all fun n =>
      (match s.res? n l with
       | some r => r.phase == .resident
       | none => false) || (s.core n).fitsAgain l x.record ignore
  else
    (cores.all fun n => (s.core n).fits x.record ignore) && (!x.isPair || (s.station.up && s.freeIndex.isSome))

/-- A decision of a partition is counted (R390). -/
def State.decided (s : State) (p : Nat) : State := s.modPart p fun v => { v with decisions := v.decisions + 1 }

/-! Placement (R269, R392). -/

/-- Numbers below a bound that no list takes, in ascending order. -/
def untaken (bound : Nat) (taken : List Nat) : List Nat := (List.range bound).filter fun i => !taken.contains i

/-- The caller as it starts (R392). -/
def Caller.start (pc arg : DWord) (core id : Nat) : Caller :=
  let h := ({ Caller.blank with pc := pc, fsup := BitVec.ofNat 10 core } : Caller)
  ((h.setReg 10#5 arg).setReg 11#5 (BitVec.ofNat 64 core)).setReg 12#5 (BitVec.ofNat 64 id)

/-- A launch as it stands on a core when placed, before its gang (R213, R296, R392). -/
def placedRes (record : List Byte) (x0 y0 : Nat) (tiles units : List Nat) (ceil : Int) (caller : Caller) : Res :=
  { record := record, x0 := x0, y0 := y0, phase := .resident, grant := none, setw := none, xacs := [], budget := ceil
    rfUsed := gangBytes record, caller := caller, mbox := [], cvs := List.replicate 16 ⟨1, []⟩
    sks := List.replicate 4 default, tileMap := tiles, wbMap := units, latches := 0#64
    levels := List.replicate 8 Level.blank, decode := List.replicate 16 (List.replicate 32 0#8)
    walker := List.replicate 1024 0#32, hitqs := List.replicate 8 none, qseq := 0, gteSeq := 0, gteLog := [], sent := 0
    received := 0, figures := 0, spill := [], ringNext := 0, saved := none }

/-- The gang's micro-threads are created, 64·G for each declared role in the order loader, computer, storer, in the lowest
free slots (R269). -/
def State.createGang (s : State) (n l : Nat) (record : List Byte) : State :=
  let want := (rolesOf record).flatMap fun i => List.replicate (64 * (roleOf record i).2.2) i
  ((s.core n).freeSlots.zip want).foldl
    (fun t p =>
      let (entry, b, _) := roleOf record p.2
      t.createMicro n l p.1 b (p.2 + 1) .free (BitVec.ofNat 32 entry) []) s

/-- The weight-buffer units of a launch at placement: their contents are undefined until written, free bytes (R213; log 1). -/
def State.undefineUnits (s : State) (n : Nat) (units : List Nat) : State :=
  (units.foldl
    (fun t u => t.write (wbAddr n (256 * u))
      ((List.range 256).map fun k => Config.freeByte s.fresh (wbAddr n (256 * u) + k))) s).drawn

/-- Placement of a launch on one core of its rectangle (R392). -/
def State.placeOn (s : State) (l : Nat) (x : Launch) (n : Nat) : State :=
  let p := s.part x.part
  let rest := (s.core n).besides []
  let s := s.modCore n fun c =>
    { c with
      part := if rest.isEmpty then BitVec.ofNat 32 (recNat x.record 48 4) else c.part
      bRefill := BitVec.ofNat 32 (p.field 4 4), bCeil := BitVec.ofNat 31 (p.field 8 4)
      bEn := (p.field 2 1).testBit 2 }
  let tiles := (untaken 16 (rest.flatMap fun q => q.2.tileMap)).take (recNat x.record 54 1)
  let units := unitsOf (unitRuns rest) (recNat x.record 56 2)
  let caller := Caller.start (BitVec.ofNat 64 (recNat x.record 24 8)) (BitVec.ofNat 64 (recNat x.record 40 8))
    (s.coreWord n) l
  let r := placedRes x.record x.x0 x.y0 tiles units (p.field 8 4 % 2 ^ 31 : Nat) caller
  let s := s.modCore n fun c => { c with res := Tbl.set c.res l r }
  let c := s.core n
  let s := (List.range tiles.length).foldl
    (fun t i => t.write (poolAddr n (c.tileOff r i)) (List.replicate 16384 0#8)) s
  let s := s.undefineUnits n units
  let s := if rolesOf x.record = [] then s
    else (s.modRes n l fun r => { r with grant := some c.cap }).createGang n l x.record
  let traced := (recNat x.record 80 16).testBit ((coreY n - x.y0) * x.width + (coreX n - x.x0))
  let tr := recNat x.record 96 4
  let s := if traced && tr.testBit 31 then
      s.modCore n fun c => { c with traceEn := true, traceRing := tr % 2 ^ 22, traceSeq := 0#32 }
    else s
  s.acquire (clusterOf n)

/-- A launch is placed at an origin (R391, R392): one decision. -/
def State.place (s : State) (l : Nat) (o : Nat × Nat) : State :=
  let s := s.modLaunch l fun x => { x with x0 := o.1, y0 := o.2, state := .placed, proposed := false, sweep := none }
  match s.launch? l with
  | none => s
  | some x => (x.cores.foldl (fun t n => t.placeOn l x n) s).decided x.part

end Sys2Proof.Machine
end

