-- ==== Sys2Proof/Machine/Hand.lean ====
section
/-!
DEFINITION. Hand-offs between the traversal processors of a pair: sub-queries, and what returns to the origin (R320,
R453-R459).
-/

namespace Sys2Proof.Machine

/-- A message discarded on arrival (R448, R456). -/
def State.countLate (s : State) : State := { s with station := { s.station with late := s.station.late + 1#32 } }

/-- The queries of this module whose hand-off h of a tag is outstanding: core and entry (R456). A tag is unique on its
core only, and a return names no core: which of several is meant is a free value (log 9). -/
def State.awaiting (s : State) (tag : Word) (h : Nat) : List (Nat × Nat) :=
  (List.range Config.numCores).flatMap fun n =>
    ((s.core n).queries.filter fun p => p.2.tag == tag && p.2.origin.isNone && p.2.out.contains h).map
      fun p => (n, p.1)

/-- The query a return is for. -/
def State.awaiter (s : State) (tag : Word) (h : Nat) : Option (Nat × Nat) :=
  let l := s.awaiting tag h
  l[s.draw % max 1 l.length]?

/-- A returned record (R456): it is appended, or waits in the station's buffer for room; one for no outstanding hand-off is
discarded and counted. -/
def State.takeHit (s : State) (tag : Word) (h : Nat) (rec_ : List Byte) : State :=
  match s.awaiter tag h with
  | none => s.countLate
  | some (n, e) =>
    match s.query? n e with
    | none => s.countLate
    | some q =>
      match (s.res? n q.launch).bind fun r => r.hitq q.hq with
      | none => s
      | some v =>
        if v.room && !s.station.hits.any fun x => x.1 == tag then
          (s.appendHit n q.launch q.hq e v rec_).setQuery n e { q with hits := q.hits + 1 }
        else ({ s with station := { s.station with hits := s.station.hits ++ [(tag, h, rec_)] } } : State)

/-- The end of a hand-off (R456): the sub-query's candidates are inserted, its error recorded, and the hand-off closed. -/
def State.takeHend (s : State) (m : HendMsg) : State :=
  match s.awaiter m.tag m.h with
  | none => s.countLate
  | some (n, e) =>
    match s.query? n e with
    | none => s.countLate
    | some q =>
      let q := if q.mode 0 then m.best.foldl (fun q p => q.insert p.1 p.2 false) q else q
      s.setQuery n e
        { q with
          out := q.out.filter fun x => x != m.h
          err := if m.err ≠ 0 ∧ q.err.isNone then some (m.err, m.code) else q.err }

/-- A cancel of a hand-off stops its sub-query, which sends nothing more (R457). -/
def State.takeHcan (s : State) (n origin : Nat) (tag : Word) (h : Nat) : State :=
  let mine (o : Option Origin) : Bool := o == some ⟨origin, tag, h⟩
  let s := s.modCore n fun c => { c with queries := c.queries.filter fun p => !mine p.2.origin }
  ({ s with station :=
    { s.station with hqs := s.station.hqs.filter fun m => !(m.origin == origin && m.tag == tag && m.h == h) } } : State)

/-- HACK_ARRIVAL: the twin has taken an HQ (R454, R459); one that no HQ waits for is of an old link, and is discarded and counted
(R460). -/
def execHackArrival (tag : Word) (h : Nat) (s : State) : Out :=
  if !s.station.up then .next s
  else if s.station.unhacked.contains (tag, h) then
    .next { s with station := { s.station with unhacked := s.station.unhacked.erase (tag, h) } }
  else .next s.countLate

/-- HIT_ARRIVAL (R456); for a halted launch it is caught (R323, R453). A full station buffer stops it (R456). -/
def execHitArrival (tag : Word) (h seq : Nat) (rec : List Byte) (s : State) : Out :=
  if !s.station.up || decide (256 ≤ s.station.hits.length) then .next s
  else
    match s.awaiter tag h with
    | none => .next s.countLate
    | some (n, e) =>
      match s.query? n e with
      | none => .next s
      | some q =>
        if s.away n q.launch then
          if s.ringFull n q.launch then .next s else .next (s.catchSpill n q.launch (.hit tag h seq rec)).drawn
        else .next (s.takeHit tag h rec).drawn

/-- HEND_ARRIVAL (R456); for a halted launch it is caught (R323, R453). -/
def execHendArrival (msg : HendMsg) (s : State) : Out :=
  if !s.station.up then .next s
  else
    match s.awaiter msg.tag msg.h with
    | none => .next s.countLate
    | some (n, e) =>
      match s.query? n e with
      | none => .next s
      | some q =>
        if s.away n q.launch then
          if s.ringFull n q.launch then .next s else .next (s.catchSpill n q.launch (.hend msg)).drawn
        else .next (s.takeHend msg).drawn

/-- The launch that a pair-table index names (R447, R449). -/
def State.pairLaunch (s : State) (index : Nat) : Option Nat := s.station.table.getD index none

/-- HCAN_ARRIVAL (R457): the sub-query runs on the core at the same (x, y); for a halted launch it is caught. -/
def execHcanArrival (origin : Nat) (tag : Word) (h : Nat) (s : State) : Out :=
  match s.station.up, coreOfCode (origin % 512) with
  | true, some n =>
    let mine := (s.core n).queries.find? fun p => p.2.origin == some ⟨origin, tag, h⟩
    match mine with
    | some (_, q) =>
      if s.away n q.launch then
        if s.ringFull n q.launch then .next s else .next (s.catchSpill n q.launch (.hcan origin tag h))
      else .next (s.takeHcan n origin tag h)
    | none => .next (s.takeHcan n origin tag h)
  | _, _ => .next s

/-- An HQ enters the station's buffer (R454). -/
def State.takeHq (s : State) (msg : HqMsg) : State :=
  { s with station := { s.station with hqs := s.station.hqs ++ [msg] } }

/-- HQ_ARRIVAL: the station answers HACK and keeps the sub-query until it is admitted (R454); one for a halted launch is
caught (R453). -/
def execHqArrival (msg : HqMsg) (s : State) : Out :=
  if !s.station.up then .next s
  else
    let acked := s.sendTwin (.hack msg.tag msg.h)
    match s.pairLaunch msg.index, coreOfCode (msg.origin % 512) with
    | some l, some n =>
      if s.away n l then
        if s.ringFull n l then .next s else .next (acked.catchSpill n l (.hq msg))
      else .next (acked.takeHq msg)
    | _, _ => .next (acked.takeHq msg)

/-- The record of a sub-query (R454): FILTER cleared, its share of the spill area, the origin and the hand-off number. -/
def subRecord (m : HqMsg) : List Byte :=
  let r := m.record
  let share := recNat r 24 2 / 8
  r.take 3 ++ bytesOfNat 1 (recNat r 3 1 % 2 + recNat r 3 1 / 4 * 4) ++ (r.drop 4).take 16 ++
    bytesOfNat 4 (recNat r 20 4 + 8 * m.h * share) ++ bytesOfNat 2 share ++ (r.drop 26).take 14 ++
    bytesOfNat 2 m.origin ++ bytesOfNat 1 (0x80 + m.h) ++ r.drop 43

/-- Where a buffered sub-query goes: its launch, its core and the launch there; none where it is refused (R454). -/
def State.subPlace (s : State) (m : HqMsg) : Option (Nat × Nat × Res) :=
  match s.pairLaunch m.index, coreOfCode (m.origin % 512) with
  | some l, some n =>
    match s.res? n l with
    | some r => if r.isPair then some (l, n, r) else none
    | none => none
  | _, _ => none

/-- SUBQUERY_ADMISSION: the first buffered sub-query that can go on is admitted to a free entry, or refused with HEND and
error 10 (R454). Which free entry it takes is a free value (log 9). -/
def execSubqueryAdmission (s : State) : Out :=
  let ready (m : HqMsg) : Bool := match s.subPlace m with
    | some (_, n, r) => !r.away && !(s.core n).freeEntries.isEmpty
    | none => true
  match takeFirst ready s.station.hqs with
  | none => .next s
  | some (m, rest) =>
    let t : State := { s with station := { s.station with hqs := rest } }
    match s.subPlace m with
    | some (l, n, _) =>
      let free := (s.core n).freeEntries
      match free[s.draw % max 1 free.length]? with
      | some e =>
        .next (t.setQuery n e (Query.start l (subRecord m) m.tag m.q m.best (some ⟨m.origin, m.tag, m.h⟩))).drawn
      | none => .next s
    | none =>
      if s.station.up then
        .next (t.sendTwin (.hend { tag := m.tag, h := m.h, sent := 0, err := 10, code := 0, best := [] }))
      else .next t

end Sys2Proof.Machine
end

