-- ==== Sys2Proof/Machine/Xfig.lean ====
section
/-!
DEFINITION. The caller's Xfig instructions (R26, R33, R88, R194-R203, R224): figure calls and waits, sets and slots, the
register window, FIG.RESUME, the mailbox and events, FIG.LAUNCH, and the inbox.
-/

namespace Sys2Proof.Machine

/-- What an attempt at an Xfig instruction gives: it is done, it stalls, it waits for the caller's own stores without having
begun, or it raises an exception. -/
inductive XRes where
  | done (s : State)
  | stall (s : State)
  | again
  | trap (cause : Nat) (tval : DWord)

/-- An Xfig instruction of the caller in focus: done, the pc moves on; stalled, the caller keeps the instruction and waits
(R194-R203). -/
def xfig (k : Option Stall) (act : State → Nat → Nat → Core → Res → XRes) (s : State) : Out :=
  match s.callerSeat? with
  | none => .next s
  | some (n, l, c, r) =>
    match act s n l c r with
    | .done t => .next (t.modCaller n l fun h => { h with pc := h.pc + 4#64, stall := none })
    | .stall t => .next (t.modCaller n l fun h => { h with stall := k })
    | .again => .next s
    | .trap cause tval => .next (s.modCaller n l fun h => h.trap cause tval)

/-- A register of a launch's caller written. -/
def State.setX (s : State) (n l : Nat) (rd : XReg) (v : DWord) : State := s.modCaller n l fun h => h.setReg rd v

/-! Selectors, calls and waits (R26, R193, R195, R196). -/

/-- The owned slots a selector names (R195). -/
def Core.selected (c : Core) (l : Nat) (sel : DWord) : List Nat :=
  let first := (sel.extractLsb' 0 10).toNat
  let count := (sel.extractLsb' 32 10).toNat
  if sel &&& 0x7FFFFC00FFFFFC00#64 ≠ 0#64 then []
  else if sel.getLsbD 63 then c.owned l
  else (c.owned l).filter fun slot => decide (first ≤ slot ∧ slot < first + count)

/-- A micro-thread is executing a called figure: in a group, or stopped or faulted inside it. -/
def Core.inFlight (c : Core) (slot : Nat) : Bool :=
  let m := c.micro slot
  m.mode == .called && m.life != .retired &&
    (c.inGroup slot || m.pos.isSome || (match m.fault with
      | some i => i.inFig
      | none => false))

/-- CALLED: no called figure of the launch's caller is queued or in flight (R193). -/
def Core.calledHolds (c : Core) (l : Nat) : Bool :=
  (c.owned l).all fun slot => (c.micro slot).callq.isEmpty && !c.inFlight slot

/-- The pending events of a caller (R193): those of a condition follow it, CHILD and EVLINE stay until they are read
(R201). -/
def Core.pendingEvents (c : Core) (l : Nat) (r : Res) : BitVec 16 :=
  let bit (i : Nat) (b : Bool) : BitVec 16 := if b then 1#16 <<< i else 0#16
  (r.caller.evPending &&& 0x28#16) ||| bit 0 (!r.mbox.isEmpty) ||| bit 1 (decide (256 ≤ c.inbox.length)) |||
    bit 2 (c.calledHolds l) ||| bit 4 (decide (r.budget ≤ 0))

/-- The pending events that are enabled; INBOX always is (R193). -/
def Core.enabledEvents (c : Core) (l : Nat) (r : Res) : BitVec 16 :=
  c.pendingEvents l r &&& (r.caller.evEnable ||| 2#16)

/-- FIG.CALL (R26, R195): a full call queue stalls it. A micro-thread whose queue was empty is newly eligible (R38). Of rs1 the
lower word is the figure address; the upper half is ignored (DESIGN CHOICE, log 69). -/
def figCallAct (rd rs1 rs2 : XReg) (s : State) (n l : Nat) (c : Core) (r : Res) : XRes :=
  let fig : Word := (r.caller.reg rs1).setWidth 32
  let reached := (c.selected l (r.caller.reg rs2)).filter fun slot =>
    (c.micro slot).life == .called && (c.micro slot).mode == .called
  if reached.any fun slot => decide (4 ≤ (c.micro slot).callq.length) then .stall s
  else
    let put (c : Core) (slot : Nat) : Core :=
      let fresh := (c.micro slot).callq.isEmpty
      let c := c.modMicro slot fun m => { m with callq := m.callq ++ [fig] }
      if fresh then c.stamp slot else c
    .done ((s.modCore n fun c => reached.foldl put c).setX n l rd (BitVec.ofNat 64 reached.length))

/-- FIG.CALL (R195). -/
def execFigCall (rd rs1 rs2 : XReg) (s : State) : Out := xfig (some (.call rd rs1 rs2)) (figCallAct rd rs1 rs2) s

/-- FIG.WAIT (R196). -/
def figWaitAct (rd : XReg) (s : State) (n l : Nat) (c : Core) (r : Res) : XRes :=
  if c.calledHolds l then .done (s.setX n l rd 0#64)
  else if c.enabledEvents l r &&& ~~~4#16 ≠ 0#16 then .done (s.setX n l rd 1#64)
  else .stall s

/-- FIG.WAIT (R196). -/
def execFigWait (rd : XReg) (s : State) : Out := xfig (some (.wait rd)) (figWaitAct rd) s

/-- FIG.SYNC (R196): a micro-thread that still executes a called figure keeps it waiting. -/
def figSyncAct (rd rs1 : XReg) (s : State) (n l : Nat) (c : Core) (r : Res) : XRes :=
  let named := c.selected l (r.caller.reg rs1)
  let idle (slot : Nat) : Bool :=
    (c.micro slot).life == .called && (c.micro slot).callq.isEmpty && !c.inFlight slot
  let gone (slot : Nat) : Bool := (c.micro slot).life == .retired || (c.micro slot).life == .faulted
  if named.all fun slot => idle slot || gone slot then
    .done (s.setX n l rd (BitVec.ofNat 64 (named.filter idle).length))
  else .stall s

/-- FIG.SYNC (R196). -/
def execFigSync (rd rs1 : XReg) (s : State) : Out := xfig (some (.sync rd rs1)) (figSyncAct rd rs1) s

/-! Sets and slots (R24, R31-R33, R197, R198). -/

/-- R33 forbids a change of slots or grant: a micro-thread of the launch is free, parked or faulted. -/
def Core.setsHeld (c : Core) (l : Nat) : Bool :=
  (c.owned l).any fun slot =>
    match (c.micro slot).life with
    | .free => true
    | .parked => true
    | .faulted => true
    | _ => false

/-- A launch's sets are recut after its slots or grant changed: accumulators and open episodes move with them (R33). -/
def State.recut (s : State) (n l : Nat) (oldSets : List (List Nat)) : State :=
  let sets := (s.core n).sets l
  if sets = oldSets then s
  else (s.modRes n l fun r => { r with xacs := recutXacs r.xacs oldSets sets }).recutLevels n l

/-- FIG.SETW (R31, R33, R197). Before the launch holds a grant it records the request, which the first FIG.ALLOC applies, and
answers the grant that it would give (DEDUCED, log 20). -/
def figSetwAct (rd rs1 : XReg) (s : State) (n l : Nat) (c : Core) (r : Res) : XRes :=
  let req := r.caller.reg rs1
  if c.setsHeld l then .done (s.setX n l rd (BitVec.ofNat 64 (c.grantOf l)))
  else
    let g := grantFor c.cap req.toNat
    let t := s.modRes n l fun r => { r with setw := some req, grant := r.grant.map fun _ => g }
    .done ((t.recut n l (c.sets l)).setX n l rd (BitVec.ofNat 64 g))

/-- FIG.SETW (R197). -/
def execFigSetw (rd rs1 : XReg) (s : State) : Out := xfig none (figSetwAct rd rs1) s

/-- The slots FIG.ALLOC takes for a count, a budget and a role (R24, R186, R198): the launch's retired slots first, then
unowned ones while its register-file reservation lasts. -/
def Core.allocSlots (c : Core) (l : Nat) (r : Res) (count bud role : Nat) : List Nat × List Nat :=
  let own := ((c.owned l).filter fun slot =>
    let m := c.micro slot
    m.life == .retired && m.bud == bud && m.role == role).take count
  let room := (recNat r.record 52 2 * 16384 - r.rfUsed) / (4 * bud)
  (own, c.freeSlots.take (min (count - own.length) room))

/-- FIG.ALLOC (R24, R31, R33, R186, R198). -/
def figAllocAct (rd rs1 rs2 : XReg) (s : State) (n l : Nat) (c : Core) (r : Res) : XRes :=
  let count := (r.caller.reg rs1).toNat
  let spec := (r.caller.reg rs2).toNat
  let bud := spec % 256
  let role := spec / 256 % 4
  let declared := role = 0 ∨ (rolesOf r.record).contains (role - 1)
  if 1024 ≤ spec ∨ !budgetOk bud ∨ !declared ∨ c.setsHeld l then .done (s.setX n l rd 0#64)
  else
    let (own, new) := c.allocSlots l r count bud role
    if own = [] ∧ new = [] then .done (s.setX n l rd 0#64)
    else
      let mode : Mode := if role = 0 then .called else .free
      let pc : Word := if role = 0 then 0#32 else BitVec.ofNat 32 (roleOf r.record (role - 1)).1
      let t := (own ++ new).foldl (fun t slot => t.createMicro n l slot bud role mode pc []) s
      let t := t.modRes n l fun r =>
        { r with rfUsed := r.rfUsed + 4 * bud * new.length, grant := some (r.grant.getD (grantFor c.cap (r.setw.getD 0#64).toNat)) }
      .done ((t.recut n l (c.sets l)).setX n l rd (BitVec.ofNat 64 (own.length + new.length)))

/-- FIG.ALLOC (R198). -/
def execFigAlloc (rd rs1 rs2 : XReg) (s : State) : Out := xfig none (figAllocAct rd rs1 rs2) s

/-! The register window (R199, R224). -/

/-- The state code of window 70 (R199). -/
def lifeCode : Life → Nat
  | .created => 0
  | .called => 1
  | .free => 2
  | .parked => 3
  | .faulted => 4
  | .halted => 5
  | .retired => 6

/-- A micro-thread is faulted inside a figure. -/
def Micro.faultedInFig (m : Micro) : Bool :=
  m.life == .faulted && (match m.fault with
    | some i => i.inFig
    | none => false)

/-- What FIG.RDREG reads of a micro-thread (R199). An empty mailbox's word reads 0 (log 9). -/
def Micro.window (m : Micro) (k : Nat) : Nat :=
  let figure : Word := match m.life, m.fault with
    | .faulted, some i => i.fig
    | _, _ => m.nextFig.getD 0#32
  let offset := match m.life, m.fault with
    | .faulted, some i => i.off
    | _, _ => 0
  if k < 56 then (if k < m.bud then (m.regs.toList.getD k 0#32).toNat else 0)
  else if k < 64 then (if m.faultedInFig then (m.regs.toList.getD k 0#32).toNat else 0)
  else
    match k with
    | 64 => m.preds.toNat
    | 65 => m.fflags.toNat
    | 66 => m.frm.toNat
    | 67 => figure.toNat
    | 68 => offset
    | 69 => m.csp.toNat
    | 70 => lifeCode m.life + (if m.mode = .free then 8 else 0)
    | 71 => m.pend.toNat % 2 ^ 32
    | 72 => m.pend.toNat / 2 ^ 32 % 2 ^ 24
    | 73 => (m.mailbox.getD 0#32).toNat
    | 74 => if m.mailbox.isSome then 1 else 0
    | 75 => m.resume.toNat
    | _ => 0

/-- What FIG.WRREG writes of a faulted micro-thread; none where it refuses (R199). CSP takes any value, also one outside the
micro-thread's stack or off an entry: CALL and RET then use it as it stands (DESIGN CHOICE, log 64). -/
def Micro.setWindow (m : Micro) (k : Nat) (v : Word) : Option Micro :=
  if k < 64 then
    if (k < 56 ∧ k < m.bud) ∨ (56 ≤ k ∧ m.faultedInFig) then some (m.setReg (BitVec.ofNat 6 k) v) else none
  else
    match k with
    | 64 => some { m with preds := v.setWidth 7 }
    | 65 => some { m with fflags := v.setWidth 5 }
    | 66 => if v.toNat ≤ 4 then some { m with frm := v.setWidth 3 } else none
    | 69 => some { m with csp := v }
    | _ => none

/-- A window address: its slot and number (R199); none where another bit is set. -/
def windowOf (a : DWord) : Option (Nat × Nat) :=
  if a.toNat < 2 ^ 18 then some (a.toNat / 256, a.toNat % 256) else none

/-- FIG.RDREG (R199, R224). -/
def figRdregAct (rd rs1 : XReg) (s : State) (n l : Nat) (c : Core) (r : Res) : XRes :=
  let v : Nat := match windowOf (r.caller.reg rs1) with
    | none => 0
    | some (slot, k) =>
      if 128 ≤ k ∧ k < 144 then (r.cv (k - 128)).count + 2 ^ 16 * (r.cv (k - 128)).sigs.length
      else
        let m := c.micro slot
        if m.owner = some l ∧ m.life ≠ .created ∧ m.life ≠ .retired then m.window k else 0
  .done (s.setX n l rd (BitVec.ofNat 64 v))

/-- FIG.RDREG (R199). -/
def execFigRdreg (rd rs1 : XReg) (s : State) : Out := xfig none (figRdregAct rd rs1) s

/-- FIG.WRREG (R199, R224): a convergence register's COUNT is written from the whole value under the rules of SIGN. -/
def figWrregAct (rd rs1 rs2 : XReg) (s : State) (n l : Nat) (c : Core) (r : Res) : XRes :=
  let v := r.caller.reg rs2
  let refused : XRes := .done (s.setX n l rd 1#64)
  match windowOf (r.caller.reg rs1) with
  | none => refused
  | some (slot, k) =>
    if 128 ≤ k ∧ k < 144 then
      let cv := r.cv (k - 128)
      if v.toNat = 0 ∨ 1024 < v.toNat ∨ !cv.sigs.isEmpty then refused
      else .done ((s.modRes n l fun r => r.setCv (k - 128) { cv with count := v.toNat }).setX n l rd 0#64)
    else
      let m := c.micro slot
      if m.owner = some l ∧ m.life = .faulted then
        match m.setWindow k (v.setWidth 32) with
        | some m' => .done ((s.modCore n fun c => c.setMicro slot m').setX n l rd 0#64)
        | none => refused
      else refused

/-- FIG.WRREG (R199). -/
def execFigWrreg (rd rs1 rs2 : XReg) (s : State) : Out := xfig none (figWrregAct rd rs1 rs2) s

/-! FIG.RESUME (R88, R169, R200, R221, R256). -/

/-- The instruction at a place of a launch's code: is it long-latency (R72), its bytes, and the await mask where it is a
trailer (R71, R83). -/
def State.placeIn (s : State) (r : Res) (fig : Word) (off : Nat) : Bool × Nat × Option (BitVec 8) :=
  match s.codeOf r with
  | none => (false, 4, none)
  | some (_, h) =>
    let at_ := fig.toNat + off
    match codeInstr h at_ with
    | (i, len, trailer) =>
      ((i.map fun x => (usesOf x).ll).getD false, len,
        if trailer then some ((joinHalves (h at_) (h (at_ + 2))).extractLsb' 14 8) else none)

/-- A micro-thread goes back to the mode it left, eligible from now; one that has a figure to finish goes on inside it
(R468). -/
def State.goBack (s : State) (n slot : Nat) : State :=
  s.modCore n fun c => (c.modMicro slot fun m => m.resumeAt m.pos).stamp slot

/-- A micro-thread leaves a flight that served several (R162, R169): the flight goes when nobody is left in it. -/
def State.leaveFlight (s : State) (id : Nat) (f : Flight) (slot : Nat) (gen : Half) : State :=
  let rest := f.who.filter fun w => !(w.slot == slot && w.gen == gen)
  if rest.isEmpty then s.dropFlight id else s.modFlight id fun f => { f with who := rest }

/-- A flight as it serves one micro-thread alone. -/
def Flight.alone (f : Flight) (slot : Nat) (gen : Half) : Flight :=
  { f with who := f.who.filter fun w => w.slot == slot && w.gen == gen, low := none }

/-- A retried operation faults again, between figures (R221): a new message, with bit 31 of its detail set. -/
def State.faultAgain (s : State) (n slot : Nat) (i : FaultInfo) (e : Flt) : State :=
  s.modCore n fun c =>
    { c.modMicro slot fun m => m.takeFault
        { i with
          code := e.code, detail := e.detail.getD i.detail ||| 0x80000000#32, posted := false, stamp := c.eligible } with
      eligible := c.eligible + 1 }

/-- An access is sent again as a new one: a load or MRG to its port or home, every other at the tail of the store FIFO
(R169, R170). -/
def State.sendAgain (s : State) (f : Flight) : State :=
  match f.op with
  | .load .. => s.addFlight { f with stage := .request }
  | .merge f7 a b _ => s.addFlight { f with op := .merge f7 a b Merge.start, stage := .request }
  | _ => s.addFifo { f with stage := .fifo }

/-- The retry of an operation whose fault was deferred (R169, R221, R231). An access that served several members of a group goes
again for this one alone. -/
def State.retryAccess (s : State) (n l slot : Nat) (i : FaultInfo) (id : Nat) (f : Flight) : State :=
  let m := (s.core n).micro slot
  let me : Issuer := ⟨slot, m.gen, f.fig, f.off, f.word⟩
  match f.op with
  | .mma cv f7 a b =>
    match s.res? n l with
    | none => s
    | some r =>
      match m.mmaSig (s.core n) r slot cv f7 a b f.fig f.off f.word s.nextId with
      | .error e => s.faultAgain n slot i e
      | .ok x =>
        match s.signCv n l cv x with
        | (t, some e) => t.faultAgain n slot i e
        | (t, none) => (t.dropFlight id).goBack n slot
  | .array op => ((s.dropFlight id).enterArray n l me op).goBack n slot
  | .tcfg source control =>
    ((s.dropFlight id).modCore n fun c => { c with trp := c.trp ++ [⟨l, .tcfg source control me⟩] }).goBack n slot
  | .recvw =>
    match m.mailbox with
    | some w =>
      ((s.setStage id (.reply (w.setWidth 128) noFlags)).modMicro n slot fun m => { m with mailbox := none }).goBack n slot
    | none =>
      if m.linked ≠ .none then s.faultAgain n slot i (.queue 3 0)
      else ((s.setStage id .linked).modMicro n slot fun m => { m with linked := .recvw }).goBack n slot
  | _ => ((s.leaveFlight id f slot m.gen).sendAgain (f.alone slot m.gen)).goBack n slot

/-- The skip of an access: its destinations are no longer pending, and the next figure no longer awaits it (R169;
DEDUCED, log 20). -/
def State.skipAccess (s : State) (n slot id : Nat) (f : Flight) : State :=
  let gen := ((s.core n).micro slot).gen
  let awaited := f.who.any fun w => w.slot == slot && w.gen == gen && w.awaited
  ((s.leaveFlight id f slot gen).modMicro n slot fun m =>
    let m := m.clearPend f.dst f.dstN
    if awaited then { m with await := m.await &&& ~~~(1#8 <<< f.ll) } else m).settle.goBack n slot

/-- Where a free micro-thread goes on after a figure that is passed over: past the trailer that the fault names, or, where the
code of the figure itself could not be fetched, past that figure (R74, R182; log 20). -/
def State.afterFigure (s : State) (r : Res) (i : FaultInfo) : Word :=
  match s.codeOf r with
  | none => nextFigure i.fig i.off i.len
  | some (o, h) =>
    if i.len = 0 then
      match figureEnd h o.clen 26 i.fig.toNat with
      | some e => nextFigure i.fig 0 (e - i.fig.toNat)
      | none => nextFigure i.fig i.off i.len
    else nextFigure i.fig i.off (s.placeIn r i.fig i.off).2.1

/-- The skip of a figure that has not begun: a called one leaves its queue, and a free micro-thread goes on as NEXT would
(DEDUCED, log 20). -/
def Micro.skipFigure (m : Micro) (next : Word) : Micro :=
  match m.mode with
  | .called => { m with callq := m.callq.tail }
  | .free => { m with pc := next }

/-- The skip of a precise fault (R88): the next instruction, or the end of the figure where the trailer faulted. A fetch that
failed inside a figure stands at an instruction that has not been read: that one is passed over. -/
def State.skipInstr (s : State) (n l slot : Nat) (r : Res) (i : FaultInfo) : State :=
  if !i.inFig then (s.modMicro n slot fun m => m.skipFigure (s.afterFigure r i)).goBack n slot
  else
    let (ll, len, aw) := s.placeIn r i.fig i.off
    let i := if i.len = 0 then { i with len := len, trailer := aw } else i
    match i.trailer with
    | some aw =>
      let s := s.modCore n fun c => (c.modMicro slot fun m =>
        { m with
          fault := none
          pc := if m.mode = .free then nextFigure i.fig i.off i.len else m.pc
          from_ := if m.mode = .free then some (i.fig, i.off) else none }).stamp slot
      (s.endFigure n l slot aw).settleMicro n slot
    | none => s.modCore n fun c => (c.modMicro slot fun m => m.skipBody i ll).stamp slot

/-- The retirement of a faulted micro-thread (R88, R256). -/
def State.retireMicro (s : State) (n slot : Nat) : State :=
  let gen := ((s.core n).micro slot).gen
  let s := (s.unlinkMicro n slot).modMicro n slot Micro.retire
  let mine (f : Flight) : Bool :=
    f.core == n && f.agent == .micro && f.stage == .faulted && f.who.any fun w => w.slot == slot && w.gen == gen
  ((s.flights.filter fun p => mine p.2).foldl (fun t p => t.leaveFlight p.1 p.2 slot gen) s).settle

/-- FIG.RESUME on a faulted micro-thread with a mode: 0 retry, 1 skip, 2 retire (R88, R169, R200). -/
def State.resumeFault (s : State) (n l slot mode : Nat) (r : Res) (i : FaultInfo) : State :=
  if mode = 2 then s.retireMicro n slot
  else
    match i.redo with
    | .access id =>
      match Tbl.get? s.flights id with
      | some f => if mode = 0 then s.retryAccess n l slot i id f else s.skipAccess n slot id f
      | none => s.goBack n slot
    | .nothing => s.goBack n slot
    | .instruction =>
      if mode = 0 then s.modCore n fun c => (c.modMicro slot fun m => m.retry i).stamp slot
      else s.skipInstr n l slot r i

/-- FIG.RESUME (R88, R200). -/
def figResumeAct (rd rs1 rs2 : XReg) (s : State) (n l : Nat) (c : Core) (r : Res) : XRes :=
  let slot := (r.caller.reg rs1).toNat
  let mode := (r.caller.reg rs2).toNat
  let m := c.micro slot
  match m.life, m.fault with
  | .faulted, some i =>
    if m.owner = some l ∧ slot < Config.numSlots ∧ mode ≤ 2 then
      .done ((s.resumeFault n l slot mode r i).setX n l rd 0#64)
    else .done (s.setX n l rd 1#64)
  | _, _ => .done (s.setX n l rd 1#64)

/-- FIG.RESUME (R200). -/
def execFigResume (rd rs1 rs2 : XReg) (s : State) : Out := xfig none (figResumeAct rd rs1 rs2) s

/-! The mailbox and events (R193, R201). -/

/-- FIG.MBOX (R201, R274). -/
def figMboxAct (rd rs1 : XReg) (s : State) (n l : Nat) (_ : Core) (r : Res) : XRes :=
  match r.mbox, (r.caller.reg rs1).toNat with
  | b :: _, 0 => .done (s.setX n l rd (BitVec.ofNat 64 (natOfBytes (b.take 8))))
  | b :: rest, 1 =>
    .done ((s.modRes n l fun r => { r with mbox := rest }).setX n l rd (BitVec.ofNat 64 (natOfBytes (b.drop 8))))
  | _, _ => .done (s.setX n l rd 0#64)

/-- FIG.MBOX (R201). -/
def execFigMbox (rd rs1 : XReg) (s : State) : Out := xfig none (figMboxAct rd rs1) s

/-- FIG.EVENT (R201). -/
def figEventAct (rd : XReg) (s : State) (n l : Nat) (c : Core) (r : Res) : XRes :=
  let v := c.enabledEvents l r
  .done ((s.modCaller n l fun h => { h with evPending := h.evPending &&& ~~~v }).setX n l rd (v.setWidth 64))

/-- FIG.EVENT (R201). -/
def execFigEvent (rd : XReg) (s : State) : Out := xfig none (figEventAct rd) s

/-! FIG.LAUNCH (R202, R388). -/

/-- A fence of the caller: its kind and scope as of `fenceSees`. -/
def State.callerFenceOf (s : State) (n l kind scope : Nat) : State :=
  (s.addFlight
    { core := n, launch := l, agent := .caller, who := [], fig := 0#32, off := 0, word := 0#32, ll := 8, dst := 0#6
      dstN := 0, ea := 0#64, sent := 0, op := .fence kind scope (s.fenceEntries n kind scope), stage := .request }).settle

/-- A fence of the caller is not yet satisfied. -/
def State.callerFenced (s : State) (n l : Nat) : Bool :=
  s.flights.any fun p => p.2.core == n && p.2.launch == l && p.2.agent == .caller && p.2.isFence

/-- The record of a FIG.LAUNCH is read, checked, and the launch accepted (R387, R388): its identifier, or 0. -/
def State.postLaunch (s : State) (n l : Nat) (va : DWord) : Nat × State :=
  match s.launch? l with
  | none => (0, s)
  | some x =>
    if va.toNat % 64 ≠ 0 ∨ !canonical va ∨ isArray va then (0, s)
    else
      match s.readRecord x.asid (va.toNat % 2 ^ 48) 8 with
      | .error _ => (0, s)
      | .ok rec_ =>
        let maxPrio := match s.dsc.queues[x.rootq]? with
          | some q => (q.cfg.extractLsb' 35 3).toNat
          | none => x.rootPrio
        match s.refuses rec_ x.asid x.part maxPrio with
        | some _ => (0, s)
        | none => s.accept rec_ x.rootq x.rootPrio none (some (n, l))

/-- FIG.LAUNCH waits for the caller's earlier stores as FENCE.rsc.device does, then posts the record (R388). -/
def figLaunchAct (rd rs1 : XReg) (s : State) (n l : Nat) (_ : Core) (r : Res) : XRes :=
  match r.caller.stall with
  | none => .stall (s.callerFenceOf n l 3 4)
  | some _ =>
    if s.callerFenced n l then .stall s
    else
      let (id, t) := s.postLaunch n l (r.caller.reg rs1)
      .done (t.setX n l rd (BitVec.ofNat 64 id))

/-- FIG.LAUNCH (R202, R388). -/
def execFigLaunch (rd rs1 : XReg) (s : State) : Out := xfig (some (.launch rd rs1)) (figLaunchAct rd rs1) s

/-! The inbox (R202, R262, R263). -/

/-- The caller's own stores and atomics are still in the store FIFO: FIG.REPLAY, which reads the pool, waits for them. -/
def State.callerBusy (s : State) (n l : Nat) : Bool :=
  (s.core n).fifo.any fun id =>
    match Tbl.get? s.flights id with
    | some f => f.agent == .caller && f.launch == l
    | none => false

/-- A spill entry is a message for the inbox. -/
def Spill.isMsg : Spill → Bool
  | .msg _ => true
  | _ => false

/-- The messages that a resume left in the spill ring are offered while the inbox has room (R295). -/
def State.offerSpill (s : State) (n l : Nat) : Nat → State
  | 0 => s
  | fuel + 1 =>
    match s.res? n l with
    | none => s
    | some r =>
      match takeFirst Spill.isMsg r.spill, r.phase with
      | some (.msg m, rest), .resident =>
        if 256 ≤ (s.core n).inbox.length then s
        else ((s.modRes n l fun r => { r with spill := rest }).takeMsg n m).offerSpill n l fuel
      | _, _ => s

/-- The oldest entries of a launch in an inbox, at most `k`, and what is left. -/
def takeEntries (l : Nat) : Nat → List Msg → List Msg × List Msg
  | _, [] => ([], [])
  | 0, q => ([], q)
  | k + 1, m :: q =>
    if m.launch = l then
      let (a, b) := takeEntries l k q
      (m :: a, b)
    else
      let (a, b) := takeEntries l (k + 1) q
      (a, m :: b)

/-- FIG.INBOX (R202): the launch's oldest entries leave the inbox for the scratchpad, behind every entry that the core's store
FIFO holds (R270). -/
def figInboxAct (rd rs1 rs2 : XReg) (s : State) (n l : Nat) (c : Core) (r : Res) : XRes :=
  let at_ := r.caller.reg rs1
  let (out, rest) := takeEntries l (r.caller.reg rs2).toNat c.inbox
  if at_.toNat % 32 ≠ 0 ∨ !c.inSp at_.toNat (32 * out.length) then .trap 7 at_
  else if !c.fifo.isEmpty then .again
  else
    let t := (s.write (poolAddr n at_.toNat) (out.flatMap Msg.bytes)).modCore n fun c => { c with inbox := rest }
    .done ((t.offerSpill n l r.spill.length).setX n l rd (BitVec.ofNat 64 out.length))

/-- FIG.INBOX (R202). -/
def execFigInbox (rd rs1 rs2 : XReg) (s : State) : Out := xfig none (figInboxAct rd rs1 rs2) s

/-- Entries of the scratchpad offered to the inbox in order, up to the first that finds it full (R202, R262): the state and
the number accepted. A broken entry is discarded and counted in STALE. -/
def State.replay (s : State) (n l off : Nat) : Nat → Nat → State × Nat
  | 0, k => (s, k)
  | fuel + 1, k =>
    if 256 ≤ (s.core n).inbox.length then (s, k)
    else
      let t := match Msg.ofBytes l (Memory.readN s.mem (poolAddr n (off + 32 * k)) 32) with
        | some m => s.takeMsg n m
        | none => (s.consume n l).countStale n
      t.replay n l off fuel (k + 1)

/-- FIG.REPLAY (R202, R262). -/
def figReplayAct (rd rs1 rs2 : XReg) (s : State) (n l : Nat) (c : Core) (r : Res) : XRes :=
  let at_ := r.caller.reg rs1
  let k := (r.caller.reg rs2).toNat
  if at_.toNat % 32 ≠ 0 ∨ !c.inSp at_.toNat (32 * k) then .trap 5 at_
  else if s.callerBusy n l then .again
  else
    let (t, done) := s.replay n l at_.toNat k 0
    .done (t.setX n l rd (BitVec.ofNat 64 done))

/-- FIG.REPLAY (R202). -/
def execFigReplay (rd rs1 rs2 : XReg) (s : State) : Out := xfig none (figReplayAct rd rs1 rs2) s

/-! Stalls (R195, R196, R203, R388). -/

/-- XFIG_STALL_COMPLETE: a stalled Xfig instruction completes once its condition holds (R195, R196, R388). -/
def execXfigStallComplete (core launch : Nat) (s : State) : Out :=
  match s.res? core launch with
  | none => .next s
  | some r =>
    let try_ (act : State → Nat → Nat → Core → Res → XRes) : Out :=
      if r.phase ≠ .resident then .next s
      else
        match act s core launch (s.core core) r with
        | .done t => .next (t.modCaller core launch fun h => { h with pc := h.pc + 4#64, stall := none })
        | _ => .next s
    match r.caller.stall with
    | some (.call rd rs1 rs2) => try_ (figCallAct rd rs1 rs2)
    | some (.wait rd) => try_ (figWaitAct rd)
    | some (.sync rd rs1) => try_ (figSyncAct rd rs1)
    | some (.launch rd rs1) => try_ (figLaunchAct rd rs1)
    | _ => .next s

end Sys2Proof.Machine
end

