-- ==== Sys2Proof/Machine/Caller.lean ====
section
/-!
DEFINITION. The caller (R190-R193, R280, R397): its RV64IMAC instructions, its accesses, its CSRs, environment calls, event
interrupts and exceptions. The RISC-V encodings, operations and causes are those of the RISC-V manuals (PRESUMED, log 6).
-/

namespace Sys2Proof.Machine

/-! Integer operations (R190; RISC-V, log 6). -/

/-- A 64-bit operation. -/
def rvAlu64 (op : RvAlu) (a b : DWord) : DWord :=
  let sh := b.toNat % 64
  match op with
  | .add => a + b
  | .sub => a - b
  | .sll => a <<< sh
  | .slt => if a.slt b then 1#64 else 0#64
  | .sltu => if a.ult b then 1#64 else 0#64
  | .xor => a ^^^ b
  | .srl => a >>> sh
  | .sra => a.sshiftRight sh
  | .or => a ||| b
  | .and => a &&& b
  | .mul => a * b
  | .mulh => BitVec.ofInt 64 (a.toInt * b.toInt / 2 ^ 64)
  | .mulhsu => BitVec.ofInt 64 (a.toInt * b.toNat / 2 ^ 64)
  | .mulhu => BitVec.ofNat 64 (a.toNat * b.toNat / 2 ^ 64)
  | .div => if b = 0#64 then 0xFFFFFFFFFFFFFFFF#64 else BitVec.ofInt 64 (a.toInt.tdiv b.toInt)
  | .divu => if b = 0#64 then 0xFFFFFFFFFFFFFFFF#64 else BitVec.ofNat 64 (a.toNat / b.toNat)
  | .rem => if b = 0#64 then a else BitVec.ofInt 64 (a.toInt.tmod b.toInt)
  | .remu => if b = 0#64 then a else BitVec.ofNat 64 (a.toNat % b.toNat)

/-- A 32-bit operation, its result sign-extended. -/
def rvAlu32 (op : RvAlu) (a b : DWord) : DWord :=
  let x : Word := a.setWidth 32
  let y : Word := b.setWidth 32
  let sh := y.toNat % 32
  let v : Word := match op with
    | .sub => x - y
    | .sll => x <<< sh
    | .srl => x >>> sh
    | .sra => x.sshiftRight sh
    | .mul => x * y
    | .div => if y = 0#32 then 0xFFFFFFFF#32 else BitVec.ofInt 32 (x.toInt.tdiv y.toInt)
    | .divu => if y = 0#32 then 0xFFFFFFFF#32 else BitVec.ofNat 32 (x.toNat / y.toNat)
    | .rem => if y = 0#32 then x else BitVec.ofInt 32 (x.toInt.tmod y.toInt)
    | .remu => if y = 0#32 then x else BitVec.ofNat 32 (x.toNat % y.toNat)
    | _ => x + y
  v.signExtend 64

/-- An operation of either width. -/
def rvAlu (op : RvAlu) (w32 : Bool) (a b : DWord) : DWord := if w32 then rvAlu32 op a b else rvAlu64 op a b

/-- A branch condition. -/
def rvTaken (cond : RvCond) (a b : DWord) : Bool :=
  match cond with
  | .eq => a == b
  | .ne => a != b
  | .lt => a.slt b
  | .ge => !a.slt b
  | .ltu => a.ult b
  | .geu => !a.ult b

/-- The bytes of a caller instruction. -/
def rvLen (c : Bool) : DWord := if c then 2#64 else 4#64

/-- The caller goes on at the next instruction. -/
def Caller.next (h : Caller) (len : DWord) : Caller := { h with pc := h.pc + len }

/-! CSRs (R192). -/

/-- Bits of sstatus that S-mode reads and writes (PRESUMED, log 3): SIE, SPIE, SPP. -/
def sstatusMask : DWord := 0x122#64

/-- The supervisor CSR at an address, in S-mode (R192; log 3). -/
def Caller.superCsr (h : Caller) (addr : Nat) : Option DWord :=
  match addr with
  | 0x100 => some h.sstatus
  | 0x104 => some h.sie
  | 0x105 => some h.stvec
  | 0x140 => some h.sscratch
  | 0x141 => some h.sepc
  | 0x142 => some h.scause
  | 0x143 => some h.stval
  | 0x144 => some h.sip
  | 0x180 => some h.satp
  | _ => none

/-- A CSR read; none where the address raises an illegal-instruction exception in the caller's mode (R190, R192). -/
def Core.csr (c : Core) (l : Nat) (r : Res) (addr : Nat) : Option DWord :=
  let h := r.caller
  match addr with
  | 0x800 => some ((c.pendingEvents l r).setWidth 64 ||| ((h.evEnable.setWidth 64 : DWord) <<< 32))
  | 0x801 => some h.fhandler
  | 0x802 => some (h.fsup.setWidth 64)
  | 0xCC0 => some (BitVec.ofNat 64 (c.grantOf l))
  | 0xCC1 => some (c.part.setWidth 64)
  | 0xCC2 => some (BitVec.ofNat 64 (c.bRefill.toNat + 2 ^ 32 * c.bCeil.toNat + if c.bEn then 2 ^ 63 else 0))
  | 0xCC3 => some (BitVec.ofNat 64 r.mbox.length)
  | 0xC00 => some c.cyc
  | 0xC01 => some c.cyc
  | 0xC02 => some c.cyc
  | _ => match h.priv with
    | .user => none
    | .supervisor => h.superCsr addr

/-- A counter address: the core's counter has moved on when it is read (R190, R374). -/
def isCounter (addr : Nat) : Bool := addr == 0xC00 || addr == 0xC01 || addr == 0xC02

/-- The value a CSR action writes (R190). -/
def csrNew (op : CsrOp) (old src : DWord) : DWord :=
  match op with
  | .rw => src
  | .rs => old ||| src
  | .rc => old &&& ~~~src

/-- The source of a CSR action. -/
def Caller.csrSrc (h : Caller) : CsrSrc → DWord
  | .reg rs1 => h.reg rs1
  | .imm v => v.setWidth 64

/-- A supervisor CSR written in S-mode; none where the address is not one (R192; log 3). -/
def Caller.setSuperCsr (h : Caller) (addr : Nat) (v : DWord) : Option Caller :=
  match addr with
  | 0x100 => some { h with sstatus := v &&& sstatusMask }
  | 0x104 => some { h with sie := v }
  | 0x105 => some { h with stvec := v }
  | 0x140 => some { h with sscratch := v }
  | 0x141 => some { h with sepc := v &&& ~~~1#64 }
  | 0x142 => some { h with scause := v }
  | 0x143 => some { h with stval := v }
  | 0x144 => some { h with sip := v }
  | 0x180 => some { h with satp := v }
  | _ => none

/-- A CSR action on the caller in focus: `put` writes the new value, or refuses it with an illegal-instruction exception
(R192). rd receives the old value. -/
def csrAct (addr : Nat) (op : CsrOp) (rd : XReg) (src : CsrSrc) (put : State → Res → Caller → DWord → Option Caller)
    (s : State) : Out :=
  match s.callerSeat? with
  | none => .next s
  | some (n, l, c, r) =>
    let h := r.caller
    let done : Option Caller := match c.csr l r addr with
      | none => none
      | some old => (put s r h (csrNew op old (h.csrSrc src))).map fun h' => (h'.setReg rd old).next 4#64
    .next (s.modCaller n l fun h => done.getD (h.trap causeIllegal (s.curWord.setWidth 64)))

/-- XFG_EVENTS_WRITE: the enable mask; the pending bits are written by FIG.EVENT only (R192). -/
def execXfgEventsWrite (op : CsrOp) (rd : XReg) (src : CsrSrc) (s : State) : Out :=
  csrAct 0x800 op rd src (fun _ _ h v => some { h with evEnable := v.extractLsb' 32 16 }) s

/-- XFG_FHANDLER_WRITE (R192). -/
def execXfgFhandlerWrite (op : CsrOp) (rd : XReg) (src : CsrSrc) (s : State) : Out :=
  csrAct 0x801 op rd src (fun _ _ h v => some { h with fhandler := v &&& ~~~1#64 }) s

/-- XFG_FSUP_WRITE: a core of the launch's rectangle on this module, or the instruction is refused (R192). -/
def execXfgFsupWrite (op : CsrOp) (rd : XReg) (src : CsrSrc) (s : State) : Out :=
  csrAct 0x802 op rd src
    (fun s r h v =>
      match coreOfCode (v.toNat % 512) with
      | some t => if r.inRect t ∧ v.toNat / 512 % 2 = s.cardNo then some { h with fsup := v.setWidth 10 } else none
      | none => none) s

/-- A write to a CSR without a row of its own: a supervisor CSR in S-mode, else an illegal-instruction exception (R192). -/
def writeCsr (op : CsrOp) (addr : Nat) (rd : XReg) (src : CsrSrc) (s : State) : Out :=
  csrAct addr op rd src
    (fun _ _ h v =>
      match h.priv with
      | .user => none
      | .supervisor => h.setSuperCsr addr v) s

/-! Environment calls (R193, R280, R397). -/

/-- ECALL with a7 = 0x58 while the event handler runs: the supervisor restores a0, a1 and the interrupted pc (R193). -/
def Caller.endHandler (h : Caller) (a0 a1 pc : DWord) : Caller :=
  let h := (h.trap 8 0#64).sret
  { ((h.setReg 10#5 a0).setReg 11#5 a1) with pc := pc, handler := none, exc := none }

/-- ECALL with a7 = 0x59: the caller's part of the launch ends (R397). -/
def Caller.finish (h : Caller) : Caller := { h.trap 8 0#64 with ended := true, exc := none }

/-- An environment call (R193, R280, R397): one that the supervisor does not serve is an exception. -/
def Caller.ecall (h : Caller) : Caller :=
  match h.priv, h.handler with
  | .user, some (a0, a1, pc) =>
    if h.reg 17#5 = 0x58#64 then h.endHandler a0 a1 pc
    else if h.reg 17#5 = 0x59#64 then h.finish
    else h.trap 8 0#64
  | .user, none => if h.reg 17#5 = 0x59#64 then h.finish else h.trap 8 0#64
  | .supervisor, _ => h.trap 9 0#64

/-- HANDLER_RETURN (R193): ECALL with a7 = 0x58; without a running handler it is an exception (R280). -/
def execHandlerReturn (s : State) : Out :=
  callerDo (fun _ _ h =>
    match h.priv, h.handler with
    | .user, some (a0, a1, pc) => h.endHandler a0 a1 pc
    | p, _ => h.trap (causeEcall p) 0#64) s

/-- CALLER_END (R397): ECALL with a7 = 0x59. -/
def execCallerEnd (s : State) : Out :=
  callerDo (fun _ _ h => match h.priv with
    | .user => h.finish
    | .supervisor => h.trap 9 0#64) s

/-! The caller's instructions without a row of their own (R190). -/

/-- A CSR read (R190, R192). -/
def Caller.readCsr (h : Caller) (c : Core) (l : Nat) (r : Res) (word : Word) (rd : XReg) (addr : BitVec 12) : Caller :=
  match c.csr l r addr.toNat with
  | some v => (h.setReg rd v).next 4#64
  | none => h.trap causeIllegal (word.setWidth 64)

/-- One of the caller's instructions that reach only its own context; `word` is the instruction (R190; RISC-V, log 6). -/
def Caller.run (h : Caller) (c : Core) (l : Nat) (r : Res) (word : Word) (len : DWord) : RvOp → Caller
  | .lui rd imm => (h.setReg rd ((imm ++ 0#12).signExtend 64)).next len
  | .auipc rd imm => (h.setReg rd (h.pc + (imm ++ 0#12).signExtend 64)).next len
  | .jal rd off => { h.setReg rd (h.pc + len) with pc := h.pc + off.signExtend 64 }
  | .jalr rd rs1 imm => { h.setReg rd (h.pc + len) with pc := (h.reg rs1 + imm.signExtend 64) &&& ~~~1#64 }
  | .branch cond rs1 rs2 off =>
    if rvTaken cond (h.reg rs1) (h.reg rs2) then { h with pc := h.pc + off.signExtend 64 } else h.next len
  | .alui op w32 rd rs1 imm => (h.setReg rd (rvAlu op w32 (h.reg rs1) (imm.signExtend 64))).next len
  | .alu op w32 rd rs1 rs2 => (h.setReg rd (rvAlu op w32 (h.reg rs1) (h.reg rs2))).next len
  | .csrRead rd addr => h.readCsr c l r word rd addr
  | .ecall => h.ecall
  | .ebreak => h.trap causeBreak h.pc
  | .sret => match h.priv with
    | .user => h.trap causeIllegal (word.setWidth 64)
    | .supervisor => h.sret
  | .wfi => h.next len
  | .sfenceVma => match h.priv with
    | .user => h.trap causeIllegal (word.setWidth 64)
    | .supervisor => h.next len
  | .illegal w => h.trap causeIllegal (w.setWidth 64)

/-- CALLER_INSTRUCTION (R190). -/
def execCallerInstruction (c : Bool) (op : RvOp) (s : State) : Out :=
  match s.callerSeat? with
  | none => .next s
  | some (n, l, _, _) =>
    let counter : Bool := match op with
      | .csrRead _ addr => isCounter addr.toNat
      | _ => false
    callerDo (fun k r h => h.run k l r s.curWord (rvLen c) op) (if counter then s.passTime n else s)

/-! Accesses (R191). -/

/-- Whether a caller's store, atomic or AMO can be made, judged at the instruction (R156-R158, R191, R208, R376). -/
inductive Check where
  | ok
  | trap (cause : Nat)
  | page (va : Nat) (leaf : DWord)
  deriving DecidableEq, Repr

/-- The checks of a caller's access of `len` bytes: misaligned, then the owning port's for a pool, the page and its seal for
a global address (R155-R158, R191, R208; log 6, log 10). `mis`, `acc` are its causes. -/
def State.callerCheck (s : State) (n l : Nat) (r : Res) (ea : DWord) (len : Nat) (need : Need) (mis acc : Nat) : Check :=
  match checkAddr n r ea len false with
  | .error e => .trap (if e.code = 0x06#8 then mis else acc)
  | .ok (.pool false core off) => if s.portOk core l off len then .ok else .trap acc
  | .ok (.pool true core off) => match s.twinWire l core off ea with
    | .ok _ => .ok
    | .error _ => .trap acc
  | .ok (.global va) =>
    match s.translate r.asid va need with
    | .ok pa _ => if need = .write ∧ s.isSealed pa then .trap acc else .ok
    | .fail leaf => .page va leaf
    | .noTables => .trap acc

/-- A caller's access in flight. -/
def callerFlight (n l : Nat) (dst : XReg) (dstN : Nat) (off : Nat) (ea : DWord) (op : Op) (stage : Stage) : Flight :=
  { core := n, launch := l, agent := .caller, who := [], fig := 0#32, off := off, word := 0#32, ll := 8
    dst := dst.setWidth 6, dstN := dstN, ea := ea, sent := 0, op := op, stage := stage }

/-- The size code of a load and how many words its result has: one word is sign-extended (R159, R190). -/
def loadShape : LoadWidth → BitVec 3 × Nat × Nat
  | .lb => (1#3, 1, 1)
  | .lh => (3#3, 2, 1)
  | .lw => (4#3, 4, 1)
  | .ld => (5#3, 8, 2)
  | .lbu => (0#3, 1, 2)
  | .lhu => (2#3, 2, 2)
  | .lwu => (4#3, 4, 2)

/-- CALLER_LOAD (R191): the access is sent, and the caller waits for its result. -/
def execCallerLoad (c : Bool) (width : LoadWidth) (rd rs1 : XReg) (imm : BitVec 12) (s : State) : Out :=
  match s.callerSeat? with
  | none => .next s
  | some (n, l, _, r) =>
    let ea := r.caller.reg rs1 + imm.signExtend 64
    let (size, len, words) := loadShape width
    match checkAddr n r ea len false with
    | .error e => .next (s.modCaller n l fun h => h.trap (if e.code = 0x06#8 then 4 else 5) ea)
    | .ok _ =>
      .next ((s.addFlight (callerFlight n l rd words (rvLen c).toNat ea (.load size 0#2) .request)).modCaller n l
        fun h => { h with waitFor := some s.nextId })

/-- The bytes of a store. -/
def storeBytes : StoreWidth → Nat
  | .sb => 1
  | .sh => 2
  | .sw => 4
  | .sd => 8

/-- A caller's store, AMO or SC is checked; where it passes, `go` enters it (R191, R208, R280). -/
def callerWrite (ea : Caller → DWord) (len : Nat) (go : Nat → Nat → Res → State → State) (s : State) : Out :=
  match s.callerSeat? with
  | none => .next s
  | some (n, l, _, r) =>
    let a := ea r.caller
    match s.callerCheck n l r a len .write 6 7 with
    | .trap cause => .next (s.modCaller n l fun h => h.trap cause a)
    | .page va leaf => .next ((s.postRecord 1 r.asid va leaf).modCaller n l fun h => h.trap 15 a)
    | .ok => .next (go n l r s)

/-- CALLER_STORE (R191): the store enters the core's store FIFO. -/
def execCallerStore (c : Bool) (width : StoreWidth) (rs1 rs2 : XReg) (imm : BitVec 12) (s : State) : Out :=
  let ea (h : Caller) : DWord := h.reg rs1 + imm.signExtend 64
  let len := storeBytes width
  callerWrite ea len
    (fun n l r s =>
      (s.addFifo { callerFlight n l 0#5 0 0 (ea r.caller)
        (.store len 0#2 (BitVec.ofNat 128 ((r.caller.reg rs2).toNat % 2 ^ (8 * len)))) .fifo with
          pc := r.caller.pc }).modCaller n l fun h => h.next (rvLen c)) s

/-- An AMO or SC enters the store FIFO, and the caller waits for its result (R191). -/
def State.addAtomic (s : State) (n l : Nat) (rd : XReg) (ea : DWord) (op : Op) : State :=
  (s.addFifo (callerFlight n l rd 2 0 ea op .fifo)).modCaller n l
    fun h => { h.next 4#64 with waitFor := some s.nextId }

/-- CALLER_AMO (R191): .rl is a FENCE.rel.system before it, .aq a FENCE.acq.system after it. -/
def execCallerAmo (op : AmoOp) (dbl aq rl : Bool) (rd rs1 rs2 : XReg) (s : State) : Out :=
  callerWrite (fun h => h.reg rs1) (if dbl then 8 else 4)
    (fun n l r s =>
      let s := if rl then s.callerFenceOf n l 2 5 else s
      let s := s.addAtomic n l rd (r.caller.reg rs1) (.amo op dbl (r.caller.reg rs2))
      if aq then s.callerFenceOf n l 1 5 else s) s

/-- CALLER_SC (R191). -/
def execCallerSc (dbl _aq rl : Bool) (rd rs1 rs2 : XReg) (s : State) : Out :=
  callerWrite (fun h => h.reg rs1) (if dbl then 8 else 4)
    (fun n l r s =>
      let s := if rl then s.callerFenceOf n l 2 5 else s
      s.addAtomic n l rd (r.caller.reg rs1) (.sc dbl (r.caller.reg rs2))) s

/-- A store or atomic of the caller is not yet performed, or a fence of it holds its next access: LR waits. -/
def State.callerOpen (s : State) (n l : Nat) : Bool :=
  s.callerFenced n l ||
    s.flights.any fun p => p.2.core == n && p.2.launch == l && p.2.agent == .caller && !p.2.bound

/-- An LR performed at its place: the line is reserved and the value read (R191). -/
def State.loadReserved (s : State) (n l : Nat) (dbl aq : Bool) (rd : XReg) (pa : Nat) : State :=
  let v : DWord := if dbl then BitVec.ofNat 64 (s.peek pa 8) else (BitVec.ofNat 32 (s.peek pa 4)).signExtend 64
  let t := (s.corrects pa (if dbl then 8 else 4)).reserveLine n l (pa / 64)
  let t := t.modCaller n l fun h => (h.setReg rd v).next 4#64
  if aq then t.callerFenceOf n l 1 5 else t

/-- A global line has an entry of the cluster's write-through buffer still on its way, or the core a request (R353, R361). -/
def State.homeOpen (s : State) (n pa : Nat) : Bool :=
  s.homeBusy n s.nextId pa ||
    (s.cluster (clusterOf n)).wtb.any fun id =>
      match Tbl.get? s.flights id with
      | some f =>
        (match f.stage with
         | .home q _ => decide (q / 64 = pa / 64)
         | _ => false)
      | none => false

/-- CALLER_LR (R191): performed at the line's owning port or home once the caller's earlier accesses are, and behind what its
core has sent to that line (R353); one of the twin's pool is sent there, and the caller waits for it (log 19). -/
def execCallerLr (dbl aq _rl : Bool) (rd rs1 : XReg) (s : State) : Out :=
  match s.callerSeat? with
  | none => .next s
  | some (n, l, _, r) =>
    let ea := r.caller.reg rs1
    let len := if dbl then 8 else 4
    let trap (cause : Nat) (s : State) : Out := .next (s.modCaller n l fun h => h.trap cause ea)
    match s.callerCheck n l r ea len .read 4 5 with
    | .trap cause => trap cause s
    | .page va leaf => trap 13 (s.postRecord 0 r.asid va leaf)
    | .ok =>
      if s.callerOpen n l then .next s
      else
        match targetOf n r ea with
        | .pool true _ _ =>
          let t := s.addFlight (callerFlight n l rd (if dbl then 2 else 1) 4 ea (.reserve dbl) .request)
          let t := t.modCaller n l fun h => { h with waitFor := some s.nextId }
          .next (if aq then t.callerFenceOf n l 1 5 else t)
        | .pool false core off =>
          if s.away core l || (core != n && s.poolBusy n s.nextId core off) then .next s
          else if s.isBad (poolAddr core off) len then trap 5 (s.machineCheck 1 (s.coreWord n) off)
          else .next (s.loadReserved n l dbl aq rd (poolAddr core off))
        | .global va =>
          match s.translate r.asid va .read with
          | .ok pa _ =>
            if s.homeOpen n pa then .next s
            else if s.isBad pa len then trap 5 (s.machineCheck 4 (s.coreWord n) pa)
            else .next (s.loadReserved n l dbl aq rd pa)
          | _ => .next s

/-- A fence instruction of the caller in focus. -/
def callerFenceDo (kind : Nat) (s : State) : Out :=
  match s.callerSeat? with
  | none => .next s
  | some (n, l, _, _) => .next ((s.callerFenceOf n l kind 5).modCaller n l fun h => h.next 4#64)

/-- CALLER_FENCE: a full fence at scope 5 that also waits for remote-store completion (R191). -/
def execCallerFence (s : State) : Out := callerFenceDo 5 s

/-- CALLER_FENCE_I: the caller fetches nothing until its earlier stores are performed (R191). -/
def execCallerFenceI (s : State) : Out := callerFenceDo 4 s

/-! Fetch. -/

/-- A halfword of caller code at an address, or its exception: cause, address, and the leaf of a page that the host may map
(R190, R280). -/
def State.fetchHalf (s : State) (asid : Nat) (pc : DWord) : Except (Nat × DWord × Option DWord) Half :=
  if isArray pc ∨ !canonical pc then .error (1, pc, none)
  else
    match s.translate asid (pc.toNat % 2 ^ 48) .exec with
    | .ok pa _ => if s.isBad pa 2 then .error (1, pc, none) else .ok (BitVec.ofNat 16 (s.peek pa 2))
    | .fail leaf => .error (12, pc, some leaf)
    | .noTables => .error (1, pc, none)

/-- The caller's instruction at its pc, with its word (R190). -/
noncomputable def State.callerFetch (s : State) (r : Res) : Except (Nat × DWord × Option DWord) (Word × Instr) :=
  match s.fetchHalf r.asid r.caller.pc with
  | .error e => .error e
  | .ok a =>
    if a.extractLsb' 0 2 ≠ 3#2 then .ok (a.setWidth 32, (decodeCaller a 0#16).1)
    else
      match s.fetchHalf r.asid (r.caller.pc + 2#64) with
      | .error e => .error e
      | .ok b => .ok (joinHalves a b, (decodeCaller a b).1)

/-- The instruction a caller's turn runs: an ECALL that ends the handler or the caller's part is its own row (R193,
R397). -/
def Caller.turnOf (h : Caller) (i : Instr) : Instr :=
  match i with
  | .callerInstruction _ .ecall =>
    if h.reg 17#5 = 0x58#64 then .handlerReturn else if h.reg 17#5 = 0x59#64 then .callerEnd else i
  | _ => i

/-- An exception of the fetch is taken; a page the host may map is asked for (R280, R282). -/
def State.fetchTrap (s : State) (n l : Nat) (r : Res) (e : Nat × DWord × Option DWord) : State :=
  let s := match e.2.2 with
    | some leaf => s.postRecord 2 r.asid (e.2.1.toNat % 2 ^ 48) leaf
    | none => s
  s.modCaller n l fun h => h.trap e.1 e.2.1

/-- FENCE.I is not yet satisfied (R191). -/
def State.fetchHeld (s : State) (n l : Nat) : Bool :=
  s.flights.any fun p =>
    p.2.core == n && p.2.launch == l && p.2.agent == .caller &&
      (match p.2.op with
       | .fence 4 _ _ => true
       | _ => false)

/-- The caller of a launch may execute its next instruction: it runs, and waits for nothing. -/
def State.callerReady (s : State) (n l : Nat) (r : Res) : Bool :=
  let h := r.caller
  r.phase == .resident && !h.ended && h.exc.isNone && h.stall.isNone && h.waitFor.isNone && !(s.core n).parked &&
    !s.fetchHeld n l

/-! Interrupts and exceptions (R193, R280). -/

/-- The handler is entered in U-mode (R193): a0 the pending and enabled events, a1 the interrupted pc. -/
def Caller.enterHandler (h : Caller) (events : BitVec 16) : Caller :=
  let pc := h.pc
  let t := { (h.trap 0x8000000000000009 0#64).sret with exc := none, pc := h.fhandler }
  { ((t.setReg 10#5 (events.setWidth 64)).setReg 11#5 pc) with handler := some (h.reg 10#5, h.reg 11#5, pc) }

/-- The supervisor of a caller without a handler empties the inbox, and offers what it took again once there is room (R193,
R263). It holds the entries with those a resume left over (log 9). -/
def State.superInbox (s : State) (n l : Nat) : State :=
  let c := s.core n
  if 256 ≤ c.inbox.length then
    let (out, rest) := takeEntries l c.inbox.length c.inbox
    (s.modCore n fun c => { c with inbox := rest }).modRes n l fun r => { r with spill := r.spill ++ out.map Spill.msg }
  else
    match s.res? n l with
    | some r => s.offerSpill n l r.spill.length
    | none => s

/-- EVENT_INTERRUPT: an enabled pending event interrupts the caller at its next instruction boundary in U-mode; one whose
handler runs is not interrupted again (R193; log 20). -/
def execEventInterrupt (core launch : Nat) (s : State) : Out :=
  match s.res? core launch with
  | none => .next s
  | some r =>
    let h := r.caller
    let c := s.core core
    let events := c.enabledEvents launch r
    if !s.callerReady core launch r || h.priv != .user || h.handler.isSome then .next s
    else if h.fhandler = 0#64 then .next (s.superInbox core launch)
    else if events = 0#16 then .next s
    else .next (s.modCaller core launch fun h => h.enterHandler events)

/-- A page's record is outstanding at its TLU. -/
def State.recordOpen (s : State) (asid va : Nat) : Bool :=
  (s.tlu (tluOf va)).recs.any fun r => r.asid == asid && r.page == va / 0x1000

/-- CALLER_EXCEPTION: the supervisor deals with an exception met in U-mode (R280). A page fault waits while its record is
outstanding, and the instruction then executes again; any other fails the launch. -/
def execCallerException (core launch : Nat) (s : State) : Out :=
  match s.res? core launch with
  | none => .next s
  | some r =>
    match r.caller.exc with
    | none => .next s
    | some e =>
      if e.fromS || r.phase != .resident then .next s
      else if e.cause = 12 ∨ e.cause = 13 ∨ e.cause = 15 then
        if s.recordOpen r.asid (e.tval.toNat % 2 ^ 48) then .next s
        else .next (s.modCaller core launch fun h => { h.sret with exc := none })
      else .next (s.abort launch 2 false true)

end Sys2Proof.Machine
end

