-- ==== Sys2Proof/Machine/Float.lean ====
section
/-!
DEFINITION. FP32, FP64 and packed arithmetic (R121-R128).
-/

namespace Sys2Proof.Machine

/-- An element of a packed register: element 0 in [15:0] (R41). -/
def elem16 (w : Word) (i : Nat) : Nat := (w.extractLsb' (16 * i) 16).toNat

/-- An operation on both elements, with the flags of both (R127). -/
def packed2 (f : Nat → Nat → FpRes) (x y : Word) : FpRes :=
  let e0 := f (elem16 x 0) (elem16 y 0)
  let e1 := f (elem16 x 1) (elem16 y 1)
  (e0.1 + 65536 * e1.1, e0.2 ||| e1.2)

/-- A fused operation on both elements, with the flags of both (R128). -/
def packed3 (f : Nat → Nat → Nat → FpRes) (x y z : Word) : FpRes :=
  let e0 := f (elem16 x 0) (elem16 y 0) (elem16 z 0)
  let e1 := f (elem16 x 1) (elem16 y 1) (elem16 z 1)
  (e0.1 + 65536 * e1.1, e0.2 ||| e1.2)

/-- FADD (R125). -/
def execFadd (d a b : Reg) (s : State) : Out :=
  alu 2 (fun m => m.fop2 (fun x y => fpAdd fp32 m.rm x.toNat y.toNat) d a b) s

/-- FSUB (R125). -/
def execFsub (d a b : Reg) (s : State) : Out :=
  alu 2 (fun m => m.fop2 (fun x y => fpSub fp32 m.rm x.toNat y.toNat) d a b) s

/-- FMUL (R125). -/
def execFmul (d a b : Reg) (s : State) : Out :=
  alu 2 (fun m => m.fop2 (fun x y => fpMul fp32 m.rm x.toNat y.toNat) d a b) s

/-- FMIN (R125). -/
def execFmin (d a b : Reg) (s : State) : Out :=
  alu 2 (fun m => m.fop2 (fun x y => fpMinMax fp32 false x.toNat y.toNat) d a b) s

/-- FMAX (R125). -/
def execFmax (d a b : Reg) (s : State) : Out :=
  alu 2 (fun m => m.fop2 (fun x y => fpMinMax fp32 true x.toNat y.toNat) d a b) s

/-- FABS: the sign bit cleared (R125). -/
def execFabs (d a : Reg) (s : State) : Out :=
  alu 2 (fun m => m.op1 (fun x => x &&& 0x7FFFFFFF#32) d a) s

/-- FNEG: the sign bit inverted (R125). -/
def execFneg (d a : Reg) (s : State) : Out :=
  alu 2 (fun m => m.op1 (fun x => x ^^^ 0x80000000#32) d a) s

/-- FSGN: the magnitude of a with the sign of b (R125). -/
def execFsgn (d a b : Reg) (s : State) : Out :=
  alu 2 (fun m => m.op2 (fun x y => (x &&& 0x7FFFFFFF#32) ||| (y &&& 0x80000000#32)) d a b) s

/-- FCLS: the class mask (R126). -/
def execFcls (d a : Reg) (s : State) : Out :=
  alu 2 (fun m => m.op1 (fun x => BitVec.ofNat 32 (fpClass fp32 x.toNat)) d a) s

/-- FFLR (R125). -/
def execFflr (d a : Reg) (s : State) : Out :=
  alu 2 (fun m => m.fop1 (fun x => fpIntegral fp32 .rdn x.toNat) d a) s

/-- FCEIL (R125). -/
def execFceil (d a : Reg) (s : State) : Out :=
  alu 2 (fun m => m.fop1 (fun x => fpIntegral fp32 .rup x.toNat) d a) s

/-- FRNDN (R125). -/
def execFrndn (d a : Reg) (s : State) : Out :=
  alu 2 (fun m => m.fop1 (fun x => fpIntegral fp32 .rne x.toNat) d a) s

/-- DADD on pairs (R125). -/
def execDadd (d a b : Reg) (s : State) : Out :=
  alu 4 (fun m => m.dop2 (fun x y => fpAdd fp64 m.rm x.toNat y.toNat) d a b) s

/-- DSUB on pairs (R125). -/
def execDsub (d a b : Reg) (s : State) : Out :=
  alu 4 (fun m => m.dop2 (fun x y => fpSub fp64 m.rm x.toNat y.toNat) d a b) s

/-- DMUL on pairs (R125). -/
def execDmul (d a b : Reg) (s : State) : Out :=
  alu 4 (fun m => m.dop2 (fun x y => fpMul fp64 m.rm x.toNat y.toNat) d a b) s

/-- DMIN on pairs (R125). -/
def execDmin (d a b : Reg) (s : State) : Out :=
  alu 4 (fun m => m.dop2 (fun x y => fpMinMax fp64 false x.toNat y.toNat) d a b) s

/-- DMAX on pairs (R125). -/
def execDmax (d a b : Reg) (s : State) : Out :=
  alu 4 (fun m => m.dop2 (fun x y => fpMinMax fp64 true x.toNat y.toNat) d a b) s

/-- DABS (R125). -/
def execDabs (d a : Reg) (s : State) : Out :=
  alu 4 (fun m => m.opD1 (fun x => x &&& 0x7FFFFFFFFFFFFFFF#64) d a) s

/-- DNEG (R125). -/
def execDneg (d a : Reg) (s : State) : Out :=
  alu 4 (fun m => m.opD1 (fun x => x ^^^ 0x8000000000000000#64) d a) s

/-- DSGN (R125). -/
def execDsgn (d a b : Reg) (s : State) : Out :=
  alu 4 (fun m => m.opD2 (fun x y => (x &&& 0x7FFFFFFFFFFFFFFF#64) ||| (y &&& 0x8000000000000000#64)) d a b) s

/-- DCLS: the class mask into one register (R126). -/
def execDcls (d a : Reg) (s : State) : Out :=
  alu 4 (fun m => m.fopDW (fun x => (fpClass fp64 x.toNat, noFlags)) d a) s

/-- DFLR (R125). -/
def execDflr (d a : Reg) (s : State) : Out :=
  alu 4 (fun m => m.dop1 (fun x => fpIntegral fp64 .rdn x.toNat) d a) s

/-- DCEIL (R125). -/
def execDceil (d a : Reg) (s : State) : Out :=
  alu 4 (fun m => m.dop1 (fun x => fpIntegral fp64 .rup x.toNat) d a) s

/-- DRNDN (R125). -/
def execDrndn (d a : Reg) (s : State) : Out :=
  alu 4 (fun m => m.dop1 (fun x => fpIntegral fp64 .rne x.toNat) d a) s

/-- ADD2 on two packed elements (R127). -/
def execAdd2 (d a b : Reg) (s : State) : Out :=
  alu 2 (fun m => m.fop2 (fun x y => packed2 (fpAdd fp16 m.rm) x y) d a b) s

/-- SUB2 on two packed elements (R127). -/
def execSub2 (d a b : Reg) (s : State) : Out :=
  alu 2 (fun m => m.fop2 (fun x y => packed2 (fpSub fp16 m.rm) x y) d a b) s

/-- MUL2 on two packed elements (R127). -/
def execMul2 (d a b : Reg) (s : State) : Out :=
  alu 2 (fun m => m.fop2 (fun x y => packed2 (fpMul fp16 m.rm) x y) d a b) s

/-- MIN2 on two packed elements (R127). -/
def execMin2 (d a b : Reg) (s : State) : Out :=
  alu 2 (fun m => m.fop2 (fun x y => packed2 (fpMinMax fp16 false) x y) d a b) s

/-- MAX2 on two packed elements (R127). -/
def execMax2 (d a b : Reg) (s : State) : Out :=
  alu 2 (fun m => m.fop2 (fun x y => packed2 (fpMinMax fp16 true) x y) d a b) s

/-- ADD2.bf on two packed elements (R127). -/
def execAdd2Bf (d a b : Reg) (s : State) : Out :=
  alu 2 (fun m => m.fop2 (fun x y => packed2 (fpAdd bf16 m.rm) x y) d a b) s

/-- SUB2.bf on two packed elements (R127). -/
def execSub2Bf (d a b : Reg) (s : State) : Out :=
  alu 2 (fun m => m.fop2 (fun x y => packed2 (fpSub bf16 m.rm) x y) d a b) s

/-- MUL2.bf on two packed elements (R127). -/
def execMul2Bf (d a b : Reg) (s : State) : Out :=
  alu 2 (fun m => m.fop2 (fun x y => packed2 (fpMul bf16 m.rm) x y) d a b) s

/-- MIN2.bf on two packed elements (R127). -/
def execMin2Bf (d a b : Reg) (s : State) : Out :=
  alu 2 (fun m => m.fop2 (fun x y => packed2 (fpMinMax bf16 false) x y) d a b) s

/-- MAX2.bf on two packed elements (R127). -/
def execMax2Bf (d a b : Reg) (s : State) : Out :=
  alu 2 (fun m => m.fop2 (fun x y => packed2 (fpMinMax bf16 true) x y) d a b) s

/-- FFMA with one rounding (R128). -/
def execFfma (d a b c : Reg) (s : State) : Out :=
  alu 2 (fun m => m.fop3 (fun x y z => fpFma fp32 m.rm x.toNat y.toNat z.toNat) d a b c) s

/-- FFMS with one rounding (R128). -/
def execFfms (d a b c : Reg) (s : State) : Out :=
  alu 2 (fun m => m.fop3 (fun x y z => fpFms fp32 m.rm x.toNat y.toNat z.toNat) d a b c) s

/-- DFMA with one rounding (R128). -/
def execDfma (d a b c : Reg) (s : State) : Out :=
  alu 4 (fun m => m.dop3 (fun x y z => fpFma fp64 m.rm x.toNat y.toNat z.toNat) d a b c) s

/-- DFMS with one rounding (R128). -/
def execDfms (d a b c : Reg) (s : State) : Out :=
  alu 4 (fun m => m.dop3 (fun x y z => fpFms fp64 m.rm x.toNat y.toNat z.toNat) d a b c) s

/-- HFMA on two packed elements (R128). -/
def execHfma (d a b c : Reg) (s : State) : Out :=
  alu 2 (fun m => m.fop3 (fun x y z => packed3 (fpFma fp16 m.rm) x y z) d a b c) s

/-- HFMA on two packed elements (R128). -/
def execHfmaBf (d a b c : Reg) (s : State) : Out :=
  alu 2 (fun m => m.fop3 (fun x y z => packed3 (fpFma bf16 m.rm) x y z) d a b c) s

end Sys2Proof.Machine
end

