-- ==== Sys2Proof/Machine/Convert.lean ====
section
/-!
DEFINITION. Conversions, special functions and packing (R130-R138).
-/

namespace Sys2Proof.Machine

/-- An integer of `w` bits and its flags as a result. -/
def intRes (w : Nat) (r : Int × FFlags) : FpRes := ((BitVec.ofInt w r.1).toNat, r.2)

/-- The low halves of a pair's two words, packed: what F2H2 deals to `packed2` first. -/
def deal0 (x : DWord) : Word := x.extractLsb' 32 16 ++ x.extractLsb' 0 16

/-- The high halves of a pair's two words, packed. -/
def deal1 (x : DWord) : Word := x.extractLsb' 48 16 ++ x.extractLsb' 16 16

/-- The rounding mode an NPK control word names: 7 is FRM, 5 and 6 are reserved (R136). -/
def Micro.npkRm (m : Micro) (ctl : Word) : Option Rm :=
  let c := ctl.extractLsb' 0 3
  if c = 5#3 ∨ c = 6#3 ∨ ctl.extractLsb' 4 28 ≠ 0#28 then none else some (m.cvtRm c)

/-- PKE4 and PKE5 (R136). -/
def Micro.packBytes (m : Micro) (f : Fmt) (d a b : Reg) : Except Flt Micro := do
  m.need [d, a, b]
  let vs ← m.rdGroup a 4
  let ctl ← m.rd b
  m.wrOk d 1
  match m.npkRm ctl with
  | none => .error (.reserved 0)
  | some rm =>
    let rs := vs.map fun v => fpNarrow fp32 f (ctl.getLsbD 3) rm v.toNat
    .ok ((m.setReg d (BitVec.ofNat 32 (rs.foldr (fun r acc => r.1 + 256 * acc) 0))).raise
      (rs.foldl (fun fl r => fl ||| r.2) noFlags))

/-- UPE4 and UPE5 (R136). -/
def Micro.unpackBytes (m : Micro) (f : Fmt) (nv : Bool) (d a : Reg) : Except Flt Micro := do
  m.need [d, a]
  let x ← m.rd a
  m.wrOk d 4
  let rs := (List.range 4).map fun i => fpWiden f fp32 (x.extractLsb' (8 * i) 8).toNat
  let m' := m.setGroup d (rs.map fun r => BitVec.ofNat 32 r.1)
  .ok (if nv then m'.raise (rs.foldl (fun fl r => fl ||| r.2) noFlags) else m')

/-- PKB4 (R137): SAT must be 0. -/
def Micro.packBlock (m : Micro) (d a b : Reg) : Except Flt Micro := do
  m.need [d, a, b]
  let vs ← m.rdGroup a 8
  let ctl ← m.rd b
  m.wrOk d 2
  match m.npkRm ctl with
  | none => .error (.reserved 0)
  | some rm =>
    if ctl.getLsbD 3 then .error (.reserved 0)
    else
      let (w, side, fl) := packB4 rm (vs.map fun v => fp32.value v.toNat)
      .ok (((m.setReg d w).setReg (d + 1#6) side).raise fl)

/-- UPB4 (R138): a non-zero upper half of the side word and an ill-formed record are refused; the rounding is in FRM. -/
def Micro.unpackBlock (m : Micro) (d a : Reg) : Except Flt Micro := do
  m.need [d, a]
  let x ← m.rdPair a
  m.wrOk d 8
  let side : Half := x.extractLsb' 32 16
  if x.extractLsb' 48 16 ≠ 0#16 ∨ b4IllFormed side then .error (.reserved 0)
  else
    let rs : List FpRes := (List.range 8).map fun i =>
      match b4Value (loWord x) side i with
      | .fin n k e => if k = 0 then (fp32.code (.fin n 0 e), noFlags) else fp32.round m.rm n k e
      | v => (fp32.code v, noFlags)
    .ok ((m.setGroup d (rs.map fun r => BitVec.ofNat 32 r.1)).raise (rs.foldl (fun fl r => fl ||| r.2) noFlags))

/-- F2I, clamped (R131). -/
def execF2i (d a : Reg) (rm : BitVec 3) (s : State) : Out :=
  alu 2 (fun m => m.fop1 (fun x => intRes 32 (fpToInt fp32 (m.cvtRm rm) (-(2 ^ 31)) (2 ^ 31 - 1) x.toNat)) d a) s

/-- F2U, clamped (R131). -/
def execF2u (d a : Reg) (rm : BitVec 3) (s : State) : Out :=
  alu 2 (fun m => m.fop1 (fun x => intRes 32 (fpToInt fp32 (m.cvtRm rm) 0 (2 ^ 32 - 1) x.toNat)) d a) s

/-- I2F (R133). -/
def execI2f (d a : Reg) (rm : BitVec 3) (s : State) : Out :=
  alu 2 (fun m => m.fop1 (fun x => fpOfInt fp32 (m.cvtRm rm) x.toInt) d a) s

/-- U2F (R133). -/
def execU2f (d a : Reg) (rm : BitVec 3) (s : State) : Out :=
  alu 2 (fun m => m.fop1 (fun x => fpOfInt fp32 (m.cvtRm rm) (x.toNat : Int)) d a) s

/-- D2F (R132). -/
def execD2f (d a : Reg) (rm : BitVec 3) (s : State) : Out :=
  alu 4 (fun m => m.fopDW (fun x => fpNarrow fp64 fp32 false (m.cvtRm rm) x.toNat) d a) s

/-- F2D, exact (R132). -/
def execF2d (d a : Reg) (_rm : BitVec 3) (s : State) : Out :=
  alu 4 (fun m => m.fopWD (fun x => fpWiden fp32 fp64 x.toNat) d a) s

/-- D2I, clamped (R131). -/
def execD2i (d a : Reg) (rm : BitVec 3) (s : State) : Out :=
  alu 4 (fun m => m.fopDW (fun x => intRes 32 (fpToInt fp64 (m.cvtRm rm) (-(2 ^ 31)) (2 ^ 31 - 1) x.toNat)) d a) s

/-- I2D, exact (R133). -/
def execI2d (d a : Reg) (_rm : BitVec 3) (s : State) : Out :=
  alu 4 (fun m => m.fopWD (fun x => fpOfInt fp64 .rne x.toInt) d a) s

/-- F2H (R132). -/
def execF2h (d a : Reg) (rm : BitVec 3) (s : State) : Out :=
  alu 2 (fun m => m.fop1 (fun x => fpNarrow fp32 fp16 false (m.cvtRm rm) x.toNat) d a) s

/-- H2F, exact (R132). -/
def execH2f (d a : Reg) (_rm : BitVec 3) (s : State) : Out :=
  alu 2 (fun m => m.fop1 (fun x => fpWiden fp16 fp32 (elem16 x 0)) d a) s

/-- F2BF (R132). -/
def execF2bf (d a : Reg) (rm : BitVec 3) (s : State) : Out :=
  alu 2 (fun m => m.fop1 (fun x => fpNarrow fp32 bf16 false (m.cvtRm rm) x.toNat) d a) s

/-- BF2F, exact (R132). -/
def execBf2f (d a : Reg) (_rm : BitVec 3) (s : State) : Out :=
  alu 2 (fun m => m.fop1 (fun x => fpWiden bf16 fp32 (elem16 x 0)) d a) s

/-- D2L, clamped (R131). -/
def execD2l (d a : Reg) (rm : BitVec 3) (s : State) : Out :=
  alu 4 (fun m => m.dop1 (fun x => intRes 64 (fpToInt fp64 (m.cvtRm rm) (-(2 ^ 63)) (2 ^ 63 - 1) x.toNat)) d a) s

/-- L2D (R133). -/
def execL2d (d a : Reg) (rm : BitVec 3) (s : State) : Out :=
  alu 4 (fun m => m.dop1 (fun x => fpOfInt fp64 (m.cvtRm rm) x.toInt) d a) s

/-- F2H2: element 0 from a, element 1 from a + 1 (R130, R132). -/
def execF2h2 (d a : Reg) (rm : BitVec 3) (s : State) : Out :=
  alu 2 (fun m => m.fopDW (fun x => packed2 (fun u v => fpNarrow fp32 fp16 false (m.cvtRm rm) (u + 65536 * v)) (deal0 x) (deal1 x)) d a) s

/-- RCP (R66-R68, R134). -/
def execRcp (d a : Reg) (s : State) : Out :=
  alu 8 (fun m => m.fop1 (fun x => fpRecip fp32 12 x.toNat) d a) s

/-- RSQ (R66-R68, R134). -/
def execRsq (d a : Reg) (s : State) : Out :=
  alu 8 (fun m => m.fop1 (fun x => fpRsqrt fp32 12 x.toNat) d a) s

/-- LOG2 (R66-R68, R134). -/
def execLog2 (d a : Reg) (s : State) : Out :=
  alu 8 (fun m => m.fop1 (fun x => fpLog2 x.toNat) d a) s

/-- EXP2 (R66-R68, R134). -/
def execExp2 (d a : Reg) (s : State) : Out :=
  alu 8 (fun m => m.fop1 (fun x => fpExp2 x.toNat) d a) s

/-- SINR (R66-R68, R134). -/
def execSinr (d a : Reg) (s : State) : Out :=
  alu 8 (fun m => m.fop1 (fun x => fpSinr x.toNat) d a) s

/-- COSR (R66-R68, R134). -/
def execCosr (d a : Reg) (s : State) : Out :=
  alu 8 (fun m => m.fop1 (fun x => fpCosr x.toNat) d a) s

/-- DRCP on pairs (R66, R67, R134). -/
def execDrcp (d a : Reg) (s : State) : Out :=
  alu 4 (fun m => m.dop1 (fun x => fpRecip fp64 24 x.toNat) d a) s

/-- DRSQ on pairs (R66, R67, R134). -/
def execDrsq (d a : Reg) (s : State) : Out :=
  alu 4 (fun m => m.dop1 (fun x => fpRsqrt fp64 24 x.toNat) d a) s

/-- PKE4: four FP32 values to E4M3 bytes (R136). -/
def execPke4 (d a b : Reg) (s : State) : Out :=
  alu 2 (fun m => m.packBytes e4m3 d a b) s

/-- PKE5: four FP32 values to E5M2 bytes (R136). -/
def execPke5 (d a b : Reg) (s : State) : Out :=
  alu 2 (fun m => m.packBytes e5m2 d a b) s

/-- UPE4: four E4M3 bytes to FP32; a NaN raises nothing (R136). -/
def execUpe4 (d a : Reg) (s : State) : Out :=
  alu 2 (fun m => m.unpackBytes e4m3 false d a) s

/-- UPE5: four E5M2 bytes to FP32; a signalling NaN raises NV (R136). -/
def execUpe5 (d a : Reg) (s : State) : Out :=
  alu 2 (fun m => m.unpackBytes e5m2 true d a) s

/-- PKB4: eight FP32 values to one B4 block (R137). -/
def execPkb4 (d a b : Reg) (s : State) : Out :=
  alu 2 (fun m => m.packBlock d a b) s

/-- UPB4: one B4 block to eight FP32 values (R138). -/
def execUpb4 (d a : Reg) (s : State) : Out :=
  alu 2 (fun m => m.unpackBlock d a) s

end Sys2Proof.Machine
end

