-- ==== Sys2Proof/Machine/Image.lean ====
section
/-!
DEFINITION. The context image of a launch on a core, byte for byte (R288-R292, R324), and the checks a resume makes of it
(R295).
-/

namespace Sys2Proof.Machine

/-- Bytes filled with zeros to a length. -/
def padTo (k : Nat) (b : List Byte) : List Byte := (b ++ List.replicate k 0#8).take (max k b.length)

/-- A section filled to a 64-byte boundary (R288). -/
def padSection (b : List Byte) : List Byte := padTo ((b.length + 63) / 64 * 64) b

/-- A word's four bytes. -/
def wordBytes (w : Word) : List Byte := bytesOfNat 4 w.toNat

/-! Sections 1 to 8 (R288-R290). -/

/-- Section 1: the caller (R290). -/
def callerImage (c : Core) (l : Nat) (r : Res) : List Byte :=
  let h := r.caller
  ((List.range 31).flatMap fun i => bytesOfNat 8 (h.reg (BitVec.ofNat 5 (i + 1))).toNat) ++ bytesOfNat 8 h.pc.toNat ++
    bytesOfNat 8 h.fhandler.toNat ++
    bytesOfNat 8 ((c.pendingEvents l r).toNat + 2 ^ 32 * h.evEnable.toNat) ++ bytesOfNat 8 h.fsup.toNat

/-- An unposted fault message of a micro-thread (R274, R289). -/
def Micro.unposted (m : Micro) (who : Nat) : Option (List Byte) :=
  match m.fault with
  | some i => if i.posted then none else some (faultBytes who i)
  | none => none

/-- A slot record (R289). A micro-thread that stands at a position of its figure, faulted or resumed there, is INFIG. -/
def slotRecord (m : Micro) (who : Nat) : List Byte :=
  let stopped := m.held == .parked || m.held == .faulted
  let at_ : Option (Word × Nat) := match m.fault, m.pos with
    | some i, _ => if i.inFig then some (i.fig, i.off) else none
    | none, some p => some (p.fig, p.off)
    | none, none => none
  let pc : Word := match m.fault with
    | some i => i.fig
    | none => match at_ with
      | some (fig, _) => fig
      | none => m.pc
  let link : Nat × Nat × Word := match m.linked with
    | .none => (0, 0, 0#32)
    | .qpop h => (1, h, 0#32)
    | .qpush h x => (2, h, x)
    | .recvw => (3, 0, 0#32)
  let byte0 := lifeCode m.held + (if stopped && m.mode == .free then 8 else 0) + (if at_.isSome then 16 else 0)
  let fault := m.unposted who
  bytesOfNat 1 byte0 ++ bytesOfNat 1 m.bud ++ bytesOfNat 1 m.role ++ bytesOfNat 1 m.arrived.toNat ++
    bytesOfNat 2 m.gen.toNat ++
    bytesOfNat 1 (match at_ with
      | some (_, off) => off
      | none => 0) ++
    bytesOfNat 1 m.await.toNat ++ wordBytes pc ++ wordBytes m.csp ++ bytesOfNat 7 m.pend.toNat ++
    bytesOfNat 1 m.preds.toNat ++ bytesOfNat 1 m.fflags.toNat ++ bytesOfNat 1 m.frm.toNat ++
    bytesOfNat 1 (link.1 + if m.parkedOn.isEmpty then 0 else 8) ++ bytesOfNat 1 m.late.toNat ++ bytesOfNat 4 link.2.1 ++
    wordBytes m.resume ++ wordBytes (m.mailbox.getD 0#32) ++
    bytesOfNat 1 ((if m.mailbox.isSome then 1 else 0) + if fault.isSome then 2 else 0) ++
    bytesOfNat 1 m.callq.length ++ bytesOfNat 2 (m.nextWaiter.getD 0xFFFF) ++ wordBytes (m.cych.getD 0#32) ++
    (if at_.isSome then (List.range 8).flatMap fun i => wordBytes (m.reg (BitVec.ofNat 6 (56 + i)))
     else List.replicate 32 0#8) ++
    padTo 16 (fault.getD []) ++ padTo 16 (m.callq.flatMap wordBytes) ++ wordBytes link.2.2 ++
    bytesOfNat 2 ((Tbl.keys m.cvWaits).foldl (fun a k => a + 2 ^ k) 0) ++ bytesOfNat 1 m.lvWaits.toNat ++
    bytesOfNat 1 (if m.quitting then 1 else 0) ++ bytesOfNat 8 m.evWaits.toNat

/-- Section 4's part of a slot: its registers within its budget. -/
def slotRegs (m : Micro) : List Byte := (List.range m.bud).flatMap fun i => wordBytes (m.reg (BitVec.ofNat 6 i))

/-- Section 5's part of a set. -/
def xacImage (x : Xac) : List Byte :=
  let b (v : Bool) (i : Nat) : Nat := if v then 2 ^ i else 0
  padTo 96 (bytesOfNat 80 x.v.toNat ++ bytesOfNat 1 (b x.xovf 0 + b x.xnan 1 + b x.xpinf 2 + b x.xninf 3))

/-! Section 9 (R290). -/

/-- A signature. -/
def sigImage (cv : Nat) (x : Sig) : List Byte :=
  padTo 32 (bytesOfNat 2 x.slot ++ bytesOfNat 2 x.gen.toNat ++ bytesOfNat 1 cv ++ bytesOfNat 1 x.f7.toNat ++
    bytesOfNat 1 x.off ++ [0#8] ++ wordBytes x.fw ++ wordBytes x.p0 ++ wordBytes x.p1 ++ wordBytes x.fig)

/-- The position of a join among a launch's saved joins (R290). -/
def joinNo (v : SavedMem) (id : Nat) : Nat := (Tbl.keys v.joins).idxOf id

/-- A queued operation, its first signature at an index. -/
def opImage (v : SavedMem) (e : MxEntry) (sig : Nat) : List Byte :=
  let word (w : Word) : List Byte := wordBytes w
  let issuer := bytesOfNat 2 e.issuer.slot ++ bytesOfNat 2 e.issuer.gen.toNat ++ word e.issuer.fig ++
    bytesOfNat 1 e.issuer.off
  let row (kind b1 b2 : Nat) (w4 w8 w12 w16 : Word) (p : List Byte) (own : Bool) : List Byte :=
    padTo 64 (bytesOfNat 1 kind ++ bytesOfNat 1 b1 ++ bytesOfNat 1 b2 ++ [0#8] ++ word w4 ++ word w8 ++ word w12 ++
      word w16 ++ padTo 16 p ++ if own then issuer else [])
  let n (k : Nat) : Word := BitVec.ofNat 32 k
  match e.op with
  | .mma f7 fw p0 p1 _ sigs =>
    row 1 0 f7.toNat fw 0#32 0#32 0#32 (word p0 ++ word p1 ++ bytesOfNat 4 sig ++ bytesOfNat 4 sigs.length) false
  | .accz t => row 2 t 0 0#32 0#32 0#32 0#32 [] true
  | .accld t off => row 3 t 0 0#32 (n off) 0#32 0#32 [] true
  | .accst t a fw => row 4 t 0 fw a 0#32 0#32 [] true
  | .wbld unit report src fw => row 5 0 0 fw (n src) (n unit) report [] true
  | .skset sk ptr left => row 6 sk 0 (n left) (n ptr) 0#32 0#32 [] true
  | .join id => row 7 0 0 (n (joinNo v id)) 0#32 0#32 0#32 [] true

/-- The signatures of a queued operation, with its convergence register. -/
def MxOp.signed : MxOp → List (Nat × Sig)
  | .mma _ _ _ _ cv sigs => sigs.map fun x => (cv, x)
  | _ => []

/-- Section 9: the matrix state. Signatures of open epochs come first, by register, then those of queued MMAs. -/
def matrixImage (r : Res) (v : SavedMem) : List Byte :=
  let opens := r.cvs.mapIdx fun i c => c.sigs.map fun x => (i, x)
  let queued := v.mx.map fun e => e.op.signed
  let sigs := opens.flatMap id ++ queued.flatMap id
  let before (l : List (List (Nat × Sig))) (i : Nat) : Nat := ((l.take i).map List.length).sum
  let base := (opens.map List.length).sum
  padTo 64 (bytesOfNat 4 sigs.length ++ bytesOfNat 4 v.mx.length) ++
    ((r.cvs.mapIdx fun i c =>
      padTo 16 (bytesOfNat 4 c.count ++ bytesOfNat 4 c.sigs.length ++
        bytesOfNat 4 (if c.sigs.isEmpty then 0xFFFFFFFF else before opens i))).flatMap id) ++
    (r.sks.flatMap fun k => bytesOfNat 4 k.ptr ++ bytesOfNat 4 k.left ++ bytesOfNat 4 k.run ++
      bytesOfNat 4 (if k.absent then 1 else 0)) ++
    (sigs.flatMap fun p => sigImage p.1 p.2) ++
    (v.mx.mapIdx fun i e => opImage v e (base + before queued i)).flatMap id

/-! Section 10 (R291). -/

/-- A descriptor as read. -/
def descImage (d : CopyDesc) : List Byte :=
  padTo 352 (bytesOfNat 8 d.src.toNat ++ bytesOfNat 8 d.dst.toNat ++ bytesOfNat 1 d.esize ++ bytesOfNat 1 d.dims.length ++
    [d.flags] ++ bytesOfNat 1 d.evline ++ bytesOfNat 4 d.bar ++ bytesOfNat 8 0 ++
    d.dims.flatMap fun x =>
      bytesOfNat 4 x.count ++ bytesOfNat 8 (BitVec.ofInt 64 x.ss).toNat ++ bytesOfNat 8 (BitVec.ofInt 64 x.ds).toNat)

/-- An entry of section 10. -/
def engineImage (q kind started reg : Nat) (i : Issuer) (what k bytes : Nat) (desc : Option CopyDesc) : List Byte :=
  padTo 448 (padTo 64 (bytesOfNat 1 q ++ bytesOfNat 1 kind ++ bytesOfNat 1 started ++ bytesOfNat 1 reg ++
      bytesOfNat 2 i.slot ++ bytesOfNat 2 i.gen.toNat ++ bytesOfNat 4 what ++ bytesOfNat 4 k ++ bytesOfNat 8 bytes ++
      wordBytes i.fig ++ bytesOfNat 1 i.off) ++
    match desc with
    | some d => descImage d
    | none => [])

/-- A blank issuer. -/
def noIssuer : Issuer := default

/-- The issuer of a saved join. -/
def joinIssuer (v : SavedMem) (id : Nat) : Issuer := ((Tbl.get? v.joins id).map Join.issuer).getD noIssuer

/-- A channel's entry. -/
def chanImage (s : State) (v : SavedMem) (q : Nat) (e : ChanEntry) : List Byte :=
  match e.op with
  | .copy fl off st _ =>
    let (i, reg) := match Tbl.get? s.flights fl with
      | some f => (f.issuer, f.dst.toNat)
      | none => (noIssuer, 0)
    match st with
    | .waiting => engineImage q 0 0 reg i off 0 0 none
    | .started d n u _ _ => engineImage q 0 1 reg i off n u (some d)
    | .ended d n u _ _ => engineImage q 0 (if d.isSome then 1 else 0) reg i off n u d
  | .sig line i => engineImage q 1 0 0 i line 0 0 none
  | .join id => engineImage q 2 0 0 (joinIssuer v id) (joinNo v id) 0 0 none

/-- A gather/scatter entry. -/
def gteImage (v : SavedMem) (e : GqEntry) : List Byte :=
  match e.op with
  | .req g => engineImage 4 3 0 0 g.issuer g.desc g.seq 0 none
  | .join id => engineImage 4 2 0 0 (joinIssuer v id) (joinNo v id) 0 0 none

/-- Section 10. -/
def enginesImage (s : State) (v : SavedMem) : List Byte :=
  let entries := ((v.chans.mapIdx fun q l => l.map fun e => chanImage s v q e).flatMap id) ++ v.gteq.map (gteImage v)
  padTo 64 ((v.cwp.toList.flatMap wordBytes) ++ bytesOfNat 4 entries.length) ++ entries.flatMap id

/-! Section 11 (R324). -/

/-- A hit queue's descriptor. -/
def hitqImage (h : Option HitQ) : List Byte :=
  match h with
  | some h => padTo 16 (bytesOfNat 4 h.ring ++ bytesOfNat 2 h.cap ++ bytesOfNat 1 (h.ev + if h.evEn then 128 else 0))
  | none => List.replicate 16 0#8

/-- The index of a configured queue, by place in its ring. -/
def indexImage (h : HitQ) : List Byte :=
  (List.range h.cap).flatMap fun place =>
    match (h.index.mapIdx fun i e => ((h.head + i) % max 1 h.cap, e)).find? fun p => p.1 == place with
    | some (_, k, e, taken) => bytesOfNat 4 (k + 2 ^ 16 * e + if taken then 2 ^ 31 else 0)
    | none => bytesOfNat 4 0

/-- A queued entry of the query queue. -/
def qqImage (s : State) (v : SavedMem) (e : QqEntry) : List Byte :=
  let row (kind what : Nat) (w : Word) (slot reg : Nat) : List Byte :=
    padTo 16 (bytesOfNat 4 kind ++ bytesOfNat 4 what ++ wordBytes w ++ bytesOfNat 2 slot ++ bytesOfNat 1 reg)
  match e.op with
  | .tpost fl record =>
    match Tbl.get? s.flights fl with
    | some f => row 0 record 0#32 f.issuer.slot f.dst.toNat
    | none => row 0 record 0#32 0 0
  | .tcfg source control i => row 1 source control i.slot 0
  | .join id => row 2 (joinNo v id) 0#32 (joinIssuer v id).slot 0

/-- A query image. -/
def queryImage (q : Query) : List Byte :=
  let state := match q.state with
    | .running => 1
    | .nodeWait => 2
    | .hitWait _ _ => 3
    | .drain => 4
  let how := q.dec.getD 0 + (if q.dec.isSome then 16 else 0) + (if q.kind.isSome then 32 else 0) + 64 * q.kind.getD 0
  padTo 1024 (padTo 128 q.record ++ wordBytes q.tag ++ bytesOfNat 2 q.pc ++ bytesOfNat 1 state ++ bytesOfNat 1 how ++
    q.q.toList.flatMap wordBytes ++ q.n.toList.flatMap wordBytes ++ q.h.toList.flatMap wordBytes ++ wordBytes q.node ++
    bytesOfNat 1 q.stack.length ++ bytesOfNat 1 q.out.length ++ bytesOfNat 1 q.best.length ++
    bytesOfNat 1 (if q.lost then 1 else 0) ++ bytesOfNat 4 q.spilled ++ bytesOfNat 4 q.spills ++ bytesOfNat 4 q.hits ++
    bytesOfNat 4 q.steps ++ padTo 48 (bestBytes q.stack.reverse) ++ padTo 256 (bestBytes q.best) ++ padTo 256 q.buf)

/-- Section 11. -/
def traversalImage (s : State) (n l : Nat) (r : Res) (v : SavedMem) : List Byte :=
  let mine := (s.core n).queries.filter fun p => p.2.launch == l
  padTo 512 (r.decode.flatMap id) ++ padTo 4096 (r.walker.flatMap wordBytes) ++ r.hitqs.flatMap hitqImage ++
    (r.hitqs.flatMap fun h => match h with
      | some h => bytesOfNat 4 h.head ++ bytesOfNat 4 h.tail
      | none => bytesOfNat 8 0) ++
    padTo 64 (bytesOfNat 4 r.qseq ++ bytesOfNat 4 mine.length ++ bytesOfNat 4 v.trp.length) ++
    (r.hitqs.flatMap fun h => match h with
      | some h => indexImage h
      | none => []) ++
    (v.trp.flatMap fun e => qqImage s v e) ++ mine.flatMap fun p => queryImage p.2

/-! Sections 12 and 13 (R288, R292). -/

/-- An outstanding-access record: kind 1 a load, 2 MRG, 3 an access parked on a page; the operand words start at byte 32. -/
def accessImage (f : Flight) : List Byte :=
  let kind := if f.stage = .parked then 3 else if f.isMerge then 2 else 1
  let operands : List Byte := match f.op with
    | .merge _ a b _ => a.flatMap wordBytes ++ b.flatMap wordBytes
    | .store _ _ d => bytesOfNat 16 d.toNat
    | .atomic _ d => bytesOfNat 16 d.toNat
    | .mint d => d.flatMap wordBytes
    | _ => []
  padTo 96 (padTo 32 (bytesOfNat 2 f.issuer.slot ++ bytesOfNat 1 f.ll ++ bytesOfNat 1 kind ++ wordBytes f.word ++
    wordBytes f.fig ++ bytesOfNat 4 f.off ++ bytesOfNat 8 f.ea.toNat) ++ operands)

/-- A level record. -/
def levelImage (s : State) (n l : Nat) (r : Res) (k : Nat) : List Byte :=
  if r.nlevel ≤ k then List.replicate 16 0#8
  else
    let v := r.level k
    let dom := r.levelDom k
    let home := decide (dom = domSet) || decide (dom = domCore) ||
      (decide (domCore < dom) && (s.levelCores r n l dom).head? == some n && (dom != domPair || s.cardNo == 0))
    let late := (((s.core n).owned l).filter fun slot =>
      ((s.core n).micro slot).life != .retired && ((s.core n).micro slot).late.getLsbD k).length
    let b (x : Bool) (i : Nat) : Nat := if x then 2 ^ i else 0
    padTo 16 ((if dom = domSet then bytesOfNat 8 0
        else bytesOfNat 4 v.episode ++ bytesOfNat 2 v.arrivals ++ bytesOfNat 2 late) ++
      bytesOfNat 4 (b v.sent 0 + b home 1 + b v.summoned 2 + b v.homeSummoned 3) ++ bytesOfNat 4 v.received.length)

/-! The image (R288). -/

/-- The sections of the image of a launch whose core memories are saved. -/
def sections (s : State) (n l : Nat) (r : Res) (v : SavedMem) : List (List Byte) :=
  let c := s.core n
  let slots := c.owned l
  [ callerImage c l r,
    r.mbox.flatMap id,
    slots.flatMap fun slot => slotRecord (c.micro slot) (slot + 1024 * s.coreWord n),
    slots.flatMap fun slot => slotRegs (c.micro slot),
    (List.range (c.sets l).length).flatMap fun i => xacImage ((Tbl.get? r.xacs i).getD Xac.zero),
    v.sp, v.tiles.flatMap id, v.wb, matrixImage r v, enginesImage s v, traversalImage s n l r v,
    v.reissue.flatMap fun id => match Tbl.get? s.flights id with
      | some f => accessImage f
      | none => [],
    bytesOfNat 8 r.latches.toNat ++ (List.range 8).flatMap (levelImage s n l r),
    v.inbox.flatMap Msg.bytes, v.outbox.flatMap fun p => p.2.bytes, [] ]

/-- The replies a halted launch is owed: its atomics and SPAWNs that have not answered (R287). -/
def State.owed (s : State) (n l : Nat) : Nat :=
  (s.flights.filter fun p =>
    p.2.core == n && p.2.launch == l && p.2.owesReply && p.2.stage != .faulted).length

/-- The header (R288). -/
def headerImage (s : State) (n l : Nat) (r : Res) (v : SavedMem) (ring : Nat) (lens : List Nat) : List Byte :=
  padTo 256 (bytesOfNat 4 0x57C00C7A ++ bytesOfNat 2 1 ++ bytesOfNat 2 (s.coreWord n) ++ bytesOfNat 4 l ++
    bytesOfNat 1 (if v.damaged then 1 else 0) ++ bytesOfNat 1 (r.grant.getD 0) ++
    bytesOfNat 2 ((s.core n).owned l).length ++ bytesOfNat 8 (r.setw.getD 0#64).toNat ++ wordBytes v.part ++
    bytesOfNat 4 (BitVec.ofInt 32 r.budget).toNat ++ bytesOfNat 4 v.reissue.length ++ bytesOfNat 4 ringRoom ++
    bytesOfNat 8 ring ++ (lens.flatMap fun k => bytesOfNat 4 k) ++ bytesOfNat 4 (s.owed n l))

/-- The context image (R288). -/
def State.contextImage (s : State) (n l : Nat) (r : Res) (v : SavedMem) (ring : Nat) : List Byte :=
  let secs := sections s n l r v
  headerImage s n l r v ring (secs.map List.length) ++ secs.flatMap padSection

/-! The checks of a resume (R295). -/

/-- A slot record that no save writes: an illegal state or linked operation, or a reserved bit of its waits set. -/
def badSlotRecord (b : List Byte) : Bool :=
  let state := recNat b 0 1 % 8
  state == 5 || state == 7 || decide (32 ≤ recNat b 0 1) || decide (16 ≤ recNat b 26 1) || decide (4 ≤ recNat b 26 1 % 8) ||
    decide (1 < recNat b 119 1) ||
    decide (4 < recNat b 41 1)

/-- A spill ring's entries hold a kind that never appears there (R294). -/
def State.badRing (s : State) (ring count : Nat) : Bool :=
  (List.range count).any fun i =>
    let k := s.peek (ring + 64 * i) 1
    k == 0 || decide (17 < k)

/-- Where a section of the image at an address starts, section 1 first (R288). -/
def State.sectionAt (s : State) (at_ k : Nat) : Nat :=
  at_ + 256 + (List.range (k - 1)).foldl (fun a i => a + (s.peek (at_ + 48 + 4 * i) 4 + 63) / 64 * 64) 0

/-- Why the image at an address is refused: reason 3 where it is DAMAGED, else 4 (R284, R295, R403); none where it stands. -/
def State.imageRefused (s : State) (n l at_ ring count : Nat) : Option Nat :=
  let f (off k : Nat) : Nat := s.peek (at_ + off) k
  let start := s.sectionAt at_ 3
  if (f 12 1).testBit 0 then some 3
  else if f 0 4 ≠ 0x57C00C7A ∨ f 4 2 ≠ 1 ∨ f 6 2 ≠ s.coreWord n ∨ f 8 4 ≠ l ∨ f 12 1 ≠ 0 ∨ f 116 140 ≠ 0 ∨
      ((List.range (f 14 2)).any fun i => badSlotRecord (Memory.readN s.mem (start + 128 * i) 128)) ∨
      s.badRing ring count then some 4
  else none

/-! What a resume reads from the image (R288-R290, R295). The rest, operations in progress, is kept beside it (log 22). -/

/-- A word of the image. -/
def State.peekWord (s : State) (a : Nat) : Word := BitVec.ofNat 32 (s.peek a 4)

/-- The caller of section 1. -/
def State.imageCaller (s : State) (a : Nat) (h : Caller) : Caller :=
  let d (off : Nat) : DWord := BitVec.ofNat 64 (s.peek (a + off) 8)
  { h with
    x := h.x.mapIdx fun i v => if i = 0 then v else d (8 * (i - 1))
    pc := d 248, fhandler := d 256, evPending := BitVec.ofNat 16 (s.peek (a + 264) 2) &&& 0x28#16
    evEnable := BitVec.ofNat 16 (s.peek (a + 268) 2), fsup := BitVec.ofNat 10 (s.peek (a + 272) 2) }

/-- An accumulator of section 5. -/
def State.imageXac (s : State) (a : Nat) : Xac :=
  let b (i : Nat) : Bool := (s.peek (a + 80) 1).testBit i
  ⟨BitVec.ofNat 640 (s.peek a 80), b 0, b 1, b 2, b 3⟩

/-- A launch with `sets` sets as the image at an address gives it back: the grant, the request and the budget of the header, the
caller, its mailbox, the accumulators, the stream registers, the tables of the traversal processor, the event latches. -/
def State.imageRes (s : State) (at_ sets : Nat) (r : Res) : Res :=
  let sec := s.sectionAt at_
  let streams := sec 9 + 320
  { r with
    grant := if s.peek (at_ + 13) 1 = 0 then none else some (s.peek (at_ + 13) 1)
    setw := if s.peek (at_ + 16) 8 = 0 then none else some (BitVec.ofNat 64 (s.peek (at_ + 16) 8))
    budget := (s.peekWord (at_ + 28)).toInt
    caller := s.imageCaller (sec 1) r.caller
    mbox := (List.range (s.peek (at_ + 52) 4 / 16)).map fun i => Memory.readN s.mem (sec 2 + 16 * i) 16
    xacs := (List.range sets).map fun i => (i, s.imageXac (sec 5 + 96 * i))
    sks := r.sks.mapIdx fun i _ =>
      ⟨s.peek (streams + 16 * i) 4, s.peek (streams + 16 * i + 4) 4, s.peek (streams + 16 * i + 8) 4,
        (s.peek (streams + 16 * i + 12) 4).testBit 0⟩
    decode := r.decode.mapIdx fun i _ => Memory.readN s.mem (sec 11 + 32 * i) 32
    walker := r.walker.mapIdx fun i _ => s.peekWord (sec 11 + 512 + 4 * i)
    latches := BitVec.ofNat 64 (s.peek (sec 13) 8) }

/-- The bytes that go back into the core's memories, the partition word and CWP0-CWP3 as the image gives them. -/
def State.imageMem (s : State) (at_ : Nat) (v : SavedMem) : SavedMem :=
  let sec := s.sectionAt at_
  { v with
    sp := Memory.readN s.mem (sec 6) v.sp.length
    tiles := v.tiles.mapIdx fun i _ => Memory.readN s.mem (sec 7 + 16384 * i) 16384
    wb := Memory.readN s.mem (sec 8) v.wb.length
    part := s.peekWord (at_ + 24)
    cwp := Vector.ofFn fun i => s.peekWord (sec 10 + 4 * i.val) }

/-- A micro-thread of the launch as its slot record and its registers give it back (R289): the record's place among the
launch's is that of its slot. What a fault in force keeps beyond the record's fields stays. -/
def State.imageMicro (s : State) (at_ : Nat) (c : Core) (l slot : Nat) (m : Micro) : Micro :=
  let k := (c.owned l).idxOf slot
  let b (off n : Nat) : Nat := s.peek (s.sectionAt at_ 3 + 128 * k + off) n
  let word (off : Nat) : Word := BitVec.ofNat 32 (b off 4)
  let regs := s.sectionAt at_ 4 + (((c.owned l).take k).map fun x => 4 * (c.micro x).bud).sum
  let inside := (b 0 1).testBit 4
  { m with
    role := b 2 1, arrived := BitVec.ofNat 8 (b 3 1), gen := BitVec.ofNat 16 (b 4 2), await := BitVec.ofNat 8 (b 7 1)
    pc := if inside ∨ m.fault.isSome then m.pc else word 8
    csp := word 12, pend := m.pend &&& 0xFF00000000000000#64 ||| BitVec.ofNat 64 (b 16 7)
    preds := BitVec.ofNat 7 (b 23 1), fflags := BitVec.ofNat 5 (b 24 1), frm := BitVec.ofNat 3 (b 25 1)
    late := BitVec.ofNat 8 (b 27 1), resume := word 32, mailbox := if (b 40 1).testBit 0 then some (word 36) else none
    callq := (List.range (b 41 1)).map fun i => word (96 + 4 * i)
    nextWaiter := if b 42 2 = 0xFFFF then none else some (b 42 2)
    lvWaits := BitVec.ofNat 8 (b 118 1), quitting := (b 119 1).testBit 0, evWaits := BitVec.ofNat 64 (b 120 8)
    regs := m.regs.mapIdx fun i v =>
      if i < m.bud then s.peekWord (regs + 4 * i) else if 56 ≤ i ∧ inside then word (48 + 4 * (i - 56)) else v }

/-- The launch and its micro-threads on a core as the image at an address gives them back. -/
def State.readImage (s : State) (n l at_ : Nat) : State :=
  s.modCore n fun c =>
    { c with
      slots := Tbl.mapKV c.slots fun slot m => if m.owner = some l then s.imageMicro at_ c l slot m else m
      res := Tbl.modify c.res l (s.imageRes at_ (c.sets l).length) }

end Sys2Proof.Machine
end

