-- ==== Sys2Proof/Machine/Preempt.lean ====
section
/-!
DEFINITION. Pre-emption on a core: the halt, saving a context, and its resume with the replay of its spill ring (R37, R281,
R284-R287, R293-R295); a request of the twin at its owning port (R450); fault messages (R277).
-/

namespace Sys2Proof.Machine

/-! Save areas (R394). -/

/-- Bytes of the save pool that one core's save area and spill ring take (log 22). -/
def areaBytes : Nat := 0x700000
/-- Where the spill ring lies in them. -/
def ringAt : Nat := 0x600000

/-- The save areas in use in a partition. -/
def State.areasIn (s : State) (p : Nat) : List Nat :=
  (s.dsc.launches.filter fun q => q.2.part == p).flatMap fun q => q.2.areas.map fun a => a.2.1

/-- Save areas for some cores of a launch, if the partition's save pool holds them (R393, R394). -/
def State.allocAreas (s : State) (p : Nat) (cores : List Nat) : Option (Tbl (Nat × Nat)) :=
  let v := s.part p
  let base := v.field 24 8
  let free := ((List.range (v.field 32 8 / areaBytes)).map fun i => base + areaBytes * i).filter
    fun a => !(s.areasIn p).contains a
  if cores.length ≤ free.length then some ((cores.zip free).map fun c => (c.1, c.2, c.2 + ringAt)) else none

/-! The halt (R281, R285). -/

/-- The caller of a launch that halts (R285): a stalled instruction and a load not yet returned are abandoned and execute
again; so does an instruction whose exception the supervisor has not yet dealt with, and U-mode code goes on where it stood
when the supervisor took over (R420; log 23). -/
def Caller.halt (h : Caller) (loads : List Nat) : Caller :=
  let h := match h.priv with
    | .supervisor => { h with pc := h.upc, priv := .user }
    | .user => h
  { h with
    exc := none, stall := none
    waitFor := match h.waitFor with
      | some id => if loads.contains id then none else some id
      | none => none }

/-- A launch halts on a core (R182, R285): its groups that wait for code are dissolved, its caller stops; what an earlier
resume left over leads its spill ring. -/
def State.haltOn (s : State) (n l : Nat) : State :=
  let loads := (s.flights.filter fun p => p.2.core == n && p.2.launch == l && p.2.agent == .caller && p.2.isLoad).map Prod.fst
  let s := s.modCore n fun c =>
    (c.groups.filter fun p => p.2.launch == l && !p.2.waiting.isEmpty).foldl
      (fun c p => p.2.members.foldl (fun c slot => c.refresh slot) (c.dissolve p.1 p.2)) c
  let s : State :=
    { s with
      flights := s.flights.filter fun p => !loads.contains p.1
      resvs := s.resvs.filter fun r => !(r.1 == n && r.2.1 == l) }
  let left := match s.res? n l with
    | some r => r.spill
    | none => []
  let s := s.modRes n l fun r =>
    { r with phase := .halting, caller := r.caller.halt loads, spill := [], ringNext := 0 }
  left.foldl (fun t e => t.catchSpill n l e) s

/-- A save area is named for a launch on a core that halts without one: what its spill ring has caught is written there (R281,
R293). -/
def State.giveArea (s : State) (n l : Nat) (a : Nat × Nat) : State :=
  let caught := match s.res? n l with
    | some r => r.spill
    | none => []
  let s := (s.modLaunch l fun x => { x with areas := Tbl.set x.areas n a, sweep := none }).modRes n l fun r =>
    { r with spill := [], ringNext := 0 }
  caught.foldl (fun t e => t.catchSpill n l e) s

/-- The save area and ring of a launch on a core. -/
def State.areaOf (s : State) (n l : Nat) : Option (Nat × Nat) := (s.launch? l).bind fun x => Tbl.get? x.areas n

/-- PREEMPTION_REQUEST: a core receives the request for a launch the scheduler has decided on (R285, R393). -/
def execPreemptionRequest (core launch : Nat) (s : State) : Out :=
  match s.launch? launch, s.res? core launch with
  | some x, some r =>
    if x.state = .saving ∧ r.phase = .resident ∧ Tbl.has x.areas core then .next (s.haltOn core launch) else .next s
  | _, _ => .next s

/-- A launch halts on a core that parks (R281). Its save area is named now, or before its context is written where the save pool
has no room yet. -/
def State.parkOn (s : State) (n l : Nat) : State :=
  match s.launch? l, s.res? n l with
  | some x, some r =>
    if r.phase ≠ .resident then s
    else
      let s := (s.modLaunch l fun x => { x with sweep := none }).haltOn n l
      if Tbl.has x.areas n then s
      else
        match s.allocAreas x.part [n] with
        | some [(_, a)] => s.giveArea n l a
        | _ => s
  | _, _ => s

/-- CORE_PARK: an exception of a caller in S-mode parks its core (R281): the report, and every resident launch halts, to be
saved. -/
def execCorePark (core : Nat) (s : State) : Out :=
  let c := s.core core
  let hit := c.res.find? fun p => match p.2.caller.exc with
    | some e => e.fromS && p.2.phase == .resident
    | none => false
  match hit with
  | none => .next s
  | some (_, r) =>
    if c.parked then .next s
    else
      let h := r.caller
      let report := bytesOfNat 4 (2 ^ 31 + 1024 * s.coreWord core) ++ bytesOfNat 2 0 ++ bytesOfNat 1 (h.scause.toNat % 256) ++
        bytesOfNat 1 0 ++ bytesOfNat 4 h.sepc.toNat ++ bytesOfNat 4 h.stval.toNat
      let s := s.modCore core fun c => { c with parked := true, report := some report }
      .next (c.launches.foldl (fun t l => t.parkOn core l) s)

/-- CORE_RESET: the management harts reset a parked core, which accepts placements and resumes again (R281). -/
def execCoreReset (core : Nat) (s : State) : Out :=
  if (s.core core).parked then .next (s.modCore core fun c => { c with parked := false, report := none }) else .next s

/-! The save (R286-R288, R323). -/

/-- A copy of a launch on a core whose element in progress has begun to be written (R252). -/
def State.copyWriting (s : State) (n l : Nat) : Bool :=
  (s.core n).chans.toList.any fun q =>
    match q with
    | ⟨k, .copy fl _ (.started _ _ _ el _) _⟩ :: _ =>
      k == l && (match Tbl.get? s.flights fl with
        | some f => s.writeBegun fl f el
        | none => false)
    | _ => false

/-- A halted launch can be saved (R252, R285, R287): its groups have ended, its entries have left the store FIFO, its faults
found so far are taken, a copy's element that is being written is delivered, both halves of each request of the twin are
performed, and nothing its own core answers is still on its way. A reply of the twin to a read that is recorded does not
come (R287; log 80). -/
def State.quiet (s : State) (n l : Nat) : Bool :=
  let c := s.core n
  (c.groups.all fun p => p.2.launch != l) &&
    (c.fifo.all fun id => match Tbl.get? s.flights id with
      | some f => f.launch != l
      | none => true) &&
    ((c.owned l).all fun slot =>
      let m := c.micro slot
      m.life == .retired || m.deferred.isEmpty || m.fault.isSome || m.pos.isSome) &&
    !s.copyWriting n l && (s.station.halves.all fun h => h.1.core != n || s.pairIndex? l != some h.1.index) &&
    s.flights.all fun p =>
      if p.2.core == n && p.2.launch == l then
        match p.2.stage with
        | .reply _ _ => p.2.isLoad || p.2.owesReply
        | _ => true
      else true

/-- The accesses of a launch that are recorded and issued again (R171, R287). -/
def State.toReissue (s : State) (n l : Nat) : List Nat :=
  (s.flights.filter fun p =>
    p.2.core == n && p.2.launch == l &&
      ((p.2.isLoad && p.2.stage != .faulted) || p.2.stage == .parked)).map Prod.fst

/-- The bytes of a launch's tiles. -/
def State.tileBytes (s : State) (n : Nat) (r : Res) : List (List Byte) :=
  (List.range r.tileMap.length).map fun i => Memory.readN s.mem (poolAddr n ((s.core n).tileOff r i)) 16384

/-- The bytes of a launch's WB units. -/
def State.unitBytes (s : State) (n : Nat) (r : Res) : List Byte :=
  r.wbMap.flatMap fun u => Memory.readN s.mem (wbAddr n (256 * u)) 256

/-- A register that a save reads has an uncorrectable error (R284): one of its budget, or a temporary where it stands inside a
figure. -/
def Micro.saveBad (m : Micro) : Bool :=
  let inside : Bool := match m.fault with
    | some i => i.inFig
    | none => m.pos.isSome
  m.life != .retired && (List.range 64).any fun i =>
    m.bad.getLsbD i && (decide (i < m.bud) || (decide (56 ≤ i) && inside))

/-- A word of what a launch's save reads has an uncorrectable error (R284). -/
def State.saveDamaged (s : State) (n l : Nat) (r : Res) : Bool :=
  s.isBad (poolAddr n (recNat r.record 60 4)) (recNat r.record 64 4) ||
    ((List.range r.tileMap.length).any fun i => s.isBad (poolAddr n ((s.core n).tileOff r i)) 16384) ||
    (r.wbMap.any fun u => s.isBad (wbAddr n (256 * u)) 256) || ((s.core n).owned l).any fun slot =>
      ((s.core n).micro slot).saveBad

/-- A read of what a save copies corrects its single-bit errors (R283). -/
def State.saveReads (s : State) (n : Nat) (r : Res) : State :=
  let s := s.corrects (poolAddr n (recNat r.record 60 4)) (recNat r.record 64 4)
  let s := (List.range r.tileMap.length).foldl (fun t i => t.corrects (poolAddr n ((t.core n).tileOff r i)) 16384) s
  r.wbMap.foldl (fun t u => t.corrects (wbAddr n (256 * u)) 256) s

/-- A copy as the context holds it (R248, R251, R252): its bytes are counted down, the element in progress is read afresh, and
one that CCANCEL has stopped has ended. -/
def CopyState.recorded : CopyState → CopyState
  | .started d n _ _ true => .ended (some d) n 0 2 0
  | .started d n _ _ false => .started d n 0 Elem.fresh false
  | .ended d n _ status code => .ended d n 0 status code
  | .waiting => .waiting

/-- The bytes a launch's copies have delivered and not yet counted are counted down (R248, R252). -/
def State.countCopies (s : State) (n l : Nat) : State :=
  ((s.core n).chans.toList.flatMap id).foldl
    (fun t e =>
      match e.op with
      | .copy _ _ (.started d _ u _ _) _ => if e.launch = l then t.countDown n d u else t
      | .copy _ _ (.ended (some d) _ u _ _) _ => if e.launch = l then t.countDown n d u else t
      | _ => t) s

/-- What the core does to its memories before it copies them (R239, R248, R252): the launch's tile is written back, and its
barrier objects are counted down. -/
def State.beforeSave (s : State) (n l : Nat) (r : Res) : State :=
  let s := match (s.core n).resident with
    | some (k, _) => if k = l then s.writeBack n else s
    | none => s
  (s.countCopies n l).saveReads n r

/-- An entry of a channel as the context holds it. -/
def ChanEntry.recorded (e : ChanEntry) : ChanEntry :=
  match e.op with
  | .copy fl d st held => { e with op := .copy fl d st.recorded held }
  | _ => e

/-- A launch's messages that stand in a core's outbox, then those of its overflow list, each with its target (R263, R286). -/
def State.boxed (s : State) (n l : Nat) : List (Nat × Msg) :=
  let all := (List.range Config.numCores).flatMap fun c =>
    (((Tbl.get? (s.core c).net n).getD []).filter fun m => m.launch == l && m.box != .none).map fun m => (c, m)
  (all.filter fun p => p.2.box == .outbox) ++ all.filter fun p => p.2.box == .overflow

/-- The outbox's messages of a launch leave the network with the context (R286, R288). -/
def State.takeBoxed (s : State) (n l : Nat) : State :=
  { s with cores := s.cores.map fun c =>
      { c with net := (Tbl.mapKV c.net fun k q =>
          if k = n then q.filter fun m => !(m.launch == l && m.box != .none) else q).filter fun p => !p.2.isEmpty } }

/-- What leaves the core's memories with the context. -/
def State.savedMem (s : State) (n l : Nat) (r : Res) : SavedMem :=
  let c := s.core n
  { sp := Memory.readN s.mem (poolAddr n (recNat r.record 60 4)) (recNat r.record 64 4)
    tiles := s.tileBytes n r, wb := s.unitBytes n r, part := c.part
    chans := c.chans.toList.map fun q => (q.filter fun e => e.launch == l).map ChanEntry.recorded
    joins := c.joins.filter fun p => p.2.launch == l
    mx := c.mx.filter fun e => e.launch == l
    trp := c.trp.filter fun e => e.launch == l
    gteq := c.gteq.filter fun e => e.launch == l
    inbox := c.inbox.filter fun m => m.launch == l
    outbox := s.boxed n l
    cwp := c.cwp, reissue := s.toReissue n l, damaged := s.saveDamaged n l r }

/-- A launch's trace ring on a core is on (R370, R392). -/
def Res.traced (r : Res) (n : Nat) : Bool :=
  (recNat r.record 80 16).testBit ((coreY n - r.y0) * recNat r.record 14 1 + (coreX n - r.x0)) &&
    (recNat r.record 96 4).testBit 31

/-- Its recorded accesses are forgotten by the memory system: loads and merges begin afresh, and copies take their next
element afresh (R171, R252, R287). -/
def Flight.recorded (f : Flight) : Flight :=
  let kept := f.stage == .faulted || f.stage == .parked
  match f.op with
  | .copy .. => if f.stage = .fifo then f else { f with stage := .engine }
  | .merge f7 a b _ => { f with op := .merge f7 a b Merge.start, stage := if kept then f.stage else .request }
  | .load .. => { f with low := none, stage := if kept then f.stage else .request }
  | _ => f

/-- The store of a merge's key that is still on its way is nobody's: the merge begins afresh (R171). -/
def State.orphan (s : State) (f : Flight) : Flight :=
  match f.parent with
  | some p =>
    (match Tbl.get? s.flights p with
     | some g => if g.isMerge then { f with parent := none } else f
     | none => f)
  | none => f

/-- A query as the context holds it: a node fetch in progress is abandoned, and reads its node afresh (R323). -/
def Query.recorded (q : Query) : Query :=
  match q.state with
  | .nodeWait => { q with buf := [] }
  | _ => q

/-- The launch's entries leave the core's queues (R287). -/
def Core.dropEntries (c : Core) (l : Nat) (traced : Bool) : Core :=
  { c with
    chans := c.chans.map fun q => q.filter fun e => e.launch != l
    joins := c.joins.filter fun p => p.2.launch != l
    mx := c.mx.filter fun e => e.launch != l
    trp := c.trp.filter fun e => e.launch != l
    gteq := c.gteq.filter fun e => e.launch != l
    inbox := c.inbox.filter fun m => m.launch != l
    resident := c.resident.filter fun p => p.1 != l
    cells := if c.resident.any fun p => p.1 == l then [] else c.cells
    traceEn := c.traceEn && !traced }

/-- The launch's micro-threads are halted (R29), and its queries abandon their node fetches (R323). -/
def Core.halted (c : Core) (l : Nat) : Core :=
  { c with
    slots := Tbl.mapKV c.slots fun _ m =>
      if m.owner = some l ∧ m.life ≠ .retired then { m with held := m.life, life := .halted }
      else if m.owner = some l then { m with held := .retired } else m
    queries := Tbl.mapKV c.queries fun _ q => if q.launch = l then q.recorded else q }

/-- A context is saved (R29, R287): the image is written while its entries still stand in the core, and then they leave it. -/
def State.saveOn (s : State) (n l : Nat) (r : Res) (v : SavedMem) : State :=
  let s := s.modCore n fun c => c.halted l
  let mine (f : Flight) : Bool := f.core == n && f.launch == l
  let s : State := { s with flights := Tbl.mapKV s.flights fun _ f => if mine f then (s.orphan f).recorded else f }
  let s := s.modRes n l fun r => { r with saved := some v }
  let s := match s.areaOf n l, s.res? n l with
    | some (area, ring), some r => s.write area (s.contextImage n l r v ring)
    | _, _ => s
  ((s.modCore n fun c => c.dropEntries l (r.traced n)).takeBoxed n l).modRes n l fun r => { r with phase := .saved }

/-- A launch whose every core is saved is saved, and waits for its resume from now (R390, R395). -/
def State.savedAll (s : State) (l : Nat) : State :=
  match s.launch? l with
  | none => s
  | some x =>
    let all := x.cores.all fun n => match s.res? n l with
      | some r => r.phase == .saved
      | none => false
    if x.state = .saving ∧ all then
      s.modLaunch l fun x => { x with state := .saved, since := (s.part x.part).decisions }
    else s

/-- A halted launch has its save area on a core, or gets one where the save pool has room by now (R281, R394). -/
def State.withArea (s : State) (n l : Nat) (x : Launch) : State :=
  if Tbl.has x.areas n then s
  else
    match s.allocAreas x.part [n] with
    | some [(_, a)] => s.giveArea n l a
    | _ => s

/-- The context of a halted launch is saved (R287); a word with an uncorrectable error aborts the launch (R284). -/
def State.saveContext (s : State) (n l : Nat) (r : Res) : State :=
  let s := s.beforeSave n l r
  let v := s.savedMem n l r
  let t := s.saveOn n l r v
  if v.damaged then t.abort l 3 false true else t.savedAll l

/-- CONTEXT_SAVE: after the halt the core records and writes the context image (R287, R288). -/
def execContextSave (core launch : Nat) (s : State) : Out :=
  match s.launch? launch, s.res? core launch with
  | some x, some r =>
    if r.phase ≠ .halting ∨ x.state = .ending ∨ !s.quiet core launch then .next s
    else
      let t := s.withArea core launch x
      match t.areaOf core launch, t.res? core launch with
      | some _, some r => .next (t.saveContext core launch r)
      | _, _ => .next s
  | _, _ => .next s

/-! A request of the twin at its owning port (R157, R370, R450). -/

/-- What an atomic of the twin writes and answers; a doubleword AMO without a member carries its code plus 16 (log 19). -/
def twinAtomic (f7 : BitVec 7) (old : Nat) (operand : QWord) : Nat × FFlags :=
  let op : Option AmoOp := match f7.toNat with
    | 17 => some .and
    | 18 => some .or
    | 19 => some .xor
    | 20 => some .min
    | 21 => some .max
    | 22 => some .minu
    | 23 => some .maxu
    | _ => none
  match op with
  | some op => (amoResult op true old (operand.extractLsb' 0 64), noFlags)
  | none => atomResult f7 old operand

/-- The bytes of a request of the twin. -/
def twinSize : TwinOp → Nat
  | .read n => n
  | .write n _ _ => n
  | .atomic f7 _ _ => if f7.toNat < 11 then 4 else 8
  | .reserve n => n
  | .conditional n _ => n

/-- The response to a request of the twin. -/
def State.answerTwin (s : State) (req : TwinRequest) (r : Response) : State := s.sendTwin (.response req.tag r)

/-- CORE of the twin's core that sent a request, as a trace ring, a spill ring and the error log name it (R294, R371;
log 79). -/
def twinCore (req : TwinRequest) : Nat := coreCode req.src + 512

/-- A reservation that a caller of the twin holds in a pool of this module is kept under the number of its core there, after
those of this module's cores (R191; log 19). -/
def twinHolder (req : TwinRequest) : Nat := Config.numCores + req.src

/-- A write of a request of the twin is refused for its error: only what it merges into is read (R283). -/
def twinMerges (op : TwinOp) : Bool :=
  match op with
  | .write n _ _ => decide (n < 4)
  | _ => true

/-- A request of the twin performed at its owning port: the state, and the value and flags it answers (R191, R450). -/
def State.performAt (s : State) (core l : Nat) (req : TwinRequest) : State × QWord × FFlags :=
  let pa := poolAddr core req.off
  match req.op with
  | .read n => (s, BitVec.ofNat 128 (s.peek pa n), noFlags)
  | .write n data kind => (s.portWrite core req.off n data.toNat (some ⟨twinCore req, kind⟩), 0#128, noFlags)
  | .atomic f7 operand kind =>
    let n := twinSize req.op
    let old := s.peek pa n
    let (v, fl) := twinAtomic f7 old operand
    (s.portWrite core req.off n v (some ⟨twinCore req, kind⟩), BitVec.ofNat 128 old, fl)
  | .reserve n => (s.reserveLine (twinHolder req) l (pa / 64), BitVec.ofNat 128 (s.peek pa n), noFlags)
  | .conditional n data =>
    let holds := s.resvs.any fun r => r == (twinHolder req, l, pa / 64)
    let t : State := { s with resvs := s.resvs.filter fun r => !(r.1 == twinHolder req && r.2.1 == l) }
    if holds then (t.portWrite core req.off n (data.toNat % 2 ^ (8 * n)) (some ⟨twinCore req, 6⟩), 0#128, noFlags)
    else (t, 1#128, noFlags)

/-- The lower half of a 16-byte request of the twin is performed (R360), and the upper half waits in the station; a write's trace
entry is made with it (log 21). -/
def State.beginTwin (s : State) (core : Nat) (req : TwinRequest) : State :=
  let t := match req.op with
    | .write _ data kind =>
      (s.portWrite core req.off 8 (data.toNat % 2 ^ 64) none).trace core ⟨twinCore req, kind⟩ req.off 16 data.toNat
    | _ => s
  { t with station := { t.station with
      halves := t.station.halves ++ [(req, BitVec.ofNat 64 (s.peek (poolAddr core req.off) 8))] } }

/-- The upper half of a 16-byte request of the twin is performed, and the request answered (R360, R450). -/
def State.finishTwin (s : State) (core : Nat) (req : TwinRequest) (low : DWord) : State :=
  let s : State := { s with station := { s.station with halves := s.station.halves.filter fun h => h.1 != req } }
  match req.op with
  | .write _ data _ =>
    (s.portWrite core (req.off + 8) 8 (data.toNat / 2 ^ 64) none).answerTwin req (.ok 0#128 noFlags)
  | _ =>
    s.answerTwin req
      (.ok (BitVec.ofNat 128 (low.toNat + 2 ^ 64 * s.peek (poolAddr core (req.off + 8)) 8)) noFlags)

/-- A request of the twin for a launch performed at its owning port, and its response (R283, R360, R450, R452). A write that
the spill ring caught was answered then, and both halves of a caught request are performed at once. -/
def State.performTwin (s : State) (core l : Nat) (req : TwinRequest) (caught : Bool) : State :=
  let n := twinSize req.op
  let answered : Bool := match req.op with
    | .write .. => caught
    | _ => false
  if !s.portOk core l req.off n then s.answerTwin req (.fault 0x04#8 4 req.off)
  else if twinMerges req.op && s.isBad (poolAddr core req.off) n then
    let t := s.machineCheck 1 (twinCore req) req.off
    if answered then t else t.answerTwin req (.fault 0x0D#8 1 req.off)
  else
    let s := s.corrects (poolAddr core req.off) n
    if n = 16 ∧ !caught then s.beginTwin core req
    else
      let (t, v, fl) := s.performAt core l req
      if answered then t else t.answerTwin req (.ok v fl)

/-! The replay (R293, R295). -/

/-- A caught access is performed (R295): a store, acknowledged when it was caught; a load or atomic whose sender still waits
for it. -/
def State.replayAccess (s : State) (n id : Nat) (f : Flight) : State :=
  let off := ea22 f.ea
  let waiting : Bool := match Tbl.get? s.flights id with
    | some g => g.stage == .caught
    | none => false
  let bad := s.isBad (poolAddr n off) f.size
  let stop (s : State) : State := (s.deferFlight id f 0x0D#8 1 off).refreshWho f
  let s := if bad then s else s.corrects (poolAddr n off) f.size
  match f.op with
  | .store bytes _ data =>
    if bad && decide (bytes < 4) then (if (Tbl.get? s.flights id).isSome then stop s else s)
    else s.portWrite n off bytes data.toNat (s.tracerOf f n)
  | .load .. =>
    if !waiting then s
    else if bad then stop s
    else s.bindLoad id f (s.peek (poolAddr n off) f.size)
  | _ =>
    if !waiting then s
    else if bad then stop s
    else s.portAtomic id f n off

/-- A caught read of an engine or a merge is performed, and its value or its fault goes back (R247, R250, R293, R344): to the
flight that asked, or to the gather/scatter request of the sending core. -/
def State.replayRead (s : State) (n src : Nat) (id : Option Nat) (off len : Nat) : State :=
  let bad := s.isBad (poolAddr n off) len
  let v := s.peek (poolAddr n off) len
  let s := if bad then s else s.corrects (poolAddr n off) len
  match id with
  | some id =>
    match Tbl.get? s.flights id with
    | none => s
    | some f =>
      if f.stage ≠ .caught then s
      else if !bad then s.setStage id (.answered (BitVec.ofNat 128 v))
      else if f.isMerge then (s.deferFlight id f 0x0D#8 1 off).refreshWho f
      else (s.machineCheck 1 (s.coreWord src) off).setStage id (.refused 0x0D#8)
  | none =>
    match Tbl.get? (s.cluster (clusterOf src)).gte src with
    | none => s
    | some g =>
      if !g.asked then s
      else
        let g := { g with asked := false }
        if bad then s.failRun src g 0x0D#8 1 off
        else
          match g.idx with
          | none => s.setRun src { g with idx := some v }
          | some _ => s.setRun src { g with el := { g.el with val := some (BitVec.ofNat 128 v) } }

/-- An engine's write is performed (R247, R294, R370; log 86). -/
def State.replayWrite (s : State) (n e src off : Nat) (data : List Byte) : State :=
  let tr (kind : Nat) : Option Tracer := if src = s.coreWord n ∧ kind ≠ 4 then none else some ⟨src, kind⟩
  if e = 3 then
    (s.portWrite n off 4 (natOfBytes (data.take 4)) (tr 4)).portWrite n (off + 4) 4 (natOfBytes (data.drop 4)) (tr 4)
  else s.portWrite n off data.length (natOfBytes data) (tr (if e = 0 then 1 else if e = 1 then 3 else 4))

/-- A caught reply to an atomic or a SPAWN is delivered, the message that answers a SPAWN being received now (R264, R293). -/
def State.replayReply (s : State) (n l id : Nat) (data : QWord) (flags : FFlags) : State :=
  match Tbl.get? s.flights id with
  | none => s
  | some f =>
    if f.stage ≠ .caught then s
    else
      (match f.op with
       | .spawn .. => s.consume n l
       | _ => s).deliver id f data flags

/-- Entries a caller mailbox holds (R201). -/
def mboxRoom : Nat := 64

/-- One entry of a spill ring replayed as it would have been performed at arrival; it stays where a full inbox or mailbox
does not take it, and so do the later ones of its kind (R295). -/
def State.replayEntry (s : State) (n l : Nat) (kept : List Spill) (e : Spill) : State × List Spill :=
  let isFault : Spill → Bool
    | .faultMsg _ => true
    | _ => false
  match e with
  | .access id f => (s.replayAccess n id f, kept)
  | .twinReq req => (s.performTwin n l req true, kept)
  | .reply id data flags _ _ => (s.replayReply n l id data flags, kept)
  | .msg m =>
    if 256 ≤ (s.core n).inbox.length ∨ kept.any Spill.isMsg then (s, kept ++ [e]) else (s.takeMsg n m, kept)
  | .wake _ page => (s.wakeLaunch n l page, kept)
  | .signal line => (s.performSignal n l line, kept)
  | .level kind m =>
    (if kind = 0 then s.homeArrival n m else if kind = 1 then s.takeCompletion n m else s.takeSummons n m, kept)
  | .faultMsg b =>
    match s.res? n l with
    | none => (s, kept)
    | some r =>
      if mboxRoom ≤ r.mbox.length ∨ kept.any isFault then (s, kept ++ [e])
      else (s.modRes n l fun r => { r with mbox := r.mbox ++ [b] }, kept)
  | .engineWrite eng src off data => (s.replayWrite n eng src off data, kept)
  | .engineRead src id off len => (s.replayRead n src id off len, kept)
  | .hit tag h _ rec_ => ((s.takeHit tag h rec_).drawn, kept)
  | .hend m => ((s.takeHend m).drawn, kept)
  | .hq m => (s.takeHq m, kept)
  | .hcan origin tag h => (s.takeHcan n origin tag h, kept)

/-- A spill ring replayed in order (R295). -/
def State.replayRing (s : State) (n l : Nat) (ring : List Spill) : State × List Spill :=
  ring.foldl (fun p e => p.1.replayEntry n l p.2 e) (s, [])

/-! The resume (R37, R240, R252, R295, R324). -/

/-- The sequence number a trace ring goes on with (R371). -/
def State.traceNext (s : State) (n ring : Nat) : Nat :=
  (List.range 1024).foldl
    (fun a i =>
      if s.peek (poolAddr n (ring + 16 * i + 6)) 1 = 0 then a else max a (s.peek (poolAddr n (ring + 16 * i)) 4 + 1)) 0

/-- The core's memories get the saved bytes back, wherever the launch's tiles and units now lie (R240, R295). -/
def State.restoreBytes (s : State) (n l : Nat) (r : Res) (v : SavedMem) : State :=
  let rest := (s.core n).besides [l]
  let s := if rest.isEmpty then s.modCore n fun c => { c with part := v.part } else s
  let tiles := (untaken 16 (rest.flatMap fun q => q.2.tileMap)).take v.tiles.length
  let units := unitsOf (unitRuns rest) r.wbMap.length
  let r := { r with tileMap := tiles, wbMap := units }
  let s := s.write (poolAddr n (recNat r.record 60 4)) v.sp
  let s := (v.tiles.mapIdx fun i b => (i, b)).foldl (fun t p => t.write (poolAddr n ((t.core n).tileOff r p.1)) p.2) s
  let s := (units.mapIdx fun i u => (i, u)).foldl (fun t p => t.write (wbAddr n (256 * p.2)) ((v.wb.drop (256 * p.1)).take 256)) s
  let s := s.modRes n l fun x => { x with tileMap := tiles, wbMap := units }
  if r.traced n then
    let ring := recNat r.record 96 4 % 2 ^ 22
    s.modCore n fun c => { c with traceEn := true, traceRing := ring, traceSeq := BitVec.ofNat 32 (s.traceNext n ring) }
  else s

/-- Saved entries re-enter their queues ahead of new ones, and the messages the outbox (R286, R295); a copy that was held reads
its element afresh. -/
def State.restoreQueues (s : State) (n : Nat) (v : SavedMem) : State :=
  let free (e : ChanEntry) : ChanEntry := match e.op with
    | .copy fl d st _ => { e with op := .copy fl d st false }
    | _ => e
  let s := v.outbox.foldl (fun t p => t.enterNet n p.1 { p.2 with box := .outbox }) s
  s.modCore n fun c =>
    { c with
      chans := Vector.ofFn fun i => (v.chans.getD i.val []).map free ++ c.chans[i]
      joins := v.joins.foldl (fun t p => Tbl.set t p.1 p.2) c.joins
      mx := v.mx ++ c.mx, trp := v.trp ++ c.trp, gteq := v.gteq ++ c.gteq, inbox := v.inbox ++ c.inbox, cwp := v.cwp }

/-- The recorded accesses are issued again: stores, atomics and MINT at the tail of the store FIFO (R170, R171, R295); one that
a replayed wake has sent on already is not issued twice. -/
def State.reissue (s : State) (n l : Nat) (v : SavedMem) : State :=
  let s := v.reissue.foldl
    (fun t id =>
      match Tbl.get? t.flights id with
      | some f =>
        if f.stage = .faulted then t
        else if f.isLoad then t.sendOn id .request
        else if t.inFifo n id then t.setStage id .fifo
        else (t.setStage id .fifo).modCore n fun c => { c with fifo := c.fifo ++ [id] }
      | none => t) s
  s.modCore n fun c =>
    { c with
      slots := Tbl.mapKV c.slots fun _ m => if m.owner = some l then { m with parkedOn := [], codePark := none } else m
      queries := Tbl.mapKV c.queries fun _ q => if q.launch = l then { q with pageHeld := none } else q }

/-- A micro-thread returns to the state it left (R29). -/
def Core.wakeSame (c : Core) (l : Nat) : Core :=
  (c.owned l).foldl
    (fun c slot =>
      if (c.micro slot).life = .halted then
        (c.modMicro slot fun m => { m with life := m.held, cych := none }).refresh slot
      else c) c

/-- A micro-thread is re-sliced (R37): a faulted one keeps its place, and so does one that its supervisor has sent on inside
a figure (log 23); every other is called, with its next figure in RESUME. -/
def Micro.reslice (m : Micro) : Micro :=
  match m.fault, m.pos with
  | some i, _ => { m with life := m.held, resume := i.fig }
  | none, some p => { m with life := m.held, resume := p.fig }
  | none, none => { m with resume := m.nextFig.getD 0#32, mode := .called, life := .called, callq := [], rearmed := m.waits }

/-- A micro-thread that a replayed SPAWN has just created is called too, once its registers are written (R23, R37). -/
def Micro.resliceNew (m : Micro) : Micro := { m with resume := m.nextFig.getD 0#32, mode := .called, callq := [] }

/-- The micro-threads of a launch re-sliced (R37). -/
def Core.wakeResliced (c : Core) (l : Nat) : Core :=
  (c.owned l).foldl
    (fun c slot =>
      match (c.micro slot).life with
      | .halted =>
        if (c.micro slot).held = .created then
          c.modMicro slot fun m => { m.resliceNew with life := m.held, cych := none }
        else (c.modMicro slot fun m => { m.reslice with cych := none }).stamp slot
      | .created => c.modMicro slot Micro.resliceNew
      | _ => c) c

/-- The grant at a resume (R37): the micro-threads go back to their states, or are re-sliced and the caller enters at
CRESLICE with the old and the new grant. -/
def State.resumeGrant (s : State) (n l : Nat) : State :=
  match s.res? n l with
  | none => s
  | some r =>
    match r.grant with
    | none => s.modCore n fun c => c.wakeSame l
    | some old =>
      let new := grantFor (s.core n).cap (r.setw.getD 0#64).toNat
      if new = old then s.modCore n fun c => c.wakeSame l
      else
        let oldSets := (s.core n).sets l
        let s := (s.modRes n l fun r => { r with grant := some new }).recut n l oldSets
        let s := s.modCore n fun c => c.wakeResliced l
        s.modCaller n l fun h =>
          let h := (h.setReg 10#5 (BitVec.ofNat 64 old)).setReg 11#5 (BitVec.ofNat 64 new)
          { h with pc := BitVec.ofNat 64 (recNat r.record 32 8) }

/-- A launch that is resident on all its cores again is placed, and its save areas are free (R394). -/
def State.resumedAll (s : State) (l : Nat) : State :=
  match s.launch? l with
  | none => s
  | some x =>
    let all := x.cores.all fun n => match s.res? n l with
      | some r => r.phase == .resident
      | none => false
    if x.state = .resuming ∧ all then s.modLaunch l fun x => { x with state := .placed, sweep := none } else s

/-- A saved context is restored from its image, replayed and restarted (R295; log 22). -/
def State.resumeOn (s : State) (n l at_ : Nat) (r : Res) (v : SavedMem) : State :=
  let v := s.imageMem at_ v
  let s := (s.readImage n l at_).restoreBytes n l r v
  let s := s.restoreQueues n v
  let s := s.modRes n l fun r => { r with phase := .resident, saved := none, spill := [], ringNext := 0 }
  let (s, kept) := s.replayRing n l r.spill
  let s := s.modRes n l fun r => { r with spill := r.spill ++ kept }
  let s := ((s.reissue n l v).resumeGrant n l).settle
  (s.modLaunch l fun x => { x with areas := Tbl.erase x.areas n }).resumedAll l

/-- A launch's contexts may resume (R281, R395): the scheduler has decided it, or they were saved where their cores were parked
and not for a pre-emption; and every core of it that holds one fits it and is not parked. -/
def State.mayResume (s : State) (l : Nat) (x : Launch) : Bool :=
  (x.state == .resuming || x.state == .placed) &&
    x.cores.all fun n => match s.res? n l with
      | some r => r.phase == .resident || (r.phase == .saved && (s.core n).fitsAgain l x.record [])
      | none => false

/-- CONTEXT_RESUME: on the core that saved it, a context is checked and resumes where it fits (R295, R395); one that is
refused ends its launch (R403). -/
def execContextResume (core launch : Nat) (s : State) : Out :=
  match s.launch? launch, s.res? core launch, s.areaOf core launch with
  | some x, some r, some (area, ring) =>
    match r.phase, r.saved with
    | .saved, some v =>
      if !s.mayResume launch x then .next s
      else
        match s.imageRefused core launch area ring r.ringNext with
        | some reason => .next (s.abort launch reason false true)
        | none => .next (s.resumeOn core launch area r v)
    | _, _ => .next s
  | _, _, _ => .next s

/-! Fault messages (R201, R274, R277, R397). -/

/-- A slot of a core has the oldest unposted fault message of its launch there: by the turn it faulted on, then by slot. -/
def Core.firstUnposted (c : Core) (l : Nat) : Option (Nat × FaultInfo) :=
  let all := (c.owned l).filterMap fun slot =>
    match (c.micro slot).life, (c.micro slot).fault with
    | .faulted, some i => if i.posted then none else some (slot, i)
    | _, _ => none
  all.find? fun p => all.all fun q => decide (p.2.stamp < q.2.stamp) || (p.2.stamp == q.2.stamp && decide (p.1 ≤ q.1))

/-- Messages that a resume left over in the ring go into the mailbox first. -/
def State.leftover (s : State) (n l : Nat) : Nat → State
  | 0 => s
  | fuel + 1 =>
    match s.res? n l with
    | none => s
    | some r =>
      let isFault : Spill → Bool
        | .faultMsg _ => true
        | _ => false
      match takeFirst isFault r.spill with
      | some (.faultMsg b, rest) =>
        if r.mbox.length < mboxRoom ∧ r.phase = .resident then
          (s.modRes n l fun r => { r with spill := rest, mbox := r.mbox ++ [b] }).leftover n l fuel
        else s
      | _ => s

/-- A register's machine check is logged with its fault's message (R441; log 35). Where in the pool the register lies the spec does
not say (R16; log 70): the logged offset is a free value. -/
def State.logRegister (s : State) (n : Nat) (i : FaultInfo) : State :=
  if i.code = 0x0D#8 ∧ i.detail.toNat / 2 ^ 22 = 2 then (s.machineCheck 2 (s.coreWord n) s.draw).drawn else s

/-- FAULT_MESSAGE_POST: the oldest fault message of a launch on a core is posted to its supervisor caller's mailbox when it
has room (R277); one for a halted launch is caught, and one for a caller whose part has ended fails the launch (R397). -/
def execFaultMessagePost (core slot : Nat) (s : State) : Out :=
  let c := s.core core
  match (c.micro slot).owner with
  | none => .next s
  | some l =>
    match s.res? core l with
    | none => .next s
    | some r =>
      match c.firstUnposted l, coreOfCode (r.caller.fsup.toNat % 512) with
      | some (first, i), some t =>
        if first ≠ slot ∨ r.away then .next s
        else
          match s.res? t l with
          | none => .next s
          | some target =>
            let b := faultBytes (slot + 1024 * s.coreWord core) i
            let posted (s : State) : State :=
              (s.modMicro core slot fun m => { m with fault := m.fault.map fun i => { i with posted := true } }).logRegister
                core i
            if target.away then
              if s.ringFull t l then .next s else .next (posted (s.catchSpill t l (.faultMsg b)))
            else if target.caller.ended then .next (s.abort l 2 false true)
            else
              let s := s.leftover t l target.spill.length
              let full : Bool := match s.res? t l with
                | some x => decide (mboxRoom ≤ x.mbox.length)
                | none => true
              if full then .next s
              else .next (posted (s.modRes t l fun r => { r with mbox := r.mbox ++ [b] }))
      | _, _ => .next s

end Sys2Proof.Machine
end

