-- ==== Sys2Proof/Machine/Dsc.lean ====
section
/-!
DEFINITION. The die scheduler: host queues, placement, pre-emption and resume, termination, the watchdog, fault records and
shoot-downs, and its registers (R378-R380, R385-R403).
-/

namespace Sys2Proof.Machine

/-! Host queues (R385, R386). -/

/-- CAP. -/
def HostQ.cap (q : HostQ) : Nat := (q.cfg.extractLsb' 0 16).toNat
/-- ASID. -/
def HostQ.asid (q : HostQ) : Nat := (q.cfg.extractLsb' 16 16).toNat
/-- The partition. -/
def HostQ.part (q : HostQ) : Nat := (q.cfg.extractLsb' 32 3).toNat
/-- MAXPRIO. -/
def HostQ.maxPrio (q : HostQ) : Nat := (q.cfg.extractLsb' 35 3).toNat
/-- EN. -/
def HostQ.enabled (q : HostQ) : Bool := q.cfg.getLsbD 63

/-- A host queue changed. -/
def State.modQueue (s : State) (q : Nat) (f : HostQ → HostQ) : State :=
  s.modDsc fun d => { d with queues := d.queues.mapIdx fun i v => if i = q then f v else v }

/-- DOORBELL_WRITE (R386): a TAIL too far ahead is ignored. -/
def execDoorbellWrite (q : Nat) (tail : Word) (s : State) : Out :=
  match s.dsc.queues[q]? with
  | none => .next s
  | some h => if h.cap < (tail - h.head).toNat then .next s else .next (s.modQueue q fun h => { h with tail := tail })

/-- The queue whose entry the scheduler takes next, in rotating order (R386). -/
def State.nextQueue (s : State) : Option (Nat × HostQ) :=
  let order := (List.range 64).map fun i => (s.dsc.nextQueue + i) % 64
  (order.filterMap fun q => (s.dsc.queues[q]?).map fun h => (q, h)).find? fun p =>
    p.2.enabled && p.2.head != p.2.tail && !p.2.held

/-- The record of a queue's oldest entry: where it is, and what reading it gives (R386, R387). -/
def State.entryRecord (s : State) (h : HostQ) : Except (Option (Nat × DWord)) (List Byte) :=
  let va : DWord := BitVec.ofNat 64 (s.peek (h.entryAt h.head.toNat) 8)
  if va.toNat % 64 ≠ 0 ∨ !canonical va ∨ isArray va then .error none
  else s.readRecord h.asid (va.toNat % 2 ^ 48) 8

/-- An entry is refused with a reason, and HEAD goes on (R386). -/
def State.refuseEntry (s : State) (q : Nat) (h : HostQ) (reason : Nat) : State :=
  (s.writeEntry (some (q, h.head.toNat)) 3 (some reason) none).modQueue q fun h => { h with head := h.head + 1#32, held := false }

/-- HOST_QUEUE_TAKE (R386, R387): the entry's record is read and checked; a resolvable fault holds its queue. Before READY the
host has no queue (R437). -/
def execHostQueueTake (s : State) : Out :=
  match if s.rtc.ready then s.nextQueue else none with
  | none => .next s
  | some (q, h) =>
    let s := s.modDsc fun d => { d with nextQueue := (q + 1) % 64 }
    match s.entryRecord h with
    | .error (some (va, leaf)) => .next ((s.postRecord 0 h.asid va leaf).modQueue q fun h => { h with held := true })
    | .error none => .next (s.refuseEntry q h 1)
    | .ok rec_ =>
      match s.refuses rec_ h.asid h.part h.maxPrio with
      | some reason => .next (s.refuseEntry q h reason)
      | none =>
        let (id, s) := s.accept rec_ q 0 (some (q, h.head.toNat)) none
        .next ((s.writeEntry (some (q, h.head.toNat)) 1 none (some (0, id))).modQueue q
          fun h => { h with head := h.head + 1#32 })

/-! Decisions (R390, R391, R393, R395, R396, R447). -/

/-- A partition's next decision is held back: the firmware places and resumes nothing, a launch there is being resumed, or a
proposal to the twin is open (R391, R396, R435). -/
def State.deciding (s : State) (p : Nat) : Bool :=
  s.dsc.placingStopped || s.dsc.launches.any fun q => q.2.part == p && (q.2.state == .resuming || q.2.proposed)

/-- A launch resumes: one decision (R390, R395). -/
def State.resumes (s : State) (l : Nat) (x : Launch) : State :=
  (s.modLaunch l fun x =>
    { x with state := .resuming, proposed := false, confirmed := false, twinFull := false }).decided x.part

/-- A launch that fits again begins to resume; a PAIR launch is proposed to the twin, which judges its own cores (R395,
R447; log 24). -/
def State.beginResume (s : State) (l : Nat) (x : Launch) : State :=
  if x.isPair then (s.modLaunch l fun x => { x with proposed := true }).sendTwin (.sched (.resume l)) else s.resumes l x

/-- What the twin has confirmed is done: card 0's half of a PAIR launch is placed, or resumes (R395, R447). -/
def State.complete (s : State) (l : Nat) (x : Launch) : State :=
  match x.state with
  | .waiting => (s.modLaunch l fun x => { x with confirmed := false }).place l (x.x0, x.y0)
  | .saved => s.resumes l x
  | _ => s.modLaunch l fun x => { x with proposed := false, confirmed := false }

/-- A launch that the twin confirmed while placing and resuming were stopped (R435). -/
def State.confirmedIn (s : State) (p : Nat) : Option (Nat × Launch) :=
  s.dsc.launches.find? fun q => q.2.part == p && q.2.confirmed

/-- A launch is pre-empted with save areas on its cores: one decision (R393). -/
def State.beginSave (s : State) (l : Nat) (areas : Tbl (Nat × Nat)) (tell : Bool) : State :=
  match s.launch? l with
  | none => s
  | some x =>
    let s := (s.modLaunch l fun x =>
      { x with
        state := .saving, sweep := none, twinSweep := none, swept := x.swept.map fun _ => false
        areas := areas.foldl (fun t a => Tbl.set t a.1 a.2) x.areas }).decided x.part
    let s := s.savedAll l
    if x.isPair && tell then s.sendTwin (.sched (.preempt l)) else s

/-- The MAXPRIO of a launch's root queue (R387). -/
def State.rootMax (s : State) (x : Launch) : Nat :=
  match s.dsc.queues[x.rootq]? with
  | some h => h.maxPrio
  | none => x.rootPrio

/-- DISPATCH_PLACEMENT: the first waiting launch of a partition takes the least fitting rectangle (R390, R391); a PAIR launch
is proposed to the twin (R447). What the twin confirmed while placing was stopped comes first (R435). -/
def execDispatchPlacement (p : Nat) (s : State) : Out :=
  match s.confirmedIn p, s.firstWaiting p with
  | some (l, x), _ => if s.dsc.placingStopped then .next s else .next (s.complete l x)
  | none, none => .next s
  | none, some (l, x) =>
    if x.state ≠ .waiting ∨ s.deciding p ∨ (s.fullIn p).isSome ∨ !(s.part p).enabled then .next s
    else
      match (s.candidates x).find? fun o => s.fitsAt l x [] o with
      | none => .next s
      | some o =>
        if x.isPair then
          let i := s.freeIndex.getD 0
          .next ((s.modLaunch l fun x => { x with proposed := true, x0 := o.1, y0 := o.2, pairIndex := none }).sendTwin
            (.sched (.propose i l o.1 o.2 (s.rootMax x) x.record)))
        else .next (s.place l o)

/-- RESUME_DECISION: the first waiting launch of a partition is a saved one whose cores fit it again (R390, R395). -/
def execResumeDecision (p : Nat) (s : State) : Out :=
  match s.firstWaiting p with
  | none => .next s
  | some (l, x) =>
    if x.state ≠ .saved ∨ s.deciding p ∨ (s.fullIn p).isSome then .next s
    else if s.fitsAt l x [] (x.x0, x.y0) then .next (s.beginResume l x)
    else .next s

/-- The placed launches, but for one, that a core of a rectangle holds, in the order of their identifiers. -/
def State.holders (s : State) (l : Nat) (cores : List Nat) : List (Nat × Launch) :=
  s.dsc.launches.filter fun q => q.1 != l && q.2.state == .placed && q.2.cores.any fun n => cores.contains n

/-- The ways to take k of a list, in its order. -/
def choose {α : Type} : Nat → List α → List (List α)
  | 0, _ => [[]]
  | _ + 1, [] => []
  | k + 1, a :: r => (choose k r).map (a :: ·) ++ choose (k + 1) r

/-- The launches that go for a rectangle to fit, of some that may (R393): the highest priority among them is as low as it can
be, and then they are as few as they can be. Of several such choices the first in the order of identifiers is taken (DESIGN
CHOICE, log 25). None where removing them all is not enough. -/
def State.victims (s : State) (l : Nat) (x : Launch) (o : Nat × Nat) (may : List (Nat × Launch)) :
    Option (List (Nat × Launch)) :=
  let fits (v : List (Nat × Launch)) : Bool := s.fitsAt l x (v.map Prod.fst) o
  let upTo (p : Nat) : List (Nat × Launch) := may.filter fun q => decide (s.effective q.2 ≤ p)
  ((List.range 8).find? fun p => fits (upTo p)).bind fun p =>
    (List.range ((upTo p).length + 1)).findSome? fun k => (choose k (upTo p)).find? fits

/-- One choice of victims before another: the lower highest priority, then the fewer launches (R393). -/
def State.betterVictims (s : State) (a b : List (Nat × Launch)) : Bool :=
  let top (v : List (Nat × Launch)) : Nat := v.foldl (fun m q => max m (s.effective q.2)) 0
  decide (top a < top b) || (decide (top a = top b) && decide (a.length < b.length))

/-- Launches pre-empted together, if the save pool holds them all (R393). -/
def State.preemptAll (s : State) (victims : List (Nat × Launch)) : Option State :=
  victims.foldl
    (fun acc v => acc.bind fun t =>
      match t.launch? v.1 with
      | none => some t
      | some x =>
        (t.allocAreas x.part (x.cores.filter fun n => !Tbl.has x.areas n)).map fun a => t.beginSave v.1 a true)
    (some s)

/-- A partition is saving launches already. -/
def State.savingIn (s : State) (p : Nat) : Bool := s.dsc.launches.any fun q => q.2.part == p && q.2.state == .saving

/-- PREEMPTION_DECISION: where the first waiting launch fits nowhere, launches of strictly lower effective priority make room
for it (R393). -/
def execPreemptionDecision (p : Nat) (s : State) : Out :=
  match s.firstWaiting p with
  | none => .next s
  | some (l, x) =>
    let places := s.candidates x
    if s.deciding p ∨ (s.fullIn p).isSome ∨ s.savingIn p ∨ places.any (fun o => s.fitsAt l x [] o) then .next s
    else
      let lower (o : Nat × Nat) : List (Nat × Launch) :=
        (s.holders l (rectCores o.1 o.2 x.width x.height)).filter fun q => decide (s.effective q.2 < s.effective x)
      let best := (places.filterMap fun o => s.victims l x o (lower o)).foldl
        (fun b v => match b with
          | none => some v
          | some w => if s.betterVictims v w then some v else some w) none
      match best.bind s.preemptAll with
      | some t => .next t
      | none => .next s

/-- A full launch whose cores fit it again resumes (R396): card 0 decides on a PAIR launch, and card 1 tells it of a ring that is
full there (log 24); a context saved at a core park needs no decision (R281). -/
def State.resumeFull (s : State) (l : Nat) (x : Launch) : State :=
  if x.state = .placed then s
  else if !s.mirror x then s.beginResume l x
  else if x.twinFull then s
  else (s.modLaunch l fun x => { x with twinFull := true }).sendTwin (.sched (.resume l))

/-- FORCED_RESUME: a launch whose spill ring is full is resumed before any other decision; what blocks it is pre-empted
(R396). -/
def execForcedResume (p : Nat) (s : State) : Out :=
  match s.fullIn p with
  | none => .next s
  | some (l, x) =>
    if s.deciding p then .next s
    else if s.fitsAt l x [] (x.x0, x.y0) then .next (s.resumeFull l x)
    else if s.savingIn p then .next s
    else
      match (s.victims l x (x.x0, x.y0) (s.holders l x.cores)).bind s.preemptAll with
      | some t => .next t
      | none => .next s

/-! Termination (R397, R398). -/

/-- A core is idle for a launch (R397). -/
def State.idleOn (s : State) (n l : Nat) : Bool :=
  let c := s.core n
  match s.res? n l with
  | none => false
  | some r =>
    r.caller.ended && r.spill.isEmpty &&
      ((c.owned l).all fun slot =>
        let m := c.micro slot
        m.life == .retired ||
          (m.life == .called && m.callq.isEmpty && !c.inGroup slot && m.deferred.isEmpty && m.pos.isNone)) &&
      (c.chans.all fun q => q.all fun e => e.launch != l) && (c.mx.all fun e => e.launch != l) &&
      (c.trp.all fun e => e.launch != l) && (c.gteq.all fun e => e.launch != l) &&
      (c.queries.all fun p => p.2.launch != l) && (c.inbox.all fun m => m.launch != l) &&
      (c.net.all fun p => p.2.all fun m => m.launch != l) &&
      ((s.cluster (clusterOf n)).gte.all fun p => p.1 != n || p.2.req.launch != l) &&
      s.flights.all fun p => p.2.core != n || p.2.launch != l

/-- What a sweep of a launch's cores on this card reports: idle, SENT and RECEIVED (R398). -/
def State.sweepOf (s : State) (l : Nat) (x : Launch) : Bool × Nat × Nat :=
  let rs := x.cores.filterMap fun n => s.res? n l
  (x.cores.all fun n => s.idleOn n l, (rs.map Res.sent).sum, (rs.map Res.received).sum)

/-- A sweep's totals judged against the last (R398): the launch ends at the second of two equal idle ones. -/
def State.judgeSweep (s : State) (l : Nat) (x : Launch) (idle : Bool) (sent received : Nat) : State :=
  if idle && sent == received then
    if x.sweep = some (sent, received) then
      let s := if x.isPair then s.sendTwin (.sched (.sweep l true sent received)) else s
      (s.beginEnd l 2 0 false).tryFinish l
    else s.modLaunch l fun x => { x with sweep := some (sent, received), twinSweep := none }
  else s.modLaunch l fun x => { x with sweep := none, twinSweep := none }

/-- A launch is swept only while it has no saved context on any core (R398). -/
def State.sweeps (s : State) (l : Nat) (x : Launch) : Bool :=
  x.state == .placed && x.cores.all fun n => match s.res? n l with
    | some r => r.phase == .resident
    | none => false

/-- A sweep of a PAIR launch (R398; log 24): it reaches the twin first, and card 0's own cores once the twin's report is here. -/
def State.sweepPair (s : State) (l : Nat) (x : Launch) : State :=
  match x.twinSweep, x.swept with
  | some (i, a, b), _ =>
    let (idle, sent, received) := s.sweepOf l x
    s.judgeSweep l x (idle && i) (sent + a) (received + b)
  | none, none => (s.modLaunch l fun x => { x with swept := some true }).sendTwin (.sched (.sweep l false 0 0))
  | none, some _ => s

/-- TERMINATION_SWEEP (R398): a launch without a saved context is swept, a PAIR launch by card 0; an ending launch goes on
(R399). -/
def execTerminationSweep (launch : Nat) (s : State) : Out :=
  match s.launch? launch with
  | none => .next s
  | some x =>
    if x.state = .ending then .next (s.tryFinish launch)
    else if !s.sweeps launch x ∨ s.mirror x then .next s
    else if x.isPair then .next (s.sweepPair launch x)
    else
      let (idle, sent, received) := s.sweepOf launch x
      .next (s.judgeSweep launch x idle sent received)

/-! The watchdog (R401-R403). -/

/-- Figures a launch retired on cores where it is placed and not saved, and whether there is such a core. -/
def State.figuresOf (s : State) (l : Nat) (x : Launch) : Nat × Bool :=
  let rs := (x.cores.filterMap fun n => s.res? n l).filter fun r => r.phase != .saved
  ((rs.map Res.figures).sum, !rs.isEmpty)

/-- A launch stands on its cores: it is neither waiting nor ending. -/
def Launch.holds (x : Launch) : Bool := x.state != .waiting && x.state != .ending

/-- A hung queue's launches are aborted, and its own are restarted while RETRY allows (R402). -/
def State.abortQueue (s : State) (q retry : Nat) : State :=
  (s.dsc.launches.filter fun p => p.2.rootq == q && p.2.holds).foldl
    (fun t p =>
      if p.2.entry.isNone then t.abort p.1 5 false true
      else t.abort p.1 1 (decide (p.2.restarts < retry)) true) s

/-- One host queue judged at the end of a window (R401); each firing triggers a snapshot where that is armed (R443). -/
def State.judgeQueue (s : State) (p q : Nat) : State :=
  let v := s.part p
  let parts := ((s.dsc.launches.filter fun l => l.2.rootq == q && l.2.holds && l.2.part == p).map
    fun l => s.figuresOf l.1 l.2).filter fun f => f.2
  if parts.isEmpty then s
  else
    let strikes := if (parts.map Prod.fst).sum < v.field 16 4 then ((s.dsc.queues[q]?).map HostQ.strikes).getD 0 + 1 else 0
    if v.field 3 1 ≤ strikes ∧ strikes ≠ 0 then
      (((s.interrupt (16 + p)).trigger 1).modQueue q fun h => { h with strikes := 0 }).abortQueue q (v.field 20 1)
    else s.modQueue q fun h => { h with strikes := strikes }

/-- WATCHDOG_WINDOW: at the end of a partition's window every host queue is judged, and the counts begin again (R401). -/
def execWatchdogWindow (p : Nat) (s : State) : Out :=
  if !(s.part p).enabled then .next s
  else
    let t := (List.range 64).foldl (fun t q => t.judgeQueue p q) s
    let mine := (s.dsc.launches.filter fun q => q.2.part == p).map Prod.fst
    let t : State := { t with cores := t.cores.map fun c =>
      { c with res := Tbl.mapKV c.res fun l r => if mine.contains l then { r with figures := 0 } else r } }
    .next (t.modPart p fun v => { v with window := v.window + 1 })

/-- MANAGEMENT_ABORT: the management harts abort a launch after one of its cores was parked (R281, R403). -/
def execManagementAbort (launch : Nat) (s : State) : Out :=
  match s.launch? launch with
  | none => .next s
  | some x =>
    if x.holds && x.cores.any fun n => (s.core n).parked then .next (s.abort launch 6 false true) else .next s

/-! Fault records (R378, R379). -/

/-- The partition of an ASID: that of a launch, or of an enabled host queue, of this ASID (log 26). -/
def State.asidPart (s : State) (asid : Nat) : Option Nat :=
  match s.dsc.launches.find? fun q => q.2.asid == asid with
  | some (_, x) => some x.part
  | none => (s.dsc.queues.find? fun h => h.enabled && h.asid == asid).map HostQ.part

/-- The 32 bytes of a fault record (R378). -/
def FaultRec.bytes (r : FaultRec) (tlu : Nat) : List Byte :=
  bytesOfNat 4 r.seq ++ bytesOfNat 1 tlu ++ bytesOfNat 1 r.kind ++ bytesOfNat 2 r.asid ++ bytesOfNat 8 (r.page * 0x1000) ++
    bytesOfNat 8 r.leaf.toNat ++ bytesOfNat 8 0

/-- The state of a TLU's record set. -/
def State.markRec (s : State) (tlu seq : Nat) (st : RecState) : State :=
  s.modTlu tlu fun t => { t with recs := t.recs.map fun r => if r.seq = seq then { r with state := st } else r }

/-- FAULT_RECORD_ARRIVAL: a TLU's oldest record that is not in the ring reaches the scheduler, which writes it or refuses it
(R378). -/
def execFaultRecordArrival (tlu : Nat) (s : State) : Out :=
  match (s.tlu tlu).recs.find? fun r => r.state != .written with
  | none => .next s
  | some r =>
    match s.asidPart r.asid with
    | none => .next s
    | some p =>
      let v := s.part p
      let cap := v.field 48 2
      if r.state = .refused then .next s
      else if cap ≤ (BitVec.ofNat 32 v.written - v.consumed).toNat then .next (s.markRec tlu r.seq .refused)
      else
        let at_ := v.field 40 8 + 32 * (v.written % max 1 cap)
        .next ((((s.write at_ (r.bytes tlu)).modPart p fun v => { v with written := v.written + 1 }).interrupt
          (8 + p)).markRec tlu r.seq .written)

/-- FAULTHEAD_WRITE: the host has consumed records; refused ones of the partition are offered again (R378). -/
def execFaultheadWrite (p : Nat) (v : Word) (s : State) : Out :=
  if 8 ≤ p then .next s
  else
    let s := s.modPart p fun x => { x with consumed := v }
    let mine (r : FaultRec) : Bool := s.asidPart r.asid == some p && r.state == .refused
    .next { s with tlus := s.tlus.map fun t =>
      { t with recs := t.recs.map fun r => if mine r then { r with state := .offered } else r } }

/-- The address of the access that a merge makes next (R167, R170). -/
def Flight.mergeAt (f : Flight) : Option Nat :=
  match f.op with
  | .merge f7 a b m =>
    let at_ (base : DWord) (i : Nat) : Option Nat := some ((base + BitVec.ofNat 64 (i * mergeKey a)).toNat % 2 ^ 48)
    (match mergeNext f7.toNat (wordAt a 4).toNat (wordAt a 5).toNat m with
     | .readX => at_ (pairAt a 0) m.i
     | .readY => at_ (pairAt a 2) m.j
     | .emit _ => at_ (pairAt b 0) m.n
     | _ => none)
  | _ => none

/-- The address that a parked access waits for. -/
def State.parkedAt (s : State) (f : Flight) : Option Nat :=
  match f.op with
  | .merge .. => f.mergeAt
  | .mint d =>
    let len := (wordAt d 2).toNat + (wordAt d 3).toNat
    match s.pagesOf (s.asidOf f.core f.launch) ((len + 4095) / 4096) ((pairAt d 0).toNat % 2 ^ 48) with
    | .error (va, .fail _) => some va
    | _ => none
  | _ => some (f.ea.toNat % 2 ^ 48)

/-- The page a held copy waits for: of the element's source until it is read, then of its destination (R250). -/
def copyPage (d : CopyDesc) (k : Nat) (el : Elem) : Nat :=
  (if el.val.isSome then d.dstAt k else d.srcAt k).toNat % 2 ^ 48 / 0x1000

/-- A gather/scatter request of a core waits for a page (R343). -/
def State.gteWaits (s : State) (n : Nat) (g : GteRun) (page : Nat) : Bool :=
  g.held && (s.gteAddr n g).toNat % 2 ^ 48 / 0x1000 == page

/-- Something of an ASID on a core waits for a page. -/
def State.waitsOn (s : State) (n asid page : Nat) : Bool :=
  let c := s.core n
  let mine (l : Nat) : Bool := match s.res? n l with
    | some r => r.asid == asid
    | none => false
  (s.flights.any fun p => p.2.core == n && p.2.stage == .parked && mine p.2.launch &&
      (s.parkedAt p.2).any fun va => va / 0x1000 == page) ||
    (c.slots.any fun p => p.2.codePark == some page && p.2.owner.any mine) ||
    (c.queries.any fun p => p.2.pageHeld == some page && mine p.2.launch) ||
    (c.chans.any fun q => q.any fun e => mine e.launch && (match e.op with
      | .copy _ _ (.started d k _ el _) held => held && copyPage d k el == page
      | _ => false)) ||
    (s.cluster (clusterOf n)).gte.any fun p => p.1 == n && s.gteWaits n p.2 page && mine p.2.req.launch

/-- A page is mapped: a wake goes to every core with something waiting on it, and held queues are tried again (R379). -/
def State.wakePage (s : State) (asid page : Nat) : State :=
  let cores := (List.range Config.numCores).filter fun n => s.waitsOn n asid page && !s.wakes.contains (n, asid, page)
  ({ s with wakes := s.wakes ++ cores.map fun n => (n, asid, page) } : State).modDsc fun d =>
    { d with queues := d.queues.map fun h => if h.asid = asid then { h with held := false } else h }

/-- A gather/scatter request that waits for a refused page ends there, whether its launch is halted or not (R343, R348). -/
def State.refuseGte (s : State) (n l page : Nat) : State :=
  match Tbl.get? (s.cluster (clusterOf n)).gte n with
  | some g => if g.req.launch = l ∧ s.gteWaits n g page then s.endRun n { g with held := false } 3 5 g.i else s
  | none => s

/-- A refused page on one core: the launch's parked accesses, code fetches, copies, gather/scatter request, queries and caller
meet "unresolvable page" (R170, R182, R250, R280, R308, R343, R379). -/
def State.refuseOn (s : State) (n l page : Nat) : State :=
  let hit := s.flights.filter fun p =>
    p.2.core == n && p.2.launch == l && p.2.stage == .parked && (s.parkedAt p.2).any fun va => va / 0x1000 == page
  let s := hit.foldl
    (fun t p => (t.deferFlight p.1 p.2 0x05#8 0 (((s.parkedAt p.2).getD p.2.ea.toNat) % 0x400000)).refreshWho p.2) s
  let s := ((s.core n).owned l).foldl
    (fun t slot => t.modCore n fun c =>
      let m := c.micro slot
      if m.codePark = some page then
        { c.setMicro slot
            ({ m with codePark := none }.takeFault
              { code := 0x05#8, detail := detailOf true 0 (page * 0x1000 % 0x400000), fig := m.nextFig.getD 0#32
                off := match m.pos with
                  | some p => p.off
                  | none => 0
                gen := m.gen, len := 0
                ll := match m.pos with
                  | some p => p.ll
                  | none => 0
                inFig := m.pos.isSome, trailer := none, redo := .instruction, posted := false, stamp := c.eligible }) with
          eligible := c.eligible + 1 }
      else c) s
  let s := (List.range 4).foldl
    (fun t ch =>
      match t.headCopy n ch with
      | some (l', _, _, .started d k u el _, true) =>
        if l' = l ∧ copyPage d k el = page then
          t.setCopy n ch (.ended (some d) k u 1 0x05) false
        else t
      | _ => t) s
  let s := s.refuseGte n l page
  let s := ((s.core n).queries.filter fun p => p.2.launch == l && p.2.pageHeld == some page).foldl
    (fun t p =>
      if p.2.state = .drain then t.failQuery n p.1 p.2 8 0x05
      else t.failQuery n p.1 { p.2 with buf := [] } 2 0x05) s
  (s.modCaller n l fun h =>
    match h.exc with
    | some e =>
      if e.tval.toNat % 2 ^ 48 / 0x1000 = page ∧ (e.cause = 12 ∨ e.cause = 13 ∨ e.cause = 15) then
        { h with exc := some { e with cause := if e.cause = 12 then 1 else if e.cause = 13 then 5 else 7 } }
      else h
    | none => h).settle

/-- A refused page: what waits for it on every core, queues whose record lies there, and end words (R379, R386, R399). -/
def State.refusePage (s : State) (asid page : Nat) : State :=
  let s := (List.range Config.numCores).foldl
    (fun t n => (t.core n).res.foldl
      (fun t p => 
        if p.2.asid ≠ asid then t
        else if p.2.phase = .saved then t.refuseGte n p.1 page
        else t.refuseOn n p.1 page) t) s
  let s := (List.range 64).foldl
    (fun t q =>
      match t.dsc.queues[q]? with
      | some h =>
        if h.held ∧ h.asid = asid then
          match t.entryRecord h with
          | .error (some (va, _)) => if va / 0x1000 = page then t.refuseEntry q h 1 else t
          | _ => t
        else t
      | none => t) s
  s.dsc.launches.foldl
    (fun t q =>
      if q.2.state = .ending ∧ q.2.asid = asid then
        match t.endWord q.2 with
        | .wait va _ =>
          if va / 0x1000 = page then (t.modLaunch q.1 fun x => { x with endRefused := true }).tryFinish q.1 else t
        | _ => t
      else t) s

/-- FAULTRESP_WRITE: the host answers a fault record (R379). -/
def execFaultrespWrite (v : DWord) (s : State) : Out :=
  let tlu := (v.extractLsb' 32 4).toNat
  let seq := (v.extractLsb' 0 32).toNat
  if v.extractLsb' 37 27 ≠ 0#27 then .next s
  else
    match (s.tlu tlu).recs.find? fun r => r.seq == seq with
    | none => .next s
    | some r =>
      let s := s.modTlu tlu fun t => { t with recs := t.recs.filter fun x => x.seq != seq }
      .next (if v.getLsbD 36 then s.refusePage r.asid r.page else s.wakePage r.asid r.page)

/-! Shoot-downs (R380). -/

/-- A page of a shoot-down's range: every page where the count is 0. -/
def shootHits (range : Nat × Nat × Nat) (asid first count : Nat) : Bool :=
  asid == range.1 && (range.2.2 == 0 || (decide (first < range.2.1 + range.2.2) && decide (range.2.1 < first + count)))

/-- The matching translations, lines and code lines are dropped (R330, R380). -/
def State.shootDrop (s : State) (range : Nat × Nat × Nat) : State :=
  let line (asid vline : Nat) : Bool := shootHits range asid (vline / 64) 1
  let s : State :=
    { s with
      tlus := s.tlus.map fun t =>
        { t with leaves := t.leaves.filter fun x => !shootHits range x.asid x.vpn (2 ^ (9 * x.level)) }
      cores := s.cores.map fun c => { c with code := c.code.filter fun x => !line x.1 x.2.1 } }
  (List.range 10).foldl
    (fun t cl =>
      (t.dropLines cl fun x => line x.asid x.vline).dropFills cl fun f => line (t.asidOf f.core f.launch) f.vline) s

/-- SHOOTGO_WRITE (R380): one shoot-down runs at a time, and a write while it runs is counted. -/
def execShootgoWrite (v : DWord) (s : State) : Out :=
  if s.dsc.shootBusy.isSome then .next (s.modDsc fun d => { d with shootLost := d.shootLost + 1#16 })
  else if v ≠ 1#64 then .next s
  else
    let range := (s.dsc.shootAsid.toNat % 2 ^ 16, s.dsc.shootVa.toNat % 2 ^ 48 / 0x1000, s.dsc.shootLen.toNat)
    .next ((s.modDsc fun d => { d with shootBusy := some range }).shootDrop range)

/-- An access translated under a dropped translation is not yet performed at its home. -/
def State.shootOpen (s : State) (range : Nat × Nat × Nat) : Bool :=
  (s.flights.any fun p =>
    shootHits range (s.asidOf p.2.core p.2.launch) (p.2.ea.toNat % 2 ^ 48 / 0x1000) 1 &&
      (match p.2.stage with
       | .ready _ _ => true
       | .home _ _ => true
       | _ => false)) ||
    s.tlus.any fun t => t.holds.any fun h => shootHits range h.2.1 h.2.2 1

/-- SHOOTDOWN_DONE: the shoot-down is done once its conditions hold (R380). -/
def execShootdownDone (s : State) : Out :=
  match s.dsc.shootBusy with
  | none => .next s
  | some range =>
    if s.shootOpen range then .next s
    else .next ((s.modDsc fun d => { d with shootBusy := none, shootDone := d.shootDone + 1#32 }).interrupt 24)

/-! Registers (R385, R400). -/

/-- What a read of DOORBELL gives: HEAD and TAIL (R385). -/
def HostQ.doorbell (h : HostQ) : DWord := h.tail ++ h.head

/-- SHOOTSTAT (R380, R385): BUSY, DONE and LOST. -/
def Dsc.shootStat (d : Dsc) : DWord := d.shootLost ++ d.shootDone ++ (0#15 : BitVec 15) ++ (BitVec.ofBool d.shootBusy.isSome)

/-- What a read of FAULTHEAD gives: the records written in the partition (R378). -/
def Part.faultHead (p : Part) : DWord := BitVec.ofNat 64 (p.written % 2 ^ 32)

/-- The interrupt line to the host complex (R385). -/
def Dsc.intLine (d : Dsc) : Bool := d.intstat != 0#25

/-- INTSTAT_CLEAR (R385). -/
def execIntstatClear (v : DWord) (s : State) : Out :=
  .next (s.modDsc fun d => { d with intstat := d.intstat &&& ~~~(v.setWidth 25) })

/-- A reserved bit of a partition's configuration is set (R9, R400). -/
def pcfgReserved (v : Line) : Bool :=
  v.extractLsb' 10 6 != 0#6 || v.extractLsb' 19 5 != 0#5 || v.getLsbD 95 || v.extractLsb' 168 24 != 0#24 ||
    v.extractLsb' 400 112 != 0#112

/-- A partition is configured (R400): it leaves PCFG unchanged while the partition holds a launch, where the masks of enabled partitions would
meet, and where a reserved bit is set (R9; DESIGN CHOICE, log 81). -/
def State.setPart (s : State) (p : Nat) (v : Line) : State :=
  let meets := (List.range 8).any fun q =>
    q != p && (s.part q).enabled && v.getLsbD 16 &&
      (BitVec.ofNat 10 ((s.part q).field 0 2) &&& v.extractLsb' 0 10) != 0#10
  if 8 ≤ p ∨ meets ∨ pcfgReserved v ∨ s.dsc.launches.any (fun q => q.2.part == p) then s
  else s.modPart p fun x => { x with cfg := v }

/-- PCFG_WRITE (R400). -/
def execPcfgWrite (p : Nat) (v : Line) (s : State) : Out := .next (s.setPart p v)

end Sys2Proof.Machine
end

