-- ==== Sys2Proof/Machine/Integer.lean ====
section
/-!
DEFINITION. Integer, immediate, comparison, selection and bit-field instructions (R97-R108, R111).
-/

namespace Sys2Proof.Machine

/-- A shift amount: b[4:0] (R100). -/
def shamt (b : Word) : Nat := b.toNat % 32

/-- The signed 64-bit product (R100). -/
def signedProduct (x y : Word) : DWord := x.signExtend 64 * y.signExtend 64

/-- The unsigned 64-bit product (R100). -/
def unsignedProduct (x y : Word) : DWord := x.setWidth 64 * y.setWidth 64

/-- ADD: the wrapping sum (R100). -/
def execAdd (d a b : Reg) (s : State) : Out :=
  alu 1 (fun m => m.op2 (fun x y => x + y) d a b) s

/-- SUB: the wrapping difference (R100). -/
def execSub (d a b : Reg) (s : State) : Out :=
  alu 1 (fun m => m.op2 (fun x y => x - y) d a b) s

/-- AND (R100). -/
def execAnd (d a b : Reg) (s : State) : Out :=
  alu 1 (fun m => m.op2 (fun x y => x &&& y) d a b) s

/-- OR (R100). -/
def execOr (d a b : Reg) (s : State) : Out :=
  alu 1 (fun m => m.op2 (fun x y => x ||| y) d a b) s

/-- XOR (R100). -/
def execXor (d a b : Reg) (s : State) : Out :=
  alu 1 (fun m => m.op2 (fun x y => x ^^^ y) d a b) s

/-- ANDN: a AND NOT b (R100). -/
def execAndn (d a b : Reg) (s : State) : Out :=
  alu 1 (fun m => m.op2 (fun x y => x &&& ~~~y) d a b) s

/-- SLL by b[4:0] (R100). -/
def execSll (d a b : Reg) (s : State) : Out :=
  alu 1 (fun m => m.op2 (fun x y => x <<< shamt y) d a b) s

/-- SRL by b[4:0] (R100). -/
def execSrl (d a b : Reg) (s : State) : Out :=
  alu 1 (fun m => m.op2 (fun x y => x >>> shamt y) d a b) s

/-- SRA by b[4:0] (R100). -/
def execSra (d a b : Reg) (s : State) : Out :=
  alu 1 (fun m => m.op2 (fun x y => x.sshiftRight (shamt y)) d a b) s

/-- ROL by b[4:0] (R100). -/
def execRol (d a b : Reg) (s : State) : Out :=
  alu 1 (fun m => m.op2 (fun x y => x.rotateLeft (shamt y)) d a b) s

/-- MIN, signed (R100). -/
def execMin (d a b : Reg) (s : State) : Out :=
  alu 1 (fun m => m.op2 (fun x y => if x.slt y then x else y) d a b) s

/-- MAX, signed (R100). -/
def execMax (d a b : Reg) (s : State) : Out :=
  alu 1 (fun m => m.op2 (fun x y => if x.slt y then y else x) d a b) s

/-- MINU, unsigned (R100). -/
def execMinu (d a b : Reg) (s : State) : Out :=
  alu 1 (fun m => m.op2 (fun x y => if x.ult y then x else y) d a b) s

/-- MAXU, unsigned (R100). -/
def execMaxu (d a b : Reg) (s : State) : Out :=
  alu 1 (fun m => m.op2 (fun x y => if x.ult y then y else x) d a b) s

/-- MUL: the low 32 bits of the product (R100). -/
def execMul (d a b : Reg) (s : State) : Out :=
  alu 1 (fun m => m.op2 (fun x y => x * y) d a b) s

/-- MULH: the high word of the signed product (R100). -/
def execMulh (d a b : Reg) (s : State) : Out :=
  alu 1 (fun m => m.op2 (fun x y => hiWord (signedProduct x y)) d a b) s

/-- MULHU: the high word of the unsigned product (R100). -/
def execMulhu (d a b : Reg) (s : State) : Out :=
  alu 1 (fun m => m.op2 (fun x y => hiWord (unsignedProduct x y)) d a b) s

/-- ADDS: the signed sum, saturated (R101). -/
def execAdds (d a b : Reg) (s : State) : Out :=
  alu 1 (fun m => m.op2 (fun x y => clamp32 (x.toInt + y.toInt)) d a b) s

/-- SUBS: the signed difference, saturated (R101). -/
def execSubs (d a b : Reg) (s : State) : Out :=
  alu 1 (fun m => m.op2 (fun x y => clamp32 (x.toInt - y.toInt)) d a b) s

/-- CLZ (R100). -/
def execClz (d a : Reg) (s : State) : Out :=
  alu 1 (fun m => m.op1 leadingZeros d a) s

/-- CTZ (R100). -/
def execCtz (d a : Reg) (s : State) : Out :=
  alu 1 (fun m => m.op1 trailingZeros d a) s

/-- POPC (R100). -/
def execPopc (d a : Reg) (s : State) : Out :=
  alu 1 (fun m => m.op1 popCount d a) s

/-- BREV (R100). -/
def execBrev (d a : Reg) (s : State) : Out :=
  alu 1 (fun m => m.op1 bitReverse d a) s

/-- ADD.D on pairs (R100). -/
def execAddD (d a b : Reg) (s : State) : Out :=
  alu 1 (fun m => m.opD2 (fun x y => x + y) d a b) s

/-- SUB.D on pairs (R100). -/
def execSubD (d a b : Reg) (s : State) : Out :=
  alu 1 (fun m => m.opD2 (fun x y => x - y) d a b) s

/-- MUL.WD: the full signed product into a pair (R100). -/
def execMulWD (d a b : Reg) (s : State) : Out :=
  alu 1 (fun m => m.opWD signedProduct d a b) s

/-- MULU.WD: the full unsigned product into a pair (R100). -/
def execMuluWD (d a b : Reg) (s : State) : Out :=
  alu 1 (fun m => m.opWD unsignedProduct d a b) s

/-- ADDI with the sign-extended immediate (R103). -/
def execAddi (d a : Reg) (imm : BitVec 13) (s : State) : Out :=
  alu 1 (fun m => m.op1 (fun x => x + imm.signExtend 32) d a) s

/-- ANDI (R103). -/
def execAndi (d a : Reg) (imm : BitVec 13) (s : State) : Out :=
  alu 1 (fun m => m.op1 (fun x => x &&& imm.signExtend 32) d a) s

/-- ORI (R103). -/
def execOri (d a : Reg) (imm : BitVec 13) (s : State) : Out :=
  alu 1 (fun m => m.op1 (fun x => x ||| imm.signExtend 32) d a) s

/-- XORI (R103). -/
def execXori (d a : Reg) (imm : BitVec 13) (s : State) : Out :=
  alu 1 (fun m => m.op1 (fun x => x ^^^ imm.signExtend 32) d a) s

/-- MULI (R103). -/
def execMuli (d a : Reg) (imm : BitVec 13) (s : State) : Out :=
  alu 1 (fun m => m.op1 (fun x => x * imm.signExtend 32) d a) s

/-- SLLI (R104). -/
def execSlli (d a : Reg) (sh : BitVec 5) (s : State) : Out :=
  alu 1 (fun m => m.op1 (fun x => x <<< sh.toNat) d a) s

/-- SRLI (R104). -/
def execSrli (d a : Reg) (sh : BitVec 5) (s : State) : Out :=
  alu 1 (fun m => m.op1 (fun x => x >>> sh.toNat) d a) s

/-- SRAI (R104). -/
def execSrai (d a : Reg) (sh : BitVec 5) (s : State) : Out :=
  alu 1 (fun m => m.op1 (fun x => x.sshiftRight sh.toNat) d a) s

/-- ROLI (R104). -/
def execRoli (d a : Reg) (sh : BitVec 5) (s : State) : Out :=
  alu 1 (fun m => m.op1 (fun x => x.rotateLeft sh.toNat) d a) s

/-- LUI: d := imm19 << 13 (R105). -/
def execLui (d : Reg) (imm : BitVec 19) (s : State) : Out :=
  alu 1 (fun m => m.op0 (imm ++ 0#13) d) s

/-- CMP of 32-bit integers (R106). -/
def execCmpI32 (p : PReg) (a b : Reg) (cond : BitVec 3) (s : State) : Out :=
  alu 1 (fun m => m.cmp2 (fun x y => (intCompare cond x y, noFlags)) p a b) s

/-- CMP of FP32 values (R106). -/
def execCmpF32 (p : PReg) (a b : Reg) (cond : BitVec 3) (s : State) : Out :=
  alu 2 (fun m => m.cmp2 (fun x y => fpCompare fp32 cond x.toNat y.toNat) p a b) s

/-- CMP of FP64 pairs (R106). -/
def execCmpF64 (p : PReg) (a b : Reg) (cond : BitVec 3) (s : State) : Out :=
  alu 4 (fun m => m.cmpD2 (fun x y => fpCompare fp64 cond x.toNat y.toNat) p a b) s

/-- CMP of 64-bit integer pairs (R106). -/
def execCmpI64 (p : PReg) (a b : Reg) (cond : BitVec 3) (s : State) : Out :=
  alu 1 (fun m => m.cmpD2 (fun x y => (intCompare cond x y, noFlags)) p a b) s

/-- CMPI with the sign-extended immediate (R107). -/
def execCmpi (p : PReg) (cond : BitVec 3) (a : Reg) (imm : BitVec 13) (s : State) : Out :=
  alu 1 (fun m => m.cmpImm (fun x => intCompare cond x (imm.signExtend 32)) p a) s

/-- SEL: a if the predicate holds, else b (R108). -/
def execSel (d a b : Reg) (p : PReg) (s : State) : Out :=
  alu 1 (fun m => m.op2 (fun x y => if m.pred p then x else y) d a b) s

/-- BFE (R111). -/
def execBfe (d a b : Reg) (s : State) : Out :=
  alu 1 (fun m => m.op2 bitExtract d a b) s

/-- BFI (R111). -/
def execBfi (d a b c : Reg) (s : State) : Out :=
  alu 1 (fun m => m.op3 bitInsert d a b c) s

end Sys2Proof.Machine
end

