-- ==== Sys2Proof/Machine/Lane.lean ====
section
/-!
DEFINITION. Set-converged instructions: cross-lane moves, votes, register links, reductions, scans and the exact
accumulator (R34, R35, R59-R64, R146-R153).
-/

namespace Sys2Proof.Machine

/-- The value a lane of a set gives: none where it is inactive (R35). -/
def Core.active {α : Type} (c : Core) (g : Group) (read : Micro → Except Flt α) (slot : Nat) : Option α :=
  if g.members.contains slot then
    match read (c.micro slot) with
    | .ok v => some v
    | .error _ => none
  else none

/-- Every active lane reads before any writes; each set works alone (R146). `write` gets the values of the lane's set in
lane order, the set's number and the lane. -/
def Core.runSets {α : Type} (c : Core) (g : Group) (word : Word) (read : Micro → Except Flt α)
    (write : List (Option α) → Nat → Nat → α → Micro → Micro) : Core :=
  { c with slots := Tbl.mapKV c.slots fun slot m =>
      if g.members.contains slot then
        match read m with
        | .error e => m.takeFault (e.info m g.fig g.off 4 g.ll word none c.eligible)
        | .ok v =>
          let (setNo, lane, set) := c.place g.launch slot
          write (set.map (c.active g read)) setNo lane v m
      else m }

/-- A set-converged instruction of weight `w`. -/
def setTurn {α : Type} (w : Nat) (read : Micro → Except Flt α)
    (write : List (Option α) → Nat → Nat → α → Micro → Micro) (s : State) : Out :=
  match s.seat? with
  | none => .next s
  | some (n, k, c, g) =>
    .next (s.modCore n fun _ => (c.runSets g s.curWord read write).endTurn k g 4 w false)

/-- Sources of a shuffle: the values of a and b. -/
def Micro.shuffleArgs (d a b : Reg) (m : Micro) : Except Flt (Word × Word) := do
  m.need [d, a, b]
  let x ← m.rd a
  let y ← m.rd b
  m.wrOk d 1
  .ok (x, y)

/-- A shuffle with a source lane for each lane: an inactive source, or one outside the set, gives the lane's own a
(R147). -/
def shuffle (src : List (Option (Word × Word)) → Nat → Word → Nat) (d a b : Reg) (s : State) : Out :=
  setTurn 1 (Micro.shuffleArgs d a b)
    (fun vals _ lane v m =>
      m.setReg d (match vals[src vals lane v.2]? with
        | some (some u) => u.1
        | _ => v.1)) s

/-- SHFL (R147). -/
def execShfl (d a b : Reg) (s : State) : Out := shuffle (fun _ _ y => y.toNat) d a b s

/-- ROTL (R147). -/
def execRotl (d a b : Reg) (s : State) : Out :=
  shuffle (fun vals lane y => (lane + y.toNat % vals.length) % vals.length) d a b s

/-- BFLY (R147). -/
def execBfly (d a b : Reg) (s : State) : Out := shuffle (fun _ lane y => lane ^^^ (y.toNat % 64)) d a b s

/-- BCAST: the source lane is b of the lowest active lane (R147). -/
def execBcast (d a b : Reg) (s : State) : Out :=
  shuffle (fun vals _ y => match vals.findSome? fun v => v with
    | some u => u.2.toNat
    | none => y.toNat) d a b s

/-- VOTEALL: inactive lanes do not vote (R148). -/
def execVoteall (d a : PReg) (s : State) : Out :=
  setTurn 1 (fun m => .ok (m.pred a)) (fun vals _ _ _ m => m.setPred d (vals.all fun v => v.getD true)) s

/-- VOTEANY (R148). -/
def execVoteany (d a : PReg) (s : State) : Out :=
  setTurn 1 (fun m => .ok (m.pred a)) (fun vals _ _ _ m => m.setPred d (vals.any fun v => v.getD false)) s

/-- The mask of the lanes that hold true. -/
def ballotMask : List (Option Bool) → Nat
  | [] => 0
  | v :: r => (if v = some true then 1 else 0) + 2 * ballotMask r

/-- BALLOT: a 64-bit mask into a pair (R148). -/
def execBallot (d : Reg) (a : PReg) (s : State) : Out :=
  setTurn 1
    (fun m => do
      m.need [d]
      m.wrOk d 2
      .ok (m.pred a))
    (fun vals _ _ _ m => m.setPair d (BitVec.ofNat 64 (ballotMask vals))) s

/-- The micro-thread a register link names, with the checks of R149: the slot, the register number, its pending bit. -/
def Core.linkTarget (c : Core) (l : Nat) (slot : Word) (num : Reg) (write : Bool) : Except Flt Micro :=
  let t := c.micro slot.toNat
  if Config.numSlots ≤ slot.toNat ∨ t.owner ≠ some l ∨ t.life = .created ∨ t.life = .retired then
    .error (.protection 1 0)
  else if t.bud ≤ num.toNat then .error (.protection 2 0)
  else if t.pend.getLsbD num.toNat then .error (.unawaited num write true)
  else .ok t

/-- LINKR: d takes register gn of the micro-thread in slot a (R149, R150), whose word the issuing lane reads (R283). -/
def execLinkr (d a num : Reg) (s : State) : Out :=
  lanes 4 1 (fun c slot m => do
    if 56 ≤ num.toNat then .error .illegal
    else
      m.need [d, a]
      let x ← m.rd a
      m.wrOk d 1
      let t ← c.linkTarget ((c.micro slot).owner.getD 0) x num false
      if t.bad.getLsbD num.toNat then .error (.machineCheck num)
      else .ok (m.setReg d (t.reg num))) s

/-- What a LINKW lane writes: the target slot and the value, all read before any write (R146, R150). -/
def Core.linkWrite (c : Core) (l : Nat) (d a num : Reg) (m : Micro) : Except Flt (Nat × Word) := do
  if 56 ≤ num.toNat then .error .illegal
  else
    m.need [d, a]
    let v ← m.rd d
    let x ← m.rd a
    let _ ← c.linkTarget l x num true
    .ok (x.toNat, v)

/-- LINKW: the micro-thread in slot a receives d in gn; the highest issuing slot wins (R149, R150). -/
def execLinkw (d a num : Reg) (s : State) : Out :=
  match s.seat? with
  | none => .next s
  | some (n, k, c, g) =>
    let c1 := c.runLanes g s.curWord 4 fun _ m =>
      match c.linkWrite g.launch d a num m with
      | .ok _ => .ok m
      | .error e => .error e
    let c2 := g.members.foldl
      (fun t slot =>
        match c.linkWrite g.launch d a num (c.micro slot) with
        | .ok (target, v) => t.modMicro target fun m => m.setReg num v
        | .error _ => t) c1
    .next (s.modCore n fun _ => c2.endTurn k g 4 1 false)

/-- Source and destination of a reduction (R151). -/
def Micro.reduceArgs (d a : Reg) (m : Micro) : Except Flt Word := do
  m.need [d, a]
  let x ← m.rd a
  m.wrOk d 1
  .ok x

/-- An integer reduction: inactive lanes enter as the identity (R59, R151). -/
def reduceInt (f : Word → Word → Word) (e : Word) (d a : Reg) (s : State) : Out :=
  setTurn 1 (Micro.reduceArgs d a)
    (fun vals _ _ _ m => m.setReg d (vals.foldl (fun acc v => f acc (v.getD e)) e)) s

/-- RADD (R151). -/
def execRadd (d a : Reg) (s : State) : Out := reduceInt (fun x y => x + y) 0#32 d a s
/-- RMIN (R151). -/
def execRmin (d a : Reg) (s : State) : Out := reduceInt (fun x y => if y.slt x then y else x) 0x7FFFFFFF#32 d a s
/-- RMAX (R151). -/
def execRmax (d a : Reg) (s : State) : Out := reduceInt (fun x y => if x.slt y then y else x) 0x80000000#32 d a s
/-- RMINU (R151). -/
def execRminu (d a : Reg) (s : State) : Out := reduceInt (fun x y => if y.ult x then y else x) 0xFFFFFFFF#32 d a s
/-- RMAXU (R151). -/
def execRmaxu (d a : Reg) (s : State) : Out := reduceInt (fun x y => if x.ult y then y else x) 0#32 d a s
/-- RAND (R151). -/
def execRand (d a : Reg) (s : State) : Out := reduceInt (fun x y => x &&& y) 0xFFFFFFFF#32 d a s
/-- ROR (R151). -/
def execRor (d a : Reg) (s : State) : Out := reduceInt (fun x y => x ||| y) 0#32 d a s
/-- RXOR (R151). -/
def execRxor (d a : Reg) (s : State) : Out := reduceInt (fun x y => x ^^^ y) 0#32 d a s

/-- The identity of an FP32 addition, −0 (R60). -/
def minusZero32 : Nat := 0x80000000
/-- The identity of an FP64 addition, −0 (R60). -/
def minusZero64 : Nat := 0x8000000000000000

/-- RFADD: the pairwise tree over LANE in RNE (R60). -/
def execRfadd (d a : Reg) (s : State) : Out :=
  setTurn 2 (Micro.reduceArgs d a)
    (fun vals _ _ _ m =>
      let r := treeSum fp32 7 (vals.map fun v => (v.map BitVec.toNat).getD minusZero32) noFlags
      (m.setReg d (BitVec.ofNat 32 r.1)).raise r.2) s

/-- A minimum or maximum over the active lanes (R44, R151). -/
def reduceMinMax (maximum : Bool) (vals : List (Option Word)) : FpRes :=
  match vals.filterMap fun v => v with
  | [] => (fp32.nanCode, noFlags)
  | x :: r =>
    r.foldl
      (fun acc v => let t := fpMinMax fp32 maximum acc.1 v.toNat; (t.1, acc.2 ||| t.2))
      (fpMinMax fp32 maximum x.toNat x.toNat)

/-- RFMIN (R151). -/
def execRfmin (d a : Reg) (s : State) : Out :=
  setTurn 2 (Micro.reduceArgs d a)
    (fun vals _ _ _ m =>
      let r := reduceMinMax false vals
      (m.setReg d (BitVec.ofNat 32 r.1)).raise r.2) s

/-- RFMAX (R151). -/
def execRfmax (d a : Reg) (s : State) : Out :=
  setTurn 2 (Micro.reduceArgs d a)
    (fun vals _ _ _ m =>
      let r := reduceMinMax true vals
      (m.setReg d (BitVec.ofNat 32 r.1)).raise r.2) s

/-- SADD: the inclusive scan mod 2^32 (R61). -/
def execSadd (d a : Reg) (s : State) : Out :=
  setTurn 1 (Micro.reduceArgs d a)
    (fun vals _ lane _ m => m.setReg d ((vals.take (lane + 1)).foldl (fun acc v => acc + v.getD 0#32) 0#32)) s

/-- SADDX: the exclusive scan mod 2^32 (R151). -/
def execSaddx (d a : Reg) (s : State) : Out :=
  setTurn 1 (Micro.reduceArgs d a)
    (fun vals _ lane _ m => m.setReg d ((vals.take lane).foldl (fun acc v => acc + v.getD 0#32) 0#32)) s

/-- The sequential sum of FP32 codes in RNE with its flags (R61). -/
def scanSum : List Nat → FpRes
  | [] => (0, noFlags)
  | x :: r => r.foldl (fun acc v => let t := fpAdd fp32 .rne acc.1 v; (t.1, acc.2 ||| t.2)) (x, noFlags)

/-- SFADD: the sequential inclusive scan in RNE, with the flags up to the lane's own addition (R61). -/
def execSfadd (d a : Reg) (s : State) : Out :=
  setTurn 2 (Micro.reduceArgs d a)
    (fun vals _ lane _ m =>
      let r := scanSum ((vals.take (lane + 1)).map fun v => (v.map BitVec.toNat).getD minusZero32)
      (m.setReg d (BitVec.ofNat 32 r.1)).raise r.2) s

/-- RDADD: the pairwise tree on FP64 pairs (R60). -/
def execRdadd (d a : Reg) (s : State) : Out :=
  setTurn 4
    (fun m => do
      m.need [d, a]
      let x ← m.rdPair a
      m.wrOk d 2
      .ok x)
    (fun vals _ _ _ m =>
      let r := treeSum fp64 7 (vals.map fun v => (v.map BitVec.toNat).getD minusZero64) noFlags
      (m.setPair d (BitVec.ofNat 64 r.1)).raise r.2) s

/-- The exact accumulator of a set (R62): clear where the set has none yet (R153). -/
def Core.xac (c : Core) (l setNo : Nat) : Xac :=
  match Tbl.get? c.res l with
  | some r => (Tbl.get? r.xacs setNo).getD Xac.zero
  | none => Xac.zero

/-- An instruction on the accumulators of the sets with an active lane: `upd` gets the active lanes' values in ascending
LANE (R63, R152). -/
def xacTurn {α : Type} (w : Nat) (read : Micro → Except Flt α) (upd : List α → Xac → Xac)
    (write : Xac → Micro → Micro) (s : State) : Out :=
  match s.seat? with
  | none => .next s
  | some (n, k, c, g) =>
    let c1 := c.runSets g s.curWord read fun _ setNo _ _ m => write (c.xac g.launch setNo) m
    let c2 := ((c.sets g.launch).zipIdx).foldl
      (fun t p =>
        match p.1.filterMap (c.active g read) with
        | [] => t
        | vs => t.modRes g.launch fun r => { r with xacs := Tbl.set r.xacs p.2 (upd vs (c.xac g.launch p.2)) }) c1
    .next (s.modCore n fun _ => c2.endTurn k g 4 w false)

/-- XCLR (R152). -/
def execXclr (s : State) : Out := xacTurn 1 (fun _ => .ok ()) (fun _ _ => Xac.zero) (fun _ m => m) s

/-- XADD: a of every active lane, exactly (R63). -/
def execXadd (a : Reg) (s : State) : Out :=
  xacTurn 2
    (fun m => do
      m.need [a]
      m.rd a)
    (fun vs x => vs.foldl (fun x v => x.addTerm (fp32.value v.toNat)) x) (fun _ m => m) s

/-- XMAD: the exact product of every active lane (R63). -/
def execXmad (a b : Reg) (s : State) : Out :=
  xacTurn 2
    (fun m => do
      m.need [a, b]
      let x ← m.rd a
      let y ← m.rd b
      .ok (x, y))
    (fun vs x => vs.foldl (fun x v => x.addTerm (xacProduct v.1.toNat v.2.toNat)) x) (fun _ m => m) s

/-- XRND: the accumulator rounded to FP32 in RNE (R64). -/
def execXrnd (d : Reg) (s : State) : Out :=
  xacTurn 2
    (fun m => do
      m.need [d]
      m.wrOk d 1)
    (fun _ x => x)
    (fun x m => (m.setReg d (BitVec.ofNat 32 (x.rounded fp32).1)).raise (x.rounded fp32).2) s

/-- XRNDD: the accumulator rounded to FP64 into a pair (R64). -/
def execXrndd (d : Reg) (s : State) : Out :=
  xacTurn 4
    (fun m => do
      m.need [d]
      m.wrOk d 2)
    (fun _ x => x)
    (fun x m => (m.setPair d (BitVec.ofNat 64 (x.rounded fp64).1)).raise (x.rounded fp64).2) s

end Sys2Proof.Machine
end

