-- ==== Sys2Proof/Machine/Pair.lean ====
section
/-!
DEFINITION. The pair: link training and loss, requests of the twin, and the scheduling acts between the two schedulers
(R445-R452, R459, R460).
-/

namespace Sys2Proof.Machine

/-- The station changed. -/
def State.modStation (s : State) (f : Station → Station) : State := { s with station := f s.station }

/-- LINK_TRAINING (R446, R448): at boot, before the module is ready, it finds the twin, and the serial numbers that the
stations send give the cards their numbers until the next reset; later it follows RETRAIN. A module that found no twin at boot
stays card 0 with PRESENT clear, and takes no link (DEDUCED, log 82). A station that is told another number than the module's
own trains with no one. -/
def execLinkTraining (own twin : DWord) (s : State) : Out :=
  let t := s.station
  if t.up ∨ own ≠ Config.serialNumber then .next s
  else if !t.present then
    if s.rtc.ready then .next s
    else .next (s.modStation fun t => { t with up := true, present := true, card := decide (twin.toNat < own.toNat) })
  else if t.retraining then .next (s.modStation fun t => { t with up := true, retraining := false })
  else .next s

/-- PAIRCTL_RETRAIN (R448). -/
def execPairctlRetrain (v : DWord) (s : State) : Out :=
  if v = 1#64 then .next (s.modStation fun t => { t with retraining := true }) else .next s

/-- TWIN_UNSUPPORTED_REQUEST (R445): dropped and counted. -/
def execTwinUnsupportedRequest (s : State) : Out := if s.station.up then .next s.countLate else .next s

/-! The loss of the link (R459, R460). -/

/-- Hand-offs lost: the twin's sub-queries stop, and the queries that wait for a hand-off go on without it (R320, R460). -/
def Core.loseHandoffs (c : Core) : Core :=
  { c with
    queries := (Tbl.mapKV c.queries fun _ q =>
      if q.out.isEmpty then q else { q with lost := true, out := [] }).filter fun p => p.2.origin.isNone }

/-- The outstanding accesses to the twin end with a machine check (R460). -/
def State.loseAccesses (s : State) : State :=
  let open_ := s.flights.filter fun p => match p.2.stage with
    | .twin => true
    | .asked => true
    | _ => false
  (open_.foldl
    (fun t p =>
      match p.2.stage with
      | .twin => (t.deferFlight p.1 p.2 0x0D#8 5 (ea22 p.2.ea)).refreshWho p.2
      | _ => t.twinAnswer p.1 p.2 (.fault 0x0D#8 5 (ea22 p.2.ea))) s).settle

/-- A PAIR launch that is ending to be restarted ends for the loss of the link instead (R460). -/
def Launch.unrestarted (x : Launch) : Launch :=
  if x.isPair && x.fin.any (fun f => f.2.2) then { x with fin := some (4, 7, false) } else x

/-- The link is lost (R459, R460): accesses, hand-offs and PAIR launches end, and the pair table is free. -/
def State.linkLoss (s : State) : State :=
  let s := s.loseAccesses
  let s := ({ s with
    cores := s.cores.map Core.loseHandoffs, resvs := s.resvs.filter fun r => decide (r.1 < Config.numCores) } :
      State).modStation fun t =>
    { t with
      up := false, retraining := false, losses := if t.losses = 0xFFFF#16 then t.losses else t.losses + 1#16
      hqs := [], hits := [], unhacked := [], out := [], halves := [] }
  let s := s.modDsc fun d => { d with launches := Tbl.mapKV d.launches fun _ x => x.unrestarted }
  let s := (s.dsc.launches.filter fun p => p.2.isPair).foldl (fun t p => t.abort p.1 7 false false) s
  s.modStation fun t => { t with table := List.replicate 16 none }

/-- LINK_DOWN (R459). -/
def execLinkDown (s : State) : Out := if s.station.up then .next s.linkLoss else .next s

/-- LINK_RESPONSE_TIMEOUT: a request without a response or an HQ without a HACK counts as link loss (R459). -/
def execLinkResponseTimeout (s : State) : Out :=
  let waiting := s.flights.any fun p => match p.2.stage with
    | .twin => true
    | .asked => true
    | _ => false
  if s.station.up ∧ (waiting ∨ s.station.unhacked ≠ []) then .next s.linkLoss else .next s

/-! Requests of the twin (R449, R450, R452). -/

/-- A 16-byte request of the twin's core whose upper half is still to come keeps a later one of that core to the line waiting
(R360, R451). -/
def State.twinLineBusy (s : State) (req : TwinRequest) : Bool :=
  s.station.halves.any fun h => h.1.src == req.src && h.1.core == req.core && h.1.off / 64 == req.off / 64

/-- TWIN_REQUEST_ARRIVAL: a request for a launch of the pair table is performed at its owning port, one of 16 bytes by two turns;
one for a halted launch is caught there, a write counting as performed (R293, R360, R450, R452). -/
def execTwinRequestArrival (req : TwinRequest) (s : State) : Out :=
  if !s.station.up then .next s
  else
    match s.pairLaunch req.index, s.station.halves.find? fun h => h.1 == req with
    | none, _ =>
      .next ((s.modStation fun t => { t with halves := t.halves.filter fun h => h.1 != req }).countLate)
    | some _, some (_, low) => .next (s.finishTwin req.core req low)
    | some l, none =>
      if s.twinLineBusy req then .next s
      else if !s.portOk req.core l req.off (twinSize req.op) then
        .next (s.sendTwin (.response req.tag (.fault 0x04#8 4 req.off)))
      else if s.away req.core l then
        if s.ringFull req.core l then .next s
        else
          let s := s.catchSpill req.core l (.twinReq req)
          match req.op with
          | .write .. => .next (s.sendTwin (.response req.tag (.ok 0#128 noFlags)))
          | _ => .next s
      else .next (s.performTwin req.core l req false)

/-! Scheduling acts (R268, R391, R395, R396, R398, R447). What they say on the link beyond R447's words is the model's choice
(DESIGN CHOICE, log 24). -/

/-- The pair-table index of a PAIR launch is recorded (R447). -/
def State.bindPair (s : State) (index l : Nat) : State :=
  (s.modStation fun t => { t with table := t.table.mapIdx fun i v => if i = index then some l else v }).modLaunch l
    fun x => { x with pairIndex := some index }

/-- Card 1 judges a proposal by its own cores, and places its half or refuses (R391, R447). -/
def State.takeProposal (s : State) (index l x0 y0 maxPrio : Nat) (record : List Byte) : State :=
  let part := recNat record 10 1
  let cores := rectCores x0 y0 (recNat record 14 1) (recNat record 15 1)
  let fits := s.cardNo == 1 && !s.dsc.placingStopped && (s.rectangles record part).contains (x0, y0) &&
    (cores.all fun n => (s.core n).fits record []) && (s.station.table.getD index (some 0)).isNone &&
    (s.launch? l).isNone
  if fits then
    let s := s.modDsc fun d =>
      { d with
        orders := d.orders + 1
        launches := Tbl.set d.launches l
          { record := record, state := .waiting, rootq := 64, rootPrio := maxPrio, entry := none, poster := none, restarts := 0
            order := d.orders, since := (s.part part).decisions, x0 := 0, y0 := 0, areas := [], sweep := none
            twinSweep := none, pairIndex := some index, proposed := false, fin := none, released := false
            endRefused := false } }
    ((s.bindPair index l).place l (x0, y0)).sendTwin (.sched (.confirm index l))
  else s.sendTwin (.sched (.refuse index l))

/-- Card 0 places its half, or resumes it, on confirmation (R395, R447); while placing and resuming are stopped it waits
(R435). -/
def State.takeConfirm (s : State) (index l : Nat) : State :=
  match s.launch? l with
  | none => s.countLate
  | some x =>
    if !x.proposed then s
    else
      let s := if x.state = .waiting then s.bindPair index l else s
      if s.dsc.placingStopped then s.modLaunch l fun x => { x with confirmed := true } else s.complete l x

/-- The twin refuses what was proposed, or tells that its half has ended (R447; log 24): the index is free once both have. -/
def State.takeRefusal (s : State) (index l : Nat) : State :=
  match s.launch? l with
  | none => s.freePair index l
  | some x =>
    if x.proposed ∧ x.state ≠ .ending then s.modLaunch l fun x => { x with proposed := false }
    else s.modLaunch l fun x => { x with twinGone := true }

/-- The twin's pre-emption of a PAIR launch reaches this card's half (R393, R447); to a proposed resume it is the answer that the
twin's cores do not fit (R395; log 24). -/
def State.takePreempt (s : State) (l : Nat) : State :=
  match s.launch? l with
  | none => s.countLate
  | some x =>
    if x.state = .saved ∧ x.proposed then s.modLaunch l fun x => { x with proposed := false }
    else if x.state ≠ .placed then s
    else
      match s.allocAreas x.part (x.cores.filter fun n => !Tbl.has x.areas n) with
      | some a => s.beginSave l a false
      | none => s

/-- A resume on the link (R395, R396, R447; log 24). On card 1 it is card 0's proposal: card 1 judges its own cores, resumes and
confirms, or refuses. On card 0 it tells that a spill ring of card 1's half is full. -/
def State.takeResume (s : State) (l : Nat) : State :=
  match s.launch? l with
  | none => s.countLate
  | some x =>
    if s.cardNo = 0 then s.modLaunch l fun x => { x with twinFull := true }
    else
      let yes : ToTwin := .sched (.confirm (x.pairIndex.getD 0) l)
      match x.state with
      | .saved =>
        if !s.dsc.placingStopped && s.fitsAt l x [] (x.x0, x.y0) then (s.resumes l x).sendTwin yes
        else s.sendTwin (.sched (.preempt l))
      | .resuming => s.sendTwin yes
      | .placed => s.sendTwin yes
      | _ => s.sendTwin (.sched (.preempt l))

/-- A sweep on the link (R398; log 24). On card 0 it is the twin's report, which counts for the sweep that asked for it. On card 1
it is card 0's request for one, or, with its idle bit set, the news that the launch has ended. -/
def State.takeSweep (s : State) (l : Nat) (idle : Bool) (sent received : Nat) : State :=
  match s.launch? l with
  | none => s.countLate
  | some x =>
    if s.cardNo = 0 then
      match x.swept with
      | some true => s.modLaunch l fun x => { x with twinSweep := some (idle, sent, received), swept := none }
      | _ => s.modLaunch l fun x => { x with swept := none }
    else if idle then (s.beginEnd l 2 0 false).tryFinish l
    else
      let (i, a, b) := if s.sweeps l x then s.sweepOf l x else (false, 0, 0)
      s.sendTwin (.sched (.sweep l i a b))

/-- A barrier message from the twin's card (R268, R453): an arrival for the home of a level of the pair, or a summons or
completion for this card's cores. -/
def State.takeLevel (s : State) (index lvl episode kind : Nat) : State :=
  match s.pairLaunch index with
  | none => s.countLate
  | some l =>
    match s.launch? l with
    | none => s.countLate
    | some x =>
      let cores := x.cores.filter fun n => (s.res? n l).isSome
      match cores.head? with
      | none => s
      | some home => s.tellCores (if kind = 0 then [home] else cores) kind ⟨l, lvl, episode, home, true⟩

/-- SCHED_ARRIVAL: a scheduling act of the twin (R447, R453). -/
def execSchedArrival (act : SchedAct) (s : State) : Out :=
  if !s.station.up then .next s
  else
    match act with
    | .propose index l x0 y0 maxPrio record => .next (s.takeProposal index l x0 y0 maxPrio record)
    | .confirm index l => .next (s.takeConfirm index l)
    | .refuse index l => .next (s.takeRefusal index l)
    | .preempt l => .next (s.takePreempt l)
    | .resume l => .next (s.takeResume l)
    | .abort l reason => .next (if (s.launch? l).isSome then s.abort l reason false false else s.countLate)
    | .sweep l idle sent received => .next (s.takeSweep l idle sent received)
    | .level index lvl episode kind => .next (s.takeLevel index lvl episode kind)

end Sys2Proof.Machine
end

