-- ==== Sys2Proof/Machine/Shake.lean ====
section
/-!
DEFINITION. SHAKE256 (FIPS 202), which R437 to R439 name: the Keccak permutation on 25 lanes of 64 bits, and the digest of up to
136 bytes of a message (PRESUMED, log 7).
-/

namespace Sys2Proof.Machine

/-- The state of the permutation: lane (x, y) at x + 5y. -/
abbrev Lanes := Vector DWord 25

/-- Lane (x, y), its coordinates taken modulo 5. -/
def Lanes.at (a : Lanes) (x y : Nat) : DWord := (a[x % 5 + 5 * (y % 5)]?).getD 0#64

/-- Lanes given by their coordinates. -/
def Lanes.of (f : Nat → Nat → DWord) : Lanes := Vector.ofFn fun i => f (i.val % 5) (i.val / 5)

/-- The rotation of each lane in ρ, lane (x, y) at x + 5y. -/
def keccakRho : List Nat :=
  [0, 1, 62, 28, 27, 36, 44, 6, 55, 20, 3, 10, 43, 25, 39, 41, 45, 15, 21, 8, 18, 2, 61, 56, 14]

/-- The constants of ι, round by round. -/
def keccakIota : List DWord :=
  [0x0000000000000001#64, 0x0000000000008082#64, 0x800000000000808A#64, 0x8000000080008000#64, 0x000000000000808B#64,
   0x0000000080000001#64, 0x8000000080008081#64, 0x8000000000008009#64, 0x000000000000008A#64, 0x0000000000000088#64,
   0x0000000080008009#64, 0x000000008000000A#64, 0x000000008000808B#64, 0x800000000000008B#64, 0x8000000000008089#64,
   0x8000000000008003#64, 0x8000000000008002#64, 0x8000000000000080#64, 0x000000000000800A#64, 0x800000008000000A#64,
   0x8000000080008081#64, 0x8000000000008080#64, 0x0000000080000001#64, 0x8000000080008008#64]

/-- One round: θ, then ρ and π, then χ and ι. -/
def keccakRound (a : Lanes) (c : DWord) : Lanes :=
  let sum (x : Nat) : DWord := a.at x 0 ^^^ a.at x 1 ^^^ a.at x 2 ^^^ a.at x 3 ^^^ a.at x 4
  let sums : Lanes := Lanes.of fun x _ => sum x
  let theta := Lanes.of fun x y => a.at x y ^^^ sums.at (x + 4) 0 ^^^ (sums.at (x + 1) 0).rotateLeft 1
  let moved := Lanes.of fun x y => (theta.at (x + 3 * y) x).rotateLeft (keccakRho.getD ((x + 3 * y) % 5 + 5 * x) 0)
  Lanes.of fun x y =>
    moved.at x y ^^^ (~~~(moved.at (x + 1) y) &&& moved.at (x + 2) y) ^^^ (if x = 0 ∧ y = 0 then c else 0#64)

/-- The permutation Keccak-f[1600]. -/
def keccak (a : Lanes) : Lanes := keccakIota.foldl keccakRound a

/-- Bytes that a block of SHAKE256 takes. -/
def shakeRate : Nat := 136

/-- A block added to the state, and the permutation. -/
def keccakBlock (a : Lanes) (b : List Byte) : Lanes :=
  keccak (Lanes.of fun x y => a.at x y ^^^ BitVec.ofNat 64 (natOfBytes ((b.drop (8 * (x + 5 * y))).take 8)))

/-- A message with its suffix 1111, the first bit of the padding, zeros, and the last bit. -/
def shakePad (m : List Byte) : List Byte :=
  let gap := shakeRate - m.length % shakeRate
  m ++ (if gap = 1 then [0x9F#8] else 0x1F#8 :: List.replicate (gap - 2) 0#8 ++ [0x80#8])

/-- The first n bytes of SHAKE256 of a message, for n up to 136. -/
def shakeBytes (n : Nat) (m : List Byte) : List Byte :=
  let a := (chunks shakeRate (shakePad m)).foldl keccakBlock (Vector.replicate 25 0#64)
  (a.toList.flatMap fun v => bytesOfNat 8 v.toNat).take n

/-- The digest of 512 bits (R438), its first byte lowest. -/
def shake256 (m : List Byte) : Line := BitVec.ofNat 512 (natOfBytes (shakeBytes 64 m))

end Sys2Proof.Machine
end

