-- ==== Sys2Proof/Machine/Management.lean ====
section
/-!
DEFINITION. The module: management accesses, reset and boot, power and temperature, the root-of-trust core, the patrol
scrub, snapshots, cluster power, and device registers without an event of their own (R284, R350, R385, R430-R443).
-/

namespace Sys2Proof.Machine

/-! Management accesses to a core window (R431, R432). -/

/-- A place of a core window is a pool or WB word. -/
def inCoreMemory (off : Nat) : Bool := decide (off + 8 ≤ Config.poolBytes + Config.wbBytes) && off % 8 == 0

/-- MANAGEMENT_POOL_READ (R432): an 8-byte access at the pool port. What other places of the window hold is free (log 8). A word of
the register-file region reads as the pool's bytes, and not as the registers of the micro-threads that live there, whose layout
the spec does not give (R16; DESIGN CHOICE, log 70). -/
def execManagementPoolRead (core off : Nat) (s : State) : Out :=
  if Config.numCores ≤ core ∨ 0x400000 ≤ off then .next s
  else if inCoreMemory off then
    let v : DWord := BitVec.ofNat 64 (s.peek (poolAddr core off) 8)
    .next ((s.corrects (poolAddr core off) 8).modDsc fun d => { d with lastMgmtRead := v })
  else .next ((s.modDsc fun d => { d with lastMgmtRead := BitVec.ofNat 64 s.draw }).drawn)

/-- MANAGEMENT_POOL_WRITE (R432): performed only where the core holds no resident and no saved launch; otherwise discarded
and counted. -/
def execManagementPoolWrite (core off : Nat) (data : DWord) (s : State) : Out :=
  if Config.numCores ≤ core ∨ 0x400000 ≤ off then .next s
  else if !(s.core core).res.isEmpty then .next (s.modCore core fun c => { c with mgmtErr := c.mgmtErr + 1#32 })
  else if inCoreMemory off then .next (s.poke (poolAddr core off) 8 data.toNat)
  else .next s

/-! Reset and boot (R436, R437). -/

/-- The state a reset leaves, but for the flash, the fuses and the model's own fields (R429, R435, R437; log 5). -/
def State.fromReset (s : State) : State :=
  { State.reset with
    agenda := s.agenda, fresh := s.fresh, nextId := s.nextId, flash := s.flash
    rtc := { Rtc.reset with floors := s.rtc.floors, fuses := s.rtc.fuses } }

/-- A measurement register extended (R438). -/
def Rtc.extend (r : Rtc) (i : Nat) (data : List Byte) : Rtc :=
  { r with mr := r.mr.mapIdx fun j v =>
      if j = i then shake256 (bytesOfNat 64 v.toNat ++ data) else v }

/-- Bytes of an image before its payload (R436). -/
def imageHead : Nat := 29920

/-- An image checked against its header, the fused key digests it may be signed under, and the KIND it must have (R436, R437). Its
digest is that of its header with the payload. -/
def checkImage (i : Sys2Proof.Image) (keys : List Line) (kind : Nat) : ImageCheck :=
  let b := i.bytes
  let len := recNat b 8 4
  { svn := recNat b 6 2
    verifies :=
      recNat b 0 4 == 0x57C0F1A0 && recNat b 4 2 == kind && decide (recNat b 6 2 < 1024) && len % 8 == 0 &&
        decide (len ≤ 2 ^ 24) && decide (imageHead + len ≤ b.length) && ((b.drop 16).take 48).all (fun x => x == 0#8) &&
        keys.contains (shake256 ((b.drop 64).take 64)) && i.signed
    digest := shake256 (b.take (imageHead + len)) }

/-- The keys that the images of a slot may be signed under (R437). -/
def slotKeys (f : Fuses) : List Line := if f.ownerKey = 0#512 then [f.vendorKey] else [f.vendorKey, f.ownerKey]

/-- The trusted image checked (R437). -/
def trustedCheck (f : Flash) (u : Fuses) : ImageCheck := checkImage f.trusted [u.vendorKey] 1

/-- The images of a slot checked (R437). -/
def slotCheck (p : Sys2Proof.Image × Sys2Proof.Image) (u : Fuses) : ImageCheck × ImageCheck := (checkImage p.1 (slotKeys u) 2, checkImage p.2 (slotKeys u) 3)

/-- The identity key pair: generated from seeds that are SHAKE256 of the device's secret (R439). -/
def identityOf (u : Fuses) : List Byte × List Byte := Config.slhDsaKeys (shakeBytes 96 u.secret)

/-- An image verifies and meets a floor: none, or the reason it is refused: 1 it does not verify, 2 its SVN (R437). -/
def imageUnfit (i : ImageCheck) (floor : Nat) : Option Nat :=
  if !i.verifies then some 1 else if i.svn < floor then some 2 else none

/-- Both images of a slot checked (R437). -/
def slotRefused (p : ImageCheck × ImageCheck) (floor : Nat) : Option Nat :=
  match imageUnfit p.1 floor with
  | some r => some r
  | none => imageUnfit p.2 floor

/-- The stations train at boot, where a twin is found (R446). -/
def Station.atBoot (t : Station) (twin : Option DWord) : Station :=
  match twin with
  | some v => { t with up := true, present := true, card := decide (v.toNat < Config.serialNumber.toNat) }
  | none => t

/-- The images of a slot are measured and started, the clusters that failed their self-test are offline, ASIDTAB and the
partitions are configured, and READY is set (R350, R437). -/
def State.bootSlot (s : State) (boot : BootInput) (slot : Nat) (images : ImageCheck × ImageCheck) : State :=
  let digest (d : Line) : List Byte := bytesOfNat 64 d.toNat
  let r := ((s.rtc.extend 1 (digest images.1.digest)).extend 2 (digest images.2.digest)).extend 3 (digest boot.configDigest)
  let s : State :=
    { s with
      clusters := s.clusters.mapIdx fun i c => { c with offline := boot.offline.getLsbD i }
      station := s.station.atBoot boot.twin
      rtc := { r with ready := true, slot := slot, used := (r.used.1, images.1.svn), usedCore := images.2.svn } }
  let s := s.modDsc fun d => { d with asidtab := boot.asidtab }
  (List.range 8).foldl (fun t p => t.setPart p (boot.pcfg.getD p 0#512)) s

/-- Boot stops at a step for a reason: the device stays in reset apart from the root-of-trust core (R437). -/
def State.bootStops (s : State) (step reason : Nat) : State :=
  { s with rtc := { s.rtc with failStep := step, failReason := reason }, power := { s.power with inReset := true } }

/-- MODULE_RESET (R437): the device starts again, and boots from slot A, from slot B where A is refused, or stays with
BOOTSTAT holding why. The trusted firmware derives the identity key before it checks the slots. -/
def execModuleReset (boot : BootInput) (s : State) : Out :=
  let s : State := { s.fromReset with flash := boot.flash }
  let fuses := s.rtc.fuses
  let trusted := trustedCheck boot.flash fuses
  let a := slotCheck boot.flash.slotA fuses
  let b := slotCheck boot.flash.slotB fuses
  let floor := max boot.managementFloor s.rtc.floors.2
  match imageUnfit trusted (max boot.trustedFloor s.rtc.floors.1) with
  | some reason => .next (s.bootStops 2 reason)
  | none =>
    let r := s.rtc.extend 0 (bytesOfNat 64 trusted.digest.toNat)
    let s : State := { s with rtc := { r with used := (trusted.svn, 0), identity := some (identityOf fuses) } }
    match slotRefused a floor with
    | none => .next (s.bootSlot boot 0 a)
    | some why =>
      let s : State := { s with rtc := { s.rtc with refusedA := true, reasonA := why } }
      match slotRefused b floor with
      | none => .next (s.bootSlot boot 1 b)
      | some reason => .next (s.bootStops 3 reason)

/-! Power and temperature (R433-R435). -/

/-- PLIMIT_WRITE (R433). -/
def execPlimitWrite (v : DWord) (s : State) : Out :=
  let w := v.toNat % 2 ^ 16
  if 100 ≤ w ∧ w ≤ 700 then .next { s with power := { s.power with plimit := BitVec.ofNat 16 w } } else .next s

/-- POWER_WINDOW: the throttle moves by one level (R434). -/
def execPowerWindow (pwr : Half) (s : State) : Out :=
  let p := s.power
  let n :=
    if p.plimit.toNat < pwr.toNat ∧ 1 < p.throttle then p.throttle - 1
    else if 100 * pwr.toNat < 95 * p.plimit.toNat ∧ p.throttle < 8 then p.throttle + 1
    else p.throttle
  .next { s with power := { p with pwr := pwr, throttle := n } }

/-- Degrees Celsius as TEMP counts them (R433). -/
def degrees (n : Nat) : Nat := 8 * n

/-- TEMP reaches a value (R435): from 115 °C the SoC is held in reset, and all its state is lost; from 105 °C the firmware stops
placing and resuming, and below 95 °C it places and resumes again. -/
def State.feels (s : State) (temp : Half) : State :=
  if degrees 115 ≤ temp.toNat then { s.fromReset with power := { Power.reset with temp := temp, inReset := true } }
  else
    let s : State := { s with power := { s.power with temp := temp } }
    if degrees 105 ≤ temp.toNat then s.modDsc fun d => { d with placingStopped := true }
    else if temp.toNat < degrees 95 then s.modDsc fun d => { d with placingStopped := false }
    else s

/-- THERMAL_STOP (R435). -/
def execThermalStop (temp : Half) (s : State) : Out := .next (s.feels temp)

/-- THERMAL_RESUME (R435). -/
def execThermalResume (temp : Half) (s : State) : Out := .next (s.feels temp)

/-- THERMAL_TRIP (R435). -/
def execThermalTrip (temp : Half) (s : State) : Out := .next (s.feels temp)

/-- POWER_LOSS (R435). -/
def execPowerLoss (s : State) : Out := .next { s.fromReset with power := { Power.reset with powered := false } }

/-- The SoC runs. -/
def State.running (s : State) : Bool := s.power.powered && !s.power.inReset

/-! Cluster power (R350, R400). -/

/-- CLUSTER_POWER_GATING: a cluster of no enabled partition loses its cache (R350, R400). -/
def execClusterPowerGating (cl : Nat) (s : State) : Out :=
  let c := s.cluster cl
  if 10 ≤ cl ∨ !c.powered ∨ ((List.range 8).any fun p => (s.part p).hasCluster cl) ∨ c.wtb ≠ [] ∨ c.gte ≠ [] then
    .next s
  else
    .next ((s.modCluster cl fun c => { c with lines := [], powered := false }).dropFills cl fun _ => true)

/-- CLUSTER_POWER_RESTORE: it comes back with an empty cache, an idle engine and clear event latches (R350). -/
def execClusterPowerRestore (cl : Nat) (s : State) : Out :=
  if 10 ≤ cl ∨ (s.cluster cl).powered then .next s
  else
    let s := s.modCluster cl fun c => { c with lines := [], gte := [], powered := true }
    let clear (i : Nat) (c : Core) : Core :=
      if clusterOf i = cl then
        { c with signals := [], res := Tbl.mapKV c.res fun _ r => { r with latches := 0#64 } }
      else c
    .next { s with cores := s.cores.mapIdx clear }

/-! The root-of-trust core (R438-R440). -/

/-- BOOTSTAT as a word: READY [0], slot [1], slot A refused [2], the failing step [7:4], its reason [15:8], why slot A was refused
[23:16] (log 8). -/
def Rtc.bootstat (r : Rtc) : DWord :=
  BitVec.ofNat 64 ((if r.ready then 1 else 0) + 2 * (r.slot % 2) + (if r.refusedA then 4 else 0) +
    16 * (r.failStep % 16) + 256 * (r.failReason % 256) + 65536 * (r.reasonA % 256))

/-- A request's result (R438): its status, with the word that was there where it has none. -/
def Rtc.result (r : Rtc) (st : Byte) (w : DWord) : Rtc := { r with status := st, lastWord := w, answers := r.answers ++ [(st, w)] }

/-- A request's status (R438). -/
def Rtc.answer (r : Rtc) (st : Byte) : Rtc := r.result st r.lastWord

/-- A mailbox request performed (R438): what the table does not allow returns 0xFF and changes nothing. -/
def Rtc.perform (r : Rtc) (sender : Sender) : RtcReq → Rtc
  | .extend i data =>
    if 4 ≤ i ∧ i ≤ 7 then (r.extend i (bytesOfNat 64 data.toNat)).answer 0#8 else r.answer 0xFF#8
  | .report nonce => { r with running := some (nonce, r.mr) }
  | .bootstat => r.result 0#8 r.bootstat
  | .raise => match sender with
    | .management => { r.answer 0#8 with floors := (max r.floors.1 r.used.1, max r.floors.2 r.used.2) }
    | .host => r.answer 0xFF#8
  | .extendMr3 data => match sender with
    | .management => if r.ready then r.answer 0xFF#8 else (r.extend 3 (bytesOfNat 64 data.toNat)).answer 0#8
    | .host => r.answer 0xFF#8
  | .unknown => r.answer 0xFF#8

/-- A mailbox request arrives: it is performed, or waits behind the one that runs (R438). -/
def State.rtcRequest (s : State) (sender : Sender) (req : RtcReq) : State :=
  { s with rtc :=
      if s.rtc.running.isSome then { s.rtc with waiting := s.rtc.waiting ++ [(sender, req)] }
      else s.rtc.perform sender req }

/-- The requests that waited, performed in order up to the next report (R438). -/
def Rtc.drain (r : Rtc) : List (Sender × RtcReq) → Rtc
  | [] => { r with waiting := [] }
  | (sender, req) :: rest =>
    if r.running.isSome then { r with waiting := (sender, req) :: rest } else (r.perform sender req).drain rest

/-- The signed report (R440): its parts in the order R440 names them (DESIGN CHOICE, log 8), and the signature of the identity
key. -/
def Rtc.signedReport (r : Rtc) (nonce : BitVec 256) (mr : Vector Line 8) : List Byte :=
  let body := bytesOfNat 32 nonce.toNat ++ (mr.toList.flatMap fun v => bytesOfNat 64 v.toNat) ++ bytesOfNat 2 r.used.1 ++
    bytesOfNat 2 r.used.2 ++ bytesOfNat 2 r.usedCore ++ bytesOfNat 1 r.slot ++ bytesOfNat 64 r.fuses.ownerKey.toNat ++
    bytesOfNat 8 Config.serialNumber.toNat ++ bytesOfNat 8 r.bootstat.toNat
  body ++ Config.slhDsaSign (r.identity.getD (identityOf r.fuses)).1 body

/-- RTC_EXTEND: code 1 (R438). -/
def execRtcExtend (sender : Sender) (idx : BitVec 3) (data : Line) (s : State) : Out :=
  .next (s.rtcRequest sender (.extend idx.toNat data))

/-- RTC_ATTESTATION_REPORT: code 2 (R440). -/
def execRtcAttestationReport (sender : Sender) (nonce : BitVec 256) (s : State) : Out :=
  .next (s.rtcRequest sender (.report nonce))

/-- RTC_ATTESTATION_DONE (R440): the report is signed over the measurements as they stood when its request began; the
requests behind it go on. The address returned is a free value (log 8). -/
def execRtcAttestationDone (s : State) : Out :=
  match s.rtc.running with
  | none => .next s
  | some (nonce, mr) =>
    let r := s.rtc
    let r := { r.result 0#8 (BitVec.ofNat 64 s.draw) with running := none, reports := r.reports ++ [r.signedReport nonce mr] }
    .next (({ s with rtc := r.drain r.waiting } : State).drawn)

/-- RTC_READ_BOOTSTAT: code 3 (R438). -/
def execRtcReadBootstat (sender : Sender) (s : State) : Out := .next (s.rtcRequest sender .bootstat)

/-- RTC_RAISE_SVN: code 4 (R437, R438); it takes effect at the next reset. -/
def execRtcRaiseSvn (sender : Sender) (s : State) : Out := .next (s.rtcRequest sender .raise)

/-- RTC_EXTEND_MR3: code 5 (R438). -/
def execRtcExtendMr3 (sender : Sender) (data : Line) (s : State) : Out := .next (s.rtcRequest sender (.extendMr3 data))

/-- RTC_UNKNOWN_REQUEST: any other code (R438). -/
def execRtcUnknownRequest (sender : Sender) (_code : Nat) (s : State) : Out := .next (s.rtcRequest sender .unknown)

/-! Errors and snapshots (R284, R441-R443). -/

/-- PATROL_SCRUB: a word of G7 memory is read and its single-bit errors are corrected; one with an uncorrectable error is logged
and left as it is (R441). -/
def execPatrolScrub (pa : Nat) (s : State) : Out :=
  if g7End ≤ pa then .next s
  else if s.isBad (pa / 8 * 8) 8 then .next (s.logError 4 2 0 (pa / 8 * 8))
  else .next (s.corrects (pa / 8 * 8) 8)

/-- SNAPGO_WRITE (R443). -/
def execSnapgoWrite (v : DWord) (s : State) : Out := if v = 1#64 then .next (s.trigger 0) else .next s

/-- SNAPSTAT_WRITE (R443): 0 to HELD arms the trigger again. -/
def execSnapstatWrite (v : DWord) (s : State) : Out :=
  if v.getLsbD 0 then .next s else .next { s with watch := { s.watch with held := false } }

/-- DEBUG_SNAPSHOT_TRIGGER (R443). -/
def execDebugSnapshotTrigger (s : State) : Out := .next (s.trigger 3)

/-! Device registers (R385, R431, R448). -/

/-- A word of a queue's descriptor written (R385); one with a reserved bit set leaves it unchanged (R9; DESIGN CHOICE,
log 81). -/
def HostQ.put (h : HostQ) (word : Nat) (v : DWord) : HostQ :=
  if word = 0 then (if v &&& 0x00FFFFFFFFFFFFC0#64 = v then { h with ring := v } else h)
  else if v &&& 0x8000003FFFFFFFFF#64 = v then { h with cfg := v }
  else h

/-- A word of a partition's configuration replaced. -/
def Part.put (p : Part) (word : Nat) (v : DWord) : Line := putLine p.cfg (8 * word) 8 v.toNat

/-- A write into the DSC window by a host or a management hart (R385, R448): each register is written by the harts that the
table names; any other write changes nothing. -/
def dscWrite (management : Bool) (off : Nat) (v : DWord) (s : State) : Out :=
  if off % 8 ≠ 0 then .next s
  else if off < 0x400 then
    if management then .next (s.modQueue (off / 16) fun h => h.put (off / 8 % 2) v) else .next s
  else if off < 0x600 then execDoorbellWrite ((off - 0x400) / 8) (v.setWidth 32) s
  else if off = 0x800 then execFaultrespWrite v s
  else if off = 0x808 then .next (s.modDsc fun d => { d with shootAsid := v })
  else if off = 0x810 then .next (s.modDsc fun d => { d with shootVa := v })
  else if off = 0x818 then .next (s.modDsc fun d => { d with shootLen := v })
  else if off = 0x820 then execShootgoWrite v s
  else if 0x830 ≤ off ∧ off < 0x870 then execFaultheadWrite ((off - 0x830) / 8) (v.setWidth 32) s
  else if off = 0x870 then
    if management then .next (s.modDsc fun d => { d with asidtab := v &&& ~~~0x7FFFF#64 }) else .next s
  else if off = 0x878 then execIntstatClear v s
  else if 0x1000 ≤ off ∧ off < 0x1200 then
    let p := (off - 0x1000) / 64
    if management then execPcfgWrite p ((s.part p).put (off / 8 % 8) v) s else .next s
  else if off = 0x2008 ∧ management then execPairctlRetrain v s
  else .next s

/-- The error counters of a block cleared by a write of 0 (R441): the pairs of counters lie one after another (log 27). -/
def State.clearCounter (s : State) (off : Nat) (v : DWord) : State :=
  if v ≠ 0#64 then s
  else if off / 8 % 2 = 0 then { s with watch := { s.watch with corrected := Tbl.erase s.watch.corrected (off / 16) } }
  else { s with watch := { s.watch with refetched := Tbl.erase s.watch.refetched (off / 16) } }

/-- A write of the management space (R431): a host hart reaches only the DSC window and the RTC mailbox, whose requests are
events of their own. -/
def deviceWrite (management : Bool) (off : Nat) (v : DWord) (s : State) : Out :=
  if off < 0x10000 then dscWrite management off v s
  else if !management then .next s
  else if off = 0x20000 then execPlimitWrite v s
  else if off = 0x30000 then .next { s with watch := { s.watch with arm := v.setWidth 4 } }
  else if off = 0x30008 then execSnapgoWrite v s
  else if off = 0x30010 then execSnapstatWrite v s
  else if 0x40000 ≤ off ∧ off < 0x50000 then .next (s.clearCounter (off - 0x40000) v)
  else if 0x1000000 ≤ off ∧ off < 0x1000000 + 0x400000 * 80 then
    execManagementPoolWrite ((off - 0x1000000) / 0x400000) ((off - 0x1000000) % 0x400000) v s
  else .next s

/-- The words of a device register that only holds what is written to it, by their offset (R385, R443); the others act on a
write. -/
def State.heldWord (s : State) (off : Nat) : Option DWord :=
  if off < 0x400 then (s.dsc.queues[off / 16]?).map fun h => if off / 8 % 2 = 0 then h.ring else h.cfg
  else if off = 0x808 then some s.dsc.shootAsid
  else if off = 0x810 then some s.dsc.shootVa
  else if off = 0x818 then some s.dsc.shootLen
  else if off = 0x870 then some s.dsc.asidtab
  else if 0x1000 ≤ off ∧ off < 0x1200 then
    some (BitVec.ofNat 64 ((s.part ((off - 0x1000) / 64)).field ((off - 0x1000) % 64) 8))
  else if off = 0x30000 then some (s.watch.arm.setWidth 64)
  else if 0x1000000 ≤ off ∧ off < 0x1000000 + 0x400000 * 80 then some (BitVec.ofNat 64 (s.peek (0x8000000000 + off) 8))
  else none

/-- A 4-byte write (R431): the other half of a register that holds its value stays, and one that acts on a write acts where its low
half is written, its other half 0 (DESIGN CHOICE, log 83). -/
def halfWrite (management : Bool) (off : Nat) (v : Word) (s : State) : Out :=
  let base := off / 8 * 8
  match s.heldWord base with
  | some w => deviceWrite management base (if off % 8 = 4 then v ++ w.setWidth 32 else w.extractLsb' 32 32 ++ v) s
  | none => if off % 8 = 0 then deviceWrite management off (v.setWidth 64) s else .next s

/-- What a read of the DSC window gives (R378, R385, R448); a register that only acts, and an offset of none, read as 0
(DESIGN CHOICE, log 83). -/
def State.dscRead (s : State) (off : Nat) : DWord :=
  let t := s.station
  match s.heldWord off with
  | some w => w
  | none =>
    if 0x400 ≤ off ∧ off < 0x600 then ((s.dsc.queues[(off - 0x400) / 8]?).map HostQ.doorbell).getD 0#64
    else if off = 0x828 then s.dsc.shootStat
    else if 0x830 ≤ off ∧ off < 0x870 then (s.part ((off - 0x830) / 8)).faultHead
    else if off = 0x878 then s.dsc.intstat.setWidth 64
    else if off = 0x2000 then
      t.late ++ t.losses ++ ((0#13 : BitVec 13) ++ BitVec.ofBool t.card ++ BitVec.ofBool t.present ++ BitVec.ofBool t.up)
    else 0#64

/-- What an 8-byte read of the management space gives (R431-R433, R438, R441, R443); none where the spec gives no layout, and where
a host hart takes an access fault. -/
def State.deviceRead (s : State) (management : Bool) (off : Nat) : Option DWord :=
  let w := s.watch
  if off < 0x10000 then some (s.dscRead (off / 8 * 8))
  else if !management then none
  else if off = 0x20000 then some (s.power.plimit.setWidth 64)
  else if off = 0x20008 then some (BitVec.ofNat 64 s.power.throttle)
  else if off = 0x20010 then some (s.power.pwr.setWidth 64)
  else if off = 0x20018 then some (s.power.temp.setWidth 64)
  else if off = 0x30010 then
    some ((0#16 : BitVec 16) ++ w.lost ++ w.count ++ ((0#15 : BitVec 15) ++ BitVec.ofBool w.held))
  else if 0x40000 ≤ off ∧ off < 0x40800 then
    let t := if off / 8 % 2 = 0 then w.corrected else w.refetched
    some (BitVec.ofNat 64 ((Tbl.get? t ((off - 0x40000) / 16)).getD 0))
  else s.heldWord off

/-- REGISTER_WRITE: a CSR without a row of its own, or a device register (R192, R385, R431). -/
def execRegisterWrite (target : RegWrite) (s : State) : Out :=
  match target with
  | .csr op addr rd src => writeCsr op addr.toNat rd src s
  | .device management off value => deviceWrite management off value s
  | .half management off value => halfWrite management off value s

end Sys2Proof.Machine
end

