-- ==== Sys2Proof/Machine/Short.lean ====
section
/-!
DEFINITION. The 16-bit forms: each stands for its 32-bit instruction (R84, R116).
-/

namespace Sys2Proof.Machine

/-- MOV d, b in its 16-bit form (R84, R116). -/
def execMov16 (d : Reg) (b : BitVec 5) (s : State) : Out :=
  alu16 1 (fun m => m.op1 (fun x => x) d (reg16 b)) s

/-- ADD d, d, b in its 16-bit form (R84, R116). -/
def execAdd16 (d : Reg) (b : BitVec 5) (s : State) : Out :=
  alu16 1 (fun m => m.op2 (fun x y => x + y) d d (reg16 b)) s

/-- SUB d, d, b in its 16-bit form (R84, R116). -/
def execSub16 (d : Reg) (b : BitVec 5) (s : State) : Out :=
  alu16 1 (fun m => m.op2 (fun x y => x - y) d d (reg16 b)) s

/-- AND d, d, b in its 16-bit form (R84, R116). -/
def execAnd16 (d : Reg) (b : BitVec 5) (s : State) : Out :=
  alu16 1 (fun m => m.op2 (fun x y => x &&& y) d d (reg16 b)) s

/-- OR d, d, b in its 16-bit form (R84, R116). -/
def execOr16 (d : Reg) (b : BitVec 5) (s : State) : Out :=
  alu16 1 (fun m => m.op2 (fun x y => x ||| y) d d (reg16 b)) s

/-- XOR d, d, b in its 16-bit form (R84, R116). -/
def execXor16 (d : Reg) (b : BitVec 5) (s : State) : Out :=
  alu16 1 (fun m => m.op2 (fun x y => x ^^^ y) d d (reg16 b)) s

/-- SLL d, d, b in its 16-bit form (R84, R116). -/
def execSll16 (d : Reg) (b : BitVec 5) (s : State) : Out :=
  alu16 1 (fun m => m.op2 (fun x y => x <<< shamt y) d d (reg16 b)) s

/-- SRL d, d, b in its 16-bit form (R84, R116). -/
def execSrl16 (d : Reg) (b : BitVec 5) (s : State) : Out :=
  alu16 1 (fun m => m.op2 (fun x y => x >>> shamt y) d d (reg16 b)) s

/-- SRA d, d, b in its 16-bit form (R84, R116). -/
def execSra16 (d : Reg) (b : BitVec 5) (s : State) : Out :=
  alu16 1 (fun m => m.op2 (fun x y => x.sshiftRight (shamt y)) d d (reg16 b)) s

/-- ADDI d, d, imm5 in its 16-bit form (R84, R116). -/
def execAddi16 (d : Reg) (imm : BitVec 5) (s : State) : Out :=
  alu16 1 (fun m => m.op1 (fun x => x + imm.signExtend 32) d d) s

/-- MUL d, d, b in its 16-bit form (R84, R116). -/
def execMul16 (d : Reg) (b : BitVec 5) (s : State) : Out :=
  alu16 1 (fun m => m.op2 (fun x y => x * y) d d (reg16 b)) s

/-- FADD d, d, b in its 16-bit form (R84, R116). -/
def execFadd16 (d : Reg) (b : BitVec 5) (s : State) : Out :=
  alu16 2 (fun m => m.fop2 (fun x y => fpAdd fp32 m.rm x.toNat y.toNat) d d (reg16 b)) s

/-- FSUB d, d, b in its 16-bit form (R84, R116). -/
def execFsub16 (d : Reg) (b : BitVec 5) (s : State) : Out :=
  alu16 2 (fun m => m.fop2 (fun x y => fpSub fp32 m.rm x.toNat y.toNat) d d (reg16 b)) s

/-- FMUL d, d, b in its 16-bit form (R84, R116). -/
def execFmul16 (d : Reg) (b : BitVec 5) (s : State) : Out :=
  alu16 2 (fun m => m.fop2 (fun x y => fpMul fp32 m.rm x.toNat y.toNat) d d (reg16 b)) s

/-- FMIN d, d, b in its 16-bit form (R84, R116). -/
def execFmin16 (d : Reg) (b : BitVec 5) (s : State) : Out :=
  alu16 2 (fun m => m.fop2 (fun x y => fpMinMax fp32 false x.toNat y.toNat) d d (reg16 b)) s

/-- FMAX d, d, b in its 16-bit form (R84, R116). -/
def execFmax16 (d : Reg) (b : BitVec 5) (s : State) : Out :=
  alu16 2 (fun m => m.fop2 (fun x y => fpMinMax fp32 true x.toNat y.toNat) d d (reg16 b)) s

end Sys2Proof.Machine
end

