-- ==== Sys2Proof/Machine/Dispatch.lean ====
section
/-! DEFINITION. The one match over the instructions and events: each arm one call of its meaning. -/

namespace Sys2Proof.Machine

/-- What an instruction or event does (R85, R86, R84, R194, R307, and the chapters of the events). -/
def exec (i : Instr) (s : State) : Host.Outcome State Fault Refusal :=
  match i with
  | .add d a b => Sys2Proof.Machine.execAdd d a b s
  | .sub d a b => Sys2Proof.Machine.execSub d a b s
  | .and d a b => Sys2Proof.Machine.execAnd d a b s
  | .or d a b => Sys2Proof.Machine.execOr d a b s
  | .xor d a b => Sys2Proof.Machine.execXor d a b s
  | .andn d a b => Sys2Proof.Machine.execAndn d a b s
  | .sll d a b => Sys2Proof.Machine.execSll d a b s
  | .srl d a b => Sys2Proof.Machine.execSrl d a b s
  | .sra d a b => Sys2Proof.Machine.execSra d a b s
  | .rol d a b => Sys2Proof.Machine.execRol d a b s
  | .min d a b => Sys2Proof.Machine.execMin d a b s
  | .max d a b => Sys2Proof.Machine.execMax d a b s
  | .minu d a b => Sys2Proof.Machine.execMinu d a b s
  | .maxu d a b => Sys2Proof.Machine.execMaxu d a b s
  | .mul d a b => Sys2Proof.Machine.execMul d a b s
  | .mulh d a b => Sys2Proof.Machine.execMulh d a b s
  | .mulhu d a b => Sys2Proof.Machine.execMulhu d a b s
  | .adds d a b => Sys2Proof.Machine.execAdds d a b s
  | .subs d a b => Sys2Proof.Machine.execSubs d a b s
  | .clz d a => Sys2Proof.Machine.execClz d a s
  | .ctz d a => Sys2Proof.Machine.execCtz d a s
  | .popc d a => Sys2Proof.Machine.execPopc d a s
  | .brev d a => Sys2Proof.Machine.execBrev d a s
  | .addD d a b => Sys2Proof.Machine.execAddD d a b s
  | .subD d a b => Sys2Proof.Machine.execSubD d a b s
  | .mulWD d a b => Sys2Proof.Machine.execMulWD d a b s
  | .muluWD d a b => Sys2Proof.Machine.execMuluWD d a b s
  | .addi d a imm => Sys2Proof.Machine.execAddi d a imm s
  | .andi d a imm => Sys2Proof.Machine.execAndi d a imm s
  | .ori d a imm => Sys2Proof.Machine.execOri d a imm s
  | .xori d a imm => Sys2Proof.Machine.execXori d a imm s
  | .muli d a imm => Sys2Proof.Machine.execMuli d a imm s
  | .slli d a sh => Sys2Proof.Machine.execSlli d a sh s
  | .srli d a sh => Sys2Proof.Machine.execSrli d a sh s
  | .srai d a sh => Sys2Proof.Machine.execSrai d a sh s
  | .roli d a sh => Sys2Proof.Machine.execRoli d a sh s
  | .lui d imm => Sys2Proof.Machine.execLui d imm s
  | .cmpI32 p a b cond => Sys2Proof.Machine.execCmpI32 p a b cond s
  | .cmpF32 p a b cond => Sys2Proof.Machine.execCmpF32 p a b cond s
  | .cmpF64 p a b cond => Sys2Proof.Machine.execCmpF64 p a b cond s
  | .cmpI64 p a b cond => Sys2Proof.Machine.execCmpI64 p a b cond s
  | .cmpi p cond a imm => Sys2Proof.Machine.execCmpi p cond a imm s
  | .sel d a b p => Sys2Proof.Machine.execSel d a b p s
  | .movs d idx => Sys2Proof.Machine.execMovs d idx s
  | .pand d a b => Sys2Proof.Machine.execPand d a b s
  | .por d a b => Sys2Proof.Machine.execPor d a b s
  | .pxor d a b => Sys2Proof.Machine.execPxor d a b s
  | .pnot d a => Sys2Proof.Machine.execPnot d a s
  | .p2g d => Sys2Proof.Machine.execP2g d s
  | .g2p a b => Sys2Proof.Machine.execG2p a b s
  | .fadd d a b => Sys2Proof.Machine.execFadd d a b s
  | .fsub d a b => Sys2Proof.Machine.execFsub d a b s
  | .fmul d a b => Sys2Proof.Machine.execFmul d a b s
  | .fmin d a b => Sys2Proof.Machine.execFmin d a b s
  | .fmax d a b => Sys2Proof.Machine.execFmax d a b s
  | .fabs d a => Sys2Proof.Machine.execFabs d a s
  | .fneg d a => Sys2Proof.Machine.execFneg d a s
  | .fsgn d a b => Sys2Proof.Machine.execFsgn d a b s
  | .fcls d a => Sys2Proof.Machine.execFcls d a s
  | .fflr d a => Sys2Proof.Machine.execFflr d a s
  | .fceil d a => Sys2Proof.Machine.execFceil d a s
  | .frndn d a => Sys2Proof.Machine.execFrndn d a s
  | .dadd d a b => Sys2Proof.Machine.execDadd d a b s
  | .dsub d a b => Sys2Proof.Machine.execDsub d a b s
  | .dmul d a b => Sys2Proof.Machine.execDmul d a b s
  | .dmin d a b => Sys2Proof.Machine.execDmin d a b s
  | .dmax d a b => Sys2Proof.Machine.execDmax d a b s
  | .dabs d a => Sys2Proof.Machine.execDabs d a s
  | .dneg d a => Sys2Proof.Machine.execDneg d a s
  | .dsgn d a b => Sys2Proof.Machine.execDsgn d a b s
  | .dcls d a => Sys2Proof.Machine.execDcls d a s
  | .dflr d a => Sys2Proof.Machine.execDflr d a s
  | .dceil d a => Sys2Proof.Machine.execDceil d a s
  | .drndn d a => Sys2Proof.Machine.execDrndn d a s
  | .add2 d a b => Sys2Proof.Machine.execAdd2 d a b s
  | .sub2 d a b => Sys2Proof.Machine.execSub2 d a b s
  | .mul2 d a b => Sys2Proof.Machine.execMul2 d a b s
  | .min2 d a b => Sys2Proof.Machine.execMin2 d a b s
  | .max2 d a b => Sys2Proof.Machine.execMax2 d a b s
  | .add2Bf d a b => Sys2Proof.Machine.execAdd2Bf d a b s
  | .sub2Bf d a b => Sys2Proof.Machine.execSub2Bf d a b s
  | .mul2Bf d a b => Sys2Proof.Machine.execMul2Bf d a b s
  | .min2Bf d a b => Sys2Proof.Machine.execMin2Bf d a b s
  | .max2Bf d a b => Sys2Proof.Machine.execMax2Bf d a b s
  | .ffma d a b c => Sys2Proof.Machine.execFfma d a b c s
  | .ffms d a b c => Sys2Proof.Machine.execFfms d a b c s
  | .dfma d a b c => Sys2Proof.Machine.execDfma d a b c s
  | .dfms d a b c => Sys2Proof.Machine.execDfms d a b c s
  | .hfma d a b c => Sys2Proof.Machine.execHfma d a b c s
  | .hfmaBf d a b c => Sys2Proof.Machine.execHfmaBf d a b c s
  | .f2i d a rm => Sys2Proof.Machine.execF2i d a rm s
  | .f2u d a rm => Sys2Proof.Machine.execF2u d a rm s
  | .i2f d a rm => Sys2Proof.Machine.execI2f d a rm s
  | .u2f d a rm => Sys2Proof.Machine.execU2f d a rm s
  | .d2f d a rm => Sys2Proof.Machine.execD2f d a rm s
  | .f2d d a rm => Sys2Proof.Machine.execF2d d a rm s
  | .d2i d a rm => Sys2Proof.Machine.execD2i d a rm s
  | .i2d d a rm => Sys2Proof.Machine.execI2d d a rm s
  | .f2h d a rm => Sys2Proof.Machine.execF2h d a rm s
  | .h2f d a rm => Sys2Proof.Machine.execH2f d a rm s
  | .f2bf d a rm => Sys2Proof.Machine.execF2bf d a rm s
  | .bf2f d a rm => Sys2Proof.Machine.execBf2f d a rm s
  | .d2l d a rm => Sys2Proof.Machine.execD2l d a rm s
  | .l2d d a rm => Sys2Proof.Machine.execL2d d a rm s
  | .f2h2 d a rm => Sys2Proof.Machine.execF2h2 d a rm s
  | .rcp d a => Sys2Proof.Machine.execRcp d a s
  | .rsq d a => Sys2Proof.Machine.execRsq d a s
  | .log2 d a => Sys2Proof.Machine.execLog2 d a s
  | .exp2 d a => Sys2Proof.Machine.execExp2 d a s
  | .sinr d a => Sys2Proof.Machine.execSinr d a s
  | .cosr d a => Sys2Proof.Machine.execCosr d a s
  | .drcp d a => Sys2Proof.Machine.execDrcp d a s
  | .drsq d a => Sys2Proof.Machine.execDrsq d a s
  | .pke4 d a b => Sys2Proof.Machine.execPke4 d a b s
  | .pke5 d a b => Sys2Proof.Machine.execPke5 d a b s
  | .upe4 d a => Sys2Proof.Machine.execUpe4 d a s
  | .upe5 d a => Sys2Proof.Machine.execUpe5 d a s
  | .pkb4 d a b => Sys2Proof.Machine.execPkb4 d a b s
  | .upb4 d a => Sys2Proof.Machine.execUpb4 d a s
  | .bfe d a b => Sys2Proof.Machine.execBfe d a b s
  | .bfi d a b c => Sys2Proof.Machine.execBfi d a b c s
  | .shfl d a b => Sys2Proof.Machine.execShfl d a b s
  | .rotl d a b => Sys2Proof.Machine.execRotl d a b s
  | .bfly d a b => Sys2Proof.Machine.execBfly d a b s
  | .bcast d a b => Sys2Proof.Machine.execBcast d a b s
  | .voteall d a => Sys2Proof.Machine.execVoteall d a s
  | .voteany d a => Sys2Proof.Machine.execVoteany d a s
  | .ballot d a => Sys2Proof.Machine.execBallot d a s
  | .linkr d a num => Sys2Proof.Machine.execLinkr d a num s
  | .linkw d a num => Sys2Proof.Machine.execLinkw d a num s
  | .radd d a => Sys2Proof.Machine.execRadd d a s
  | .rmin d a => Sys2Proof.Machine.execRmin d a s
  | .rmax d a => Sys2Proof.Machine.execRmax d a s
  | .rminu d a => Sys2Proof.Machine.execRminu d a s
  | .rmaxu d a => Sys2Proof.Machine.execRmaxu d a s
  | .rand d a => Sys2Proof.Machine.execRand d a s
  | .ror d a => Sys2Proof.Machine.execRor d a s
  | .rxor d a => Sys2Proof.Machine.execRxor d a s
  | .rfadd d a => Sys2Proof.Machine.execRfadd d a s
  | .rfmin d a => Sys2Proof.Machine.execRfmin d a s
  | .rfmax d a => Sys2Proof.Machine.execRfmax d a s
  | .sadd d a => Sys2Proof.Machine.execSadd d a s
  | .saddx d a => Sys2Proof.Machine.execSaddx d a s
  | .sfadd d a => Sys2Proof.Machine.execSfadd d a s
  | .rdadd d a => Sys2Proof.Machine.execRdadd d a s
  | .xclr => Sys2Proof.Machine.execXclr s
  | .xadd a => Sys2Proof.Machine.execXadd a s
  | .xmad a b => Sys2Proof.Machine.execXmad a b s
  | .xrnd d => Sys2Proof.Machine.execXrnd d s
  | .xrndd d => Sys2Proof.Machine.execXrndd d s
  | .icount d a => Sys2Proof.Machine.execIcount d a s
  | .iwrite d a b => Sys2Proof.Machine.execIwrite d a b s
  | .uwrite d a b => Sys2Proof.Machine.execUwrite d a b s
  | .mwrite d a b => Sys2Proof.Machine.execMwrite d a b s
  | .ld d base size kind off => Sys2Proof.Machine.execLd d base size kind off s
  | .st d base size kind off => Sys2Proof.Machine.execSt d base size kind off s
  | .aaddW d a b => Sys2Proof.Machine.execAaddW d a b s
  | .aandW d a b => Sys2Proof.Machine.execAandW d a b s
  | .aorW d a b => Sys2Proof.Machine.execAorW d a b s
  | .axorW d a b => Sys2Proof.Machine.execAxorW d a b s
  | .aminW d a b => Sys2Proof.Machine.execAminW d a b s
  | .amaxW d a b => Sys2Proof.Machine.execAmaxW d a b s
  | .aminuW d a b => Sys2Proof.Machine.execAminuW d a b s
  | .amaxuW d a b => Sys2Proof.Machine.execAmaxuW d a b s
  | .aswapW d a b => Sys2Proof.Machine.execAswapW d a b s
  | .acasW d a b => Sys2Proof.Machine.execAcasW d a b s
  | .afaddW d a b => Sys2Proof.Machine.execAfaddW d a b s
  | .aaddD d a b => Sys2Proof.Machine.execAaddD d a b s
  | .aswapD d a b => Sys2Proof.Machine.execAswapD d a b s
  | .acasD d a b => Sys2Proof.Machine.execAcasD d a b s
  | .afaddD d a b => Sys2Proof.Machine.execAfaddD d a b s
  | .fenceFull scope => Sys2Proof.Machine.execFenceFull scope s
  | .fenceAcq scope => Sys2Proof.Machine.execFenceAcq scope s
  | .fenceRel scope => Sys2Proof.Machine.execFenceRel scope s
  | .fenceRsc scope => Sys2Proof.Machine.execFenceRsc scope s
  | .cpost d a b => Sys2Proof.Machine.execCpost d a b s
  | .ccancel a => Sys2Proof.Machine.execCcancel a s
  | .gpost d a => Sys2Proof.Machine.execGpost d a s
  | .gstat d a => Sys2Proof.Machine.execGstat d a s
  | .qinit d a b => Sys2Proof.Machine.execQinit d a b s
  | .qpush a b => Sys2Proof.Machine.execQpush a b s
  | .qpop d a => Sys2Proof.Machine.execQpop d a s
  | .qpushn d a b => Sys2Proof.Machine.execQpushn d a b s
  | .qpopn d a => Sys2Proof.Machine.execQpopn d a s
  | .qcount d a => Sys2Proof.Machine.execQcount d a s
  | .spawn d a b => Sys2Proof.Machine.execSpawn d a b s
  | .quit => Sys2Proof.Machine.execQuit s
  | .sendw a b => Sys2Proof.Machine.execSendw a b s
  | .recvw d => Sys2Proof.Machine.execRecvw d s
  | .sign cv a => Sys2Proof.Machine.execSign cv a s
  | .cvwait cv => Sys2Proof.Machine.execCvwait cv s
  | .lvarr lvl => Sys2Proof.Machine.execLvarr lvl s
  | .lvwait lvl => Sys2Proof.Machine.execLvwait lvl s
  | .lvsync lvl => Sys2Proof.Machine.execLvsync lvl s
  | .qjoin a => Sys2Proof.Machine.execQjoin a s
  | .csig ch a => Sys2Proof.Machine.execCsig ch a s
  | .waitev a => Sys2Proof.Machine.execWaitev a s
  | .yield => Sys2Proof.Machine.execYield s
  | .mma cv a b sparse m32 ow => Sys2Proof.Machine.execMma cv a b sparse m32 ow s
  | .accz tile => Sys2Proof.Machine.execAccz tile s
  | .accld tile a => Sys2Proof.Machine.execAccld tile a s
  | .accst tile a b => Sys2Proof.Machine.execAccst tile a b s
  | .wbld d a b => Sys2Proof.Machine.execWbld d a b s
  | .skset sk a b => Sys2Proof.Machine.execSkset sk a b s
  | .tpost d a => Sys2Proof.Machine.execTpost d a s
  | .hpop d a => Sys2Proof.Machine.execHpop d a s
  | .hcount d a => Sys2Proof.Machine.execHcount d a s
  | .tcfg a b => Sys2Proof.Machine.execTcfg a b s
  | .tcancel a => Sys2Proof.Machine.execTcancel a s
  | .mint d a => Sys2Proof.Machine.execMint d a s
  | .nop => Sys2Proof.Machine.execNop s
  | .trap a => Sys2Proof.Machine.execTrap a s
  | .ebrk => Sys2Proof.Machine.execEbrk s
  | .fstat d a => Sys2Proof.Machine.execFstat d a s
  | .setrm d a => Sys2Proof.Machine.execSetrm d a s
  | .next aw => Sys2Proof.Machine.execNext aw s
  | .br p sense aw off => Sys2Proof.Machine.execBr p sense aw off s
  | .jmp aw off => Sys2Proof.Machine.execJmp aw off s
  | .call p sense aw off => Sys2Proof.Machine.execCall p sense aw off s
  | .ret p sense aw => Sys2Proof.Machine.execRet p sense aw s
  | .run p sense aw off => Sys2Proof.Machine.execRun p sense aw off s
  | .stop p sense aw => Sys2Proof.Machine.execStop p sense aw s
  | .farOffset aw sense p off => Sys2Proof.Machine.execFarOffset aw sense p off s
  | .farRegister aw sense p r => Sys2Proof.Machine.execFarRegister aw sense p r s
  | .mov16 d b => Sys2Proof.Machine.execMov16 d b s
  | .add16 d b => Sys2Proof.Machine.execAdd16 d b s
  | .sub16 d b => Sys2Proof.Machine.execSub16 d b s
  | .and16 d b => Sys2Proof.Machine.execAnd16 d b s
  | .or16 d b => Sys2Proof.Machine.execOr16 d b s
  | .xor16 d b => Sys2Proof.Machine.execXor16 d b s
  | .sll16 d b => Sys2Proof.Machine.execSll16 d b s
  | .srl16 d b => Sys2Proof.Machine.execSrl16 d b s
  | .sra16 d b => Sys2Proof.Machine.execSra16 d b s
  | .addi16 d imm => Sys2Proof.Machine.execAddi16 d imm s
  | .mul16 d b => Sys2Proof.Machine.execMul16 d b s
  | .fadd16 d b => Sys2Proof.Machine.execFadd16 d b s
  | .fsub16 d b => Sys2Proof.Machine.execFsub16 d b s
  | .fmul16 d b => Sys2Proof.Machine.execFmul16 d b s
  | .fmin16 d b => Sys2Proof.Machine.execFmin16 d b s
  | .fmax16 d b => Sys2Proof.Machine.execFmax16 d b s
  | .nfetch a kind => Sys2Proof.Machine.execNfetch a kind s
  | .ndec ent => Sys2Proof.Machine.execNdec ent s
  | .box8 d => Sys2Proof.Machine.execBox8 d s
  | .tri d a => Sys2Proof.Machine.execTri d a s
  | .split d a b => Sys2Proof.Machine.execSplit d a b s
  | .kcmp d a b => Sys2Proof.Machine.execKcmp d a b s
  | .dist d a b => Sys2Proof.Machine.execDist d a b s
  | .child d a => Sys2Proof.Machine.execChild d a s
  | .push a b => Sys2Proof.Machine.execPush a b s
  | .pop d b => Sys2Proof.Machine.execPop d b s
  | .kbest d a b => Sys2Proof.Machine.execKbest d a b s
  | .emit a b imm => Sys2Proof.Machine.execEmit a b imm s
  | .handoff a => Sys2Proof.Machine.execHandoff a s
  | .walkEnd => Sys2Proof.Machine.execWalkEnd s
  | .movi d imm => Sys2Proof.Machine.execMovi d imm s
  | .walkMov d a => Sys2Proof.Machine.execWalkMov d a s
  | .walkAdd d a b => Sys2Proof.Machine.execWalkAdd d a b s
  | .walkSub d a b => Sys2Proof.Machine.execWalkSub d a b s
  | .walkFadd d a b => Sys2Proof.Machine.execWalkFadd d a b s
  | .walkFmul d a b => Sys2Proof.Machine.execWalkFmul d a b s
  | .walkFmin d a b => Sys2Proof.Machine.execWalkFmin d a b s
  | .walkFmax d a b => Sys2Proof.Machine.execWalkFmax d a b s
  | .walkCmpI32 d a b cond => Sys2Proof.Machine.execWalkCmpI32 d a b cond s
  | .walkCmpF32 d a b cond => Sys2Proof.Machine.execWalkCmpF32 d a b cond s
  | .walkBr a imm => Sys2Proof.Machine.execWalkBr a imm s
  | .walkJmp imm => Sys2Proof.Machine.execWalkJmp imm s
  | .figCall rd rs1 rs2 => Sys2Proof.Machine.execFigCall rd rs1 rs2 s
  | .figWait rd => Sys2Proof.Machine.execFigWait rd s
  | .figSync rd rs1 => Sys2Proof.Machine.execFigSync rd rs1 s
  | .figSetw rd rs1 => Sys2Proof.Machine.execFigSetw rd rs1 s
  | .figAlloc rd rs1 rs2 => Sys2Proof.Machine.execFigAlloc rd rs1 rs2 s
  | .figRdreg rd rs1 => Sys2Proof.Machine.execFigRdreg rd rs1 s
  | .figWrreg rd rs1 rs2 => Sys2Proof.Machine.execFigWrreg rd rs1 rs2 s
  | .figResume rd rs1 rs2 => Sys2Proof.Machine.execFigResume rd rs1 rs2 s
  | .figMbox rd rs1 => Sys2Proof.Machine.execFigMbox rd rs1 s
  | .figEvent rd => Sys2Proof.Machine.execFigEvent rd s
  | .figLaunch rd rs1 => Sys2Proof.Machine.execFigLaunch rd rs1 s
  | .figInbox rd rs1 rs2 => Sys2Proof.Machine.execFigInbox rd rs1 rs2 s
  | .figReplay rd rs1 rs2 => Sys2Proof.Machine.execFigReplay rd rs1 rs2 s
  | .xfigStallComplete core launch => Sys2Proof.Machine.execXfigStallComplete core launch s
  | .callerLoad c width rd rs1 imm => Sys2Proof.Machine.execCallerLoad c width rd rs1 imm s
  | .callerStore c width rs1 rs2 imm => Sys2Proof.Machine.execCallerStore c width rs1 rs2 imm s
  | .callerAmo op dbl aq rl rd rs1 rs2 => Sys2Proof.Machine.execCallerAmo op dbl aq rl rd rs1 rs2 s
  | .callerLr dbl aq rl rd rs1 => Sys2Proof.Machine.execCallerLr dbl aq rl rd rs1 s
  | .callerSc dbl aq rl rd rs1 rs2 => Sys2Proof.Machine.execCallerSc dbl aq rl rd rs1 rs2 s
  | .callerFence => Sys2Proof.Machine.execCallerFence s
  | .callerFenceI => Sys2Proof.Machine.execCallerFenceI s
  | .handlerReturn => Sys2Proof.Machine.execHandlerReturn s
  | .callerEnd => Sys2Proof.Machine.execCallerEnd s
  | .xfgEventsWrite op rd src => Sys2Proof.Machine.execXfgEventsWrite op rd src s
  | .xfgFhandlerWrite op rd src => Sys2Proof.Machine.execXfgFhandlerWrite op rd src s
  | .xfgFsupWrite op rd src => Sys2Proof.Machine.execXfgFsupWrite op rd src s
  | .registerWrite target => Sys2Proof.Machine.execRegisterWrite target s
  | .eventInterrupt core launch => Sys2Proof.Machine.execEventInterrupt core launch s
  | .callerException core launch => Sys2Proof.Machine.execCallerException core launch s
  | .corePark core => Sys2Proof.Machine.execCorePark core s
  | .coreReset core => Sys2Proof.Machine.execCoreReset core s
  | .rotationSlotFill core port rot => Sys2Proof.Machine.execRotationSlotFill core port rot s
  | .codeFetchArrival core port rot => Sys2Proof.Machine.execCodeFetchArrival core port rot s
  | .microthreadInitComplete core slot => Sys2Proof.Machine.execMicrothreadInitComplete core slot s
  | .longLatencyResult flight response => Sys2Proof.Machine.execLongLatencyResult flight response s
  | .deferredFault core slot => Sys2Proof.Machine.execDeferredFault core slot s
  | .faultMessagePost core slot => Sys2Proof.Machine.execFaultMessagePost core slot s
  | .quitRetire core slot => Sys2Proof.Machine.execQuitRetire core slot s
  | .budgetRefill core => Sys2Proof.Machine.execBudgetRefill core s
  | .storeFifoExit core => Sys2Proof.Machine.execStoreFifoExit core s
  | .storeAck flight => Sys2Proof.Machine.execStoreAck flight s
  | .owningPortLoad flight => Sys2Proof.Machine.execOwningPortLoad flight s
  | .owningPortStore flight => Sys2Proof.Machine.execOwningPortStore flight s
  | .owningPortAtomic flight => Sys2Proof.Machine.execOwningPortAtomic flight s
  | .tluTranslation flight => Sys2Proof.Machine.execTluTranslation flight s
  | .faultRecordArrival tlu => Sys2Proof.Machine.execFaultRecordArrival tlu s
  | .homeRead flight => Sys2Proof.Machine.execHomeRead flight s
  | .homeStore src => Sys2Proof.Machine.execHomeStore src s
  | .homeAtomic flight => Sys2Proof.Machine.execHomeAtomic flight s
  | .cacheFillArrival flight => Sys2Proof.Machine.execCacheFillArrival flight s
  | .writeThroughAck flight => Sys2Proof.Machine.execWriteThroughAck flight s
  | .wakeMessage core asid page => Sys2Proof.Machine.execWakeMessage core asid page s
  | .mmaPerform core => Sys2Proof.Machine.execMmaPerform core s
  | .acczPerform core => Sys2Proof.Machine.execAcczPerform core s
  | .accldPerform core => Sys2Proof.Machine.execAccldPerform core s
  | .accstPerform core => Sys2Proof.Machine.execAccstPerform core s
  | .wbldPerform core => Sys2Proof.Machine.execWbldPerform core s
  | .sksetPerform core => Sys2Proof.Machine.execSksetPerform core s
  | .joinPass core join => Sys2Proof.Machine.execJoinPass core join s
  | .copyStart core ch => Sys2Proof.Machine.execCopyStart core ch s
  | .copyElement core ch subtract => Sys2Proof.Machine.execCopyElement core ch subtract s
  | .copyEnd core ch => Sys2Proof.Machine.execCopyEnd core ch s
  | .signalEntryPerform core ch => Sys2Proof.Machine.execSignalEntryPerform core ch s
  | .spawnArrival core src => Sys2Proof.Machine.execSpawnArrival core src s
  | .wordArrival core src => Sys2Proof.Machine.execWordArrival core src s
  | .bounceArrival core src => Sys2Proof.Machine.execBounceArrival core src s
  | .eventSignal core => Sys2Proof.Machine.execEventSignal core s
  | .levelArrival core => Sys2Proof.Machine.execLevelArrival core s
  | .levelSummons core => Sys2Proof.Machine.execLevelSummons core s
  | .levelCompletion core => Sys2Proof.Machine.execLevelCompletion core s
  | .queryAdmission core => Sys2Proof.Machine.execQueryAdmission core s
  | .tcfgPerform core => Sys2Proof.Machine.execTcfgPerform core s
  | .nodeFetchArrival core entry => Sys2Proof.Machine.execNodeFetchArrival core entry s
  | .hitAppend core entry => Sys2Proof.Machine.execHitAppend core entry s
  | .queryDone core entry => Sys2Proof.Machine.execQueryDone core entry s
  | .gteRequestStart core => Sys2Proof.Machine.execGteRequestStart core s
  | .gteProbe core => Sys2Proof.Machine.execGteProbe core s
  | .gteGather core => Sys2Proof.Machine.execGteGather core s
  | .gteScatter core => Sys2Proof.Machine.execGteScatter core s
  | .gteSadd core => Sys2Proof.Machine.execGteSadd core s
  | .gteSfadd core => Sys2Proof.Machine.execGteSfadd core s
  | .gteSmin core => Sys2Proof.Machine.execGteSmin core s
  | .gteSmax core => Sys2Proof.Machine.execGteSmax core s
  | .gteNinv core => Sys2Proof.Machine.execGteNinv core s
  | .gteRequestEnd core => Sys2Proof.Machine.execGteRequestEnd core s
  | .preemptionRequest core launch => Sys2Proof.Machine.execPreemptionRequest core launch s
  | .contextSave core launch => Sys2Proof.Machine.execContextSave core launch s
  | .contextResume core launch => Sys2Proof.Machine.execContextResume core launch s
  | .doorbellWrite q tail => Sys2Proof.Machine.execDoorbellWrite q tail s
  | .hostQueueTake => Sys2Proof.Machine.execHostQueueTake s
  | .dispatchPlacement p => Sys2Proof.Machine.execDispatchPlacement p s
  | .preemptionDecision p => Sys2Proof.Machine.execPreemptionDecision p s
  | .resumeDecision p => Sys2Proof.Machine.execResumeDecision p s
  | .forcedResume p => Sys2Proof.Machine.execForcedResume p s
  | .terminationSweep launch => Sys2Proof.Machine.execTerminationSweep launch s
  | .watchdogWindow p => Sys2Proof.Machine.execWatchdogWindow p s
  | .managementAbort launch => Sys2Proof.Machine.execManagementAbort launch s
  | .faultrespWrite v => Sys2Proof.Machine.execFaultrespWrite v s
  | .faultheadWrite p v => Sys2Proof.Machine.execFaultheadWrite p v s
  | .shootgoWrite v => Sys2Proof.Machine.execShootgoWrite v s
  | .shootdownDone => Sys2Proof.Machine.execShootdownDone s
  | .intstatClear v => Sys2Proof.Machine.execIntstatClear v s
  | .pcfgWrite p v => Sys2Proof.Machine.execPcfgWrite p v s
  | .managementPoolRead core off => Sys2Proof.Machine.execManagementPoolRead core off s
  | .managementPoolWrite core off data => Sys2Proof.Machine.execManagementPoolWrite core off data s
  | .moduleReset boot => Sys2Proof.Machine.execModuleReset boot s
  | .plimitWrite v => Sys2Proof.Machine.execPlimitWrite v s
  | .powerWindow pwr => Sys2Proof.Machine.execPowerWindow pwr s
  | .thermalStop temp => Sys2Proof.Machine.execThermalStop temp s
  | .thermalTrip temp => Sys2Proof.Machine.execThermalTrip temp s
  | .patrolScrub pa => Sys2Proof.Machine.execPatrolScrub pa s
  | .rtcExtend sender idx data => Sys2Proof.Machine.execRtcExtend sender idx data s
  | .rtcAttestationReport sender nonce => Sys2Proof.Machine.execRtcAttestationReport sender nonce s
  | .rtcAttestationDone => Sys2Proof.Machine.execRtcAttestationDone s
  | .rtcReadBootstat sender => Sys2Proof.Machine.execRtcReadBootstat sender s
  | .rtcRaiseSvn sender => Sys2Proof.Machine.execRtcRaiseSvn sender s
  | .rtcExtendMr3 sender data => Sys2Proof.Machine.execRtcExtendMr3 sender data s
  | .snapgoWrite v => Sys2Proof.Machine.execSnapgoWrite v s
  | .snapstatWrite v => Sys2Proof.Machine.execSnapstatWrite v s
  | .debugSnapshotTrigger => Sys2Proof.Machine.execDebugSnapshotTrigger s
  | .linkTraining own twin => Sys2Proof.Machine.execLinkTraining own twin s
  | .pairctlRetrain v => Sys2Proof.Machine.execPairctlRetrain v s
  | .linkDown => Sys2Proof.Machine.execLinkDown s
  | .linkResponseTimeout => Sys2Proof.Machine.execLinkResponseTimeout s
  | .twinRequestArrival req => Sys2Proof.Machine.execTwinRequestArrival req s
  | .hqArrival msg => Sys2Proof.Machine.execHqArrival msg s
  | .subqueryAdmission => Sys2Proof.Machine.execSubqueryAdmission s
  | .hackArrival tag h => Sys2Proof.Machine.execHackArrival tag h s
  | .hitArrival tag h seq rec => Sys2Proof.Machine.execHitArrival tag h seq rec s
  | .hendArrival msg => Sys2Proof.Machine.execHendArrival msg s
  | .hcanArrival origin tag h => Sys2Proof.Machine.execHcanArrival origin tag h s
  | .schedArrival act => Sys2Proof.Machine.execSchedArrival act s
  | .callerInstruction c op => Sys2Proof.Machine.execCallerInstruction c op s
  | .reservedEncoding w => Sys2Proof.Machine.execReservedEncoding w s
  | .unloadedWalkerSlot => Sys2Proof.Machine.execUnloadedWalkerSlot s
  | .thermalResume temp => Sys2Proof.Machine.execThermalResume temp s
  | .powerLoss => Sys2Proof.Machine.execPowerLoss s
  | .clusterPowerGating cl => Sys2Proof.Machine.execClusterPowerGating cl s
  | .clusterPowerRestore cl => Sys2Proof.Machine.execClusterPowerRestore cl s
  | .twinUnsupportedRequest => Sys2Proof.Machine.execTwinUnsupportedRequest s
  | .rtcUnknownRequest sender code => Sys2Proof.Machine.execRtcUnknownRequest sender code s

end Sys2Proof.Machine
end

