-- ==== Sys2Proof/Machine/Fetch.lean ====
section
/-!
DEFINITION. Which agent or event moves next, and the instruction it runs: an issue group at its turn, a caller at its pc,
a query at its PC, or an event (R5, R13, R39, R176, R177, R190, R306, R322); soft errors (R283).
-/

namespace Sys2Proof.Machine

/-- What a turn comes to: an instruction or event to execute in a state, or the state after a turn that executes none. -/
inductive Move where
  | run (i : Instr) (s : State)
  | stay (s : State)

/-- The turn that comes next: the first of the agenda, else a free choice (log 9). The blocks that a snapshot's trigger reaches
late latch between turns (R444). -/
def State.nextTurn (s : State) : Turn × State :=
  match s.agenda with
  | t :: rest => (t, { s.latchLate with agenda := rest })
  | [] => (Config.nextTurn s.fresh, { s.latchLate with fresh := s.fresh + 1 })

/-- An instruction is about to execute: who executes it, and its word. -/
def State.at_ (s : State) (f : Focus) (w : Word) : State := { s with focus := f, curWord := w }

/-- The word of the instruction at an offset of a code object: its first halfword, and its second if it has one (R69). -/
def codeWord (h : Nat → Half) (off : Nat) : Word :=
  if (h off).getLsbD 0 then joinHalves (h off) (h (off + 2)) else (h off).setWidth 32

/-- A group's turn (R176, R177): the instruction at its place in its figure, unless it waits for code (R182). A word that is
no instruction is a reserved encoding (R87). -/
noncomputable def State.issueTurn (s : State) (n port rot : Nat) : Move :=
  match Tbl.get? (s.core n).groups (port * 8 + rot) with
  | none => .stay s
  | some g =>
    if !g.waiting.isEmpty then .stay s
    else
      match s.res? n g.launch with
      | none => .stay s
      | some r =>
        match s.codeOf r with
        | none => .stay s
        | some (_, h) =>
          let off := g.fig.toNat + g.off
          let w := codeWord h off
          let t := s.at_ (.group n port rot) w
          match (codeInstr h off).1 with
          | some i => .run i t
          | none => .run (.reservedEncoding w) t

/-- A caller's turn (R190, R280): the instruction at its pc, or the exception of its fetch. -/
noncomputable def State.callerTurn (s : State) (n l : Nat) : Move :=
  match s.res? n l with
  | none => .stay s
  | some r =>
    if s.callerReady n l r then
      match s.callerFetch r with
      | .error e => .stay (s.fetchTrap n l r e)
      | .ok (w, i) => .run (r.caller.turnOf i) (s.at_ (.caller n l) w)
    else .stay s

/-- The entry of the running query that the traversal processor serves next: the rotation goes on behind the one it served last
(R322). The queries of a halted launch stand still (R323). -/
def State.nextQueryOf (s : State) (n : Nat) : Option Nat :=
  let c := s.core n
  let ready := (c.queries.filter fun p => p.2.state == .running && !s.away n p.2.launch).map Prod.fst
  match ready.find? fun e => decide (c.walked < e) with
  | some e => some e
  | none => ready.head?

/-- A query's turn (R306, R322): the instruction at its PC. A word TCFG would refuse is never in the store (R307). -/
noncomputable def State.walkerTurn (s : State) (n e : Nat) : Move :=
  match s.query? n e with
  | none => .stay s
  | some q =>
    if s.nextQueryOf n ≠ some e then .stay s
    else
    match s.res? n q.launch with
    | none => .stay s
    | some r =>
      let w := r.walker.getD q.pc 0#32
      match decodeWalker w with
      | .ok i => .run i (s.at_ (.walker n e) w)
      | .error _ => .run .unloadedWalkerSlot (s.at_ (.walker n e) w)

/-- A module that is in reset, or without power, does nothing but start again (R435, R437). -/
def allowedInReset : Instr → Bool
  | .moduleReset _ => true
  | _ => false

/-- The requests of the root-of-trust core's mailbox, and what it answers (R438). -/
def isMailbox : Instr → Bool
  | .rtcExtend .. => true
  | .rtcAttestationReport .. => true
  | .rtcAttestationDone => true
  | .rtcReadBootstat _ => true
  | .rtcRaiseSvn _ => true
  | .rtcExtendMr3 .. => true
  | .rtcUnknownRequest .. => true
  | _ => false

/-- An event's turn. Where boot has stopped, the root-of-trust core still answers (R437). -/
def State.eventTurn (s : State) (i : Instr) : Move :=
  if s.running || allowedInReset i || (s.power.powered && s.rtc.failStep != 0 && isMailbox i) then .run i (s.at_ .none 0#32) else .stay s

/-! Soft errors (R283, R330, R350, R441; log 35). -/

/-- A clean copy with a double-bit error is dropped, to be fetched again, and counted and logged; who reads it then is a free
value (R283, R441). -/
def State.refetches (s : State) (block addr : Nat) : State :=
  ({ s with watch := { s.watch with refetched := countUp s.watch.refetched block 1 } } : State).logError block 1 s.draw addr
    |>.drawn

/-- An error of one bit that a read corrects is counted (R283, R441). -/
def State.correctsOne (s : State) (block : Nat) : State :=
  { s with watch := { s.watch with corrected := countUp s.watch.corrected block 1 } }

/-- The physical address of a line of an ASID, for the error log; a free value where no translation is left (R441). -/
def State.lineAddr (s : State) (asid vline : Nat) : Nat :=
  match s.translate asid (64 * vline) .read with
  | .ok pa _ => pa
  | _ => s.draw

/-- A place of memory that is there: G7 memory, a pool or a weight buffer (R430, R431). -/
def holdsWord (a : Nat) : Bool :=
  decide (a < g7End) ||
    (decide (poolBase 0 ≤ a ∧ a < poolBase Config.numCores) &&
      decide ((a - poolBase 0) % 0x400000 < Config.poolBytes + Config.wbBytes))

/-- A bit of a memory word is upset, or two are. A second single bit in a word makes the error uncorrectable. -/
def Watch.upset (w : Watch) (word : Nat) (double : Bool) : Watch :=
  if w.bad.contains word then w
  else if double || w.weak.contains word then { w with bad := word :: w.bad, weak := w.weak.filter fun x => x != word }
  else { w with weak := word :: w.weak }

/-- A soft error happens (R283, R330, R350). -/
def State.upset (s : State) : Upset → State
  | .word a double => if holdsWord a then { s with watch := s.watch.upset (a / 4) double } else s
  | .register n slot r double =>
    if double then s.modMicro n slot fun m => { m with bad := m.bad ||| (1#64 <<< r.toNat) } else s.correctsOne 2
  | .line cl asid vline node double =>
    if ((s.cluster cl).find asid vline node).isNone then s
    else if double then
      (s.dropLines cl fun x => x.asid == asid && x.vline == vline && x.node == node).refetches 5 (s.lineAddr asid vline)
    else s.correctsOne 5
  | .code n asid vline double =>
    let mine (x : Nat × Nat × Line) : Bool := x.1 == asid && x.2.1 == vline
    if !(s.core n).code.any mine then s
    else if double then
      (s.modCore n fun c => { c with code := c.code.filter fun x => !mine x }).refetches 6 (s.lineAddr asid vline)
    else s.correctsOne 6
  | .slice a double => if g7End ≤ a then s else if double then s.refetches 4 a else s.correctsOne 4
  | .request n =>
    s.modCluster (clusterOf n) fun c => { c with gte := Tbl.modify c.gte n fun g => { g with bad := true } }

/-- A turn of a core's supervisor comes to an exception in S-mode (R281, R420; log 78). -/
def State.supervisorTurn (s : State) (n l cause : Nat) (pc tval : DWord) : State :=
  match s.res? n l with
  | some r =>
    if r.phase = .resident ∧ !(s.core n).parked then s.modCaller n l fun h => h.lapse cause pc tval else s
  | none => s

/-- What a turn comes to. -/
noncomputable def State.fetch (s : State) : Turn → Move
  | .issue n port rot => if s.running then s.issueTurn n port rot else .stay s
  | .caller n l => if s.running then s.callerTurn n l else .stay s
  | .walker n e => if s.running then s.walkerTurn n e else .stay s
  | .event i => s.eventTurn i
  | .upset u => .stay (if s.running then s.upset u else s)
  | .supervisor n l cause pc tval => .stay (if s.running then s.supervisorTurn n l cause pc tval else s)

/-! A state in which a given instruction is the next to execute (log 9): it stands for the work of the host, of a launch's
placement and of MINT. -/

/-- Where the placed instruction stands in memory: the first page of package memory (R430). -/
def trialAt : Nat := 0x1000

/-- The bytes of an instruction word, lowest first. -/
def trialBytes (w : Nat) : List Byte := bytesOfNat 8 w

/-- A record of one core at (0, 0) whose code object starts at offset `base`, of the ASID 1. -/
def trialRecord : List Byte :=
  bytesOfNat 8 0 ++ bytesOfNat 2 1 ++ bytesOfNat 4 0 ++ [1#8, 1#8] ++ bytesOfNat 8 trialAt ++ bytesOfNat 104 0

/-- A launch resident on core 0. -/
def trialRes : Res :=
  { record := trialRecord, x0 := 0, y0 := 0, phase := .resident, grant := some 1, setw := none, xacs := [], budget := 0,
    rfUsed := 0, caller := { Caller.blank with pc := BitVec.ofNat 64 trialAt }, mbox := [], cvs := [], sks := [],
    tileMap := [], wbMap := [], latches := 0#64, levels := [], decode := [], walker := [], hitqs := [], qseq := 0,
    gteSeq := 0, gteLog := [], sent := 0, received := 0, figures := 0, spill := [], ringNext := 0, saved := none }

/-- Its micro-thread, in free mode, inside its first figure. -/
def trialMicro : Micro := { Micro.blank with owner := some 1, life := .free, held := .free, mode := .free, bud := 56 }

/-- A query of it. -/
def trialQuery : Query :=
  { launch := 1, record := [], tag := 0#32, pc := 0, state := .running, q := Vector.replicate 16 0#32
    n := Vector.replicate 8 0#32, h := Vector.replicate 4 0#32, node := 0#32, stack := [], spilled := 0, spills := 0
    buf := [], kind := none, dec := none, best := [], own := [], out := [], lost := false, hits := 0, steps := 0
    handoffs := 0, err := none, cancel := false, pageHeld := none, origin := none, sent := 0, survivors := none
    nSurv := 0 }

/-- The code object of the launch, with one figure. -/
def trialObject : Sealed := { asid := 1, base := trialAt, clen := 64, hlen := 0, starts := [0], pages := [trialAt / 0x1000] }

/-- A leaf that maps the page of the caller's code to itself: V, R, X, U and A set (R376). -/
def trialLeaf : Leaf :=
  { asid := 1, vpn := trialAt / 0x1000, level := 0, pte := BitVec.ofNat 64 (trialAt / 0x1000 * 1024 + 0x5B) }

/-- Core 0 with the launch, its micro-thread, its issue group and its query. -/
def trialCore (c : Core) (walker : List Word) : Core :=
  { c with
    slots := Tbl.set c.slots 0 trialMicro
    res := Tbl.set c.res 1 { trialRes with walker := walker }
    groups := Tbl.set c.groups 0
      { launch := 1, fig := 0#32, off := 0, ll := 0, members := [0], waiting := [] }
    walked := 511
    queries := Tbl.set c.queries 0 trialQuery }

/-- The turn of the agent that an instruction set belongs to. -/
def trialTurn : Isa → Turn
  | .micro => .issue 0 0 0
  | .caller => .caller 0 1
  | .walker => .walker 0 0

/-- The instruction with these bits is placed where the next turn fetches it. -/
noncomputable def State.trial (s : State) (nbits w : Nat) : State :=
  let isa := match classifyTableWord nbits w with
    | some (a, _) => a
    | none => .micro
  let s := s.write trialAt (trialBytes w)
  let s := (s.modCore 0 fun c => trialCore c [BitVec.ofNat 32 w]).modTlu (tluOf trialAt) fun t =>
    { t with leaves := trialLeaf :: t.leaves }
  { s with sealed := trialObject :: s.sealed, agenda := [trialTurn isa] }

end Sys2Proof.Machine
end

