-- ==== Sys2Proof/Machine/Step.lean ====
section
/-! DEFINITION. One step of the machine: the next turn, and the instruction or event it executes (R5, R13, R39). -/

namespace Sys2Proof.Machine

noncomputable section

/-- One step: the agent or event whose turn comes next executes one instruction. -/
def step (s : State) : Host.Outcome State Fault Refusal :=
  match s.nextTurn.2.fetch s.nextTurn.1 with
  | .run i t => exec i t
  | .stay t => .next t

/-- `s` with the instruction of the table word `w` where the next step fetches it (log 9). -/
def State.withFetchWord (s : State) (nbits w : Nat) : State := s.trial nbits w

end

end Sys2Proof.Machine
end

