-- ==== Sys2Proof/Safety.lean ====
section
/-!
DEFINITION. The terms in which statements speak of a run: which states are sound, what the turn of one micro-thread, caller,
query or event gives, and what it leaves alone.
-/

namespace Sys2Proof.Machine

/-- The invariant of every step: memory is in its canonical form, PLIMIT lies between 100 and 700 W (R433) and the throttle
between 1 and 8 (R434), and every access in flight is numbered below the next number, each once, rising (log 5). -/
def State.Sound (s : State) : Prop :=
  Memory.wf s.mem = true ∧ (100 ≤ s.power.plimit.toNat ∧ s.power.plimit.toNat ≤ 700) ∧
    (1 ≤ s.power.throttle ∧ s.power.throttle ≤ 8) ∧ Tbl.sorted s.flights = true ∧ ∀ p ∈ s.flights, p.1 < s.nextId

/-- An instruction or event answers a next state of which `q` holds. -/
def Answers (i : Instr) (s : State) (q : State → Prop) : Prop := ∃ t, exec i s = .next t ∧ q t

/-- The micro-thread in a slot of a core. -/
def State.microAt (s : State) (n slot : Nat) : Option Micro := Tbl.get? (s.core n).slots slot

/-- It is the turn of the issue group `g` in rotation slot `k` of core `n`, and the micro-thread `m` in `slot` is a member. -/
def State.Member (s : State) (n k : Nat) (g : Group) (slot : Nat) (m : Micro) : Prop :=
  (∃ c, s.seat? = some (n, k, c, g)) ∧ slot ∈ g.members ∧ s.microAt n slot = some m

/-- Nothing changed but parts of core `n`. -/
def OnlyCore (n : Nat) (s t : State) : Prop :=
  t = { s with cores := t.cores } ∧ ∀ x, x ≠ n → t.core x = s.core x

/-- A turn of an instruction that reaches registers only: beside the members' own states, only the group's place and the
budget counters of the core's launches changed. -/
def OnlyMembers (n : Nat) (g : Group) (s t : State) : Prop :=
  OnlyCore n s t ∧ (∀ slot, slot ∉ g.members → t.microAt n slot = s.microAt n slot) ∧
    t.core n = { s.core n with slots := (t.core n).slots, groups := (t.core n).groups, res := (t.core n).res,
                               eligible := (t.core n).eligible } ∧
    ∀ l, t.res? n l = (s.res? n l).map fun r => { r with budget := ((t.res? n l).map Res.budget).getD 0 }

/-- A core's micro-threads, group places and budget counters changed, and its launches by `f`; nothing else did. -/
def OnlySlots (n l : Nat) (f : Res → Res) (s t : State) : Prop :=
  OnlyCore n s t ∧
    t.core n = { s.core n with slots := (t.core n).slots, groups := (t.core n).groups, res := (t.core n).res,
                               eligible := (t.core n).eligible } ∧
    ∀ x, t.res? n x = (s.res? n x).map fun r =>
      { (if x = l then f r else r) with budget := ((t.res? n x).map Res.budget).getD 0 }

/-- No result of a long-latency instruction is outstanding in a register (R18), and its word has no uncorrectable error (R283). -/
def Micro.Settled (m : Micro) (r : Reg) : Prop := m.pend.getLsbD r.toNat = false ∧ m.bad.getLsbD r.toNat = false

/-- The register codes are within the budget (R16, R76), and settled. -/
def Micro.Ready (m : Micro) (rs : List Reg) : Prop := ∀ r ∈ rs, m.codeOk r = true ∧ m.Settled r

/-- A pair's two codes (R16). -/
def pairOf (r : Reg) : List Reg := [r, r + 1#6]

/-- A pair's value, low word first (R16). -/
def Micro.pair (m : Micro) (r : Reg) : DWord := mkPair (m.reg r) (m.reg (r + 1#6))

/-- Every member of a group that is ready for the instruction becomes `f` of itself, and nothing else changes; the group
goes on `len` bytes further while a member is left. -/
def LaneResult (i : Instr) (ready : Micro → Prop) (f : Micro → Micro) : Prop :=
  ∀ (s : State) (n k : Nat) (g : Group) (slot : Nat) (m : Micro), s.Member n k g slot m → ready m →
    Answers i s fun t => t.microAt n slot = some (f m) ∧ OnlyMembers n g s t

/-- A member that the instruction faults takes that fault, keeps its registers and leaves the group (R87, R88). -/
def LaneFault (i : Instr) (ready : Micro → Prop) (e : Micro → Word → Byte × Word) : Prop :=
  ∀ (s : State) (n k : Nat) (g : Group) (slot : Nat) (m : Micro), s.Member n k g slot m → ready m →
    Answers i s fun t =>
      OnlyMembers n g s t ∧
      ∃ x, t.microAt n slot = some { m with life := .faulted, fault := some x } ∧
        (x.code, x.detail) = e m s.curWord ∧ x.fig = g.fig ∧ x.off = g.off ∧ x.gen = m.gen

/-- A register-only instruction writes one register. -/
def Writes (i : Instr) (rs : List Reg) (d : Reg) (v : Micro → Word) : Prop :=
  LaneResult i (fun m => m.Ready rs) fun m => m.setReg d (v m)

/-- A register-only instruction writes a pair. -/
def WritesPair (i : Instr) (rs : List Reg) (d : Reg) (v : Micro → DWord) : Prop :=
  LaneResult i (fun m => m.Ready rs) fun m => m.setPair d (v m)

/-- A register-only instruction writes one register and ORs flags into FFLAGS (R46). -/
def WritesFp (i : Instr) (rs : List Reg) (d : Reg) (v : Micro → FpRes) : Prop :=
  LaneResult i (fun m => m.Ready rs) fun m => (m.setReg d (BitVec.ofNat 32 (v m).1)).raise (v m).2

/-- A register-only instruction writes a pair and ORs flags into FFLAGS (R46). -/
def WritesFpPair (i : Instr) (rs : List Reg) (d : Reg) (v : Micro → FpRes) : Prop :=
  LaneResult i (fun m => m.Ready rs) fun m => (m.setPair d (BitVec.ofNat 64 (v m).1)).raise (v m).2

/-- A register-only instruction writes a predicate and ORs flags into FFLAGS: p7 is not writable (R17). -/
def WritesPred (i : Instr) (rs : List Reg) (p : PReg) (v : Micro → Bool × FFlags) : Prop :=
  LaneResult i (fun m => m.Ready rs) fun m =>
    { m with preds := if p = 7#3 then m.preds else
               if (v m).1 then m.preds ||| (1#7 <<< p.toNat) else m.preds &&& ~~~(1#7 <<< p.toNat)
             fflags := m.fflags ||| (v m).2 }

/-- An operation on the two halves of a word: element 0 is [15:0]; the flags of both are ORed (R41, R127). -/
def bothHalves (f : Nat → Nat → FpRes) (x y : Word) : FpRes :=
  ((f (x.toNat % 2 ^ 16) (y.toNat % 2 ^ 16)).1 + 2 ^ 16 * (f (x.toNat / 2 ^ 16) (y.toNat / 2 ^ 16)).1,
    (f (x.toNat % 2 ^ 16) (y.toNat % 2 ^ 16)).2 ||| (f (x.toNat / 2 ^ 16) (y.toNat / 2 ^ 16)).2)

/-- A fused operation on the two halves of a word (R128). -/
def bothHalves3 (f : Nat → Nat → Nat → FpRes) (x y z : Word) : FpRes :=
  ((f (x.toNat % 2 ^ 16) (y.toNat % 2 ^ 16) (z.toNat % 2 ^ 16)).1 +
      2 ^ 16 * (f (x.toNat / 2 ^ 16) (y.toNat / 2 ^ 16) (z.toNat / 2 ^ 16)).1,
    (f (x.toNat % 2 ^ 16) (y.toNat % 2 ^ 16) (z.toNat % 2 ^ 16)).2 |||
      (f (x.toNat / 2 ^ 16) (y.toNat / 2 ^ 16) (z.toNat / 2 ^ 16)).2)

/-- An integer as the bits of a `w`-bit result, with its flags (R131). -/
def asBits (w : Nat) (r : Int × FFlags) : FpRes := ((r.1 % 2 ^ w).toNat, r.2)

/-- Every member of the group is ready for the instruction. -/
def State.MembersReady (s : State) (n : Nat) (g : Group) (rs : List Reg) : Prop :=
  ∀ x ∈ g.members, ∃ m, s.microAt n x = some m ∧ m.Ready rs

/-- The lanes of a slot's set in ascending LANE: the micro-thread of an active lane, none for an inactive one (R32, R35). -/
def State.lanesOf (s : State) (n : Nat) (g : Group) (slot : Nat) : List (Option Micro) :=
  ((s.core n).place g.launch slot).2.2.map fun x => if x ∈ g.members then s.microAt n x else none

/-- The lane number of a slot (R32). -/
def State.laneOf (s : State) (n : Nat) (g : Group) (slot : Nat) : Nat := ((s.core n).place g.launch slot).2.1

/-- The number of a slot's set (R32). -/
def State.setOf (s : State) (n : Nat) (g : Group) (slot : Nat) : Nat := ((s.core n).place g.launch slot).1

/-- The active lanes of a list of lanes. -/
def actives (lanes : List (Option Micro)) : List Micro := lanes.filterMap fun x => x

/-- A set-converged instruction: a member becomes `f` of its set's lanes, its lane and itself; every lane reads before any
writes (R146). -/
def SetResult (i : Instr) (rs : List Reg) (f : List (Option Micro) → Nat → Micro → Micro) : Prop :=
  ∀ (s : State) (n k : Nat) (g : Group) (slot : Nat) (m : Micro), s.Member n k g slot m → s.MembersReady n g rs →
    Answers i s fun t =>
      t.microAt n slot = some (f (s.lanesOf n g slot) (s.laneOf n g slot) m) ∧ OnlyMembers n g s t

/-- The exact accumulator of a set of a launch (R62, R153). -/
def State.xacOf (s : State) (n l setNo : Nat) : Xac :=
  match s.res? n l with
  | some r => (Tbl.get? r.xacs setNo).getD Xac.zero
  | none => Xac.zero

/-- An instruction on the exact accumulators of the sets with a member in the group (R62, R152, R153): each such accumulator
becomes `upd` of its set's active lanes, in ascending LANE, and of itself; a member becomes `f` of its set's accumulator as it
was and of itself. No other accumulator, micro-thread or memory changes. -/
def XacResult (i : Instr) (rs : List Reg) (upd : List Micro → Xac → Xac) (f : Xac → Micro → Micro) : Prop :=
  ∀ (s : State) (n k : Nat) (c : Core) (g : Group), s.seat? = some (n, k, c, g) → g.launch ∈ c.launches →
    Tbl.sorted c.slots = true → (∀ x ∈ g.members, x ∈ c.owned g.launch) → s.MembersReady n g rs →
    Answers i s fun t =>
      (∀ slot m, slot ∈ g.members → s.microAt n slot = some m →
        let old := s.xacOf n g.launch (s.setOf n g slot)
        t.microAt n slot = some (f old m) ∧
          t.xacOf n g.launch (s.setOf n g slot) = upd (actives (s.lanesOf n g slot)) old) ∧
      (∀ j, (∀ x ∈ g.members, s.setOf n g x ≠ j) → t.xacOf n g.launch j = s.xacOf n g.launch j) ∧
      (∀ x, x ∉ g.members → t.microAt n x = s.microAt n x) ∧
      OnlySlots n g.launch (fun r => { r with xacs := ((t.res? n g.launch).map Res.xacs).getD [] }) s t

/-- It is the turn of a group whose one member is the micro-thread `m` of the launch `r`. -/
def State.Alone (s : State) (n k : Nat) (g : Group) (slot : Nat) (m : Micro) (r : Res) : Prop :=
  s.Member n k g slot m ∧ g.members = [slot] ∧ s.res? n g.launch = some r

/-- A turn that reaches one micro-thread, its launch, the store FIFO, the array's queue and the accesses in flight. -/
def OnlyTurn (n slot : Nat) (s t : State) : Prop :=
  t = { s with cores := t.cores, flights := t.flights, nextId := t.nextId } ∧ (∀ x, x ≠ n → t.core x = s.core x) ∧
    (∀ x, x ≠ slot → t.microAt n x = s.microAt n x) ∧
    t.core n = { s.core n with slots := (t.core n).slots, groups := (t.core n).groups, res := (t.core n).res
                               eligible := (t.core n).eligible, fifo := (t.core n).fifo, mx := (t.core n).mx }

/-- One launch of a core becomes `f` of itself; beside that, the launches of the core changed by charges to their budgets
only (R188). -/
def LaunchBecomes (n l : Nat) (f : Res → Res) (s t : State) : Prop :=
  ∀ x, t.res? n x = (s.res? n x).map fun r =>
    { (if x = l then f r else r) with budget := ((t.res? n x).map Res.budget).getD 0 }

/-- The launches of a core changed by charges to their budgets only (R188). -/
def OnlyCharged (n : Nat) (s t : State) : Prop := LaunchBecomes n 0 (fun r => r) s t

/-- Clusters have dropped lines, and nothing else of them changed (R330). -/
def OnlyDrops (s t : State) : Prop :=
  ∀ k, t.cluster k = { s.cluster k with lines := (t.cluster k).lines } ∧ ∀ x ∈ (t.cluster k).lines, x ∈ (s.cluster k).lines

/-- Fences may have ended, and with that lines on their way may have lost their place in the cache (R174, R330); every access
in flight but `x` is otherwise as it was. -/
def SettlesFlights (x : Nat) (s t : State) : Prop :=
  ∀ id f, id ≠ x → Tbl.get? s.flights id = some f → f.isFence = false →
    ∃ u, Tbl.get? t.flights id = some u ∧ u = { f with stage := u.stage } ∧
      (u.stage = f.stage ∨ (∃ line a, f.stage = .fill line a ∧ u.stage = .fill line false) ∨
        ∃ pa c, f.stage = .home pa c ∧ u.stage = .home pa false)

/-- A turn that also lets fences end (R174). -/
def OnlyTurnFence (n slot : Nat) (s t : State) : Prop :=
  OnlyTurn n slot s { t with clusters := s.clusters } ∧ OnlyDrops s t ∧ SettlesFlights s.nextId s t

/-- The accesses in flight before a turn are as they were. -/
def KeepsFlights (s t : State) : Prop := ∀ id, id < s.nextId → Tbl.get? t.flights id = Tbl.get? s.flights id

/-- An instruction of a micro-thread alone in its group, whose operands are ready and which `ok` accepts, posts an access
`o`: its `nd` destinations become pending (R18), the access is in flight under the next number, at the tail of the store
FIFO if `fifo` (R270), and nothing else changes. -/
def Posts (i : Instr) (rs : List Reg) (fifo : Bool) (d : Reg) (nd : Nat) (ea : Micro → DWord)
    (ok : State → Nat → Group → Micro → Res → Op → Prop) : Prop :=
  ∀ (s : State) (n k : Nat) (g : Group) (slot : Nat) (m : Micro) (r : Res) (o : Op),
    s.Alone n k g slot m r → s.Sound → m.Ready rs → ok s n g m r o →
    Answers i s fun t =>
      t.microAt n slot = some (m.setPend d nd) ∧
      Tbl.get? t.flights s.nextId =
        some { core := n, launch := g.launch, agent := .micro, who := [⟨slot, m.gen, true, false⟩], fig := g.fig
               off := g.off, word := s.curWord, ll := if nd = 0 then 8 else g.ll, dst := d, dstN := nd, ea := ea m
               sent := s.nextId, op := o, stage := if fifo then .fifo else .request } ∧
      (t.core n).fifo = (s.core n).fifo ++ (if fifo then [s.nextId] else []) ∧ (t.core n).mx = (s.core n).mx ∧
      KeepsFlights s t ∧ OnlyCharged n s t ∧ OnlyTurn n slot s t

/-- The words a group of registers holds. -/
def Micro.group (m : Micro) (r : Reg) (n : Nat) : List Word := (groupCodes r n).map m.reg

/-- A queue of a core has room for one more entry (R241, R242). -/
def State.roomIn (s : State) (n q : Nat) : Prop := s.occupied n q + s.reserved n q < 64

/-- The register names, format word and operand pair of an MMA pass the checks of R226 for a launch on a core. -/
def State.MmaLegal (s : State) (n cv : Nat) (m : Micro) (r : Res) (a b : Reg) (w : FormatWord) (rows : Nat) : Prop :=
  m.Ready ([a] ++ pairOf b) ∧ formatWord (m.reg a) = some w ∧ (m.reg b).toNat < 2 ^ 22 ∧
    (m.reg (b + 1#6)) &&& 0xFFC0F800#32 = 0#32 ∧ (m.reg b).toNat % 64 = 0 ∧
    (s.core n).inSp (m.reg b).toNat (if w.af = 5 then rows * 48 else rows * 32) = true ∧ (r.cv cv).count ≠ 0 ∧
    (m.reg (b + 1#6)).toNat / 2 ^ 16 % 16 < r.tiles ∧ (m.reg (b + 1#6)).toNat % 2 ^ 11 < r.units

/-- The one group of a micro-thread is that of key `k`, and at the end of its figure nothing makes it park, retire or count as
newly eligible (R29). -/
def State.EndsPlainly (s : State) (n k slot : Nat) (m : Micro) : Prop :=
  m.life ≠ .faulted ∧ m.quitting = false ∧ m.waits = false ∧ m.yielding = false ∧ m.rearmed = false ∧
    Tbl.sorted (s.core n).groups = true ∧ ∀ p ∈ (s.core n).groups, p.1 ≠ k → slot ∉ p.2.members

/-- The next figure in the code (R71): past the trailer of `len` bytes, on a multiple of 8. -/
def Group.nextAt (g : Group) (len : Nat) : Word := g.fig + BitVec.ofNat 32 (8 * ((g.off + len + 7) / 8))

/-- A trailer that `ok` accepts ends the figure of a micro-thread alone in its group (R27, R29, R117, R120): the group ends, the
micro-thread becomes `f` of itself in the state of its mode, and awaits, of the results its trailer names, those that the
figure's long-latency instructions still owe it; one that so leaves called mode with no figure queued is newly eligible (R38).
With `push` a store enters the FIFO. No memory and no other micro-thread changes. -/
def Trails (i : Instr) (aw : BitVec 8) (ok : State → Nat → Group → Nat → Micro → Res → Prop)
    (f : State → Nat → Group → Nat → Micro → Micro) (push : Bool := false) : Prop :=
  ∀ (s : State) (n k : Nat) (g : Group) (slot : Nat) (m : Micro) (r : Res),
    s.Alone n k g slot m r → s.Sound → s.EndsPlainly n k slot m → ok s n g slot m r →
    Answers i s fun t =>
      (∃ u, t.microAt n slot = some u ∧
        u = { f s n g slot m with
              await := u.await, pos := none, life := if (f s n g slot m).mode = .called then .called else .free
              since := if m.mode = .called ∧ m.callq = [] ∧ (f s n g slot m).mode = .free then (s.core n).eligible
                       else m.since } ∧
        ∀ j, j < 8 → (u.await.getLsbD j = true ↔ aw.getLsbD j = true ∧
          ∃ p ∈ s.flights, p.2.core = n ∧ p.2.agent = .micro ∧ p.2.ll = j ∧
            ∃ w ∈ p.2.who, w.slot = slot ∧ w.gen = m.gen ∧ w.inFig = true)) ∧
      Tbl.get? (t.core n).groups k = none ∧ LaunchBecomes n g.launch (fun r => { r with figures := r.figures + 1 }) s t ∧
      (t.core n).fifo = (s.core n).fifo ++ (if push then [s.nextId] else []) ∧ (t.core n).mx = (s.core n).mx ∧ OnlyTurn n slot s t

/-- A trailer that `ok` accepts faults the micro-thread: it stands at its trailer, and the figure has not ended for it (R88,
R119). -/
def TrailFaults (i : Instr) (aw : BitVec 8) (ok : State → Nat → Group → Nat → Micro → Res → Prop)
    (e : State → Micro → Byte × Word) : Prop :=
  ∀ (s : State) (n k : Nat) (g : Group) (slot : Nat) (m : Micro) (r : Res),
    s.Alone n k g slot m r → ok s n g slot m r →
    Answers i s fun t =>
      (∃ x, t.microAt n slot = some { m with life := .faulted, fault := some x } ∧ (x.code, x.detail) = e s m ∧
        x.fig = g.fig ∧ x.off = g.off ∧ x.trailer = some aw) ∧
      Tbl.get? (t.core n).groups k = Tbl.get? (Tbl.erase (s.core n).groups k) k ∧ OnlyCharged n s t ∧
      t.flights = s.flights ∧ (t.core n).fifo = (s.core n).fifo ∧ OnlyTurn n slot s t

/-- It is the turn of the query `q`, entry `e` of core `n`, which runs for the resident launch `r`. -/
def State.Walking (s : State) (n e : Nat) (q : Query) (r : Res) : Prop :=
  s.focus = .walker n e ∧ n < 80 ∧ s.query? n e = some q ∧ s.res? n q.launch = some r ∧ q.state = .running ∧
    r.phase = .resident

/-- Nothing changed but one query of a core, and which query the core's processor served last (R322). -/
def OnlyQuery (n e : Nat) (s t : State) : Prop :=
  t = { s with cores := t.cores } ∧ (∀ x, x ≠ n → t.core x = s.core x) ∧
    t.core n = { s.core n with queries := (t.core n).queries, walked := (t.core n).walked } ∧
    ∀ x, x ≠ e → t.query? n x = s.query? n x

/-- A walker instruction that `ok` accepts makes the query `f` of itself, counted (R306, R315), and changes nothing else. -/
def Walks (i : Instr) (ok : Query → Res → Prop) (f : Query → Query) : Prop :=
  ∀ (s : State) (n e : Nat) (q : Query) (r : Res), s.Walking n e q r → ok q r →
    Answers i s fun t => t.query? n e = some { f q with steps := q.steps + 1 } ∧ (t.core n).walked = e ∧ OnlyQuery n e s t

/-- A walker instruction that `ok` accepts writes one register and goes on at the next index. -/
def WalksTo (i : Instr) (ok : Query → Res → Prop) (d : WReg) (v : Query → Word) : Prop :=
  Walks i (fun q r => q.pc < 1023 ∧ ok q r) fun q => { q.setReg d (v q) with pc := q.pc + 1 }

/-- A walker instruction that `ok` accepts ends a query of this module that has no hand-offs out, with an error (R321). -/
def WalkEnds (i : Instr) (ok : Query → Res → Prop) (code : Nat) : Prop :=
  ∀ (s : State) (n e : Nat) (q : Query) (r : Res), s.Walking n e q r → q.origin = none → q.out = [] → ok q r →
    Answers i s fun t =>
      (∃ u, t.query? n e = some u ∧ u.state = .drain ∧ u.err = some (code, 0) ∧ u.best = [] ∧ u.survivors = some [] ∧
        u.q = q.q ∧ u.n = q.n ∧ u.h = q.h) ∧ (t.core n).walked = e ∧ OnlyQuery n e s t

/-- It is the turn of the caller of the launch `r` on core `n`. -/
def State.Calling (s : State) (n l : Nat) (r : Res) : Prop := s.focus = .caller n l ∧ n < 80 ∧ s.res? n l = some r

/-- Nothing changed but one launch of a core. -/
def OnlyLaunch (n l : Nat) (s t : State) : Prop :=
  t = { s with cores := t.cores } ∧ (∀ x, x ≠ n → t.core x = s.core x) ∧
    t.core n = { s.core n with res := (t.core n).res } ∧ ∀ x, x ≠ l → t.res? n x = s.res? n x

/-- An instruction of a caller that `ok` accepts makes the caller `f` of itself, and changes nothing else (R190). -/
def CallerBecomes (i : Instr) (ok : State → Nat → Res → Prop) (f : Core → Nat → Res → Caller) : Prop :=
  ∀ (s : State) (n l : Nat) (r : Res), s.Calling n l r → ok s n r →
    Answers i s fun t => t.res? n l = some { r with caller := f (s.core n) l r } ∧ OnlyLaunch n l s t

/-- A caller has taken an exception (R190, R280; log 3): sepc names the instruction, scause and stval what it met; sstatus
keeps the mode in SPP and the interrupt enable in SPIE, and SIE is clear; S-mode goes on at stvec. -/
def Caller.Trapped (h u : Caller) (cause : Nat) (tval : DWord) : Prop :=
  u = { h with
    sepc := h.pc, scause := BitVec.ofNat 64 cause, stval := tval, sstatus := u.sstatus, priv := .supervisor
    pc := h.stvec &&& ~~~3#64, upc := if h.priv = .user then h.pc else h.upc
    exc := some ⟨cause, tval, h.priv == .supervisor⟩ } ∧
  ∀ i, i < 64 → u.sstatus.getLsbD i =
    if i = 5 then h.sstatus.getLsbD 1 else if i = 8 then h.priv == .supervisor else if i = 1 then false
    else h.sstatus.getLsbD i

/-- An instruction of a caller that `ok` accepts raises an exception, and does nothing else. -/
def CallerTraps (i : Instr) (ok : State → Nat → Res → Prop) (cause : Nat) (tval : State → Caller → DWord) : Prop :=
  ∀ (s : State) (n l : Nat) (r : Res), s.Calling n l r → ok s n r →
    Answers i s fun t =>
      (∃ u, t.res? n l = some { r with caller := u } ∧ r.caller.Trapped u cause (tval s r.caller)) ∧ OnlyLaunch n l s t

/-- What a CSR action writes (R190; log 6). -/
def csrResult (op : CsrOp) (old src : DWord) : DWord :=
  match op with
  | .rw => src
  | .rs => old ||| src
  | .rc => old &&& ~~~src

/-- An Xfig instruction of the caller of `r` is done (R194): rd holds `v`, the pc is on the next instruction, the launch is
otherwise `f` of itself, and no other launch or core, and no memory, has changed. -/
def XfigDone (n l : Nat) (r : Res) (rd : XReg) (v : Nat) (f : Res → Res) (s t : State) : Prop :=
  t.res? n l = some { f r with
    caller := { r.caller.setReg rd (BitVec.ofNat 64 v) with pc := r.caller.pc + 4#64, stall := none } } ∧
    (∀ x, x ≠ n → t.core x = s.core x) ∧ (∀ x, x ≠ l → t.res? n x = s.res? n x) ∧ t.mem = s.mem

/-- Nothing changed but the launches and the micro-threads of a core. -/
def OnlyMicros (n : Nat) (s t : State) : Prop :=
  t = { s with cores := t.cores } ∧ (∀ x, x ≠ n → t.core x = s.core x) ∧
    t.core n = { s.core n with res := (t.core n).res, slots := (t.core n).slots, eligible := (t.core n).eligible }

/-- The slots of the launch that a selector names (R195): bit 63 all of them, else count [41:32] from first [9:0]; a selector
with another bit set names none. -/
def Core.named (c : Core) (l : Nat) (sel : DWord) (slot : Nat) : Prop :=
  slot ∈ c.owned l ∧ sel.toNat / 2 ^ 10 % 2 ^ 22 = 0 ∧ sel.toNat / 2 ^ 42 % 2 ^ 21 = 0 ∧
    (sel.getLsbD 63 = true ∨
      sel.toNat % 2 ^ 10 ≤ slot ∧ slot < sel.toNat % 2 ^ 10 + sel.toNat / 2 ^ 32 % 2 ^ 10)

/-- Reads have corrected single-bit errors, and counted them (R283, R441). -/
def OnlyCorrects (s t : State) : Prop :=
  t.watch = { s.watch with weak := t.watch.weak, corrected := t.watch.corrected } ∧ ∀ w ∈ t.watch.weak, w ∈ s.watch.weak

/-- An access in flight changed, fences may have ended, and with them a cluster may have dropped lines (R174, R330); errors met
were corrected; nothing else changed. -/
def OnlyFlights (x : Nat) (s t : State) : Prop :=
  t = { s with flights := t.flights, clusters := t.clusters, watch := t.watch } ∧ OnlyDrops s t ∧ SettlesFlights x s t ∧
    OnlyCorrects s t

/-- Bytes of memory were written: reservations on their lines and errors of their words may be gone (R191, R284). -/
def OnlyWrites (s t : State) : Prop :=
  t = { s with mem := t.mem, resvs := t.resvs, watch := t.watch } ∧ (∀ x ∈ t.resvs, x ∈ s.resvs) ∧
    t.watch = { s.watch with bad := t.watch.bad, weak := t.watch.weak, corrected := t.watch.corrected } ∧
    (∀ w ∈ t.watch.bad, w ∈ s.watch.bad) ∧ ∀ w ∈ t.watch.weak, w ∈ s.watch.weak

/-- Beside an access in flight, bytes of memory changed, and the trace of their cores (R370). -/
def OnlyFlightsMem (x : Nat) (s t : State) : Prop :=
  OnlyWrites s { t with flights := s.flights, clusters := s.clusters, cores := s.cores } ∧ OnlyDrops s t ∧ SettlesFlights x s t ∧
    ∀ n, t.core n = { s.core n with traceSeq := (t.core n).traceSeq }

/-- A flight stands at a stage of its way. -/
def State.flies (s : State) (id : Nat) (f : Flight) (st : Stage) : Prop := Tbl.get? s.flights id = some { f with stage := st }

/-- An access of one micro-thread is over with a deferred fault (R169): its flight stands faulted, out of the store FIFO, and the
fault, with bit 31 of its detail set (R275), waits for the micro-thread; nothing else changed. -/
def DefersTo (id : Nat) (f : Flight) (code : Byte) (sub arg : Nat) (s t : State) : Prop :=
  t.flies id f .faulted ∧ (∀ x, x ≠ id → Tbl.get? t.flights x = Tbl.get? s.flights x) ∧
    t = { s with cores := t.cores, flights := t.flights } ∧ (∀ x, x ≠ f.core → t.core x = s.core x) ∧
    t.core f.core = { s.core f.core with
      slots := (t.core f.core).slots, eligible := (t.core f.core).eligible
      fifo := (s.core f.core).fifo.filter fun x => x ≠ id } ∧
    (∀ slot, (∀ w ∈ f.who, w.slot ≠ slot) → t.microAt f.core slot = s.microAt f.core slot) ∧
    ∀ w m, f.who = [w] → s.microAt f.core w.slot = some m → m.gen = w.gen →
      ∃ u i, t.microAt f.core w.slot = some u ∧ i.code = code ∧ i.detail = BitVec.ofNat 32 (2 ^ 31 + sub * 2 ^ 22 + arg) ∧
        i.fig = f.fig ∧ i.off = f.off ∧ i.gen = w.gen ∧ i.posted = false ∧ i.redo = .access id ∧
        u = { m with deferred := m.deferred ++ [i], parkedOn := m.parkedOn.filter (fun x => x ≠ id), life := u.life
                     since := u.since, rearmed := u.rearmed }

/-! Placement (R391, R392). -/

/-- The launch `l` with the record `rec` is placed at the origin `o` (R183, R213, R269, R330, R382, R391, R392): on every core of its
rectangle it is resident with its caller at CENTRY, its tiles are zero and its units are a run of their own, its gang is created
in the lowest free slots, its trace ring starts if it has one, and the partition word and budget are the record's and the
partition's. The cluster caches there hold no data line. Nothing else changes. -/
def Placed (s : State) (p l : Nat) (rec : List Byte) (o : Nat × Nat) (t : State) : Prop :=
  let cores := rectCores o.1 o.2 (recNat rec 14 1) (recNat rec 15 1)
  t = { s with cores := t.cores, clusters := t.clusters, flights := t.flights, mem := t.mem, resvs := t.resvs, watch := t.watch
               fresh := t.fresh } ∧
  OnlyWrites s { t with cores := s.cores, clusters := s.clusters, flights := s.flights, fresh := s.fresh } ∧
  OnlyDrops s t ∧
  (∀ id f, Tbl.get? s.flights id = some f → ∃ u, Tbl.get? t.flights id = some u ∧ u = { f with stage := u.stage } ∧
    (u.stage = f.stage ∨ (∃ line a, f.stage = .fill line a ∧ u.stage = .fill line false) ∨
      ∃ pa c, f.stage = .home pa c ∧ u.stage = .home pa false)) ∧
  (∀ n ∈ cores, ∀ y ∈ (t.cluster (clusterOf n)).lines, y.node = true) ∧
  (∀ n, n ∉ cores → t.core n = s.core n) ∧
  (∀ n ∈ cores,
    let c := s.core n
    let rest := c.besides []
    let want := (rolesOf rec).flatMap fun i => List.replicate (64 * (roleOf rec i).2.2) i
    let traced : Prop := (recNat rec 80 16).testBit ((coreY n - o.2) * recNat rec 14 1 + (coreX n - o.1)) = true ∧
      (recNat rec 96 4).testBit 31 = true
    (∃ r, t.res? n l = some r ∧
      r = { record := rec, x0 := o.1, y0 := o.2, phase := .resident, grant := r.grant, setw := none, xacs := []
            budget := ((s.part p).field 8 4 % 2 ^ 31 : Nat), rfUsed := gangBytes rec, caller := r.caller, mbox := []
            cvs := List.replicate 16 ⟨1, []⟩, sks := List.replicate 4 default, tileMap := r.tileMap, wbMap := r.wbMap
            latches := 0#64, levels := List.replicate 8 Level.blank, decode := List.replicate 16 (List.replicate 32 0#8)
            walker := List.replicate 1024 0#32, hitqs := List.replicate 8 none, qseq := 0, gteSeq := 0, gteLog := []
            sent := 0, received := 0, figures := 0, spill := [], ringNext := 0, saved := none } ∧
      r.grant = (if rolesOf rec = [] then none else some (t.core n).cap) ∧
      r.caller = { Caller.blank with x := r.caller.x, pc := BitVec.ofNat 64 (recNat rec 24 8)
                                     fsup := BitVec.ofNat 10 (s.coreWord n) } ∧
      (∀ i, r.caller.reg i = if i = 10#5 then BitVec.ofNat 64 (recNat rec 40 8)
        else if i = 11#5 then BitVec.ofNat 64 (s.coreWord n) else if i = 12#5 then BitVec.ofNat 64 l else 0#64) ∧
      (∃ w, r.wbMap = (List.range (recNat rec 56 2)).map fun i => w + i) ∧
      (∀ i ∈ r.tileMap, i < 16 ∧ ∀ q ∈ rest, i ∉ q.2.tileMap) ∧ r.tileMap.length ≤ recNat rec 54 1 ∧
      (recNat rec 56 2 ≤ 2048 → (∀ m ∈ cores, (t.core m).part.toNat % 256 ≤ 128) →
        ∀ i ∈ r.tileMap, ∀ k, k < 16384 →
          t.peek (poolAddr n (((t.core n).part.toNat % 256 + i) * 16384) + k) 1 = 0)) ∧
    (t.core n).part = (if rest = [] then BitVec.ofNat 32 (recNat rec 48 4) else c.part) ∧
    t.core n = { c with
      part := (t.core n).part, res := (t.core n).res, slots := (t.core n).slots
      bRefill := BitVec.ofNat 32 ((s.part p).field 4 4), bCeil := BitVec.ofNat 31 ((s.part p).field 8 4)
      bEn := ((s.part p).field 2 1).testBit 2, traceEn := (t.core n).traceEn, traceRing := (t.core n).traceRing
      traceSeq := (t.core n).traceSeq } ∧
    (traced → (t.core n).traceEn = true ∧ (t.core n).traceRing = recNat rec 96 4 % 2 ^ 22 ∧ (t.core n).traceSeq = 0#32) ∧
    (¬ traced → (t.core n).traceEn = c.traceEn ∧ (t.core n).traceRing = c.traceRing ∧ (t.core n).traceSeq = c.traceSeq) ∧
    (∀ k, k ≠ l → t.res? n k = s.res? n k) ∧
    (∀ (j slot i : Nat), c.freeSlots[j]? = some slot → want[j]? = some i →
      t.microAt n slot = some { Micro.blank with
        gen := (c.micro slot).gen, owner := some l, life := .created, mode := .free, bud := (roleOf rec i).2.1
        role := i + 1, pc := BitVec.ofNat 32 (roleOf rec i).1
        csp := BitVec.ofNat 32 (recNat rec 68 4 + 8 * recNat rec 72 1 * slot) }) ∧
    ∀ slot, slot ∉ c.freeSlots.take want.length → t.microAt n slot = s.microAt n slot) ∧
  (recNat rec 56 2 ≤ 2048 → (∀ m ∈ cores, (t.core m).part.toNat % 256 ≤ 128) →
    ∀ a, (∀ n ∈ cores, ∀ r, t.res? n l = some r →
      (∀ i ∈ r.tileMap, a < poolAddr n (((t.core n).part.toNat % 256 + i) * 16384) ∨
        poolAddr n (((t.core n).part.toNat % 256 + i) * 16384) + 16384 ≤ a) ∧
      ∀ u ∈ r.wbMap, a < wbAddr n (256 * u) ∨ wbAddr n (256 * u) + 256 ≤ a) → t.peek a 1 = s.peek a 1)

/-! The end of a launch (R399, R402, R403). -/

/-- An access of a launch on a core that has not been sent: an abort discards it (R403). -/
def State.unsent (s : State) (l : Nat) (p : Nat × Flight) : Bool := p.2.launch == l && !s.sentOpen p.1 p.2

/-- A core on which a launch has stopped: none of its groups and entries is left, and its context waits to be released (R403). -/
def Core.stopped (c : Core) (l : Nat) (drop : Nat → Bool) : Core :=
  { c with
    groups := c.groups.filter fun p => p.2.launch != l
    fifo := c.fifo.filter fun id => !drop id
    inbox := c.inbox.filter fun m => m.launch != l
    net := (Tbl.mapKV c.net fun _ q => q.filter fun m => m.launch != l).filter fun p => !p.2.isEmpty
    chans := c.chans.map fun q => q.filter fun e => e.launch != l
    joins := c.joins.filter fun p => p.2.launch != l
    mx := c.mx.filter fun e => e.launch != l
    trp := c.trp.filter fun e => e.launch != l
    gteq := c.gteq.filter fun e => e.launch != l
    queries := c.queries.filter fun p => p.2.launch != l
    signals := c.signals.filter fun p => p.1 != l
    lvArr := c.lvArr.filter fun m => m.launch != l
    lvSum := c.lvSum.filter fun m => m.launch != l
    lvDone := c.lvDone.filter fun m => m.launch != l
    res := Tbl.modify c.res l fun r => { r with phase := .halting, spill := [], mbox := [] } }

/-- A core that a launch has left: its slots are blank but for their generations, and its tiles, units and trace ring are free
(R25, R399). -/
def Core.left (c : Core) (n l : Nat) : Core :=
  { c with
    slots := Tbl.mapKV c.slots fun _ m => if m.owner = some l then { Micro.blank with gen := m.gen } else m
    res := Tbl.erase c.res l
    resident := c.resident.filter fun p => p.1 != l
    cells := if c.resident.any fun p => p.1 == l then [] else c.cells
    traceEn := c.traceEn && (match Tbl.get? c.res l with
      | some r => !(recNat r.record 80 16).testBit ((coreY n - r.y0) * recNat r.record 14 1 + (coreX n - r.x0))
      | none => true) }

/-- A core as the abort of a launch on some cores leaves it. -/
def State.stoppedCore (s : State) (l : Nat) (on : List Nat) (n : Nat) : Core :=
  if n ∈ on then (s.core n).stopped l fun id => s.flights.any fun p => p.1 == id && p.2.core == n && s.unsent l p
  else s.core n

/-- The tables that a launch's end takes entries out of have rising keys. -/
def State.Tidy (s : State) (on : List Nat) : Prop :=
  Tbl.sorted s.dsc.launches = true ∧
    ∀ n ∈ on, Tbl.sorted (s.core n).res = true ∧ Tbl.sorted (s.core n).queries = true ∧
      Tbl.sorted (s.cluster (clusterOf n)).gte = true

/-- The memory after a queue entry's STATE, and REASON, are written (R386). -/
def State.entryMem (s : State) (m : List Host.Cell) (entry : Option (Nat × Nat)) (st : Nat) (reason : Option Nat) : List Host.Cell :=
  match entry.bind fun e => (s.dsc.queues[e.1]?).map fun h => h.entryAt e.2 with
  | some a =>
    let m := Memory.writeN m (a + 16) [BitVec.ofNat 8 st]
    match reason with
    | some r => Memory.writeN m (a + 17) [BitVec.ofNat 8 r]
    | none => m
  | none => m

/-- The end of the launch `x`, whose cores `base` gives as they are once released, is reported with a STATE and REASON, over
the memory `m` (R386, R388, R399): the scheduler has forgotten it; its queue entry says why; its partition's INTSTAT bit, or
CHILD at its poster if that is resident, is set. The twin hears `told`, and that a half of a PAIR launch has ended (R447). -/
def Reports (s : State) (l : Nat) (x : Launch) (st reason : Nat) (base : Nat → Core) (told : List ToTwin) (m : List Host.Cell)
    (t : State) : Prop :=
  t.launch? l = none ∧ (∀ k, k ≠ l → t.launch? k = s.launch? k) ∧
    t.mem = s.entryMem m x.entry st (if st = 2 then none else some reason) ∧
    t.station.out = s.station.out ++ told ++
      (match x.pairIndex with
       | some i => if s.station.up then [.sched (.refuse i l)] else []
       | none => []) ∧
    (x.poster = none → t.dsc.intstat = s.dsc.intstat ||| 1#25 <<< x.part) ∧
    (x.poster ≠ none → t.dsc.intstat = s.dsc.intstat) ∧
    (∀ n, n < 80 → t.core n = match x.poster with
      | some (a, k) =>
        if n = a ∧ s.away a k = false then
          { base n with res := Tbl.modify (base n).res k fun r =>
              { r with caller := { r.caller with evPending := r.caller.evPending ||| 8#16 } } }
        else base n
      | none => base n)

/-- An ending launch whose accesses are all performed comes to its end (R399, R402): its cores are released, and it is restarted
from its record, or its end word is written, or waits for its page, and its end is reported. Card 1's half of a PAIR launch is
only released. -/
def EndsWith (s : State) (l : Nat) (x : Launch) (st reason : Nat) (restart : Bool) (base : Nat → Core) (told : List ToTwin)
    (t : State) : Prop :=
  let word := BitVec.ofNat 64 (l + 2 ^ 32 * st + 2 ^ 40 * reason + 2 ^ 48 * x.restarts)
  let k := if s.dsc.idents + 1 = 2 ^ 31 then 1 else s.dsc.idents + 1
  let id := k + 2 ^ 31 * s.cardNo
  let half : Prop := x.isPair = true ∧ s.station.card = true
  let gone_ : List ToTwin := match x.pairIndex with
    | some i => if s.station.up then [.sched (.refuse i l)] else []
    | none => []
  (half → t.launch? l = none ∧ (∀ k, k ≠ l → t.launch? k = s.launch? k) ∧ t.mem = s.mem ∧ t.dsc.intstat = s.dsc.intstat ∧
    t.station.out = s.station.out ++ told ++ gone_ ∧ ∀ n, n < 80 → t.core n = base n) ∧
  (¬ half → restart = true → id ≠ l →
    t.launch? id = some { x with
      state := .waiting, restarts := x.restarts + 1, since := (s.part x.part).decisions, x0 := 0, y0 := 0, areas := []
      sweep := none, twinSweep := none, pairIndex := none, proposed := false, confirmed := false, twinFull := false
      swept := none, twinGone := false, fin := none, released := false, endRefused := false } ∧
    t.launch? l = none ∧ (∀ j, j ≠ l → j ≠ id → t.launch? j = s.launch? j) ∧ t.dsc.intstat = s.dsc.intstat ∧
    t.mem = (match x.entry.bind fun e => (s.dsc.queues[e.1]?).map fun h => h.entryAt e.2 with
      | some a => Memory.writeN (Memory.writeN s.mem (a + 16) [5#8]) (a + 18) (bytesOfNat 2 (x.restarts + 1) ++ bytesOfNat 4 id)
      | none => s.mem) ∧
    t.station.out = s.station.out ++ told ++ gone_ ∧ ∀ n, n < 80 → t.core n = base n) ∧
  (¬ half → restart = false →
    (s.endWord x = .skip → Reports s l x st reason base told s.mem t) ∧
    (∀ pa, s.endWord x = .place pa → Reports s l x st reason base told (Memory.writeN s.mem pa (bytesOfNat 8 word.toNat)) t) ∧
    (∀ va leaf, s.endWord x = .wait va leaf →
      t.launch? l = some { x with released := true, areas := [] } ∧ (∀ k, k ≠ l → t.launch? k = s.launch? k) ∧
      t.mem = s.mem ∧ t.dsc.intstat = s.dsc.intstat ∧ t.station.out = s.station.out ++ told ∧
      (∀ n, n < 80 → t.core n = base n) ∧ ∃ r ∈ (t.tlu (tluOf va)).recs, r.asid = x.asid ∧ r.page = va / 2 ^ 12))

/-- The cancellations that a launch's queries send for their hand-offs (R316, R403). -/
def State.cancels (s : State) (l : Nat) (on : List Nat) : List ToTwin :=
  on.flatMap fun n => (s.core n).queries.flatMap fun p =>
    if p.2.launch = l then p.2.out.map fun h => .hcan (s.coreWord n) p.2.tag h else []

/-- A launch that stands on its cores ends with a STATE and REASON (R399, R403): what it has not sent is discarded; while an
access it sent is open it is ending, else it comes to its end. The twin hears `first` before and `then_` after its
cancellations. No access, query or entry of another launch is lost. -/
def Ends (s : State) (l : Nat) (x : Launch) (st reason : Nat) (restart : Bool) (first then_ : List ToTwin) (t : State) : Prop :=
  let on := x.cores
  let stopped := s.stoppedCore l on
  let told := first ++ s.cancels l on ++ then_
  let open_ : Prop := ∃ p ∈ s.flights, p.2.launch = l ∧ s.sentOpen p.1 p.2 = true
  let mine (f : Flight) : Prop := f.launch = l ∧ f.core ∈ on
  (∀ n, n < 10 → ∀ k, Tbl.get? (t.cluster n).gte k = (Tbl.get? (s.cluster n).gte k).filter fun g =>
    !(decide (k ∈ on ∧ clusterOf k = n) && g.req.launch == l)) ∧
  (∀ n, t.cluster n = { s.cluster n with gte := (t.cluster n).gte, lines := (t.cluster n).lines } ∧
    ∀ y ∈ (t.cluster n).lines, y ∈ (s.cluster n).lines) ∧
  (∀ y ∈ t.resvs, y ∈ s.resvs ∧ ¬ (y.1 ∈ on ∧ y.2.1 = l)) ∧
  (open_ →
    t.launch? l = some { x with state := .ending, fin := some (st, reason, restart), sweep := none, released := false } ∧
    (∀ k, k ≠ l → t.launch? k = s.launch? k) ∧ t.mem = s.mem ∧ t.dsc.intstat = s.dsc.intstat ∧
    t.station.out = s.station.out ++ told ∧ (∀ n, n < 80 → t.core n = stopped n) ∧
    (t.flights = s.flights.filter fun p => !(decide (p.2.core ∈ on) && s.unsent l p)) ∧
    t.resvs = s.resvs.filter fun r => !(decide (r.1 ∈ on) && r.2.1 == l)) ∧
  (¬ open_ →
    EndsWith s l { x with state := .ending, fin := some (st, reason, restart), sweep := none, released := false } st reason restart
      (fun n => if n ∈ on then (stopped n).left n l else s.core n) told t ∧
    (∀ id f, Tbl.get? t.flights id = some f → ¬ mine f) ∧
    ∀ id f, Tbl.get? s.flights id = some f → ¬ mine f → f.isFence = false →
      ∃ u, Tbl.get? t.flights id = some u ∧ u = { f with stage := u.stage } ∧
        (u.stage = f.stage ∨ (∃ line a, f.stage = .fill line a ∧ u.stage = .fill line false) ∨
          ∃ pa c, f.stage = .home pa c ∧ u.stage = .home pa false))

end Sys2Proof.Machine
end

