-- ==== Sys2Proof/Certificates/Slice0/Obligations.lean ====
section
/-! DEFINITION. The statements for the provers. -/

open Sys2Proof Sys2Proof.Machine

/-- R100, R101: integer arithmetic on words. R100: counts and the reversal of bits. CLZ and CTZ of 0 are 32. R100, R102: 64-bit sums,
differences and products in pairs, low word in the even register. R103-R105: immediates are sign-extended; shifts take five bits; LUI places
19 bits above 13 zeros. -/
def Obligations.IntegerResults : Prop :=
  (∀ d a b : Reg,
    Writes (.add d a b) [d, a, b] d (fun m => m.reg a + m.reg b) ∧
    Writes (.sub d a b) [d, a, b] d (fun m => m.reg a - m.reg b) ∧
    Writes (.and d a b) [d, a, b] d (fun m => m.reg a &&& m.reg b) ∧
    Writes (.or d a b) [d, a, b] d (fun m => m.reg a ||| m.reg b) ∧
    Writes (.xor d a b) [d, a, b] d (fun m => m.reg a ^^^ m.reg b) ∧
    Writes (.andn d a b) [d, a, b] d (fun m => m.reg a &&& ~~~m.reg b) ∧
    Writes (.sll d a b) [d, a, b] d (fun m => m.reg a <<< ((m.reg b).toNat % 32)) ∧
    Writes (.srl d a b) [d, a, b] d (fun m => m.reg a >>> ((m.reg b).toNat % 32)) ∧
    Writes (.sra d a b) [d, a, b] d (fun m => (m.reg a).sshiftRight ((m.reg b).toNat % 32)) ∧
    Writes (.rol d a b) [d, a, b] d (fun m => (m.reg a).rotateLeft ((m.reg b).toNat % 32)) ∧
    Writes (.min d a b) [d, a, b] d (fun m => BitVec.ofInt 32 (min (m.reg a).toInt (m.reg b).toInt)) ∧
    Writes (.max d a b) [d, a, b] d (fun m => BitVec.ofInt 32 (max (m.reg a).toInt (m.reg b).toInt)) ∧
    Writes (.minu d a b) [d, a, b] d (fun m => BitVec.ofNat 32 (min (m.reg a).toNat (m.reg b).toNat)) ∧
    Writes (.maxu d a b) [d, a, b] d (fun m => BitVec.ofNat 32 (max (m.reg a).toNat (m.reg b).toNat)) ∧
    Writes (.mul d a b) [d, a, b] d (fun m => BitVec.ofNat 32 ((m.reg a).toNat * (m.reg b).toNat)) ∧
    Writes (.mulh d a b) [d, a, b] d (fun m => BitVec.ofInt 32 ((m.reg a).toInt * (m.reg b).toInt / 2 ^ 32)) ∧
    Writes (.mulhu d a b) [d, a, b] d (fun m => BitVec.ofNat 32 ((m.reg a).toNat * (m.reg b).toNat / 2 ^ 32)) ∧
    Writes (.adds d a b) [d, a, b] d
      (fun m => BitVec.ofInt 32 (min (max ((m.reg a).toInt + (m.reg b).toInt) (-(2 ^ 31))) (2 ^ 31 - 1))) ∧
    Writes (.subs d a b) [d, a, b] d
      (fun m => BitVec.ofInt 32 (min (max ((m.reg a).toInt - (m.reg b).toInt) (-(2 ^ 31))) (2 ^ 31 - 1)))) ∧
  (∀ d a : Reg,
    Writes (.clz d a) [d, a] d (fun m => BitVec.ofNat 32 (32 - (m.reg a).toNat.size)) ∧
    Writes (.ctz d a) [d, a] d (fun m => if m.reg a = 0#32 then 32#32 else BitVec.ofNat 32 (padicValNat 2 (m.reg a).toNat)) ∧
    Writes (.popc d a) [d, a] d (fun m => BitVec.ofNat 32 ((List.range 32).countP fun i => (m.reg a).getLsbD i)) ∧
    Writes (.brev d a) [d, a] d (fun m => BitVec.ofFnLE fun i : Fin 32 => (m.reg a).getLsbD (31 - i))) ∧
  (∀ d a b : Reg,
    WritesPair (.addD d a b) (pairOf d ++ pairOf a ++ pairOf b) d (fun m => m.pair a + m.pair b) ∧
    WritesPair (.subD d a b) (pairOf d ++ pairOf a ++ pairOf b) d (fun m => m.pair a - m.pair b) ∧
    WritesPair (.mulWD d a b) (pairOf d ++ [a, b]) d (fun m => BitVec.ofInt 64 ((m.reg a).toInt * (m.reg b).toInt)) ∧
    WritesPair (.muluWD d a b) (pairOf d ++ [a, b]) d (fun m => BitVec.ofNat 64 ((m.reg a).toNat * (m.reg b).toNat))) ∧
  (∀ (d a : Reg) (imm : BitVec 13) (sh : BitVec 5) (u : BitVec 19),
    Writes (.addi d a imm) [d, a] d (fun m => BitVec.ofInt 32 ((m.reg a).toInt + imm.toInt)) ∧
    Writes (.andi d a imm) [d, a] d (fun m => m.reg a &&& imm.signExtend 32) ∧
    Writes (.ori d a imm) [d, a] d (fun m => m.reg a ||| imm.signExtend 32) ∧
    Writes (.xori d a imm) [d, a] d (fun m => m.reg a ^^^ imm.signExtend 32) ∧
    Writes (.muli d a imm) [d, a] d (fun m => BitVec.ofInt 32 ((m.reg a).toInt * imm.toInt)) ∧
    Writes (.slli d a sh) [d, a] d (fun m => m.reg a <<< sh.toNat) ∧
    Writes (.srli d a sh) [d, a] d (fun m => m.reg a >>> sh.toNat) ∧
    Writes (.srai d a sh) [d, a] d (fun m => (m.reg a).sshiftRight sh.toNat) ∧
    Writes (.roli d a sh) [d, a] d (fun m => (m.reg a).rotateLeft sh.toNat) ∧
    Writes (.lui d u) [d] d (fun _ => BitVec.ofNat 32 (u.toNat * 2 ^ 13)))

/-- R106, R107: comparisons into a predicate. The integer conditions are 0 EQ, 1 NE, 2 LT, 3 LE, 4 GT, 5 GE, 6 LTU and 7 GEU; FP comparisons
also raise NV as R106 says. A destination p7 stays true. R106: what the integer conditions compare. R17, R108, R109, R112, R114, R115:
selection, predicate logic, the moves between predicates and registers, NOP, FSTAT and SETRM. -/
def Obligations.ComparisonAndPredicateResults : Prop :=
  (∀ (p : PReg) (a b : Reg) (cond : BitVec 3) (imm : BitVec 13),
    WritesPred (.cmpI32 p a b cond) [a, b] p (fun m => (intCompare cond (m.reg a) (m.reg b), 0#5)) ∧
    WritesPred (.cmpI64 p a b cond) (pairOf a ++ pairOf b) p (fun m => (intCompare cond (m.pair a) (m.pair b), 0#5)) ∧
    WritesPred (.cmpi p cond a imm) [a] p (fun m => (intCompare cond (m.reg a) (imm.signExtend 32), 0#5)) ∧
    WritesPred (.cmpF32 p a b cond) [a, b] p (fun m => fpCompare fp32 cond (m.reg a).toNat (m.reg b).toNat) ∧
    WritesPred (.cmpF64 p a b cond) (pairOf a ++ pairOf b) p
      (fun m => fpCompare fp64 cond (m.pair a).toNat (m.pair b).toNat)) ∧
  (∀ x y : Word,
    (intCompare 0#3 x y = true ↔ x.toNat = y.toNat) ∧ (intCompare 1#3 x y = true ↔ x.toNat ≠ y.toNat) ∧
    (intCompare 2#3 x y = true ↔ x.toInt < y.toInt) ∧ (intCompare 3#3 x y = true ↔ x.toInt ≤ y.toInt) ∧
    (intCompare 4#3 x y = true ↔ y.toInt < x.toInt) ∧ (intCompare 5#3 x y = true ↔ y.toInt ≤ x.toInt) ∧
    (intCompare 6#3 x y = true ↔ x.toNat < y.toNat) ∧ (intCompare 7#3 x y = true ↔ y.toNat ≤ x.toNat)) ∧
  (∀ (d a b : Reg) (p q r : PReg),
    Writes (.sel d a b p) [d, a, b] d (fun m => if m.pred p then m.reg a else m.reg b) ∧
    WritesPred (.pand p q r) [] p (fun m => (m.pred q && m.pred r, 0#5)) ∧
    WritesPred (.por p q r) [] p (fun m => (m.pred q || m.pred r, 0#5)) ∧
    WritesPred (.pxor p q r) [] p (fun m => (m.pred q != m.pred r, 0#5)) ∧
    WritesPred (.pnot p q) [] p (fun m => (!m.pred q, 0#5)) ∧
    Writes (.p2g d) [d] d (fun m => BitVec.ofNat 32 (m.preds.toNat + 128)) ∧
    LaneResult (.g2p a b) (fun m => m.Ready [a, b])
      (fun m => { m with preds := BitVec.ofFnLE fun i : Fin 7 =>
                    if (m.reg b).getLsbD i then (m.reg a).getLsbD i else m.preds.getLsbD i }) ∧
    LaneResult .nop (fun _ => True) (fun m => m) ∧
    LaneResult (.fstat d a) (fun m => m.Ready [d, a])
      (fun m => { m.setReg d (m.fflags.setWidth 32) with fflags := m.fflags &&& ~~~((m.reg a).setWidth 5) }) ∧
    LaneResult (.setrm d a) (fun m => m.Ready [d, a] ∧ (m.reg a).toNat ≤ 4)
      (fun m => { m.setReg d (m.frm.setWidth 32) with frm := (m.reg a).setWidth 3 }))

/-- R44, R46, R125, R126, R128: FP32 arithmetic in the rounding mode of FRM; the flags are ORed into FFLAGS. FABS, FNEG, FSGN and FCLS raise
nothing. FFLR, FCEIL and FRNDN ignore FRM. R125, R126, R128: FP64 arithmetic on pairs. DCLS writes one register. R41, R127, R128: the packed
forms work on the two halves of a register, element 0 in [15:0], with the flags of both. -/
def Obligations.FloatResults : Prop :=
  (∀ d a b c : Reg,
    WritesFp (.fadd d a b) [d, a, b] d (fun m => fpAdd fp32 m.rm (m.reg a).toNat (m.reg b).toNat) ∧
    WritesFp (.fsub d a b) [d, a, b] d (fun m => fpSub fp32 m.rm (m.reg a).toNat (m.reg b).toNat) ∧
    WritesFp (.fmul d a b) [d, a, b] d (fun m => fpMul fp32 m.rm (m.reg a).toNat (m.reg b).toNat) ∧
    WritesFp (.fmin d a b) [d, a, b] d (fun m => fpMinMax fp32 false (m.reg a).toNat (m.reg b).toNat) ∧
    WritesFp (.fmax d a b) [d, a, b] d (fun m => fpMinMax fp32 true (m.reg a).toNat (m.reg b).toNat) ∧
    Writes (.fabs d a) [d, a] d (fun m => BitVec.ofNat 32 ((m.reg a).toNat % 2 ^ 31)) ∧
    Writes (.fneg d a) [d, a] d (fun m => m.reg a + 0x80000000#32) ∧
    Writes (.fsgn d a b) [d, a, b] d (fun m => BitVec.ofNat 32 ((m.reg a).toNat % 2 ^ 31 + (m.reg b).toNat / 2 ^ 31 * 2 ^ 31)) ∧
    Writes (.fcls d a) [d, a] d (fun m => BitVec.ofNat 32 (fpClass fp32 (m.reg a).toNat)) ∧
    WritesFp (.fflr d a) [d, a] d (fun m => fpIntegral fp32 .rdn (m.reg a).toNat) ∧
    WritesFp (.fceil d a) [d, a] d (fun m => fpIntegral fp32 .rup (m.reg a).toNat) ∧
    WritesFp (.frndn d a) [d, a] d (fun m => fpIntegral fp32 .rne (m.reg a).toNat) ∧
    WritesFp (.ffma d a b c) [d, a, b, c] d (fun m => fpFma fp32 m.rm (m.reg a).toNat (m.reg b).toNat (m.reg c).toNat) ∧
    WritesFp (.ffms d a b c) [d, a, b, c] d (fun m => fpFms fp32 m.rm (m.reg a).toNat (m.reg b).toNat (m.reg c).toNat)) ∧
  (∀ d a b c : Reg,
    WritesFpPair (.dadd d a b) (pairOf d ++ pairOf a ++ pairOf b) d (fun m => fpAdd fp64 m.rm (m.pair a).toNat (m.pair b).toNat) ∧
    WritesFpPair (.dsub d a b) (pairOf d ++ pairOf a ++ pairOf b) d (fun m => fpSub fp64 m.rm (m.pair a).toNat (m.pair b).toNat) ∧
    WritesFpPair (.dmul d a b) (pairOf d ++ pairOf a ++ pairOf b) d (fun m => fpMul fp64 m.rm (m.pair a).toNat (m.pair b).toNat) ∧
    WritesFpPair (.dmin d a b) (pairOf d ++ pairOf a ++ pairOf b) d (fun m => fpMinMax fp64 false (m.pair a).toNat (m.pair b).toNat) ∧
    WritesFpPair (.dmax d a b) (pairOf d ++ pairOf a ++ pairOf b) d (fun m => fpMinMax fp64 true (m.pair a).toNat (m.pair b).toNat) ∧
    WritesPair (.dabs d a) (pairOf d ++ pairOf a) d (fun m => BitVec.ofNat 64 ((m.pair a).toNat % 2 ^ 63)) ∧
    WritesPair (.dneg d a) (pairOf d ++ pairOf a) d (fun m => m.pair a + 0x8000000000000000#64) ∧
    WritesPair (.dsgn d a b) (pairOf d ++ pairOf a ++ pairOf b) d (fun m => BitVec.ofNat 64 ((m.pair a).toNat % 2 ^ 63 + (m.pair b).toNat / 2 ^ 63 * 2 ^ 63)) ∧
    Writes (.dcls d a) ([d] ++ pairOf a) d (fun m => BitVec.ofNat 32 (fpClass fp64 (m.pair a).toNat)) ∧
    WritesFpPair (.dflr d a) (pairOf d ++ pairOf a) d (fun m => fpIntegral fp64 .rdn (m.pair a).toNat) ∧
    WritesFpPair (.dceil d a) (pairOf d ++ pairOf a) d (fun m => fpIntegral fp64 .rup (m.pair a).toNat) ∧
    WritesFpPair (.drndn d a) (pairOf d ++ pairOf a) d (fun m => fpIntegral fp64 .rne (m.pair a).toNat) ∧
    WritesFpPair (.dfma d a b c) (pairOf d ++ pairOf a ++ pairOf b ++ pairOf c) d
      (fun m => fpFma fp64 m.rm (m.pair a).toNat (m.pair b).toNat (m.pair c).toNat) ∧
    WritesFpPair (.dfms d a b c) (pairOf d ++ pairOf a ++ pairOf b ++ pairOf c) d
      (fun m => fpFms fp64 m.rm (m.pair a).toNat (m.pair b).toNat (m.pair c).toNat)) ∧
  (∀ d a b c : Reg,
    WritesFp (.add2 d a b) [d, a, b] d (fun m => bothHalves (fpAdd fp16 m.rm) (m.reg a) (m.reg b)) ∧
    WritesFp (.sub2 d a b) [d, a, b] d (fun m => bothHalves (fpSub fp16 m.rm) (m.reg a) (m.reg b)) ∧
    WritesFp (.mul2 d a b) [d, a, b] d (fun m => bothHalves (fpMul fp16 m.rm) (m.reg a) (m.reg b)) ∧
    WritesFp (.min2 d a b) [d, a, b] d (fun m => bothHalves (fpMinMax fp16 false) (m.reg a) (m.reg b)) ∧
    WritesFp (.max2 d a b) [d, a, b] d (fun m => bothHalves (fpMinMax fp16 true) (m.reg a) (m.reg b)) ∧
    WritesFp (.add2Bf d a b) [d, a, b] d (fun m => bothHalves (fpAdd bf16 m.rm) (m.reg a) (m.reg b)) ∧
    WritesFp (.sub2Bf d a b) [d, a, b] d (fun m => bothHalves (fpSub bf16 m.rm) (m.reg a) (m.reg b)) ∧
    WritesFp (.mul2Bf d a b) [d, a, b] d (fun m => bothHalves (fpMul bf16 m.rm) (m.reg a) (m.reg b)) ∧
    WritesFp (.min2Bf d a b) [d, a, b] d (fun m => bothHalves (fpMinMax bf16 false) (m.reg a) (m.reg b)) ∧
    WritesFp (.max2Bf d a b) [d, a, b] d (fun m => bothHalves (fpMinMax bf16 true) (m.reg a) (m.reg b)) ∧
    WritesFp (.hfma d a b c) [d, a, b, c] d
      (fun m => bothHalves3 (fpFma fp16 m.rm) (m.reg a) (m.reg b) (m.reg c)) ∧
    WritesFp (.hfmaBf d a b c) [d, a, b, c] d
      (fun m => bothHalves3 (fpFma bf16 m.rm) (m.reg a) (m.reg b) (m.reg c)))

/-- R130-R133: conversions in the rounding mode the instruction names, 7 standing for FRM. Integer results are clamped. R66-R68, R134: the
special functions, in RNE whatever FRM holds; DRCP and DRSQ on pairs. -/
def Obligations.ConversionAndSpecialFunctionResults : Prop :=
  (∀ (d a : Reg) (rm : BitVec 3),
    WritesFp (.f2i d a rm) [d, a] d (fun m => asBits 32 (fpToInt fp32 (m.cvtRm rm) (-(2 ^ 31)) (2 ^ 31 - 1) (m.reg a).toNat)) ∧
    WritesFp (.f2u d a rm) [d, a] d (fun m => asBits 32 (fpToInt fp32 (m.cvtRm rm) 0 (2 ^ 32 - 1) (m.reg a).toNat)) ∧
    WritesFp (.i2f d a rm) [d, a] d (fun m => fpOfInt fp32 (m.cvtRm rm) (m.reg a).toInt) ∧
    WritesFp (.u2f d a rm) [d, a] d (fun m => fpOfInt fp32 (m.cvtRm rm) ((m.reg a).toNat : Int)) ∧
    WritesFp (.d2f d a rm) ([d] ++ pairOf a) d (fun m => fpNarrow fp64 fp32 false (m.cvtRm rm) (m.pair a).toNat) ∧
    WritesFpPair (.f2d d a rm) (pairOf d ++ [a]) d (fun m => fpWiden fp32 fp64 (m.reg a).toNat) ∧
    WritesFp (.d2i d a rm) ([d] ++ pairOf a) d (fun m => asBits 32 (fpToInt fp64 (m.cvtRm rm) (-(2 ^ 31)) (2 ^ 31 - 1) (m.pair a).toNat)) ∧
    WritesFpPair (.i2d d a rm) (pairOf d ++ [a]) d (fun m => fpOfInt fp64 .rne (m.reg a).toInt) ∧
    WritesFp (.f2h d a rm) [d, a] d (fun m => fpNarrow fp32 fp16 false (m.cvtRm rm) (m.reg a).toNat) ∧
    WritesFp (.h2f d a rm) [d, a] d (fun m => fpWiden fp16 fp32 ((m.reg a).toNat % 2 ^ 16)) ∧
    WritesFp (.f2bf d a rm) [d, a] d (fun m => fpNarrow fp32 bf16 false (m.cvtRm rm) (m.reg a).toNat) ∧
    WritesFp (.bf2f d a rm) [d, a] d (fun m => fpWiden bf16 fp32 ((m.reg a).toNat % 2 ^ 16)) ∧
    WritesFpPair (.d2l d a rm) (pairOf d ++ pairOf a) d (fun m => asBits 64 (fpToInt fp64 (m.cvtRm rm) (-(2 ^ 63)) (2 ^ 63 - 1) (m.pair a).toNat)) ∧
    WritesFpPair (.l2d d a rm) (pairOf d ++ pairOf a) d (fun m => fpOfInt fp64 (m.cvtRm rm) (m.pair a).toInt) ∧
    WritesFp (.f2h2 d a rm) ([d] ++ pairOf a) d
      (fun m => let e (r : Reg) := fpNarrow fp32 fp16 false (m.cvtRm rm) (m.reg r).toNat
        ((e a).1 + 65536 * (e (a + 1#6)).1, (e a).2 ||| (e (a + 1#6)).2))) ∧
  (∀ d a : Reg,
    WritesFp (.rcp d a) [d, a] d (fun m => fpRecip fp32 12 (m.reg a).toNat) ∧
    WritesFp (.rsq d a) [d, a] d (fun m => fpRsqrt fp32 12 (m.reg a).toNat) ∧
    WritesFp (.log2 d a) [d, a] d (fun m => fpLog2 (m.reg a).toNat) ∧
    WritesFp (.exp2 d a) [d, a] d (fun m => fpExp2 (m.reg a).toNat) ∧
    WritesFp (.sinr d a) [d, a] d (fun m => fpSinr (m.reg a).toNat) ∧
    WritesFp (.cosr d a) [d, a] d (fun m => fpCosr (m.reg a).toNat) ∧
    WritesFpPair (.drcp d a) (pairOf d ++ pairOf a) d (fun m => fpRecip fp64 24 (m.pair a).toNat) ∧
    WritesFpPair (.drsq d a) (pairOf d ++ pairOf a) d (fun m => fpRsqrt fp64 24 (m.pair a).toNat))

/-- R111: BFE and BFI. The control word's position is [4:0] and its length [13:8]; the field ends at bit 31 at the latest; [16] says that
BFE extends the sign. R136-R138: packing to and unpacking from 8-bit formats and B4 blocks. `rm` is the mode of the control word [2:0], 7
standing for FRM; the saturate control is [3]. A control word outside R136 raises "reserved code" (see `PreciseFaultResults`). -/
def Obligations.BitFieldAndPackingResults : Prop :=
  (∀ d a b c : Reg,
    Writes (.bfe d a b) [d, a, b] d (fun m =>
      let p := (m.reg b).toNat % 32
      let l := min ((m.reg b).toNat / 256 % 64) (32 - p)
      BitVec.ofFnLE fun i : Fin 32 =>
        if i.val < l then (m.reg a).getLsbD (p + i) else (m.reg b).getLsbD 16 && l != 0 && (m.reg a).getLsbD (p + l - 1)) ∧
    Writes (.bfi d a b c) [d, a, b, c] d (fun m =>
      let p := (m.reg b).toNat % 32
      let l := min ((m.reg b).toNat / 256 % 64) (32 - p)
      BitVec.ofFnLE fun i : Fin 32 =>
        if p ≤ i.val ∧ i.val < p + l then (m.reg a).getLsbD (i - p) else (m.reg c).getLsbD i)) ∧
  (∀ d a b : Reg,
    (∀ (i : Instr) (f : Fmt), (i, f) ∈ [(.pke4 d a b, e4m3), (.pke5 d a b, e5m2)] →
      LaneResult i (fun m => m.Ready ([d, b] ++ groupCodes a 4) ∧ (m.reg b).toNat < 16 ∧ (m.reg b).toNat % 8 ≠ 5 ∧ (m.reg b).toNat % 8 ≠ 6)
        fun m =>
          let e (k : Nat) := fpNarrow fp32 f ((m.reg b).getLsbD 3) (m.cvtRm ((m.reg b).setWidth 3)) (m.reg (a + BitVec.ofNat 6 k)).toNat
          (m.setReg d (BitVec.ofNat 32 ((e 0).1 + 2 ^ 8 * (e 1).1 + 2 ^ 16 * (e 2).1 + 2 ^ 24 * (e 3).1))).raise
            ((e 0).2 ||| (e 1).2 ||| (e 2).2 ||| (e 3).2)) ∧
    (∀ (i : Instr) (f : Fmt) (nv : Bool), (i, f, nv) ∈ [(.upe4 d a, e4m3, false), (.upe5 d a, e5m2, true)] →
      LaneResult i (fun m => m.Ready (groupCodes d 4 ++ [a]))
        fun m =>
          let e (k : Nat) := fpWiden f fp32 ((m.reg a).toNat / 2 ^ (8 * k) % 2 ^ 8)
          let r := (((m.setReg d (BitVec.ofNat 32 (e 0).1)).setReg (d + 1#6) (BitVec.ofNat 32 (e 1).1)).setReg (d + 2#6)
            (BitVec.ofNat 32 (e 2).1)).setReg (d + 3#6) (BitVec.ofNat 32 (e 3).1)
          if nv then r.raise ((e 0).2 ||| (e 1).2 ||| (e 2).2 ||| (e 3).2) else r) ∧
    LaneResult (.pkb4 d a b) (fun m => m.Ready (pairOf d ++ [b] ++ groupCodes a 8) ∧ (m.reg b).toNat < 8 ∧ (m.reg b).toNat ≠ 5 ∧ (m.reg b).toNat ≠ 6)
      (fun m =>
        let r := packB4 (m.cvtRm ((m.reg b).setWidth 3)) ((groupCodes a 8).map fun c => fp32.value (m.reg c).toNat)
        ((m.setReg d r.1).setReg (d + 1#6) r.2.1).raise r.2.2) ∧
    LaneResult (.upb4 d a)
      (fun m => m.Ready (groupCodes d 8 ++ pairOf a) ∧ (m.reg (a + 1#6)).toNat < 2 ^ 16 ∧
        (m.reg (a + 1#6)).toNat % 256 ≠ 255 ∧ (m.reg (a + 1#6)).toNat / 256 % 128 ≠ 127)
      (fun m =>
        let e (k : Nat) : FpRes :=
          match b4Value (m.reg a) ((m.reg (a + 1#6)).setWidth 16) k with
          | .fin n 0 x => (fp32.code (.fin n 0 x), 0#5)
          | .fin n (q + 1) x => fp32.round m.rm n (q + 1) x
          | v => (fp32.code v, 0#5)
        (m.setGroup d ((List.range 8).map fun k => BitVec.ofNat 32 (e k).1)).raise
          ((List.range 8).foldl (fun f k => f ||| (e k).2) 0#5)))

/-- R84, R94: a 16-bit form does what its 32-bit instruction does with d as the first source. R19, R110: what MOVS reads. A read of CYC
gives the low word of the counter, which has moved on by an unknown number of cycles (a free value, log 9), and latches its high word for
CYCH; with none latched CYCH reads the counter's own. -/
def Obligations.ShortFormAndSpecialRegisterResults : Prop :=
  (∀ (d : Reg) (b : BitVec 5) (s : State) (n k : Nat) (g : Group) (slot : Nat) (m : Micro),
    s.Member n k g slot m → m.Ready [d, reg16 b] →
    (∀ i j : Instr, (i, j) ∈
        [(.add16 d b, .add d d (reg16 b)), (.sub16 d b, .sub d d (reg16 b)), (.and16 d b, .and d d (reg16 b)),
         (.or16 d b, .or d d (reg16 b)), (.xor16 d b, .xor d d (reg16 b)), (.sll16 d b, .sll d d (reg16 b)),
         (.srl16 d b, .srl d d (reg16 b)), (.sra16 d b, .sra d d (reg16 b)), (.mul16 d b, .mul d d (reg16 b)),
         (.fadd16 d b, .fadd d d (reg16 b)), (.fsub16 d b, .fsub d d (reg16 b)), (.fmul16 d b, .fmul d d (reg16 b)),
         (.fmin16 d b, .fmin d d (reg16 b)), (.fmax16 d b, .fmax d d (reg16 b)), (.addi16 d b, .addi d d (b.signExtend 13))] →
      Answers i s fun t => Answers j s fun u => t.microAt n slot = u.microAt n slot ∧ OnlyMembers n g s t) ∧
    Answers (.mov16 d b) s fun t => t.microAt n slot = some (m.setReg d (m.reg (reg16 b))) ∧ OnlyMembers n g s t) ∧
  (∀ (d : Reg) (s : State) (n k : Nat) (g : Group) (slot : Nat) (m : Micro),
    s.Member n k g slot m → m.Ready [d] →
    (∀ (i : BitVec 6) (v : Nat), (i, v) ∈
        [(0#6, 0), (1#6, ((s.core n).place g.launch slot).2.1), (2#6, (s.core n).grantOf g.launch), (3#6, slot), (4#6, m.gen.toNat),
         (5#6, ((s.core n).place g.launch slot).1), (6#6, n % 10 + 32 * (n / 10) + 512 * s.cardNo), (7#6, clusterOf n), (8#6, g.launch),
         (19#6, m.fflags.toNat), (20#6, m.frm.toNat), (22#6, m.csp.toNat), (23#6, m.resume.toNat), (28#6, (s.core n).stale.toNat),
         (29#6, m.role), (30#6, ((s.core n).place g.launch slot).2.2.length)] →
      Answers (.movs d i) s fun t => t.microAt n slot = some (m.setReg d (BitVec.ofNat 32 v)) ∧ OnlyMembers n g s t) ∧
    (∀ r, s.res? n g.launch = some r → Answers (.movs d 21#6) s fun t =>
      t.microAt n slot = some (m.setReg d (BitVec.ofInt 32 r.budget)) ∧ OnlyMembers n g s t) ∧
    (∀ j : Fin 8, Answers (.movs d (BitVec.ofNat 6 (9 + j))) s fun t =>
      t.microAt n slot = some (m.setReg d (BitVec.ofNat 32 (s.levelIndex n g.launch slot j))) ∧ OnlyMembers n g s t) ∧
    (∀ j : Fin 4, Answers (.movs d (BitVec.ofNat 6 (24 + j))) s fun t =>
      t.microAt n slot = some (m.setReg d ((s.core n).cwp[j.val])) ∧ OnlyMembers n g s t) ∧
    (let timed (t : State) : Prop :=
       OnlyMembers n g { s.modCore n (fun c => { c with cyc := (t.core n).cyc }) with fresh := s.fresh + 1 } t
     Answers (.movs d 17#6) s (fun t =>
       t.microAt n slot = some { m.setReg d (loWord (t.core n).cyc) with cych := some (hiWord (t.core n).cyc) } ∧ timed t) ∧
     Answers (.movs d 18#6) s fun t =>
       t.microAt n slot = some (m.setReg d (m.cych.getD (hiWord (t.core n).cyc))) ∧ timed t))

/-- R146, R147: SHFL takes a of lane b, ROTL of lane LANE + b around the set, BFLY of lane LANE XOR b[5:0], BCAST of the lane that b of the
lowest active lane names; a lane that is inactive or outside the set gives the own a. R148: votes over the active lanes, and their ballot in
a pair. -/
def Obligations.LaneExchangeAndVoteResults : Prop :=
  (∀ d a b : Reg,
    let pick (lanes : List (Option Micro)) (j : Nat) (m : Micro) : Word :=
      match lanes[j]? with
      | some (some u) => u.reg a
      | _ => m.reg a
    SetResult (.shfl d a b) [d, a, b] (fun lanes _ m => m.setReg d (pick lanes (m.reg b).toNat m)) ∧
    SetResult (.rotl d a b) [d, a, b]
      (fun lanes lane m => m.setReg d (pick lanes ((lane + (m.reg b).toNat) % lanes.length) m)) ∧
    SetResult (.bfly d a b) [d, a, b] (fun lanes lane m => m.setReg d (pick lanes (lane ^^^ ((m.reg b).toNat % 64)) m)) ∧
    SetResult (.bcast d a b) [d, a, b]
      (fun lanes _ m => m.setReg d (pick lanes (((actives lanes).head?.map fun u => (u.reg b).toNat).getD (m.reg b).toNat) m))) ∧
  (∀ (p q : PReg) (d : Reg),
    SetResult (.voteall p q) [] (fun lanes _ m => m.setPred p ((actives lanes).all fun u => u.pred q)) ∧
    SetResult (.voteany p q) [] (fun lanes _ m => m.setPred p ((actives lanes).any fun u => u.pred q)) ∧
    SetResult (.ballot d q) (pairOf d) (fun lanes _ m => m.setPair d
      (BitVec.ofFnLE fun i : Fin 64 => match lanes[i.val]? with
        | some (some u) => u.pred q
        | _ => false)))

/-- R59, R151: integer reductions over the active lanes. R60, R61, R151: FP sums in the tree over LANE and in sequence, where an inactive
lane gives -0; minima and maxima over the active lanes. -/
def Obligations.ReductionResults : Prop :=
  (∀ d a : Reg,
    SetResult (.radd d a) [d, a] (fun lanes _ m => m.setReg d (((actives lanes).map fun u => u.reg a).sum)) ∧
    SetResult (.rmin d a) [d, a] (fun lanes _ m =>
      m.setReg d (BitVec.ofInt 32 ((actives lanes).foldl (fun v u => min v (u.reg a).toInt) (2 ^ 31 - 1)))) ∧
    SetResult (.rmax d a) [d, a] (fun lanes _ m =>
      m.setReg d (BitVec.ofInt 32 ((actives lanes).foldl (fun v u => max v (u.reg a).toInt) (-(2 ^ 31))))) ∧
    SetResult (.rminu d a) [d, a] (fun lanes _ m =>
      m.setReg d (BitVec.ofNat 32 ((actives lanes).foldl (fun v u => min v (u.reg a).toNat) (2 ^ 32 - 1)))) ∧
    SetResult (.rmaxu d a) [d, a] (fun lanes _ m =>
      m.setReg d (BitVec.ofNat 32 ((actives lanes).foldl (fun v u => max v (u.reg a).toNat) 0))) ∧
    SetResult (.rand d a) [d, a] (fun lanes _ m => m.setReg d ((actives lanes).foldl (fun v u => v &&& u.reg a) (BitVec.allOnes 32))) ∧
    SetResult (.ror d a) [d, a] (fun lanes _ m => m.setReg d ((actives lanes).foldl (fun v u => v ||| u.reg a) 0#32)) ∧
    SetResult (.rxor d a) [d, a] (fun lanes _ m => m.setReg d ((actives lanes).foldl (fun v u => v ^^^ u.reg a) 0#32)) ∧
    SetResult (.sadd d a) [d, a] (fun lanes lane m =>
      m.setReg d (((actives (lanes.take (lane + 1))).map fun u => u.reg a).sum)) ∧
    SetResult (.saddx d a) [d, a] (fun lanes lane m => m.setReg d (((actives (lanes.take lane)).map fun u => u.reg a).sum))) ∧
  (∀ d a : Reg,
    let words (lanes : List (Option Micro)) : List Nat := lanes.map fun x => (x.map fun u => (u.reg a).toNat).getD 0x80000000
    let out (m : Micro) (r : FpRes) : Micro := (m.setReg d (BitVec.ofNat 32 r.1)).raise r.2
    SetResult (.rfadd d a) [d, a] (fun lanes _ m => out m (treeSum fp32 7 (words lanes) 0#5)) ∧
    SetResult (.sfadd d a) [d, a] (fun lanes lane m => out m (scanSum ((words lanes).take (lane + 1)))) ∧
    SetResult (.rfmin d a) [d, a] (fun lanes _ m => out m (reduceMinMax false (lanes.map fun x => x.map fun u => u.reg a))) ∧
    SetResult (.rfmax d a) [d, a] (fun lanes _ m => out m (reduceMinMax true (lanes.map fun x => x.map fun u => u.reg a))) ∧
    SetResult (.rdadd d a) (pairOf d ++ pairOf a) (fun lanes _ m =>
      let r := treeSum fp64 7 (lanes.map fun x => (x.map fun u => (u.pair a).toNat).getD 0x8000000000000000) 0#5
      (m.setPair d (BitVec.ofNat 64 r.1)).raise r.2))

/-- R62-R64, R152, R153: the exact accumulators of the sets with an active lane. XCLR clears them, XADD adds a, XMAD adds exact products, of
every active lane in ascending LANE; XRND and XRNDD round the accumulator of the member's set in RNE and keep it. R149, R150: LINKR reads,
and LINKW writes, a general register of a live micro-thread of the launch, its own slot included, that has one of that number with no result
outstanding; of several LINKWs to one register the highest issuing slot wins. Nothing else changes. -/
def Obligations.ExactAccumulatorAndLinkResults : Prop :=
  (∀ d a b : Reg,
    XacResult .xclr [] (fun _ _ => Xac.zero) (fun _ m => m) ∧
    XacResult (.xadd a) [a] (fun lanes old => lanes.foldl (fun x u => x.addTerm (fp32.value (u.reg a).toNat)) old) (fun _ m => m) ∧
    XacResult (.xmad a b) [a, b]
      (fun lanes old => lanes.foldl (fun x u => x.addTerm (xacProduct (u.reg a).toNat (u.reg b).toNat)) old) (fun _ m => m) ∧
    XacResult (.xrnd d) [d] (fun _ old => old)
      (fun x m => (m.setReg d (BitVec.ofNat 32 (x.rounded fp32).1)).raise (x.rounded fp32).2) ∧
    XacResult (.xrndd d) (pairOf d) (fun _ old => old)
      (fun x m => (m.setPair d (BitVec.ofNat 64 (x.rounded fp64).1)).raise (x.rounded fp64).2)) ∧
  (∀ (d a num : Reg) (s : State) (n k : Nat) (g : Group), num.toNat < 56 →
    -- the micro-thread in the slot that `m` names has a settled register of that number
    let linked (m u : Micro) : Prop :=
      (m.reg a).toNat < 1024 ∧ s.microAt n (m.reg a).toNat = some u ∧ u.owner = some g.launch ∧ u.life ≠ .created ∧ u.life ≠ .retired ∧
        num.toNat < u.bud ∧ u.pend.getLsbD num.toNat = false
    (∀ (slot : Nat) (m u : Micro), s.Member n k g slot m → m.owner = some g.launch → m.Ready [d, a] → linked m u →
      u.bad.getLsbD num.toNat = false →
      Answers (.linkr d a num) s fun t => t.microAt n slot = some (m.setReg d (u.reg num)) ∧ OnlyMembers n g s t) ∧
    ((∃ c, s.seat? = some (n, k, c, g)) → g.members.Pairwise (fun x y => x < y) →
      (∀ x ∈ g.members, ∃ m u, s.microAt n x = some m ∧ m.Ready [d, a] ∧ linked m u) →
      let names (y x : Nat) : Prop := ∃ m, s.microAt n y = some m ∧ (m.reg a).toNat = x
      Answers (.linkw d a num) s fun t =>
        (∀ y ∈ g.members, ∀ m x u, s.microAt n y = some m → (m.reg a).toNat = x → s.microAt n x = some u →
          (∀ z ∈ g.members, y < z → ¬ names z x) → t.microAt n x = some (u.setReg num (m.reg d))) ∧
        (∀ x, (∀ y ∈ g.members, ¬ names y x) → t.microAt n x = s.microAt n x) ∧
        OnlySlots n g.launch (fun r => r) s t))

/-- R155, R156, R158: what an address is found to be at issue: its target, or the first breach in the order R155, R156, R158. R154, R159,
R160: LD and ST of every size and kind: EA is the base pair plus the offset scaled by the size. -/
def Obligations.LoadAndStorePosts : Prop :=
  (∀ (n : Nat) (r : Res) (ea : DWord) (size : Nat) (arr : Bool), size ≠ 0 →
    let form := ea.toNat / 2 ^ 48
    let upper := ea.toNat / 2 ^ 47
    let off := ea.toNat % 2 ^ 22
    let twin := decide (ea.toNat / 2 ^ 40 % 2 = 1)
    let dx := (ea.extractLsb' 35 5).toInt
    let dy := (ea.extractLsb' 31 4).toInt
    let x : Int := n % 10 + dx
    let y : Int := n / 10 + dy
    -- a global address
    (form ≠ 0xFFFE → form ≠ 0xFFFD → arr = false → upper ≠ 0 → upper ≠ 0x1FFFF →
      checkAddr n r ea size arr = .error (.protection 3 off)) ∧
    (form ≠ 0xFFFE → form ≠ 0xFFFD → arr = false → upper = 0 ∨ upper = 0x1FFFF →
      checkAddr n r ea size arr = if ea.toNat % size = 0 then .ok (.global (ea.toNat % 2 ^ 48)) else .error (.misaligned off)) ∧
    (form ≠ 0xFFFE → form ≠ 0xFFFD → arr = true → checkAddr n r ea size arr = .error (.arrayRange off)) ∧
    -- an array address in the absolute form
    (form = 0xFFFE →
      ea.toNat / 2 ^ 41 % 2 ^ 7 ≠ 0 ∨ ea.toNat / 2 ^ 22 % 2 ^ 9 ≠ 0 ∨ 0x23FFFF < off ∨ 10 ≤ ea.toNat / 2 ^ 35 % 32 ∨
        8 ≤ ea.toNat / 2 ^ 31 % 16 →
      checkAddr n r ea size arr = .error (.arrayRange off)) ∧
    (form = 0xFFFE → ea.toNat / 2 ^ 41 % 2 ^ 7 = 0 → ea.toNat / 2 ^ 22 % 2 ^ 9 = 0 → off ≤ 0x23FFFF →
      ea.toNat / 2 ^ 35 % 32 < 10 → ea.toNat / 2 ^ 31 % 16 < 8 →
      checkAddr n r ea size arr =
        if ea.toNat % size = 0 then .ok (.pool twin (10 * (ea.toNat / 2 ^ 31 % 16) + ea.toNat / 2 ^ 35 % 32) off)
        else .error (.misaligned off)) ∧
    -- in the relative form, without W
    (form = 0xFFFD → ea.toNat / 2 ^ 42 % 2 ^ 6 ≠ 0 ∨ ea.toNat / 2 ^ 22 % 2 ^ 9 ≠ 0 ∨ 0x23FFFF < off →
      checkAddr n r ea size arr = .error (.arrayRange off)) ∧
    (form = 0xFFFD → ea.toNat / 2 ^ 41 % 2 = 0 → ¬ (0 ≤ x ∧ x < 10 ∧ 0 ≤ y ∧ y < 8) →
      checkAddr n r ea size arr = .error (.arrayRange off)) ∧
    (form = 0xFFFD → ea.toNat / 2 ^ 41 % 2 ^ 7 = 0 → ea.toNat / 2 ^ 22 % 2 ^ 9 = 0 → off ≤ 0x23FFFF →
      0 ≤ x → x < 10 → 0 ≤ y → y < 8 →
      checkAddr n r ea size arr =
        if ea.toNat % size = 0 then .ok (.pool twin (10 * y.toNat + x.toNat) off) else .error (.misaligned off)) ∧
    -- in the relative form with W, where the rectangle lies on the mesh
    (form = 0xFFFD → ea.toNat / 2 ^ 41 % 2 ^ 7 = 1 → ea.toNat / 2 ^ 22 % 2 ^ 9 = 0 → off ≤ 0x23FFFF →
      ∀ w h : Nat, w = recNat r.record 14 1 → h = recNat r.record 15 1 → 0 < w → 0 < h → r.x0 + w ≤ 10 → r.y0 + h ≤ 8 →
      checkAddr n r ea size arr =
        if ea.toNat % size = 0 then
          .ok (.pool twin (10 * (r.y0 + ((y - r.y0) % h).toNat) + (r.x0 + ((x - r.x0) % w).toNat)) off)
        else .error (.misaligned off))) ∧
  (∀ (d base : Reg) (size : BitVec 3) (kind : BitVec 2) (off : BitVec 8),
    let bytes : Nat := [1, 1, 2, 2, 4, 8, 16, 16].getD size.toNat 0
    let regs : Nat := [1, 1, 1, 1, 1, 2, 4, 1].getD size.toNat 0
    let ea (m : Micro) : DWord := BitVec.ofInt 64 ((m.pair base).toNat + off.toInt * bytes)
    size ≠ 7#3 →
    Posts (.ld d base size kind off) (groupCodes d regs ++ pairOf base) false d regs ea
      (fun _ n _ m r o => (∃ t, checkAddr n r (ea m) bytes (kind == 2#2) = .ok t) ∧ o = .load size kind) ∧
    Posts (.st d base size kind off) (groupCodes d regs ++ pairOf base) true d 0 ea
      (fun _ n _ m r o => (∃ t, checkAddr n r (ea m) bytes (kind == 2#2) = .ok t) ∧
        o = .store bytes kind (BitVec.ofNat 128 (joinWords (m.group d regs) % 2 ^ (8 * bytes)))))

/-- R163, R164: every atomic enters the store FIFO with its operand; the .d forms take pairs, ACAS twice as much. R163: the value an atomic
leaves at its location, by its f7 (rows 0-15; an FP sum of both words in RNE). -/
def Obligations.AtomicResults : Prop :=
  (∀ d a b : Reg,
    let atomic (i : Instr) (f7 : BitVec 7) (nb nd size : Nat) : Prop :=
      Posts i (groupCodes d nd ++ pairOf a ++ groupCodes b nb) true d nd (fun m => m.pair a)
        (fun _ n _ m r o => (∃ t, checkAddr n r (m.pair a) size false = .ok t) ∧
          o = .atomic f7 (BitVec.ofNat 128 (joinWords (m.group b nb))))
    atomic (.aaddW d a b) 0#7 1 1 4 ∧ atomic (.aandW d a b) 1#7 1 1 4 ∧ atomic (.aorW d a b) 2#7 1 1 4 ∧
    atomic (.axorW d a b) 3#7 1 1 4 ∧ atomic (.aminW d a b) 4#7 1 1 4 ∧ atomic (.amaxW d a b) 5#7 1 1 4 ∧
    atomic (.aminuW d a b) 6#7 1 1 4 ∧ atomic (.amaxuW d a b) 7#7 1 1 4 ∧ atomic (.aswapW d a b) 8#7 1 1 4 ∧
    atomic (.acasW d a b) 9#7 2 1 4 ∧ atomic (.afaddW d a b) 10#7 1 1 4 ∧ atomic (.aaddD d a b) 11#7 2 2 8 ∧
    atomic (.aswapD d a b) 12#7 2 2 8 ∧ atomic (.acasD d a b) 13#7 4 2 8 ∧ atomic (.afaddD d a b) 14#7 2 2 8) ∧
  (∀ (old : Nat) (v : QWord),
    let w := v.toNat % 2 ^ 32
    let d := v.toNat % 2 ^ 64
    (old < 2 ^ 32 →
      (atomResult 0#7 old v).1 = (old + w) % 2 ^ 32 ∧ (atomResult 1#7 old v).1 = old &&& w ∧
      (atomResult 2#7 old v).1 = old ||| w ∧ (atomResult 3#7 old v).1 = old ^^^ w ∧
      (atomResult 4#7 old v).1 = (if (BitVec.ofNat 32 old).toInt ≤ (BitVec.ofNat 32 w).toInt then old else w) ∧
      (atomResult 5#7 old v).1 = (if (BitVec.ofNat 32 old).toInt ≤ (BitVec.ofNat 32 w).toInt then w else old) ∧
      (atomResult 6#7 old v).1 = min old w ∧ (atomResult 7#7 old v).1 = max old w ∧ (atomResult 8#7 old v).1 = w ∧
      (atomResult 9#7 old v).1 = (if old = w then v.toNat / 2 ^ 32 % 2 ^ 32 else old) ∧
      atomResult 10#7 old v = fpAdd fp32 .rne old w) ∧
    (old < 2 ^ 64 →
      (atomResult 11#7 old v).1 = (old + d) % 2 ^ 64 ∧ (atomResult 12#7 old v).1 = d ∧
      (atomResult 13#7 old v).1 = (if old = d then v.toNat / 2 ^ 64 else old) ∧ atomResult 14#7 old v = fpAdd fp64 .rne old d))

/-- R166-R168: MRG reads its descriptors and leaves one merge in flight. R244, R265, R301, R302, R304, R337, R346: the posts to the engines
of a core. R204: MINT with a legal descriptor enters the store FIFO. -/
def Obligations.EngineMergeAndMintPosts : Prop :=
  (∀ d a b : Reg,
    let ks (m : Micro) : Nat := if (m.reg (a + 6#6)).getLsbD 0 then 8 else 4
    let streams (n : Nat) (m : Micro) (r : Res) : Prop :=
      (m.reg (a + 6#6)).toNat < 4 ∧ m.reg (a + 7#6) = 0#32 ∧
      (∃ t, checkAddr n r (m.pair a) (ks m) false = .ok t) ∧ ∃ t, checkAddr n r (m.pair (a + 2#6)) (ks m) false = .ok t
    let apart (m : Micro) (p : DWord) (count : Word) : Prop :=
      (m.pair b).toNat + (m.reg (b + 2#6)).toNat * ks m ≤ p.toNat ∨ p.toNat + count.toNat * ks m ≤ (m.pair b).toNat
    let writes (i : Instr) (f7 : BitVec 7) : Prop :=
      Posts i ([d] ++ groupCodes a 8 ++ groupCodes b 4) false d 1 (fun m => m.pair a)
        (fun _ n _ m r o => streams n m r ∧ m.reg (b + 3#6) = 0#32 ∧ (∃ t, checkAddr n r (m.pair b) (ks m) false = .ok t) ∧
          apart m (m.pair a) (m.reg (a + 4#6)) ∧ apart m (m.pair (a + 2#6)) (m.reg (a + 5#6)) ∧
          o = .merge f7 (m.group a 8) (m.group b 4) Merge.start)
    Posts (.icount d a) ([d] ++ groupCodes a 8) false d 1 (fun m => m.pair a)
      (fun _ n _ m r o => streams n m r ∧ o = .merge 0#7 (m.group a 8) [] Merge.start) ∧
    writes (.iwrite d a b) 1#7 ∧ writes (.uwrite d a b) 2#7 ∧ writes (.mwrite d a b) 3#7) ∧
  (∀ (d a b : Reg) (ch : BitVec 2),
    Posts (.cpost d a b) (pairOf d ++ [a, b]) true d 2 (fun _ => 0#64)
      (fun s n _ m _ o => (m.reg b).toNat < 4 ∧ (m.reg a).toNat < 2 ^ 22 ∧ (m.reg a).toNat % 32 = 0 ∧
        (s.core n).inSp (m.reg a).toNat 32 = true ∧ s.roomIn n (m.reg b).toNat ∧ o = .copy (m.reg b).toNat (m.reg a).toNat) ∧
    Posts (.ccancel a) [a] true 0#6 0 (fun _ => 0#64) (fun _ _ _ m _ o => (m.reg a).toNat < 4 ∧ o = .cancel (m.reg a).toNat) ∧
    Posts (.csig ch a) [a] true 0#6 0 (fun _ => 0#64)
      (fun s n _ m _ o => (m.reg a).toNat < 64 ∧ s.roomIn n ch.toNat ∧ o = .csig ch.toNat (m.reg a).toNat) ∧
    Posts (.gpost d a) [d, a] true d 1 (fun _ => 0#64)
      (fun s n _ m _ o => (m.reg a).toNat < 2 ^ 22 ∧ (m.reg a).toNat % 64 = 0 ∧ (s.core n).inSp (m.reg a).toNat 64 = true ∧
        s.roomIn n 6 ∧ o = .gpost (m.reg a).toNat) ∧
    Posts (.gstat d a) (pairOf d ++ [a]) true d 2 (fun _ => 0#64) (fun _ _ _ m _ o => o = .gstat (m.reg a)) ∧
    Posts (.tpost d a) (pairOf d ++ [a]) true d 2 (fun _ => 0#64)
      (fun s n _ m _ o => (m.reg a).toNat < 2 ^ 22 ∧ (m.reg a).toNat % 128 = 0 ∧ (s.core n).inSp (m.reg a).toNat 128 = true ∧
        s.roomIn n 5 ∧ o = .tpost (m.reg a).toNat) ∧
    Posts (.hcount d a) (pairOf d ++ [a]) true d 2 (fun _ => 0#64)
      (fun _ _ _ m _ o => (m.reg a).toNat < 8 ∧ o = .hcount (m.reg a).toNat) ∧
    Posts (.tcancel a) [a] true 0#6 0 (fun _ => 0#64) (fun _ _ _ m _ o => o = .tcancel (m.reg a)) ∧
    -- TCFG by its control word: a decode table, a piece of the walker's code, a hit queue's record
    Posts (.tcfg a b) [a, b] true 0#6 0 (fun _ => 0#64)
      (fun s n _ m _ o =>
        let c := (m.reg b).toNat
        (m.reg a).toNat < 2 ^ 22 ∧ s.roomIn n 5 ∧ o = .tcfg (m.reg a).toNat (m.reg b) ∧
        (c = 0 ∧ (m.reg a).toNat % 64 = 0 ∧ (s.core n).inSp (m.reg a).toNat 512 = true ∨
         (c / 2 ^ 26 = 16 ∧ c / 2 ^ 11 % 2 ^ 5 = 0 ∧ 1 ≤ c % 2 ^ 11 ∧ c / 2 ^ 16 % 2 ^ 10 + c % 2 ^ 11 ≤ 1024 ∧
           (m.reg a).toNat % 4 = 0 ∧ (s.core n).inSp (m.reg a).toNat (4 * (c % 2 ^ 11)) = true) ∨
         (c / 2 ^ 3 = 2 ^ 28 ∧ (m.reg a).toNat % 16 = 0 ∧ (s.core n).inSp (m.reg a).toNat 16 = true)))) ∧
  (∀ d a : Reg,
    Posts (.mint d a) (pairOf d ++ groupCodes a 8) true d 2 (fun m => m.pair a)
      (fun _ _ _ m _ o =>
        ((m.pair a).toNat < 2 ^ 47 ∨ 2 ^ 64 - 2 ^ 47 ≤ (m.pair a).toNat) ∧ (m.pair a).toNat % 4096 = 0 ∧
        8 ≤ (m.reg (a + 2#6)).toNat ∧ (m.reg (a + 2#6)).toNat ≤ 0x8000000 ∧ (m.reg (a + 2#6)).toNat % 8 = 0 ∧
        (m.reg (a + 3#6)).toNat % 8 = 0 ∧ (m.reg (a + 4#6)).toNat < 4 ∧ m.reg (a + 5#6) = 0#32 ∧ m.reg (a + 6#6) = 0#32 ∧
        m.reg (a + 7#6) = 0#32 ∧ o = .mint (m.group a 8)))

/-- R253, R254: the queue instructions, with a header of 64 bytes in the own scratchpad; QINIT also checks ring and capacity. R257-R261:
SPAWN and SENDW to a core of the launch's rectangle, with room in the outbox. -/
def Obligations.QueueAndMessagePosts : Prop :=
  (∀ d a b : Reg,
    let header (n : Nat) (s : State) (r : Res) (ea : DWord) (h : Nat) : Prop :=
      checkAddr n r ea 64 true = .ok (.pool false n h) ∧ (s.core n).inSp h 64 = true
    Posts (.qinit d a b) ([d] ++ pairOf a ++ [b]) true 0#6 0 (fun m => m.pair a)
      (fun s n _ m r o => ∃ h, header n s r (m.pair a) h ∧ (∃ e, e ≤ 16 ∧ (m.reg b).toNat = 2 ^ e) ∧ (m.reg d).toNat < 2 ^ 22 ∧
        (m.reg d).toNat % 4 = 0 ∧ (s.core n).inSp (m.reg d).toNat (4 * (m.reg b).toNat) = true ∧
        o = .queue 0 h (m.reg d).toNat (m.reg b)) ∧
    Posts (.qpush a b) (pairOf a ++ [b]) true 0#6 0 (fun m => m.pair a)
      (fun s n _ m r o => ∃ h, header n s r (m.pair a) h ∧ o = .queue 1 h 0 (m.reg b)) ∧
    Posts (.qpop d a) ([d] ++ pairOf a) true d 1 (fun m => m.pair a)
      (fun s n _ m r o => ∃ h, header n s r (m.pair a) h ∧ o = .queue 2 h 0 0#32) ∧
    Posts (.qpushn d a b) ([d] ++ pairOf a ++ [b]) true d 1 (fun m => m.pair a)
      (fun s n _ m r o => ∃ h, header n s r (m.pair a) h ∧ o = .queue 3 h 0 (m.reg b)) ∧
    Posts (.qpopn d a) (pairOf d ++ pairOf a) true d 2 (fun m => m.pair a)
      (fun s n _ m r o => ∃ h, header n s r (m.pair a) h ∧ o = .queue 4 h 0 0#32) ∧
    Posts (.qcount d a) ([d] ++ pairOf a) true d 1 (fun m => m.pair a)
      (fun s n _ m r o => ∃ h, header n s r (m.pair a) h ∧ o = .queue 5 h 0 0#32)) ∧
  (∀ d a b : Reg,
    -- the core that x in bits 4-0, y in bits 8-5 and the card in bit 9 of a word name
    let toCore (s : State) (r : Res) (w t : Nat) : Prop :=
      t = 10 * (w / 32 % 16) + w % 32 ∧ w % 32 < 10 ∧ w / 32 % 16 < 8 ∧ w / 512 % 2 = (if s.station.card then 1 else 0) ∧
        r.inRect t = true
    Posts (.spawn d a b) ([d] ++ groupCodes a 4 ++ pairOf b) true d 1 (fun _ => 0#64)
      (fun s n _ m r o => ∃ t, (m.reg (b + 1#6)).toNat < 1024 ∧ toCore s r (m.reg (b + 1#6)).toNat t ∧ s.roomIn n 7 ∧
        o = .spawn (m.reg b) t (m.group a 4)) ∧
    Posts (.sendw a b) ([a] ++ pairOf b) true 0#6 0 (fun _ => 0#64)
      (fun s n _ m r o => ∃ t, (m.reg b).toNat < 2 ^ 21 ∧ (m.reg (b + 1#6)).toNat < 2 ^ 16 ∧ toCore s r (m.reg b).toNat t ∧
        s.roomIn n 7 ∧ o = .sendw (m.reg a) t ((m.reg b).toNat / 1024 % 1024) ((m.reg b).getLsbD 20) ((m.reg (b + 1#6)).setWidth 16)))

/-- R173, R174: a fence at scope 0 has no effect. At a wider scope it is in flight until its condition holds: if it holds already the fence
is gone, and with a full fence or an acquire at scope 4 or wider the cluster keeps no data line. R174: what a release and an acquire at the
device scope wait for among the issuer's earlier accesses to global memory. -/
def Obligations.FenceResults : Prop :=
  (∀ scope : BitVec 3,
    let fence (i : Instr) (kind : Nat) : Prop :=
      ∀ (s : State) (n k : Nat) (g : Group) (slot : Nat) (m : Micro) (r : Res), s.Alone n k g slot m r → s.Sound →
      let f : Flight :=
        { core := n, launch := g.launch, agent := .micro, who := [⟨slot, m.gen, true, false⟩], fig := g.fig, off := g.off
          word := s.curWord, ll := 8, dst := 0#6, dstN := 0, ea := 0#64, sent := s.nextId
          op := .fence kind scope.toNat (if kind ≠ 1 ∧ 4 ≤ scope.toNat then (s.cluster (clusterOf n)).wtb else [])
          stage := .request }
      let done := s.fenceDone s.nextId f
      Answers i s fun t =>
        (scope = 0#3 → t.flights = s.flights ∧ t.clusters = s.clusters) ∧
        (scope ≠ 0#3 → Tbl.get? t.flights s.nextId = if done then none else some f) ∧
        (4 ≤ scope.toNat → kind = 0 ∨ kind = 1 → done = true →
          ∀ x ∈ (t.cluster (clusterOf n)).lines, x.node = true) ∧
        t.microAt n slot = some m ∧ OnlyCharged n s t ∧ (t.core n).fifo = (s.core n).fifo ∧ OnlyTurnFence n slot s t
    fence (.fenceFull scope) 0 ∧ fence (.fenceAcq scope) 1 ∧ fence (.fenceRel scope) 2 ∧ fence (.fenceRsc scope) 3) ∧
  (∀ (s : State) (id : Nat) (f : Flight),
    (∀ sz k, f.op = .load sz k →
      (s.fenceSees id f 1 4 = true ↔ f.bound = true) ∧ (s.fenceSees id f 2 4 = true ↔ f.bound = true)) ∧
    (∀ n k v, f.op = .store n k v → s.inFifo f.core id = true → f.stage ≠ .acked → f.stage ≠ .faulted →
      s.fenceSees id f 1 4 = true ∧ (s.remoteStore f = false → s.fenceSees id f 2 4 = false) ∧
      (s.remoteStore f = true → s.fenceSees id f 2 4 = true ∧ (f.stage ≠ .twin → s.fenceSees id f 3 4 = false))))

/-- R256, R261: RECVW takes the mailbox's word; with the mailbox empty and nothing linked it becomes the mailbox's waiter. R265: WAITEV
consumes a set latch; else the micro-thread waits on the line. YIELD marks the next figure as newly eligible; R260: QUIT marks the
micro-thread, which ends with its figure. R243: QJOIN with a mask that names no queue has no effect; else the join enters the store FIFO,
and with bit 7 (WAIT) the micro-thread waits for it. -/
def Obligations.WaitResults : Prop :=
  (∀ (d : Reg) (s : State) (n k : Nat) (g : Group) (slot : Nat) (m : Micro) (r : Res),
    s.Alone n k g slot m r → s.Sound → m.Ready [d] →
    let f (st : Stage) : Flight :=
      { core := n, launch := g.launch, agent := .micro, who := [⟨slot, m.gen, true, false⟩], fig := g.fig, off := g.off
        word := s.curWord, ll := g.ll, dst := d, dstN := 1, ea := 0#64, sent := s.nextId, op := .recvw, stage := st }
    (∀ w, m.mailbox = some w → Answers (.recvw d) s fun t =>
      t.microAt n slot = some { m.setPend d 1 with mailbox := none } ∧
      Tbl.get? t.flights s.nextId = some (f (.reply (w.setWidth 128) 0#5)) ∧
      KeepsFlights s t ∧ OnlyCharged n s t ∧ (t.core n).fifo = (s.core n).fifo ∧ OnlyTurn n slot s t) ∧
    (m.mailbox = none → m.linked = .none → Answers (.recvw d) s fun t =>
      t.microAt n slot = some { m.setPend d 1 with linked := .recvw } ∧ Tbl.get? t.flights s.nextId = some (f .linked) ∧
      KeepsFlights s t ∧ OnlyCharged n s t ∧ (t.core n).fifo = (s.core n).fifo ∧ OnlyTurn n slot s t)) ∧
  ((∀ (a : Reg) (s : State) (n k : Nat) (g : Group) (slot : Nat) (m : Micro) (r : Res),
      s.Alone n k g slot m r → s.Sound → m.Ready [a] → (m.reg a).toNat < 64 →
      (r.latches.getLsbD (m.reg a).toNat = true → Answers (.waitev a) s fun t =>
        t.microAt n slot = some m ∧
        LaunchBecomes n g.launch (fun x => { x with latches := x.latches &&& ~~~(1#64 <<< (m.reg a).toNat) }) s t ∧
        (t.core n).fifo = (s.core n).fifo ∧ OnlyTurnFence n slot s t) ∧
      (r.latches.getLsbD (m.reg a).toNat = false → Answers (.waitev a) s fun t =>
        t.microAt n slot = some { m with evWaits := m.evWaits ||| (1#64 <<< (m.reg a).toNat) } ∧
        OnlyCharged n s t ∧ t.flights = s.flights ∧ (t.core n).fifo = (s.core n).fifo ∧ OnlyTurn n slot s t)) ∧
    LaneResult .yield (fun _ => True) (fun m => { m with yielding := true }) ∧
    LaneResult .quit (fun _ => True) (fun m => { m with quitting := true })) ∧
  (∀ (a : Reg) (s : State) (n k : Nat) (g : Group) (slot : Nat) (m : Micro) (r : Res),
    s.Alone n k g slot m r → s.Sound → m.Ready [a] → (m.reg a).toNat < 256 →
    (∀ q, q < 7 → (m.reg a).getLsbD q = true → s.roomIn n q) →
    Answers (.qjoin a) s fun t =>
      t.microAt n slot = some { m with
        joinWaits := m.joinWaits + if 128 < (m.reg a).toNat then 1 else 0 } ∧
      ((m.reg a).toNat % 128 = 0 → t.flights = s.flights ∧ (t.core n).fifo = (s.core n).fifo) ∧
      ((m.reg a).toNat % 128 ≠ 0 → (t.core n).fifo = (s.core n).fifo ++ [s.nextId] ∧
        ∃ f, Tbl.get? t.flights s.nextId = some f ∧ f.op = .join (m.reg a).toNat ∧ f.stage = .fifo ∧ f.core = n ∧
          f.who = [⟨slot, m.gen, true, false⟩]) ∧
      KeepsFlights s t ∧ OnlyCharged n s t ∧ OnlyTurn n slot s t)

/-- R222: SIGN sets COUNT of a register whose epoch is empty. R223: CVWAIT has no effect where nothing of the micro-thread stands in the
register's open epoch or in the array's queue. R219-R221, R225, R226: a legal MMA signs its register. A signature that does not close the
epoch joins it; one that closes it, and agrees with every other in format word and flags, sends one MMA with the operands of the lowest slot
to the array. -/
def Obligations.ConvergenceAndSignatureResults : Prop :=
  (∀ (cv : BitVec 4) (a : Reg) (s : State) (n k : Nat) (g : Group) (slot : Nat) (m : Micro) (r : Res),
    s.Alone n k g slot m r → s.Sound →
    (m.Ready [a] → 1 ≤ (m.reg a).toNat → (m.reg a).toNat ≤ 1024 → (r.cv cv.toNat).sigs = [] → Answers (.sign cv a) s fun t =>
      t.microAt n slot = some m ∧
      LaunchBecomes n g.launch
        (fun x => { x with cvs := x.cvs.mapIdx fun i v => if i = cv.toNat then ⟨(m.reg a).toNat, []⟩ else v }) s t ∧
      t.flights = s.flights ∧ (t.core n).fifo = (s.core n).fifo ∧ (t.core n).mx = (s.core n).mx ∧ OnlyTurn n slot s t) ∧
    ((∀ x ∈ (r.cv cv.toNat).sigs, x.slot ≠ slot) → (∀ e ∈ (s.core n).mx, e.launch ≠ g.launch) → Answers (.cvwait cv) s fun t =>
      t.microAt n slot = some m ∧ OnlyCharged n s t ∧ t.flights = s.flights ∧ (t.core n).fifo = (s.core n).fifo ∧
      (t.core n).mx = (s.core n).mx ∧ OnlyTurn n slot s t) ∧
    ((∃ x ∈ (r.cv cv.toNat).sigs, x.slot = slot ∧ x.gen = m.gen ∧ x.seq < s.nextId) → Answers (.cvwait cv) s fun t =>
      (∃ u, t.microAt n slot = some u ∧ u = { m with cvWaits := u.cvWaits } ∧
        Tbl.get? u.cvWaits cv.toNat = some s.nextId) ∧
      OnlyCharged n s t ∧ t.flights = s.flights ∧ (t.core n).fifo = (s.core n).fifo ∧ (t.core n).mx = (s.core n).mx ∧
      OnlyTurn n slot s t)) ∧
  (∀ (cv : BitVec 4) (a b : Reg) (sparse m32 ow : BitVec 1) (w : FormatWord)
      (s : State) (n k : Nat) (g : Group) (slot : Nat) (m : Micro) (r : Res),
    s.Alone n k g slot m r → s.Sound → r.away = false →
    s.MmaLegal n cv.toNat m r a b w (if m32 = 1#1 then 32 else 64) → s.roomIn n 4 →
    let v := r.cv cv.toNat
    let f7 : BitVec 7 := BitVec.ofNat 7 (sparse.toNat + 2 * m32.toNat + 4 * ow.toNat)
    let x : Sig := ⟨slot, m.gen, m.reg a, f7, m.reg b, m.reg (b + 1#6), g.fig, g.off, s.curWord, a ++ b, s.nextId⟩
    let keeps (t : State) : Prop :=
      t.microAt n slot = some m ∧ t.flights = s.flights ∧ (t.core n).fifo = (s.core n).fifo ∧ OnlyTurn n slot s t
    (v.sigs.length + 1 < v.count → Answers (.mma cv a b sparse m32 ow) s fun t =>
      LaunchBecomes n g.launch
        (fun r => { r with cvs := r.cvs.mapIdx fun i c => if i = cv.toNat then { v with sigs := v.sigs ++ [x] } else c }) s t ∧
      (t.core n).mx = (s.core n).mx ∧ keeps t) ∧
    (v.sigs.length + 1 = v.count → (∀ y ∈ v.sigs, y.fw = x.fw ∧ y.f7 = f7) → Answers (.mma cv a b sparse m32 ow) s fun t =>
      LaunchBecomes n g.launch
        (fun r => { r with cvs := r.cvs.mapIdx fun i c => if i = cv.toNat then { v with sigs := [] } else c }) s t ∧
      (∃ y e, y ∈ v.sigs ++ [x] ∧ (∀ z ∈ v.sigs ++ [x], y.slot ≤ z.slot) ∧ (t.core n).mx = (s.core n).mx ++ [e] ∧
        e.launch = g.launch ∧ e.op = .mma f7 x.fw y.p0 y.p1 cv.toNat (v.sigs ++ [x])) ∧ keeps t))

/-- R230-R234: an MXA instruction with legal operands enters the array's queue. -/
def Obligations.ArrayInstructionsEnter : Prop := ∀ (tile : BitVec 4) (sk : BitVec 2) (d a b : Reg),
  let enters (i : Instr) (rs : List Reg) (ok : State → Nat → Micro → Res → MxOp → Prop) : Prop :=
    ∀ (s : State) (n k : Nat) (g : Group) (slot : Nat) (m : Micro) (r : Res) (op : MxOp),
    s.Alone n k g slot m r → s.Sound → m.Ready rs → s.roomIn n 4 → ok s n m r op → Answers i s fun t =>
      (t.core n).mx = (s.core n).mx ++ [⟨g.launch, ⟨slot, m.gen, g.fig, g.off, s.curWord⟩, s.nextId, op⟩] ∧
      t.microAt n slot = some m ∧ OnlyCharged n s t ∧ t.flights = s.flights ∧ (t.core n).fifo = (s.core n).fifo ∧
      OnlyTurn n slot s t
  let pool (s : State) (n : Nat) (off align len : Nat) : Prop := off % align = 0 ∧ (s.core n).inSp off len = true
  enters (.accz tile) [] (fun _ _ _ r op => tile.toNat < r.tiles ∧ op = .accz tile.toNat) ∧
  enters (.accld tile a) [a] (fun s n m r op => (m.reg a).toNat < 2 ^ 22 ∧ pool s n (m.reg a).toNat 64 16384 ∧
    tile.toNat < r.tiles ∧ op = .accld tile.toNat (m.reg a).toNat) ∧
  -- RAW: 16 KiB, and b is not read as a format word
  enters (.accst tile a b) [a, b] (fun s n m r op => (m.reg a).toNat / 2 ^ 22 = 2 ^ 9 ∧
    pool s n ((m.reg a).toNat % 2 ^ 22) 64 16384 ∧ tile.toNat < r.tiles ∧ op = .accst tile.toNat (m.reg a) 0#32) ∧
  enters (.accst tile a b) [a, b] (fun s n m r op => ∃ w, (m.reg a).toNat < 2 ^ 22 ∧ formatWord (m.reg b) = some w ∧
    pool s n (m.reg a).toNat 64 (if w.af = 5 then 3072 else if w.af ≤ 1 then 8192 else 4096) ∧ tile.toNat < r.tiles ∧
    op = .accst tile.toNat (m.reg a) (m.reg b)) ∧
  enters (.wbld d a b) (pairOf d ++ [a, b]) (fun s n m r op => ∃ w, formatWord (m.reg b) = some w ∧
    (m.reg d).toNat < 2 ^ 11 ∧ (m.reg d).toNat < r.units ∧ (m.reg a).toNat < 2 ^ 22 ∧
    pool s n (m.reg a).toNat 64 (if w.bf = 5 then 3072 else 2048) ∧
    (m.reg (d + 1#6) = 0xFFFFFFFF#32 ∨ (m.reg (d + 1#6)).toNat < 2 ^ 22 ∧ pool s n (m.reg (d + 1#6)).toNat 4 4) ∧
    op = .wbld (m.reg d).toNat (m.reg (d + 1#6)) (m.reg a).toNat (m.reg b)) ∧
  enters (.skset sk a b) [a, b] (fun s n m _ op => (m.reg a).toNat < 2 ^ 22 ∧ (m.reg b).toNat < 2 ^ 16 ∧
    pool s n (m.reg a).toNat 2 (2 * (m.reg b).toNat) ∧ op = .skset sk.toNat (m.reg a).toNat (m.reg b).toNat)

/-- R267: LVARR records the arrival behind a release at the level's domain; LVWAIT of an arrival in an open episode waits for it, and
without one is done at once, as the acquire alone (log 17); LVSYNC does LVARR and LVWAIT. The levels are those the launch declares. R301, R317: HPOP of a micro-thread enters the store FIFO for it, with its eight
destinations pending. -/
def Obligations.LevelAndHitPopResults : Prop :=
  (∀ (lvl : BitVec 3) (s : State) (n k : Nat) (g : Group) (slot : Nat) (m : Micro) (r : Res),
    s.Alone n k g slot m r → s.Sound → lvl.toNat < recNat r.record 11 1 →
    let bit : BitVec 8 := 1#8 <<< lvl.toNat
    let dom := recNat r.record (128 + 8 * lvl.toNat) 1
    let arrives (t : State) : Prop :=
      ∃ id, s.nextId ≤ id ∧ (t.core n).fifo = (s.core n).fifo ++ [id] ∧
        (∃ f, Tbl.get? t.flights id = some f ∧ f.op = .arrive lvl.toNat ∧ f.stage = .fifo ∧ f.core = n ∧
          f.launch = g.launch ∧ f.who = [⟨slot, m.gen, true, false⟩]) ∧
        (dom ≠ 0 → s.nextId < id ∧ ∃ f, Tbl.get? t.flights s.nextId = some f ∧ f.core = n ∧
          f.who = [⟨slot, m.gen, false, false⟩] ∧ f.op = .fence 3 dom (if 4 ≤ dom then (s.cluster (clusterOf n)).wtb else []))
    (m.arrived.getLsbD lvl.toNat = false → Answers (.lvarr lvl) s fun t =>
      t.microAt n slot = some { m with arrived := m.arrived ||| bit } ∧ arrives t ∧ KeepsFlights s t ∧
      OnlyCharged n s t ∧ OnlyTurn n slot s t) ∧
    (m.arrived.getLsbD lvl.toNat = true → Answers (.lvwait lvl) s fun t =>
      t.microAt n slot = some { m with lvWaits := m.lvWaits ||| bit } ∧ t.flights = s.flights ∧
      (t.core n).fifo = (s.core n).fifo ∧ OnlyCharged n s t ∧ OnlyTurn n slot s t) ∧
    (m.arrived.getLsbD lvl.toNat = false → Answers (.lvwait lvl) s fun t =>
      t.microAt n slot = some m ∧ (t.core n).fifo = (s.core n).fifo ∧ OnlyCharged n s t ∧ OnlyTurnFence n slot s t) ∧
    (m.arrived.getLsbD lvl.toNat = false → Answers (.lvsync lvl) s fun t =>
      t.microAt n slot = some { m with arrived := m.arrived ||| bit, lvWaits := m.lvWaits ||| bit } ∧ arrives t ∧
      KeepsFlights s t ∧ OnlyCharged n s t ∧ OnlyTurn n slot s t)) ∧
  (∀ (d a : Reg) (s : State) (n k : Nat) (g : Group) (slot : Nat) (m : Micro) (r : Res),
    s.Alone n k g slot m r → s.Sound → m.life ≠ .faulted → Tbl.sorted (s.core n).slots = true → m.owner = some g.launch →
    m.Ready (groupCodes d 8 ++ [a]) → (m.reg a).toNat < 8 →
    Answers (.hpop d a) s fun t =>
      t.microAt n slot = some (m.setPend d 8) ∧ (t.core n).fifo = (s.core n).fifo ++ [s.nextId] ∧
      (∃ f, Tbl.get? t.flights s.nextId = some f ∧ f.op = .hpop (m.reg a).toNat ∧ f.stage = .fifo ∧ f.core = n ∧ f.dst = d ∧
        f.dstN = 8 ∧ f.who = [⟨slot, m.gen, true, false⟩]) ∧
      KeepsFlights s t ∧ OnlyCharged n s t ∧ OnlyTurn n slot s t)

/-- R27, R117: NEXT, BR, JMP, RUN, STOP and FAR where they do not transfer: a called figure is done, a free one goes on at the next figure.
R27, R75, R81, R83, R117: a transfer whose condition holds goes, in free mode, to a figure start: the figure plus 8 times the offset, or the
register's value. RUN enters free mode from called mode, and in free mode goes whatever its condition. R22, R117, R118: CALL goes to its
target and stores the next figure, 8 bytes, at CSP, which rises by 8; RET goes to the word below CSP, which falls by 8, once its pop may be performed in the order of the
micro-thread's accesses, and until then waits. The word is that of the own pool under the micro-thread's own pushes still in the FIFO. R25, R29, R260: a figure that ends after QUIT retires its micro-thread, where nothing of it is linked,
outstanding or deferred: the slot takes the next generation. -/
def Obligations.TrailerResults : Prop :=
  (∀ (aw : BitVec 8) (p : PReg) (sense : BitVec 1) (off : BitVec 10) (far : BitVec 25) (q : Reg),
    let on (len : Nat) (_ : State) (_ : Nat) (g : Group) (_ : Nat) (m : Micro) : Micro :=
      { m with pc := g.nextAt len, from_ := some (g.fig, g.off) }
    let done (_ : State) (_ : Nat) (_ : Group) (_ : Nat) (m : Micro) : Micro := { m with from_ := none }
    let free (_ : State) (_ : Nat) (_ : Group) (_ : Nat) (m : Micro) (_ : Res) : Prop := m.mode = .free
    let unmet (_ : State) (_ : Nat) (_ : Group) (_ : Nat) (m : Micro) (_ : Res) : Prop :=
      m.mode = .free ∧ m.pred p = (sense == 1#1)
    Trails (.next aw) aw (fun _ _ _ _ m _ => m.mode = .called) done ∧ Trails (.next aw) aw free (on 4) ∧
    Trails (.br p sense aw off) aw unmet (on 4) ∧
    Trails (.call p sense aw off) aw unmet (on 4) ∧
    Trails (.ret p sense aw) aw unmet (on 4) ∧
    Trails (.farOffset aw sense p far) aw unmet (on 8) ∧
    Trails (.farRegister aw sense p q) aw (fun s n g slot m r => unmet s n g slot m r ∧ m.codeOk q = true) (on 8) ∧
    Trails (.run p sense aw off) aw (fun _ _ _ _ m _ => m.mode = .called ∧ m.pred p = (sense == 1#1)) done ∧
    Trails (.stop p sense aw) aw (fun _ _ _ _ m _ => m.mode = .called) done ∧
    Trails (.stop p sense aw) aw unmet (on 4) ∧
    Trails (.stop p sense aw) aw (fun _ _ _ _ m _ => m.mode = .free ∧ m.pred p ≠ (sense == 1#1))
      (fun _ _ _ _ m => { m with mode := .called, from_ := none })) ∧
  (∀ (aw : BitVec 8) (p : PReg) (sense : BitVec 1) (off : BitVec 10) (far : BitVec 25) (q : Reg),
    let at_ (g : Group) (v : Int) : Word := BitVec.ofInt 32 (g.fig.toNat + 8 * v)
    let dest (target : Group → Micro → Word) (_ : State) (_ : Nat) (g : Group) (_ : Nat) (m : Micro) : Micro :=
      { m with mode := .free, pc := target g m, from_ := some (g.fig, g.off) }
    let met (target : Group → Micro → Word) (s : State) (n : Nat) (g : Group) (_ : Nat) (m : Micro) (_ : Res) : Prop :=
      m.mode = .free ∧ m.pred p ≠ (sense == 1#1) ∧ s.isStart n g.launch (target g m) = true
    let byOff (g : Group) (_ : Micro) : Word := at_ g off.toInt
    let byFar (g : Group) (_ : Micro) : Word := at_ g far.toInt
    let byReg (_ : Group) (m : Micro) : Word := m.reg q
    Trails (.br p sense aw off) aw (met byOff) (dest byOff) ∧
    Trails (.jmp aw off) aw (fun s n g _ m _ => m.mode = .free ∧ s.isStart n g.launch (byOff g m) = true) (dest byOff) ∧
    Trails (.farOffset aw sense p far) aw (met byFar) (dest byFar) ∧
    Trails (.farRegister aw sense p q) aw (fun s n g slot m r => met byReg s n g slot m r ∧ m.Ready [q]) (dest byReg) ∧
    Trails (.run p sense aw off) aw
      (fun s n g _ m _ => m.mode = .called ∧ m.pred p ≠ (sense == 1#1) ∧ s.isStart n g.launch (byOff g m) = true) (dest byOff) ∧
    Trails (.run p sense aw off) aw (fun s n g _ m _ => m.mode = .free ∧ s.isStart n g.launch (byOff g m) = true) (dest byOff)) ∧
  (∀ (aw : BitVec 8) (p : PReg) (sense : BitVec 1) (off : BitVec 10),
    let met (m : Micro) : Prop := m.mode = .free ∧ m.pred p ≠ (sense == 1#1)
    let target (g : Group) : Word := BitVec.ofInt 32 (g.fig.toNat + 8 * off.toInt)
    let back (s : State) (n slot : Nat) (m : Micro) : Word := s.popWord n slot m.gen (m.csp.toNat - 8)
    let base (slot : Nat) (r : Res) : Nat := recNat r.record 68 4 + 8 * recNat r.record 72 1 * slot
    Trails (.call p sense aw off) aw
      (fun s n g slot m r => met m ∧ m.csp.toNat ≠ base slot r + 8 * recNat r.record 72 1 ∧
        s.isStart n g.launch (target g) = true)
      (fun _ _ g _ m => { m with pc := target g, csp := m.csp + 8#32, from_ := some (g.fig, g.off) }) true ∧
    Trails (.ret p sense aw) aw
      (fun s n g slot m r => met m ∧ m.csp.toNat ≠ base slot r ∧ s.popMay n g.launch slot m = true ∧
        s.isStart n g.launch (back s n slot m) = true)
      (fun s n g slot m => { m with pc := back s n slot m, csp := m.csp - 8#32, from_ := some (g.fig, g.off) }) ∧
    (∀ (s : State) (n k : Nat) (g : Group) (slot : Nat) (m : Micro) (r : Res), s.Alone n k g slot m r →
      (met m → m.csp.toNat ≠ base slot r → s.popMay n g.launch slot m = false → Answers (.ret p sense aw) s fun t => t = s) ∧
      let own (q : Nat × Flight) : Prop := q.2.core = n ∧ q.2.agent = .micro ∧ ∃ w ∈ q.2.who, w.slot = slot ∧ w.gen = m.gen
      ((∀ q ∈ s.flights, ¬ own q) → s.popMay n g.launch slot m = true) ∧
      ((∀ q ∈ s.flights, own q → s.inFifo n q.1 = false) →
        back s n slot m = BitVec.ofNat 32 (s.peek (poolAddr n (m.csp.toNat - 8)) 4)) ∧
      ∀ id f data, s.flights = [(id, f)] → own (id, f) → s.inFifo n id = true → f.op = .store 8 2#2 data →
        s.targetOfFlight f = .pool false n (m.csp.toNat - 8) → back s n slot m = data.setWidth 32) ∧
    (∀ (s : State) (n k : Nat) (g : Group) (slot : Nat) (m : Micro) (r : Res),
      s.Alone n k g slot m r → s.Sound → s.EndsPlainly n k slot m → met m →
      m.csp.toNat ≠ base slot r + 8 * recNat r.record 72 1 → s.isStart n g.launch (target g) = true →
      Answers (.call p sense aw off) s fun t =>
        (t.core n).fifo = (s.core n).fifo ++ [s.nextId] ∧
        ∃ f, Tbl.get? t.flights s.nextId = some f ∧ f.core = n ∧ f.stage = .fifo ∧
          f.op = .store 8 2#2 ((g.nextAt 4).setWidth 128) ∧
          f.ea.toNat = 0xFFFE * 2 ^ 48 + (n % 10) * 2 ^ 35 + (n / 10) * 2 ^ 31 + m.csp.toNat)) ∧
  (∀ (aw : BitVec 8) (s : State) (n k : Nat) (g : Group) (slot : Nat) (m : Micro) (r : Res),
    s.Alone n k g slot m r → s.Sound → m.quitting = true → m.life ≠ .faulted → m.linked = .none → m.deferred = [] → m.pend = 0#64 →
    (∀ p ∈ s.flights, ∀ w ∈ p.2.who, p.2.core = n → p.2.agent = .micro → w.slot ≠ slot) →
    Answers (.next aw) s fun t =>
      (∃ u, t.microAt n slot = some u ∧ u.life = .retired ∧ u.gen = m.gen + 1#16 ∧ u.owner = m.owner ∧ u.bud = m.bud) ∧
      LaunchBecomes n g.launch (fun r => { r with figures := r.figures + 1 }) s t ∧ (t.core n).fifo = (s.core n).fifo ∧
      (t.core n).mx = (s.core n).mx ∧ OnlyTurn n slot s t)

/-- R27, R74, R119: where a trailer faults: in called mode, at a target that is no figure start, at a full or an empty call stack. R16, R18,
R76, R87, R90, R112, R115, R136-R138, R276: the precise faults of register-file instructions. A code at or above the budget is an illegal
instruction; a pending source or destination is an unawaited read, its DETAIL naming the code and, at [6], a write; a source whose word has
an uncorrectable error is a machine check with SUB 2 (R283), and writing a register makes it good again (R284); TRAP, EBRK, an admitted
reserved encoding, and a reserved rounding code or control word raise their own. -/
def Obligations.PreciseFaultResults : Prop :=
  (∀ (aw : BitVec 8) (p : PReg) (sense : BitVec 1) (off : BitVec 10) (far : BitVec 25) (q : Reg),
    let called (_ : State) (_ : Nat) (_ : Group) (_ : Nat) (m : Micro) (_ : Res) : Prop := m.mode = .called
    let met (m : Micro) : Prop := m.mode = .free ∧ m.pred p ≠ (sense == 1#1)
    let lost (s : State) (n : Nat) (g : Group) (_ : Nat) (m : Micro) (_ : Res) : Prop :=
      met m ∧ s.isStart n g.launch (BitVec.ofInt 32 (g.fig.toNat + 8 * off.toInt)) = false
    let illegal (s : State) (_ : Micro) : Byte × Word := (0x01#8, s.curWord)
    let form (_ : State) (_ : Micro) : Byte × Word := (0x02#8, BitVec.ofNat 32 (5 * 2 ^ 22))
    let stack (d : Nat) (_ : State) (m : Micro) : Byte × Word := (0x04#8, BitVec.ofNat 32 (d * 2 ^ 22 + m.csp.toNat % 2 ^ 22))
    TrailFaults (.br p sense aw off) aw called illegal ∧ TrailFaults (.jmp aw off) aw called illegal ∧
    TrailFaults (.call p sense aw off) aw called illegal ∧ TrailFaults (.ret p sense aw) aw called illegal ∧
    TrailFaults (.farOffset aw sense p far) aw called illegal ∧
    TrailFaults (.farRegister aw sense p q) aw called illegal ∧
    TrailFaults (.br p sense aw off) aw lost form ∧
    TrailFaults (.jmp aw off) aw (fun s n g _ m _ => m.mode = .free ∧
      s.isStart n g.launch (BitVec.ofInt 32 (g.fig.toNat + 8 * off.toInt)) = false) form ∧
    TrailFaults (.call p sense aw off) aw
      (fun _ _ _ slot m r => met m ∧ m.csp.toNat = recNat r.record 68 4 + 8 * recNat r.record 72 1 * slot + 8 * recNat r.record 72 1)
      (stack 1) ∧
    TrailFaults (.ret p sense aw) aw
      (fun _ _ _ slot m r => met m ∧ m.csp.toNat = recNat r.record 68 4 + 8 * recNat r.record 72 1 * slot) (stack 2)) ∧
  (∀ d a b : Reg,
    (∀ i : Instr, i ∈ [.add d a b, .sub d a b, .and d a b, .or d a b, .xor d a b, .sll d a b, .mul d a b, .fadd d a b, .fmul d a b] →
      LaneFault i (fun m => ∃ r ∈ [d, a, b], m.codeOk r = false) (fun _ w => (0x01#8, w)) ∧
      LaneFault i (fun m => (∀ r ∈ [d, a, b], m.codeOk r = true) ∧ m.pend.getLsbD a.toNat = true)
        (fun _ _ => (0x03#8, BitVec.ofNat 32 a.toNat)) ∧
      LaneFault i (fun m => (∀ r ∈ [d, a, b], m.codeOk r = true) ∧ m.Settled a ∧ m.pend.getLsbD b.toNat = true)
        (fun _ _ => (0x03#8, BitVec.ofNat 32 b.toNat)) ∧
      LaneFault i (fun m => (∀ r ∈ [d, a, b], m.codeOk r = true) ∧ m.Settled a ∧ m.Settled b ∧ m.pend.getLsbD d.toNat = true)
        (fun _ _ => (0x03#8, BitVec.ofNat 32 (64 + d.toNat))) ∧
      -- a source word with an uncorrectable error
      LaneFault i (fun m => (∀ r ∈ [d, a, b], m.codeOk r = true) ∧ m.pend.getLsbD a.toNat = false ∧ m.bad.getLsbD a.toNat = true)
        (fun _ _ => (0x0D#8, BitVec.ofNat 32 (2 * 2 ^ 22 + a.toNat))) ∧
      LaneFault i (fun m => (∀ r ∈ [d, a, b], m.codeOk r = true) ∧ m.Settled a ∧ m.pend.getLsbD b.toNat = false ∧
          m.bad.getLsbD b.toNat = true)
        (fun _ _ => (0x0D#8, BitVec.ofNat 32 (2 * 2 ^ 22 + b.toNat)))) ∧
    -- a destination with an uncorrectable error is written, and good again
    (∀ x ∈ ([(.add d a b, fun m => m.reg a + m.reg b), (.sub d a b, fun m => m.reg a - m.reg b),
        (.and d a b, fun m => m.reg a &&& m.reg b), (.or d a b, fun m => m.reg a ||| m.reg b),
        (.xor d a b, fun m => m.reg a ^^^ m.reg b)] : List (Instr × (Micro → Word))),
      LaneResult x.1 (fun m => (∀ r ∈ [d, a, b], m.codeOk r = true) ∧ m.Settled a ∧ m.Settled b ∧ m.pend.getLsbD d.toNat = false)
        fun m => m.setReg d (x.2 m)) ∧
    (∀ (m : Micro) (v : Word) (r : Reg), (m.setReg d v).bad.getLsbD r.toNat = if r = d then false else m.bad.getLsbD r.toNat) ∧
    LaneFault (.trap a) (fun m => m.Ready [a]) (fun m _ => (0x0B#8, m.reg a)) ∧
    LaneFault .ebrk (fun _ => True) (fun _ w => (0x0C#8, w)) ∧
    (∀ x : Word, LaneFault (.reservedEncoding x) (fun _ => True) (fun _ w => (0x01#8, w))) ∧
    LaneFault (.setrm d a) (fun m => m.Ready [d, a] ∧ 4 < (m.reg a).toNat) (fun _ _ => (0x09#8, 0#32)) ∧
    (∀ i : Instr, i ∈ [.pke4 d a b, .pke5 d a b] →
      LaneFault i (fun m => m.Ready ([d, b] ++ groupCodes a 4) ∧
          (16 ≤ (m.reg b).toNat ∨ (m.reg b).toNat % 8 = 5 ∨ (m.reg b).toNat % 8 = 6)) (fun _ _ => (0x09#8, 0#32))) ∧
    LaneFault (.pkb4 d a b) (fun m => m.Ready (pairOf d ++ [b] ++ groupCodes a 8) ∧
        (8 ≤ (m.reg b).toNat ∨ (m.reg b).toNat = 5 ∨ (m.reg b).toNat = 6)) (fun _ _ => (0x09#8, 0#32)) ∧
    LaneFault (.upb4 d a) (fun m => m.Ready (groupCodes d 8 ++ pairOf a) ∧
        (2 ^ 16 ≤ (m.reg (a + 1#6)).toNat ∨ (m.reg (a + 1#6)).toNat % 256 = 255 ∨ (m.reg (a + 1#6)).toNat / 256 % 128 = 127))
      (fun _ _ => (0x09#8, 0#32)))

/-- R305: the walker's registers: codes 0-28 hold what was last written, 29-31 read DEPTH, SPILLS and TAG and are not written. R106, R306,
R307: the moves, sums, comparisons and FP operations of the walker, in RNE and without flags, and its jumps. -/
def Obligations.WalkerRegisterResults : Prop :=
  (∀ (q : Query) (d r : WReg) (v : Word),
    (r = d → d.toNat < 29 → (q.setReg d v).reg r = v) ∧ (r ≠ d → (q.setReg d v).reg r = q.reg r) ∧
    (29 ≤ d.toNat → q.setReg d v = q) ∧
    q.reg 29#5 = BitVec.ofNat 32 (q.stack.length + q.spilled) ∧ q.reg 30#5 = BitVec.ofNat 32 q.spills ∧ q.reg 31#5 = q.tag) ∧
  (∀ (d a b : WReg) (imm : BitVec 11) (cond : BitVec 4), cond.toNat < 8 →
    let fp (f : Nat → Nat → FpRes) (q : Query) : Word := BitVec.ofNat 32 (f (q.reg a).toNat (q.reg b).toNat).1
    let any (_ : Query) (_ : Res) : Prop := True
    WalksTo (.movi d imm) any d (fun _ => BitVec.ofInt 32 imm.toInt) ∧
    WalksTo (.walkMov d a) any d (fun q => q.reg a) ∧
    WalksTo (.walkAdd d a b) any d (fun q => q.reg a + q.reg b) ∧
    WalksTo (.walkSub d a b) any d (fun q => q.reg a - q.reg b) ∧
    WalksTo (.walkFadd d a b) any d (fp (fpAdd fp32 .rne)) ∧
    WalksTo (.walkFmul d a b) any d (fp (fpMul fp32 .rne)) ∧
    WalksTo (.walkFmin d a b) any d (fp (fpMinMax fp32 false)) ∧
    WalksTo (.walkFmax d a b) any d (fp (fpMinMax fp32 true)) ∧
    WalksTo (.walkCmpI32 d a b cond) any d
      (fun q => if intCompare (BitVec.ofNat 3 cond.toNat) (q.reg a) (q.reg b) then 1#32 else 0#32) ∧
    WalksTo (.walkCmpF32 d a b cond) any d
      (fun q => if (fpCompare fp32 (BitVec.ofNat 3 cond.toNat) (q.reg a).toNat (q.reg b).toNat).1 then 1#32 else 0#32) ∧
    Walks (.walkBr a imm) (fun q _ => q.reg a ≠ 0#32 ∧ 0 ≤ q.pc + imm.toInt ∧ q.pc + imm.toInt ≤ 1023)
      (fun q => { q with pc := (q.pc + imm.toInt).toNat }) ∧
    Walks (.walkBr a imm) (fun q _ => q.reg a = 0#32 ∧ q.pc < 1023) (fun q => { q with pc := q.pc + 1 }) ∧
    Walks (.walkJmp imm) (fun q _ => 0 ≤ q.pc + imm.toInt ∧ q.pc + imm.toInt ≤ 1023)
      (fun q => { q with pc := (q.pc + imm.toInt).toNat }))

/-- R308, R310-R313: NFETCH begins a node's read, NDEC decodes its fields, and the tests write their results: BOX8's mask names the boxes
hit, TRI writes 1 and h0-h2 for a hit and 0 alone for a miss. -/
def Obligations.WalkerNodeResults : Prop := ∀ (d a b : WReg) (kind : BitVec 2) (ent : BitVec 4),
  let entry (q : Query) (r : Res) (x : List Byte) : Prop := ∃ i, q.dec = some i ∧ r.decode.getD i [] = x
  Walks (.nfetch a kind)
    (fun q _ => (q.reg a).getLsbD 31 = false ∧ (kind.getLsbD 0 = true → (q.reg a).getLsbD 0 = false) ∧
      canonical (BitVec.ofNat 64 (recNat q.record 8 8 + 128 * ((q.reg a).toNat % 2 ^ 30))) = true)
    (fun q => { q with node := q.reg a, buf := [], kind := none, dec := none, state := .nodeWait }) ∧
  (∀ x : Vector Word 8, Walks (.ndec ent)
    (fun q r => q.pc < 1023 ∧ (∃ k, q.kind = some k ∧ recNat (r.decode.getD ent.toNat []) 0 1 = if k = 3 then 2 else k) ∧
      (∀ i : Fin 8, decodeField q.buf (recNat (r.decode.getD ent.toNat []) (16 + 2 * i.val) 2) = some x[i]) ∧
      recNat (r.decode.getD ent.toNat []) 1 1 + 32 ≤ q.buf.length ∧ recNat (r.decode.getD ent.toNat []) 2 1 < q.buf.length)
    (fun q => { q with n := x, dec := some ent.toNat, pc := q.pc + 1 })) ∧
  WalksTo (.box8 d) (fun q r => ∃ x, entry q r x ∧ recNat x 0 1 ≠ 2) d boxResult ∧
  (∀ (q : Query) (i : Nat), i < 8 → ((boxResult q).getLsbD i = true ↔ (boxHit q i).isSome = true)) ∧
  (∀ t u v : Word, Walks (.tri d a)
    (fun q _ => q.pc < 1023 ∧ q.dec ≠ none ∧ (q.reg a).toNat % 4 = 0 ∧ (q.reg a).toNat + 36 ≤ q.buf.length ∧
      triHit q (q.reg a).toNat = some (t, u, v))
    (fun q => { q.setReg d 1#32 with h := #v[t, u, v, (q.setReg d 1#32).h[3]], pc := q.pc + 1 })) ∧
  WalksTo (.tri d a)
    (fun q _ => q.dec ≠ none ∧ (q.reg a).toNat % 4 = 0 ∧ (q.reg a).toNat + 36 ≤ q.buf.length ∧
      triHit q (q.reg a).toNat = none) d (fun _ => 0#32) ∧
  (∀ j : Fin 16, WalksTo (.split d a b) (fun q _ => (q.reg a).toNat = j) d
    (fun q => BitVec.ofNat 32 (fpSub fp32 .rne q.q[j].toNat (q.reg b).toNat).1)) ∧
  (∀ x : List Byte, WalksTo (.kcmp d a b)
    (fun q r => entry q r x ∧ recNat x 2 1 + 4 * (q.reg b).toNat ≤ q.buf.length) d
    (fun q => BitVec.ofNat 32 ((List.range (q.reg b).toNat).countP fun i =>
      decide (recNat q.buf (recNat x 2 1 + 4 * i) 4 ≤ (q.reg a).toNat)))) ∧
  WalksTo (.dist d a b)
    (fun q _ => q.dec ≠ none ∧ 1 ≤ (q.reg b).toNat ∧ (q.reg b).toNat ≤ 16 ∧ (q.reg a).toNat % 4 = 0 ∧
      (q.reg a).toNat + 4 * (q.reg b).toNat ≤ q.buf.length) d
    (fun q => BitVec.ofNat 32 ((List.range (q.reg b).toNat).foldl (fun acc i =>
      let diff := (fpSub fp32 .rne ((q.q[i]?).getD 0#32).toNat (recNat q.buf ((q.reg a).toNat + 4 * i) 4)).1
      (fpFma fp32 .rne diff diff acc).1) 0)) ∧
  (∀ x : List Byte, WalksTo (.child d a) (fun q r => entry q r x ∧ (q.reg a).toNat < 8) d
    (fun q => BitVec.ofNat 32
      (recNat q.buf ((if recNat x 0 1 = 2 then recNat x 1 1 else 192) + 4 * (q.reg a).toNat) 4)))

/-- R314: PUSH and POP on the short stack; a fifth entry spills the oldest to SPILL + 8 S of the poster's scratchpad, and a POP of an empty
short stack reads the last one spilled. R315, R316, R319: KBEST inserts and gives the bound of a full list, else +infinity; EMIT appends its
record to the hit queue's ring, or waits where the ring is full; END drains. R455: a sub-query's hits and its end go to its origin. -/
def Obligations.WalkerStackAndHitResults : Prop :=
  (∀ d a b : WReg,
    Walks (.push a b) (fun q _ => q.stack.length < 4 ∧ q.pc < 1023)
      (fun q => { q with stack := (q.reg a, q.reg b) :: q.stack, pc := q.pc + 1 }) ∧
    (∀ x rest, Walks (.pop d b) (fun q _ => q.stack = x :: rest ∧ q.pc < 1023)
      (fun q => { (({ q with stack := rest } : Query).setReg d x.1).setReg b x.2 with pc := q.pc + 1 })) ∧
    (∀ (s : State) (n e : Nat) (q : Query) (r : Res), s.Walking n e q r → s.Sound → q.pc < 1023 →
      let at_ (k : Nat) : Nat := recNat q.record 20 4 % 2 ^ 22 + 8 * k
      (∀ w x y z, q.stack = [w, x, y, z] → q.spilled < recNat q.record 24 2 → (s.core n).inSp (at_ q.spilled) 8 = true →
        Answers (.push a b) s fun t =>
          t.query? n e = some { q with
            stack := [(q.reg a, q.reg b), w, x, y], spilled := q.spilled + 1, spills := q.spills + 1, pc := q.pc + 1
            steps := q.steps + 1 } ∧
          t.peek (poolAddr n (at_ q.spilled)) 4 = z.1.toNat ∧ t.peek (poolAddr n (at_ q.spilled + 4)) 4 = z.2.toNat ∧
          (∀ p, p < poolAddr n (at_ q.spilled) ∨ poolAddr n (at_ q.spilled) + 8 ≤ p →
            Memory.read1 t.mem p = Memory.read1 s.mem p) ∧
          OnlyWrites s { t with cores := s.cores } ∧ (t.core n).walked = e ∧
          OnlyQuery n e s { t with mem := s.mem, resvs := s.resvs, watch := s.watch }) ∧
      (q.stack = [] → 0 < q.spilled → (s.core n).inSp (at_ (q.spilled - 1)) 8 = true →
        s.isBad (poolAddr n (at_ (q.spilled - 1))) 8 = false → Answers (.pop d b) s fun t =>
          t.query? n e = some { ((({ q with spilled := q.spilled - 1 } : Query).setReg d
              (BitVec.ofNat 32 (s.peek (poolAddr n (at_ (q.spilled - 1))) 4))).setReg b
              (BitVec.ofNat 32 (s.peek (poolAddr n (at_ (q.spilled - 1) + 4)) 4))) with pc := q.pc + 1, steps := q.steps + 1 } ∧
          OnlyCorrects s t ∧ (t.core n).walked = e ∧ OnlyQuery n e s { t with watch := s.watch }))) ∧
  (∀ (d a b : WReg) (aux : BitVec 11),
    Walks (.kbest d a b) (fun q _ => q.mode 0 = true ∧ q.pc < 1023)
      (fun q =>
        let u := q.insert (q.reg a) (q.reg b) true
        { u.setReg d (if u.best.length = recNat q.record 4 2 then ((u.best.getLast?).getD (0#32, 0#32)).1 else 0x7F800000#32) with
          pc := q.pc + 1 }) ∧
    Walks .walkEnd (fun q _ => q.origin = none) (fun q => { q with state := .drain }) ∧
    (∀ (s : State) (n e : Nat) (q : Query) (r : Res) (h : HitQ), s.Walking n e q r → s.Sound → q.origin = none →
      (q.reg a).toNat % 2 ^ 16 ≠ 0xFFFF → r.hitq (recNat q.record 2 1 % 8) = some h →
      let bytes := bytesOfNat 4 q.tag.toNat ++ bytesOfNat 2 ((q.reg a).toNat % 2 ^ 16) ++ bytesOfNat 2 0 ++
        bytesOfNat 4 q.h[0].toNat ++ bytesOfNat 4 q.h[3].toNat ++ bytesOfNat 4 q.h[1].toNat ++ bytesOfNat 4 q.h[2].toNat ++
        bytesOfNat 4 (q.reg b).toNat ++ bytesOfNat 4 aux.toNat
      let at_ := poolAddr n (h.ring + 32 * (h.tail % h.cap))
      (h.tail - h.head < h.cap → q.pc < 1023 → Answers (.emit a b aux) s fun t =>
        t.query? n e = some { q with hits := q.hits + 1, pc := q.pc + 1, steps := q.steps + 1 } ∧
        (∀ x, x ≠ e → t.query? n x = s.query? n x) ∧
        Memory.readN t.mem at_ 32 = bytes ∧
        (∀ p, p < at_ ∨ at_ + 32 ≤ p → Memory.read1 t.mem p = Memory.read1 s.mem p) ∧ OnlyWrites s { t with cores := s.cores } ∧
        (let hit : HitQ := { h with tail := h.tail + 1, index := h.index ++ [((q.reg a).toNat % 2 ^ 16, e, false)] }
         t.res? n q.launch = some { r with
          hitqs := r.hitqs.mapIdx fun i v => if i = recNat q.record 2 1 % 8 then some hit else v }) ∧
        (∀ x, x ≠ q.launch → t.res? n x = s.res? n x) ∧
        t.core n = { s.core n with queries := (t.core n).queries, res := (t.core n).res, walked := e
                                   signals := (s.core n).signals ++ if h.evEn then [(q.launch, h.ev)] else [] } ∧
        ∀ x, x ≠ n → t.core x = s.core x) ∧
      (h.cap ≤ h.tail - h.head → Answers (.emit a b aux) s fun t =>
        t.query? n e = some { q with state := .hitWait bytes false, steps := q.steps + 1 } ∧ (t.core n).walked = e ∧
        OnlyQuery n e s t)) ∧
    -- a sub-query: its hits and its end go to its origin
    (∀ (s : State) (n e : Nat) (q : Query) (r : Res) (o : Origin), s.Walking n e q r → q.origin = some o →
      let bytes := bytesOfNat 4 q.tag.toNat ++ bytesOfNat 2 ((q.reg a).toNat % 2 ^ 16) ++ bytesOfNat 2 0 ++
        bytesOfNat 4 q.h[0].toNat ++ bytesOfNat 4 q.h[3].toNat ++ bytesOfNat 4 q.h[1].toNat ++ bytesOfNat 4 q.h[2].toNat ++
        bytesOfNat 4 (q.reg b).toNat ++ bytesOfNat 4 aux.toNat
      ((q.reg a).toNat % 2 ^ 16 ≠ 0xFFFF → q.pc < 1023 → Answers (.emit a b aux) s fun t =>
        t.query? n e = some { q with sent := q.sent + 1, pc := q.pc + 1, steps := q.steps + 1 } ∧
        t.station = { s.station with out := s.station.out ++ [.hit o.tag o.h q.sent bytes] } ∧ (t.core n).walked = e ∧
        OnlyQuery n e s { t with station := s.station }) ∧
      Answers .walkEnd s fun t =>
        (t.core n).queries = Tbl.erase (s.core n).queries e ∧ (∀ x, x ≠ e → t.query? n x = s.query? n x) ∧
        t.station = { s.station with out := s.station.out ++ [.hend
          { tag := o.tag, h := o.h, sent := q.sent, err := 0, code := 0
            best := if q.mode 0 then ((q.best.zip q.own).filter fun p => p.2).map Prod.fst else [] }] } ∧
        (t.core n).walked = e ∧ OnlyQuery n e s { t with station := s.station }))

/-- R320, R453, R454: HANDOFF of a query of this module sends a sub-query to the twin under the lowest free number; without a link it is
lost, and is counted all the same. R306, R307, R310-R314, R321: where a walker instruction ends its query with an error. -/
def Obligations.WalkerHandoffAndErrorResults : Prop :=
  (∀ (a : WReg) (s : State) (n e : Nat) (q : Query) (r : Res) (h : Nat), s.Walking n e q r → q.origin = none → q.pc < 1023 →
    (q.reg a).getLsbD 31 = true → h < 8 → h ∉ q.out → (∀ j, j < h → j ∈ q.out) →
    (s.station.up = false → Answers (.handoff a) s fun t =>
      t.query? n e = some { q with handoffs := q.handoffs + 1, lost := true, pc := q.pc + 1, steps := q.steps + 1 } ∧
      (t.core n).walked = e ∧ OnlyQuery n e s t) ∧
    (s.station.up = true → Answers (.handoff a) s fun t =>
      t.query? n e = some { q with handoffs := q.handoffs + 1, out := q.out ++ [h], pc := q.pc + 1, steps := q.steps + 1 } ∧
      (∃ msg, t.station.out = s.station.out ++ [.hq msg] ∧ msg.tag = q.tag ∧ msg.h = h ∧ msg.origin = s.coreWord n ∧
        msg.q = q.q.toList ∧ (∀ i, s.pairIndex? q.launch = some i → msg.index = i) ∧
        msg.best = (if q.mode 0 then q.best else []) ∧ msg.record = q.record.take 16 ++ bytesOfNat 4 ((q.reg a).toNat % 2 ^ 31) ++ q.record.drop 20) ∧
      t.station = { s.station with out := t.station.out, unhacked := s.station.unhacked ++ [(q.tag, h)] } ∧
      (t.core n).walked = e ∧ OnlyQuery n e s { t with station := s.station })) ∧
  (∀ (d a b : WReg) (aux imm : BitVec 11) (kind : BitVec 2) (ent : BitVec 4),
    WalkEnds .unloadedWalkerSlot (fun _ _ => True) 1 ∧
    WalkEnds (.push a b) (fun q _ => q.stack.length = 4 ∧ q.spilled = recNat q.record 24 2) 3 ∧
    WalkEnds (.pop d b) (fun q _ => q.stack = [] ∧ q.spilled = 0) 4 ∧
    WalkEnds (.nfetch a kind) (fun q _ => (q.reg a).getLsbD 31 = true) 5 ∧
    WalkEnds (.handoff a) (fun q _ => (q.reg a).getLsbD 31 = false) 5 ∧
    WalkEnds (.ndec ent) (fun q _ => q.kind = none) 6 ∧ WalkEnds (.box8 d) (fun q _ => q.dec = none) 6 ∧
    WalkEnds (.tri d a) (fun q _ => q.dec = none) 6 ∧ WalkEnds (.split d a b) (fun q _ => 15 < (q.reg a).toNat) 6 ∧
    WalkEnds (.kcmp d a b) (fun q _ => q.dec = none) 6 ∧ WalkEnds (.dist d a b) (fun q _ => (q.reg b).toNat = 0) 6 ∧
    WalkEnds (.child d a) (fun q _ => 7 < (q.reg a).toNat) 6 ∧ WalkEnds (.kbest d a b) (fun q _ => q.mode 0 = false) 6 ∧
    WalkEnds (.emit a b aux) (fun q _ => (q.reg a).toNat % 2 ^ 16 = 0xFFFF) 7 ∧
    WalkEnds (.walkBr a imm) (fun q _ => q.reg a = 0#32 ∧ 1023 ≤ q.pc) 9)

/-- R190 (operations as in log 6): the values of the integer operations, of 64 bits and, sign-extended, of 32. R190: the registers of the
caller, of which x0 reads 0 and discards writes; the integer instructions, jumps and branches. -/
def Obligations.CallerInstructionResults : Prop :=
  (∀ a b : DWord,
    let x : Word := a.setWidth 32
    let y : Word := b.setWidth 32
    rvAlu .add false a b = a + b ∧ rvAlu .sub false a b = a - b ∧
    rvAlu .sll false a b = a <<< (b.toNat % 64) ∧ rvAlu .srl false a b = a >>> (b.toNat % 64) ∧
    rvAlu .sra false a b = a.sshiftRight (b.toNat % 64) ∧
    rvAlu .slt false a b = (if a.toInt < b.toInt then 1#64 else 0#64) ∧
    rvAlu .sltu false a b = (if a.toNat < b.toNat then 1#64 else 0#64) ∧
    rvAlu .xor false a b = a ^^^ b ∧ rvAlu .or false a b = a ||| b ∧ rvAlu .and false a b = a &&& b ∧
    (rvAlu .mul false a b).toNat = a.toNat * b.toNat % 2 ^ 64 ∧ (rvAlu .mulhu false a b).toNat = a.toNat * b.toNat / 2 ^ 64 ∧
    (rvAlu .mulh false a b).toInt = a.toInt * b.toInt / 2 ^ 64 ∧ (rvAlu .mulhsu false a b).toInt = a.toInt * b.toNat / 2 ^ 64 ∧
    (b ≠ 0#64 → (rvAlu .divu false a b).toNat = a.toNat / b.toNat ∧ (rvAlu .remu false a b).toNat = a.toNat % b.toNat ∧
      rvAlu .div false a b = BitVec.ofInt 64 (a.toInt.tdiv b.toInt) ∧ rvAlu .rem false a b = BitVec.ofInt 64 (a.toInt.tmod b.toInt)) ∧
    (∀ w, rvAlu .div w a 0#64 = BitVec.allOnes 64 ∧ rvAlu .divu w a 0#64 = BitVec.allOnes 64) ∧
    rvAlu .rem false a 0#64 = a ∧ rvAlu .remu false a 0#64 = a ∧
    rvAlu .add true a b = (x + y).signExtend 64 ∧ rvAlu .sub true a b = (x - y).signExtend 64 ∧
    rvAlu .sll true a b = (x <<< (y.toNat % 32)).signExtend 64 ∧ rvAlu .srl true a b = (x >>> (y.toNat % 32)).signExtend 64 ∧
    rvAlu .sra true a b = (x.sshiftRight (y.toNat % 32)).signExtend 64 ∧ rvAlu .mul true a b = (x * y).signExtend 64 ∧
    (y ≠ 0#32 → rvAlu .divu true a b = (x / y).signExtend 64 ∧ rvAlu .remu true a b = (x % y).signExtend 64 ∧
      rvAlu .div true a b = (BitVec.ofInt 32 (x.toInt.tdiv y.toInt)).signExtend 64 ∧
      rvAlu .rem true a b = (BitVec.ofInt 32 (x.toInt.tmod y.toInt)).signExtend 64)) ∧
  (∀ (c w : Bool) (op : RvAlu) (cond : RvCond) (rd rs1 rs2 : XReg) (i12 : BitVec 12) (i13 : BitVec 13) (i20 : BitVec 20)
      (i21 : BitVec 21),
    let len : DWord := if c then 2#64 else 4#64
    let any (_ : State) (_ : Nat) (_ : Res) : Prop := True
    let gives (o : RvOp) (v : Caller → DWord) (pc : Caller → DWord) : Prop :=
      CallerBecomes (.callerInstruction c o) any fun _ _ r => { r.caller.setReg rd (v r.caller) with pc := pc r.caller }
    let next (h : Caller) : DWord := h.pc + len
    let holds (h : Caller) : Bool :=
      let x := h.reg rs1
      let y := h.reg rs2
      match cond with
      | .eq => x = y
      | .ne => x ≠ y
      | .lt => x.toInt < y.toInt
      | .ge => y.toInt ≤ x.toInt
      | .ltu => x.toNat < y.toNat
      | .geu => y.toNat ≤ x.toNat
    (∀ (h : Caller) (v : DWord), h.reg 0#5 = 0#64 ∧
      (h.setReg rd v).reg rs1 = if rs1 = rd ∧ rd ≠ 0#5 then v else h.reg rs1) ∧
    gives (.lui rd i20) (fun _ => BitVec.ofInt 64 (i20.toInt * 2 ^ 12)) next ∧
    gives (.auipc rd i20) (fun h => h.pc + BitVec.ofInt 64 (i20.toInt * 2 ^ 12)) next ∧
    gives (.alui op w rd rs1 i12) (fun h => rvAlu op w (h.reg rs1) (BitVec.ofInt 64 i12.toInt)) next ∧
    gives (.alu op w rd rs1 rs2) (fun h => rvAlu op w (h.reg rs1) (h.reg rs2)) next ∧
    gives (.jal rd i21) next (fun h => h.pc + BitVec.ofInt 64 i21.toInt) ∧
    gives (.jalr rd rs1 i12) next (fun h => (h.reg rs1 + BitVec.ofInt 64 i12.toInt) &&& ~~~1#64) ∧
    CallerBecomes (.callerInstruction c (.branch cond rs1 rs2 i13)) any
      (fun _ _ r => { r.caller with
        pc := if holds r.caller then r.caller.pc + BitVec.ofInt 64 i13.toInt else r.caller.pc + len }) ∧
    CallerBecomes (.callerInstruction c .wfi) any (fun _ _ r => { r.caller with pc := r.caller.pc + len }))

/-- R190, R193, R280, R397: the exceptions of instructions: breakpoints, illegal words, the supervisor's instructions in U-mode, and
environment calls the supervisor does not serve; sret goes back; the calls that end the event handler and the caller's part. R192: reads of
the Xfig CSRs, and writes of the three that are written: the enable mask, the handler with bit 0 clear, the supervisor core, which must lie
in the launch's rectangle. A supervisor CSR is written in S-mode and refused in U-mode (log 3). -/
def Obligations.CallerExceptionAndCsrResults : Prop :=
  (∀ (c : Bool) (w : Word),
    let user (_ : State) (_ : Nat) (r : Res) : Prop := r.caller.priv = .user
    let super (_ : State) (_ : Nat) (r : Res) : Prop := r.caller.priv = .supervisor
    CallerTraps (.callerInstruction c .ebreak) (fun _ _ _ => True) 3 (fun _ h => h.pc) ∧
    CallerTraps (.callerInstruction c (.illegal w)) (fun _ _ _ => True) 2 (fun _ _ => w.setWidth 64) ∧
    CallerTraps (.callerInstruction c .sret) user 2 (fun s _ => s.curWord.setWidth 64) ∧
    CallerTraps (.callerInstruction c .sfenceVma) user 2 (fun s _ => s.curWord.setWidth 64) ∧
    CallerTraps (.callerInstruction c .ecall)
      (fun s n r => user s n r ∧ r.caller.reg 17#5 ≠ 0x59#64 ∧ (r.caller.handler = none ∨ r.caller.reg 17#5 ≠ 0x58#64)) 8
      (fun _ _ => 0#64) ∧
    CallerTraps (.callerInstruction c .ecall) super 9 (fun _ _ => 0#64) ∧
    CallerTraps .handlerReturn (fun s n r => user s n r ∧ r.caller.handler = none) 8 (fun _ _ => 0#64) ∧
    CallerTraps .callerEnd super 9 (fun _ _ => 0#64) ∧
    CallerBecomes (.callerInstruction c .sfenceVma) super
      (fun _ _ r => { r.caller with pc := r.caller.pc + if c then 2#64 else 4#64 }) ∧
    (∀ (s : State) (n l : Nat) (r : Res), s.Calling n l r → super s n r → Answers (.callerInstruction c .sret) s fun t =>
      (∃ u, t.res? n l = some { r with caller := u } ∧
        u = { r.caller with pc := r.caller.sepc, priv := u.priv, sstatus := u.sstatus } ∧
        (u.priv = .supervisor ↔ r.caller.sstatus.getLsbD 8 = true) ∧
        ∀ i, i < 64 → u.sstatus.getLsbD i =
          if i = 1 then r.caller.sstatus.getLsbD 5 else if i = 5 then true else if i = 8 then false
          else r.caller.sstatus.getLsbD i) ∧ OnlyLaunch n l s t) ∧
    (∀ (s : State) (n l : Nat) (r : Res) (a0 a1 pc : DWord), s.Calling n l r → user s n r →
      r.caller.handler = some (a0, a1, pc) → Answers .handlerReturn s fun t =>
      (∃ u, t.res? n l = some { r with caller := u } ∧
        u = { r.caller with
          x := u.x, pc := pc, sepc := r.caller.pc, scause := 8#64, stval := 0#64, sstatus := u.sstatus, upc := r.caller.pc
          handler := none, exc := none } ∧
        (∀ i, i < 64 → u.sstatus.getLsbD i = if i = 5 then true else if i = 8 then false else r.caller.sstatus.getLsbD i) ∧
        u.reg 10#5 = a0 ∧ u.reg 11#5 = a1 ∧ ∀ x, x ≠ 10#5 → x ≠ 11#5 → u.reg x = r.caller.reg x) ∧ OnlyLaunch n l s t) ∧
    (∀ (s : State) (n l : Nat) (r : Res), s.Calling n l r → user s n r → Answers .callerEnd s fun t =>
      (∃ u, r.caller.Trapped u 8 0#64 ∧ t.res? n l = some { r with caller := { u with ended := true, exc := none } }) ∧
      OnlyLaunch n l s t)) ∧
  (∀ (c : Bool) (op : CsrOp) (rd : XReg) (src : CsrSrc) (addr : BitVec 12),
    let from_ (h : Caller) : DWord := match src with
      | .reg r => h.reg r
      | .imm v => BitVec.ofNat 64 v.toNat
    let any (_ : State) (_ : Nat) (_ : Res) : Prop := True
    let reads (a : BitVec 12) (v : Core → Nat → Res → DWord) : Prop :=
      CallerBecomes (.callerInstruction c (.csrRead rd a)) any fun k l r =>
        { r.caller.setReg rd (v k l r) with pc := r.caller.pc + if c then 2#64 else 4#64 }
    let events (k : Core) (l : Nat) (r : Res) : DWord :=
      BitVec.ofNat 64 ((k.pendingEvents l r).toNat + 2 ^ 32 * r.caller.evEnable.toNat)
    (c = false →
      reads 0x800#12 events ∧ reads 0x801#12 (fun _ _ r => r.caller.fhandler) ∧
      reads 0x802#12 (fun _ _ r => BitVec.ofNat 64 r.caller.fsup.toNat) ∧
      reads 0xCC0#12 (fun k l _ => BitVec.ofNat 64 (k.grantOf l)) ∧ reads 0xCC1#12 (fun k _ _ => BitVec.ofNat 64 k.part.toNat) ∧
      reads 0xCC2#12 (fun k _ _ => BitVec.ofNat 64 (k.bRefill.toNat + 2 ^ 32 * k.bCeil.toNat + if k.bEn then 2 ^ 63 else 0)) ∧
      reads 0xCC3#12 (fun _ _ r => BitVec.ofNat 64 r.mbox.length)) ∧
    CallerTraps (.callerInstruction c (.csrRead rd 0x7C0#12)) any 2 (fun s _ => s.curWord.setWidth 64) ∧
    CallerBecomes (.xfgEventsWrite op rd src) any (fun k l r =>
      { ({ r.caller with evEnable := (csrResult op (events k l r) (from_ r.caller)).extractLsb' 32 16 } : Caller).setReg rd
          (events k l r) with pc := r.caller.pc + 4#64 }) ∧
    CallerBecomes (.xfgFhandlerWrite op rd src) any (fun _ _ r =>
      { ({ r.caller with fhandler := csrResult op r.caller.fhandler (from_ r.caller) &&& ~~~1#64 } : Caller).setReg rd
          r.caller.fhandler with pc := r.caller.pc + 4#64 }) ∧
    (let new (r : Res) : DWord := csrResult op (BitVec.ofNat 64 r.caller.fsup.toNat) (from_ r.caller)
     let inside (s : State) (r : Res) : Prop :=
       ∃ x y, x = (new r).toNat % 32 ∧ y = (new r).toNat / 32 % 16 ∧ x < 10 ∧ y < 8 ∧ r.x0 ≤ x ∧
         x < r.x0 + recNat r.record 14 1 ∧ r.y0 ≤ y ∧ y < r.y0 + recNat r.record 15 1 ∧
         (new r).toNat / 512 % 2 = if s.station.card then 1 else 0
     CallerBecomes (.xfgFsupWrite op rd src) (fun s _ r => inside s r) (fun _ _ r =>
       { ({ r.caller with fsup := (new r).setWidth 10 } : Caller).setReg rd (BitVec.ofNat 64 r.caller.fsup.toNat) with
         pc := r.caller.pc + 4#64 }) ∧
     CallerTraps (.xfgFsupWrite op rd src) (fun s _ r => ¬ inside s r) 2 (fun s _ => s.curWord.setWidth 64)) ∧
    CallerBecomes (.registerWrite (.csr op 0x105#12 rd src)) (fun _ _ r => r.caller.priv = .supervisor) (fun _ _ r =>
      { ({ r.caller with stvec := csrResult op r.caller.stvec (from_ r.caller) } : Caller).setReg rd r.caller.stvec with
        pc := r.caller.pc + 4#64 }) ∧
    (addr ∉ [0x800#12, 0x801#12, 0x802#12] →
      CallerTraps (.registerWrite (.csr op addr rd src)) (fun _ _ r => r.caller.priv = .user) 2
        (fun s _ => s.curWord.setWidth 64)))

/-- R191: loads, stores, AMOs, LR and SC of the caller. A load, an AMO or an SC makes it wait for its result; stores, AMOs and SCs enter the
store FIFO; LR reads and reserves the line at once. -/
def Obligations.CallerAccessResults : Prop :=
  ∀ (c aq rl dbl : Bool) (ldw : LoadWidth) (stw : StoreWidth) (op : AmoOp) (rd rs1 rs2 : XReg) (imm : BitVec 12)
    (s : State) (n l : Nat) (r : Res), s.Calling n l r → s.Sound →
  let h := r.caller
  let len : Nat := if c then 2 else 4
  let ea := h.reg rs1 + BitVec.ofInt 64 imm.toInt
  let flight (d : XReg) (nd off : Nat) (a : DWord) (o : Op) (id : Nat) (st : Stage) : Flight :=
    { core := n, launch := l, agent := .caller, who := [], fig := 0#32, off := off, word := 0#32, ll := 8
      dst := BitVec.ofNat 6 d.toNat, dstN := nd, ea := a, sent := id, op := o, stage := st }
  let acquires (t : State) : Prop := OnlyDrops s t ∧ SettlesFlights s.nextId s t ∧ t.nextId = s.nextId + if aq then 1 else 0
  let reaches (a : DWord) (bytes : Nat) (need : Need) : Prop :=
    (∃ core off, checkAddr n r a bytes false = .ok (.pool false core off) ∧ s.portOk core l off bytes = true) ∨
    (∃ core off w, checkAddr n r a bytes false = .ok (.pool true core off) ∧ s.twinWire l core off a = .ok w) ∨
    (∃ va pa x, checkAddr n r a bytes false = .ok (.global va) ∧ s.translate r.asid va need = .ok pa x ∧
      (need = .write → s.isSealed pa = false))
  let only (t : State) : Prop :=
    t = { s with cores := t.cores, flights := t.flights, nextId := t.nextId } ∧ (∀ x, x ≠ n → t.core x = s.core x) ∧
      t.core n = { s.core n with res := (t.core n).res, fifo := (t.core n).fifo } ∧ ∀ x, x ≠ l → t.res? n x = s.res? n x
  let size : Nat := if dbl then 8 else 4
  -- loads: the size code, the bytes, and the words of the result, of which a single one is sign-extended
  ((∃ t, checkAddr n r ea (match ldw with | .lb | .lbu => 1 | .lh | .lhu => 2 | .lw | .lwu => 4 | .ld => 8) false = .ok t) →
    Answers (.callerLoad c ldw rd rs1 imm) s fun t =>
      Tbl.get? t.flights s.nextId = some
        (match ldw with
         | .lb => flight rd 1 len ea (.load 1#3 0#2) s.nextId .request
         | .lh => flight rd 1 len ea (.load 3#3 0#2) s.nextId .request
         | .lw => flight rd 1 len ea (.load 4#3 0#2) s.nextId .request
         | .ld => flight rd 2 len ea (.load 5#3 0#2) s.nextId .request
         | .lbu => flight rd 2 len ea (.load 0#3 0#2) s.nextId .request
         | .lhu => flight rd 2 len ea (.load 2#3 0#2) s.nextId .request
         | .lwu => flight rd 2 len ea (.load 4#3 0#2) s.nextId .request) ∧
      t.res? n l = some { r with caller := { h with waitFor := some s.nextId } } ∧ (t.core n).fifo = (s.core n).fifo ∧
      KeepsFlights s t ∧ only t) ∧
  (let bytes : Nat := match stw with | .sb => 1 | .sh => 2 | .sw => 4 | .sd => 8
   reaches ea bytes .write → Answers (.callerStore c stw rs1 rs2 imm) s fun t =>
      Tbl.get? t.flights s.nextId = some { flight 0#5 0 0 ea
        (.store bytes 0#2 (BitVec.ofNat 128 ((h.reg rs2).toNat % 2 ^ (8 * bytes)))) s.nextId .fifo with pc := h.pc } ∧
      t.res? n l = some { r with caller := { h with pc := h.pc + BitVec.ofNat 64 len } } ∧
      (t.core n).fifo = (s.core n).fifo ++ [s.nextId] ∧ KeepsFlights s t ∧ only t) ∧
  -- AMO and SC: behind the release of .rl, before the acquire of an AMO's .aq
  (reaches (h.reg rs1) size .write →
    let id := s.nextId + if rl then 1 else 0
    let waits (o : Op) (t : State) : Prop :=
      Tbl.get? t.flights id = some (flight rd 2 0 (h.reg rs1) o id .fifo) ∧
      t.res? n l = some { r with caller := { h with pc := h.pc + 4#64, waitFor := some id } } ∧
      (t.core n).fifo = (s.core n).fifo ++ [id] ∧ only { t with clusters := s.clusters } ∧ OnlyDrops s t ∧
      ∀ x f, x < s.nextId → Tbl.get? s.flights x = some f → f.isFence = false →
        ∃ u, Tbl.get? t.flights x = some u ∧ u = { f with stage := u.stage }
    Answers (.callerAmo op dbl aq rl rd rs1 rs2) s (waits (.amo op dbl (h.reg rs2))) ∧
    Answers (.callerSc dbl aq rl rd rs1 rs2) s (waits (.sc dbl (h.reg rs2)))) ∧
  -- LR: at once, at the line's owning port or home; of the twin's pool, by a request
  (∀ pa, s.callerOpen n l = false → s.isBad pa size = false →
    (∃ core off, checkAddr n r (h.reg rs1) size false = .ok (.pool false core off) ∧ s.portOk core l off size = true ∧
      s.away core l = false ∧ (core = n ∨ s.poolBusy n s.nextId core off = false) ∧ pa = poolAddr core off) ∨
    (∃ va x, checkAddr n r (h.reg rs1) size false = .ok (.global va) ∧ s.translate r.asid va .read = .ok pa x ∧
      s.homeOpen n pa = false) →
    Answers (.callerLr dbl aq rl rd rs1) s fun t =>
      t.res? n l = some { r with caller :=
        { h.setReg rd (if dbl then BitVec.ofNat 64 (s.peek pa 8) else (BitVec.ofNat 32 (s.peek pa 4)).signExtend 64) with
          pc := h.pc + 4#64 } } ∧
      t.resvs = (n, l, pa / 64) :: (s.resvs.filter fun x => !(x.1 == n && x.2.1 == l)) ∧
      (t.core n).fifo = (s.core n).fifo ∧ acquires t ∧ OnlyCorrects s t ∧
      only { t with clusters := s.clusters, resvs := s.resvs, watch := s.watch }) ∧
  (∀ core off w, s.callerOpen n l = false → checkAddr n r (h.reg rs1) size false = .ok (.pool true core off) →
    s.twinWire l core off (h.reg rs1) = .ok w → aq = false → Answers (.callerLr dbl aq rl rd rs1) s fun t =>
      Tbl.get? t.flights s.nextId =
        some (flight rd (if dbl then 2 else 1) 4 (h.reg rs1) (.reserve dbl) s.nextId .request) ∧
      t.res? n l = some { r with caller := { h with waitFor := some s.nextId } } ∧ (t.core n).fifo = (s.core n).fifo ∧
      KeepsFlights s t ∧ only t)

/-- R163, R191: an SC stores only where its caller's reservation of the line stands, and returns 0 where it did, else 1; any write to a
reserved line ends its reservations. R191: FENCE of the caller is a full fence at scope 5 that also waits for remote stores; FENCE.I holds
the caller's fetches. Each is in flight until its condition holds. -/
def Obligations.CallerReservationAndFenceResults : Prop :=
  (∀ (s : State) (f : Flight) (dbl : Bool) (v : DWord) (pa : Nat) (bs : List Byte),
    (f.op = .sc dbl v → (f.core, f.launch, pa / 64) ∈ s.resvs →
      s.atomicAt f pa = (0#128, 0#5, some (v.toNat % 2 ^ (if dbl then 64 else 32)))) ∧
    (f.op = .sc dbl v → (f.core, f.launch, pa / 64) ∉ s.resvs → s.atomicAt f pa = (1#128, 0#5, none)) ∧
    (∀ x ∈ s.resvs, x ∈ (s.write pa bs).resvs ↔ x.2.2 < pa / 64 ∨ pa + bs.length ≤ x.2.2 * 64)) ∧
  (∀ (s : State) (n l : Nat) (r : Res), s.Calling n l r → s.Sound →
    let gives (i : Instr) (kind : Nat) : Prop :=
      let f : Flight :=
        { core := n, launch := l, agent := .caller, who := [], fig := 0#32, off := 0, word := 0#32, ll := 8, dst := 0#6
          dstN := 0, ea := 0#64, sent := s.nextId, op := .fence kind 5 (s.cluster (clusterOf n)).wtb, stage := .request }
      Answers i s fun t =>
        Tbl.get? t.flights s.nextId = (if s.fenceDone s.nextId f then none else some f) ∧
        t.res? n l = some { r with caller := { r.caller with pc := r.caller.pc + 4#64 } } ∧
        (s.fenceDone s.nextId f = false → kind = 4 → t.fetchHeld n l = true) ∧
        t.nextId = s.nextId + 1 ∧ OnlyDrops s t ∧ SettlesFlights s.nextId s t ∧
        OnlyLaunch n l s { t with clusters := s.clusters, flights := s.flights, nextId := s.nextId }
    gives .callerFence 5 ∧ gives .callerFenceI 4)

/-- R26, R195, R196: FIG.CALL queues a figure to every idle or called micro-thread it names that takes calls, and counts them; one with four
figures queued stalls it. FIG.SYNC counts the micro-threads named that have nothing left; FIG.WAIT tells why it ended. R193, R201, R202,
R262, R274: FIG.MBOX reads the oldest fault message half by half and removes it with the second; FIG.EVENT gives the enabled pending events
and clears those that are latched; FIG.INBOX moves entries to the scratchpad. -/
def Obligations.FigureCallAndMailboxResults : Prop :=
  (∀ (rd rs1 rs2 : XReg) (s : State) (n l : Nat) (r : Res), s.Calling n l r → Tbl.sorted (s.core n).slots = true →
    let c := s.core n
    let h := r.caller
    let takes (slot : Nat) : Prop := c.named l (h.reg rs2) slot ∧ (c.micro slot).life = .called ∧ (c.micro slot).mode = .called
    let busy (slot : Nat) : Prop := (c.micro slot).callq ≠ [] ∨ c.inFlight slot = true
    let stalls (i : Instr) (k : Stall) : Prop := Answers i s fun t =>
      t.res? n l = some { r with caller := { h with stall := some k } } ∧ OnlyLaunch n l s t
    (∀ slots : List Nat, slots.Nodup → (∀ x, x ∈ slots ↔ takes x) → (∀ x ∈ slots, (c.micro x).callq.length < 4) →
      Answers (.figCall rd rs1 rs2) s fun t =>
        XfigDone n l r rd slots.length (fun r => r) s t ∧
        (∀ x ∈ slots, ∃ u, t.microAt n x = some u ∧
          u = { c.micro x with callq := (c.micro x).callq ++ [(h.reg rs1).setWidth 32], since := u.since } ∧
          ((c.micro x).callq ≠ [] → u.since = (c.micro x).since) ∧ ((c.micro x).callq = [] → c.eligible ≤ u.since)) ∧
        (∀ x, x ∉ slots → t.microAt n x = s.microAt n x) ∧ OnlyMicros n s t) ∧
    (∀ x, takes x → 4 ≤ (c.micro x).callq.length → stalls (.figCall rd rs1 rs2) (.call rd rs1 rs2)) ∧
    (∀ done : List Nat, done.Nodup →
      (∀ x, x ∈ done ↔ c.named l (h.reg rs1) x ∧ (c.micro x).life = .called ∧ ¬ busy x) →
      (∀ x, c.named l (h.reg rs1) x → x ∈ done ∨ (c.micro x).life = .retired ∨ (c.micro x).life = .faulted) →
      Answers (.figSync rd rs1) s fun t =>
        XfigDone n l r rd done.length (fun r => r) s t ∧ OnlyLaunch n l s t) ∧
    (∀ x, c.named l (h.reg rs1) x → (c.micro x).life = .called → busy x → stalls (.figSync rd rs1) (.sync rd rs1)) ∧
    ((∀ x ∈ c.owned l, (c.micro x).callq = [] ∧ c.inFlight x = false) → Answers (.figWait rd) s fun t =>
      XfigDone n l r rd 0 (fun r => r) s t ∧ OnlyLaunch n l s t) ∧
    (∀ x ∈ c.owned l, busy x → c.enabledEvents l r &&& ~~~4#16 ≠ 0#16 → Answers (.figWait rd) s fun t =>
      XfigDone n l r rd 1 (fun r => r) s t ∧ OnlyLaunch n l s t) ∧
    (∀ x ∈ c.owned l, busy x → c.enabledEvents l r &&& ~~~4#16 = 0#16 → stalls (.figWait rd) (.wait rd))) ∧
  (∀ (rd rs1 rs2 : XReg) (s : State) (n l : Nat) (r : Res), s.Calling n l r →
    let h := r.caller
    (∀ b rest, r.mbox = b :: rest → h.reg rs1 = 0#64 → Answers (.figMbox rd rs1) s fun t =>
      XfigDone n l r rd (natOfBytes (b.take 8)) (fun r => r) s t ∧ OnlyLaunch n l s t) ∧
    (∀ b rest, r.mbox = b :: rest → h.reg rs1 = 1#64 → Answers (.figMbox rd rs1) s fun t =>
      XfigDone n l r rd (natOfBytes (b.drop 8)) (fun r => { r with mbox := rest }) s t ∧ OnlyLaunch n l s t) ∧
    (r.mbox = [] → Answers (.figMbox rd rs1) s fun t =>
      XfigDone n l r rd 0 (fun r => r) s t ∧ OnlyLaunch n l s t) ∧
    (let v := (s.core n).enabledEvents l r
     Answers (.figEvent rd) s fun t =>
      t.res? n l = some { r with caller :=
        { h.setReg rd (BitVec.ofNat 64 v.toNat) with
          evPending := h.evPending &&& ~~~v, pc := h.pc + 4#64, stall := none } } ∧ OnlyLaunch n l s t) ∧
    (let a := (h.reg rs1).toNat
     let k := (h.reg rs2).toNat
     -- FIG.INBOX: the launch's oldest entries, k at most, behind the stores in the FIFO
     (∀ out rest, takeEntries l k (s.core n).inbox = (out, rest) → a % 32 = 0 → (s.core n).inSp a (32 * out.length) = true →
        (s.core n).fifo = [] → (∀ x ∈ r.spill, x.isMsg = false) → Answers (.figInbox rd rs1 rs2) s fun t =>
          t.res? n l = some { r with caller :=
            { h.setReg rd (BitVec.ofNat 64 out.length) with pc := h.pc + 4#64, stall := none } } ∧
          (∀ x, x ≠ l → t.res? n x = s.res? n x) ∧ (∀ x, x ≠ n → t.core x = s.core x) ∧
          t.core n = { s.core n with res := (t.core n).res, inbox := rest } ∧
          t.mem = Memory.writeN s.mem (poolAddr n a) (out.flatMap Msg.bytes) ∧ OnlyWrites s { t with cores := s.cores }) ∧
     (∀ q m out rest, takeEntries l k (m :: q) = (out, rest) →
        if m.launch = l ∧ 0 < k then takeEntries l (k - 1) q = (out.tail, rest) ∧ out.head? = some m
        else ∃ u, rest = m :: u ∧ takeEntries l k q = (out, u)) ∧
     (a % 32 ≠ 0 → Answers (.figInbox rd rs1 rs2) s fun t =>
        (∃ u, t.res? n l = some { r with caller := u } ∧ h.Trapped u 7 (h.reg rs1)) ∧ OnlyLaunch n l s t) ∧
     -- FIG.REPLAY
     (a % 32 ≠ 0 ∨ (s.core n).inSp a (32 * k) = false → Answers (.figReplay rd rs1 rs2) s fun t =>
        (∃ u, t.res? n l = some { r with caller := u } ∧ h.Trapped u 5 (h.reg rs1)) ∧ OnlyLaunch n l s t) ∧
     (a % 32 = 0 → (s.core n).inSp a (32 * k) = true → s.callerBusy n l = false →
        (k = 0 ∨ 256 ≤ (s.core n).inbox.length → Answers (.figReplay rd rs1 rs2) s fun t =>
          XfigDone n l r rd 0 (fun r => r) s t ∧ OnlyLaunch n l s t) ∧
        (k = 1 → (s.core n).inbox.length < 256 → Answers (.figReplay rd rs1 rs2) s fun t =>
          let u := match Msg.ofBytes l (Memory.readN s.mem (poolAddr n a) 32) with
            | some m => s.takeMsg n m
            | none => (s.consume n l).countStale n
          t.res? n l = (u.res? n l).map (fun q => { q with caller :=
            { q.caller.setReg rd 1#64 with pc := q.caller.pc + 4#64, stall := none } }) ∧ OnlyLaunch n l u t))))

/-- R31, R33, R197, R198: FIG.SETW sets the grant a request gets, unless a micro-thread of the launch is free, parked or faulted; FIG.ALLOC
creates micro-threads of a budget and role, first in retired slots of the launch, then in unowned ones. R199, R224: the register window:
what FIG.RDREG reads of a live micro-thread of the launch and of a convergence register, and what FIG.WRREG writes of one that is faulted.
-/
def Obligations.SlotAndRegisterWindowResults : Prop :=
  (∀ (rd rs1 rs2 : XReg) (s : State) (n l : Nat) (r : Res), s.Calling n l r → Tbl.sorted (s.core n).slots = true →
    let c := s.core n
    let h := r.caller
    let held : Prop := ∃ x ∈ c.owned l, (c.micro x).life = .free ∨ (c.micro x).life = .parked ∨ (c.micro x).life = .faulted
    let w := (h.reg rs1).toNat
    let spec := (h.reg rs2).toNat
    let bud := spec % 256
    let role := spec / 256
    let gets (req grant : Nat) : Prop :=
      (req = 0 → grant = c.cap) ∧ (0 < req → ∃ e, 2 ^ e ≤ req ∧ req < 2 ^ (e + 1) ∧ grant = min c.cap (2 ^ e))
    let noSets : Prop := ∀ k, k < recNat r.record 11 1 → recNat r.record (128 + 8 * k) 1 ≠ 1
    let recut (t : State) : Tbl Xac :=
      if (t.core n).sets l = c.sets l then r.xacs else recutXacs r.xacs (c.sets l) ((t.core n).sets l)
    (held → Answers (.figSetw rd rs1) s fun t => XfigDone n l r rd (r.grant.getD 0) (fun r => r) s t ∧ OnlyLaunch n l s t) ∧
    -- without a grant the request is kept for the first FIG.ALLOC (log 20)
    (¬ held → r.grant = none → ∀ grant, gets w grant → Answers (.figSetw rd rs1) s fun t =>
      XfigDone n l r rd grant (fun r => { r with setw := some (h.reg rs1) }) s t ∧ OnlyLaunch n l s t) ∧
    (¬ held → ∀ old grant, r.grant = some old → gets w grant → Answers (.figSetw rd rs1) s fun t =>
      ∃ v, XfigDone n l r rd grant
          (fun r => { r with setw := some (h.reg rs1), grant := some grant, xacs := recut t, levels := v }) s t ∧
        (noSets → v = r.levels ∧ OnlyLaunch n l s t)) ∧
    (1024 ≤ spec ∨ bud ∉ [16, 24, 32, 40, 48, 56] ∨ held ∨ (0 < role ∧ (recNat r.record 73 1).testBit (role - 1) = false) →
      Answers (.figAlloc rd rs1 rs2) s fun t => XfigDone n l r rd 0 (fun r => r) s t ∧ OnlyLaunch n l s t) ∧
    -- role 0 creates called micro-threads, a declared role free ones at its PC
    (spec < 1024 → bud ∈ [16, 24, 32, 40, 48, 56] → ¬ held → role = 0 ∨ role ≤ 3 ∧ (recNat r.record 73 1).testBit (role - 1) = true →
      ∀ own new, c.allocSlots l r w bud role = (own, new) →
      (own ++ new = [] → Answers (.figAlloc rd rs1 rs2) s fun t =>
        XfigDone n l r rd 0 (fun r => r) s t ∧ OnlyLaunch n l s t) ∧
      (own ++ new ≠ [] → ∀ grant, (∀ old, r.grant = some old → grant = old) →
        (r.grant = none → gets ((r.setw.getD 0#64).toNat) grant) → Answers (.figAlloc rd rs1 rs2) s fun t =>
        ∃ v, XfigDone n l r rd (own.length + new.length)
          (fun r => { r with rfUsed := r.rfUsed + 4 * bud * new.length, grant := some grant, xacs := recut t, levels := v }) s t ∧
        (noSets → v = r.levels ∧ OnlyMicros n s t ∧ (∀ x, x ∉ own ++ new → t.microAt n x = s.microAt n x) ∧
          ∀ x ∈ own ++ new, ∃ u, t.microAt n x = some u ∧ u =
            { Micro.blank with
              gen := (c.micro x).gen, owner := some l, life := .created, mode := if role = 0 then .called else .free
              bud := bud, role := role, late := u.late
              pc := if role = 0 then 0#32 else BitVec.ofNat 32 (recNat r.record (100 + 8 * (role - 1)) 4)
              csp := BitVec.ofNat 32 (recNat r.record 68 4 + 8 * recNat r.record 72 1 * x) }))))  ∧
  (∀ (rd rs1 rs2 : XReg) (s : State) (n l : Nat) (r : Res), s.Calling n l r → Tbl.sorted (s.core n).slots = true →
    let c := s.core n
    let h := r.caller
    ∀ (slot k : Nat) (m : Micro), (h.reg rs1).toNat = 256 * slot + k → k < 256 → slot < 1024 → s.microAt n slot = some m →
    let reads (v : Nat) : Prop := Answers (.figRdreg rd rs1) s fun t =>
      XfigDone n l r rd v (fun r => r) s t ∧ OnlyLaunch n l s t
    let v := h.reg rs2
    let writes (u : Micro) : Prop := Answers (.figWrreg rd rs1 rs2) s fun t =>
      XfigDone n l r rd 0 (fun r => r) s t ∧ t.microAt n slot = some u ∧ (∀ x, x ≠ slot → t.microAt n x = s.microAt n x) ∧
        OnlyMicros n s t
    let refuses : Prop := Answers (.figWrreg rd rs1 rs2) s fun t =>
      XfigDone n l r rd 1 (fun r => r) s t ∧ OnlyLaunch n l s t
    let mine : Prop := m.owner = some l ∧ m.life ≠ .created ∧ m.life ≠ .retired
    (∀ i : Fin 64, k = i → i.val < 56 → i.val < m.bud → mine → reads m.regs[i].toNat) ∧
    (k < 56 → m.bud ≤ k → mine → reads 0) ∧
    (k < 128 → ¬ mine → reads 0) ∧
    (mine → (k = 64 → reads m.preds.toNat) ∧ (k = 65 → reads m.fflags.toNat) ∧ (k = 66 → reads m.frm.toNat) ∧
      (k = 69 → reads m.csp.toNat) ∧
      (k = 70 → ∀ a, (m.life, a) ∈ [(.called, 1), (.free, 2), (.parked, 3), (.faulted, 4), (.halted, 5)] →
        reads (a + if m.mode = .free then 8 else 0)) ∧
      (k = 71 → reads (m.pend.toNat % 2 ^ 32)) ∧ (k = 72 → reads (m.pend.toNat / 2 ^ 32 % 2 ^ 24)) ∧
      (k = 67 → m.life ≠ .faulted → (∀ p, m.pos = some p → reads p.fig.toNat) ∧
        (m.pos = none → m.mode = .free → reads m.pc.toNat) ∧
        (m.pos = none → m.mode = .called → ∀ f q, m.callq = f :: q → reads f.toNat)) ∧
      (∀ i, m.life = .faulted → m.fault = some i → (k = 67 → reads i.fig.toNat) ∧ (k = 68 → reads i.off)) ∧
      (k = 73 → ∀ x, m.mailbox = some x → reads x.toNat) ∧
      (k = 74 → reads (if m.mailbox.isSome then 1 else 0)) ∧ (k = 75 → reads m.resume.toNat)) ∧
    (128 ≤ k → k < 144 → reads ((r.cv (k - 128)).count + 2 ^ 16 * (r.cv (k - 128)).sigs.length)) ∧
    (m.owner = some l → m.life = .faulted →
      (k < 56 → k < m.bud → writes (m.setReg (BitVec.ofNat 6 k) (v.setWidth 32))) ∧
      (k = 64 → writes { m with preds := v.setWidth 7 }) ∧ (k = 65 → writes { m with fflags := v.setWidth 5 }) ∧
      (k = 66 → v.toNat % 2 ^ 32 ≤ 4 → writes { m with frm := v.setWidth 3 }) ∧ (k = 69 → writes { m with csp := v.setWidth 32 }) ∧
      (k < 56 → m.bud ≤ k → refuses)) ∧
    (k < 128 → m.life ≠ .faulted → refuses) ∧
    (128 ≤ k → k < 144 → 1 ≤ v.toNat → v.toNat ≤ 1024 → (r.cv (k - 128)).sigs = [] → Answers (.figWrreg rd rs1 rs2) s fun t =>
      XfigDone n l r rd 0
        (fun r => { r with cvs := r.cvs.mapIdx fun i x => if i = k - 128 then ⟨v.toNat, []⟩ else x }) s t ∧
      OnlyLaunch n l s t) ∧
    (128 ≤ k → k < 144 → v.toNat = 0 ∨ 1024 < v.toNat ∨ (r.cv (k - 128)).sigs ≠ [] → refuses))

/-- R88, R200: FIG.RESUME of a micro-thread faulted at an instruction of its figure: mode 0 goes back to the instruction, mode 2 retires the
micro-thread; one that is not faulted is refused with 1. R202, R387, R388: FIG.LAUNCH first waits for the caller's earlier stores, behind a
fence; then a record that the scheduler does not refuse becomes a waiting launch, posted by this one, and rd holds its identifier; a refused
one gives 0. -/
def Obligations.FaultResumeAndLaunchPostResults : Prop :=
  (∀ (rd rs1 rs2 : XReg) (s : State) (n l : Nat) (r : Res) (slot : Nat) (m : Micro), s.Calling n l r →
    (r.caller.reg rs1).toNat = slot → slot < 1024 → s.microAt n slot = some m →
    (∀ i, m.life = .faulted → m.fault = some i → m.owner = some l → i.redo = .instruction →
      ((r.caller.reg rs2).toNat = 0 → Answers (.figResume rd rs1 rs2) s fun t =>
        XfigDone n l r rd 0 (fun r => r) s t ∧
        (∃ u, t.microAt n slot = some u ∧
          u = { m with
            life := if i.inFig = false ∧ m.waits = true ∧ m.rearmed = false then .parked
                    else if m.mode = .called then .called else .free
            fault := none, pos := if i.inFig then some ⟨i.fig, i.off, i.ll⟩ else none, since := (s.core n).eligible }) ∧
        (∀ x, x ≠ slot → t.microAt n x = s.microAt n x) ∧ OnlyMicros n s t) ∧
      ((r.caller.reg rs2).toNat = 2 → m.linked = .none → s.Sound → Answers (.figResume rd rs1 rs2) s fun t =>
        XfigDone n l r rd 0 (fun r => r) s t ∧
        (∃ u, t.microAt n slot = some u ∧ u.life = .retired ∧ u.gen = m.gen + 1#16 ∧ u.owner = m.owner ∧ u.bud = m.bud ∧
          u.role = m.role ∧ u.callq = [] ∧ u.mailbox = none ∧ u.fault = none ∧ u.pos = none) ∧
        (∀ x, x ≠ slot → t.microAt n x = s.microAt n x) ∧ OnlyDrops s t ∧
        OnlyMicros n s { t with flights := s.flights, clusters := s.clusters } ∧
        ∀ id f, Tbl.get? s.flights id = some f → f.isFence = false → f.core ≠ n ∨ (∀ w ∈ f.who, w.slot ≠ slot) →
          ∃ u, Tbl.get? t.flights id = some u ∧ u = { f with stage := u.stage }) ∧
      ((r.caller.reg rs2).toNat = 1 → i.inFig = true → i.trailer = none → 0 < i.len → Answers (.figResume rd rs1 rs2) s fun t =>
        XfigDone n l r rd 0 (fun r => r) s t ∧
        (∃ u p, t.microAt n slot = some u ∧ u =
            { m with life := if m.mode = .called then .called else .free, fault := none, pos := some p
                     since := (s.core n).eligible } ∧
          p.fig = i.fig ∧ p.off = i.off + i.len ∧ i.ll ≤ p.ll ∧ p.ll ≤ i.ll + 1) ∧
        (∀ x, x ≠ slot → t.microAt n x = s.microAt n x) ∧ OnlyMicros n s t)) ∧
    ((r.caller.reg rs2).toNat > 2 ∨ m.owner ≠ some l ∨ m.life ≠ .faulted → Answers (.figResume rd rs1 rs2) s fun t =>
      XfigDone n l r rd 1 (fun r => r) s t ∧ OnlyLaunch n l s t)) ∧
  (∀ (rd rs1 : XReg) (s : State) (n l : Nat) (r : Res), s.Calling n l r → s.Sound →
    let va := (r.caller.reg rs1).toNat
    (r.caller.stall = none → Answers (.figLaunch rd rs1) s fun t =>
      let f : Flight :=
        { core := n, launch := l, agent := .caller, who := [], fig := 0#32, off := 0, word := 0#32, ll := 8, dst := 0#6
          dstN := 0, ea := 0#64, sent := s.nextId, op := .fence 3 4 (s.cluster (clusterOf n)).wtb, stage := .request }
      t.res? n l = some { r with caller := { r.caller with stall := some (.launch rd rs1) } } ∧
      Tbl.get? t.flights s.nextId = (if s.fenceDone s.nextId f then none else some f) ∧ t.nextId = s.nextId + 1 ∧
      OnlyDrops s t ∧ SettlesFlights s.nextId s t ∧
      OnlyLaunch n l s { t with flights := s.flights, clusters := s.clusters, nextId := s.nextId }) ∧
    (r.caller.stall ≠ none → s.callerFenced n l = true → Answers (.figLaunch rd rs1) s fun t =>
      t.res? n l = some { r with caller := { r.caller with stall := some (.launch rd rs1) } } ∧ OnlyLaunch n l s t) ∧
    (∀ x, r.caller.stall ≠ none → s.callerFenced n l = false → s.launch? l = some x →
      let refused : Prop := Answers (.figLaunch rd rs1) s fun t => XfigDone n l r rd 0 (fun r => r) s t ∧ OnlyLaunch n l s t
      (va % 64 ≠ 0 ∨ isArray (r.caller.reg rs1) = true ∨ canonical (r.caller.reg rs1) = false → refused) ∧
      (∀ bytes prio, va % 64 = 0 → isArray (r.caller.reg rs1) = false → canonical (r.caller.reg rs1) = true →
        s.readRecord x.asid (va % 2 ^ 48) 8 = .ok bytes →
        (∀ q : HostQ, s.dsc.queues[x.rootq]? = some q → prio = q.cfg.toNat / 2 ^ 35 % 8) →
        (s.dsc.queues[x.rootq]? = none → prio = x.rootPrio) →
        (s.refuses bytes x.asid x.part prio = none → Answers (.figLaunch rd rs1) s fun t =>
          let k := if s.dsc.idents + 1 = 2 ^ 31 then 1 else s.dsc.idents + 1
          let id := k + 2 ^ 31 * s.cardNo
          XfigDone n l r rd id (fun r => r) s t ∧ OnlyLaunch n l s { t with dsc := s.dsc } ∧
          (∃ y, Tbl.get? t.dsc.launches id = some y ∧ y.record = bytes ∧ y.state = .waiting ∧ y.rootq = x.rootq ∧
            y.rootPrio = x.rootPrio ∧ y.poster = some (n, l) ∧ y.entry = none ∧ y.restarts = 0 ∧ y.order = s.dsc.orders) ∧
          (∀ j, j ≠ id → Tbl.get? t.dsc.launches j = Tbl.get? s.dsc.launches j) ∧
          t.dsc = { s.dsc with idents := k, orders := s.dsc.orders + 1, launches := t.dsc.launches }) ∧
        (s.refuses bytes x.asid x.part prio ≠ none → refused))))

/-- R29, R38, R169, R179-R182, R187, R260, R277: the issue of a core: a created micro-thread is initialised, a deferred fault is taken, a
QUIT whose conditions hold retires, the budgets are refilled, a fault message is posted, a rotation slot takes a group, and a missing code
line arrives. -/
def Obligations.IssueEventResults : Prop := ∀ (s : State) (n : Nat), n < 80 →
  let c := s.core n
  let others (slot : Nat) (t : State) : Prop :=
    OnlyMicros n s t ∧ (t.core n).res = c.res ∧ ∀ x, x ≠ slot → t.microAt n x = s.microAt n x
  (∀ slot m, s.microAt n slot = some m → m.life = .created → Answers (.microthreadInitComplete n slot) s fun t =>
    t.microAt n slot = some { m with life := if m.mode = .called then .called else .free, since := c.eligible } ∧
    others slot t) ∧
  (∀ slot m i rest, s.microAt n slot = some m → m.deferred = i :: rest → m.life ∈ [.called, .free, .parked] → m.fault = none →
    m.pos = none → c.inGroup slot = false → Answers (.deferredFault n slot) s fun t =>
    t.microAt n slot = some { m with life := .faulted, fault := some { i with stamp := c.eligible }, deferred := rest } ∧
    others slot t) ∧
  (∀ slot m, s.microAt n slot = some m → m.quitting = true → m.life = .parked ∨ m.rearmed = true → c.inGroup slot = false → m.linked = .none →
    m.deferred = [] → m.pend = 0#64 →
    (∀ p ∈ s.flights, p.2.core = n → p.2.agent = .micro → (∃ w ∈ p.2.who, w.slot = slot ∧ w.gen = m.gen) →
      8 ≤ p.2.ll ∧ p.1 ∉ c.fifo) →
    Answers (.quitRetire n slot) s fun t =>
      (∃ u, t.microAt n slot = some u ∧ u.life = .retired ∧ u.gen = m.gen + 1#16 ∧ u.owner = m.owner ∧ u.bud = m.bud ∧
        u.role = m.role ∧ u.mailbox = none) ∧ others slot t) ∧
  (Answers (.budgetRefill n) s fun t =>
    OnlyCore n s t ∧ (t.core n).cyc = BitVec.ofNat 64 ((c.cyc.toNat / 1024 + 1) * 1024) ∧ (t.core n).slots = c.slots ∧
    ∀ l, t.res? n l = (s.res? n l).map fun r =>
      if c.bEn = true ∧ r.phase ≠ .saved then { r with budget := min (r.budget + c.bRefill.toNat) c.bCeil.toNat } else r) ∧
  (∀ slot m l r i dst q, s.microAt n slot = some m → m.owner = some l → s.res? n l = some r → r.phase = .resident →
    c.firstUnposted l = some (slot, i) → m.life = .faulted → m.fault = some i → coreOfCode (r.caller.fsup.toNat % 512) = some dst →
    s.res? dst l = some q → q.phase = .resident → (∀ b, Spill.faultMsg b ∉ q.spill) → q.caller.ended = false → q.mbox.length < 64 →
    Answers (.faultMessagePost n slot) s fun t =>
      t.res? dst l = some { q with mbox := q.mbox ++ [bytesOfNat 4 (slot + 1024 * s.coreWord n) ++ bytesOfNat 2 i.gen.toNat ++
        [i.code, BitVec.ofNat 8 i.off] ++ bytesOfNat 4 i.fig.toNat ++ bytesOfNat 4 i.detail.toNat] } ∧
      t.microAt n slot = some { m with fault := some { i with posted := true } } ∧
      (∀ x y, x ≠ n ∨ y ≠ slot → t.microAt x y = s.microAt x y) ∧ (∀ x y, x ≠ dst ∨ y ≠ l → t.res? x y = s.res? x y) ∧
      (∀ x, t.core x = { s.core x with slots := (t.core x).slots, res := (t.core x).res }) ∧
      (i.code ≠ 0x0D#8 → t.watch = s.watch ∧ t.fresh = s.fresh) ∧
      t = { s with cores := t.cores, watch := t.watch, fresh := t.fresh }) ∧
  (∀ port rot l r lead fig rest, port < 8 → rot < 8 → rot < s.power.throttle → Tbl.get? c.groups (port * 8 + rot) = none →
    c.parked = false → (c.serviceOrder port).find? (fun l => !(s.eligible n l port).isEmpty) = some l →
    s.res? n l = some r → s.eligible n l port = (lead, fig) :: rest → s.isStart n l fig = true →
    Answers (.rotationSlotFill n port rot) s fun t =>
      (∃ g, Tbl.get? (t.core n).groups (port * 8 + rot) = some g ∧ g.launch = l ∧ g.fig = fig ∧
        ((c.micro lead).pos = none → g.off = 0 ∧ g.ll = 0) ∧
        (∀ p, (c.micro lead).pos = some p → g.off = p.off ∧ g.ll = p.ll ∧ g.members = [lead]) ∧
        ((s.traits r fig).2 = false → (c.micro lead).pos = none → ∀ x, x ∈ g.members ↔
          x ∈ ((((lead, fig) :: rest).filter fun p => p.2 = fig ∧ (c.micro p.1).pos = none).map Prod.fst).take 64) ∧
        (∀ x, x ∉ g.members → t.microAt n x = s.microAt n x) ∧
        ∀ x m, x ∈ g.members → s.microAt n x = some m → ∃ u, t.microAt n x = some u ∧
          u = { m with callq := u.callq, regs := u.regs, bad := u.bad } ∧
          (m.pos = none → u.callq = if m.mode = .called then m.callq.tail else m.callq) ∧
          ∀ d : Reg, d.toNat < 56 → u.reg d = m.reg d) ∧
      (∀ j, j ≠ port * 8 + rot → Tbl.get? (t.core n).groups j = Tbl.get? c.groups j) ∧
      t.core n = { c with slots := (t.core n).slots, groups := (t.core n).groups, lastServed := (t.core n).lastServed } ∧
      (t.core n).lastServed = c.lastServed.mapIdx (fun i v => if i = port then l else v) ∧
      t = { s with cores := t.cores, fresh := t.fresh } ∧ ∀ x, x ≠ n → t.core x = s.core x) ∧
  (∀ port rot g v rest r, Tbl.get? c.groups (port * 8 + rot) = some g → g.waiting = v :: rest → s.res? n g.launch = some r →
    r.phase = .resident →
    let arrives (t : State) : Prop :=
      Tbl.get? (t.core n).groups (port * 8 + rot) = some { g with waiting := rest } ∧
      (∀ j, j ≠ port * 8 + rot → Tbl.get? (t.core n).groups j = Tbl.get? c.groups j) ∧
      t.core n = { c with groups := (t.core n).groups, code := (t.core n).code } ∧ (∀ x, x ≠ n → t.core x = s.core x) ∧
      t = { s with cores := t.cores, clusters := t.clusters, tlus := t.tlus, watch := t.watch, fresh := t.fresh }
    (c.hasCode r.asid v = true → Answers (.codeFetchArrival n port rot) s fun t =>
      arrives t ∧ (t.core n).code = c.code ∧ OnlyCore n s t) ∧
    (∀ pa cc o, c.hasCode r.asid v = false → s.translate r.asid (v * 64) .exec = .ok pa cc →
      s.codeObject r.asid r.code = some o → pa / 0x1000 ∈ o.pages →
      let cl := clusterOf n
      let line := s.mergeBuffer cl r.asid v (s.lineAt pa)
      (∀ x, cc = true → (s.cluster cl).find r.asid v false = some x → Answers (.codeFetchArrival n port rot) s fun t =>
        arrives t ∧ (t.core n).code.head? = some (r.asid, v, x.data) ∧ t.clusters = s.clusters ∧ t.watch = s.watch) ∧
      (cc = true → (s.cluster cl).find r.asid v false = none → s.isBad pa 64 = false →
        Answers (.codeFetchArrival n port rot) s fun t =>
          arrives t ∧ (t.core n).code.head? = some (r.asid, v, line) ∧
          (t.cluster cl).lines.head? = some ⟨r.asid, v, false, line⟩ ∧
          (∀ x ∈ (t.cluster cl).lines, x ∈ (s.cluster cl).lines ∨ x = ⟨r.asid, v, false, line⟩) ∧
          (∀ k, k ≠ cl → t.cluster k = s.cluster k) ∧ OnlyCorrects s t) ∧
      (cc = false → s.isBad pa 64 = false → Answers (.codeFetchArrival n port rot) s fun t =>
        arrives t ∧ (t.core n).code = c.code ∧ t.clusters = s.clusters ∧ OnlyCorrects s t)))

/-- R157, R159, R163, R164, R174, R353, R364, R370, R371: array accesses at their owning ports. A load's value is bound; a store's bytes are
written, and traced where they come from another core; an atomic returns the old value; an acknowledgement ends a store. R164, R174, R242,
R270, R329, R353, R360: the oldest entry of a store FIFO leaves it: a store or atomic of the own pool is performed, one of another core's pool is
sent to its port, a global one enters the cluster's write-through buffer. The acknowledgement of a store ends it, and a performed entry
leaves the buffer. -/
def Obligations.PortAndFifoResults : Prop :=
  (∀ (s : State) (id : Nat) (f : Flight) (c off : Nat),
    s.Sound → Tbl.get? s.flights id = some f → s.targetOfFlight f = .pool false c off → s.lineBusy f c off = false → c < 80 →
    f.core < 80 →
    let old (a n : Nat) : Nat := s.peek (poolAddr c a) n
    let here (bytes : Nat) : Prop := s.portOk c f.launch off bytes = true ∧ s.away c f.launch = false
    let untraced : Prop := (s.core c).traceEn = false ∨ f.core = c
    (∀ sz k, f.op = .load sz k → s.loadMay id f = true → s.away f.core f.launch = false → s.forward id f = .none →
      (f.stage = .request → here f.size → s.isBad (poolAddr c off) f.size = false →
        (f.size ≠ 16 → Answers (.owningPortLoad id) s fun t =>
          t.flies id f (.reply (extendLoad sz (old off f.size)) 0#5) ∧ OnlyFlights id s t) ∧
        (f.size = 16 → Answers (.owningPortLoad id) s fun t =>
          t.flies id f (.half (BitVec.ofNat 64 (old off 8))) ∧ OnlyFlights id s t)) ∧
      (∀ low, f.stage = .half low → f.size = 16 → here 16 → s.isBad (poolAddr c off) 16 = false →
        Answers (.owningPortLoad id) s fun t =>
          t.flies id f (.reply (BitVec.ofNat 128 (low.toNat + 2 ^ 64 * old (off + 8) 8)) 0#5) ∧ OnlyFlights id s t) ∧
      (f.stage = .request → s.portOk c f.launch off f.size = false → f.agent = .micro → Answers (.owningPortLoad id) s fun t =>
        DefersTo id f 0x04#8 4 off s t)) ∧
    (∀ bytes k data, f.op = .store bytes k data → s.inFifo f.core id = false → here bytes →
      let m := Memory.writeN s.mem (poolAddr c off) (bytesOfNat bytes data.toNat)
      (f.stage = .request → bytes ∈ [1, 2, 4, 8] → 4 ≤ bytes ∨ s.isBad (poolAddr c off) bytes = false →
        Answers (.owningPortStore id) s fun t =>
        t.flies id f .acked ∧ OnlyFlightsMem id s t ∧
        (untraced → t.mem = m ∧ t.cores = s.cores) ∧
        ((s.core c).traceEn = true → f.core ≠ c → f.agent = .micro →
          t.mem = Memory.writeN m (poolAddr c ((s.core c).traceRing + 16 * ((s.core c).traceSeq.toNat % 1024)))
            (bytesOfNat 4 (s.core c).traceSeq.toNat ++ bytesOfNat 2 (s.coreWord f.core) ++
              [1#8, BitVec.ofNat 8 (Nat.log2 bytes)] ++ bytesOfNat 4 off ++ bytesOfNat 4 (data.toNat % 2 ^ 32)) ∧
          (t.core c).traceSeq = (s.core c).traceSeq + 1#32 ∧ ∀ x, x ≠ c → t.core x = s.core x)) ∧
      -- 16 bytes go in two halves
      (f.stage = .request → bytes = 16 → untraced → Answers (.owningPortStore id) s fun t =>
        t.flies id f (.half 0#64) ∧ OnlyFlightsMem id s t ∧ t.cores = s.cores ∧
        t.mem = Memory.writeN s.mem (poolAddr c off) (bytesOfNat 8 data.toNat)) ∧
      (∀ low, f.stage = .half low → bytes = 16 → Answers (.owningPortStore id) s fun t =>
        t.flies id f .acked ∧ OnlyFlightsMem id s t ∧ t.cores = s.cores ∧
        t.mem = Memory.writeN s.mem (poolAddr c (off + 8)) (bytesOfNat 8 (data.toNat / 2 ^ 64)))) ∧
    (∀ f7 b, f.op = .atomic f7 b → f.stage = .request → here f.size → s.isBad (poolAddr c off) f.size = false → untraced →
      Answers (.owningPortAtomic id) s fun t =>
        t.flies id f (.reply (BitVec.ofNat 128 (old off f.size)) (atomResult f7 (old off f.size) b).2) ∧
        OnlyFlightsMem id s t ∧ t.cores = s.cores ∧
        t.mem = Memory.writeN s.mem (poolAddr c off) (bytesOfNat f.size (atomResult f7 (old off f.size) b).1)) ∧
    (f.isAtomic = true → f.stage = .request → s.portOk c f.launch off f.size = false → f.agent = .micro →
      Answers (.owningPortAtomic id) s fun t => DefersTo id f 0x04#8 4 off s t)) ∧
  (∀ (s : State) (n id : Nat) (rest : List Nat) (f : Flight),
    s.Sound → n < 80 → Tbl.get? s.flights id = some f → f.core = n →
    -- beside the entry, the FIFO and what a write to the own pool changes, nothing does
    let leaves (t : State) : Prop :=
      t.core n = { s.core n with fifo := rest.filter fun x => x ≠ id } ∧ (∀ x, x ≠ n → t.core x = s.core x) ∧
        OnlyFlightsMem id s { t with cores := s.cores }
    ((s.core n).fifo = id :: rest → s.away n f.launch = false → f.stage ≠ .parked → s.held id f = false →
      s.loadsOpen id f = false →
      (∀ bytes k data off, f.op = .store bytes k data → s.targetOfFlight f = .pool false n off →
        s.portOk n f.launch off bytes = true →
        (bytes ∈ [1, 2, 4, 8] → 4 ≤ bytes ∨ s.isBad (poolAddr n off) bytes = false → Answers (.storeFifoExit n) s fun t =>
          t.mem = Memory.writeN s.mem (poolAddr n off) (bytesOfNat bytes data.toNat) ∧ Tbl.get? t.flights id = none ∧ leaves t) ∧
        (bytes = 16 → (∀ low, f.stage ≠ .half low) → Answers (.storeFifoExit n) s fun t =>
          t.mem = Memory.writeN s.mem (poolAddr n off) (bytesOfNat 8 data.toNat) ∧ t.flies id f (.half 0#64) ∧
          t.cores = s.cores ∧ OnlyFlightsMem id s t) ∧
        (∀ low, bytes = 16 → f.stage = .half low → Answers (.storeFifoExit n) s fun t =>
          t.mem = Memory.writeN s.mem (poolAddr n (off + 8)) (bytesOfNat 8 (data.toNat / 2 ^ 64)) ∧
          Tbl.get? t.flights id = none ∧ leaves t)) ∧
      (∀ c off, f.isStore = true ∨ f.isAtomic = true → s.targetOfFlight f = .pool false c off → c ≠ n →
        Answers (.storeFifoExit n) s fun t =>
          Tbl.get? t.flights id = some { f with stage := .request, sent := s.nextId } ∧ t.nextId = s.nextId + 1 ∧
          t.mem = s.mem ∧ t.clusters = s.clusters ∧ leaves { t with nextId := s.nextId }) ∧
      (∀ f7 b off, f.op = .atomic f7 b → s.targetOfFlight f = .pool false n off → s.portOk n f.launch off f.size = true →
        s.isBad (poolAddr n off) f.size = false → Answers (.storeFifoExit n) s fun t =>
          let old := s.peek (poolAddr n off) f.size
          t.flies id f (.reply (BitVec.ofNat 128 old) (atomResult f7 old b).2) ∧
          t.mem = Memory.writeN s.mem (poolAddr n off) (bytesOfNat f.size (atomResult f7 old b).1) ∧ leaves t) ∧
      (∀ va pa cc, f.isStore = true ∨ f.isAtomic = true → s.targetOfFlight f = .global va → f.stage = .ready pa cc →
        (s.cluster (clusterOf n)).wtb.length < 64 → Answers (.storeFifoExit n) s fun t =>
          let cl := clusterOf n
          let mine (x : CLine) : Bool := x.asid == s.asidOf n f.launch && x.vline == f.vline
          Tbl.get? t.flights id = some { f with stage := .home pa cc, sent := s.nextId } ∧ t.nextId = s.nextId + 1 ∧
          t.core n = { s.core n with fifo := rest.filter fun x => x ≠ id } ∧ (∀ x, x ≠ n → t.core x = s.core x) ∧
          t = { s with cores := t.cores, clusters := t.clusters, flights := t.flights, nextId := t.nextId } ∧
          (∀ k, k ≠ cl → (t.cluster k).wtb = (s.cluster k).wtb ∧ ∀ x ∈ (t.cluster k).lines, x ∈ (s.cluster k).lines) ∧
          (t.cluster cl).wtb = (s.cluster cl).wtb ++ [id] ∧
          (∀ bytes k data, f.op = .store bytes k data → ∀ x ∈ (t.cluster cl).lines, ∃ y ∈ (s.cluster cl).lines,
            x = if mine y then { y with data := putLine y.data (f.ea.toNat % 2 ^ 48 % 64) bytes data.toNat } else y) ∧
          (f.isAtomic = true → ∀ x ∈ (t.cluster cl).lines, x ∈ (s.cluster cl).lines ∧ mine x = false) ∧
          ∀ x g, x ≠ id → Tbl.get? s.flights x = some g → g.isFence = false →
            ∃ u, Tbl.get? t.flights x = some u ∧ u = { g with stage := u.stage })) ∧
    (f.isStore = true → f.stage = .acked → s.hasParent f = false → id ∉ (s.cluster (clusterOf n)).wtb →
      Answers (.storeAck id) s fun t => Tbl.get? t.flights id = none ∧ OnlyFlights id s t) ∧
    (f.bound = true → s.entriesAhead id f = [] → Answers (.writeThroughAck id) s fun t =>
      (∀ cl, cl < 10 → t.cluster cl =
          { s.cluster cl with lines := (t.cluster cl).lines, wtb := (s.cluster cl).wtb.filter fun x => x ≠ id } ∧
        ∀ x ∈ (t.cluster cl).lines, x ∈ (s.cluster cl).lines) ∧
      t = { s with clusters := t.clusters, flights := t.flights } ∧ SettlesFlights s.nextId s t))

/-- R161, R164, R170, R208, R329, R357, R359, R368, R376, R378: global accesses: the translation, the fault record of a failed walk, which
parks the access; the read, store and atomic at the home, a host hart's store, and the fill's arrival. R18, R120, R169, R263, R282: a
result's words are written, its pending bits and its await bit clear, and the access is over. A wake sends what waited for its page again.
-/
def Obligations.GlobalAccessAndDeliveryResults : Prop :=
  (∀ (s : State) (id : Nat) (f : Flight) (va : Nat),
    s.Sound → Tbl.get? s.flights id = some f → f.core < 80 → s.targetOfFlight f = .global va →
    let n := f.core
    let asid := s.asidOf n f.launch
    let cl := clusterOf n
    let rest (t : State) : Prop := ∀ x, x ≠ id → Tbl.get? t.flights x = Tbl.get? s.flights x
    let reads : Prop := s.loadMay id f = true ∧ s.away n f.launch = false ∧ f.stage = .request
    let writes : Prop := f.isStore = true ∨ f.isAtomic = true
    let heads : Prop := f.stage = .fifo ∧ (s.core n).fifo.head? = some id ∧ s.held id f = false
    let open_ : Prop := ∀ r ∈ (s.tlu (tluOf va)).recs, ¬ (r.asid = asid ∧ r.page = va / 0x1000)
    -- translation: a load is sent on, a write waits at the head of the FIFO for the buffer
    (∀ sz k pa cc, f.op = .load sz k → reads → s.translate asid va .read = .ok pa cc → Answers (.tluTranslation id) s fun t =>
      Tbl.get? t.flights id = some { f with stage := .home pa cc, sent := s.nextId } ∧ rest t ∧
      t = { s with flights := t.flights, tlus := t.tlus, nextId := s.nextId + 1 }) ∧
    (∀ pa cc, writes → heads → s.translate asid va .write = .ok pa cc → Answers (.tluTranslation id) s fun t =>
      t.flies id f (.ready pa cc) ∧ rest t ∧ t = { s with flights := t.flights, tlus := t.tlus }) ∧
    -- a failed walk posts a record, unless the page has one, and parks the access
    (∀ leaf w (load : Bool), (∃ sz k, load = true ∧ f.op = .load sz k ∧ reads) ∨ (load = false ∧ writes ∧ heads) →
      f.agent = .micro → f.who = [w] → s.translate asid va (if load then .read else .write) = .fail leaf →
      Answers (.tluTranslation id) s fun t =>
        Tbl.get? t.flights id = some { f with stage := .parked, sent := s.nextId } ∧ rest t ∧
        (open_ → (t.tlu (tluOf va)).recs = (s.tlu (tluOf va)).recs ++
          [⟨(s.tlu (tluOf va)).formed % 2 ^ 32, if load then 0 else 1, asid, va / 0x1000, leaf, .offered⟩]) ∧
        (¬ open_ → t.tlus = s.tlus) ∧ (∀ k, k ≠ tluOf va → t.tlu k = s.tlu k) ∧
        (∀ m, s.microAt n w.slot = some m → m.gen = w.gen →
          ∃ u, t.microAt n w.slot = some u ∧ id ∈ u.parkedOn ∧ (∀ x ∈ u.parkedOn, x = id ∨ x ∈ m.parkedOn) ∧
            u = { m with parkedOn := u.parkedOn, life := u.life, since := u.since, rearmed := u.rearmed }) ∧
        (∀ x, x ≠ w.slot → t.microAt n x = s.microAt n x) ∧
        OnlyMicros n s { t with flights := s.flights, tlus := s.tlus, nextId := s.nextId } ∧ t.nextId = s.nextId + 1) ∧
    -- the home
    (∀ sz k pa cc, f.op = .load sz k → f.stage = .home pa cc → s.readHeld n f.launch f.vline f.sent pa = false →
      (cc = false ∨ (s.cluster cl).find asid f.vline false = none) →
      s.isBad (pa + if f.size = 16 ∧ f.low ≠ none then 8 else 0) (if f.size = 16 then 8 else f.size) = false →
      Answers (.homeRead id) s fun t =>
        t.flies id f (.fill (s.mergeBuffer cl asid f.vline (s.lineAt pa))
          (cc && k == 0#2 && !s.isBad (pa / 64 * 64) 64)) ∧ OnlyFlights id s t) ∧
    (∀ bytes k data pa cc, f.op = .store bytes k data → f.stage = .home pa cc → s.bufferBusy id f = false →
      (s.isSealed pa = false → bytes ∈ [1, 2, 4, 8] → 4 ≤ bytes ∨ s.isBad pa bytes = false →
        Answers (.homeStore (.access id)) s fun t =>
          t.flies id f .acked ∧ t.mem = Memory.writeN s.mem pa (bytesOfNat bytes data.toNat) ∧ OnlyFlightsMem id s t ∧
          t.cores = s.cores) ∧
      (s.isSealed pa = false → bytes = 16 → f.low = none → Answers (.homeStore (.access id)) s fun t =>
        Tbl.get? t.flights id = some { f with low := some 0#64 } ∧
        t.mem = Memory.writeN s.mem pa (bytesOfNat 8 data.toNat) ∧ OnlyFlightsMem id s t ∧ t.cores = s.cores) ∧
      (s.isSealed pa = false → bytes = 16 → f.low ≠ none → Answers (.homeStore (.access id)) s fun t =>
        t.flies id f .acked ∧ t.mem = Memory.writeN s.mem (pa + 8) (bytesOfNat 8 (data.toNat / 2 ^ 64)) ∧
        OnlyFlightsMem id s t ∧ t.cores = s.cores) ∧
      (s.isSealed pa = true → f.agent = .micro → Answers (.homeStore (.access id)) s fun t =>
        OnlyDrops s t ∧ DefersTo id f 0x0A#8 0 (f.ea.toNat % 2 ^ 22) s { t with clusters := s.clusters })) ∧
    (∀ pa data, 0 < data.length → data.length ≤ 8 → pa + data.length ≤ 0x2000000000 → s.isSealed pa = false →
      pa % data.length = 0 → Answers (.homeStore (.host pa data)) s fun t =>
        t.mem = Memory.writeN s.mem pa data ∧ OnlyWrites s t) ∧
    (∀ f7 b pa cc, f.op = .atomic f7 b → f.stage = .home pa cc → s.bufferBusy id f = false →
      (s.isSealed pa = false → s.isBad pa f.size = false → Answers (.homeAtomic id) s fun t =>
        let old := s.peek pa f.size
        t.flies id f (.reply (BitVec.ofNat 128 old) (atomResult f7 old b).2) ∧
        t.mem = Memory.writeN s.mem pa (bytesOfNat f.size (atomResult f7 old b).1) ∧ OnlyFlightsMem id s t ∧
        t.cores = s.cores) ∧
      (s.isSealed pa = true → f.agent = .micro → Answers (.homeAtomic id) s fun t =>
        DefersTo id f 0x0A#8 0 (f.ea.toNat % 2 ^ 22) s t)) ∧
    -- the line for a load: the value, or the lower half of 16 bytes, whose upper half is read next
    (∀ sz k, f.op = .load sz k → s.loadMay id f = true → s.forward id f = .none →
      let binds (line : Line) (t : State) : Prop :=
        let at_ := f.ea.toNat % 64
        (f.size ≠ 16 → f.low = none → t.flies id f (.reply (extendLoad sz (getLine line at_ f.size)) 0#5)) ∧
        (f.size = 16 → f.low = none →
          Tbl.get? t.flights id = some { f with low := some (BitVec.ofNat 64 (getLine line at_ 8)), stage := .request }) ∧
        (∀ lo, f.size = 16 → f.low = some lo →
          t.flies id f (.reply (BitVec.ofNat 128 (lo.toNat + 2 ^ 64 * getLine line (at_ + 8) 8)) 0#5)) ∧
        SettlesFlights id s t
      (∀ line alloc, f.stage = .fill line alloc → Answers (.cacheFillArrival id) s fun t =>
        binds line t ∧ t = { s with clusters := t.clusters, flights := t.flights, fresh := t.fresh } ∧
        (∀ k, (t.cluster k).wtb = (s.cluster k).wtb) ∧
        (∀ k, ∀ x ∈ (t.cluster k).lines, x ∈ (s.cluster k).lines ∨ (alloc = true ∧ k = cl ∧ x = ⟨asid, f.vline, false, line⟩)) ∧
        (alloc = true → (∀ p ∈ s.flights, p.2.isFence = false) →
          (t.cluster cl).lines.head? = some ⟨asid, f.vline, false, line⟩)) ∧
      (∀ x, f.stage = .request ∨ (∃ pa, f.stage = .home pa true) → (s.cluster cl).find asid f.vline false = some x →
        Answers (.cacheFillArrival id) s fun t => binds x.data t ∧ OnlyFlights id s t))) ∧
  (∀ (s : State) (id : Nat) (f : Flight),
    s.Sound → Tbl.get? s.flights id = some f → f.core < 80 →
    (∀ data flags w m resp, f.stage = .reply data flags → f.agent = .micro → f.who = [w] → s.away f.core f.launch = false →
      s.microAt f.core w.slot = some m → m.gen = w.gen → m.life ≠ .retired → Answers (.longLatencyResult id resp) s fun t =>
        (∃ u, t.microAt f.core w.slot = some u ∧
          u = { (m.setGroup f.dst ((List.range f.dstN).map fun i => data.extractLsb' (32 * i) 32)) with
            pend := (m.clearPend f.dst f.dstN).pend, fflags := m.fflags ||| flags
            await := if w.awaited = true then m.await &&& ~~~(1#8 <<< f.ll) else m.await
            life := u.life, since := u.since, rearmed := u.rearmed }) ∧
        Tbl.get? t.flights id = none ∧ (∀ x, x ≠ w.slot → t.microAt f.core x = s.microAt f.core x) ∧
        OnlyMicros f.core s { t with flights := s.flights, clusters := s.clusters } ∧ OnlyDrops s t ∧ SettlesFlights id s t) ∧
    -- a wake sends what waited for its page again, in the order in which it parked
    (∀ asid page r, (f.core, asid, page) ∈ s.wakes → (∀ p ∈ (s.core f.core).res, p.2.ringNext < 4096) →
      s.res? f.core f.launch = some r → r.phase = .resident → r.asid = asid → f.stage = .parked →
      f.ea.toNat % 2 ^ 48 / 0x1000 = page → Answers (.wakeMessage f.core asid page) s fun t =>
        t.wakes = s.wakes.erase (f.core, asid, page) ∧
        ((∀ p ∈ (s.core f.core).res, p.2.asid = asid → p.2.phase = .resident) → t.mem = s.mem) ∧
        (∃ u, Tbl.get? t.flights id = some u ∧ s.nextId ≤ u.sent ∧
          u = { f with stage := if id ∈ (s.core f.core).fifo then .fifo else .request, sent := u.sent, low := none } ∧
          ∀ id2 g, Tbl.get? s.flights id2 = some g → g.core = f.core → g.launch = f.launch → g.stage = .parked →
            g.ea.toNat % 2 ^ 48 / 0x1000 = page → f.sent < g.sent →
            ∃ v, Tbl.get? t.flights id2 = some v ∧ u.sent < v.sent) ∧
        ∀ x g, Tbl.get? s.flights x = some g → g.stage ≠ .parked → Tbl.get? t.flights x = some g))

/-- R227, R228, R230-R234, R236: the operation at the head of the array's queue is performed once the stores before it have left the FIFO.
A resident tile is changed in the array's cells, another in the pool; an MMA makes its tile resident, and the tile that was is written
back. The tile's other bytes, and all other memory, stay as they are. R57, R215, R227: an I8 MMA adds to each element, from its old value or
with OW from 0, the exact sum of the products of the row of A and the column of B over the present chunks, modulo 2^32. A missing chunk
column of B is zeros (R218). -/
def Obligations.ArrayOperationResults : Prop :=
  (∀ (s : State) (n : Nat) (e : MxEntry) (rest : List MxEntry) (r : Res),
    n < 80 → (s.core n).mx = e :: rest → s.res? n e.launch = some r → r.phase = .resident → s.storesBefore n e.seq = false →
    let c := s.core n
    let pool (o : Nat) : Nat := poolAddr n o
    let cells : List Byte := (c.cells ++ List.replicate 16384 0#8).take 16384
    -- the pool with the resident tile written back
    let flushed : List Host.Cell := match c.resident with
      | some (l, k) => (match s.res? n l with
        | some q => Memory.writeN s.mem (pool (c.tileOff q k)) cells
        | none => s.mem)
      | none => s.mem
    let frame (t : State) (f : Res → Res) : Prop :=
      t.res? n e.launch = some (f r) ∧ (∀ x, x ≠ e.launch → t.res? n x = s.res? n x) ∧
      t.core n = { c with
        mx := rest, res := (t.core n).res, slots := (t.core n).slots, eligible := (t.core n).eligible
        resident := (t.core n).resident, cells := (t.core n).cells } ∧
      (∀ x, x ∉ c.owned e.launch → t.microAt n x = s.microAt n x) ∧
      (∀ x m, s.microAt n x = some m → ∃ u, t.microAt n x = some u ∧
        u = { m with cvWaits := u.cvWaits, life := u.life, since := u.since, rearmed := u.rearmed }) ∧
      (∀ x, x ≠ n → t.core x = s.core x) ∧ OnlyWrites s { t with cores := s.cores }
    let performs (i : Instr) (m : List Host.Cell) (f : Res → Res) : Prop := Answers i s fun t =>
      t.mem = m ∧ (t.core n).resident = c.resident ∧ (t.core n).cells = c.cells ∧ frame t f
    let fills (i : Instr) (tile : Nat) (bytes : List Byte) : Prop :=
      (c.resident = some (e.launch, tile) → Answers i s fun t =>
        t.mem = s.mem ∧ (t.core n).resident = c.resident ∧ (t.core n).cells = bytes ∧ frame t (fun r => r)) ∧
      (c.resident ≠ some (e.launch, tile) →
        performs i (Memory.writeN s.mem (pool (c.tileOff r tile)) bytes) (fun r => r))
    (∀ tile, e.op = .accz tile → fills (.acczPerform n) tile (List.replicate 16384 0#8)) ∧
    (∀ tile off, e.op = .accld tile off → s.isBad (pool off) 16384 = false →
      fills (.accldPerform n) tile (Memory.readN s.mem (pool off) 16384)) ∧
    (∀ tile a fw, e.op = .accst tile a fw →
      c.resident = some (e.launch, tile) ∨ s.isBad (pool (c.tileOff r tile)) 16384 = false →
      (a.getLsbD 31 = true → performs (.accstPerform n)
        (Memory.writeN s.mem (pool (a.toNat % 2 ^ 22)) (Memory.readN flushed (pool (c.tileOff r tile)) 16384)) (fun r => r)) ∧
      (∀ w, a.getLsbD 31 = false → formatWord fw = some w → performs (.accstPerform n)
        (Memory.writeN s.mem (pool (a.toNat % 2 ^ 22)) ({ s with mem := flushed }.accBytes n (c.tileOff r tile) w))
        (fun r => r))) ∧
    (∀ sk ptr left, e.op = .skset sk ptr left → performs (.sksetPerform n) s.mem
      (fun r => { r with sks := r.sks.mapIdx fun i k => if i = sk then ⟨ptr, left, 0, false⟩ else k })) ∧
    (∀ unit report src fw w, e.op = .wbld unit report src fw → formatWord fw = some w →
      (w.bf = 5 → ∀ j q, j < 64 → q < 8 →
        b4IllFormed (BitVec.ofNat 16 (s.peek (pool (src + 2048 + 16 * j + 2 * q)) 2)) = false) →
      s.isBad (pool src) (if w.bf = 5 then 3072 else 2048) = false →
      let img := s.buildImage n src w.bf
      unit + img.length / 256 ≤ r.units →
      let m := (List.range (img.length / 256)).foldl
        (fun m i => Memory.writeN m (r.unitAddr n unit (256 * i)) ((img.drop (256 * i)).take 256)) s.mem
      performs (.wbldPerform n)
        (if report = 0xFFFFFFFF#32 then m else Memory.writeN m (pool report.toNat) (bytesOfNat 4 (img.length / 256)))
        (fun r => r)) ∧
    (∀ f7 fw p0 p1 cv sigs w g states k, e.op = .mma f7 fw p0 p1 cv sigs → formatWord fw = some w →
      s.image n r (p1.toNat % 2 ^ 11) w.bf = .ok g →
      let rows := if f7.getLsbD 1 then 32 else 64
      let tile := p1.toNat / 2 ^ 16 % 16
      let base := c.tileOff r tile
      let sk := p1.toNat / 2 ^ 20 % 4
      let nq := (mmaShape w.af).2.2
      let present := (List.range nq).filter fun q => states.getD q false
      (f7.getLsbD 0 = false → states = List.replicate nq true) →
      (f7.getLsbD 0 = true → s.presence n sk nq (r.sks.getD sk default) = .ok (states, k)) →
      s.badIn (aRanges n (p0.toNat % 2 ^ 22) rows w.af present) = none → s.badEntry g (p1.toNat % 2 ^ 11) present = none →
      (w.af = 5 → s.badA n (p0.toNat % 2 ^ 22) rows present = none ∧ s.badB g present = false) →
      (c.resident = some (e.launch, tile) ∨ f7.getLsbD 2 = true ∨ s.isBad (pool base) (256 * rows) = false) →
      Answers (.mmaPerform n) s fun t =>
        (∀ i j, i < rows → j < 64 → natOfBytes (((t.core n).cells.drop (256 * i + 4 * j)).take 4) =
          { s with mem := flushed }.mmaCell n (p0.toNat % 2 ^ 22) base rows g w (f7.getLsbD 2) present i j % 2 ^ 32) ∧
        (t.core n).cells.drop (256 * rows) = Memory.readN flushed (pool (base + 256 * rows)) (16384 - 256 * rows) ∧
        (t.core n).resident = some (e.launch, tile) ∧
        t.mem = (if c.resident = some (e.launch, tile) then s.mem else flushed) ∧ t.flights = s.flights ∧
        frame t (fun r => if f7.getLsbD 0 then { r with sks := r.sks.mapIdx fun i v => if i = sk then k else v } else r))) ∧
  (∀ (s : State) (n aoff tile m : Nat) (g : Machine.Image) (w : FormatWord) (ow : Bool) (present : List Nat) (i j : Nat),
    w.af = 4 → w.acc = 2 → g.bf = 4 →
    let a (k : Nat) : Int := (BitVec.ofNat 8 (s.peek (poolAddr n (aoff + 32 * i + k)) 1)).toInt
    let b (q x : Nat) : Int := if g.has q j then (BitVec.ofNat 8 (s.peek (g.entry q j + x) 1)).toInt else 0
    (s.mmaCell n aoff tile m g w ow present i j : Int) =
      ((if ow then 0 else (s.accElem n tile 2 i j : Int)) +
        (present.map fun q => ((List.range 16).map fun x => a (16 * q + x) * b q x).sum).sum) % 2 ^ 32)

/-- R243, R246-R250, R265: a join at the head of every queue it names lets them go on; a copy starts, reads and writes one element, 16
bytes in halves, and ends with its status, its last subtraction and its signal; a signal entry signals its line. A signal sets the line's
latch, or wakes what waits on it, each wake an acquire at core scope. -/
def Obligations.CopyAndSignalResults : Prop := ∀ (s : State) (n : Nat), s.Sound → n < 80 →
  let c := s.core n
  let elsewhere (t : State) : Prop := ∀ x, x ≠ n → t.core x = s.core x
  let sameFlights (t : State) : Prop := ∀ x, Tbl.get? t.flights x = Tbl.get? s.flights x
  (∀ id j, Tbl.get? c.joins id = some j → s.away n j.launch = false → (∀ q, q < 7 → j.mask.testBit q = true →
      s.joinAtHead n id c q = true) → Answers (.joinPass n id) s fun t =>
    let waits (x : Nat) (m : Micro) : Prop := j.wait = true ∧ x = j.issuer.slot ∧ m.gen = j.issuer.gen ∧ m.life ≠ .retired
    t = { s with cores := t.cores } ∧ elsewhere t ∧
    t.core n = { c with
      joins := Tbl.erase c.joins id
      chans := Vector.ofFn fun i => if j.mask.testBit i.val then c.chans[i].tail else c.chans[i]
      mx := if j.mask.testBit 4 then c.mx.tail else c.mx
      trp := if j.mask.testBit 5 then c.trp.tail else c.trp
      gteq := if j.mask.testBit 6 then c.gteq.tail else c.gteq
      slots := (t.core n).slots, eligible := (t.core n).eligible } ∧
    (∀ x m, s.microAt n x = some m → waits x m → ∃ u, t.microAt n x = some u ∧
      u = { m with joinWaits := m.joinWaits - 1, life := u.life, since := u.since, rearmed := u.rearmed }) ∧
    ∀ x, (∀ m, s.microAt n x = some m → ¬ waits x m) → t.microAt n x = s.microAt n x) ∧
  (∀ ch l fl off held r, s.headCopy n ch = some (l, fl, off, .waiting, held) → s.res? n l = some r →
    let d := s.readDesc n off
    let why := d.reason c off (s.peek (poolAddr n (off + 17)) 1) (s.peek (poolAddr n (off + 24)) 8)
    let becomes (st : CopyState) (cwp : Vector Word 4) (t : State) : Prop :=
      t.core n = { c with chans := (t.core n).chans, cwp := cwp } ∧
      (t.core n).chan ch = ⟨l, .copy fl off st false⟩ :: (c.chan ch).tail ∧ (∀ x, x ≠ ch → (t.core n).chan x = c.chan x) ∧
      elsewhere t
    (s.descBad n off = false → why = none → Answers (.copyStart n ch) s fun t =>
      becomes (.started d 0 0 Elem.fresh false) (match ownOffset n r d.dst with
        | some o => c.cwp.mapIdx fun i v => if i = ch then BitVec.ofNat 32 o else v
        | none => c.cwp) t ∧ t = { s with cores := t.cores, watch := t.watch } ∧ OnlyCorrects s t) ∧
    (∀ k, s.descBad n off = false → why = some k → Answers (.copyStart n ch) s fun t =>
      becomes (.ended (some d) 0 0 3 k) c.cwp t ∧ t = { s with cores := t.cores, watch := t.watch } ∧ OnlyCorrects s t) ∧
    (s.descBad n off = true → Answers (.copyStart n ch) s fun t =>
      becomes (.ended (some d) 0 0 1 0x0D) c.cwp t ∧ t = { s with cores := t.cores, watch := t.watch, fresh := t.fresh })) ∧
  (∀ ch l fl off d k u el stop entries r f, c.chan ch = ⟨l, .copy fl off (.started d k u el stop) false⟩ :: entries →
    s.res? n l = some r → r.phase = .resident → Tbl.get? s.flights fl = some f → k < d.total →
    ¬ (stop = true ∧ el = Elem.fresh) →
    let becomes (st : CopyState) (cwp : Vector Word 4) (t : State) : Prop :=
      t.core n = { c with chans := (t.core n).chans, cwp := cwp } ∧
      (t.core n).chan ch = ⟨l, .copy fl off st false⟩ :: entries ∧ (∀ x, x ≠ ch → (t.core n).chan x = c.chan x) ∧ elsewhere t
    -- element k is delivered: the memory, with the barrier counted down where the channel does so here
    let delivers (subtract : Bool) (m : List Host.Cell) (t : State) : Prop :=
      let left := u + d.bytes
      t.mem = (if subtract = true ∧ d.flags.getLsbD 0 = true ∧ left ≠ 0 then
        Memory.writeN m (poolAddr n d.bar) (bytesOfNat 8 ({ s with mem := m }.peek (poolAddr n d.bar) 8 + 2 ^ 64 - left % 2 ^ 64))
        else m) ∧
      becomes (.started d (k + 1) (if subtract then 0 else left) Elem.fresh stop) (match ownOffset n r (d.dstAt k) with
        | some o => c.cwp.mapIdx fun i v => if i = ch then BitVec.ofNat 32 (o + d.bytes) else v
        | none => c.cwp) t
    (f.stage = .engine → s.childOf fl = none → el.val = none → ∀ sub,
      let wide : Bool := decide (d.bytes = 16)
      let lo := if wide ∧ el.low.isSome then 8 else 0
      let len := if wide then 8 else d.bytes
      let ea := d.srcAt k
      let got (v : Nat) : Elem := match el.low with
        | some x => { el with val := some (BitVec.ofNat 128 (x.toNat + 2 ^ 64 * v)) }
        | none => if wide then { el with low := some (BitVec.ofNat 64 v) } else { el with val := some (BitVec.ofNat 128 v) }
      (∀ p o, s.reach n l ea d.bytes .read = .pool p o → p = n ∨ s.poolBusy n s.nextId p (o + lo) = false →
        s.isBad (poolAddr p (o + lo)) len = false → Answers (.copyElement n ch sub) s fun t =>
          becomes (.started d k u (got (s.peek (poolAddr p (o + lo)) len)) stop) c.cwp t ∧ sameFlights t ∧
          t = { s with cores := t.cores, flights := t.flights, watch := t.watch } ∧ OnlyCorrects s t) ∧
      (∀ pa x, s.reach n l ea d.bytes .read = .home pa true →
        (s.cluster (clusterOf n)).find (s.asidOf n l) ((ea + BitVec.ofNat 64 lo).toNat % 2 ^ 48 / 64) false = some x →
        Answers (.copyElement n ch sub) s fun t =>
          becomes (.started d k u (got (getLine x.data ((ea + BitVec.ofNat 64 lo).toNat % 64) len)) stop) c.cwp t ∧
          sameFlights t ∧ t = { s with cores := t.cores, flights := t.flights }) ∧
      (∀ va leaf, stop = false → s.reach n l ea d.bytes .read = .page va leaf → Answers (.copyElement n ch sub) s fun t =>
          t.core n = { c with chans := (t.core n).chans } ∧
          (t.core n).chan ch = ⟨l, .copy fl off (.started d k u el false) true⟩ :: entries ∧
          (∀ x, x ≠ ch → (t.core n).chan x = c.chan x) ∧ elsewhere t ∧
          t = { s with cores := t.cores, tlus := t.tlus })) ∧
    (∀ v, f.stage = .engine → s.childOf fl = none → el.val = some v → ∀ sub p o,
      s.reach n l (d.dstAt k) d.bytes .write = .pool p o → p = n ∨ s.poolBusy n s.nextId p o = false → s.away p l = false →
      p < 80 → 4 ≤ d.bytes ∨ s.isBad (poolAddr p o) d.bytes = false → p = n ∨ (s.core p).traceEn = false →
      (el.half = false → d.bytes ≠ 16 → Answers (.copyElement n ch sub) s fun t =>
        delivers sub (Memory.writeN s.mem (poolAddr p o) (bytesOfNat d.bytes v.toNat)) t ∧ sameFlights t ∧
        OnlyWrites s { t with cores := s.cores, flights := s.flights }) ∧
      (el.half = false → d.bytes = 16 → Answers (.copyElement n ch sub) s fun t =>
        t.mem = Memory.writeN s.mem (poolAddr p o) (bytesOfNat 8 v.toNat) ∧ sameFlights t ∧
        becomes (.started d k u { el with half := true } stop) c.cwp t ∧
        OnlyWrites s { t with cores := s.cores, flights := s.flights }) ∧
      (el.half = true → d.bytes = 16 → Answers (.copyElement n ch sub) s fun t =>
        delivers sub (Memory.writeN s.mem (poolAddr p (o + 8)) (bytesOfNat 8 (v.toNat / 2 ^ 64))) t ∧ sameFlights t ∧
        OnlyWrites s { t with cores := s.cores, flights := s.flights })) ∧
    -- a global destination: a store of its own through the write-through buffer
    (∀ v sub pa cc, f.stage = .engine → s.childOf fl = none → el.val = some v →
      s.reach n l (d.dstAt k) d.bytes .write = .home pa cc → (s.cluster (clusterOf n)).wtb.length < 64 →
      Answers (.copyElement n ch sub) s fun t =>
        Tbl.get? t.flights s.nextId = some {
          core := n, launch := l, agent := .engine, who := [], fig := BitVec.ofNat 32 k, off := ch, word := 0#32, ll := 8
          dst := 0#6, dstN := 0, ea := d.dstAt k, sent := s.nextId, op := .store d.bytes 0#2 (BitVec.ofNat 128 v.toNat)
          stage := .home pa cc, parent := some fl } ∧
        (∀ y f, Tbl.get? s.flights y = some f → ∃ u, Tbl.get? t.flights y = some u ∧ u = { f with stage := u.stage }) ∧
        (∀ y, y ≠ clusterOf n → t.cluster y = s.cluster y) ∧
        (t.cluster (clusterOf n)).wtb = (s.cluster (clusterOf n)).wtb ++ [s.nextId] ∧
        t = { s with clusters := t.clusters, flights := t.flights, nextId := s.nextId + 1 }) ∧
    (∀ i g sub, s.childOf fl = some (i, g) → g.stage = .acked → i ≠ fl → Answers (.copyElement n ch sub) s fun t =>
      delivers sub s.mem t ∧ Tbl.get? t.flights i = none ∧ (∀ x, x ≠ i → x ≠ fl → Tbl.get? t.flights x = Tbl.get? s.flights x) ∧
      t.flies fl f .engine ∧ OnlyWrites s { t with cores := s.cores, flights := s.flights })) ∧
  (∀ ch l fl off st held f, s.headCopy n ch = some (l, fl, off, st, held) → Tbl.get? s.flights fl = some f →
    let ends (d : CopyDesc) (k u status code : Nat) : Prop := Answers (.copyEnd n ch) s fun t =>
      t.flies fl f (.reply (BitVec.ofNat 128 (status + 256 * code + 2 ^ 32 * k)) 0#5) ∧
      (∀ x, x ≠ fl → Tbl.get? t.flights x = Tbl.get? s.flights x) ∧
      (t.core n).chan ch = (c.chan ch).tail ∧ (∀ x, x ≠ ch → (t.core n).chan x = c.chan x) ∧
      t.mem = (if d.flags.getLsbD 0 = true ∧ u ≠ 0 then
        Memory.writeN s.mem (poolAddr n d.bar)
          (bytesOfNat 8 (s.peek (poolAddr n d.bar) 8 + 2 ^ 64 - u % 2 ^ 64)) else s.mem) ∧
      t.core n = { c with
        chans := (t.core n).chans
        signals := c.signals ++ (if d.flags.getLsbD 2 then [(l, d.evline % 64)] else []) } ∧
      elsewhere t ∧ OnlyWrites s { t with cores := s.cores, flights := s.flights }
    (∀ d k u el, st = .started d k u el false → d.total ≤ k → ends d k u 0 0) ∧
    (∀ d k u, st = .started d k u Elem.fresh true → f.stage = .engine → ends d k u 2 0) ∧
    (∀ d k u status code, st = .ended d k u status code → ends (d.getD (s.readDesc n off)) k u status code)) ∧
  (∀ ch l line i rest, c.chans[ch]? = some (⟨l, .sig line i⟩ :: rest) → s.away n l = false →
    Answers (.signalEntryPerform n ch) s fun t =>
      (t.core n).chan ch = rest ∧ (∀ x, x ≠ ch → (t.core n).chan x = c.chan x) ∧
      t.core n = { c with chans := (t.core n).chans, signals := c.signals ++ [(l, line)] } ∧ elsewhere t ∧
      t = { s with cores := t.cores }) ∧
  -- a signal whose launch's full spill ring holds it lets the others pass
  (∀ l line r, c.signals.find? (fun p => !(s.away n p.1 && s.ringFull n p.1)) = some (l, line) → line < 64 →
    s.res? n l = some r → r.phase = .resident →
    let waits (x : Nat) (m : Micro) : Prop := m.owner = some l ∧ m.evWaits.getLsbD line = true ∧ m.life ≠ .retired ∧
      c.inGroup x = false ∧ m.pos = none
    let signalled (latches : BitVec 64) (t : State) : Prop :=
      t.core n = { c with
        signals := c.signals.erase (l, line), res := (t.core n).res, slots := (t.core n).slots
        eligible := (t.core n).eligible } ∧
      t.res? n l = some { r with latches := latches, caller := { r.caller with evPending := r.caller.evPending ||| 32#16 } } ∧
      (∀ x, x ≠ l → t.res? n x = s.res? n x) ∧ elsewhere t ∧
      t = { s with cores := t.cores, clusters := t.clusters, flights := t.flights, nextId := t.nextId } ∧ OnlyDrops s t ∧
      SettlesFlights s.nextId s t
    ((∀ p ∈ c.slots, ¬ waits p.1 (c.micro p.1) ∧ ¬ waits p.1 p.2) → Answers (.eventSignal n) s fun t =>
      signalled (r.latches ||| (1#64 <<< line)) t ∧ (t.core n).slots = c.slots ∧ t.nextId = s.nextId) ∧
    ((∃ x m, s.microAt n x = some m ∧ waits x m) → Tbl.sorted c.slots = true → Answers (.eventSignal n) s fun t =>
      signalled (r.latches &&& ~~~(1#64 <<< line)) t ∧
      (∀ x m, s.microAt n x = some m → waits x m → ∃ u, t.microAt n x = some u ∧
        u = { m with evWaits := m.evWaits &&& ~~~(1#64 <<< line), life := u.life, since := u.since, rearmed := u.rearmed }) ∧
      (∀ x, (∀ m, s.microAt n x = some m → ¬ waits x m) → t.microAt n x = s.microAt n x) ∧
      ∀ id f, Tbl.get? t.flights id = some f → Tbl.get? s.flights id = none →
        f.core = n ∧ f.launch = l ∧ (∃ e, f.op = .fence 1 2 e) ∧
        ∃ x m, s.microAt n x = some m ∧ waits x m ∧ f.who = [⟨x, m.gen, false, false⟩]))

/-- R25, R258-R264: the oldest message from a core arrives. A SPAWN creates a micro-thread in the lowest retired slot of the launch with its
sender's budget and role, and its slot and generation are the reply; without such a slot the reply is 0. The reply is delivered where the
SPAWN waits for it, and discarded where nothing does. A word fills an empty mailbox, goes to the inbox behind a full one or behind an entry
for the same target, is received by a waiting RECVW, and counts in STALE where its target is gone; an inbox entry that can be taken goes
first; a bounce is such a word. A full inbox holds every message, and so does an overflow list. -/
def Obligations.MessageArrivalResults : Prop := ∀ (s : State) (n : Nat), s.Sound → n < 80 →
  let c := s.core n
  -- what stands in the networks, with the oldest message from a source gone and another posted by this core
  let nets (src : Option (Nat × List Msg)) (posted : Option (Nat × Msg)) (t : State) : Prop := ∀ y x, y < 80 →
    (Tbl.get? (t.core y).net x).getD [] =
      (match src with
       | some (z, rest) => if y = n ∧ x = z then rest else (Tbl.get? (s.core y).net x).getD []
       | none => (Tbl.get? (s.core y).net x).getD []) ++
      (match posted with
       | some (z, m) => if y = z ∧ x = n then [m] else []
       | none => [])
  let core (inbox : List Msg) (stale : Nat) (t : State) : Prop :=
    t.core n = { c with
      net := (t.core n).net, inbox := inbox, stale := c.stale + BitVec.ofNat 32 stale, res := (t.core n).res
      slots := (t.core n).slots, eligible := (t.core n).eligible } ∧
    ∀ y, y ≠ n → t.core y = { s.core y with net := (t.core y).net }
  let counts (l sent received : Nat) (t : State) : Prop := ∀ x, t.res? n x = (s.res? n x).map fun r =>
    if x = l then { r with sent := r.sent + sent, received := r.received + received } else r
  let micros (slot : Nat) (t : State) : Prop := ∀ x, x ≠ slot → t.microAt n x = s.microAt n x
  let quiet (t : State) : Prop := t = { s with cores := t.cores }
  -- the result of a RECVW or a SPAWN that one micro-thread waits for
  let gives (id slot : Nat) (f : Flight) (w : Who) (m : Micro) (linked : Link) (v : Word) (t : State) : Prop :=
    (∃ u, t.microAt n slot = some u ∧
      u = { (m.setGroup f.dst ((List.range f.dstN).map fun i => if i = 0 then v else 0#32)) with
        pend := (m.clearPend f.dst f.dstN).pend, linked := linked
        await := if w.awaited = true then m.await &&& ~~~(1#8 <<< f.ll) else m.await
        life := u.life, since := u.since, rearmed := u.rearmed }) ∧
    Tbl.get? t.flights id = none ∧ micros slot t ∧ OnlyDrops s t ∧ SettlesFlights id s t ∧
    t = { s with cores := t.cores, clusters := t.clusters, flights := t.flights }
  -- a word for a target, `src` the network place it leaves and `inbox` what the inbox then holds
  let word (i : Instr) (w : Msg) (src : Option (Nat × List Msg)) (inbox : List Msg) : Prop :=
    let m := c.micro w.tslot
    let there : Prop := m.gen = w.tgen ∧ m.owner = some w.launch ∧ m.life ≠ .retired
    (there → m.linked ≠ .recvw → m.mailbox = none → Answers i s fun t =>
      t.microAt n w.tslot = some { m with mailbox := some w.value } ∧ micros w.tslot t ∧ counts w.launch 0 1 t ∧
      core inbox 0 t ∧ nets src none t ∧ quiet t) ∧
    (∀ id f x, there → m.linked = .recvw → s.linkedFlight n w.tslot = some (id, f) → f.who = [x] → x.slot = w.tslot →
      x.gen = w.tgen → Answers i s fun t =>
        gives id w.tslot f x m .none w.value t ∧ counts w.launch 0 1 t ∧ core inbox 0 t ∧ nets src none t) ∧
    (¬ there → ∀ back, coreOfCode (w.src % 512) = back →
      let bounce : Msg :=
        { kind := 4, reply := false, src := s.coreWord n, tslot := w.ret.toNat % 1024, tgen := w.ret.extractLsb' 16 16
          value := 0xFFFFFFFF#32, ret := 0#32, args := [], launch := w.launch }
      let posted : Option (Nat × Msg) := if w.kind = 3 ∧ w.reply = true then back.map fun y => (y, bounce) else none
      Answers i s fun t =>
        (t.core n).slots = c.slots ∧ counts w.launch (if posted.isSome then 1 else 0) 1 t ∧ core inbox 1 t ∧
        nets src posted t ∧ quiet t)
  (∀ src msg rest r, Tbl.get? c.net src = some (msg :: rest) → rest ≠ [] ∨ Tbl.sorted c.net = true → msg.box ≠ .overflow →
    s.res? n msg.launch = some r → r.phase = .resident →
    let w : Msg := { msg with box := .none }
    let taken : Option (Nat × List Msg) := some (src, rest)
    (∀ i, (i = .spawnArrival n src ∧ msg.kind = 1) ∨ (i = .wordArrival n src ∧ msg.kind = 3 ∧ s.inboxReady n = none) ∨
        (i = .bounceArrival n src ∧ msg.kind = 4) → 256 ≤ c.inbox.length → exec i s = .next s) ∧
    (c.inbox.length < 256 →
      (∀ y, msg.kind = 1 → coreOfCode (msg.src % 512) = some y →
        let reply (v : Word) : Msg :=
          { kind := 2, reply := false, src := s.coreWord n, tslot := msg.ret.toNat % 1024, tgen := msg.ret.extractLsb' 16 16
            value := v, ret := msg.ret &&& 0xFC00#32, args := [], launch := msg.launch }
        (∀ slot x, s.spawnSlot n msg = some (slot, x) → Answers (.spawnArrival n src) s fun t =>
          (∃ u, t.microAt n slot = some u ∧
            u = { Micro.blank with
              regs := u.regs, gen := x.gen, owner := some msg.launch, life := .created, mode := .free, bud := x.bud
              role := x.role, pc := msg.value, csp := BitVec.ofNat 32 (r.stackBase slot)
              late := s.lateBits n msg.launch slot } ∧
            (∀ i : Fin 4, msg.args.length = 4 → u.regs[i] = msg.args.getD i 0#32) ∧
            ∀ i : Fin 64, msg.args.length ≤ i → msg.args.length ≤ 64 → u.regs[i] = 0#32) ∧ micros slot t ∧
          counts msg.launch 1 1 t ∧ core c.inbox 0 t ∧
          nets taken (some (y, reply (BitVec.ofNat 32 (2 ^ 31 + slot + 1024 * x.gen.toNat)))) t ∧ quiet t) ∧
        (s.spawnSlot n msg = none → Answers (.spawnArrival n src) s fun t =>
          (t.core n).slots = c.slots ∧ counts msg.launch 1 1 t ∧ core c.inbox 0 t ∧ nets taken (some (y, reply 0#32)) t ∧
          quiet t)) ∧
      (∀ i, (i = .wordArrival n src ∧ msg.kind = 3 ∧ s.inboxReady n = none) ∨ (i = .bounceArrival n src ∧ msg.kind = 4) →
        let same : Prop := ∃ x ∈ c.inbox, x.launch = msg.launch ∧ x.tslot = msg.tslot ∧ x.tgen = msg.tgen
        let m := c.micro msg.tslot
        (¬ same → word i w taken c.inbox) ∧
        (same ∨ (m.gen = msg.tgen ∧ m.owner = some msg.launch ∧ m.life ≠ .retired ∧ m.linked ≠ .recvw ∧ m.mailbox ≠ none) →
          Answers i s fun t =>
            core (c.inbox ++ [w]) 0 t ∧ (t.core n).res = c.res ∧ (t.core n).slots = c.slots ∧ nets taken none t ∧ quiet t)) ∧
      (∀ id f x m pc args resp, Tbl.get? s.flights id = some f → f.core = n → f.launch = msg.launch → f.agent = .micro →
        f.op = .spawn pc src args → f.stage = .engine → msg.kind = 2 → f.dst.toNat = msg.ret.toNat / 1024 % 64 → f.who = [x] →
        x.slot = msg.tslot → x.gen = msg.tgen → s.microAt n x.slot = some m → m.gen = x.gen → m.life ≠ .retired →
        Answers (.longLatencyResult id resp) s fun t =>
          gives id x.slot f x m m.linked msg.value t ∧ counts msg.launch 0 1 t ∧ core c.inbox 0 t ∧ nets taken none t)) ∧
    (msg.kind = 2 → (∀ p ∈ s.flights, p.2.core = n → p.2.repliedBy msg = false) → Answers (.spawnArrival n src) s fun t =>
      (t.core n).slots = c.slots ∧ counts msg.launch 0 1 t ∧ core c.inbox 1 t ∧ nets taken none t ∧ quiet t)) ∧
  (∀ src x xs, s.inboxReady n = some (x, xs) → word (.wordArrival n src) x none xs)

/-- R266-R268, R354: a level's arrivals, summonses and completions. The first arrival at a home summons its instance's cores; the last
completes the episode for them; a level of the pair has its home on card 0, where the twin's cores count too (log 18), and card 1 sends it
its arrivals. A summons marks its core; a completion opens the next episode there, with the arrivals recorded for it, and lets its waiters
go, each by an acquire at the level's scope. A level of one core, or of one set, completes there. A message of an episode not yet reached,
or of a launch whose spill ring is full, lets the others pass. -/
def Obligations.LevelEventResults : Prop := ∀ (s : State) (n : Nat), s.Sound → n < 80 →
  let c := s.core n
  -- the home takes an arrival, in a state `b`
  let homes (i : Instr) (b : State) (m : LvMsg) : Prop := ∀ r, b.res? n m.launch = some r → r.phase = .resident →
    let v := r.level m.lvl
    let pair : Prop := r.levelDom m.lvl = 6
    let cores := b.levelCores r n m.launch (r.levelDom m.lvl)
    let who := if m.twin then 80 + (v.received.filter fun x => decide (80 ≤ x)).length else m.core
    let got := if who ∈ v.received then v.received else v.received ++ [who]
    let twins := if pair then recNat r.record 14 1 * recNat r.record 15 1 else 0
    let all : Prop := (∀ x ∈ cores, x ∈ got) ∧ twins ≤ (got.filter fun x => decide (80 ≤ x)).length
    let tells (kind : Nat) : List ToTwin :=
      if pair then [.sched (.level (b.pairIndexOf m.launch) m.lvl m.episode kind)] else []
    let becomes (f : Level → Level) (summons completion : Bool) (t : State) : Prop :=
      t.res? n m.launch = some { r with levels := r.levels.mapIdx fun i x => if i = m.lvl then f x else x } ∧
      (∀ x, x ≠ m.launch → t.res? n x = b.res? n x) ∧
      (∀ x, t.core x = { b.core x with
        res := if x = n then (t.core n).res else (b.core x).res
        lvSum := (b.core x).lvSum ++ (if summons = true ∧ x ∈ cores then [m] else [])
        lvDone := (b.core x).lvDone ++ (if completion = true ∧ x ∈ cores then [m] else []) }) ∧
      t = { b with cores := t.cores, station := { b.station with
        out := b.station.out ++ (if summons then tells 2 else []) ++ (if completion then tells 1 else []) } }
    (¬ all → Answers i s (becomes (fun x => { x with homeSummoned := true, received := got }) (!v.homeSummoned) false)) ∧
    (all → Answers i s (becomes (fun x => { x with homeSummoned := false, received := [] }) (!v.homeSummoned) true))
  -- an episode completes on the core for some slots of a launch, in a state `b`
  let completes (i : Instr) (b : State) (l k dom : Nat) (slots : List Nat) (r : Res) (f : Level → Level) : Prop :=
    Answers i s fun t =>
      t.res? n l = some { r with levels := r.levels.mapIdx fun i x => if i = k then f x else x } ∧
      (∀ x, x ≠ l → t.res? n x = b.res? n x) ∧ (∀ x, x ≠ n → t.core x = b.core x) ∧
      t.core n = { b.core n with res := (t.core n).res, slots := (t.core n).slots, eligible := (t.core n).eligible } ∧
      t = { b with cores := t.cores, clusters := t.clusters, flights := t.flights, nextId := t.nextId } ∧ OnlyDrops b t ∧
      SettlesFlights b.nextId b t ∧
      (∀ x m, b.microAt n x = some m → x ∈ slots → m.life ≠ .retired → ∃ u, t.microAt n x = some u ∧
        (m.late.getLsbD k = true → u = { m with late := m.late &&& ~~~(1#8 <<< k) }) ∧
        (m.late.getLsbD k = false → m.lvWaits.getLsbD k = false → u = { m with arrived := m.arrived &&& ~~~(1#8 <<< k) }) ∧
        (m.late.getLsbD k = false → m.lvWaits.getLsbD k = true → u = { m with
          arrived := m.arrived &&& ~~~(1#8 <<< k), lvWaits := m.lvWaits &&& ~~~(1#8 <<< k), life := u.life, since := u.since
          rearmed := u.rearmed })) ∧
      (∀ x, (∀ m, b.microAt n x = some m → x ∈ slots → m.life = .retired) → t.microAt n x = b.microAt n x) ∧
      ∀ id f, Tbl.get? t.flights id = some f → Tbl.get? b.flights id = none →
        f.core = n ∧ f.launch = l ∧ (∃ e, f.op = .fence 1 dom e) ∧ ∃ x ∈ slots, ∃ m, b.microAt n x = some m ∧
          f.who = [⟨x, m.gen, false, false⟩]
  let opens (b : State) (l k : Nat) (x : Level) : Level :=
    { x with episode := x.episode + 1, sent := false, summoned := false
             arrivals := b.lateArrivals n k ((b.core n).owned l) }
  (∀ m rest, takeFirst (fun m => !s.ringFull n m.launch) c.lvArr = some (m, rest) →
    homes (.levelArrival n) (s.modCore n fun c => { c with lvArr := rest }) m) ∧
  -- a core's part of an episode is complete, and goes to the home
  (∀ l k x r rest, takeFirst (fun m => !s.ringFull n m.launch) c.lvArr = none →
    ((s.readyArrivals n).filter fun p => !s.ringFull n p.1) = (l, k, x) :: rest → s.res? x l = some r →
    let e := (r.level k).episode
    let b := s.modRes x l fun r => { r with levels := r.levels.mapIdx fun i v => if i = k then { v with sent := true } else v }
    (r.levelDom k ≠ 6 ∨ s.station.card = false → homes (.levelArrival n) b ⟨l, k, e, x, false⟩) ∧
    (r.levelDom k = 6 → s.station.card = true → Answers (.levelArrival n) s fun t =>
      t = { b with station := { s.station with out := s.station.out ++ [.sched (.level (s.pairIndexOf l) k e 0)] } })) ∧
  (∀ m rest r, takeFirst (fun m => !s.early n m && !s.ringFull n m.launch) c.lvSum = some (m, rest) →
    s.res? n m.launch = some r → r.phase = .resident → Answers (.levelSummons n) s fun t =>
      t.res? n m.launch = some { r with levels := r.levels.mapIdx fun i x =>
        if i = m.lvl ∧ x.episode = m.episode then { x with summoned := true } else x } ∧
      (∀ x, x ≠ m.launch → t.res? n x = s.res? n x) ∧ OnlyCore n s t ∧
      t.core n = { c with lvSum := rest, res := (t.core n).res }) ∧
  (∀ m rest r, takeFirst (fun m => !s.early n m && !s.ringFull n m.launch) c.lvDone = some (m, rest) →
    s.res? n m.launch = some r → r.phase = .resident → Tbl.sorted c.slots = true →
    let b := s.modCore n fun c => { c with lvDone := rest }
    ((r.level m.lvl).episode = m.episode →
      completes (.levelCompletion n) b m.launch m.lvl (r.levelDom m.lvl) (c.owned m.launch) r (opens b m.launch m.lvl)) ∧
    ((r.level m.lvl).episode ≠ m.episode → Answers (.levelCompletion n) s fun t => t = b)) ∧
  (∀ l k pre post r, takeFirst (fun m => !s.early n m && !s.ringFull n m.launch) c.lvDone = none →
    c.levelList = pre ++ (l, k) :: post →
    (∀ p ∈ pre, ∀ q, s.res? n p.1 = some q → q.phase = .resident →
      (q.levelDom p.2 = 1 → s.completeSetAt n p.1 p.2 q = none) ∧ (q.levelDom p.2 = 2 → s.partReady n p.1 p.2 = false)) →
    s.res? n l = some r → r.phase = .resident → Tbl.sorted c.slots = true →
    (r.levelDom k = 2 → s.partReady n l k = true →
      completes (.levelCompletion n) s l k 2 (c.owned l) r (opens s l k)) ∧
    (∀ i slots, r.levelDom k = 1 → s.completeSetAt n l k r = some (i, slots) →
      completes (.levelCompletion n) s l k 1 slots r fun x =>
        { x with setEp := Tbl.set x.setEp i (s.lateArrivals n k slots) }))

/-- R283, R297-R300, R302, R303, R307-R310, R315-R317, R319, R321, R456: the query queue and the queries of a core. A TPOST is admitted into
a free entry with a tag of the launch's sequence, or returns its status; a TCFG loads decode entries, walker words or a hit queue, or faults
its issuer; a node's lines arrive, from a node line of the cache or from their home; a waiting record is appended, or one that a hand-off
returned; and a query that has ended appends its survivors' records and its DONE record, as far as the ring has room, and leaves its entry.
-/
def Obligations.TraversalEventResults : Prop := ∀ (s : State) (n l : Nat) (r : Res), s.Sound → n < 80 → s.res? n l = some r →
  r.phase = .resident →
  let c := s.core n
  let elsewhere (t : State) : Prop := ∀ x, x ≠ n → t.core x = s.core x
  let launches (t : State) : Prop := ∀ x, x ≠ l → t.res? n x = s.res? n x
  (∀ fl rec_ rest f, c.trp = ⟨l, .tpost fl rec_⟩ :: rest → c.freeEntries ≠ [] → Tbl.get? s.flights fl = some f →
    let b := Memory.readN s.mem (poolAddr n rec_) 128
    let bad := s.isBad (poolAddr n rec_) 128
    let leaves (t : State) : Prop :=
      t.core n = { c with trp := rest, queries := (t.core n).queries, res := (t.core n).res } ∧ elsewhere t ∧ launches t ∧
      (∀ x, x ≠ fl → Tbl.get? t.flights x = Tbl.get? s.flights x) ∧
      t = { s with cores := t.cores, flights := t.flights, watch := t.watch, fresh := t.fresh } ∧ (bad = false → OnlyCorrects s t)
    (bad = false → admissionStatus c r b = 0 → Answers (.queryAdmission n) s fun t =>
      (∃ e ∈ c.freeEntries, ∃ q : Query, t.query? n e = some q ∧ (∀ x, x ≠ e → t.query? n x = s.query? n x) ∧
        q = { launch := l, record := b, tag := BitVec.ofNat 32 (e + 512 * r.qseq), pc := recNat b 0 2 % 1024, state := .running
              q := q.q, n := Vector.replicate 8 0#32, h := Vector.replicate 4 0#32, node := BitVec.ofNat 32 (recNat b 16 4)
              stack := [], spilled := 0, spills := 0, buf := [], kind := none, dec := none, best := [], own := [], out := []
              lost := false, hits := 0, steps := 0, handoffs := 0, err := none, cancel := false, pageHeld := none
              origin := none, sent := 0, survivors := none, nSurv := 0 } ∧
        (∀ i : Fin 16, q.q[i] = BitVec.ofNat 32 (recNat b (64 + 4 * i) 4)) ∧
        t.flies fl f (.reply (BitVec.ofNat 128 (e + 512 * r.qseq)) 0#5)) ∧
      t.res? n l = some { r with qseq := (r.qseq + 1) % 2 ^ 22 } ∧ leaves t) ∧
    (∀ status, (bad = true ∧ status = 0x0D) ∨ (bad = false ∧ status = admissionStatus c r b ∧ status ≠ 0) →
      Answers (.queryAdmission n) s fun t =>
      (∃ v, v < 2 ^ 32 ∧ t.flies fl f (.reply (BitVec.ofNat 128 (v + 2 ^ 32 * status)) 0#5)) ∧
      (t.core n).queries = c.queries ∧ t.res? n l = some r ∧ leaves t)) ∧
  (∀ src w i rest, c.trp = ⟨l, .tcfg src w i⟩ :: rest → (∀ p ∈ c.queries, p.2.launch ≠ l) →
    s.isBad (poolAddr n src) (tcfgSource w).1 = false →
    let loads (f : Res → Res) : Prop := Answers (.tcfgPerform n) s fun t =>
      t.res? n l = some (f r) ∧ launches t ∧ elsewhere t ∧ t.core n = { c with trp := rest, res := (t.core n).res } ∧
      t = { s with cores := t.cores, watch := t.watch } ∧ OnlyCorrects s t
    -- a breach is a deferred fault of the issuer
    let refuses (code : Byte) (sub arg : Nat) : Prop := Answers (.tcfgPerform n) s fun t =>
      (∀ m, s.microAt n i.slot = some m → m.gen = i.gen → m.life ≠ .retired → ∃ x, x.code = code ∧
        x.detail = BitVec.ofNat 32 (2 ^ 31 + sub * 2 ^ 22 + arg) ∧ x.fig = i.fig ∧ x.off = i.off ∧ x.posted = false ∧
        t.microAt n i.slot = some { m with deferred := m.deferred ++ [x] }) ∧
      (∀ x, x ≠ i.slot → t.microAt n x = s.microAt n x) ∧ elsewhere t ∧
      t.core n = { c with trp := rest, slots := (t.core n).slots } ∧ KeepsFlights s t ∧
      t = { s with cores := t.cores, flights := t.flights, nextId := t.nextId }
    let entries := (List.range 16).map fun i => Memory.readN s.mem (poolAddr n (src + 32 * i)) 32
    let first := (w.extractLsb' 16 10).toNat
    let count := (w.extractLsb' 0 11).toNat
    let words : List Word := (List.range count).map fun i => BitVec.ofNat 32 (s.peek (poolAddr n (src + 4 * i)) 4)
    let ring := s.peek (poolAddr n src) 4
    let cap := s.peek (poolAddr n (src + 4)) 2
    let ev := s.peek (poolAddr n (src + 6)) 1
    let which := w.toNat % 8
    let legal : Prop := ring < 2 ^ 22 ∧ ring % 32 = 0 ∧ (∃ k, k ≤ 12 ∧ cap = 2 ^ k) ∧ ev.testBit 6 = false ∧
      ∀ i, 7 ≤ i → i < 16 → s.peek (poolAddr n (src + i)) 1 = 0
    let busy : Prop := (∃ h, r.hitq which = some h ∧ h.untaken ≠ 0)
    (w.extractLsb' 30 2 = 0#2 → (∀ b ∈ entries, decodeEntryOk b = true) → loads fun r => { r with decode := entries }) ∧
    (∀ k, w.extractLsb' 30 2 = 0#2 → k < 16 → (∀ j, j < k → decodeEntryOk (entries.getD j []) = true) →
      decodeEntryOk (entries.getD k []) = false → refuses 0x09#8 0 k) ∧
    (w.extractLsb' 30 2 = 1#2 → (∀ i, i < count → walkWordOk (first + i) (words.getD i 0#32) = true) →
      loads fun r => { r with walker := r.walker.take first ++ words ++ r.walker.drop (first + count) }) ∧
    (∀ k, w.extractLsb' 30 2 = 1#2 → k < count → (∀ j, j < k → walkWordOk (first + j) (words.getD j 0#32) = true) →
      walkWordOk (first + k) (words.getD k 0#32) = false → refuses 0x09#8 0 k) ∧
    (w.extractLsb' 30 2 = 2#2 → legal → c.inSp ring (32 * cap) = true → ¬ busy →
      loads fun r => { r with hitqs := r.hitqs.mapIdx fun i h =>
        if i = which then some ⟨ring, cap, ev % 64, ev.testBit 7, 0, 0, []⟩ else h }) ∧
    (w.extractLsb' 30 2 = 2#2 → ¬ legal → refuses 0x09#8 0 which) ∧
    (w.extractLsb' 30 2 = 2#2 → legal → c.inSp ring (32 * cap) = false → refuses 0x04#8 4 ring) ∧
    (w.extractLsb' 30 2 = 2#2 → legal → c.inSp ring (32 * cap) = true → busy → refuses 0x04#8 16 0)) ∧
  (∀ e q, s.query? n e = some q → q.launch = l → q.state = .nodeWait → q.pageHeld = none →
    let kind := ((r.walker.getD q.pc 0#32).extractLsb' 21 2).toNat
    let va := (q.nodeAddr.toNat + q.buf.length) % 2 ^ 48
    let cl := clusterOf n
    let lines := if kind = 1 ∨ kind = 3 then 4 else 2
    let queries (t : State) : Prop :=
      t.core n = { c with queries := (t.core n).queries } ∧ (∀ x, x ≠ e → t.query? n x = s.query? n x) ∧ elsewhere t
    let fails (err code : Nat) (t : State) : Prop := ∃ u, t.query? n e = some u ∧
      u = { q with pc := u.pc, buf := u.buf, kind := u.kind, state := .drain, err := some (err, code), best := [], own := []
                   survivors := some [], nSurv := recNat q.record 4 2 }
    let takes (line : Line) (frame : State → Prop) : Prop :=
      let b := q.buf ++ bytesOfNat 64 line.toNat
      (64 * lines ≤ b.length → q.pc < 1023 → Answers (.nodeFetchArrival n e) s fun t =>
        t.query? n e = some { q with buf := nodeImage kind b, kind := some kind, pc := q.pc + 1, state := .running } ∧
        queries t ∧ frame t) ∧
      (64 * lines ≤ b.length → 1023 ≤ q.pc → q.origin = none → q.out = [] → Answers (.nodeFetchArrival n e) s fun t =>
        fails 9 0 t ∧ queries t ∧ frame t) ∧
      (b.length < 64 * lines → Answers (.nodeFetchArrival n e) s fun t =>
        t.query? n e = some { q with buf := b } ∧ queries t ∧ frame t)
    -- a query posted with FRESH reads no cached line
    let fresh : Bool := q.mode 2
    let mine (x : CLine) : Prop := x.node = true ∧ x.asid = r.asid ∧ x.vline = va / 64
    let drops (t : State) : Prop := ∀ k, t.cluster k =
      { s.cluster k with lines := (t.cluster k).lines } ∧ ∀ x ∈ (t.cluster k).lines, x ∈ (s.cluster k).lines
    (∀ x, fresh = false → (s.cluster cl).find r.asid (va / 64) true = some x → takes x.data fun t => t = { s with cores := t.cores }) ∧
    (∀ pa cc, fresh = true ∨ (s.cluster cl).find r.asid (va / 64) true = none → s.translate r.asid va .read = .ok pa cc →
      s.homeBusy n s.nextId pa = false → s.atomicBusy cl pa = false →
      (s.isBad (pa / 64 * 64) 64 = false →
        let line := s.mergeBuffer cl r.asid (va / 64) (s.lineAt pa)
        takes line fun t =>
          t = { s with cores := t.cores, clusters := t.clusters, tlus := t.tlus, watch := t.watch, fresh := t.fresh } ∧
          OnlyCorrects s t ∧ (∀ k, t.tlu k = { s.tlu k with leaves := (t.tlu k).leaves }) ∧
          (∀ k, t.cluster k = { s.cluster k with lines := (t.cluster k).lines }) ∧
          (∀ k, ∀ x ∈ (t.cluster k).lines, x ∈ (s.cluster k).lines ∨ (cc = true ∧ k = cl ∧ x = ⟨r.asid, va / 64, true, line⟩)) ∧
          (cc = true → (t.cluster cl).lines.head? = some ⟨r.asid, va / 64, true, line⟩) ∧
          (cc = false → ∀ x ∈ (t.cluster cl).lines, ¬ mine x)) ∧
      (s.isBad (pa / 64 * 64) 64 = true → q.origin = none → q.out = [] → Answers (.nodeFetchArrival n e) s fun t =>
        fails 2 0x0D t ∧ queries t ∧ drops t ∧
        t = { s with cores := t.cores, clusters := t.clusters, watch := t.watch, fresh := t.fresh })) ∧
    (∀ leaf, fresh = true ∨ (s.cluster cl).find r.asid (va / 64) true = none → s.translate r.asid va .read = .fail leaf →
      Answers (.nodeFetchArrival n e) s fun t =>
        t.query? n e = some { q with pageHeld := some (va / 0x1000) } ∧ queries t ∧ drops t ∧
        t = { s with cores := t.cores, clusters := t.clusters, tlus := t.tlus } ∧
        (∀ k, k ≠ tluOf va → t.tlu k = s.tlu k) ∧
        ((∀ x ∈ (s.tlu (tluOf va)).recs, ¬ (x.asid = r.asid ∧ x.page = va / 0x1000)) →
          (t.tlu (tluOf va)).recs = (s.tlu (tluOf va)).recs ++
            [⟨(s.tlu (tluOf va)).formed % 2 ^ 32, 0, r.asid, va / 0x1000, leaf, .offered⟩])) ∧
    (fresh = true ∨ (s.cluster cl).find r.asid (va / 64) true = none → s.translate r.asid va .read = .noTables →
      q.origin = none → q.out = [] → Answers (.nodeFetchArrival n e) s fun t =>
        fails 2 5 t ∧ queries t ∧ drops t ∧ t = { s with cores := t.cores, clusters := t.clusters })) ∧
  (∀ e q h, s.query? n e = some q → q.launch = l → r.hitq q.hq = some h →
    let room := if h.cap = 0 then 0 else h.cap + h.head - h.tail
    -- the first records of a list are appended, as many as there is room for
    let appends (i : Instr) (b : State) (recs : List (List Byte)) (rest : Nat → Option Query) : Prop := Answers i s fun t =>
      let k := min recs.length room
      t.mem = (List.range k).foldl (fun m i =>
        Memory.writeN m (poolAddr n (h.ring + 32 * ((h.tail + i) % h.cap))) (recs.getD i [])) s.mem ∧
      t.res? n l = some { r with
        hitqs := r.hitqs.mapIdx fun i v =>
          if i = q.hq then some { h with
            tail := h.tail + k, index := h.index ++ (recs.take k).map fun b => (recNat b 4 2, e, false) } else v } ∧
      t.core n = { c with
        signals := c.signals ++ (if h.evEn then List.replicate k (l, h.ev) else []), res := (t.core n).res
        queries := (t.core n).queries } ∧ launches t ∧ elsewhere t ∧ (∀ x, x ≠ e → t.query? n x = s.query? n x) ∧
      OnlyWrites b { t with cores := b.cores } ∧
      match rest k with
      | some q' => t.query? n e = some q'
      | none => (t.core n).queries = Tbl.erase c.queries e
    let survivor (p : Word × Word) : List Byte :=
      hitBytes q.tag (recNat q.record 6 2) 0 p.1 p.2 0#32 0#32 0#32 0#32
    -- a list of survivors and then the DONE record, behind `first`
    let finishes (i : Instr) (b : State) (q : Query) (first : List (List Byte)) (list : List (Word × Word)) : Prop :=
      let recs := first ++ list.map survivor ++ [q.doneRecord]
      appends i b recs fun k =>
        if k = recs.length then none
        else some { q with
          state := .hitWait (recs.getD k []) (decide (k + 1 = recs.length)), survivors := some (list.drop (k + 1 - first.length)) }
    (∀ rec_, 0 < room →
      (q.state = .hitWait rec_ true → appends (.hitAppend n e) s [rec_] fun _ => none) ∧
      (q.state = .hitWait rec_ false → q.survivors = none → q.pc < 1023 →
        appends (.hitAppend n e) s [rec_] fun _ => some { q with hits := q.hits + 1, pc := q.pc + 1, state := .running }) ∧
      (∀ list, q.state = .hitWait rec_ false → q.survivors = some list → finishes (.hitAppend n e) s q [rec_] list)) ∧
    (∀ tag m b rest, 0 < room → (∀ x d, q.state ≠ .hitWait x d) →
      takeFirst (fun x => x.1 == q.tag) s.station.hits = some ((tag, m, b), rest) →
      appends (.hitAppend n e) { s with station := { s.station with hits := rest } } [b] fun _ =>
        some { q with hits := q.hits + 1 }) ∧
    (q.state = .drain → q.out = [] → q.pageHeld = none → (∀ x ∈ s.station.hits, x.1 ≠ q.tag) →
      (∀ list, q.survivors = some list → finishes (.queryDone n e) s q [] list) ∧
      (q.survivors = none → q.mode 0 = false → finishes (.queryDone n e) s q [] []) ∧
      (q.survivors = none → q.mode 0 = true → q.mode 1 = false →
        finishes (.queryDone n e) s { q with survivors := some q.best, nSurv := q.best.length } [] q.best)) ∧
    (q.err = none → q.cancel = false → q.lost = false → q.mode 0 = false → q.doneRecord =
      bytesOfNat 4 q.tag.toNat ++ [0xFF#8, 0xFF#8, 1#8, 0#8, 0#8, 0#8, 0#8, 0#8] ++ bytesOfNat 4 (q.hits % 2 ^ 32) ++
        bytesOfNat 4 (q.spills % 2 ^ 32) ++ bytesOfNat 4 (q.steps % 2 ^ 32) ++ bytesOfNat 4 (q.handoffs % 2 ^ 32) ++
        bytesOfNat 4 0))

/-- R338, R340, R341, R343-R347, R360: a gather/scatter request of a core. It starts with its descriptor read and checked; it reads the index
of its next element and probes the page, which it holds; an element's value is read, 16 bytes in halves, from the table through the cluster's
cache or from DATA, and written to DATA, stored to the table through the write-through buffer, or combined at the home; NINV drops node
lines; and once its stores are performed the end writes STATUS and N into the descriptor. -/
def Obligations.GatherScatterResults : Prop := ∀ (s : State) (n : Nat), s.Sound → n < 80 →
  let c := s.core n
  let cid := clusterOf n
  let cl := s.cluster cid
  let run? (t : State) : Option GteRun := Tbl.get? (t.cluster cid).gte n
  let others (t : State) : Prop := (∀ k, k ≠ cid → t.cluster k = s.cluster k) ∧ ∀ x, x ≠ n → Tbl.get? (t.cluster cid).gte x = Tbl.get? cl.gte x
  let status (state code : Nat) : Word := BitVec.ofNat 32 (state + 256 * code)
  let holds (new : Nat → List (Nat × Nat × Nat)) (t : State) : Prop := ∀ k, k < 16 →
    t.tlu k = { s.tlu k with
      leaves := (t.tlu k).leaves, recs := (t.tlu k).recs, formed := (t.tlu k).formed
      holds := (s.tlu k).holds.filter (fun h => h.1 ≠ n) ++ new k }
  (∀ l q rest r, c.gteq = ⟨l, .req q⟩ :: rest → s.res? n l = some r → r.phase = .resident → Tbl.get? cl.gte n = none →
    cl.powered = true →
    let g : GteRun := { req := q, bytes := Memory.readN s.mem (poolAddr n q.desc) 64, i := 0, probed := none, held := false, ended := none }
    let starts (g : GteRun) : Prop := Answers (.gteRequestStart n) s fun t =>
      run? t = some g ∧ t.cluster cid = { cl with gte := (t.cluster cid).gte } ∧ others t ∧
      t.core n = { c with gteq := rest, res := (t.core n).res } ∧ (∀ x, x ≠ n → t.core x = s.core x) ∧
      t.res? n l = some { r with gteLog := r.gteLog.map fun e => if e.1 = q.seq then (q.seq, 1#32, 0) else e } ∧
      (∀ x, x ≠ l → t.res? n x = s.res? n x) ∧
      t = { s with cores := t.cores, clusters := t.clusters, watch := t.watch, fresh := t.fresh }
    (s.isBad (poolAddr n q.desc) 64 = true → starts { g with ended := some (status 3 0x0D, 0) }) ∧
    (s.isBad (poolAddr n q.desc) 64 = false →
      (g.reason n c r = none → g.count ≠ 0 ∨ g.op = 6 → starts g) ∧
      (g.reason n c r = none → g.count = 0 → g.op ≠ 6 → starts { g with ended := some (2#32, 0) }) ∧
      (∀ k, g.reason n c r = some k → starts { g with ended := some (status 4 k, 0) }))) ∧
  (∀ r g x, s.gteRun? n = some (r, g) → g.op ≠ 6 → g.bad = false →
    let l := g.req.launch
    let at_ := g.field 24 4 + g.i * g.isize
    -- the index is known, or is read now
    g.idx = some x ∨ (g.idx = none ∧ s.portOk n l at_ g.isize = true ∧ r.phase = .resident ∧
      s.isBad (poolAddr n at_) g.isize = false ∧ x = s.peek (poolAddr n at_) g.isize) →
    let g := { g with idx := some x }
    let ea : DWord := BitVec.ofNat 64 (g.field 8 8) +
      BitVec.ofInt 64 ((if g.isize = 4 then (x : Int) else (BitVec.ofNat 64 x).toInt) * g.stride)
    let va := ea.toNat % 2 ^ 48
    let page := va / 0x1000
    let need : Need := if g.op = 0 then .read else .write
    let outside : Prop := isArray ea = true ∨ canonical ea = false
    let becomes (g' : GteRun) (t : State) : Prop := run? t = some g' ∧ others t
    let ends (i : Instr) (code : Nat) : Prop := Answers i s fun t =>
      becomes { g with ended := some (status 3 code, g.i), probed := none } t ∧ holds (fun _ => []) t ∧
      t.cluster cid = { cl with gte := (t.cluster cid).gte } ∧
      t = { s with clusters := t.clusters, tlus := t.tlus, watch := t.watch }
    let probes (p : State → Prop) : Prop := Answers (.gteProbe n) s fun t =>
      p t ∧ t.cluster cid = { cl with gte := (t.cluster cid).gte } ∧ OnlyCorrects s t ∧
      t = { s with clusters := t.clusters, tlus := t.tlus, watch := t.watch, fresh := t.fresh }
    (outside → ends (.gteProbe n) 4) ∧
    (¬ outside →
      ((g.probed.map fun p => p.1) = some page → probes fun t => becomes g t ∧ t.tlus = s.tlus) ∧
      ((g.probed.map fun p => p.1) ≠ some page →
        (∀ pa cc, s.translate r.asid va need = .ok pa cc → g.op = 0 ∨ s.isSealed pa = false → probes fun t =>
          becomes { g with probed := some (page, pa - va % 0x1000, cc) } t ∧
          holds (fun k => if k = tluOf va then [(n, r.asid, page)] else []) t) ∧
        (∀ pa cc, s.translate r.asid va need = .ok pa cc → g.op ≠ 0 → s.isSealed pa = true → ends (.gteProbe n) 0x0A) ∧
        (s.translate r.asid va need = .noTables → ends (.gteProbe n) 5) ∧
        (∀ leaf, s.translate r.asid va need = .fail leaf → probes fun t =>
          becomes { g with held := true, probed := none } t ∧ holds (fun _ => []) t ∧
          ((∀ y ∈ (s.tlu (tluOf va)).recs, ¬ (y.asid = r.asid ∧ y.page = page)) →
            (t.tlu (tluOf va)).recs = (s.tlu (tluOf va)).recs ++
              [⟨(s.tlu (tluOf va)).formed % 2 ^ 32, if g.op = 0 then 0 else 1, r.asid, page, leaf, .offered⟩])))) ∧
    -- an element whose page is probed
    (∀ base cc dc off, g.probed = some (page, base, cc) → ¬ outside → g.dataAt n r = (dc, off) → dc < 80 →
      let pa := base + va % 0x1000
      let wide : Bool := decide (g.elem = 16)
      let lo := if wide ∧ g.el.low.isSome then 8 else 0
      let len := if wide then 8 else g.elem
      let asid := s.asidOf n l
      let got (v : Nat) : GteRun := { g with el := match g.el.low with
        | some y => { g.el with val := some (BitVec.ofNat 128 (y.toNat + 2 ^ 64 * v)) }
        | none =>
          if wide then { g.el with low := some (BitVec.ofNat 64 v) } else { g.el with val := some (BitVec.ofNat 128 v) } }
      -- the element is performed or on its way
      let next (t : State) : Prop :=
        let g' := { g with i := g.i + 1, idx := none, el := Elem.fresh }
        (g.i + 1 ≠ g.count → becomes g' t ∧ t.tlus = s.tlus) ∧
        (g.i + 1 = g.count → becomes { g' with ended := some (2#32, g.count), probed := none } t ∧ holds (fun _ => []) t)
      let fetched (i : Instr) (v : Nat) (p : State → Prop) : Prop := Answers i s fun t =>
        becomes (got v) t ∧ p t ∧ OnlyCorrects s t ∧ t = { s with clusters := t.clusters, watch := t.watch, fresh := t.fresh }
      let quiet (t : State) : Prop := t.cluster cid = { cl with gte := (t.cluster cid).gte } ∧ t.fresh = s.fresh
      (g.op = 0 → s.portOk dc l off g.elem = true → g.el.val = none →
        let vline := (ea + BitVec.ofNat 64 lo).toNat % 2 ^ 48 / 64
        let at_ := (ea + BitVec.ofNat 64 lo).toNat % 64
        (∀ y, cc = true → cl.find asid vline false = some y → fetched (.gteGather n) (getLine y.data at_ len) quiet) ∧
        (cc = false ∨ cl.find asid vline false = none → s.readHeld n l vline s.nextId (pa + lo) = false →
          s.isBad (pa + lo) len = false →
          let line := s.mergeBuffer cid asid vline (s.lineAt (pa + lo))
          fetched (.gteGather n) (getLine line at_ len) fun t =>
            (∀ k, t.cluster k = { s.cluster k with lines := (t.cluster k).lines, gte := (t.cluster k).gte }) ∧
            -- a line is allocated unless FLAGS has STREAM
            (if cc = true ∧ g.flag 0 = false ∧ s.isBad ((pa + lo) / 64 * 64) 64 = false then
              (t.cluster cid).lines.head? = some ⟨asid, vline, false, line⟩ ∧
                ∀ y ∈ (t.cluster cid).lines, y ∈ cl.lines ∨ y = ⟨asid, vline, false, line⟩
             else (t.cluster cid).lines = cl.lines))) ∧
      (∀ v, g.op = 0 → s.portOk dc l off g.elem = true → g.el.val = some v → s.away dc l = false →
        dc = n ∨ s.poolBusy n s.nextId dc off = false → 4 ≤ g.elem ∨ s.isBad (poolAddr dc off) g.elem = false →
        (s.core dc).traceEn = false →
        let writes (a k v : Nat) (p : State → Prop) : Prop := Answers (.gteGather n) s fun t =>
          t.mem = Memory.writeN s.mem a (bytesOfNat k v) ∧ p t ∧ t.cluster cid = { cl with gte := (t.cluster cid).gte } ∧
          OnlyWrites s { t with clusters := s.clusters, tlus := s.tlus }
        (g.el.half = false → g.elem ≠ 16 → writes (poolAddr dc off) g.elem v.toNat next) ∧
        (g.el.half = false → g.elem = 16 → writes (poolAddr dc off) 8 v.toNat fun t =>
          becomes { g with el := { g.el with half := true } } t ∧ t.tlus = s.tlus) ∧
        (g.el.half = true → g.elem = 16 → writes (poolAddr dc (off + 8)) 8 (v.toNat / 2 ^ 64) next)) ∧
      (∀ i, (i = .gteScatter n ∧ g.op = 1) ∨ (i = .gteSadd n ∧ g.op = 2) ∨ (i = .gteSfadd n ∧ g.op = 3) ∨
          (i = .gteSmin n ∧ g.op = 4) ∨ (i = .gteSmax n ∧ g.op = 5) → g.el.val = none →
        s.portOk dc l off g.elem = true → s.away dc l = false → dc = n ∨ s.poolBusy n s.nextId dc (off + lo) = false →
        s.isBad (poolAddr dc (off + lo)) len = false → fetched i (s.peek (poolAddr dc (off + lo)) len) quiet) ∧
      (∀ v, g.op = 1 → g.el.val = some v → cl.wtb.length < 64 → Answers (.gteScatter n) s fun t =>
        Tbl.get? t.flights s.nextId = some {
          core := n, launch := l, agent := .engine, who := [], fig := BitVec.ofNat 32 g.i, off := 6, word := 0#32, ll := 8
          dst := 0#6, dstN := 0, ea := ea, sent := s.nextId, op := .store g.elem 0#2 v, stage := .home pa cc, parent := none } ∧
        (∀ y f, Tbl.get? s.flights y = some f → ∃ u, Tbl.get? t.flights y = some u ∧ u = { f with stage := u.stage }) ∧
        (t.cluster cid).wtb = cl.wtb ++ [s.nextId] ∧ next t ∧ t.nextId = s.nextId + 1 ∧
        t = { s with clusters := t.clusters, flights := t.flights, tlus := t.tlus, watch := t.watch, nextId := t.nextId } ∧
        OnlyCorrects s t) ∧
      (∀ v, g.el.val = some v → s.locationBusy n pa = false → s.isSealed pa = false → s.isBad pa g.elem = false →
        let old := s.peek pa g.elem
        let signed (x : Nat) : Int := (BitVec.ofNat (8 * g.elem) x).toInt
        let fmt := if g.elem = 8 then fp64 else fp32
        let combines (i : Instr) (w : Nat) : Prop := Answers i s fun t =>
          t.mem = Memory.writeN s.mem pa (bytesOfNat g.elem w) ∧ next t ∧
          (∀ y, y ∈ (t.cluster cid).lines ↔ y ∈ cl.lines ∧ ¬ (y.asid = asid ∧ y.vline = va / 64)) ∧
          t.cluster cid = { cl with lines := (t.cluster cid).lines, gte := (t.cluster cid).gte } ∧ SettlesFlights s.nextId s t ∧
          OnlyWrites s { t with clusters := s.clusters, tlus := s.tlus, flights := s.flights }
        (g.op = 2 → combines (.gteSadd n) (old + v.toNat)) ∧
        (g.op = 3 → combines (.gteSfadd n) (fpAdd fmt .rne old v.toNat).1) ∧
        (g.op = 4 → g.flag 3 = true → combines (.gteSmin n) (fpMinMax fmt false old v.toNat).1) ∧
        (g.op = 4 → g.flag 3 = false → g.flag 2 = true → combines (.gteSmin n) (min old v.toNat)) ∧
        (g.op = 4 → g.flag 3 = false → g.flag 2 = false →
          combines (.gteSmin n) (if signed old ≤ signed v.toNat then old else v.toNat)) ∧
        (g.op = 5 → g.flag 3 = true → combines (.gteSmax n) (fpMinMax fmt true old v.toNat).1) ∧
        (g.op = 5 → g.flag 3 = false → g.flag 2 = true → combines (.gteSmax n) (max old v.toNat)) ∧
        (g.op = 5 → g.flag 3 = false → g.flag 2 = false →
          combines (.gteSmax n) (if signed old ≤ signed v.toNat then v.toNat else old))))) ∧
  (∀ r g, s.gteRun? n = some (r, g) → g.op = 6 → g.bad = false →
    let first := g.field 8 8 % 2 ^ 48 / 64
    let dropped (x : CLine) : Prop := x.node = true ∧ x.asid = r.asid ∧
      (g.count = 0 ∨ first ≤ x.vline ∧ x.vline < first + g.count)
    let covers (k : Nat) : Prop := if g.flag 4 then (s.cluster k).powered = true else k = cid
    Answers (.gteNinv n) s fun t =>
      (∀ k, k < 10 → ∀ x, x ∈ (t.cluster k).lines ↔ x ∈ (s.cluster k).lines ∧ ¬ (covers k ∧ dropped x)) ∧
      (∀ k, t.cluster k = { s.cluster k with lines := (t.cluster k).lines, gte := (t.cluster k).gte }) ∧
      run? t = some { g with ended := some (2#32, g.count), probed := none } ∧ holds (fun _ => []) t ∧
      t = { s with clusters := t.clusters, tlus := t.tlus }) ∧
  (∀ g, run? s = some g →
    let out := s.scatters n
    (out = [] → s.gteEnd? n g = g.ended) ∧
    -- the fault of the lowest element; AFTER tells of a later one issued
    (∀ p ∈ out, (∀ q ∈ out, q.2.stage = .faulted ∨ q.2.stage = .acked) → p.2.stage = .faulted →
      (∀ q ∈ out, q.2.stage = .faulted → q ≠ p → p.2.fig.toNat < q.2.fig.toNat) →
      s.gteEnd? n g = some (status 3 p.2.word.toNat + (if p.2.fig.toNat + 1 < g.i then 0x10000#32 else 0#32), p.2.fig.toNat)) ∧
    ∀ status k r, s.gteEnd? n g = some (status, k) → s.res? n g.req.launch = some r → r.phase = .resident →
      s.ringFull n g.req.launch = false → Answers (.gteRequestEnd n) s fun t =>
        -- each of the two writes is logged where the core traces
        (let logged (q : Word) (off v : Nat) (m : List Host.Cell) : List Host.Cell := if c.traceEn = true then
          Memory.writeN m (poolAddr n (c.traceRing + 16 * (q.toNat % 1024))) (bytesOfNat 4 q.toNat ++ bytesOfNat 2 (s.coreWord n) ++
            [4#8, 2#8] ++ bytesOfNat 4 off ++ bytesOfNat 4 (v % 2 ^ 32)) else m
         t.mem = logged (c.traceSeq + 1#32) (g.req.desc + 44) k (Memory.writeN
          (logged c.traceSeq (g.req.desc + 40) status.toNat
            (Memory.writeN s.mem (poolAddr n (g.req.desc + 40)) (bytesOfNat 4 status.toNat)))
          (poolAddr n (g.req.desc + 44)) (bytesOfNat 4 k))) ∧
        t.cluster cid = { cl with gte := Tbl.erase cl.gte n } ∧ others t ∧ holds (fun _ => []) t ∧
        t.res? n g.req.launch = some { r with gteLog := r.gteLog.map fun e =>
          if e.1 = g.req.seq then (g.req.seq, status, k) else e } ∧ (∀ x, x ≠ g.req.launch → t.res? n x = s.res? n x) ∧
        t.core n = { c with
          signals := c.signals ++ (if g.flag 1 then [(g.req.launch, g.field 4 1 % 64)] else []), res := (t.core n).res
          traceSeq := if c.traceEn = true then c.traceSeq + 2#32 else c.traceSeq } ∧
        (∀ x, x ≠ n → t.core x = s.core x) ∧
        (∀ x, Tbl.get? t.flights x = if (∃ p ∈ out, p.1 = x) then none else Tbl.get? s.flights x) ∧
        OnlyWrites s { t with cores := s.cores, clusters := s.clusters, tlus := s.tlus, flights := s.flights })

/-- R193, R195, R196, R203, R263, R280: a caller. A stalled Xfig instruction completes once its condition holds, as it would when issued; an
enabled event enters its handler at an instruction boundary in U-mode; without a handler the supervisor empties a full inbox; a page fault
whose record is answered ends, and the instruction executes again; any other exception met in U-mode aborts the launch. -/
def Obligations.CallerEventResults : Prop := ∀ (s : State) (n l : Nat) (r : Res), n < 80 → s.res? n l = some r →
  r.phase = .resident →
  let c := s.core n
  let h := r.caller
  let stays (i : Instr) : Prop := Answers i s fun t => t = s
  (∀ rd, h.stall = some (.wait rd) →
    let holds : Prop := ∀ x ∈ c.owned l, (c.micro x).callq = [] ∧ c.inFlight x = false
    (holds → Answers (.xfigStallComplete n l) s fun t => XfigDone n l r rd 0 (fun r => r) s t ∧ OnlyLaunch n l s t) ∧
    (¬ holds → c.enabledEvents l r &&& ~~~4#16 ≠ 0#16 → Answers (.xfigStallComplete n l) s fun t =>
      XfigDone n l r rd 1 (fun r => r) s t ∧ OnlyLaunch n l s t) ∧
    (¬ holds → c.enabledEvents l r &&& ~~~4#16 = 0#16 → stays (.xfigStallComplete n l))) ∧
  (∀ rd rs1, h.stall = some (.sync rd rs1) → Tbl.sorted c.slots = true →
    let busy (x : Nat) : Prop := (c.micro x).callq ≠ [] ∨ c.inFlight x = true
    (∀ done : List Nat, done.Nodup →
      (∀ x, x ∈ done ↔ c.named l (h.reg rs1) x ∧ (c.micro x).life = .called ∧ ¬ busy x) →
      (∀ x, c.named l (h.reg rs1) x → x ∈ done ∨ (c.micro x).life = .retired ∨ (c.micro x).life = .faulted) →
      Answers (.xfigStallComplete n l) s fun t => XfigDone n l r rd done.length (fun r => r) s t ∧ OnlyLaunch n l s t) ∧
    (∀ x, c.named l (h.reg rs1) x → (c.micro x).life = .called → busy x → stays (.xfigStallComplete n l))) ∧
  (∀ rd rs1 rs2, h.stall = some (.call rd rs1 rs2) → Tbl.sorted c.slots = true →
    let takes (slot : Nat) : Prop := c.named l (h.reg rs2) slot ∧ (c.micro slot).life = .called ∧ (c.micro slot).mode = .called
    (∀ slots : List Nat, slots.Nodup → (∀ x, x ∈ slots ↔ takes x) → (∀ x ∈ slots, (c.micro x).callq.length < 4) →
      Answers (.xfigStallComplete n l) s fun t =>
        XfigDone n l r rd slots.length (fun r => r) s t ∧
        (∀ x ∈ slots, ∃ u, t.microAt n x = some u ∧
          u = { c.micro x with callq := (c.micro x).callq ++ [(h.reg rs1).setWidth 32], since := u.since }) ∧
        (∀ x, x ∉ slots → t.microAt n x = s.microAt n x) ∧ OnlyMicros n s t) ∧
    (∀ x, takes x → 4 ≤ (c.micro x).callq.length → stays (.xfigStallComplete n l))) ∧
  (∀ rd rs1, h.stall = some (.launch rd rs1) →
    (s.callerFenced n l = true → stays (.xfigStallComplete n l)) ∧
    (∀ t, s.callerFenced n l = false → exec (.figLaunch rd rs1) { s with focus := .caller n l } = .next t →
      Answers (.xfigStallComplete n l) s fun u => u = { t with focus := s.focus })) ∧
  (h.ended = false → h.exc = none → h.stall = none → h.waitFor = none → c.parked = false → s.fetchHeld n l = false →
    h.priv = .user → h.handler = none →
    (h.fhandler ≠ 0#64 → c.enabledEvents l r ≠ 0#16 → Answers (.eventInterrupt n l) s fun t =>
      (∃ u, t.res? n l = some { r with caller := u } ∧
        u = { h with
          x := u.x, pc := h.fhandler, handler := some (h.reg 10#5, h.reg 11#5, h.pc), sstatus := u.sstatus, sepc := h.pc
          scause := 0x8000000000000009#64, stval := 0#64, upc := h.pc } ∧
        u.sstatus = (h.sstatus ||| 32#64) &&& ~~~256#64 ∧
        u.reg 10#5 = (c.enabledEvents l r).setWidth 64 ∧ u.reg 11#5 = h.pc ∧
        ∀ x : XReg, x ≠ 10#5 → x ≠ 11#5 → u.reg x = h.reg x) ∧ OnlyLaunch n l s t) ∧
    (h.fhandler ≠ 0#64 → c.enabledEvents l r = 0#16 → stays (.eventInterrupt n l)) ∧
    (∀ out rest, h.fhandler = 0#64 → 256 ≤ c.inbox.length → takeEntries l c.inbox.length c.inbox = (out, rest) →
      Answers (.eventInterrupt n l) s fun t =>
        t.res? n l = some { r with spill := r.spill ++ out.map Spill.msg } ∧ (∀ x, x ≠ l → t.res? n x = s.res? n x) ∧
        t.core n = { c with inbox := rest, res := (t.core n).res } ∧ OnlyCore n s t)) ∧
  (∀ e, h.exc = some e → e.fromS = false →
    (e.cause ∈ [12, 13, 15] →
      (s.recordOpen r.asid (e.tval.toNat % 2 ^ 48) = false → Answers (.callerException n l) s fun t =>
        (∃ u, t.res? n l = some { r with caller := u } ∧
          u = { h with pc := h.sepc, priv := u.priv, sstatus := u.sstatus, exc := none } ∧
          u.priv = (if h.sstatus.getLsbD 8 then .supervisor else .user) ∧
          ∀ i, i < 64 → u.sstatus.getLsbD i =
            if i = 1 then h.sstatus.getLsbD 5 else if i = 5 then true else if i = 8 then false else h.sstatus.getLsbD i) ∧
        OnlyLaunch n l s t) ∧
      (s.recordOpen r.asid (e.tval.toNat % 2 ^ 48) = true → stays (.callerException n l))) ∧
    (e.cause ∉ [12, 13, 15] → Answers (.callerException n l) s fun t => t = s.abort l 2 false true))

/-- R29, R37, R281, R284-R288, R293-R295: pre-emption on a core. The request halts the launch; a halted launch catches its arrivals in its
spill ring; once it is quiet its context is saved and its micro-threads are halted; a context that fits again is restored and its
micro-threads go on, or are re-sliced. An S-mode exception parks the core, which the management harts reset. -/
def Obligations.PreemptionResults : Prop := ∀ (s : State) (n l : Nat) (x : Launch) (r : Res), s.Sound → n < 80 →
  s.res? n l = some r → s.launch? l = some x →
  let c := s.core n
  let mine (f : Flight) : Prop := f.core = n ∧ f.launch = l
  -- the groups that wait for code, which a halt dissolves
  let stuck (g : Group) : Prop := g.launch = l ∧ g.waiting ≠ []
  (x.state = .saving → r.phase = .resident → Tbl.has x.areas n = true → Tbl.sorted c.groups = true →
    Answers (.preemptionRequest n l) s fun t =>
      (∃ q, t.res? n l = some q ∧ q = { r with phase := .halting, ringNext := q.ringNext, caller := q.caller } ∧
        q.caller = { r.caller with
          pc := if r.caller.priv = .supervisor then r.caller.upc else r.caller.pc, priv := .user, exc := none, stall := none
          waitFor := q.caller.waitFor } ∧ (r.spill = [] → q.ringNext = 0 ∧ t.mem = s.mem)) ∧
      (∀ k, k ≠ l → t.res? n k = s.res? n k) ∧ (∀ k, k ≠ n → t.core k = s.core k) ∧
      t.core n = { c with
        groups := (t.core n).groups, slots := (t.core n).slots, res := (t.core n).res, eligible := (t.core n).eligible } ∧
      (∀ k g, Tbl.get? (t.core n).groups k = some g ↔ Tbl.get? c.groups k = some g ∧ ¬ stuck g) ∧
      (∀ slot, (∀ p ∈ c.groups, stuck p.2 → slot ∉ p.2.members) → t.microAt n slot = s.microAt n slot) ∧
      (∀ slot m, s.microAt n slot = some m → ∃ u figs, t.microAt n slot = some u ∧
        u = { m with callq := figs ++ m.callq, life := u.life, since := u.since, rearmed := u.rearmed } ∧
        ∀ f ∈ figs, ∃ p ∈ c.groups, stuck p.2 ∧ slot ∈ p.2.members ∧ p.2.fig = f) ∧
      (∀ a, a ∈ t.resvs → a ∈ s.resvs ∧ ¬ (a.1 = n ∧ a.2.1 = l)) ∧
      (∀ id, Tbl.get? t.flights id = (Tbl.get? s.flights id).filter fun f =>
        !(f.core == n && f.launch == l && f.agent == .caller && f.isLoad)) ∧
      OnlyWrites s { t with cores := s.cores, flights := s.flights, resvs := s.resvs }) ∧
  -- what arrives while the launch is away stands in its spill ring, in the order of arrival
  (∀ line rest area ring, r.phase ≠ .resident → r.ringNext < 4096 → c.signals = (l, line) :: rest →
    Tbl.get? x.areas n = some (area, ring) → Answers (.eventSignal n) s fun t =>
      t.res? n l = some { r with spill := r.spill ++ [.signal line], ringNext := r.ringNext + 1 } ∧
      (∀ k, k ≠ l → t.res? n k = s.res? n k) ∧ (∀ k, k ≠ n → t.core k = s.core k) ∧
      t.core n = { c with signals := rest, res := (t.core n).res } ∧
      t.mem = Memory.writeN s.mem (ring + 64 * r.ringNext) (ringEntry 8 0 (s.coreWord n) 0 line [] []) ∧
      OnlyWrites s { t with cores := s.cores }) ∧
  (∀ src msg rest area ring, r.phase ≠ .resident → r.ringNext < 4096 → Tbl.get? c.net src = some (msg :: rest) →
    msg.launch = l → msg.kind = 1 → msg.box ≠ .overflow → Tbl.get? x.areas n = some (area, ring) →
    Answers (.spawnArrival n src) s fun t =>
      t.res? n l = some { r with spill := r.spill ++ [.msg { msg with box := .none }], ringNext := r.ringNext + 1 } ∧
      (∀ k, k ≠ l → t.res? n k = s.res? n k) ∧ (∀ k, k ≠ n → t.core k = s.core k) ∧
      t.core n = { c with net := (t.core n).net, res := (t.core n).res } ∧
      (rest ≠ [] → Tbl.get? (t.core n).net src = some rest) ∧ (∀ k, k ≠ src → Tbl.get? (t.core n).net k = Tbl.get? c.net k) ∧
      t.mem = Memory.writeN s.mem (ring + 64 * r.ringNext) (ringEntry 6 0 msg.src 0 0 [] msg.bytes) ∧
      OnlyWrites s { t with cores := s.cores }) ∧
  (∀ area ring, r.phase = .halting → x.state ≠ .ending → Tbl.get? x.areas n = some (area, ring) → s.quiet n l = true →
    s.saveDamaged n l r = false → Answers (.contextSave n l) s fun t =>
      -- the resident tile is written back and the barrier objects counted down before the copy
      let b := s.beforeSave n l r
      (∃ v, t.res? n l = some { r with phase := .saved, saved := some v } ∧
        v.sp = Memory.readN b.mem (poolAddr n (recNat r.record 60 4)) (recNat r.record 64 4) ∧
        v.tiles = (List.range r.tileMap.length).map (fun i => Memory.readN b.mem (poolAddr n (c.tileOff r i)) 16384) ∧
        v.wb = r.wbMap.flatMap (fun u => Memory.readN b.mem (wbAddr n (256 * u)) 256) ∧ v.part = c.part ∧ v.cwp = c.cwp ∧
        v.inbox = c.inbox.filter (fun m => m.launch == l) ∧ v.mx = c.mx.filter (fun e => e.launch == l) ∧
        v.trp = c.trp.filter (fun e => e.launch == l) ∧ v.gteq = c.gteq.filter (fun e => e.launch == l) ∧
        v.joins = c.joins.filter (fun p => p.2.launch == l) ∧ v.reissue = s.toReissue n l ∧ v.damaged = false) ∧
      (∀ k, k ≠ l → t.res? n k = s.res? n k) ∧
      (∀ slot m, s.microAt n slot = some m → t.microAt n slot = some
        (if m.owner = some l then (if m.life = .retired then { m with held := .retired } else { m with held := m.life, life := .halted })
         else m)) ∧
      (t.core n).mx = c.mx.filter (fun e => e.launch != l) ∧ (t.core n).trp = c.trp.filter (fun e => e.launch != l) ∧
      (t.core n).gteq = c.gteq.filter (fun e => e.launch != l) ∧ (t.core n).inbox = c.inbox.filter (fun m => m.launch != l) ∧
      (t.core n).joins = c.joins.filter (fun p => p.2.launch != l) ∧
      (∀ i : Fin 4, (t.core n).chans[i] = c.chans[i].filter fun e => e.launch != l) ∧
      (t.core n).groups = c.groups ∧ (t.core n).fifo = c.fifo ∧ (t.core n).part = c.part ∧
      (∀ k, k ≠ n → t.core k = { s.core k with net := (t.core k).net }) ∧
      (∀ id f, Tbl.get? s.flights id = some f → ¬ mine f → Tbl.get? t.flights id = some f) ∧
      -- the image's header (R288)
      t.peek area 4 = 0x57C00C7A ∧ t.peek (area + 4) 2 = 1 ∧ t.peek (area + 6) 2 = s.coreWord n ∧
      t.peek (area + 8) 4 = l % 2 ^ 32 ∧ t.peek (area + 12) 1 = 0 ∧
      ((∀ k ∈ x.cores, k ≠ n → ∃ q, s.res? k l = some q ∧ q.phase = .saved) → x.state = .saving →
        ∃ y, t.launch? l = some y ∧ y = { x with state := .saved, since := y.since }) ∧
      ∀ k, k ≠ l → t.launch? k = s.launch? k) ∧
  (∀ v area ring, r.phase = .saved → r.saved = some v → x.state = .resuming ∨ x.state = .placed →
    (∀ k ∈ x.cores, ∃ q, s.res? k l = some q ∧
      (q.phase = .resident ∨ (q.phase = .saved ∧ (s.core k).fitsAgain l x.record [] = true))) →
    Tbl.get? x.areas n = some (area, ring) → s.imageRefused n l area ring r.ringNext = none → r.spill = [] →
    Tbl.sorted c.slots = true → Answers (.contextResume n l) s fun t =>
      -- the launch, its memories and a micro-thread as the image gives them back
      let r' := s.imageRes area (c.sets l).length r
      let v' := s.imageMem area v
      let back (slot : Nat) (m : Micro) : Micro := s.imageMicro area c l slot m
      ∃ q, t.res? n l = some q ∧ q.phase = .resident ∧ q.saved = none ∧ q.spill = [] ∧ q.ringNext = 0 ∧ q.record = r.record ∧
      q.mbox = r'.mbox ∧ q.latches = r'.latches ∧ q.sent = r.sent ∧ q.received = r.received ∧ q.walker = r'.walker ∧
      t.mem = (s.restoreBytes n l r v').mem ∧
      (v.tiles = [] → r.wbMap = [] → t.mem = Memory.writeN s.mem (poolAddr n (recNat r.record 60 4))
        (Memory.readN s.mem (s.sectionAt area 6) v.sp.length)) ∧
      (t.core n).mx = v.mx ++ c.mx ∧ (t.core n).trp = v.trp ++ c.trp ∧ (t.core n).gteq = v.gteq ++ c.gteq ∧
      (t.core n).inbox = v.inbox ++ c.inbox ∧ (t.core n).cwp = v'.cwp ∧
      (∀ k, k ≠ l → t.res? n k = s.res? n k) ∧
      (∀ slot m, s.microAt n slot = some m → m.owner ≠ some l → t.microAt n slot = some m) ∧
      let sized := grantFor (t.core n).cap (r'.setw.getD 0#64).toNat
      -- with its grant, or none, it goes on where it stood
      (r'.grant = none ∨ r'.grant = some sized → q.grant = r'.grant ∧ q.caller = r'.caller ∧ q.xacs = r'.xacs ∧
        ∀ slot m, s.microAt n slot = some m → m.owner = some l → m.life = .halted →
          m.held ∈ [.called, .free, .parked, .faulted] → ∃ u, t.microAt n slot = some u ∧
            u.life ∈ [.called, .free, .parked, .faulted] ∧ (u.life = .faulted ↔ m.held = .faulted) ∧
            u = { back slot m with
              life := u.life, parkedOn := [], codePark := none, cych := none, since := u.since, rearmed := u.rearmed }) ∧
      -- with another grant it is re-sliced, and its caller enters at CRESLICE
      (∀ old, r'.grant = some old → sized ≠ old → q.grant = some sized ∧ q.caller.pc = BitVec.ofNat 64 (recNat r.record 32 8) ∧
        q.caller.reg 10#5 = BitVec.ofNat 64 old ∧ q.caller.reg 11#5 = BitVec.ofNat 64 sized ∧
        ∀ slot m, s.microAt n slot = some m → m.owner = some l → m.life = .halted → m.held ≠ .created → ∃ u,
          t.microAt n slot = some u ∧ u.regs = (back slot m).regs ∧ u.preds = (back slot m).preds ∧ u.gen = (back slot m).gen ∧
          u.pos = m.pos ∧ u.fault = m.fault ∧
          (m.fault = none → m.pos = none → u.life = .called ∧ u.mode = .called ∧ u.callq = [] ∧
            u.resume = (if m.mode = .free then (back slot m).pc else (back slot m).callq.headD 0#32)) ∧
          (m.fault ≠ none → u.life = m.held ∧ u.mode = m.mode))) ∧
  (∀ pre post e, c.res = pre ++ (l, r) :: post → r.caller.exc = some e → e.fromS = true → r.phase = .resident →
    (∀ p ∈ pre, ∀ e, p.2.caller.exc = some e → e.fromS = false ∨ p.2.phase ≠ .resident) → c.parked = false →
    Tbl.sorted c.res = true → Answers (.corePark n) s fun t =>
      (t.core n).parked = true ∧
      (t.core n).report = some (bytesOfNat 4 (2 ^ 31 + 1024 * s.coreWord n) ++ bytesOfNat 2 0 ++
        bytesOfNat 1 (r.caller.scause.toNat % 256) ++ bytesOfNat 1 0 ++ bytesOfNat 4 r.caller.sepc.toNat ++
        bytesOfNat 4 r.caller.stval.toNat) ∧
      (∀ k q, s.res? n k = some q → q.phase = .resident → s.launch? k ≠ none → ∃ u, t.res? n k = some u ∧
        u = { q with phase := .halting, ringNext := u.ringNext, caller := u.caller }) ∧
      (∀ k q, s.res? n k = some q → q.phase ≠ .resident → t.res? n k = some q) ∧ ∀ k, k ≠ n → t.core k = s.core k) ∧
  (c.parked = true → Answers (.coreReset n) s fun t =>
    OnlyCore n s t ∧ t.core n = { c with parked := false, report := none })

/-- R378-R380, R385-R388, R400, R432, R437: the registers of the scheduler's window, host queues, fault records, shoot-downs and
management accesses. A doorbell gives a queue its TAIL, unless too far ahead. Once READY is set an entry is taken in its turn: accepted,
it becomes a waiting launch; refused, its entry says why; a page the host could map is asked for. A fault record reaches the ring or is
refused; the host's answer wakes what waits for the page, or faults it. A shoot-down drops what it matches at once, and is done when
nothing translated under it is open. What PCFG does with reserved bits is log 81's. -/
def Obligations.HostInterfaceResults : Prop := ∀ (s : State), s.Sound →
  (∀ q tail h, s.dsc.queues[q]? = some h →
    ((tail - h.head).toNat ≤ h.cfg.toNat % 2 ^ 16 → Answers (.doorbellWrite q tail) s fun t =>
      t = { s with dsc := { s.dsc with queues := t.dsc.queues } } ∧
      ∀ x, t.dsc.queues[x]? = (s.dsc.queues[x]?).map fun y => if x = q then { y with tail := tail } else y) ∧
    (h.cfg.toNat % 2 ^ 16 < (tail - h.head).toNat → Answers (.doorbellWrite q tail) s fun t => t = s)) ∧
  (s.rtc.ready = false ∨ s.nextQueue = none → Answers .hostQueueTake s fun t => t = s) ∧
  (∀ q h, s.rtc.ready = true → s.nextQueue = some (q, h) →
    let place := h.entryAt h.head.toNat
    let goesOn (t : State) : Prop := t.dsc.nextQueue = (q + 1) % 64 ∧ ∀ x, t.dsc.queues[x]? =
      (s.dsc.queues[x]?).map fun y => if x = q then { y with head := y.head + 1#32, held := false } else y
    let refusedWith (k : Nat) (t : State) : Prop :=
      t.peek (place + 16) 1 = 3 ∧ t.peek (place + 17) 1 = k ∧ goesOn t ∧ OnlyWrites s { t with dsc := s.dsc } ∧
      t.dsc = { s.dsc with queues := t.dsc.queues, nextQueue := t.dsc.nextQueue } ∧
      ∀ a, (a < place + 16 ∨ place + 18 ≤ a) → t.peek a 1 = s.peek a 1
    (s.entryRecord h = .error none → Answers .hostQueueTake s (refusedWith 1)) ∧
    (∀ rec_ k, s.entryRecord h = .ok rec_ → s.refuses rec_ h.asid h.part h.maxPrio = some k →
      Answers .hostQueueTake s (refusedWith k)) ∧
    (∀ rec_, s.entryRecord h = .ok rec_ → s.refuses rec_ h.asid h.part h.maxPrio = none → Answers .hostQueueTake s fun t =>
      let k := if s.dsc.idents + 1 = 2 ^ 31 then 1 else s.dsc.idents + 1
      let id := k + 2 ^ 31 * s.cardNo
      t.launch? id = some
        { record := rec_, state := .waiting, rootq := q, entry := some (q, h.head.toNat), poster := none, restarts := 0
          order := s.dsc.orders, since := (s.part (recNat rec_ 10 1)).decisions, x0 := 0, y0 := 0, areas := [], sweep := none
          twinSweep := none, pairIndex := none, proposed := false, fin := none, released := false, endRefused := false } ∧
      (∀ j, j ≠ id → t.launch? j = s.launch? j) ∧ OnlyWrites s { t with dsc := s.dsc } ∧
      t.dsc = { s.dsc with queues := t.dsc.queues, nextQueue := t.dsc.nextQueue, launches := t.dsc.launches, idents := k
                           orders := s.dsc.orders + 1 } ∧
      t.peek (place + 16) 1 = 1 ∧ t.peek (place + 18) 2 = 0 ∧ t.peek (place + 20) 4 = id % 2 ^ 32 ∧ goesOn t ∧
      ∀ a, (a < place + 16 ∨ place + 24 ≤ a ∨ a = place + 17) → t.peek a 1 = s.peek a 1) ∧
    (∀ va leaf, s.entryRecord h = .error (some (va, leaf)) → Answers .hostQueueTake s fun t =>
      t = { s with tlus := t.tlus, dsc := { s.dsc with queues := t.dsc.queues, nextQueue := (q + 1) % 64 } } ∧
      (∀ x, t.dsc.queues[x]? = (s.dsc.queues[x]?).map fun y => if x = q then { y with held := true } else y) ∧
      (∀ k, t.tlu k = { s.tlu k with recs := (t.tlu k).recs, formed := (t.tlu k).formed }) ∧
      (∀ k, k ≠ tluOf va → t.tlu k = s.tlu k) ∧ (∀ r ∈ (s.tlu (tluOf va)).recs, r ∈ (t.tlu (tluOf va)).recs) ∧
      ∃ r ∈ (t.tlu (tluOf va)).recs, r.asid = h.asid ∧ r.page = va / 2 ^ 12)) ∧
  (∀ k r, k < 16 → (s.tlu k).recs.find? (fun r => r.state != .written) = some r →
    (r.state = .refused ∨ s.asidPart r.asid = none → Answers (.faultRecordArrival k) s fun t => t = s) ∧
    ∀ p, r.state = .offered → s.asidPart r.asid = some p → p < 8 →
    let v := s.part p
    let cap := v.field 48 2
    let base := v.field 40 8 + 32 * (v.written % max 1 cap)
    let marked (st : RecState) (t : State) : Prop :=
      (t.tlu k).recs = ((s.tlu k).recs.map fun x => if x.seq = r.seq then { x with state := st } else x) ∧
      t.tlu k = { s.tlu k with recs := (t.tlu k).recs } ∧ ∀ j, j ≠ k → t.tlu j = s.tlu j
    ((BitVec.ofNat 32 v.written - v.consumed).toNat < cap → Answers (.faultRecordArrival k) s fun t =>
      t.peek base 4 = r.seq % 2 ^ 32 ∧ t.peek (base + 4) 1 = k ∧ t.peek (base + 5) 1 = r.kind % 2 ^ 8 ∧
      t.peek (base + 6) 2 = r.asid % 2 ^ 16 ∧ t.peek (base + 8) 8 = r.page * 2 ^ 12 % 2 ^ 64 ∧
      t.peek (base + 16) 8 = r.leaf.toNat ∧ t.peek (base + 24) 8 = 0 ∧ t.part p = { v with written := v.written + 1 } ∧
      t.dsc.intstat = s.dsc.intstat ||| 1#25 <<< (8 + p) ∧ marked .written t ∧
      OnlyWrites s { t with dsc := s.dsc, tlus := s.tlus } ∧ (∀ j, j ≠ p → t.part j = s.part j) ∧
      t.dsc = { s.dsc with parts := t.dsc.parts, intstat := t.dsc.intstat } ∧
      ∀ a, (a < base ∨ base + 32 ≤ a) → t.peek a 1 = s.peek a 1) ∧
    (cap ≤ (BitVec.ofNat 32 v.written - v.consumed).toNat → Answers (.faultRecordArrival k) s fun t =>
      t = { s with tlus := t.tlus } ∧ marked .refused t)) ∧
  (∀ p v, p < 8 → p < s.dsc.parts.length → Answers (.faultheadWrite p v) s fun t =>
    t.part p = { s.part p with consumed := v } ∧ (∀ j, j ≠ p → t.part j = s.part j) ∧
    t = { s with dsc := { s.dsc with parts := t.dsc.parts }, tlus := t.tlus } ∧
    ∀ k, k < 16 → t.tlu k = { s.tlu k with recs := (t.tlu k).recs } ∧ (t.tlu k).recs = (s.tlu k).recs.map fun r =>
      if s.asidPart r.asid = some p ∧ r.state = .refused then { r with state := .offered } else r) ∧
  (∀ (v : DWord) r, v.extractLsb' 37 27 = 0#27 →
    (s.tlu (v.toNat / 2 ^ 32 % 16)).recs.find? (fun r => r.seq == v.toNat % 2 ^ 32) = some r →
    Answers (.faultrespWrite v) s fun t =>
      (v.getLsbD 36 = false → t = { s with dsc := { s.dsc with queues := t.dsc.queues }, wakes := t.wakes, tlus := t.tlus } ∧
        (t.tlu (v.toNat / 2 ^ 32 % 16)).recs =
          (s.tlu (v.toNat / 2 ^ 32 % 16)).recs.filter (fun x => x.seq != v.toNat % 2 ^ 32) ∧
        (∀ k, k ≠ v.toNat / 2 ^ 32 % 16 → t.tlu k = s.tlu k) ∧
        (∀ q : Nat, t.dsc.queues[q]? = (s.dsc.queues[q]?).map fun (h : HostQ) => if h.asid = r.asid then { h with held := false } else h) ∧
        (∀ w ∈ s.wakes, w ∈ t.wakes) ∧ (∀ w ∈ t.wakes, w ∈ s.wakes ∨ w.1 < 80 ∧ w.2 = (r.asid, r.page)) ∧
        (∀ n l slot m res, n < 80 → s.microAt n slot = some m → m.codePark = some r.page → m.owner = some l →
          s.res? n l = some res → res.asid = r.asid → (n, r.asid, r.page) ∈ t.wakes) ∧
        (∀ n e q res, n < 80 → s.query? n e = some q → q.pageHeld = some r.page → s.res? n q.launch = some res →
          res.asid = r.asid → (n, r.asid, r.page) ∈ t.wakes) ∧
        ∀ id f res va, f.core < 80 → s.flies id f .parked → s.parkedAt { f with stage := .parked } = some va →
          s.res? f.core f.launch = some res → res.asid = r.asid → va / 2 ^ 12 = r.page → (f.core, r.asid, r.page) ∈ t.wakes) ∧
      (v.getLsbD 36 = true → (∀ p ∈ s.dsc.launches, p.2.state ≠ .ending) →
        t = { s with tlus := t.tlus, cores := t.cores, clusters := t.clusters, flights := t.flights, mem := t.mem, resvs := t.resvs
                     watch := t.watch, station := t.station, dsc := { s.dsc with queues := t.dsc.queues } } ∧
        (t.tlu (v.toNat / 2 ^ 32 % 16)).recs =
          (s.tlu (v.toNat / 2 ^ 32 % 16)).recs.filter (fun x => x.seq != v.toNat % 2 ^ 32) ∧
        (∀ id f res a b, f.core < 80 → f.agent = .micro → s.flies id f .parked → f.op = .load a b →
          s.res? f.core f.launch = some res → res.asid = r.asid → res.phase ≠ .saved →
          f.ea.toNat % 2 ^ 48 / 2 ^ 12 = r.page → t.flies id f .faulted) ∧
        ∀ id f st, f.agent = .micro → f.isFence = false → s.flies id f st → st ≠ .parked → (∀ l a, st ≠ .fill l a) →
          (∀ pa c, st ≠ .home pa c) → t.flies id f st)) ∧
  (∀ v : DWord, (v.extractLsb' 37 27 ≠ 0#27 ∨
      (s.tlu (v.toNat / 2 ^ 32 % 16)).recs.find? (fun r => r.seq == v.toNat % 2 ^ 32) = none) →
    Answers (.faultrespWrite v) s fun t => t = s) ∧
  (∀ v : DWord, (v ≠ 1#64 → s.dsc.shootBusy = none → Answers (.shootgoWrite v) s fun t => t = s) ∧
    (s.dsc.shootBusy ≠ none → Answers (.shootgoWrite v) s fun t =>
      t = { s with dsc := { s.dsc with shootLost := s.dsc.shootLost + 1#16 } }) ∧
    (v = 1#64 → s.dsc.shootBusy = none →
      let page := s.dsc.shootVa.toNat % 2 ^ 48 / 2 ^ 12
      let range := (s.dsc.shootAsid.toNat % 2 ^ 16, page, s.dsc.shootLen.toNat)
      let hit (asid first count : Nat) : Prop := asid = s.dsc.shootAsid.toNat % 2 ^ 16 ∧
        (s.dsc.shootLen = 0#64 ∨ first < page + s.dsc.shootLen.toNat ∧ page < first + count)
      Answers (.shootgoWrite v) s fun t =>
        t = { s with tlus := t.tlus, cores := t.cores, clusters := t.clusters, flights := t.flights
                     dsc := { s.dsc with shootBusy := some range } } ∧
        (∀ k, t.tlu k = { s.tlu k with leaves := (t.tlu k).leaves } ∧
          ∀ x, x ∈ (t.tlu k).leaves ↔ x ∈ (s.tlu k).leaves ∧ ¬ hit x.asid x.vpn (2 ^ (9 * x.level))) ∧
        (∀ n, t.core n = { s.core n with code := (t.core n).code } ∧
          ∀ x, x ∈ (t.core n).code ↔ x ∈ (s.core n).code ∧ ¬ hit x.1 (x.2.1 / 64) 1) ∧
        (∀ n, n < 10 → t.cluster n = { s.cluster n with lines := (t.cluster n).lines } ∧
          ∀ x, x ∈ (t.cluster n).lines ↔ x ∈ (s.cluster n).lines ∧ ¬ hit x.asid (x.vline / 64) 1) ∧
        (∀ id f line a, f.core < 80 → f.isLoad = true → s.flies id f (.fill line a) →
          hit (s.asidOf f.core f.launch) (f.vline / 64) 1 → t.flies id f (.fill line false)) ∧
        (∀ id f pa a, f.core < 80 → f.isLoad = true → s.flies id f (.home pa a) →
          hit (s.asidOf f.core f.launch) (f.vline / 64) 1 → t.flies id f (.home pa false)) ∧
        ∀ id f, Tbl.get? s.flights id = some f → ¬ hit (s.asidOf f.core f.launch) (f.vline / 64) 1 →
          Tbl.get? t.flights id = some f)) ∧
  (∀ range, s.dsc.shootBusy = some range →
    let open_ : Prop := (∃ p ∈ s.flights, shootHits range (s.asidOf p.2.core p.2.launch) (p.2.ea.toNat % 2 ^ 48 / 2 ^ 12) 1 = true ∧
        ((∃ d c, p.2.stage = .ready d c) ∨ ∃ pa c, p.2.stage = .home pa c)) ∨
      ∃ k, k < 16 ∧ ∃ h ∈ (s.tlu k).holds, shootHits range h.2.1 h.2.2 1 = true
    (¬ open_ → Answers .shootdownDone s fun t =>
      t = { s with
            dsc := { s.dsc with shootBusy := none, shootDone := s.dsc.shootDone + 1#32
                                intstat := s.dsc.intstat ||| 1#25 <<< 24 } }) ∧
    (open_ → Answers .shootdownDone s fun t => t = s)) ∧
  (s.dsc.shootBusy = none → Answers .shootdownDone s fun t => t = s) ∧
  (∀ v : DWord, Answers (.intstatClear v) s fun t => t = { s with dsc := t.dsc } ∧
    t.dsc = { s.dsc with intstat := t.dsc.intstat } ∧
    ∀ i, i < 25 → t.dsc.intstat.getLsbD i = (s.dsc.intstat.getLsbD i && !v.getLsbD i)) ∧
  (∀ p (v : Line),
    let meets : Prop := v.getLsbD 16 = true ∧ ∃ q, q < 8 ∧ q ≠ p ∧ (s.part q).enabled = true ∧
      ∃ i, i < 10 ∧ v.getLsbD i = true ∧ (s.part q).cfg.getLsbD i = true
    let reserved : Prop := ∃ i, (10 ≤ i ∧ i < 16 ∨ 19 ≤ i ∧ i < 24 ∨ i = 95 ∨ 168 ≤ i ∧ i < 192 ∨ 400 ≤ i ∧ i < 512) ∧
      v.getLsbD i = true
    let stays : Prop := 8 ≤ p ∨ meets ∨ reserved ∨ ∃ q ∈ s.dsc.launches, q.2.part = p
    (¬ stays → p < s.dsc.parts.length → Answers (.pcfgWrite p v) s fun t =>
      t = { s with dsc := { s.dsc with parts := t.dsc.parts } } ∧ t.part p = { s.part p with cfg := v } ∧
      ∀ q, q ≠ p → t.part q = s.part q) ∧
    (stays → Answers (.pcfgWrite p v) s fun t => t = s)) ∧
  (∀ n off (data : DWord), n < 80 → off < 2 ^ 22 →
    let word : Prop := off % 8 = 0 ∧ off + 8 ≤ 0x2C0000
    (word → Answers (.managementPoolRead n off) s fun t =>
      t = { s with dsc := { s.dsc with lastMgmtRead := BitVec.ofNat 64 (s.peek (poolAddr n off) 8) }, watch := t.watch } ∧
      OnlyCorrects s t) ∧
    (¬ word → Answers (.managementPoolRead n off) s fun t =>
      t = { s with dsc := { s.dsc with lastMgmtRead := BitVec.ofNat 64 s.draw }, fresh := s.fresh + 1 }) ∧
    ((s.core n).res = [] → word → Answers (.managementPoolWrite n off data) s fun t =>
      OnlyWrites s t ∧ t.peek (poolAddr n off) 8 = data.toNat ∧
      ∀ a, (a < poolAddr n off ∨ poolAddr n off + 8 ≤ a) → t.peek a 1 = s.peek a 1) ∧
    ((s.core n).res = [] → ¬ word → Answers (.managementPoolWrite n off data) s fun t => t = s) ∧
    ((s.core n).res ≠ [] → Answers (.managementPoolWrite n off data) s fun t =>
      OnlyCore n s t ∧ t.core n = { s.core n with mgmtErr := (s.core n).mgmtErr + 1#32 }))

/-- R269, R390-R396, R435, R447: the scheduler's decisions. The first waiting launch takes the least rectangle that fits: it is resident
on every core of it, its caller starts at CENTRY and its gang is created; where it fits nowhere, launches of lower effective priority are
pre-empted, if the save pool holds them all; a saved launch that fits its cores again, or whose spill ring is full, resumes. Each is one
decision of its partition. A PAIR launch is proposed to the twin first (log 24). Of equal choices of victims the model takes the first
(log 25). -/
def Obligations.SchedulerDecisionResults : Prop := ∀ (s : State) (p l : Nat) (x : Launch), s.Sound →
  p < s.dsc.parts.length → s.launch? l = some x →
  let onlyLaunch (t : State) : Prop := (∀ j, j ≠ p → t.part j = s.part j) ∧ (∀ k, k ≠ l → t.launch? k = s.launch? k) ∧
    t.dsc = { s.dsc with launches := t.dsc.launches, parts := t.dsc.parts }
  let decided (t : State) : Prop := t.part p = { s.part p with decisions := (s.part p).decisions + 1 }
  let blocked : Prop := s.deciding p = true ∨ s.fullIn p ≠ none
  let proposes (y : Launch) (a : SchedAct) (t : State) : Prop := t.launch? l = some y ∧ onlyLaunch t ∧ t.part p = s.part p ∧
    t = { s with dsc := t.dsc, station := { s.station with out := s.station.out ++ [.sched a] } }
  let resumes (t : State) : Prop :=
    t.launch? l = some { x with state := .resuming, proposed := false, confirmed := false, twinFull := false } ∧
    decided t ∧ onlyLaunch t ∧ t = { s with dsc := t.dsc }
  let placed (o : Nat × Nat) (t : State) : Prop :=
    t.launch? l = some { x with x0 := o.1, y0 := o.2, state := .placed, proposed := false, confirmed := false, sweep := none } ∧
    decided t ∧ onlyLaunch t ∧ Placed s p l x.record o { t with dsc := s.dsc }
  let isSaved (n k : Nat) : Prop := ∃ q, s.res? n k = some q ∧ q.phase = .saved
  let preempts (vs : List (Nat × Launch)) (t : State) : Prop :=
    let needed := (vs.map fun v => (v.2.cores.filter fun n => !Tbl.has v.2.areas n).length).sum
    let room := ((List.range ((s.part p).field 32 8 / 0x700000)).filter fun i =>
      !(s.areasIn p).contains ((s.part p).field 24 8 + 0x700000 * i)).length
    (room < needed → t = s) ∧
    (needed ≤ room →
      t = { s with dsc := t.dsc, station := t.station } ∧
      t.station = { s.station with out := s.station.out ++ (vs.filter fun v => v.2.isPair).map fun v => .sched (.preempt v.1) } ∧
      t.dsc = { s.dsc with launches := t.dsc.launches, parts := t.dsc.parts } ∧
      t.part p = { s.part p with decisions := (s.part p).decisions + vs.length } ∧ (∀ j, j ≠ p → t.part j = s.part j) ∧
      (∀ v ∈ vs, ∃ z, t.launch? v.1 = some z ∧
        z = { v.2 with state := z.state, since := z.since, sweep := none, twinSweep := none
                       swept := v.2.swept.map fun _ => false, areas := z.areas } ∧
        (∀ n ∈ v.2.cores, Tbl.has z.areas n = true) ∧
        ((∃ n ∈ v.2.cores, ¬ isSaved n v.1) → z.state = .saving ∧ z.since = v.2.since) ∧
        ((∀ n ∈ v.2.cores, isSaved n v.1) → z.state = .saved)) ∧
      ∀ k, (∀ v ∈ vs, v.1 ≠ k) → t.launch? k = s.launch? k)
  (s.firstWaiting p = some (l, x) → x.part = p ∧ (x.state = .waiting ∨ x.state = .saved) ∧
    (∀ y : Launch, s.effective y = min 7 (recNat y.record 6 1 + ((s.part y.part).decisions - y.since) / 65536)) ∧
    ∀ q ∈ s.dsc.launches, q.2.part = p → q.2.state = .waiting ∨ q.2.state = .saved → q.2.isPair = false → q.1 = l ∨
      s.effective q.2 < s.effective x ∨ s.effective q.2 = s.effective x ∧ x.order < q.2.order) ∧
  (∀ may o vs, s.victims l x o may = some vs →
    s.fitsAt l x (vs.map Prod.fst) o = true ∧ (∀ v ∈ vs, v ∈ may) ∧
    (∀ e, (∃ v ∈ vs, e < s.effective v.2) →
      s.fitsAt l x ((may.filter fun q => decide (s.effective q.2 ≤ e)).map Prod.fst) o = false) ∧
    ∀ ws : List (Nat × Launch), ws.Sublist may → (∀ w ∈ ws, ∃ v ∈ vs, s.effective w.2 ≤ s.effective v.2) →
      s.fitsAt l x (ws.map Prod.fst) o = true → vs.length ≤ ws.length) ∧
  (∀ o, s.confirmedIn p = none → s.firstWaiting p = some (l, x) → ¬ blocked → x.state = .waiting → (s.part p).enabled = true →
    (s.candidates x).find? (fun o => s.fitsAt l x [] o) = some o →
    (x.isPair = false → Answers (.dispatchPlacement p) s fun t => placed o t ∧
      ∀ n ∈ rectCores o.1 o.2 x.width x.height, ∀ r, t.res? n l = some r → ∀ q ∈ (s.core n).besides [],
        (∃ w, q.2.wbMap = (List.range q.2.wbMap.length).map fun i => w + i) → ∀ u ∈ r.wbMap, u ∉ q.2.wbMap) ∧
    (∀ i, x.isPair = true → s.freeIndex = some i → Answers (.dispatchPlacement p) s
      (proposes { x with proposed := true, x0 := o.1, y0 := o.2, pairIndex := none }
        (.propose i l o.1 o.2 (s.rootMax x) x.record)))) ∧
  (s.confirmedIn p = none → (blocked ∨ (s.part p).enabled = false ∨ s.firstWaiting p = none ∨
      s.firstWaiting p = some (l, x) ∧ (x.state = .saved ∨ ∀ o ∈ s.candidates x, s.fitsAt l x [] o = false)) →
    Answers (.dispatchPlacement p) s fun t => t = s) ∧
  (s.confirmedIn p = some (l, x) →
    (s.dsc.placingStopped = true → Answers (.dispatchPlacement p) s fun t => t = s) ∧
    (s.dsc.placingStopped = false →
      (x.state = .waiting → Answers (.dispatchPlacement p) s (placed (x.x0, x.y0))) ∧
      (x.state = .saved → Answers (.dispatchPlacement p) s resumes) ∧
      (x.state ≠ .waiting → x.state ≠ .saved → Answers (.dispatchPlacement p) s fun t =>
        t.launch? l = some { x with proposed := false, confirmed := false } ∧ t.part p = s.part p ∧ onlyLaunch t ∧
        t = { s with dsc := t.dsc }))) ∧
  (s.firstWaiting p = some (l, x) → Tbl.sorted s.dsc.launches = true →
    let places := s.candidates x
    let lower (o : Nat × Nat) : List (Nat × Launch) := s.dsc.launches.filter fun q =>
      q.1 != l && q.2.state == .placed && (q.2.cores.any fun n => (rectCores o.1 o.2 x.width x.height).contains n) &&
        decide (s.effective q.2 < s.effective x)
    (blocked ∨ s.savingIn p = true ∨ (∃ o ∈ places, s.fitsAt l x [] o = true) ∨ (∀ o ∈ places, s.victims l x o (lower o) = none) →
      Answers (.preemptionDecision p) s fun t => t = s) ∧
    (¬ blocked → s.savingIn p = false → (∀ o ∈ places, s.fitsAt l x [] o = false) →
      ∀ o vs pre post, places = pre ++ o :: post → s.victims l x o (lower o) = some vs → (∀ v ∈ vs, v.2.part = p) →
        (∀ o' ∈ pre, ∀ ws, s.victims l x o' (lower o') = some ws →
          (∃ w ∈ ws, ∀ v ∈ vs, s.effective v.2 < s.effective w.2) ∨
          (∀ e, (∃ v ∈ vs, e ≤ s.effective v.2) ↔ ∃ w ∈ ws, e ≤ s.effective w.2) ∧ vs.length < ws.length) →
        (∀ o' ∈ post, ∀ ws, s.victims l x o' (lower o') = some ws →
          (∃ w ∈ ws, ∀ v ∈ vs, s.effective v.2 ≤ s.effective w.2) ∧
          ((∃ w ∈ ws, ∀ v ∈ vs, s.effective v.2 < s.effective w.2) ∨ vs.length ≤ ws.length)) →
        Answers (.preemptionDecision p) s (preempts vs))) ∧
  (s.firstWaiting p = some (l, x) → x.state = .saved → ¬ blocked →
    (s.fitsAt l x [] (x.x0, x.y0) = true →
      (x.isPair = false → Answers (.resumeDecision p) s resumes) ∧
      (x.isPair = true → Answers (.resumeDecision p) s (proposes { x with proposed := true } (.resume l)))) ∧
    (s.fitsAt l x [] (x.x0, x.y0) = false → Answers (.resumeDecision p) s fun t => t = s)) ∧
  ((blocked ∨ s.firstWaiting p = none ∨ s.firstWaiting p = some (l, x) ∧ x.state = .waiting) →
    Answers (.resumeDecision p) s fun t => t = s) ∧
  (s.fullIn p = some (l, x) → s.deciding p = false →
    (s.fitsAt l x [] (x.x0, x.y0) = true → x.state = .saved →
      (x.isPair = false → Answers (.forcedResume p) s resumes) ∧
      (x.isPair = true → s.station.card = false →
        Answers (.forcedResume p) s (proposes { x with proposed := true } (.resume l))) ∧
      (x.isPair = true → s.station.card = true → x.twinFull = false →
        Answers (.forcedResume p) s (proposes { x with twinFull := true } (.resume l)))) ∧
    (s.fitsAt l x [] (x.x0, x.y0) = true → x.state = .placed → Answers (.forcedResume p) s fun t => t = s) ∧
    (s.fitsAt l x [] (x.x0, x.y0) = false → s.savingIn p = false → Tbl.sorted s.dsc.launches = true →
      let holders := s.dsc.launches.filter fun q => q.1 != l && q.2.state == .placed && q.2.cores.any fun n => x.cores.contains n
      (s.victims l x (x.x0, x.y0) holders = none → Answers (.forcedResume p) s fun t => t = s) ∧
      ∀ vs, s.victims l x (x.x0, x.y0) holders = some vs → (∀ v ∈ vs, v.2.part = p) →
        Answers (.forcedResume p) s (preempts vs)) ∧
    (s.fitsAt l x [] (x.x0, x.y0) = false → s.savingIn p = true → Answers (.forcedResume p) s fun t => t = s)) ∧
  (s.fullIn p = none ∨ s.deciding p = true → Answers (.forcedResume p) s fun t => t = s)

/-- R281, R386, R388, R397-R403, R443, R447: launches end. A sweep finds a launch idle or not; the first of two successive idle ones with
equal totals is remembered, the second ends the launch. An abort discards what has not been sent and waits for the rest. A launch that
ends is released and reported, or restarted. A watchdog window counts strikes against the queues of launches that retired too few figures,
and aborts the launches of a hung queue. The link messages of a PAIR launch's sweep are the model's (log 24). -/
def Obligations.LaunchEndResults : Prop := ∀ (s : State) (l : Nat) (x : Launch), s.Sound → s.launch? l = some x → s.Tidy x.cores →
  let onlyLaunch (y : Launch) (t : State) : Prop := t.launch? l = some y ∧ (∀ k, k ≠ l → t.launch? k = s.launch? k) ∧
    t = { s with dsc := { s.dsc with launches := t.dsc.launches } }
  let swept (first : List ToTwin) (idle : Bool) (a b : Nat) : Prop :=
    (idle = false ∨ a ≠ b → Answers (.terminationSweep l) s (onlyLaunch { x with sweep := none, twinSweep := none })) ∧
    (idle = true → a = b → x.sweep ≠ some (a, a) →
      Answers (.terminationSweep l) s (onlyLaunch { x with sweep := some (a, a), twinSweep := none })) ∧
    (idle = true → a = b → x.sweep = some (a, a) → Answers (.terminationSweep l) s (Ends s l x 2 0 false first []))
  let open_ : Prop := ∃ p ∈ s.flights, p.2.launch = l ∧ s.sentOpen p.1 p.2 = true
  let own := s.sweepOf l x
  (∀ n, s.idleOn n l = true → ∃ r, s.res? n l = some r ∧ r.caller.ended = true ∧ r.spill = [] ∧
    (∀ slot m, s.microAt n slot = some m → m.owner = some l → m.life = .retired ∨ m.life = .called ∧ m.callq = [] ∧ m.deferred = [] ∧
      ∀ p ∈ (s.core n).groups, slot ∉ p.2.members) ∧
    (∀ p ∈ s.flights, p.2.core = n → p.2.launch ≠ l) ∧ (∀ e ∈ (s.core n).inbox, e.launch ≠ l) ∧
    (∀ p ∈ (s.core n).net, ∀ e ∈ p.2, e.launch ≠ l) ∧ (∀ p ∈ (s.core n).queries, p.2.launch ≠ l) ∧
    (∀ e ∈ (s.core n).mx, e.launch ≠ l) ∧ (∀ e ∈ (s.core n).trp, e.launch ≠ l) ∧ (∀ e ∈ (s.core n).gteq, e.launch ≠ l) ∧
    (∀ q ∈ (s.core n).chans, ∀ e ∈ q, e.launch ≠ l) ∧
    ∀ g, Tbl.get? (s.cluster (clusterOf n)).gte n = some g → g.req.launch ≠ l) ∧
  own = (x.cores.all fun n => s.idleOn n l, ((x.cores.filterMap fun n => s.res? n l).map Res.sent).sum,
    ((x.cores.filterMap fun n => s.res? n l).map Res.received).sum) ∧
  (x.state = .placed → (∀ n ∈ x.cores, ∃ r, s.res? n l = some r ∧ r.phase = .resident) →
    (x.isPair = false → swept [] own.1 own.2.1 own.2.2) ∧
    (x.isPair = true → s.station.card = false →
      (x.twinSweep = none → x.swept = none → Answers (.terminationSweep l) s fun t =>
        t.launch? l = some { x with swept := some true } ∧ (∀ k, k ≠ l → t.launch? k = s.launch? k) ∧
        t = { s with dsc := { s.dsc with launches := t.dsc.launches }
                     station := { s.station with out := s.station.out ++ [.sched (.sweep l false 0 0)] } }) ∧
      (x.twinSweep = none → x.swept ≠ none → Answers (.terminationSweep l) s fun t => t = s) ∧
      ∀ i a b, x.twinSweep = some (i, a, b) →
        swept [.sched (.sweep l true (own.2.1 + a) (own.2.2 + b))] (own.1 && i) (own.2.1 + a) (own.2.2 + b))) ∧
  (x.state ≠ .ending → (x.state ≠ .placed ∨ (x.isPair = true ∧ s.station.card = true) ∨
      ∃ n ∈ x.cores, ∀ r, s.res? n l = some r → r.phase ≠ .resident) → Answers (.terminationSweep l) s fun t => t = s) ∧
  (∀ st reason restart, x.state = .ending → x.fin = some (st, reason, restart) →
    (x.released = false → open_ → Answers (.terminationSweep l) s fun t => t = s) ∧
    (x.released = false → ¬ open_ → Answers (.terminationSweep l) s
      (EndsWith s l x st reason restart (fun n => if n ∈ x.cores then (s.core n).left n l else s.core n) [])) ∧
    (x.released = true → Answers (.terminationSweep l) s (EndsWith s l x st reason restart s.core []))) ∧
  (∀ (v : DWord) r va leaf, v.extractLsb' 36 28 = 1#28 →
    (s.tlu (v.toNat / 2 ^ 32 % 16)).recs.find? (fun r => r.seq == v.toNat % 2 ^ 32) = some r →
    x.state = .ending → x.fin = some (2, 0, false) → x.released = true → x.isPair = false → x.poster = none → x.asid = r.asid →
    x.part < 25 → s.endWord x = .wait va leaf → va / 2 ^ 12 = r.page → (∀ p ∈ s.dsc.launches, p.2.state = .ending → p.1 = l) →
    (∀ h ∈ s.dsc.queues, h.held = false) → Answers (.faultrespWrite v) s fun t =>
      t.launch? l = none ∧ t.dsc.intstat.getLsbD x.part = true ∧ t.mem = s.entryMem s.mem x.entry 2 none) ∧
  (∀ reason restart tell, x.state ≠ .ending →
    let told : List ToTwin := if x.isPair = true ∧ tell = true then [.sched (.abort l reason)] else []
    (x.state ≠ .waiting → Ends s l x 4 reason restart [] told (s.abort l reason restart tell)) ∧
    (x.state = .waiting → EndsWith s l
      { x with state := .ending, fin := some (4, reason, restart), sweep := none, released := true } 4 reason restart s.core []
      (s.abort l reason restart tell))) ∧
  (x.holds = true → (∃ n ∈ x.cores, (s.core n).parked = true) →
    Answers (.managementAbort l) s fun t => t = s.abort l 6 false true) ∧
  (x.holds = false ∨ (∀ n ∈ x.cores, (s.core n).parked = false) → Answers (.managementAbort l) s fun t => t = s) ∧
  (∀ p, (s.part p).enabled = false → Answers (.watchdogWindow p) s fun t => t = s) ∧
  (∀ p, p < 8 → p < s.dsc.parts.length → (s.part p).enabled = true →
    (∀ q ∈ s.dsc.launches, q.1 % 2 ^ 31 ≤ s.dsc.idents) → s.dsc.idents + s.dsc.launches.length + 1 < 2 ^ 31 →
    let limit := (s.part p).field 3 1
    let least := (s.part p).field 16 4
    let retry := (s.part p).field 20 1
    let judged (q : Nat) : List Nat := (((s.dsc.launches.filter fun y => y.2.rootq == q && y.2.holds && y.2.part == p).map
      fun y => s.figuresOf y.1 y.2).filter fun f => f.2).map Prod.fst
    let hung (q : Nat) (h : HostQ) : Prop := judged q ≠ [] ∧ (judged q).sum < least ∧ limit ≤ h.strikes + 1
    Answers (.watchdogWindow p) s fun t =>
      t.part p = { s.part p with window := (s.part p).window + 1 } ∧ (∀ j, j ≠ p → t.part j = s.part j) ∧
      (∀ k y n r, t.launch? k = some y → y.part = p → t.res? n k = some r → r.figures = 0) ∧
      (∀ q h, q < 64 → s.dsc.queues[q]? = some h →
        (judged q = [] → t.dsc.queues[q]? = some h) ∧
        (judged q ≠ [] → least ≤ (judged q).sum → t.dsc.queues[q]? = some { h with strikes := 0 }) ∧
        (judged q ≠ [] → (judged q).sum < least → h.strikes + 1 < limit →
          t.dsc.queues[q]? = some { h with strikes := h.strikes + 1 }) ∧
        (hung q h → t.dsc.queues[q]? = some { h with strikes := 0 } ∧ t.dsc.intstat.getLsbD (16 + p) = true ∧
          (s.watch.arm.getLsbD 1 = true → t.watch.held = true) ∧
          (∀ k y z, s.launch? k = some y → y.rootq = q → y.holds = true → t.launch? k = some z → z.state = .ending ∧
            z.fin = some (4, if y.entry = none then 5 else 1, decide (y.entry ≠ none ∧ y.restarts < retry))) ∧
          ∀ k y, s.launch? k = some y → y.rootq = q → y.holds = true → y.entry ≠ none → y.restarts < retry → y.isPair = false →
            (∀ f ∈ s.flights, f.2.launch ≠ k) → t.launch? k = none ∧ ∃ j z, s.launch? j = none ∧ t.launch? j = some z ∧
              z.record = y.record ∧ z.state = .waiting ∧ z.order = y.order ∧ z.restarts = y.restarts + 1 ∧ z.entry = y.entry)) ∧
      (∀ k y, s.launch? k = some y → (∀ q h, q < 64 → s.dsc.queues[q]? = some h → hung q h → y.rootq ≠ q ∨ y.holds = false) →
        t.launch? k = some y) ∧
      ((∀ q h, q < 64 → s.dsc.queues[q]? = some h → ¬ hung q h) →
        t = { s with cores := t.cores, dsc := { s.dsc with queues := t.dsc.queues, parts := t.dsc.parts } } ∧
        ∀ n, t.core n = { s.core n with res := (t.core n).res } ∧ ∀ k, t.res? n k = (s.res? n k).map fun r =>
          if (∃ y, s.launch? k = some y ∧ y.part = p) then { r with figures := 0 } else r))

/-- R283, R293, R360, R370, R371, R445-R452, R459, R460: the link. The training at boot finds the twin and numbers the cards; later ones
follow RETRAIN (log 82). A loss, or a response that does not come, counts, frees the pair table, ends what waited for the twin and ends the
PAIR launches. A request of the twin is performed at its owning port and answered, one of 16 bytes by halves; one for a halted launch is
caught, and one that names no launch of the pair table is dropped and counted. The twin's LR and SC follow log 19. -/
def Obligations.LinkResults : Prop := ∀ (s : State), s.Sound →
  let sends (m : ToTwin) (t : State) : Prop := t = { s with station := { s.station with out := s.station.out ++ [m] } }
  let dropped (t : State) : Prop := t = { s with station := { s.station with late := s.station.late + 1#32 } }
  let same (t : State) : Prop := t = s
  (∀ own twin : DWord,
    let t := s.station
    (t.up = true ∨ own ≠ Config.serialNumber ∨ (t.present = false ∧ s.rtc.ready = true) ∨ (t.present = true ∧ t.retraining = false) →
      Answers (.linkTraining own twin) s same) ∧
    (t.up = false → own = Config.serialNumber → t.present = false → s.rtc.ready = false → Answers (.linkTraining own twin) s fun u =>
      u = { s with station := { t with up := true, present := true, card := decide (twin.toNat < own.toNat) } }) ∧
    (t.up = false → own = Config.serialNumber → t.present = true → t.retraining = true → Answers (.linkTraining own twin) s fun u =>
      u = { s with station := { t with up := true, retraining := false } })) ∧
  (∀ v : DWord, Answers (.pairctlRetrain v) s fun t =>
    t = { s with station := { s.station with retraining := decide (v = 1#64) || s.station.retraining } }) ∧
  (s.station.up = true → Answers .twinUnsupportedRequest s dropped) ∧
  (s.station.up = false → Answers .twinUnsupportedRequest s same ∧ Answers .linkDown s same ∧ Answers .linkResponseTimeout s same ∧
    ∀ req, Answers (.twinRequestArrival req) s same) ∧
  (s.station.unhacked = [] → (∀ p ∈ s.flights, p.2.stage ≠ .twin ∧ p.2.stage ≠ .asked) → Answers .linkResponseTimeout s same) ∧
  (∀ i, (i = .linkDown ∨ (i = .linkResponseTimeout ∧
      (s.station.unhacked ≠ [] ∨ ∃ p ∈ s.flights, p.2.stage = .twin ∨ p.2.stage = .asked))) →
    s.station.up = true → Answers i s fun t =>
      t.station = { s.station with
        up := false, retraining := false, table := List.replicate 16 none, hqs := [], hits := [], unhacked := [], out := []
        halves := []
        losses := if s.station.losses = 0xFFFF#16 then 0xFFFF#16 else s.station.losses + 1#16 } ∧
      (∀ id f, Tbl.get? t.flights id = some f → f.stage ≠ .twin ∧ f.stage ≠ .asked) ∧
      (∀ n e q, Tbl.sorted (s.core n).queries = true → t.query? n e = some q → q.out = [] ∧ q.origin = none) ∧
      (∀ l x z, Tbl.sorted s.dsc.launches = true → s.launch? l = some x → x.isPair = true → t.launch? l = some z →
        z.state = .ending ∧ (x.state ≠ .ending ∨ (∃ a b, x.fin = some (a, b, true)) → z.fin = some (4, 7, false))) ∧
      ∃ u : State,
        t = (let v := ((u.dsc.launches.filter fun p => p.2.isPair).foldl (fun v p => v.abort p.1 7 false false) u)
             { v with station := { v.station with table := List.replicate 16 none } }) ∧
        u.mem = s.mem ∧ (∀ r, r ∈ u.resvs ↔ r ∈ s.resvs ∧ r.1 < 80) ∧ u.tlus = s.tlus ∧ OnlyDrops s u ∧
        u.dsc = { s.dsc with launches := u.dsc.launches } ∧
        (∀ l, u.launch? l = (s.launch? l).map fun x =>
          if x.isPair = true ∧ (x.fin.any fun f => f.2.2) = true then { x with fin := some (4, 7, false) } else x) ∧
        (∀ n e, Tbl.sorted (s.core n).queries = true → u.query? n e = (s.query? n e).bind fun q =>
          if q.origin.isSome then none else if q.out = [] then some q else some { q with lost := true, out := [] }) ∧
        (∀ id f, f.agent = .micro → f.isFence = false → s.flies id f .twin → u.flies id f .faulted ∧
          ∀ w m, f.who = [w] → f.core < 80 → s.microAt f.core w.slot = some m → m.gen = w.gen → ∃ m' i,
            u.microAt f.core w.slot = some m' ∧ m'.regs = m.regs ∧ m'.pc = m.pc ∧ i ∈ m'.deferred ∧ i.code = 0x0D#8 ∧
            i.detail = BitVec.ofNat 32 (2 ^ 31 + 5 * 2 ^ 22 + f.ea.toNat % 2 ^ 22) ∧ i.redo = .access id ∧ i.fig = f.fig ∧
            i.off = f.off) ∧
        ∀ id f st, f.isFence = false → s.flies id f st → st ≠ .twin → st ≠ .asked → (∀ line a, st ≠ .fill line a) →
          (∀ pa c, st ≠ .home pa c) → u.flies id f st) ∧
  (∀ (req : TwinRequest) l r, s.station.up = true → s.pairLaunch req.index = some l → s.res? req.core l = some r →
    req.core < 80 → (s.station.halves.find? fun h => h.1 == req) = none →
    let place := poolAddr req.core req.off
    let k := twinSize req.op
    let busy : Prop := ∃ h ∈ s.station.halves, h.1.src = req.src ∧ h.1.core = req.core ∧ h.1.off / 64 = req.off / 64
    let ok := s.portOk req.core l req.off k
    let merges : Prop := ∀ n data kind, req.op = .write n data kind → n < 4
    let answer (data : QWord) (fl : FFlags) (t : State) : Prop :=
      t.station = { s.station with out := s.station.out ++ [.response req.tag (.ok data fl)] } ∧ t.flights = s.flights ∧
      OnlyWrites s { t with station := s.station, cores := s.cores } ∧
      (∀ n, t.core n = { s.core n with traceSeq := (t.core n).traceSeq }) ∧ ∀ n, n ≠ req.core → t.core n = s.core n
    let wrote (k v kind : Nat) (t : State) : Prop :=
      ((s.core req.core).traceEn = false → t.cores = s.cores ∧ t.mem = Memory.writeN s.mem place (bytesOfNat k v)) ∧
      ((s.core req.core).traceEn = true → ∃ u : State, u.mem = Memory.writeN s.mem place (bytesOfNat k v) ∧ u.cores = s.cores ∧
        t.mem = (u.trace req.core ⟨coreCode req.src + 512, kind⟩ req.off k v).mem ∧
        t.cores = (u.trace req.core ⟨coreCode req.src + 512, kind⟩ req.off k v).cores)
    (busy → Answers (.twinRequestArrival req) s same) ∧
    (¬ busy → ok = false → Answers (.twinRequestArrival req) s (sends (.response req.tag (.fault 0x04#8 4 req.off)))) ∧
    (¬ busy → ok = true → r.phase ≠ .resident →
      (4096 ≤ r.ringNext → Answers (.twinRequestArrival req) s same) ∧
      (r.ringNext < 4096 → Answers (.twinRequestArrival req) s fun t =>
        t.station = { s.station with out := s.station.out ++
          (match req.op with
           | .write _ _ _ => [.response req.tag (.ok 0#128 0#5)]
           | _ => []) } ∧ t.flights = s.flights ∧
        (∃ j, t.res? req.core l = some { r with spill := r.spill ++ [.twinReq req], ringNext := j } ∧ r.ringNext < j) ∧
        (∀ n, n ≠ req.core → t.core n = s.core n) ∧ (∀ x, x ≠ l → t.res? req.core x = s.res? req.core x) ∧
        t.core req.core = { s.core req.core with res := (t.core req.core).res })) ∧
    (¬ busy → ok = true → r.phase = .resident →
      (merges → s.isBad place k = true → Answers (.twinRequestArrival req) s fun t =>
        t = { s with station := { s.station with out := s.station.out ++ [.response req.tag (.fault 0x0D#8 1 req.off)] }
                     watch := t.watch, fresh := t.fresh }) ∧
      (s.isBad place k = false ∨ ¬ merges →
        (∀ n, req.op = .read n → n ≠ 16 → Answers (.twinRequestArrival req) s fun t =>
          answer (BitVec.ofNat 128 (s.peek place n)) 0#5 t ∧ t.mem = s.mem ∧ t.cores = s.cores) ∧
        (∀ n data kind, req.op = .write n data kind → n ≠ 16 → Answers (.twinRequestArrival req) s fun t =>
          answer 0#128 0#5 t ∧ wrote n data.toNat kind t) ∧
        (∀ f7 b kind, req.op = .atomic f7 b kind → Answers (.twinRequestArrival req) s fun t =>
          let old := s.peek place k
          answer (BitVec.ofNat 128 old) (twinAtomic f7 old b).2 t ∧ wrote k (twinAtomic f7 old b).1 kind t) ∧
        (∀ n, req.op = .reserve n → n ≠ 16 → Answers (.twinRequestArrival req) s fun t =>
          t.station = { s.station with out := s.station.out ++ [.response req.tag (.ok (BitVec.ofNat 128 (s.peek place n)) 0#5)] } ∧
          t = { s with station := t.station, resvs := t.resvs, watch := t.watch } ∧ OnlyCorrects s t ∧
          (80 + req.src, l, place / 64) ∈ t.resvs ∧ ∀ x ∈ s.resvs, ¬ (x.1 = 80 + req.src ∧ x.2.1 = l) → x ∈ t.resvs) ∧
        (∀ n data, req.op = .conditional n data → n ≠ 16 →
          ((80 + req.src, l, place / 64) ∈ s.resvs → Answers (.twinRequestArrival req) s fun t =>
            answer 0#128 0#5 t ∧ wrote n (data.toNat % 2 ^ (8 * n)) 6 t) ∧
          ((80 + req.src, l, place / 64) ∉ s.resvs → Answers (.twinRequestArrival req) s fun t =>
            answer 1#128 0#5 t ∧ t.mem = s.mem ∧ t.cores = s.cores) ∧
          Answers (.twinRequestArrival req) s fun t => ∀ x ∈ t.resvs, ¬ (x.1 = 80 + req.src ∧ x.2.1 = l)) ∧
        (∀ low : DWord, low = BitVec.ofNat 64 (s.peek place 8) →
          (req.op = .read 16 → Answers (.twinRequestArrival req) s fun t =>
            t = { s with station := { s.station with halves := s.station.halves ++ [(req, low)] }, watch := t.watch } ∧
            OnlyCorrects s t) ∧
          ∀ data kind, req.op = .write 16 data kind → (s.core req.core).traceEn = false →
            Answers (.twinRequestArrival req) s fun t =>
              t.station = { s.station with halves := s.station.halves ++ [(req, low)] } ∧
              OnlyWrites s { t with station := s.station } ∧
              t.mem = Memory.writeN s.mem place (bytesOfNat 8 data.toNat))))) ∧
  (∀ (req : TwinRequest) l low, s.station.up = true → s.pairLaunch req.index = some l →
    (s.station.halves.find? fun h => h.1 == req) = some (req, low) →
    let place := poolAddr req.core (req.off + 8)
    let answered (data : QWord) (t : State) : Prop := t.station = { s.station with
      halves := s.station.halves.filter fun h => h.1 != req, out := s.station.out ++ [.response req.tag (.ok data 0#5)] }
    (req.op = .read 16 → Answers (.twinRequestArrival req) s fun t =>
      answered (BitVec.ofNat 128 (low.toNat + 2 ^ 64 * s.peek place 8)) t ∧ t = { s with station := t.station }) ∧
    ∀ data kind, req.op = .write 16 data kind → Answers (.twinRequestArrival req) s fun t =>
      answered 0#128 t ∧ OnlyWrites s { t with station := s.station } ∧
      t.mem = Memory.writeN s.mem place (bytesOfNat 8 (data.toNat / 2 ^ 64))) ∧
  (∀ req : TwinRequest, s.station.up = true → s.pairLaunch req.index = none →
    Answers (.twinRequestArrival req) s fun t => t = { s with
      station := { s.station with late := s.station.late + 1#32, halves := s.station.halves.filter fun h => h.1 != req } })

/-- R293, R320, R323, R453-R457, R459: hand-offs of queries between the twins. A sub-query is taken and acknowledged, admitted to a free entry
with its share of the spill area, or refused with error 10; a returned record is appended to its query's hit queue or waits for room; the
end of a hand-off closes it and brings its candidates; a cancel ends the sub-query. A message for a halted launch is caught. A return names
no core: of several queries with its tag and number a free number picks one (log 9). -/
def Obligations.HandoffArrivalResults : Prop := ∀ (s : State), s.Sound → s.station.up = true →
  let same (t : State) : Prop := t = s
  let dropped (t : State) : Prop := t = { s with station := { s.station with late := s.station.late + 1#32 } }
  let catches (i : Instr) (n l : Nat) (r : Res) (e : Spill) (out : List ToTwin) (fresh : Nat) : Prop :=
    (4096 ≤ r.ringNext → Answers i s same) ∧
    (r.ringNext < 4096 → Answers i s fun t =>
      (∃ k, t.res? n l = some { r with spill := r.spill ++ [e], ringNext := k } ∧ r.ringNext < k) ∧
      (∀ x, x ≠ l → t.res? n x = s.res? n x) ∧ (∀ x, x ≠ n → t.core x = s.core x) ∧
      t.core n = { s.core n with res := (t.core n).res } ∧
      t.station = { s.station with out := s.station.out ++ out } ∧ t.fresh = s.fresh + fresh ∧
      OnlyWrites s { t with cores := s.cores, station := s.station, fresh := s.fresh })
  (∀ (msg : HqMsg),
    (∀ l n r, s.pairLaunch msg.index = some l → coreOfCode (msg.origin % 512) = some n → s.res? n l = some r →
      r.phase ≠ .resident → catches (.hqArrival msg) n l r (.hq msg) [.hack msg.tag msg.h] 0) ∧
    ((∀ l n r, s.pairLaunch msg.index = some l → coreOfCode (msg.origin % 512) = some n → s.res? n l = some r →
      r.phase = .resident) → Answers (.hqArrival msg) s fun t =>
      t = { s with station := { s.station with out := s.station.out ++ [.hack msg.tag msg.h], hqs := s.station.hqs ++ [msg] } })) ∧
  (let waits (m : HqMsg) : Prop := ∃ l n r, s.subPlace m = some (l, n, r) ∧ (r.phase ≠ .resident ∨ (s.core n).freeEntries = [])
   ((∀ m ∈ s.station.hqs, waits m) → Answers .subqueryAdmission s same) ∧
   ∀ pre (msg : HqMsg) post, s.station.hqs = pre ++ msg :: post → (∀ m ∈ pre, waits m) → ¬ waits msg →
    (∀ l n r, s.subPlace msg = some (l, n, r) → msg.record.length = 128 → Answers .subqueryAdmission s fun t =>
      (∃ e u, e < 512 ∧ s.query? n e = none ∧ t.query? n e = some u ∧
        u = { launch := l, record := u.record, tag := msg.tag, pc := recNat msg.record 0 2 % 1024, state := .running, q := u.q
              n := Vector.replicate 8 0#32, h := Vector.replicate 4 0#32, node := BitVec.ofNat 32 (recNat msg.record 16 4)
              stack := [], spilled := 0, spills := 0, buf := [], kind := none, dec := none, best := msg.best
              own := msg.best.map fun _ => false, out := [], lost := false, hits := 0, steps := 0, handoffs := 0, err := none
              cancel := false, pageHeld := none, origin := some ⟨msg.origin, msg.tag, msg.h⟩, sent := 0, survivors := none
              nSurv := 0 } ∧
        (∀ i : Fin 16, u.q[i] = msg.q.getD i 0#32) ∧ u.mode 1 = false ∧ u.mode 0 = (recNat msg.record 3 1).testBit 0 ∧
        recNat u.record 24 2 = recNat msg.record 24 2 / 8 ∧
        recNat u.record 20 4 = (recNat msg.record 20 4 + 8 * msg.h * (recNat msg.record 24 2 / 8)) % 2 ^ 32 ∧
        recNat u.record 40 2 = msg.origin % 2 ^ 16 ∧ recNat u.record 42 1 = (128 + msg.h) % 2 ^ 8 ∧
        (∀ i, i ≠ 3 → (i < 20 ∨ 26 ≤ i) → (i < 40 ∨ 43 ≤ i) → u.record[i]? = msg.record[i]?) ∧
        ∀ x, x ≠ e → t.query? n x = s.query? n x) ∧
      t = { s with cores := t.cores, fresh := s.fresh + 1, station := { s.station with hqs := pre ++ post } } ∧
      (∀ x, x ≠ n → t.core x = s.core x) ∧ t.core n = { s.core n with queries := (t.core n).queries }) ∧
    (s.subPlace msg = none → Answers .subqueryAdmission s fun t =>
      t = { s with station := { s.station with
              hqs := pre ++ post
              out := s.station.out ++ [.hend { tag := msg.tag, h := msg.h, sent := 0, err := 10, code := 0, best := [] }] } })) ∧
  (∀ tag h,
    ((tag, h) ∈ s.station.unhacked → Answers (.hackArrival tag h) s fun t =>
      t = { s with station := { s.station with unhacked := s.station.unhacked.erase (tag, h) } }) ∧
    ((tag, h) ∉ s.station.unhacked → Answers (.hackArrival tag h) s dropped)) ∧
  (∀ tag h seq rec_, 256 ≤ s.station.hits.length → Answers (.hitArrival tag h seq rec_) s same) ∧
  (∀ tag h, s.awaiting tag h = [] →
    (∀ seq rec_, s.station.hits.length < 256 → Answers (.hitArrival tag h seq rec_) s dropped) ∧
    ∀ msg : HendMsg, msg.tag = tag → msg.h = h → Answers (.hendArrival msg) s dropped) ∧
  (∀ tag h n e q r, s.awaiter tag h = some (n, e) → s.query? n e = some q → s.res? n q.launch = some r → n < 80 →
    (∀ seq rec_, s.station.hits.length < 256 →
      (r.phase ≠ .resident → catches (.hitArrival tag h seq rec_) n q.launch r (.hit tag h seq rec_) [] 1) ∧
      ∀ v, r.phase = .resident → r.hitq q.hq = some v →
        (v.tail - v.head < v.cap → (∀ x ∈ s.station.hits, x.1 ≠ tag) →
          Answers (.hitArrival tag h seq rec_) s fun t =>
            t.query? n e = some { q with hits := q.hits + 1 } ∧ (∀ x, x ≠ e → t.query? n x = s.query? n x) ∧
            t.mem = Memory.writeN s.mem (poolAddr n (v.ring + 32 * (v.tail % v.cap))) rec_ ∧
            (∃ w, t.res? n q.launch = some { r with hitqs := w } ∧ w[q.hq]? =
              some (some { v with tail := v.tail + 1, index := v.index ++ [(recNat rec_ 4 2, e, false)] }) ∧
              ∀ i, i ≠ q.hq → w[i]? = r.hitqs[i]?) ∧ (∀ x, x ≠ q.launch → t.res? n x = s.res? n x) ∧
            t.core n = { s.core n with
              queries := (t.core n).queries, res := (t.core n).res
              signals := (s.core n).signals ++ (if v.evEn then [(q.launch, v.ev)] else []) } ∧
            (∀ x, x ≠ n → t.core x = s.core x) ∧ OnlyWrites s { t with cores := s.cores, fresh := s.fresh }) ∧
        (v.cap ≤ v.tail - v.head ∨ (∃ x ∈ s.station.hits, x.1 = tag) → Answers (.hitArrival tag h seq rec_) s fun t =>
          t = { s with station := { s.station with hits := s.station.hits ++ [(tag, h, rec_)] }, fresh := s.fresh + 1 })) ∧
    (∀ msg : HendMsg, msg.tag = tag → msg.h = h →
      (r.phase ≠ .resident → catches (.hendArrival msg) n q.launch r (.hend msg) [] 1) ∧
      (r.phase = .resident → Answers (.hendArrival msg) s fun t =>
        let got := if q.mode 0 then msg.best.foldl (fun q p => q.insert p.1 p.2 false) q else q
        t.query? n e = some { got with
          out := q.out.filter (fun x => x != h)
          err := if msg.err ≠ 0 ∧ q.err = none then some (msg.err, msg.code) else q.err } ∧
        t.fresh = s.fresh + 1 ∧ OnlyQuery n e { s with fresh := t.fresh } t))) ∧
  (∀ origin tag h, coreOfCode (origin % 512) = none → Answers (.hcanArrival origin tag h) s same) ∧
  (∀ origin tag h n, coreOfCode (origin % 512) = some n →
    let mine := (s.core n).queries.find? fun p => p.2.origin == some ⟨origin, tag, h⟩
    (∀ e q r, mine = some (e, q) → s.res? n q.launch = some r → r.phase ≠ .resident →
      catches (.hcanArrival origin tag h) n q.launch r (.hcan origin tag h) [] 0) ∧
    ((∀ e q r, mine = some (e, q) → s.res? n q.launch = some r → r.phase = .resident) →
      Answers (.hcanArrival origin tag h) s fun t =>
        t = { s with cores := t.cores
                     station := { s.station with
                       hqs := s.station.hqs.filter fun m => !(m.origin == origin && m.tag == tag && m.h == h) } } ∧
        (∀ x, x ≠ n → t.core x = s.core x) ∧
        t.core n = { s.core n with
          queries := (s.core n).queries.filter fun p => p.2.origin != some ⟨origin, tag, h⟩ }))

/-- R268, R391, R393, R395-R399, R403, R435, R447, R453: the scheduling acts of the twin. Card 1 judges a proposal and confirms or refuses
it; card 0 places its half on confirmation, or keeps it while placing is stopped; pre-emption, resume, abort, sweeps, the end of a half and
barrier messages reach this card's half. What they say beyond R447's words is the model's choice (log 24). -/
def Obligations.SchedulingActResults : Prop := ∀ (s : State), s.Sound → s.station.up = true →
  let same (t : State) : Prop := t = s
  let tells (out : List SchedAct) (t : State) : Prop := t.station = { s.station with out := s.station.out ++ out.map fun m => .sched m }
  let dropped (t : State) : Prop := t = { s with station := { s.station with late := s.station.late + 1#32 } }
  let becomes (l : Nat) (y : Launch) (out : List SchedAct) (t : State) : Prop :=
    t.launch? l = some y ∧ (∀ k, k ≠ l → t.launch? k = s.launch? k) ∧ tells out t ∧
    t = { s with station := t.station, dsc := { s.dsc with launches := t.dsc.launches } }
  let resumes (l : Nat) (x : Launch) (out : List SchedAct) (t : State) : Prop :=
    t.launch? l = some { x with state := .resuming, proposed := false, confirmed := false, twinFull := false } ∧
    (∀ k, k ≠ l → t.launch? k = s.launch? k) ∧ tells out t ∧
    (x.part < s.dsc.parts.length → t.part x.part = { s.part x.part with decisions := (s.part x.part).decisions + 1 }) ∧
    (∀ j, j ≠ x.part → t.part j = s.part j) ∧
    t = { s with station := t.station, dsc := { s.dsc with launches := t.dsc.launches, parts := t.dsc.parts } }
  let placed (l : Nat) (y : Launch) (i : Nat) (out : List SchedAct) (orders : Nat) (t : State) : Prop :=
    t.launch? l = some y ∧ (∀ k, k ≠ l → t.launch? k = s.launch? k) ∧
    t.station = { s.station with table := t.station.table, out := s.station.out ++ out.map fun m => .sched m } ∧
    t.pairLaunch i = some l ∧ (∀ j, j ≠ i → t.pairLaunch j = s.pairLaunch j) ∧
    (y.part < s.dsc.parts.length → t.part y.part = { s.part y.part with decisions := (s.part y.part).decisions + 1 }) ∧
    (∀ j, j ≠ y.part → t.part j = s.part j) ∧
    t.dsc = { s.dsc with launches := t.dsc.launches, parts := t.dsc.parts, orders := s.dsc.orders + orders } ∧
    Placed s y.part l y.record (y.x0, y.y0) { t with dsc := s.dsc, station := s.station }
  (∀ index l x0 y0 maxPrio rec_,
    let part := recNat rec_ 10 1
    let cores := rectCores x0 y0 (recNat rec_ 14 1) (recNat rec_ 15 1)
    let refuses : Prop := s.station.card = false ∨ s.dsc.placingStopped = true ∨ (s.rectangles rec_ part).contains (x0, y0) = false ∨
      (∃ n ∈ cores, (s.core n).fits rec_ [] = false) ∨ s.station.table.getD index (some 0) ≠ none ∨ s.launch? l ≠ none
    (refuses → Answers (.schedArrival (.propose index l x0 y0 maxPrio rec_)) s fun t => tells [.refuse index l] t ∧
      t = { s with station := t.station }) ∧
    (¬ refuses → Answers (.schedArrival (.propose index l x0 y0 maxPrio rec_)) s (placed l
      { record := rec_, state := .placed, rootq := 64, rootPrio := maxPrio, entry := none, poster := none, restarts := 0
        order := s.dsc.orders, since := (s.part part).decisions, x0 := x0, y0 := y0, areas := [], sweep := none
        twinSweep := none, pairIndex := some index, proposed := false, fin := none, released := false, endRefused := false }
      index [.confirm index l] 1))) ∧
  (∀ l, s.launch? l = none →
    (∀ index, Answers (.schedArrival (.confirm index l)) s dropped) ∧ Answers (.schedArrival (.preempt l)) s dropped ∧
    Answers (.schedArrival (.resume l)) s dropped ∧ (∀ i a b, Answers (.schedArrival (.sweep l i a b)) s dropped) ∧
    (∀ reason, Answers (.schedArrival (.abort l reason)) s dropped) ∧
    ∀ index, Answers (.schedArrival (.refuse index l)) s fun t =>
      t = { s with station := { s.station with table := t.station.table } } ∧
      ∀ j, t.pairLaunch j = if j = index ∧ s.pairLaunch j = some l then none else s.pairLaunch j) ∧
  (∀ index l x, s.launch? l = some x →
    (x.proposed = false → Answers (.schedArrival (.confirm index l)) s same) ∧
    (x.proposed = true → x.state = .waiting → index < s.station.table.length →
      (s.dsc.placingStopped = false → Answers (.schedArrival (.confirm index l)) s (placed l
        { x with state := .placed, proposed := false, confirmed := false, sweep := none, pairIndex := some index } index [] 0)) ∧
      (s.dsc.placingStopped = true → Answers (.schedArrival (.confirm index l)) s fun t =>
        t.launch? l = some { x with confirmed := true, pairIndex := some index } ∧ t.pairLaunch index = some l ∧
        (∀ j, j ≠ index → t.pairLaunch j = s.pairLaunch j) ∧ (∀ k, k ≠ l → t.launch? k = s.launch? k) ∧
        t = { s with station := { s.station with table := t.station.table }
                     dsc := { s.dsc with launches := t.dsc.launches } })) ∧
    (x.proposed = true → x.state = .saved →
      (s.dsc.placingStopped = false → Answers (.schedArrival (.confirm index l)) s (resumes l x [])) ∧
      (s.dsc.placingStopped = true → Answers (.schedArrival (.confirm index l)) s (becomes l { x with confirmed := true } []))) ∧
    (x.proposed = true → x.state ≠ .waiting → x.state ≠ .saved → s.dsc.placingStopped = false →
      Answers (.schedArrival (.confirm index l)) s (becomes l { x with proposed := false, confirmed := false } [])) ∧
    (x.proposed = true → x.state ≠ .ending → Answers (.schedArrival (.refuse index l)) s (becomes l { x with proposed := false } [])) ∧
    (x.proposed = false ∨ x.state = .ending → Answers (.schedArrival (.refuse index l)) s (becomes l { x with twinGone := true } []))) ∧
  (∀ l x, s.launch? l = some x →
    (x.state = .saved → x.proposed = true → Answers (.schedArrival (.preempt l)) s (becomes l { x with proposed := false } [])) ∧
    (x.state ≠ .placed → (x.state ≠ .saved ∨ x.proposed = false) → Answers (.schedArrival (.preempt l)) s same) ∧
    (x.state = .placed → s.allocAreas x.part (x.cores.filter fun n => !Tbl.has x.areas n) = none →
      Answers (.schedArrival (.preempt l)) s same) ∧
    (∀ a, x.state = .placed → s.allocAreas x.part (x.cores.filter fun n => !Tbl.has x.areas n) = some a →
      Answers (.schedArrival (.preempt l)) s fun t =>
        (∃ z, t.launch? l = some z ∧
          z = { x with state := z.state, since := z.since, sweep := none, twinSweep := none, swept := x.swept.map fun _ => false
                       areas := z.areas } ∧
          (∀ n ∈ x.cores, Tbl.has z.areas n = true) ∧
          ((∃ n ∈ x.cores, ∀ q, s.res? n l = some q → q.phase ≠ .saved) → z.state = .saving ∧ z.since = x.since) ∧
          ((∀ n ∈ x.cores, ∃ q, s.res? n l = some q ∧ q.phase = .saved) → z.state = .saved)) ∧
        (∀ k, k ≠ l → t.launch? k = s.launch? k) ∧ (∀ j, j ≠ x.part → t.part j = s.part j) ∧
        (x.part < s.dsc.parts.length → t.part x.part = { s.part x.part with decisions := (s.part x.part).decisions + 1 }) ∧
        t = { s with dsc := { s.dsc with launches := t.dsc.launches, parts := t.dsc.parts } }) ∧
    (s.station.card = false → Answers (.schedArrival (.resume l)) s (becomes l { x with twinFull := true } [])) ∧
    (s.station.card = true →
      let yes : SchedAct := .confirm (x.pairIndex.getD 0) l
      let fits : Prop := s.dsc.placingStopped = false ∧ s.fitsAt l x [] (x.x0, x.y0) = true
      (x.state = .saved → fits → Answers (.schedArrival (.resume l)) s (resumes l x [yes])) ∧
      (x.state = .saved → ¬ fits → Answers (.schedArrival (.resume l)) s (becomes l x [.preempt l])) ∧
      (x.state = .resuming ∨ x.state = .placed → Answers (.schedArrival (.resume l)) s (becomes l x [yes])) ∧
      (x.state = .waiting ∨ x.state = .saving ∨ x.state = .ending →
        Answers (.schedArrival (.resume l)) s (becomes l x [.preempt l])))) ∧
  (∀ l x reason, s.launch? l = some x → Answers (.schedArrival (.abort l reason)) s fun t => t = s.abort l reason false false) ∧
  (∀ l x idle a b, s.launch? l = some x →
    (s.station.card = false →
      (x.swept = some true → Answers (.schedArrival (.sweep l idle a b)) s
        (becomes l { x with twinSweep := some (idle, a, b), swept := none } [])) ∧
      (x.swept ≠ some true → Answers (.schedArrival (.sweep l idle a b)) s (becomes l { x with swept := none } []))) ∧
    (s.station.card = true → idle = false →
      let asked : Prop := x.state = .placed ∧ ∀ n ∈ x.cores, ∃ r, s.res? n l = some r ∧ r.phase = .resident
      (asked → Answers (.schedArrival (.sweep l idle a b)) s
        (becomes l x [.sweep l (s.sweepOf l x).1 (s.sweepOf l x).2.1 (s.sweepOf l x).2.2])) ∧
      (¬ asked → Answers (.schedArrival (.sweep l idle a b)) s (becomes l x [.sweep l false 0 0]))) ∧
    (s.station.card = true → idle = true → s.Tidy x.cores → x.state ≠ .ending → x.state ≠ .waiting →
      Answers (.schedArrival (.sweep l idle a b)) s (Ends s l x 2 0 false [] []))) ∧
  (∀ index lvl episode kind,
    (s.pairLaunch index = none → Answers (.schedArrival (.level index lvl episode kind)) s dropped) ∧
    ∀ l, s.pairLaunch index = some l →
      (s.launch? l = none → Answers (.schedArrival (.level index lvl episode kind)) s dropped) ∧
      ∀ x, s.launch? l = some x →
        (x.cores.filter (fun n => (s.res? n l).isSome) = [] → Answers (.schedArrival (.level index lvl episode kind)) s same) ∧
        ∀ home others, x.cores.filter (fun n => (s.res? n l).isSome) = home :: others →
          let m : LvMsg := ⟨l, lvl, episode, home, true⟩
          Answers (.schedArrival (.level index lvl episode kind)) s fun t => t = { s with cores := t.cores } ∧
            (kind = 0 → OnlyCore home s t ∧ t.core home = { s.core home with lvArr := (s.core home).lvArr ++ [m] }) ∧
            (kind = 1 → ∀ n, t.core n =
              if n ∈ home :: others then { s.core n with lvDone := (s.core n).lvDone ++ [m] } else s.core n) ∧
            (kind ≠ 0 → kind ≠ 1 → ∀ n, t.core n =
              if n ∈ home :: others then { s.core n with lvSum := (s.core n).lvSum ++ [m] } else s.core n))

/-- R350, R400, R429, R433-R439, R446 and log 7: reset, boot, power and temperature. A reset loses everything but the flash and the fuses, and
boots slot A where both its images verify and meet the floor, else slot B, else stops with the step and its reason. PLIMIT takes 100 to 700;
a power window moves the throttle by one level; 105 °C stops placing, below 95 °C it goes on, 115 °C holds the SoC in reset. A cluster of no
enabled partition that is idle can lose its power, and comes back empty. -/
def Obligations.ModuleResults : Prop := ∀ (s : State),
  let blank (flash : Flash) : State :=
    { State.reset with
      agenda := s.agenda, fresh := s.fresh, nextId := s.nextId, flash := flash
      rtc := { Rtc.reset with floors := s.rtc.floors, fuses := s.rtc.fuses } }
  let fuses := s.rtc.fuses
  let svn (i : Sys2Proof.Image) : Nat := recNat i.bytes 6 2
  let digest (i : Sys2Proof.Image) : Line := shake256 (i.bytes.take (29920 + recNat i.bytes 8 4))
  let verifies (i : Sys2Proof.Image) (keys : List Line) (kind : Nat) : Prop :=
    recNat i.bytes 0 4 = 0x57C0F1A0 ∧ recNat i.bytes 4 2 = kind ∧ svn i < 1024 ∧ recNat i.bytes 8 4 % 8 = 0 ∧
    recNat i.bytes 8 4 ≤ 2 ^ 24 ∧ 29920 + recNat i.bytes 8 4 ≤ i.bytes.length ∧
    (∀ x ∈ (i.bytes.drop 16).take 48, x = 0#8) ∧ shake256 ((i.bytes.drop 64).take 64) ∈ keys ∧ i.signed = true
  let both : List Line := if fuses.ownerKey = 0#512 then [fuses.vendorKey] else [fuses.vendorKey, fuses.ownerKey]
  let unfit (i : Sys2Proof.Image) (keys : List Line) (kind floor k : Nat) : Prop :=
    (k = 1 ∧ ¬ verifies i keys kind) ∨ (k = 2 ∧ verifies i keys kind ∧ svn i < floor)
  let good (i : Sys2Proof.Image) (keys : List Line) (kind floor : Nat) : Prop := verifies i keys kind ∧ floor ≤ svn i
  (∀ boot : BootInput,
    let low := max boot.trustedFloor s.rtc.floors.1
    let floor := max boot.managementFloor s.rtc.floors.2
    let trusted := boot.flash.trusted
    let refused (p : Sys2Proof.Image × Sys2Proof.Image) (k : Nat) : Prop :=
      unfit p.1 both 2 floor k ∨ (good p.1 both 2 floor ∧ unfit p.2 both 3 floor k)
    let fits (p : Sys2Proof.Image × Sys2Proof.Image) : Prop := good p.1 both 2 floor ∧ good p.2 both 3 floor
    let hash (d : Line) : Line := shake256 (List.replicate 64 0#8 ++ bytesOfNat 64 d.toNat)
    let u := blank boot.flash
    let stopped (step k : Nat) (r : Rtc) (t : State) : Prop :=
      t = { u with power := { State.reset.power with inReset := true }, rtc := { r with failStep := step, failReason := k } }
    let afterTrusted (mr : Vector Line 8) : Rtc :=
      { u.rtc with mr := mr, used := (svn trusted, 0), identity := some (Config.slhDsaKeys (shakeBytes 96 fuses.secret)) }
    let booted (slot why : Nat) (images : Sys2Proof.Image × Sys2Proof.Image) (t : State) : Prop :=
      t = { u with
            clusters := t.clusters, dsc := { Dsc.reset with asidtab := boot.asidtab, parts := t.dsc.parts }
            station := match boot.twin with
              | some v => { Station.reset with up := true, present := true, card := decide (v.toNat < Config.serialNumber.toNat) }
              | none => Station.reset
            rtc := { afterTrusted t.rtc.mr with
              ready := true, slot := slot, refusedA := decide (slot = 1), reasonA := why
              used := (svn trusted, svn images.1), usedCore := svn images.2 } } ∧
      t.rtc.mr[0] = hash (digest trusted) ∧ t.rtc.mr[1] = hash (digest images.1) ∧ t.rtc.mr[2] = hash (digest images.2) ∧
      t.rtc.mr[3] = hash boot.configDigest ∧ t.rtc.mr[4] = 0#512 ∧ t.rtc.mr[5] = 0#512 ∧ t.rtc.mr[6] = 0#512 ∧
      t.rtc.mr[7] = 0#512 ∧
      (∀ c, c < 10 → t.cluster c = { Cluster.reset with offline := boot.offline.getLsbD c }) ∧
      ((∀ p, p < 8 → pcfgReserved (boot.pcfg.getD p 0#512) = false ∧ ∀ q, q < p →
          ¬ ((boot.pcfg.getD p 0#512).getLsbD 16 = true ∧ (boot.pcfg.getD q 0#512).getLsbD 16 = true ∧
            ∃ i, i < 10 ∧ (boot.pcfg.getD p 0#512).getLsbD i = true ∧ (boot.pcfg.getD q 0#512).getLsbD i = true)) →
        ∀ p, p < 8 → t.part p = { cfg := boot.pcfg.getD p 0#512, consumed := 0#32, written := 0, decisions := 0, window := 0 })
    let mr0 (mr : Vector Line 8) : Prop := mr[0] = hash (digest trusted) ∧ ∀ i : Fin 8, i ≠ 0 → mr[i] = 0#512
    (∀ k, unfit trusted [fuses.vendorKey] 1 low k → Answers (.moduleReset boot) s (stopped 2 k u.rtc)) ∧
    (good trusted [fuses.vendorKey] 1 low →
      (fits boot.flash.slotA → Answers (.moduleReset boot) s (booted 0 0 boot.flash.slotA)) ∧
      ∀ k, refused boot.flash.slotA k →
        (fits boot.flash.slotB → Answers (.moduleReset boot) s (booted 1 k boot.flash.slotB)) ∧
        ∀ j, refused boot.flash.slotB j → Answers (.moduleReset boot) s fun t =>
          ∃ mr, mr0 mr ∧ stopped 3 j { afterTrusted mr with refusedA := true, reasonA := k } t)) ∧
  (∀ v : DWord, Answers (.plimitWrite v) s fun t => t = { s with power := { s.power with
    plimit := if 100 ≤ v.toNat % 2 ^ 16 ∧ v.toNat % 2 ^ 16 ≤ 700 then v.setWidth 16 else s.power.plimit } }) ∧
  (∀ pwr : Half, s.Sound →
    (s.power.plimit.toNat < pwr.toNat → Answers (.powerWindow pwr) s fun t =>
      t = { s with power := { s.power with pwr := pwr, throttle := max 1 (s.power.throttle - 1) } }) ∧
    (100 * pwr.toNat < 95 * s.power.plimit.toNat → Answers (.powerWindow pwr) s fun t =>
      t = { s with power := { s.power with pwr := pwr, throttle := min 8 (s.power.throttle + 1) } }) ∧
    (pwr.toNat ≤ s.power.plimit.toNat → 95 * s.power.plimit.toNat ≤ 100 * pwr.toNat → Answers (.powerWindow pwr) s fun t =>
      t = { s with power := { s.power with pwr := pwr } })) ∧
  (∀ temp : Half, ∀ i ∈ [Instr.thermalStop temp, .thermalResume temp, .thermalTrip temp],
    let felt : State := { s with power := { s.power with temp := temp } }
    (8 * 105 ≤ temp.toNat → temp.toNat < 8 * 115 → Answers i s fun t =>
      t = { felt with dsc := { s.dsc with placingStopped := true } }) ∧
    (8 * 95 ≤ temp.toNat → temp.toNat < 8 * 105 → Answers i s fun t => t = felt) ∧
    (temp.toNat < 8 * 95 → Answers i s fun t => t = { felt with dsc := { s.dsc with placingStopped := false } }) ∧
    (8 * 115 ≤ temp.toNat → Answers i s fun t =>
      t = { blank s.flash with power := { State.reset.power with temp := temp, inReset := true } })) ∧
  (Answers .powerLoss s fun t => t = { blank s.flash with power := { State.reset.power with powered := false } }) ∧
  (∀ cl,
    let idle : Prop := cl < 10 ∧ (s.cluster cl).powered = true ∧ (∀ p, p < 8 → (s.part p).hasCluster cl = false) ∧
      (s.cluster cl).wtb = [] ∧ (s.cluster cl).gte = []
    (idle → Answers (.clusterPowerGating cl) s fun t =>
      t.cluster cl = { s.cluster cl with lines := [], powered := false } ∧ (∀ x, x ≠ cl → t.cluster x = s.cluster x) ∧
      t = { s with clusters := t.clusters, flights := t.flights } ∧
      ∀ id f, Tbl.get? s.flights id = some f → ∃ u, Tbl.get? t.flights id = some u ∧ u = { f with stage := u.stage } ∧
        (clusterOf f.core ≠ cl ∨ f.isLoad = false → u = f) ∧
        (clusterOf f.core = cl → f.isLoad = true →
          (∀ line a, f.stage = .fill line a → u.stage = .fill line false) ∧
          (∀ pa c, f.stage = .home pa c → u.stage = .home pa false) ∧
          ((∀ line a, f.stage ≠ .fill line a) → (∀ pa c, f.stage ≠ .home pa c) → u = f))) ∧
    (¬ idle → Answers (.clusterPowerGating cl) s fun t => t = s) ∧
    (10 ≤ cl ∨ (s.cluster cl).powered = true → Answers (.clusterPowerRestore cl) s fun t => t = s) ∧
    (cl < 10 → (s.cluster cl).powered = false → Answers (.clusterPowerRestore cl) s fun t =>
      t.cluster cl = { s.cluster cl with lines := [], gte := [], powered := true } ∧
      (∀ x, x ≠ cl → t.cluster x = s.cluster x) ∧ t = { s with clusters := t.clusters, cores := t.cores } ∧
      ∀ n, n < 80 → (clusterOf n ≠ cl → t.core n = s.core n) ∧
        (clusterOf n = cl → t.core n = { s.core n with signals := [], res := (t.core n).res } ∧
          ∀ l, t.res? n l = (s.res? n l).map fun r => { r with latches := 0#64 })))

/-- R9, R378, R380, R385, R431, R433, R438-R444, R448: the management registers. The root-of-trust core answers each request in turn, or
returns 0xFF and changes nothing; a report is signed over the measurements as they stood at its request. A snapshot is latched where its
trigger is armed, some blocks a turn late. A scrub corrects a word or logs its error. Each register of the device windows is written by the
harts the spec names, and reads as it says. BOOTSTAT's and the report's layout are log 8's, 4-byte writes log 83's, and what a reserved bit of
QDESC does log 81's. -/
def Obligations.ManagementResults : Prop := ∀ (s : State),
  let rtc (i : Instr) (f : Rtc → Rtc) : Prop :=
    (s.rtc.running = none → Answers i s fun t => t = { s with rtc := f s.rtc })
  let waits (i : Instr) (who : Sender) (req : RtcReq) : Prop := s.rtc.running ≠ none → Answers i s fun t =>
    t = { s with rtc := { s.rtc with waiting := s.rtc.waiting ++ [(who, req)] } }
  let result (st : Byte) (w : DWord) (r : Rtc) : Rtc := { r with status := st, lastWord := w, answers := r.answers ++ [(st, w)] }
  let refused (r : Rtc) : Rtc := result 0xFF#8 r.lastWord r
  let extended (k : Nat) (data : Line) (r : Rtc) : Rtc := result 0#8 r.lastWord
    { r with mr := r.mr.mapIdx fun i v => if i = k then shake256 (bytesOfNat 64 v.toNat ++ bytesOfNat 64 data.toNat) else v }
  (∀ (who : Sender) (k : BitVec 3) (data : Line), waits (.rtcExtend who k data) who (.extend k.toNat data) ∧
    rtc (.rtcExtend who k data) (if 4 ≤ k.toNat then extended k.toNat data else refused)) ∧
  (∀ (who : Sender) (data : Line), waits (.rtcExtendMr3 who data) who (.extendMr3 data) ∧
    rtc (.rtcExtendMr3 who data) (if who = .host ∨ s.rtc.ready = true then refused else extended 3 data)) ∧
  (∀ who nonce, waits (.rtcAttestationReport who nonce) who (.report nonce) ∧
    rtc (.rtcAttestationReport who nonce) fun r => { r with running := some (nonce, r.mr) }) ∧
  (∀ who, waits (.rtcReadBootstat who) who .bootstat ∧
    rtc (.rtcReadBootstat who) fun r => result 0#8 (BitVec.ofNat 64 ((if r.ready then 1 else 0) + 2 * (r.slot % 2) +
      (if r.refusedA then 4 else 0) + 16 * (r.failStep % 16) + 256 * (r.failReason % 256) + 65536 * (r.reasonA % 256))) r) ∧
  (∀ who, waits (.rtcRaiseSvn who) who .raise ∧ rtc (.rtcRaiseSvn who) (if who = .host then refused else fun r =>
    { result 0#8 r.lastWord r with floors := (max r.floors.1 r.used.1, max r.floors.2 r.used.2) })) ∧
  (∀ who code, waits (.rtcUnknownRequest who code) who .unknown ∧ rtc (.rtcUnknownRequest who code) refused) ∧
  (s.rtc.running = none → Answers .rtcAttestationDone s fun t => t = s) ∧
  (∀ nonce mr, s.rtc.running = some (nonce, mr) →
    let body : List Byte := bytesOfNat 32 nonce.toNat ++ (mr.toList.flatMap fun v => bytesOfNat 64 v.toNat) ++
      bytesOfNat 2 s.rtc.used.1 ++ bytesOfNat 2 s.rtc.used.2 ++ bytesOfNat 2 s.rtc.usedCore ++ bytesOfNat 1 s.rtc.slot ++
      bytesOfNat 64 s.rtc.fuses.ownerKey.toNat ++ bytesOfNat 8 Config.serialNumber.toNat ++ bytesOfNat 8 s.rtc.bootstat.toNat
    let secret := (s.rtc.identity.getD (Config.slhDsaKeys (shakeBytes 96 s.rtc.fuses.secret))).1
    let r := { result 0#8 (BitVec.ofNat 64 s.draw) s.rtc with
      running := none, reports := s.rtc.reports ++ [body ++ Config.slhDsaSign secret body] }
    ∀ pre post, s.rtc.waiting = pre ++ post → (∀ p ∈ pre, ∀ x, p.2 ≠ .report x) →
      let q := pre.foldl (fun (r : Rtc) p => r.perform p.1 p.2) r
      (post = [] → Answers .rtcAttestationDone s fun t => t = { s with rtc := { q with waiting := [] }, fresh := s.fresh + 1 }) ∧
      ∀ who x rest, post = (who, .report x) :: rest → Answers .rtcAttestationDone s fun t =>
        t = { s with rtc := { q with running := some (x, q.mr), waiting := rest }, fresh := s.fresh + 1 }) ∧
  (∀ i k, (i = .snapgoWrite 1#64 ∧ k = 0) ∨ (i = .debugSnapshotTrigger ∧ k = 3) →
    (s.watch.arm.getLsbD k = false → Answers i s fun t => t = s) ∧
    (s.watch.arm.getLsbD k = true → s.watch.held = true → Answers i s fun t =>
      t = { s with watch := { s.watch with lost := s.watch.lost + 1#16 } }) ∧
    (s.watch.arm.getLsbD k = true → s.watch.held = false → Answers i s fun t =>
      t = { s with
            fresh := s.fresh + 1
            watch := { s.watch with
              held := true, count := s.watch.count + 1#16, late := none, skew := 1, pick := Config.freeNat s.fresh
              snap := some ⟨s.mem, s.cores, s.flights, s.clusters, s.tlus, s.wakes, s.dsc, s.station⟩ } })) ∧
  (∀ (w : Watch) block, w.blockAt block = if w.pick.testBit block then w.late else w.snap) ∧
  (∀ v : DWord, (v ≠ 1#64 → Answers (.snapgoWrite v) s fun t => t = s) ∧
    Answers (.snapstatWrite v) s fun t => t = { s with watch := { s.watch with held := v.getLsbD 0 && s.watch.held } }) ∧
  (∀ pa,
    (2 ^ 37 ≤ pa → Answers (.patrolScrub pa) s fun t => t = s) ∧
    (pa < 2 ^ 37 → s.isBad (pa / 8 * 8) 8 = true → Answers (.patrolScrub pa) s fun t =>
      t = { s with watch := { s.watch with errSeq := s.watch.errSeq + 1#32, errLog := t.watch.errLog } } ∧
      ∃ e : BitVec 128, t.watch.errLog = (s.watch.errLog ++ [e]).drop (s.watch.errLog.length + 1 - 16) ∧
        e.toNat / 2 ^ 64 = pa / 8 * 8 ∧ e.toNat / 2 ^ 32 % 2 ^ 32 = s.watch.errSeq.toNat ∧ e.toNat / 2 ^ 8 % 2 ^ 8 = 2) ∧
    (pa < 2 ^ 37 → s.isBad (pa / 8 * 8) 8 = false → Answers (.patrolScrub pa) s fun t =>
      t = { s with watch := t.watch } ∧ OnlyCorrects s t ∧
      (∀ w ∈ t.watch.weak, w ≠ pa / 8 * 2 ∧ w ≠ pa / 8 * 2 + 1) ∧
      ∀ w ∈ s.watch.weak, w ≠ pa / 8 * 2 → w ≠ pa / 8 * 2 + 1 → w ∈ t.watch.weak)) ∧
  (∀ (management : Bool) off (v : DWord),
    let w : Instr := .registerWrite (.device management off v)
    let low : Word := v.setWidth 32
    (off < 0x400 → off % 8 = 0 → management = true → Answers w s fun t =>
      t = { s with dsc := { s.dsc with queues := t.dsc.queues } } ∧
      ∀ q, t.dsc.queues[q]? = (s.dsc.queues[q]?).map fun (h : HostQ) =>
        if q = off / 16 ∧ off / 8 % 2 = 0 ∧ v &&& 0x00FFFFFFFFFFFFC0#64 = v then { h with ring := v }
        else if q = off / 16 ∧ off / 8 % 2 = 1 ∧ v &&& 0x8000003FFFFFFFFF#64 = v then { h with cfg := v }
        else h) ∧
    (off < 0x400 → management = false → Answers w s fun t => t = s) ∧
    (off < 0x10000 → off % 8 ≠ 0 → Answers w s fun t => t = s) ∧
    (off % 8 = 0 → 0x400 ≤ off → off < 0x600 → exec w s = exec (.doorbellWrite ((off - 0x400) / 8) low) s) ∧
    (off = 0x800 → exec w s = exec (.faultrespWrite v) s) ∧
    (off = 0x808 → Answers w s fun t => t = { s with dsc := { s.dsc with shootAsid := v } }) ∧
    (off = 0x810 → Answers w s fun t => t = { s with dsc := { s.dsc with shootVa := v } }) ∧
    (off = 0x818 → Answers w s fun t => t = { s with dsc := { s.dsc with shootLen := v } }) ∧
    (off = 0x820 → exec w s = exec (.shootgoWrite v) s) ∧
    (off % 8 = 0 → 0x830 ≤ off → off < 0x870 → exec w s = exec (.faultheadWrite ((off - 0x830) / 8) low) s) ∧
    (off = 0x870 → management = true → Answers w s fun t =>
      t = { s with dsc := { s.dsc with asidtab := v &&& ~~~0x7FFFF#64 } }) ∧
    (off = 0x878 → exec w s = exec (.intstatClear v) s) ∧
    (off % 8 = 0 → 0x1000 ≤ off → off < 0x1200 → management = true →
      exec w s = exec (.pcfgWrite ((off - 0x1000) / 64)
        (putLine (s.part ((off - 0x1000) / 64)).cfg (8 * (off / 8 % 8)) 8 v.toNat)) s) ∧
    (off = 0x870 ∨ (0x1000 ≤ off ∧ off < 0x1200) ∨ off = 0x2008 ∨ 0x10000 ≤ off → management = false →
      Answers w s fun t => t = s) ∧
    (off = 0x828 ∨ off = 0x2000 ∨ off = 0x20008 ∨ off = 0x20010 ∨ off = 0x20018 → Answers w s fun t => t = s) ∧
    (off = 0x2008 → management = true → exec w s = exec (.pairctlRetrain v) s) ∧
    (off = 0x20000 → management = true → exec w s = exec (.plimitWrite v) s) ∧
    (off = 0x30000 → management = true → Answers w s fun t => t = { s with watch := { s.watch with arm := v.setWidth 4 } }) ∧
    (off = 0x30008 → management = true → exec w s = exec (.snapgoWrite v) s) ∧
    (off = 0x30010 → management = true → exec w s = exec (.snapstatWrite v) s) ∧
    (0x1000000 ≤ off → off < 0x1000000 + 0x400000 * 80 → management = true →
      exec w s = exec (.managementPoolWrite ((off - 0x1000000) / 0x400000) ((off - 0x1000000) % 0x400000) v) s) ∧
    ∀ x : Word,
      let half : Instr := .registerWrite (.half management off x)
      let held (old : DWord) : Prop := exec half s = exec (.registerWrite (.device management (off / 8 * 8)
        (if off % 8 = 4 then x ++ old.setWidth 32 else old.extractLsb' 32 32 ++ x))) s
      (off / 8 * 8 = 0x808 → held s.dsc.shootAsid) ∧ (off / 8 * 8 = 0x810 → held s.dsc.shootVa) ∧
      (off / 8 * 8 = 0x818 → held s.dsc.shootLen) ∧ (off / 8 * 8 = 0x870 → held s.dsc.asidtab) ∧
      (off = 0x820 ∨ off = 0x800 ∨ off = 0x878 ∨ off = 0x400 ∨ off = 0x830 →
        exec half s = exec (.registerWrite (.device management off (x.setWidth 64))) s)) ∧
  (∀ (management : Bool) q h, q < 64 → s.dsc.queues[q]? = some h →
    s.deviceRead management (0x400 + 8 * q) = some (BitVec.ofNat 64 (h.head.toNat + 2 ^ 32 * h.tail.toNat)) ∧
    s.deviceRead management (16 * q) = some h.ring ∧ s.deviceRead management (16 * q + 8) = some h.cfg) ∧
  (∀ management : Bool,
    s.deviceRead management 0x828 = some (BitVec.ofNat 64 ((if s.dsc.shootBusy.isSome then 1 else 0) +
      2 ^ 16 * s.dsc.shootDone.toNat + 2 ^ 48 * s.dsc.shootLost.toNat)) ∧
    (∀ p, p < 8 → s.deviceRead management (0x830 + 8 * p) = some (BitVec.ofNat 64 ((s.part p).written % 2 ^ 32))) ∧
    s.deviceRead management 0x878 = some (s.dsc.intstat.setWidth 64) ∧
    s.deviceRead management 0x2000 = some (BitVec.ofNat 64 ((if s.station.up then 1 else 0) +
      (if s.station.present then 2 else 0) + (if s.station.card then 4 else 0) + 2 ^ 16 * s.station.losses.toNat +
      2 ^ 32 * s.station.late.toNat)) ∧
    s.dsc.intLine = decide (s.dsc.intstat ≠ 0#25)) ∧
  s.deviceRead true 0x20000 = some (s.power.plimit.setWidth 64) ∧ s.deviceRead true 0x20008 = some (BitVec.ofNat 64 s.power.throttle) ∧
  s.deviceRead true 0x20010 = some (s.power.pwr.setWidth 64) ∧ s.deviceRead true 0x20018 = some (s.power.temp.setWidth 64) ∧
  s.deviceRead true 0x30000 = some (s.watch.arm.setWidth 64) ∧
  s.deviceRead true 0x30010 = some (BitVec.ofNat 64 ((if s.watch.held then 1 else 0) + 2 ^ 16 * s.watch.count.toNat +
    2 ^ 32 * s.watch.lost.toNat)) ∧
  ∀ off, 0x10000 ≤ off → s.deviceRead false off = none

/-- R126: the class mask of FCLS and DCLS: one bit of [9:0], by sign, exponent and fraction, in an otherwise zero word; no flag. -/
def Obligations.ClassMaskResults : Prop :=
  let bit (sign : Bool) (e f top q : Nat) : Nat :=
    if e = top ∧ f ≠ 0 then (if q = 0 then 8 else 9)
    else if e = top then (if sign then 0 else 7)
    else if e ≠ 0 then (if sign then 1 else 6)
    else if f ≠ 0 then (if sign then 2 else 5)
    else if sign then 3 else 4
  ∀ d a : Reg,
  Writes (.fcls d a) [d, a] d (fun m =>
    let x := (m.reg a).toNat
    BitVec.ofNat 32 (2 ^ bit (decide (2 ^ 31 ≤ x)) (x / 2 ^ 23 % 2 ^ 8) (x % 2 ^ 23) 255 (x / 2 ^ 22 % 2))) ∧
  Writes (.dcls d a) ([d] ++ pairOf a) d (fun m =>
    let x := (m.pair a).toNat
    BitVec.ofNat 32 (2 ^ bit (decide (2 ^ 63 ≤ x)) (x / 2 ^ 52 % 2 ^ 11) (x % 2 ^ 52) 2047 (x / 2 ^ 51 % 2)))

/-- R43, R44, R47: NaNs, minima and zero sums in every arithmetic format. A NaN operand of a sum or product gives the canonical NaN, with NV
only for a signalling one; a minimum or maximum takes the other operand, orders −0 below +0, and gives one of its operands; an exact zero
sum is +0, −0 in RDN. -/
def Obligations.FloatRules : Prop := ∀ f ∈ [fp16, bf16, fp32, fp64], ∀ (rm : Rm) (x y : Nat),
  x < 2 ^ f.width → y < 2 ^ f.width →
  let nan (z : Nat) : Prop := f.infCode < z % f.signBit
  let signals (z : Nat) : Prop := nan z ∧ z / 2 ^ (f.prec - 2) % 2 = 0
  let flip (z : Nat) : Nat := if z < f.signBit then z + f.signBit else z - f.signBit
  (nan x ∨ nan y → ∀ op ∈ [fpAdd f rm, fpSub f rm, fpMul f rm],
    (op x y).1 = f.nanCode ∧ (signals x ∨ signals y → (op x y).2 = 0x10#5) ∧
      (¬ signals x → ¬ signals y → (op x y).2 = 0#5)) ∧
  (∀ big : Bool,
    (nan x → nan y → (fpMinMax f big x y).1 = f.nanCode) ∧ (nan x → ¬ nan y → (fpMinMax f big x y).1 = y) ∧
    (¬ nan x → nan y → (fpMinMax f big x y).1 = x) ∧
    (¬ nan x → ¬ nan y → (fpMinMax f big x y).1 = x ∨ (fpMinMax f big x y).1 = y) ∧
    (signals x ∨ signals y → (fpMinMax f big x y).2 = 0x10#5) ∧ (¬ signals x → ¬ signals y → (fpMinMax f big x y).2 = 0#5)) ∧
  (fpMinMax f false 0 f.signBit).1 = f.signBit ∧ (fpMinMax f false f.signBit 0).1 = f.signBit ∧
  (fpMinMax f true 0 f.signBit).1 = 0 ∧ (fpMinMax f true f.signBit 0).1 = 0 ∧
  (x % f.signBit < f.infCode →
    (fpAdd f rm x (flip x) = (if rm = .rdn then f.signBit else 0, 0#5)) ∧
    (fpSub f rm x x = (if rm = .rdn then f.signBit else 0, 0#5))) ∧
  fpAdd f rm f.signBit f.signBit = (f.signBit, 0#5)

/-- R435: at 105 °C the firmware places and resumes no launch until TEMP falls below 95 °C: the scheduler's own decisions and what the twin
has confirmed wait, and the twin's proposals are refused; nothing else changes. The trip at 115 °C loses the state that a loss of power
loses. -/
def Obligations.ThermalRules : Prop := ∀ (s : State) (temp : Half), ∀ i ∈ [Instr.thermalStop temp, .thermalResume temp, .thermalTrip temp],
  let felt : State := { s with power := { s.power with temp := temp } }
  (8 * 105 ≤ temp.toNat → temp.toNat < 8 * 115 → Answers i s fun t => t = { felt with dsc := { s.dsc with placingStopped := true } } ∧
    (∀ p, ∀ j ∈ [Instr.dispatchPlacement p, .preemptionDecision p, .resumeDecision p, .forcedResume p],
      Answers j t fun u => u = t) ∧
    (∀ index l x0 y0 prio rec_, t.station.up = true → Answers (.schedArrival (.propose index l x0 y0 prio rec_)) t fun u =>
      u = { t with station := { t.station with out := t.station.out ++ [.sched (.refuse index l)] } }) ∧
    ∀ index l x, t.station.up = true → t.launch? l = some x → x.proposed = true →
      Answers (.schedArrival (.confirm index l)) t fun u => u.cores = t.cores ∧ u.mem = t.mem ∧
        ∃ y, u.launch? l = some y ∧ y.state = x.state ∧ y.confirmed = true) ∧
  (temp.toNat < 8 * 95 → Answers i s fun t => t = { felt with dsc := { s.dsc with placingStopped := false } }) ∧
  (8 * 95 ≤ temp.toNat → temp.toNat < 8 * 105 → Answers i s fun t => t = felt) ∧
  (8 * 115 ≤ temp.toNat → Answers i s fun t => t.power.inReset = true ∧ t.power.temp = temp ∧
    Answers .powerLoss s fun u => t = { u with power := t.power })

/-- R5, R13, R71, R190, R281, R283, R306, R322, R435, R437, R444: a step runs the instruction that its turn's agent fetches: an issue group's,
decoded from the code object at the group's place; a caller's, decoded at its pc; the query's that the rotation serves next, decoded from its
walker store; or an event. A word that is no instruction runs as a reserved encoding. With no turn named the next one is the model's free
choice (log 9); soft errors (log 35) and exceptions of the supervisor (log 78) are turns too. In reset only a new start, and after a boot
that stopped the mailbox, act. What a snapshot latches late is latched between turns (log 85). -/
def Obligations.StepRunsTheFetchedInstruction : Prop := ∀ (s : State) (turn : Turn) (rest : List Turn), s.agenda = turn :: rest →
  let u : State := { s.latchLate with agenda := rest }
  (s.watch.snap = none ∨ s.watch.late ≠ none → s.latchLate = s) ∧
  (s.watch.snap ≠ none → s.watch.late = none → s.watch.skew ≠ 0 →
    s.latchLate = { s with watch := { s.watch with skew := s.watch.skew - 1 } }) ∧
  (s.watch.snap ≠ none → s.watch.late = none → s.watch.skew = 0 → s.latchLate = { s with watch := { s.watch with
    late := some ⟨s.mem, s.cores, s.flights, s.clusters, s.tlus, s.wakes, s.dsc, s.station⟩ } }) ∧
  (s.power.powered = true → s.power.inReset = false →
    (∀ n port rot g r o h, turn = .issue n port rot → Tbl.get? (s.core n).groups (port * 8 + rot) = some g →
      s.res? n g.launch = some r → s.codeOf r = some (o, h) →
      let off := g.fig.toNat + g.off
      let word : Word := if (h off).getLsbD 0 then h (off + 2) ++ h off else (h off).setWidth 32
      (g.waiting ≠ [] → step s = .next u) ∧
      (∀ i more, g.waiting = [] → decodeMicro [h off, h (off + 2), h (off + 4), h (off + 6)] = .ok (i, more) →
        step s = exec i { u with focus := .group n port rot, curWord := word }) ∧
      (∀ e, g.waiting = [] → decodeMicro [h off, h (off + 2), h (off + 4), h (off + 6)] = .error e →
        step s = exec (.reservedEncoding word) { u with focus := .group n port rot, curWord := word })) ∧
    (∀ n l r a b, turn = .caller n l → s.res? n l = some r →
      (s.callerReady n l r = false → step s = .next u) ∧
      (s.callerReady n l r = true → s.fetchHalf r.asid r.caller.pc = .ok a →
        (a.extractLsb' 0 2 ≠ 3#2 →
          step s = exec (r.caller.turnOf (decodeCaller a 0#16).1) { u with focus := .caller n l, curWord := a.setWidth 32 }) ∧
        (a.extractLsb' 0 2 = 3#2 → s.fetchHalf r.asid (r.caller.pc + 2#64) = .ok b →
          step s = exec (r.caller.turnOf (decodeCaller a b).1) { u with focus := .caller n l, curWord := b ++ a }))) ∧
    (∀ n e q r, turn = .walker n e → s.query? n e = some q → s.res? n q.launch = some r →
      (s.nextQueryOf n ≠ some e → step s = .next u) ∧
      ∀ i, s.nextQueryOf n = some e → decodeWalker (r.walker.getD q.pc 0#32) = .ok i →
        step s = exec i { u with focus := .walker n e, curWord := r.walker.getD q.pc 0#32 }) ∧
    (∀ n e, s.nextQueryOf n = some e → (∃ p ∈ (s.core n).queries, p.1 = e ∧ p.2.state = .running ∧ s.away n p.2.launch = false) ∧
      ∀ p ∈ (s.core n).queries, p.2.state = .running → s.away n p.2.launch = false → Tbl.sorted (s.core n).queries = true →
        ((s.core n).walked < e → p.1 ≤ (s.core n).walked ∨ e ≤ p.1) ∧ (e ≤ (s.core n).walked → e ≤ p.1 ∧ p.1 ≤ (s.core n).walked)) ∧
    (∀ i, turn = .event i → step s = exec i { u with focus := .none, curWord := 0#32 }) ∧
    (∀ x, turn = .upset x → step s = .next (u.upset x)) ∧
    (∀ n l cause pc tval, turn = .supervisor n l cause pc tval → step s = .next (u.supervisorTurn n l cause pc tval))) ∧
  (s.power.powered = false ∨ s.power.inReset = true →
    (∀ boot, turn = .event (.moduleReset boot) → step s = exec (.moduleReset boot) { u with focus := .none, curWord := 0#32 }) ∧
    ((∀ boot, turn ≠ .event (.moduleReset boot)) → (s.rtc.failStep = 0 ∨ s.power.powered = false) → step s = .next u) ∧
    (∀ i, s.rtc.failStep ≠ 0 → s.power.powered = true → turn = .event i →
      (isMailbox i = true → step s = exec i { u with focus := .none, curWord := 0#32 }) ∧
      (isMailbox i = false → (∀ boot, i ≠ .moduleReset boot) → step s = .next u))) ∧
  ∀ k, step { s with agenda := [], fresh := k } = step { s with agenda := [Config.nextTurn k], fresh := k + 1 }

/-- R71, R76-R90, R305-R307: whatever the decoders accept is well-formed, and takes at least one halfword. -/
def Obligations.DecodedInstructionsAreWellFormed : Prop :=
  (∀ hs i rest, decodeMicro hs = .ok (i, rest) → i.wf = true ∧ ∃ x more, hs = x :: more ++ rest) ∧
  (∀ w i, decodeWalker w = .ok i → i.wf = true) ∧ ∀ w i, decodeXfig w = .ok i → i.wf = true

/-- R69-R86, R194, R305-R307: the halfwords the encoder gives for a well-formed instruction decode to that instruction and leave what
follows them, with every operand at every value the encoding admits. -/
def Obligations.EncodingRoundTrip : Prop := ∀ (i : Instr) (isa : Isa) (hs : List Half), i.wf = true → encode i = some (isa, hs) →
  match isa with
  | .micro => ∀ rest, decodeMicro (hs ++ rest) = .ok (i, rest)
  | .walker => ∃ a b, hs = [a, b] ∧ decodeWalker (b ++ a) = .ok i
  | .caller => ∃ a b, hs = [a, b] ∧ decodeXfig (b ++ a) = .ok i ∧ decodeCaller a b = (i, 2)

/-- R79-R86, R194, R305: words of every family, written out from their encodings, decode to the instructions they stand for. -/
def Obligations.TableWordsDecode : Prop :=
  ([0x013A1783, 0x01CE9FAF, 0x000D027F, 0x018A0A1B, 0x0016B827, 0xAF1B1EB7, 0x16824D39, 0x00AF9B3B, 0x0018003F, 0x00D10EC5, 0x0791F64B,
    0x0204C44D, 0x00208801, 0x019B8E0B].map (decodeTableWord 32)) =
  [some (.add 47#6 16#6 39#6), some (.shfl 63#6 52#6 57#6), some (.ret 0#3 0#1 52#8), some (.fadd 20#6 16#6 49#6),
    some (.f2i 48#6 53#6 2#3), some (.ld 61#6 24#6 3#3 0#2 175#8), some (.st 26#6 18#6 0#3 2#2 22#8), some (.aaddW 54#6 60#6 21#6),
    some (.cpost 0#6 0#6 3#6), some (.qinit 15#6 32#6 51#6), some (.mma 13#4 16#6 16#6 0#1 1#1 0#1), some (.hpop 8#6 38#6),
    some (.nfetch 17#5 1#2), some (.figCall 28#5 23#5 25#5)] ∧
  decodeTableWord 16 0xA322 = some (.add16 25#6 20#5)

/-- R25, R62, R350, R433, R438 and logs 1, 2 and 4: what reset leaves. The state after reset is sound. -/
def Obligations.ResetState : Prop :=
  ((∀ n slot, (State.reset.core n).micro slot = Micro.blank) ∧ Micro.blank.gen = 0#16 ∧ Micro.blank.life = .retired ∧
    (∀ a k, State.reset.peek a k = 0) ∧ State.reset.flights = [] ∧ State.reset.dsc.launches = [] ∧ State.reset.power.plimit = 700#16 ∧
    State.reset.power.throttle = 8 ∧ (∀ i : Fin 8, State.reset.rtc.mr[i] = 0#512) ∧
    (∀ cl, cl < 10 → (State.reset.cluster cl).lines = [] ∧ (State.reset.cluster cl).powered = true) ∧
    (∀ p, (State.reset.part p).enabled = false) ∧ State.reset.station.up = false) ∧
  (State.reset.Sound)

/-- R370, R433, R434 and logs 1 and 5: every step keeps memory in its canonical form, PLIMIT between 100 and 700 W, the throttle between 1
and 8, and the accesses in flight numbered once, rising, below the next number. -/
def Obligations.StepKeepsSound : Prop := ∀ s t : State, s.Sound → step s = .next t → t.Sound

/-- R10, R88, R274, R280, R321: every instruction and event answers a next state in every state: no fault and no refusal of the model ends a
run. -/
def Obligations.EveryInstructionAnswersANextState : Prop :=
  (∀ (i : Instr) (s : State), ∃ t, exec i s = .next t) ∧ ∀ s : State, ∃ t, step s = .next t
end

