-- ==== Sys2Proof/Laws/Tables.lean ====
section
/-! SUPPORT. Finite tables: reading after setting, erasing, changing and mapping, and the rise of the keys. -/

namespace Sys2Proof.Machine

variable {α β : Type}

@[simp] theorem Tbl.get?_nil (k : Nat) : Tbl.get? ([] : Tbl α) k = none := rfl

@[simp] theorem Tbl.get?_set_self (t : Tbl α) (k : Nat) (a : α) : Tbl.get? (Tbl.set t k a) k = some a := by
  induction t with
  | nil => simp [Tbl.set, Tbl.get?]
  | cons p r ih =>
    obtain ⟨j, b⟩ := p
    simp only [Tbl.set]
    split
    · simp [Tbl.get?]
    · split
      · simp [Tbl.get?]
      · simp [Tbl.get?, *]

theorem Tbl.get?_set_other (t : Tbl α) (k j : Nat) (a : α) (h : j ≠ k) :
    Tbl.get? (Tbl.set t k a) j = Tbl.get? t j := by
  induction t with
  | nil => simp [Tbl.set, Tbl.get?, Ne.symm h]
  | cons p r ih =>
    obtain ⟨i, b⟩ := p
    simp only [Tbl.set]
    split
    · simp [Tbl.get?, Ne.symm h]
    · split
      · subst_vars; simp [Tbl.get?, Ne.symm h]
      · simp only [Tbl.get?, ih]

theorem Tbl.get?_set (t : Tbl α) (k j : Nat) (a : α) :
    Tbl.get? (Tbl.set t k a) j = if j = k then some a else Tbl.get? t j := by
  split
  · subst_vars; simp
  · exact Tbl.get?_set_other t k j a ‹_›

/-- Setting what is there changes nothing but the entry. -/
@[simp] theorem Tbl.has_set_self (t : Tbl α) (k : Nat) (a : α) : Tbl.has (Tbl.set t k a) k = true := by
  simp [Tbl.has]

theorem Tbl.get?_erase_other (t : Tbl α) (k j : Nat) (h : j ≠ k) : Tbl.get? (Tbl.erase t k) j = Tbl.get? t j := by
  induction t with
  | nil => rfl
  | cons p r ih =>
    obtain ⟨i, b⟩ := p
    simp only [Tbl.erase]
    split
    · subst_vars; simp [Tbl.get?, Ne.symm h]
    · simp only [Tbl.get?, ih]

@[simp] theorem Tbl.get?_mapKV (t : Tbl α) (f : Nat → α → β) (k : Nat) :
    Tbl.get? (Tbl.mapKV t f) k = (Tbl.get? t k).map (f k) := by
  induction t with
  | nil => rfl
  | cons p r ih =>
    obtain ⟨i, b⟩ := p
    simp only [Tbl.mapKV, List.map_cons, Tbl.get?]
    split
    · subst_vars; rfl
    · exact ih

@[simp] theorem Tbl.get?_modify_self (t : Tbl α) (k : Nat) (f : α → α) :
    Tbl.get? (Tbl.modify t k f) k = (Tbl.get? t k).map f := by
  induction t with
  | nil => rfl
  | cons p r ih =>
    obtain ⟨i, b⟩ := p
    simp only [Tbl.modify]
    split
    · subst_vars; simp [Tbl.get?]
    · simp [Tbl.get?, *]

theorem Tbl.get?_modify_other (t : Tbl α) (k j : Nat) (f : α → α) (h : j ≠ k) :
    Tbl.get? (Tbl.modify t k f) j = Tbl.get? t j := by
  induction t with
  | nil => rfl
  | cons p r ih =>
    obtain ⟨i, b⟩ := p
    simp only [Tbl.modify]
    split
    · subst_vars; simp [Tbl.get?, Ne.symm h]
    · simp only [Tbl.get?, ih]

/-! Rising keys. `below k t` says that every key of `t` is larger than `k`. -/

theorem Tbl.sorted_cons (j : Nat) (b : α) (r : Tbl α) :
    Tbl.sorted ((j, b) :: r) = true ↔ (∀ p ∈ r.head?, j < p.1) ∧ Tbl.sorted r = true := by
  cases r with
  | nil => simp [Tbl.sorted]
  | cons p t => obtain ⟨k, c⟩ := p; simp [Tbl.sorted]

theorem Tbl.sorted_all (j : Nat) (b : α) (r : Tbl α) (h : Tbl.sorted ((j, b) :: r) = true) : ∀ p ∈ r, j < p.1 := by
  induction r generalizing j b with
  | nil => simp
  | cons q t ih =>
    obtain ⟨k, c⟩ := q
    simp only [Tbl.sorted, Bool.and_eq_true, decide_eq_true_eq] at h
    intro p hp
    rcases List.mem_cons.1 hp with rfl | hp
    · exact h.1
    · exact Nat.lt_trans h.1 (ih k c h.2 p hp)

theorem Tbl.sorted_of_all (j : Nat) (b : α) (r : Tbl α) (h : ∀ p ∈ r, j < p.1) (hr : Tbl.sorted r = true) :
    Tbl.sorted ((j, b) :: r) = true :=
  (Tbl.sorted_cons j b r).2 ⟨fun p hp => h p (List.mem_of_mem_head? hp), hr⟩

theorem Tbl.mem_set (t : Tbl α) (k : Nat) (a : α) : ∀ p ∈ Tbl.set t k a, p = (k, a) ∨ p ∈ t := by
  induction t with
  | nil => intro p hp; simpa [Tbl.set] using hp
  | cons q r ih =>
    obtain ⟨j, b⟩ := q
    intro p hp
    simp only [Tbl.set] at hp
    split at hp
    · simpa using hp
    · split at hp
      · rcases List.mem_cons.1 hp with h | h
        · exact .inl h
        · exact .inr (List.mem_cons_of_mem _ h)
      · rcases List.mem_cons.1 hp with h | h
        · exact .inr (h ▸ List.mem_cons_self ..)
        · exact (ih p h).imp_right (List.mem_cons_of_mem _)

theorem Tbl.mem_erase (t : Tbl α) (k : Nat) : ∀ p ∈ Tbl.erase t k, p ∈ t := by
  induction t with
  | nil => simp [Tbl.erase]
  | cons q r ih =>
    obtain ⟨j, b⟩ := q
    intro p hp
    simp only [Tbl.erase] at hp
    split at hp
    · exact List.mem_cons_of_mem _ hp
    · rcases List.mem_cons.1 hp with h | h
      · exact h ▸ List.mem_cons_self ..
      · exact List.mem_cons_of_mem _ (ih p h)

/-- A table with an entry set keeps its keys rising. -/
theorem Tbl.sorted_set (t : Tbl α) (k : Nat) (a : α) (h : Tbl.sorted t = true) : Tbl.sorted (Tbl.set t k a) = true := by
  induction t with
  | nil => rfl
  | cons q r ih =>
    obtain ⟨j, b⟩ := q
    have hr : Tbl.sorted r = true := ((Tbl.sorted_cons j b r).1 h).2
    have ha := Tbl.sorted_all j b r h
    simp only [Tbl.set]
    split
    · exact Tbl.sorted_of_all _ _ _ (fun p hp => by
        rcases List.mem_cons.1 hp with rfl | hp
        · assumption
        · exact Nat.lt_trans ‹_› (ha p hp)) h
    · split
      · subst_vars; exact Tbl.sorted_of_all _ _ _ ha hr
      · refine Tbl.sorted_of_all _ _ _ (fun p hp => ?_) (ih hr)
        rcases Tbl.mem_set r k a p hp with rfl | hp
        · show j < k; omega
        · exact ha p hp

/-- A table without an entry keeps its keys rising. -/
theorem Tbl.sorted_erase (t : Tbl α) (k : Nat) (h : Tbl.sorted t = true) : Tbl.sorted (Tbl.erase t k) = true := by
  induction t with
  | nil => rfl
  | cons q r ih =>
    obtain ⟨j, b⟩ := q
    have hr : Tbl.sorted r = true := ((Tbl.sorted_cons j b r).1 h).2
    simp only [Tbl.erase]
    split
    · exact hr
    · exact Tbl.sorted_of_all _ _ _ (fun p hp => Tbl.sorted_all j b r h p (Tbl.mem_erase r k p hp)) (ih hr)

/-- In a table with rising keys, an erased key has no entry. -/
theorem Tbl.get?_erase_self (t : Tbl α) (k : Nat) (h : Tbl.sorted t = true) : Tbl.get? (Tbl.erase t k) k = none := by
  induction t with
  | nil => rfl
  | cons q r ih =>
    obtain ⟨j, b⟩ := q
    have hr : Tbl.sorted r = true := ((Tbl.sorted_cons j b r).1 h).2
    simp only [Tbl.erase]
    split
    · subst_vars
      have ha := Tbl.sorted_all j b r h
      clear ih h hr
      induction r with
      | nil => rfl
      | cons p s ih =>
        obtain ⟨i, c⟩ := p
        have hi : j < i := ha (i, c) (List.mem_cons_self ..)
        simp only [Tbl.get?, if_neg (Nat.ne_of_gt hi)]
        exact ih fun p hp => ha p (List.mem_cons_of_mem _ hp)
    · simp only [Tbl.get?, if_neg ‹_›]; exact ih hr

end Sys2Proof.Machine
end

