-- ==== Sys2Proof/Laws/State.lean ====
section
/-! SUPPORT. What each update of the state leaves in each field, and what it gives where it writes. -/

namespace Sys2Proof.Machine

/-! One core changed. -/

@[simp] theorem State.modCore_mem (s : State) (n : Nat) (f : Core → Core) : (s.modCore n f).mem = s.mem := by
  unfold State.modCore; split <;> rfl
@[simp] theorem State.modCore_clusters (s : State) (n : Nat) (f : Core → Core) : (s.modCore n f).clusters = s.clusters := by
  unfold State.modCore; split <;> rfl
@[simp] theorem State.modCore_tlus (s : State) (n : Nat) (f : Core → Core) : (s.modCore n f).tlus = s.tlus := by
  unfold State.modCore; split <;> rfl
@[simp] theorem State.modCore_flights (s : State) (n : Nat) (f : Core → Core) : (s.modCore n f).flights = s.flights := by
  unfold State.modCore; split <;> rfl
@[simp] theorem State.modCore_resvs (s : State) (n : Nat) (f : Core → Core) : (s.modCore n f).resvs = s.resvs := by
  unfold State.modCore; split <;> rfl
@[simp] theorem State.modCore_wakes (s : State) (n : Nat) (f : Core → Core) : (s.modCore n f).wakes = s.wakes := by
  unfold State.modCore; split <;> rfl
@[simp] theorem State.modCore_sealed (s : State) (n : Nat) (f : Core → Core) : (s.modCore n f).sealed = s.sealed := by
  unfold State.modCore; split <;> rfl
@[simp] theorem State.modCore_dsc (s : State) (n : Nat) (f : Core → Core) : (s.modCore n f).dsc = s.dsc := by
  unfold State.modCore; split <;> rfl
@[simp] theorem State.modCore_station (s : State) (n : Nat) (f : Core → Core) : (s.modCore n f).station = s.station := by
  unfold State.modCore; split <;> rfl
@[simp] theorem State.modCore_power (s : State) (n : Nat) (f : Core → Core) : (s.modCore n f).power = s.power := by
  unfold State.modCore; split <;> rfl
@[simp] theorem State.modCore_rtc (s : State) (n : Nat) (f : Core → Core) : (s.modCore n f).rtc = s.rtc := by
  unfold State.modCore; split <;> rfl
@[simp] theorem State.modCore_watch (s : State) (n : Nat) (f : Core → Core) : (s.modCore n f).watch = s.watch := by
  unfold State.modCore; split <;> rfl
@[simp] theorem State.modCore_flash (s : State) (n : Nat) (f : Core → Core) : (s.modCore n f).flash = s.flash := by
  unfold State.modCore; split <;> rfl
@[simp] theorem State.modCore_agenda (s : State) (n : Nat) (f : Core → Core) : (s.modCore n f).agenda = s.agenda := by
  unfold State.modCore; split <;> rfl
@[simp] theorem State.modCore_focus (s : State) (n : Nat) (f : Core → Core) : (s.modCore n f).focus = s.focus := by
  unfold State.modCore; split <;> rfl
@[simp] theorem State.modCore_curWord (s : State) (n : Nat) (f : Core → Core) : (s.modCore n f).curWord = s.curWord := by
  unfold State.modCore; split <;> rfl
@[simp] theorem State.modCore_fresh (s : State) (n : Nat) (f : Core → Core) : (s.modCore n f).fresh = s.fresh := by
  unfold State.modCore; split <;> rfl
@[simp] theorem State.modCore_nextId (s : State) (n : Nat) (f : Core → Core) : (s.modCore n f).nextId = s.nextId := by
  unfold State.modCore; split <;> rfl

theorem State.cores_at (s : State) (n : Nat) (h : n < 80) : s.cores[n]? = some (s.core n) := by
  simp [State.core, h]

/-- The core changed is `f` of what it was. -/
theorem State.core_modCore_self (s : State) (n : Nat) (f : Core → Core) (h : n < 80) :
    (s.modCore n f).core n = f (s.core n) := by
  simp [State.modCore, State.core, h]

/-- Every other core is as it was. -/
theorem State.core_modCore_other (s : State) (n x : Nat) (f : Core → Core) (h : x ≠ n) :
    (s.modCore n f).core x = s.core x := by
  unfold State.modCore
  split
  · simp only [State.core, Vector.getElem?_setIfInBounds, if_neg (Ne.symm h)]
  · rfl

/-- A core that the number does not name is not changed. -/
theorem State.modCore_out (s : State) (n : Nat) (f : Core → Core) (h : 80 ≤ n) : s.modCore n f = s := by
  have : s.cores[n]? = none := by simp [h]
  simp [State.modCore, this]

/-- Two changes of one core are one. -/
theorem State.modCore_modCore (s : State) (n : Nat) (f g : Core → Core) :
    (s.modCore n f).modCore n g = s.modCore n fun c => g (f c) := by
  by_cases h : n < 80
  · simp [State.modCore, h]
  · rw [State.modCore_out s n f (by omega), State.modCore_out s n g (by omega), State.modCore_out _ _ _ (by omega)]

/-- The state with a changed core is the old state but for its cores. -/
theorem State.modCore_eq (s : State) (n : Nat) (f : Core → Core) :
    s.modCore n f = { s with cores := (s.modCore n f).cores } := by
  unfold State.modCore; split <;> rfl

/-! One cluster, one translation unit changed. -/

@[simp] theorem State.modCluster_mem (s : State) (n : Nat) (f : Cluster → Cluster) : (s.modCluster n f).mem = s.mem := by
  unfold State.modCluster; split <;> rfl
@[simp] theorem State.modCluster_cores (s : State) (n : Nat) (f : Cluster → Cluster) : (s.modCluster n f).cores = s.cores := by
  unfold State.modCluster; split <;> rfl
@[simp] theorem State.modCluster_tlus (s : State) (n : Nat) (f : Cluster → Cluster) : (s.modCluster n f).tlus = s.tlus := by
  unfold State.modCluster; split <;> rfl
@[simp] theorem State.modCluster_flights (s : State) (n : Nat) (f : Cluster → Cluster) : (s.modCluster n f).flights = s.flights := by
  unfold State.modCluster; split <;> rfl
@[simp] theorem State.modCluster_resvs (s : State) (n : Nat) (f : Cluster → Cluster) : (s.modCluster n f).resvs = s.resvs := by
  unfold State.modCluster; split <;> rfl
@[simp] theorem State.modCluster_wakes (s : State) (n : Nat) (f : Cluster → Cluster) : (s.modCluster n f).wakes = s.wakes := by
  unfold State.modCluster; split <;> rfl
@[simp] theorem State.modCluster_sealed (s : State) (n : Nat) (f : Cluster → Cluster) : (s.modCluster n f).sealed = s.sealed := by
  unfold State.modCluster; split <;> rfl
@[simp] theorem State.modCluster_dsc (s : State) (n : Nat) (f : Cluster → Cluster) : (s.modCluster n f).dsc = s.dsc := by
  unfold State.modCluster; split <;> rfl
@[simp] theorem State.modCluster_station (s : State) (n : Nat) (f : Cluster → Cluster) : (s.modCluster n f).station = s.station := by
  unfold State.modCluster; split <;> rfl
@[simp] theorem State.modCluster_power (s : State) (n : Nat) (f : Cluster → Cluster) : (s.modCluster n f).power = s.power := by
  unfold State.modCluster; split <;> rfl
@[simp] theorem State.modCluster_rtc (s : State) (n : Nat) (f : Cluster → Cluster) : (s.modCluster n f).rtc = s.rtc := by
  unfold State.modCluster; split <;> rfl
@[simp] theorem State.modCluster_watch (s : State) (n : Nat) (f : Cluster → Cluster) : (s.modCluster n f).watch = s.watch := by
  unfold State.modCluster; split <;> rfl
@[simp] theorem State.modCluster_flash (s : State) (n : Nat) (f : Cluster → Cluster) : (s.modCluster n f).flash = s.flash := by
  unfold State.modCluster; split <;> rfl
@[simp] theorem State.modCluster_agenda (s : State) (n : Nat) (f : Cluster → Cluster) : (s.modCluster n f).agenda = s.agenda := by
  unfold State.modCluster; split <;> rfl
@[simp] theorem State.modCluster_focus (s : State) (n : Nat) (f : Cluster → Cluster) : (s.modCluster n f).focus = s.focus := by
  unfold State.modCluster; split <;> rfl
@[simp] theorem State.modCluster_curWord (s : State) (n : Nat) (f : Cluster → Cluster) : (s.modCluster n f).curWord = s.curWord := by
  unfold State.modCluster; split <;> rfl
@[simp] theorem State.modCluster_fresh (s : State) (n : Nat) (f : Cluster → Cluster) : (s.modCluster n f).fresh = s.fresh := by
  unfold State.modCluster; split <;> rfl
@[simp] theorem State.modCluster_nextId (s : State) (n : Nat) (f : Cluster → Cluster) : (s.modCluster n f).nextId = s.nextId := by
  unfold State.modCluster; split <;> rfl
@[simp] theorem State.modTlu_mem (s : State) (n : Nat) (f : Tlu → Tlu) : (s.modTlu n f).mem = s.mem := by
  unfold State.modTlu; split <;> rfl
@[simp] theorem State.modTlu_cores (s : State) (n : Nat) (f : Tlu → Tlu) : (s.modTlu n f).cores = s.cores := by
  unfold State.modTlu; split <;> rfl
@[simp] theorem State.modTlu_clusters (s : State) (n : Nat) (f : Tlu → Tlu) : (s.modTlu n f).clusters = s.clusters := by
  unfold State.modTlu; split <;> rfl
@[simp] theorem State.modTlu_flights (s : State) (n : Nat) (f : Tlu → Tlu) : (s.modTlu n f).flights = s.flights := by
  unfold State.modTlu; split <;> rfl
@[simp] theorem State.modTlu_resvs (s : State) (n : Nat) (f : Tlu → Tlu) : (s.modTlu n f).resvs = s.resvs := by
  unfold State.modTlu; split <;> rfl
@[simp] theorem State.modTlu_wakes (s : State) (n : Nat) (f : Tlu → Tlu) : (s.modTlu n f).wakes = s.wakes := by
  unfold State.modTlu; split <;> rfl
@[simp] theorem State.modTlu_sealed (s : State) (n : Nat) (f : Tlu → Tlu) : (s.modTlu n f).sealed = s.sealed := by
  unfold State.modTlu; split <;> rfl
@[simp] theorem State.modTlu_dsc (s : State) (n : Nat) (f : Tlu → Tlu) : (s.modTlu n f).dsc = s.dsc := by
  unfold State.modTlu; split <;> rfl
@[simp] theorem State.modTlu_station (s : State) (n : Nat) (f : Tlu → Tlu) : (s.modTlu n f).station = s.station := by
  unfold State.modTlu; split <;> rfl
@[simp] theorem State.modTlu_power (s : State) (n : Nat) (f : Tlu → Tlu) : (s.modTlu n f).power = s.power := by
  unfold State.modTlu; split <;> rfl
@[simp] theorem State.modTlu_rtc (s : State) (n : Nat) (f : Tlu → Tlu) : (s.modTlu n f).rtc = s.rtc := by
  unfold State.modTlu; split <;> rfl
@[simp] theorem State.modTlu_watch (s : State) (n : Nat) (f : Tlu → Tlu) : (s.modTlu n f).watch = s.watch := by
  unfold State.modTlu; split <;> rfl
@[simp] theorem State.modTlu_flash (s : State) (n : Nat) (f : Tlu → Tlu) : (s.modTlu n f).flash = s.flash := by
  unfold State.modTlu; split <;> rfl
@[simp] theorem State.modTlu_agenda (s : State) (n : Nat) (f : Tlu → Tlu) : (s.modTlu n f).agenda = s.agenda := by
  unfold State.modTlu; split <;> rfl
@[simp] theorem State.modTlu_focus (s : State) (n : Nat) (f : Tlu → Tlu) : (s.modTlu n f).focus = s.focus := by
  unfold State.modTlu; split <;> rfl
@[simp] theorem State.modTlu_curWord (s : State) (n : Nat) (f : Tlu → Tlu) : (s.modTlu n f).curWord = s.curWord := by
  unfold State.modTlu; split <;> rfl
@[simp] theorem State.modTlu_fresh (s : State) (n : Nat) (f : Tlu → Tlu) : (s.modTlu n f).fresh = s.fresh := by
  unfold State.modTlu; split <;> rfl
@[simp] theorem State.modTlu_nextId (s : State) (n : Nat) (f : Tlu → Tlu) : (s.modTlu n f).nextId = s.nextId := by
  unfold State.modTlu; split <;> rfl

theorem State.cluster_modCluster_self (s : State) (n : Nat) (f : Cluster → Cluster) (h : n < 10) :
    (s.modCluster n f).cluster n = f (s.cluster n) := by
  simp [State.modCluster, State.cluster, h]

theorem State.tlu_modTlu_self (s : State) (n : Nat) (f : Tlu → Tlu) (h : n < 16) :
    (s.modTlu n f).tlu n = f (s.tlu n) := by
  simp [State.modTlu, State.tlu, h]

@[simp] theorem State.core_modCluster (s : State) (n x : Nat) (f : Cluster → Cluster) :
    (s.modCluster n f).core x = s.core x := by simp [State.core]

@[simp] theorem State.core_modTlu (s : State) (n x : Nat) (f : Tlu → Tlu) : (s.modTlu n f).core x = s.core x := by
  simp [State.core]

/-! Bytes written. -/

@[simp] theorem State.write_cores (s : State) (a : Nat) (bs : List Byte) : (s.write a bs).cores = s.cores := rfl
@[simp] theorem State.write_clusters (s : State) (a : Nat) (bs : List Byte) : (s.write a bs).clusters = s.clusters := rfl
@[simp] theorem State.write_tlus (s : State) (a : Nat) (bs : List Byte) : (s.write a bs).tlus = s.tlus := rfl
@[simp] theorem State.write_flights (s : State) (a : Nat) (bs : List Byte) : (s.write a bs).flights = s.flights := rfl
@[simp] theorem State.write_wakes (s : State) (a : Nat) (bs : List Byte) : (s.write a bs).wakes = s.wakes := rfl
@[simp] theorem State.write_sealed (s : State) (a : Nat) (bs : List Byte) : (s.write a bs).sealed = s.sealed := rfl
@[simp] theorem State.write_dsc (s : State) (a : Nat) (bs : List Byte) : (s.write a bs).dsc = s.dsc := rfl
@[simp] theorem State.write_station (s : State) (a : Nat) (bs : List Byte) : (s.write a bs).station = s.station := rfl
@[simp] theorem State.write_power (s : State) (a : Nat) (bs : List Byte) : (s.write a bs).power = s.power := rfl
@[simp] theorem State.write_rtc (s : State) (a : Nat) (bs : List Byte) : (s.write a bs).rtc = s.rtc := rfl
@[simp] theorem State.write_flash (s : State) (a : Nat) (bs : List Byte) : (s.write a bs).flash = s.flash := rfl
@[simp] theorem State.write_agenda (s : State) (a : Nat) (bs : List Byte) : (s.write a bs).agenda = s.agenda := rfl
@[simp] theorem State.write_focus (s : State) (a : Nat) (bs : List Byte) : (s.write a bs).focus = s.focus := rfl
@[simp] theorem State.write_curWord (s : State) (a : Nat) (bs : List Byte) : (s.write a bs).curWord = s.curWord := rfl
@[simp] theorem State.write_fresh (s : State) (a : Nat) (bs : List Byte) : (s.write a bs).fresh = s.fresh := rfl
@[simp] theorem State.write_nextId (s : State) (a : Nat) (bs : List Byte) : (s.write a bs).nextId = s.nextId := rfl
@[simp] theorem State.poke_cores (s : State) (a n v : Nat) : (s.poke a n v).cores = s.cores := rfl
@[simp] theorem State.poke_clusters (s : State) (a n v : Nat) : (s.poke a n v).clusters = s.clusters := rfl
@[simp] theorem State.poke_tlus (s : State) (a n v : Nat) : (s.poke a n v).tlus = s.tlus := rfl
@[simp] theorem State.poke_flights (s : State) (a n v : Nat) : (s.poke a n v).flights = s.flights := rfl
@[simp] theorem State.poke_wakes (s : State) (a n v : Nat) : (s.poke a n v).wakes = s.wakes := rfl
@[simp] theorem State.poke_sealed (s : State) (a n v : Nat) : (s.poke a n v).sealed = s.sealed := rfl
@[simp] theorem State.poke_dsc (s : State) (a n v : Nat) : (s.poke a n v).dsc = s.dsc := rfl
@[simp] theorem State.poke_station (s : State) (a n v : Nat) : (s.poke a n v).station = s.station := rfl
@[simp] theorem State.poke_power (s : State) (a n v : Nat) : (s.poke a n v).power = s.power := rfl
@[simp] theorem State.poke_rtc (s : State) (a n v : Nat) : (s.poke a n v).rtc = s.rtc := rfl
@[simp] theorem State.poke_flash (s : State) (a n v : Nat) : (s.poke a n v).flash = s.flash := rfl
@[simp] theorem State.poke_agenda (s : State) (a n v : Nat) : (s.poke a n v).agenda = s.agenda := rfl
@[simp] theorem State.poke_focus (s : State) (a n v : Nat) : (s.poke a n v).focus = s.focus := rfl
@[simp] theorem State.poke_curWord (s : State) (a n v : Nat) : (s.poke a n v).curWord = s.curWord := rfl
@[simp] theorem State.poke_fresh (s : State) (a n v : Nat) : (s.poke a n v).fresh = s.fresh := rfl
@[simp] theorem State.poke_nextId (s : State) (a n v : Nat) : (s.poke a n v).nextId = s.nextId := rfl

@[simp] theorem State.core_write (s : State) (a x : Nat) (bs : List Byte) : (s.write a bs).core x = s.core x := rfl

@[simp] theorem State.core_poke (s : State) (a n v x : Nat) : (s.poke a n v).core x = s.core x := rfl

/-! A free value drawn. -/

@[simp] theorem State.drawn_mem (s : State) : s.drawn.mem = s.mem := rfl
@[simp] theorem State.drawn_cores (s : State) : s.drawn.cores = s.cores := rfl
@[simp] theorem State.drawn_clusters (s : State) : s.drawn.clusters = s.clusters := rfl
@[simp] theorem State.drawn_tlus (s : State) : s.drawn.tlus = s.tlus := rfl
@[simp] theorem State.drawn_flights (s : State) : s.drawn.flights = s.flights := rfl
@[simp] theorem State.drawn_resvs (s : State) : s.drawn.resvs = s.resvs := rfl
@[simp] theorem State.drawn_wakes (s : State) : s.drawn.wakes = s.wakes := rfl
@[simp] theorem State.drawn_sealed (s : State) : s.drawn.sealed = s.sealed := rfl
@[simp] theorem State.drawn_dsc (s : State) : s.drawn.dsc = s.dsc := rfl
@[simp] theorem State.drawn_station (s : State) : s.drawn.station = s.station := rfl
@[simp] theorem State.drawn_power (s : State) : s.drawn.power = s.power := rfl
@[simp] theorem State.drawn_rtc (s : State) : s.drawn.rtc = s.rtc := rfl
@[simp] theorem State.drawn_watch (s : State) : s.drawn.watch = s.watch := rfl
@[simp] theorem State.drawn_flash (s : State) : s.drawn.flash = s.flash := rfl
@[simp] theorem State.drawn_agenda (s : State) : s.drawn.agenda = s.agenda := rfl
@[simp] theorem State.drawn_focus (s : State) : s.drawn.focus = s.focus := rfl
@[simp] theorem State.drawn_curWord (s : State) : s.drawn.curWord = s.curWord := rfl
@[simp] theorem State.drawn_nextId (s : State) : s.drawn.nextId = s.nextId := rfl

@[simp] theorem State.drawn_fresh (s : State) : s.drawn.fresh = s.fresh + 1 := rfl

/-! A micro-thread changed. -/

@[simp] theorem Core.micro_setMicro_self (c : Core) (slot : Nat) (m : Micro) : (c.setMicro slot m).micro slot = m := by
  simp [Core.micro, Core.setMicro]

theorem Core.micro_setMicro_other (c : Core) (slot x : Nat) (m : Micro) (h : x ≠ slot) :
    (c.setMicro slot m).micro x = c.micro x := by
  simp [Core.micro, Core.setMicro, Tbl.get?_set_other _ _ _ _ h]

@[simp] theorem Core.micro_modMicro_self (c : Core) (slot : Nat) (f : Micro → Micro) :
    (c.modMicro slot f).micro slot = f (c.micro slot) := by simp [Core.modMicro]

theorem Core.micro_modMicro_other (c : Core) (slot x : Nat) (f : Micro → Micro) (h : x ≠ slot) :
    (c.modMicro slot f).micro x = c.micro x := by simp [Core.modMicro, Core.micro_setMicro_other _ _ _ _ h]

/-! Registers. -/

@[simp] theorem Micro.reg_setReg_self (m : Micro) (r : Reg) (v : Word) : (m.setReg r v).reg r = v := by
  simp [Micro.reg, Micro.setReg]

theorem Micro.reg_setReg_other (m : Micro) (r x : Reg) (v : Word) (h : x ≠ r) : (m.setReg r v).reg x = m.reg x := by
  simp only [Micro.reg, Micro.setReg]
  rw [Vector.getElem_set_ne]
  intro e
  exact h (BitVec.eq_of_toNat_eq e.symm)

@[simp] theorem Micro.setReg_gen (m : Micro) (r : Reg) (v : Word) : (m.setReg r v).gen = m.gen := rfl
@[simp] theorem Micro.setReg_owner (m : Micro) (r : Reg) (v : Word) : (m.setReg r v).owner = m.owner := rfl
@[simp] theorem Micro.setReg_life (m : Micro) (r : Reg) (v : Word) : (m.setReg r v).life = m.life := rfl
@[simp] theorem Micro.setReg_held (m : Micro) (r : Reg) (v : Word) : (m.setReg r v).held = m.held := rfl
@[simp] theorem Micro.setReg_mode (m : Micro) (r : Reg) (v : Word) : (m.setReg r v).mode = m.mode := rfl
@[simp] theorem Micro.setReg_pend (m : Micro) (r : Reg) (v : Word) : (m.setReg r v).pend = m.pend := rfl
@[simp] theorem Micro.setReg_preds (m : Micro) (r : Reg) (v : Word) : (m.setReg r v).preds = m.preds := rfl
@[simp] theorem Micro.setReg_pc (m : Micro) (r : Reg) (v : Word) : (m.setReg r v).pc = m.pc := rfl
@[simp] theorem Micro.setReg_fflags (m : Micro) (r : Reg) (v : Word) : (m.setReg r v).fflags = m.fflags := rfl
@[simp] theorem Micro.setReg_frm (m : Micro) (r : Reg) (v : Word) : (m.setReg r v).frm = m.frm := rfl
@[simp] theorem Micro.setReg_csp (m : Micro) (r : Reg) (v : Word) : (m.setReg r v).csp = m.csp := rfl
@[simp] theorem Micro.setReg_mailbox (m : Micro) (r : Reg) (v : Word) : (m.setReg r v).mailbox = m.mailbox := rfl
@[simp] theorem Micro.setReg_cych (m : Micro) (r : Reg) (v : Word) : (m.setReg r v).cych = m.cych := rfl
@[simp] theorem Micro.setReg_resume (m : Micro) (r : Reg) (v : Word) : (m.setReg r v).resume = m.resume := rfl
@[simp] theorem Micro.setReg_bud (m : Micro) (r : Reg) (v : Word) : (m.setReg r v).bud = m.bud := rfl
@[simp] theorem Micro.setReg_role (m : Micro) (r : Reg) (v : Word) : (m.setReg r v).role = m.role := rfl
@[simp] theorem Micro.setReg_await (m : Micro) (r : Reg) (v : Word) : (m.setReg r v).await = m.await := rfl
@[simp] theorem Micro.setReg_callq (m : Micro) (r : Reg) (v : Word) : (m.setReg r v).callq = m.callq := rfl
@[simp] theorem Micro.setReg_linked (m : Micro) (r : Reg) (v : Word) : (m.setReg r v).linked = m.linked := rfl
@[simp] theorem Micro.setReg_linkDst (m : Micro) (r : Reg) (v : Word) : (m.setReg r v).linkDst = m.linkDst := rfl
@[simp] theorem Micro.setReg_nextWaiter (m : Micro) (r : Reg) (v : Word) : (m.setReg r v).nextWaiter = m.nextWaiter := rfl
@[simp] theorem Micro.setReg_cvWaits (m : Micro) (r : Reg) (v : Word) : (m.setReg r v).cvWaits = m.cvWaits := rfl
@[simp] theorem Micro.setReg_lvWaits (m : Micro) (r : Reg) (v : Word) : (m.setReg r v).lvWaits = m.lvWaits := rfl
@[simp] theorem Micro.setReg_evWaits (m : Micro) (r : Reg) (v : Word) : (m.setReg r v).evWaits = m.evWaits := rfl
@[simp] theorem Micro.setReg_quitting (m : Micro) (r : Reg) (v : Word) : (m.setReg r v).quitting = m.quitting := rfl
@[simp] theorem Micro.setReg_joinWaits (m : Micro) (r : Reg) (v : Word) : (m.setReg r v).joinWaits = m.joinWaits := rfl
@[simp] theorem Micro.setReg_yielding (m : Micro) (r : Reg) (v : Word) : (m.setReg r v).yielding = m.yielding := rfl
@[simp] theorem Micro.setReg_rearmed (m : Micro) (r : Reg) (v : Word) : (m.setReg r v).rearmed = m.rearmed := rfl
@[simp] theorem Micro.setReg_arrived (m : Micro) (r : Reg) (v : Word) : (m.setReg r v).arrived = m.arrived := rfl
@[simp] theorem Micro.setReg_late (m : Micro) (r : Reg) (v : Word) : (m.setReg r v).late = m.late := rfl
@[simp] theorem Micro.setReg_pos (m : Micro) (r : Reg) (v : Word) : (m.setReg r v).pos = m.pos := rfl
@[simp] theorem Micro.setReg_fault (m : Micro) (r : Reg) (v : Word) : (m.setReg r v).fault = m.fault := rfl
@[simp] theorem Micro.setReg_deferred (m : Micro) (r : Reg) (v : Word) : (m.setReg r v).deferred = m.deferred := rfl
@[simp] theorem Micro.setReg_parkedOn (m : Micro) (r : Reg) (v : Word) : (m.setReg r v).parkedOn = m.parkedOn := rfl
@[simp] theorem Micro.setReg_codePark (m : Micro) (r : Reg) (v : Word) : (m.setReg r v).codePark = m.codePark := rfl
@[simp] theorem Micro.setReg_since (m : Micro) (r : Reg) (v : Word) : (m.setReg r v).since = m.since := rfl
/-- A register written has no uncorrectable error, and the others stay as they are (R284). -/
@[simp] theorem Micro.setReg_bad (m : Micro) (r : Reg) (v : Word) : (m.setReg r v).bad = m.bad &&& ~~~(1#64 <<< r.toNat) := rfl
@[simp] theorem Micro.setReg_from_ (m : Micro) (r : Reg) (v : Word) : (m.setReg r v).from_ = m.from_ := rfl

end Sys2Proof.Machine
end

