-- ==== Sys2Proof/Laws/Lanes.lean ====
section
/-! SUPPORT. What the turn of a group gives for instructions that reach registers only: one lemma says everything. -/

namespace Sys2Proof.Machine

/-- The parts of the turn a group in focus has. -/
theorem State.seat_parts {s : State} {n k : Nat} {c : Core} {g : Group} (h : s.seat? = some (n, k, c, g)) :
    n < 80 ∧ s.core n = c ∧ Tbl.get? c.groups k = some g ∧ ∃ p r, s.focus = .group n p r ∧ k = p * 8 + r := by
  unfold State.seat? at h
  split at h
  · rename_i n' p r hf
    split at h
    · rename_i c' hc
      split at h
      · rename_i g' hg
        obtain ⟨rfl, rfl, rfl, rfl⟩ : n' = n ∧ p * 8 + r = k ∧ c' = c ∧ g' = g := by simpa using h
        refine ⟨?_, ?_, hg, p, r, hf, rfl⟩
        · by_contra hn
          simp [Nat.le_of_not_lt hn] at hc
        · simp [State.core, hc]
      · simp at h
    · simp at h
  · simp at h

@[simp] theorem Core.charge_slots (c : Core) (l w : Nat) : (c.charge l w).slots = c.slots := by
  unfold Core.charge; split <;> rfl

/-- Charging changes budgets only. -/
theorem Core.charge_eq (c : Core) (l w : Nat) : c.charge l w = { c with res := (c.charge l w).res } := by
  unfold Core.charge; split <;> rfl

theorem Core.charge_res (c : Core) (l w x : Nat) :
    Tbl.get? (c.charge l w).res x =
      (Tbl.get? c.res x).map fun r => { r with budget := ((Tbl.get? (c.charge l w).res x).map Res.budget).getD 0 } := by
  unfold Core.charge
  split
  · by_cases h : x = l
    · subst h; cases hx : Tbl.get? c.res x <;> simp [Core.modRes, hx]
    · simp only [Core.modRes, Tbl.get?_modify_other _ _ _ _ h]
      cases Tbl.get? c.res x <;> rfl
  · cases Tbl.get? c.res x <;> rfl

@[simp] theorem Core.endTurn_slots (c : Core) (k : Nat) (g : Group) (len w : Nat) (ll : Bool) :
    (c.endTurn k g len w ll).slots = c.slots := by simp [Core.endTurn]

/-- The turn of a group changes its members, the group's place and budgets. -/
theorem onlyMembers_turn (s : State) (n k : Nat) (g : Group) (slots : Tbl Micro) (len w : Nat) (ll : Bool)
    (hn : n < 80) (hs : ∀ x, x ∉ g.members → Tbl.get? slots x = Tbl.get? (s.core n).slots x) :
    OnlyMembers n g s
      (s.modCore n fun _ => Core.endTurn { s.core n with slots := slots } k g len w ll) := by
  have hc := State.core_modCore_self s n (fun _ => Core.endTurn { s.core n with slots := slots } k g len w ll) hn
  refine ⟨⟨State.modCore_eq s n _, fun x hx => State.core_modCore_other s n x _ hx⟩, fun x hx => ?_, ?_, fun l => ?_⟩
  · simp only [State.microAt, hc, Core.endTurn_slots, hs x hx]
  · rw [hc]
    have h := Core.charge_eq { s.core n with slots := slots } g.launch
      (w * g.members.length)
    simp only [Core.endTurn]
    rw [h]
  · have h := Core.charge_res { s.core n with slots := slots } g.launch
      (w * g.members.length) l
    rw [State.res?, State.res?, hc]
    exact h

/-- The turn of an instruction that reaches registers only (R87, R178): the member's new state or its fault, and what stays. -/
theorem lanes_spec {s : State} {n k : Nat} {g : Group} {slot : Nat} {m : Micro} (len w : Nat)
    (f : Core → Nat → Micro → Except Flt Micro) (h : s.Member n k g slot m) :
    ∃ t, lanes len w f s = .next t ∧ OnlyMembers n g s t ∧
      t.microAt n slot = some (match f (s.core n) slot m with
        | .ok x => x
        | .error e => m.takeFault (e.info m g.fig g.off len g.ll s.curWord none (s.core n).eligible)) := by
  obtain ⟨⟨c, hs⟩, hm, hx⟩ := h
  obtain ⟨hn, hc, hg, -⟩ := State.seat_parts hs
  subst hc
  refine ⟨_, by rw [lanes, hs], ?_, ?_⟩
  · refine onlyMembers_turn s n k g _ len w false hn fun x hx => ?_
    simp only [Tbl.get?_mapKV]
    cases Tbl.get? (s.core n).slots x with
    | none => rfl
    | some y => simp [hx]
  · simp only [State.microAt] at hx ⊢
    rw [State.core_modCore_self _ _ _ hn]
    cases hf : f (s.core n) slot m <;>
      simp only [Core.endTurn_slots, Core.runLanes, Tbl.get?_mapKV, hx, Option.map_some, List.contains_eq_mem, hm, decide_true, ite_true, hf]

/-- A register-only instruction whose members are ready gives its result (see `LaneResult`). -/
theorem LaneResult.of_lanes {i : Instr} {ready : Micro → Prop} {r : Micro → Micro} {len w : Nat}
    {f : Core → Nat → Micro → Except Flt Micro} (he : ∀ s, exec i s = lanes len w f s)
    (hf : ∀ c slot m, ready m → f c slot m = .ok (r m)) : LaneResult i ready r := by
  intro s n k g slot m h hr
  obtain ⟨t, ht, ho, hm⟩ := lanes_spec len w f h
  refine ⟨t, (he s).trans ht, ?_, ho⟩
  rw [hm, hf _ _ _ hr]

/-- Codes that are ready pass the check against the budget. -/
theorem Micro.need_ok {m : Micro} {rs : List Reg} (h : m.Ready rs) : m.need rs = .ok () := by
  have : rs.all m.codeOk = true := List.all_eq_true.2 fun r hr => (h r hr).1
  simp [Micro.need, this]

/-- A ready source is read. -/
theorem Micro.rd_ok {m : Micro} {r : Reg} (h : m.Settled r) : m.rd r = .ok (m.reg r) := by
  simp [Micro.rd, h.1, h.2]

/-- No code of a group is pending. -/
theorem Micro.pending_none {m : Micro} {r : Reg} {n : Nat} (h : ∀ x ∈ groupCodes r n, m.Settled x) :
    m.pending? r n = none := by
  simpa [Micro.pending?] using fun x hx => (h x hx).1

/-- No word of a group has an uncorrectable error. -/
theorem Micro.broken_none {m : Micro} {r : Reg} {n : Nat} (h : ∀ x ∈ groupCodes r n, m.Settled x) :
    m.broken? r n = none := by
  simpa [Micro.broken?] using fun x hx => (h x hx).2

/-- Settled sources pass the check of a group. -/
theorem Micro.rdOk_ok {m : Micro} {r : Reg} {n : Nat} (h : ∀ x ∈ groupCodes r n, m.Settled x) : m.rdOk r n = .ok () := by
  simp [Micro.rdOk, Micro.pending_none h, Micro.broken_none h]

/-- A ready destination is accepted. -/
theorem Micro.wrOk_ok {m : Micro} {r : Reg} {n : Nat} (h : ∀ x ∈ groupCodes r n, m.Settled x) :
    m.wrOk r n = .ok () := by
  simp [Micro.wrOk, Micro.pending_none h]

/-- A ready pair is read. -/
theorem Micro.rdPair_ok {m : Micro} {r : Reg} (h : ∀ x ∈ groupCodes r 2, m.Settled x) :
    m.rdPair r = .ok (m.pair r) := by
  simp [Micro.rdPair, Micro.rdOk_ok h, Micro.pair]
  rfl

/-- A ready group is read. -/
theorem Micro.rdGroup_ok {m : Micro} {r : Reg} {n : Nat} (h : ∀ x ∈ groupCodes r n, m.Settled x) :
    m.rdGroup r n = .ok ((groupCodes r n).map m.reg) := by
  simp [Micro.rdGroup, Micro.rdOk_ok h]
  rfl

@[simp] theorem groupCodes_one (r : Reg) : groupCodes r 1 = [r] := by
  simp [groupCodes, List.range_succ]

@[simp] theorem groupCodes_two (r : Reg) : groupCodes r 2 = [r, r + 1#6] := by
  simp [groupCodes, List.range_succ]

/-- Ready codes are ready one by one. -/
theorem Micro.Ready.sub {m : Micro} {rs qs : List Reg} (h : m.Ready rs) (hs : ∀ x ∈ qs, x ∈ rs) : m.Ready qs :=
  fun r hr => h r (hs r hr)

/-- Ready codes of a group are not pending. -/
theorem Micro.Ready.clear {m : Micro} {rs : List Reg} (h : m.Ready rs) {qs : List Reg} (hs : ∀ x ∈ qs, x ∈ rs) :
    ∀ x ∈ qs, m.Settled x := fun r hr => (h r (hs r hr)).2

/-! One law per operand form: what it gives when its operands are ready. -/

theorem Micro.op2_ready {m : Micro} {f : Word → Word → Word} {d a b : Reg} (h : m.Ready ([d, a, b])) :
    m.op2 f d a b = .ok (m.setReg d (f (m.reg a) (m.reg b))) := by
  simp only [Micro.op2, Micro.need_ok (rs := [d, a, b]) (h.sub (by simp)),
    Micro.rd_ok (h a (by simp)).2,
    Micro.rd_ok (h b (by simp)).2,
    Micro.wrOk_ok (r := d) (n := 1) (h.clear (qs := groupCodes d 1) (by simp)), bind, Except.bind]

theorem Micro.op1_ready {m : Micro} {f : Word → Word} {d a : Reg} (h : m.Ready ([d, a])) :
    m.op1 f d a = .ok (m.setReg d (f (m.reg a))) := by
  simp only [Micro.op1, Micro.need_ok (rs := [d, a]) (h.sub (by simp)),
    Micro.rd_ok (h a (by simp)).2,
    Micro.wrOk_ok (r := d) (n := 1) (h.clear (qs := groupCodes d 1) (by simp)), bind, Except.bind]

theorem Micro.op3_ready {m : Micro} {f : Word → Word → Word → Word} {d a b c : Reg} (h : m.Ready ([d, a, b, c])) :
    m.op3 f d a b c = .ok (m.setReg d (f (m.reg a) (m.reg b) (m.reg c))) := by
  simp only [Micro.op3, Micro.need_ok (rs := [d, a, b, c]) (h.sub (by simp)),
    Micro.rd_ok (h a (by simp)).2,
    Micro.rd_ok (h b (by simp)).2,
    Micro.rd_ok (h c (by simp)).2,
    Micro.wrOk_ok (r := d) (n := 1) (h.clear (qs := groupCodes d 1) (by simp)), bind, Except.bind]

theorem Micro.opD2_ready {m : Micro} {f : DWord → DWord → DWord} {d a b : Reg} (h : m.Ready (pairOf d ++ pairOf a ++ pairOf b)) :
    m.opD2 f d a b = .ok (m.setPair d (f (m.pair a) (m.pair b))) := by
  simp only [Micro.opD2, Micro.need_ok (rs := [d, a, b]) (h.sub (by simp [pairOf])),
    Micro.rdPair_ok (r := a) (h.clear (qs := groupCodes a 2) (by simp [pairOf])),
    Micro.rdPair_ok (r := b) (h.clear (qs := groupCodes b 2) (by simp [pairOf])),
    Micro.wrOk_ok (r := d) (n := 2) (h.clear (qs := groupCodes d 2) (by simp [pairOf])), bind, Except.bind]

theorem Micro.opD1_ready {m : Micro} {f : DWord → DWord} {d a : Reg} (h : m.Ready (pairOf d ++ pairOf a)) :
    m.opD1 f d a = .ok (m.setPair d (f (m.pair a))) := by
  simp only [Micro.opD1, Micro.need_ok (rs := [d, a]) (h.sub (by simp [pairOf])),
    Micro.rdPair_ok (r := a) (h.clear (qs := groupCodes a 2) (by simp [pairOf])),
    Micro.wrOk_ok (r := d) (n := 2) (h.clear (qs := groupCodes d 2) (by simp [pairOf])), bind, Except.bind]

theorem Micro.opWD_ready {m : Micro} {f : Word → Word → DWord} {d a b : Reg} (h : m.Ready (pairOf d ++ [a, b])) :
    m.opWD f d a b = .ok (m.setPair d (f (m.reg a) (m.reg b))) := by
  simp only [Micro.opWD, Micro.need_ok (rs := [d, a, b]) (h.sub (by simp [pairOf])),
    Micro.rd_ok (h a (by simp [pairOf])).2,
    Micro.rd_ok (h b (by simp [pairOf])).2,
    Micro.wrOk_ok (r := d) (n := 2) (h.clear (qs := groupCodes d 2) (by simp [pairOf])), bind, Except.bind]

theorem Micro.fop2_ready {m : Micro} {f : Word → Word → FpRes} {d a b : Reg} (h : m.Ready ([d, a, b])) :
    m.fop2 f d a b = .ok ((m.setReg d (BitVec.ofNat 32 (f (m.reg a) (m.reg b)).1)).raise (f (m.reg a) (m.reg b)).2) := by
  simp only [Micro.fop2, Micro.need_ok (rs := [d, a, b]) (h.sub (by simp)),
    Micro.rd_ok (h a (by simp)).2,
    Micro.rd_ok (h b (by simp)).2,
    Micro.wrOk_ok (r := d) (n := 1) (h.clear (qs := groupCodes d 1) (by simp)), bind, Except.bind]

theorem Micro.fop1_ready {m : Micro} {f : Word → FpRes} {d a : Reg} (h : m.Ready ([d, a])) :
    m.fop1 f d a = .ok ((m.setReg d (BitVec.ofNat 32 (f (m.reg a)).1)).raise (f (m.reg a)).2) := by
  simp only [Micro.fop1, Micro.need_ok (rs := [d, a]) (h.sub (by simp)),
    Micro.rd_ok (h a (by simp)).2,
    Micro.wrOk_ok (r := d) (n := 1) (h.clear (qs := groupCodes d 1) (by simp)), bind, Except.bind]

theorem Micro.fop3_ready {m : Micro} {f : Word → Word → Word → FpRes} {d a b c : Reg} (h : m.Ready ([d, a, b, c])) :
    m.fop3 f d a b c = .ok ((m.setReg d (BitVec.ofNat 32 (f (m.reg a) (m.reg b) (m.reg c)).1)).raise (f (m.reg a) (m.reg b) (m.reg c)).2) := by
  simp only [Micro.fop3, Micro.need_ok (rs := [d, a, b, c]) (h.sub (by simp)),
    Micro.rd_ok (h a (by simp)).2,
    Micro.rd_ok (h b (by simp)).2,
    Micro.rd_ok (h c (by simp)).2,
    Micro.wrOk_ok (r := d) (n := 1) (h.clear (qs := groupCodes d 1) (by simp)), bind, Except.bind]

theorem Micro.dop2_ready {m : Micro} {f : DWord → DWord → FpRes} {d a b : Reg} (h : m.Ready (pairOf d ++ pairOf a ++ pairOf b)) :
    m.dop2 f d a b = .ok ((m.setPair d (BitVec.ofNat 64 (f (m.pair a) (m.pair b)).1)).raise (f (m.pair a) (m.pair b)).2) := by
  simp only [Micro.dop2, Micro.need_ok (rs := [d, a, b]) (h.sub (by simp [pairOf])),
    Micro.rdPair_ok (r := a) (h.clear (qs := groupCodes a 2) (by simp [pairOf])),
    Micro.rdPair_ok (r := b) (h.clear (qs := groupCodes b 2) (by simp [pairOf])),
    Micro.wrOk_ok (r := d) (n := 2) (h.clear (qs := groupCodes d 2) (by simp [pairOf])), bind, Except.bind]

theorem Micro.dop1_ready {m : Micro} {f : DWord → FpRes} {d a : Reg} (h : m.Ready (pairOf d ++ pairOf a)) :
    m.dop1 f d a = .ok ((m.setPair d (BitVec.ofNat 64 (f (m.pair a)).1)).raise (f (m.pair a)).2) := by
  simp only [Micro.dop1, Micro.need_ok (rs := [d, a]) (h.sub (by simp [pairOf])),
    Micro.rdPair_ok (r := a) (h.clear (qs := groupCodes a 2) (by simp [pairOf])),
    Micro.wrOk_ok (r := d) (n := 2) (h.clear (qs := groupCodes d 2) (by simp [pairOf])), bind, Except.bind]

theorem Micro.dop3_ready {m : Micro} {f : DWord → DWord → DWord → FpRes} {d a b c : Reg} (h : m.Ready (pairOf d ++ pairOf a ++ pairOf b ++ pairOf c)) :
    m.dop3 f d a b c = .ok ((m.setPair d (BitVec.ofNat 64 (f (m.pair a) (m.pair b) (m.pair c)).1)).raise (f (m.pair a) (m.pair b) (m.pair c)).2) := by
  simp only [Micro.dop3, Micro.need_ok (rs := [d, a, b, c]) (h.sub (by simp [pairOf])),
    Micro.rdPair_ok (r := a) (h.clear (qs := groupCodes a 2) (by simp [pairOf])),
    Micro.rdPair_ok (r := b) (h.clear (qs := groupCodes b 2) (by simp [pairOf])),
    Micro.rdPair_ok (r := c) (h.clear (qs := groupCodes c 2) (by simp [pairOf])),
    Micro.wrOk_ok (r := d) (n := 2) (h.clear (qs := groupCodes d 2) (by simp [pairOf])), bind, Except.bind]

theorem Micro.fopWD_ready {m : Micro} {f : Word → FpRes} {d a : Reg} (h : m.Ready (pairOf d ++ [a])) :
    m.fopWD f d a = .ok ((m.setPair d (BitVec.ofNat 64 (f (m.reg a)).1)).raise (f (m.reg a)).2) := by
  simp only [Micro.fopWD, Micro.need_ok (rs := [d, a]) (h.sub (by simp [pairOf])),
    Micro.rd_ok (h a (by simp [pairOf])).2,
    Micro.wrOk_ok (r := d) (n := 2) (h.clear (qs := groupCodes d 2) (by simp [pairOf])), bind, Except.bind]

theorem Micro.fopDW_ready {m : Micro} {f : DWord → FpRes} {d a : Reg} (h : m.Ready ([d] ++ pairOf a)) :
    m.fopDW f d a = .ok ((m.setReg d (BitVec.ofNat 32 (f (m.pair a)).1)).raise (f (m.pair a)).2) := by
  simp only [Micro.fopDW, Micro.need_ok (rs := [d, a]) (h.sub (by simp [pairOf])),
    Micro.rdPair_ok (r := a) (h.clear (qs := groupCodes a 2) (by simp [pairOf])),
    Micro.wrOk_ok (r := d) (n := 1) (h.clear (qs := groupCodes d 1) (by simp [pairOf])), bind, Except.bind]

theorem Micro.op0_ready {m : Micro} {v : Word} {d : Reg} (h : m.Ready [d]) : m.op0 v d = .ok (m.setReg d v) := by
  simp only [Micro.op0, Micro.need_ok h, Micro.wrOk_ok (r := d) (n := 1) (h.clear (qs := groupCodes d 1) (by simp)), bind, Except.bind]

/-- A predicate written, as a record (R17). -/
theorem Micro.setPred_eq (m : Micro) (p : PReg) (v : Bool) :
    m.setPred p v =
      { m with preds := if p = 7#3 then m.preds else if v then m.preds ||| (1#7 <<< p.toNat)
                        else m.preds &&& ~~~(1#7 <<< p.toNat) } := by
  unfold Micro.setPred
  split <;> rfl

theorem Micro.cmp2_ready {m : Micro} {f : Word → Word → Bool × FFlags} {p : PReg} {a b : Reg} (h : m.Ready [a, b]) :
    m.cmp2 f p a b = .ok ((m.setPred p (f (m.reg a) (m.reg b)).1).raise (f (m.reg a) (m.reg b)).2) := by
  simp only [Micro.cmp2, Micro.need_ok h, Micro.rd_ok (h a (by simp)).2, Micro.rd_ok (h b (by simp)).2, bind, Except.bind]

theorem Micro.cmpD2_ready {m : Micro} {f : DWord → DWord → Bool × FFlags} {p : PReg} {a b : Reg}
    (h : m.Ready (pairOf a ++ pairOf b)) :
    m.cmpD2 f p a b = .ok ((m.setPred p (f (m.pair a) (m.pair b)).1).raise (f (m.pair a) (m.pair b)).2) := by
  simp only [Micro.cmpD2, Micro.need_ok (h.sub (qs := [a, b]) (by simp [pairOf])),
    Micro.rdPair_ok (r := a) (h.clear (qs := groupCodes a 2) (by simp [pairOf])), Micro.rdPair_ok (r := b) (h.clear (qs := groupCodes b 2) (by simp [pairOf])),
    bind, Except.bind]

theorem Micro.cmpImm_ready {m : Micro} {f : Word → Bool} {p : PReg} {a : Reg} (h : m.Ready [a]) :
    m.cmpImm f p a = .ok (m.setPred p (f (m.reg a))) := by
  simp only [Micro.cmpImm, Micro.need_ok h, Micro.rd_ok (h a (by simp)).2, bind, Except.bind]

/-! From the operand forms to the results of instructions. -/

theorem Writes.of_alu {i : Instr} {rs : List Reg} {d : Reg} {v : Micro → Word} {len w : Nat}
    {f : Micro → Except Flt Micro} (he : ∀ s, exec i s = lanes len w (fun _ _ m => f m) s)
    (hf : ∀ m, m.Ready rs → f m = .ok (m.setReg d (v m))) : Writes i rs d v :=
  LaneResult.of_lanes he fun _ _ m hr => hf m hr

theorem WritesPair.of_alu {i : Instr} {rs : List Reg} {d : Reg} {v : Micro → DWord} {len w : Nat}
    {f : Micro → Except Flt Micro} (he : ∀ s, exec i s = lanes len w (fun _ _ m => f m) s)
    (hf : ∀ m, m.Ready rs → f m = .ok (m.setPair d (v m))) : WritesPair i rs d v :=
  LaneResult.of_lanes he fun _ _ m hr => hf m hr

end Sys2Proof.Machine
end

