-- ==== Sys2Proof/Laws/Memory.lean ====
section
/-! SUPPORT. Memory: a read after a write, and the canonical form under every write (log 1). -/

namespace Sys2Proof.Machine

theorem Memory.wf_iff (m : List Host.Cell) :
    Memory.wf m = true ↔ Tbl.sorted m = true ∧ ∀ c ∈ m, c.2 ≠ 0#8 := by
  simp [Memory.wf]

/-- A byte written keeps the canonical form. -/
theorem Memory.wf_write1 (m : List Host.Cell) (a : Nat) (b : Byte) (h : Memory.wf m = true) :
    Memory.wf (Memory.write1 m a b) = true := by
  rw [Memory.wf_iff] at h ⊢
  unfold Memory.write1
  split
  · exact ⟨Tbl.sorted_erase m a h.1, fun c hc => h.2 c (Tbl.mem_erase m a c hc)⟩
  · refine ⟨Tbl.sorted_set m a b h.1, fun c hc => ?_⟩
    rcases Tbl.mem_set m a b c hc with rfl | hc
    · assumption
    · exact h.2 c hc

/-- Bytes written keep the canonical form. -/
theorem Memory.wf_writeN (m : List Host.Cell) (a : Nat) (bs : List Byte) (h : Memory.wf m = true) :
    Memory.wf (Memory.writeN m a bs) = true := by
  induction bs generalizing m a with
  | nil => exact h
  | cons b r ih => exact ih _ _ (Memory.wf_write1 m a b h)

/-- A byte written is read. -/
theorem Memory.read1_write1_self (m : List Host.Cell) (a : Nat) (b : Byte) (h : Memory.wf m = true) :
    Memory.read1 (Memory.write1 m a b) a = b := by
  rw [Memory.wf_iff] at h
  unfold Memory.read1 Memory.write1
  split
  · rw [Tbl.get?_erase_self m a h.1]; simp [*]
  · simp

/-- A byte written leaves every other address as it was. -/
theorem Memory.read1_write1_other (m : List Host.Cell) (a x : Nat) (b : Byte) (h : x ≠ a) :
    Memory.read1 (Memory.write1 m a b) x = Memory.read1 m x := by
  unfold Memory.read1 Memory.write1
  split
  · rw [Tbl.get?_erase_other m a x h]
  · rw [Tbl.get?_set_other m a x b h]

/-- Bytes written leave every address outside them as it was. -/
theorem Memory.read1_writeN_other (m : List Host.Cell) (a x : Nat) (bs : List Byte) (h : x < a ∨ a + bs.length ≤ x) :
    Memory.read1 (Memory.writeN m a bs) x = Memory.read1 m x := by
  induction bs generalizing m a with
  | nil => rfl
  | cons b r ih =>
    simp only [List.length_cons] at h
    rw [Memory.writeN, ih _ _ (by omega), Memory.read1_write1_other _ _ _ _ (by omega)]

/-- Bytes written are read. -/
theorem Memory.readN_writeN_self (m : List Host.Cell) (a : Nat) (bs : List Byte) (h : Memory.wf m = true) :
    Memory.readN (Memory.writeN m a bs) a bs.length = bs := by
  induction bs generalizing m a with
  | nil => rfl
  | cons b r ih =>
    simp only [List.length_cons, Memory.readN, Memory.writeN]
    rw [ih _ _ (Memory.wf_write1 m a b h), Memory.read1_writeN_other _ _ _ _ (by omega),
      Memory.read1_write1_self m a b h]

/-- Bytes of a number, read as a number. -/
theorem natOfBytes_bytesOfNat (n v : Nat) : natOfBytes (bytesOfNat n v) = v % 256 ^ n := by
  induction n generalizing v with
  | zero => simp [bytesOfNat, natOfBytes, Nat.mod_one]
  | succ n ih =>
    simp only [bytesOfNat, natOfBytes, ih, BitVec.toNat_ofNat]
    have : (2 : Nat) ^ 8 = 256 := rfl
    rw [this, Nat.pow_succ', Nat.mod_mul]

@[simp] theorem bytesOfNat_length (n v : Nat) : (bytesOfNat n v).length = n := by
  induction n generalizing v with
  | zero => rfl
  | succ n ih => simp [bytesOfNat, ih]

/-- What `poke` writes, `peek` reads. -/
theorem State.peek_poke_self (s : State) (a n v : Nat) (h : Memory.wf s.mem = true) :
    (s.poke a n v).peek a n = v % 256 ^ n := by
  have hl := bytesOfNat_length n v
  simp only [State.peek, State.poke, State.write]
  conv => lhs; arg 1; arg 3; rw [← hl]
  rw [Memory.readN_writeN_self _ _ _ h, natOfBytes_bytesOfNat]

end Sys2Proof.Machine
end

