-- ==== Sys2Proof/Laws/PerInstr.lean ====
section
/-! SUPPORT. What holds of every instruction as syntax, one lemma per constructor: how many halfwords its encoding has. -/

namespace Sys2Proof.Laws.EncodedLength

/-- R69, R71, R83, R305: an encoding is one halfword, two, or four with an extension word; only a micro-thread's has other than two. -/
def Statement (i : Instr) : Prop := ∀ isa hs, encode i = some (isa, hs) →
  (hs.length = 1 ∨ hs.length = 2 ∨ hs.length = 4) ∧ (hs.length ≠ 2 → isa = .micro)

/-- An event, or an instruction whose encoding is the RISC-V standard's, has none. -/
theorem of_none {i : Instr} (h : encode i = none) : Statement i := fun _ _ h' => by rw [h] at h'; cases h'

/-- One word. -/
theorem of_two {i : Instr} {isa : Isa} {a b : Half} (h : encode i = some (isa, [a, b])) : Statement i := fun _ _ h' => by
  rw [h] at h'; cases h'; exact ⟨.inr (.inl rfl), fun h => absurd rfl h⟩

/-- One halfword. -/
theorem of_one {i : Instr} {a : Half} (h : encode i = some (.micro, [a])) : Statement i := fun _ _ h' => by
  rw [h] at h'; cases h'; exact ⟨.inl rfl, fun _ => rfl⟩

/-- A word and its extension. -/
theorem of_four {i : Instr} {a b c d : Half} (h : encode i = some (.micro, [a, b, c, d])) : Statement i := fun _ _ h' => by
  rw [h] at h'; cases h'; exact ⟨.inr (.inr rfl), fun _ => rfl⟩

theorem add (x0 x1 x2 : Reg) : Statement (.add x0 x1 x2) := of_two rfl
theorem sub (x0 x1 x2 : Reg) : Statement (.sub x0 x1 x2) := of_two rfl
theorem and (x0 x1 x2 : Reg) : Statement (.and x0 x1 x2) := of_two rfl
theorem or (x0 x1 x2 : Reg) : Statement (.or x0 x1 x2) := of_two rfl
theorem xor (x0 x1 x2 : Reg) : Statement (.xor x0 x1 x2) := of_two rfl
theorem andn (x0 x1 x2 : Reg) : Statement (.andn x0 x1 x2) := of_two rfl
theorem sll (x0 x1 x2 : Reg) : Statement (.sll x0 x1 x2) := of_two rfl
theorem srl (x0 x1 x2 : Reg) : Statement (.srl x0 x1 x2) := of_two rfl
theorem sra (x0 x1 x2 : Reg) : Statement (.sra x0 x1 x2) := of_two rfl
theorem rol (x0 x1 x2 : Reg) : Statement (.rol x0 x1 x2) := of_two rfl
theorem min (x0 x1 x2 : Reg) : Statement (.min x0 x1 x2) := of_two rfl
theorem max (x0 x1 x2 : Reg) : Statement (.max x0 x1 x2) := of_two rfl
theorem minu (x0 x1 x2 : Reg) : Statement (.minu x0 x1 x2) := of_two rfl
theorem maxu (x0 x1 x2 : Reg) : Statement (.maxu x0 x1 x2) := of_two rfl
theorem mul (x0 x1 x2 : Reg) : Statement (.mul x0 x1 x2) := of_two rfl
theorem mulh (x0 x1 x2 : Reg) : Statement (.mulh x0 x1 x2) := of_two rfl
theorem mulhu (x0 x1 x2 : Reg) : Statement (.mulhu x0 x1 x2) := of_two rfl
theorem adds (x0 x1 x2 : Reg) : Statement (.adds x0 x1 x2) := of_two rfl
theorem subs (x0 x1 x2 : Reg) : Statement (.subs x0 x1 x2) := of_two rfl
theorem clz (x0 x1 : Reg) : Statement (.clz x0 x1) := of_two rfl
theorem ctz (x0 x1 : Reg) : Statement (.ctz x0 x1) := of_two rfl
theorem popc (x0 x1 : Reg) : Statement (.popc x0 x1) := of_two rfl
theorem brev (x0 x1 : Reg) : Statement (.brev x0 x1) := of_two rfl
theorem addD (x0 x1 x2 : Reg) : Statement (.addD x0 x1 x2) := of_two rfl
theorem subD (x0 x1 x2 : Reg) : Statement (.subD x0 x1 x2) := of_two rfl
theorem mulWD (x0 x1 x2 : Reg) : Statement (.mulWD x0 x1 x2) := of_two rfl
theorem muluWD (x0 x1 x2 : Reg) : Statement (.muluWD x0 x1 x2) := of_two rfl
theorem addi (x0 x1 : Reg) (x2 : BitVec 13) : Statement (.addi x0 x1 x2) := of_two rfl
theorem andi (x0 x1 : Reg) (x2 : BitVec 13) : Statement (.andi x0 x1 x2) := of_two rfl
theorem ori (x0 x1 : Reg) (x2 : BitVec 13) : Statement (.ori x0 x1 x2) := of_two rfl
theorem xori (x0 x1 : Reg) (x2 : BitVec 13) : Statement (.xori x0 x1 x2) := of_two rfl
theorem muli (x0 x1 : Reg) (x2 : BitVec 13) : Statement (.muli x0 x1 x2) := of_two rfl
theorem slli (x0 x1 : Reg) (x2 : BitVec 5) : Statement (.slli x0 x1 x2) := of_two rfl
theorem srli (x0 x1 : Reg) (x2 : BitVec 5) : Statement (.srli x0 x1 x2) := of_two rfl
theorem srai (x0 x1 : Reg) (x2 : BitVec 5) : Statement (.srai x0 x1 x2) := of_two rfl
theorem roli (x0 x1 : Reg) (x2 : BitVec 5) : Statement (.roli x0 x1 x2) := of_two rfl
theorem lui (x0 : Reg) (x1 : BitVec 19) : Statement (.lui x0 x1) := of_two rfl
theorem cmpI32 (x0 : PReg) (x1 x2 : Reg) (x3 : BitVec 3) : Statement (.cmpI32 x0 x1 x2 x3) := of_two rfl
theorem cmpF32 (x0 : PReg) (x1 x2 : Reg) (x3 : BitVec 3) : Statement (.cmpF32 x0 x1 x2 x3) := of_two rfl
theorem cmpF64 (x0 : PReg) (x1 x2 : Reg) (x3 : BitVec 3) : Statement (.cmpF64 x0 x1 x2 x3) := of_two rfl
theorem cmpI64 (x0 : PReg) (x1 x2 : Reg) (x3 : BitVec 3) : Statement (.cmpI64 x0 x1 x2 x3) := of_two rfl
theorem cmpi (x0 : PReg) (x1 : BitVec 3) (x2 : Reg) (x3 : BitVec 13) : Statement (.cmpi x0 x1 x2 x3) := of_two rfl
theorem sel (x0 x1 x2 : Reg) (x3 : PReg) : Statement (.sel x0 x1 x2 x3) := of_two rfl
theorem movs (x0 : Reg) (x1 : BitVec 6) : Statement (.movs x0 x1) := of_two rfl
theorem pand (x0 x1 x2 : PReg) : Statement (.pand x0 x1 x2) := of_two rfl
theorem por (x0 x1 x2 : PReg) : Statement (.por x0 x1 x2) := of_two rfl
theorem pxor (x0 x1 x2 : PReg) : Statement (.pxor x0 x1 x2) := of_two rfl
theorem pnot (x0 x1 : PReg) : Statement (.pnot x0 x1) := of_two rfl
theorem p2g (x0 : Reg) : Statement (.p2g x0) := of_two rfl
theorem g2p (x0 x1 : Reg) : Statement (.g2p x0 x1) := of_two rfl
theorem fadd (x0 x1 x2 : Reg) : Statement (.fadd x0 x1 x2) := of_two rfl
theorem fsub (x0 x1 x2 : Reg) : Statement (.fsub x0 x1 x2) := of_two rfl
theorem fmul (x0 x1 x2 : Reg) : Statement (.fmul x0 x1 x2) := of_two rfl
theorem fmin (x0 x1 x2 : Reg) : Statement (.fmin x0 x1 x2) := of_two rfl
theorem fmax (x0 x1 x2 : Reg) : Statement (.fmax x0 x1 x2) := of_two rfl
theorem fabs (x0 x1 : Reg) : Statement (.fabs x0 x1) := of_two rfl
theorem fneg (x0 x1 : Reg) : Statement (.fneg x0 x1) := of_two rfl
theorem fsgn (x0 x1 x2 : Reg) : Statement (.fsgn x0 x1 x2) := of_two rfl
theorem fcls (x0 x1 : Reg) : Statement (.fcls x0 x1) := of_two rfl
theorem fflr (x0 x1 : Reg) : Statement (.fflr x0 x1) := of_two rfl
theorem fceil (x0 x1 : Reg) : Statement (.fceil x0 x1) := of_two rfl
theorem frndn (x0 x1 : Reg) : Statement (.frndn x0 x1) := of_two rfl
theorem dadd (x0 x1 x2 : Reg) : Statement (.dadd x0 x1 x2) := of_two rfl
theorem dsub (x0 x1 x2 : Reg) : Statement (.dsub x0 x1 x2) := of_two rfl
theorem dmul (x0 x1 x2 : Reg) : Statement (.dmul x0 x1 x2) := of_two rfl
theorem dmin (x0 x1 x2 : Reg) : Statement (.dmin x0 x1 x2) := of_two rfl
theorem dmax (x0 x1 x2 : Reg) : Statement (.dmax x0 x1 x2) := of_two rfl
theorem dabs (x0 x1 : Reg) : Statement (.dabs x0 x1) := of_two rfl
theorem dneg (x0 x1 : Reg) : Statement (.dneg x0 x1) := of_two rfl
theorem dsgn (x0 x1 x2 : Reg) : Statement (.dsgn x0 x1 x2) := of_two rfl
theorem dcls (x0 x1 : Reg) : Statement (.dcls x0 x1) := of_two rfl
theorem dflr (x0 x1 : Reg) : Statement (.dflr x0 x1) := of_two rfl
theorem dceil (x0 x1 : Reg) : Statement (.dceil x0 x1) := of_two rfl
theorem drndn (x0 x1 : Reg) : Statement (.drndn x0 x1) := of_two rfl
theorem add2 (x0 x1 x2 : Reg) : Statement (.add2 x0 x1 x2) := of_two rfl
theorem sub2 (x0 x1 x2 : Reg) : Statement (.sub2 x0 x1 x2) := of_two rfl
theorem mul2 (x0 x1 x2 : Reg) : Statement (.mul2 x0 x1 x2) := of_two rfl
theorem min2 (x0 x1 x2 : Reg) : Statement (.min2 x0 x1 x2) := of_two rfl
theorem max2 (x0 x1 x2 : Reg) : Statement (.max2 x0 x1 x2) := of_two rfl
theorem add2Bf (x0 x1 x2 : Reg) : Statement (.add2Bf x0 x1 x2) := of_two rfl
theorem sub2Bf (x0 x1 x2 : Reg) : Statement (.sub2Bf x0 x1 x2) := of_two rfl
theorem mul2Bf (x0 x1 x2 : Reg) : Statement (.mul2Bf x0 x1 x2) := of_two rfl
theorem min2Bf (x0 x1 x2 : Reg) : Statement (.min2Bf x0 x1 x2) := of_two rfl
theorem max2Bf (x0 x1 x2 : Reg) : Statement (.max2Bf x0 x1 x2) := of_two rfl
theorem ffma (x0 x1 x2 x3 : Reg) : Statement (.ffma x0 x1 x2 x3) := of_two rfl
theorem ffms (x0 x1 x2 x3 : Reg) : Statement (.ffms x0 x1 x2 x3) := of_two rfl
theorem dfma (x0 x1 x2 x3 : Reg) : Statement (.dfma x0 x1 x2 x3) := of_two rfl
theorem dfms (x0 x1 x2 x3 : Reg) : Statement (.dfms x0 x1 x2 x3) := of_two rfl
theorem hfma (x0 x1 x2 x3 : Reg) : Statement (.hfma x0 x1 x2 x3) := of_two rfl
theorem hfmaBf (x0 x1 x2 x3 : Reg) : Statement (.hfmaBf x0 x1 x2 x3) := of_two rfl
theorem f2i (x0 x1 : Reg) (x2 : BitVec 3) : Statement (.f2i x0 x1 x2) := of_two rfl
theorem f2u (x0 x1 : Reg) (x2 : BitVec 3) : Statement (.f2u x0 x1 x2) := of_two rfl
theorem i2f (x0 x1 : Reg) (x2 : BitVec 3) : Statement (.i2f x0 x1 x2) := of_two rfl
theorem u2f (x0 x1 : Reg) (x2 : BitVec 3) : Statement (.u2f x0 x1 x2) := of_two rfl
theorem d2f (x0 x1 : Reg) (x2 : BitVec 3) : Statement (.d2f x0 x1 x2) := of_two rfl
theorem f2d (x0 x1 : Reg) (x2 : BitVec 3) : Statement (.f2d x0 x1 x2) := of_two rfl
theorem d2i (x0 x1 : Reg) (x2 : BitVec 3) : Statement (.d2i x0 x1 x2) := of_two rfl
theorem i2d (x0 x1 : Reg) (x2 : BitVec 3) : Statement (.i2d x0 x1 x2) := of_two rfl
theorem f2h (x0 x1 : Reg) (x2 : BitVec 3) : Statement (.f2h x0 x1 x2) := of_two rfl
theorem h2f (x0 x1 : Reg) (x2 : BitVec 3) : Statement (.h2f x0 x1 x2) := of_two rfl
theorem f2bf (x0 x1 : Reg) (x2 : BitVec 3) : Statement (.f2bf x0 x1 x2) := of_two rfl
theorem bf2f (x0 x1 : Reg) (x2 : BitVec 3) : Statement (.bf2f x0 x1 x2) := of_two rfl
theorem d2l (x0 x1 : Reg) (x2 : BitVec 3) : Statement (.d2l x0 x1 x2) := of_two rfl
theorem l2d (x0 x1 : Reg) (x2 : BitVec 3) : Statement (.l2d x0 x1 x2) := of_two rfl
theorem f2h2 (x0 x1 : Reg) (x2 : BitVec 3) : Statement (.f2h2 x0 x1 x2) := of_two rfl
theorem rcp (x0 x1 : Reg) : Statement (.rcp x0 x1) := of_two rfl
theorem rsq (x0 x1 : Reg) : Statement (.rsq x0 x1) := of_two rfl
theorem log2 (x0 x1 : Reg) : Statement (.log2 x0 x1) := of_two rfl
theorem exp2 (x0 x1 : Reg) : Statement (.exp2 x0 x1) := of_two rfl
theorem sinr (x0 x1 : Reg) : Statement (.sinr x0 x1) := of_two rfl
theorem cosr (x0 x1 : Reg) : Statement (.cosr x0 x1) := of_two rfl
theorem drcp (x0 x1 : Reg) : Statement (.drcp x0 x1) := of_two rfl
theorem drsq (x0 x1 : Reg) : Statement (.drsq x0 x1) := of_two rfl
theorem pke4 (x0 x1 x2 : Reg) : Statement (.pke4 x0 x1 x2) := of_two rfl
theorem pke5 (x0 x1 x2 : Reg) : Statement (.pke5 x0 x1 x2) := of_two rfl
theorem upe4 (x0 x1 : Reg) : Statement (.upe4 x0 x1) := of_two rfl
theorem upe5 (x0 x1 : Reg) : Statement (.upe5 x0 x1) := of_two rfl
theorem pkb4 (x0 x1 x2 : Reg) : Statement (.pkb4 x0 x1 x2) := of_two rfl
theorem upb4 (x0 x1 : Reg) : Statement (.upb4 x0 x1) := of_two rfl
theorem bfe (x0 x1 x2 : Reg) : Statement (.bfe x0 x1 x2) := of_two rfl
theorem bfi (x0 x1 x2 x3 : Reg) : Statement (.bfi x0 x1 x2 x3) := of_two rfl
theorem shfl (x0 x1 x2 : Reg) : Statement (.shfl x0 x1 x2) := of_two rfl
theorem rotl (x0 x1 x2 : Reg) : Statement (.rotl x0 x1 x2) := of_two rfl
theorem bfly (x0 x1 x2 : Reg) : Statement (.bfly x0 x1 x2) := of_two rfl
theorem bcast (x0 x1 x2 : Reg) : Statement (.bcast x0 x1 x2) := of_two rfl
theorem voteall (x0 x1 : PReg) : Statement (.voteall x0 x1) := of_two rfl
theorem voteany (x0 x1 : PReg) : Statement (.voteany x0 x1) := of_two rfl
theorem ballot (x0 : Reg) (x1 : PReg) : Statement (.ballot x0 x1) := of_two rfl
theorem linkr (x0 x1 x2 : Reg) : Statement (.linkr x0 x1 x2) := of_two rfl
theorem linkw (x0 x1 x2 : Reg) : Statement (.linkw x0 x1 x2) := of_two rfl
theorem radd (x0 x1 : Reg) : Statement (.radd x0 x1) := of_two rfl
theorem rmin (x0 x1 : Reg) : Statement (.rmin x0 x1) := of_two rfl
theorem rmax (x0 x1 : Reg) : Statement (.rmax x0 x1) := of_two rfl
theorem rminu (x0 x1 : Reg) : Statement (.rminu x0 x1) := of_two rfl
theorem rmaxu (x0 x1 : Reg) : Statement (.rmaxu x0 x1) := of_two rfl
theorem rand (x0 x1 : Reg) : Statement (.rand x0 x1) := of_two rfl
theorem ror (x0 x1 : Reg) : Statement (.ror x0 x1) := of_two rfl
theorem rxor (x0 x1 : Reg) : Statement (.rxor x0 x1) := of_two rfl
theorem rfadd (x0 x1 : Reg) : Statement (.rfadd x0 x1) := of_two rfl
theorem rfmin (x0 x1 : Reg) : Statement (.rfmin x0 x1) := of_two rfl
theorem rfmax (x0 x1 : Reg) : Statement (.rfmax x0 x1) := of_two rfl
theorem sadd (x0 x1 : Reg) : Statement (.sadd x0 x1) := of_two rfl
theorem saddx (x0 x1 : Reg) : Statement (.saddx x0 x1) := of_two rfl
theorem sfadd (x0 x1 : Reg) : Statement (.sfadd x0 x1) := of_two rfl
theorem rdadd (x0 x1 : Reg) : Statement (.rdadd x0 x1) := of_two rfl
theorem xclr : Statement (.xclr) := of_two rfl
theorem xadd (x0 : Reg) : Statement (.xadd x0) := of_two rfl
theorem xmad (x0 x1 : Reg) : Statement (.xmad x0 x1) := of_two rfl
theorem xrnd (x0 : Reg) : Statement (.xrnd x0) := of_two rfl
theorem xrndd (x0 : Reg) : Statement (.xrndd x0) := of_two rfl
theorem icount (x0 x1 : Reg) : Statement (.icount x0 x1) := of_two rfl
theorem iwrite (x0 x1 x2 : Reg) : Statement (.iwrite x0 x1 x2) := of_two rfl
theorem uwrite (x0 x1 x2 : Reg) : Statement (.uwrite x0 x1 x2) := of_two rfl
theorem mwrite (x0 x1 x2 : Reg) : Statement (.mwrite x0 x1 x2) := of_two rfl
theorem ld (x0 x1 : Reg) (x2 : BitVec 3) (x3 : BitVec 2) (x4 : BitVec 8) : Statement (.ld x0 x1 x2 x3 x4) := of_two rfl
theorem st (x0 x1 : Reg) (x2 : BitVec 3) (x3 : BitVec 2) (x4 : BitVec 8) : Statement (.st x0 x1 x2 x3 x4) := of_two rfl
theorem aaddW (x0 x1 x2 : Reg) : Statement (.aaddW x0 x1 x2) := of_two rfl
theorem aandW (x0 x1 x2 : Reg) : Statement (.aandW x0 x1 x2) := of_two rfl
theorem aorW (x0 x1 x2 : Reg) : Statement (.aorW x0 x1 x2) := of_two rfl
theorem axorW (x0 x1 x2 : Reg) : Statement (.axorW x0 x1 x2) := of_two rfl
theorem aminW (x0 x1 x2 : Reg) : Statement (.aminW x0 x1 x2) := of_two rfl
theorem amaxW (x0 x1 x2 : Reg) : Statement (.amaxW x0 x1 x2) := of_two rfl
theorem aminuW (x0 x1 x2 : Reg) : Statement (.aminuW x0 x1 x2) := of_two rfl
theorem amaxuW (x0 x1 x2 : Reg) : Statement (.amaxuW x0 x1 x2) := of_two rfl
theorem aswapW (x0 x1 x2 : Reg) : Statement (.aswapW x0 x1 x2) := of_two rfl
theorem acasW (x0 x1 x2 : Reg) : Statement (.acasW x0 x1 x2) := of_two rfl
theorem afaddW (x0 x1 x2 : Reg) : Statement (.afaddW x0 x1 x2) := of_two rfl
theorem aaddD (x0 x1 x2 : Reg) : Statement (.aaddD x0 x1 x2) := of_two rfl
theorem aswapD (x0 x1 x2 : Reg) : Statement (.aswapD x0 x1 x2) := of_two rfl
theorem acasD (x0 x1 x2 : Reg) : Statement (.acasD x0 x1 x2) := of_two rfl
theorem afaddD (x0 x1 x2 : Reg) : Statement (.afaddD x0 x1 x2) := of_two rfl
theorem fenceFull (x0 : BitVec 3) : Statement (.fenceFull x0) := of_two rfl
theorem fenceAcq (x0 : BitVec 3) : Statement (.fenceAcq x0) := of_two rfl
theorem fenceRel (x0 : BitVec 3) : Statement (.fenceRel x0) := of_two rfl
theorem fenceRsc (x0 : BitVec 3) : Statement (.fenceRsc x0) := of_two rfl
theorem cpost (x0 x1 x2 : Reg) : Statement (.cpost x0 x1 x2) := of_two rfl
theorem ccancel (x0 : Reg) : Statement (.ccancel x0) := of_two rfl
theorem gpost (x0 x1 : Reg) : Statement (.gpost x0 x1) := of_two rfl
theorem gstat (x0 x1 : Reg) : Statement (.gstat x0 x1) := of_two rfl
theorem qinit (x0 x1 x2 : Reg) : Statement (.qinit x0 x1 x2) := of_two rfl
theorem qpush (x0 x1 : Reg) : Statement (.qpush x0 x1) := of_two rfl
theorem qpop (x0 x1 : Reg) : Statement (.qpop x0 x1) := of_two rfl
theorem qpushn (x0 x1 x2 : Reg) : Statement (.qpushn x0 x1 x2) := of_two rfl
theorem qpopn (x0 x1 : Reg) : Statement (.qpopn x0 x1) := of_two rfl
theorem qcount (x0 x1 : Reg) : Statement (.qcount x0 x1) := of_two rfl
theorem spawn (x0 x1 x2 : Reg) : Statement (.spawn x0 x1 x2) := of_two rfl
theorem quit : Statement (.quit) := of_two rfl
theorem sendw (x0 x1 : Reg) : Statement (.sendw x0 x1) := of_two rfl
theorem recvw (x0 : Reg) : Statement (.recvw x0) := of_two rfl
theorem sign (x0 : BitVec 4) (x1 : Reg) : Statement (.sign x0 x1) := of_two rfl
theorem cvwait (x0 : BitVec 4) : Statement (.cvwait x0) := of_two rfl
theorem lvarr (x0 : BitVec 3) : Statement (.lvarr x0) := of_two rfl
theorem lvwait (x0 : BitVec 3) : Statement (.lvwait x0) := of_two rfl
theorem lvsync (x0 : BitVec 3) : Statement (.lvsync x0) := of_two rfl
theorem qjoin (x0 : Reg) : Statement (.qjoin x0) := of_two rfl
theorem csig (x0 : BitVec 2) (x1 : Reg) : Statement (.csig x0 x1) := of_two rfl
theorem waitev (x0 : Reg) : Statement (.waitev x0) := of_two rfl
theorem yield : Statement (.yield) := of_two rfl
theorem mma (x0 : BitVec 4) (x1 x2 : Reg) (x3 x4 x5 : BitVec 1) : Statement (.mma x0 x1 x2 x3 x4 x5) := of_two rfl
theorem accz (x0 : BitVec 4) : Statement (.accz x0) := of_two rfl
theorem accld (x0 : BitVec 4) (x1 : Reg) : Statement (.accld x0 x1) := of_two rfl
theorem accst (x0 : BitVec 4) (x1 x2 : Reg) : Statement (.accst x0 x1 x2) := of_two rfl
theorem wbld (x0 x1 x2 : Reg) : Statement (.wbld x0 x1 x2) := of_two rfl
theorem skset (x0 : BitVec 2) (x1 x2 : Reg) : Statement (.skset x0 x1 x2) := of_two rfl
theorem tpost (x0 x1 : Reg) : Statement (.tpost x0 x1) := of_two rfl
theorem hpop (x0 x1 : Reg) : Statement (.hpop x0 x1) := of_two rfl
theorem hcount (x0 x1 : Reg) : Statement (.hcount x0 x1) := of_two rfl
theorem tcfg (x0 x1 : Reg) : Statement (.tcfg x0 x1) := of_two rfl
theorem tcancel (x0 : Reg) : Statement (.tcancel x0) := of_two rfl
theorem mint (x0 x1 : Reg) : Statement (.mint x0 x1) := of_two rfl
theorem nop : Statement (.nop) := of_two rfl
theorem trap (x0 : Reg) : Statement (.trap x0) := of_two rfl
theorem ebrk : Statement (.ebrk) := of_two rfl
theorem fstat (x0 x1 : Reg) : Statement (.fstat x0 x1) := of_two rfl
theorem setrm (x0 x1 : Reg) : Statement (.setrm x0 x1) := of_two rfl
theorem next (x0 : BitVec 8) : Statement (.next x0) := of_two rfl
theorem br (x0 : PReg) (x1 : BitVec 1) (x2 : BitVec 8) (x3 : BitVec 10) : Statement (.br x0 x1 x2 x3) := of_two rfl
theorem jmp (x0 : BitVec 8) (x1 : BitVec 10) : Statement (.jmp x0 x1) := of_two rfl
theorem call (x0 : PReg) (x1 : BitVec 1) (x2 : BitVec 8) (x3 : BitVec 10) : Statement (.call x0 x1 x2 x3) := of_two rfl
theorem ret (x0 : PReg) (x1 : BitVec 1) (x2 : BitVec 8) : Statement (.ret x0 x1 x2) := of_two rfl
theorem run (x0 : PReg) (x1 : BitVec 1) (x2 : BitVec 8) (x3 : BitVec 10) : Statement (.run x0 x1 x2 x3) := of_two rfl
theorem stop (x0 : PReg) (x1 : BitVec 1) (x2 : BitVec 8) : Statement (.stop x0 x1 x2) := of_two rfl
theorem farOffset (x0 : BitVec 8) (x1 : BitVec 1) (x2 : BitVec 3) (x3 : BitVec 25) : Statement (.farOffset x0 x1 x2 x3) := of_four rfl
theorem farRegister (x0 : BitVec 8) (x1 : BitVec 1) (x2 : BitVec 3) (x3 : BitVec 6) : Statement (.farRegister x0 x1 x2 x3) := of_four rfl
theorem mov16 (x0 : Reg) (x1 : BitVec 5) : Statement (.mov16 x0 x1) := of_one rfl
theorem add16 (x0 : Reg) (x1 : BitVec 5) : Statement (.add16 x0 x1) := of_one rfl
theorem sub16 (x0 : Reg) (x1 : BitVec 5) : Statement (.sub16 x0 x1) := of_one rfl
theorem and16 (x0 : Reg) (x1 : BitVec 5) : Statement (.and16 x0 x1) := of_one rfl
theorem or16 (x0 : Reg) (x1 : BitVec 5) : Statement (.or16 x0 x1) := of_one rfl
theorem xor16 (x0 : Reg) (x1 : BitVec 5) : Statement (.xor16 x0 x1) := of_one rfl
theorem sll16 (x0 : Reg) (x1 : BitVec 5) : Statement (.sll16 x0 x1) := of_one rfl
theorem srl16 (x0 : Reg) (x1 : BitVec 5) : Statement (.srl16 x0 x1) := of_one rfl
theorem sra16 (x0 : Reg) (x1 : BitVec 5) : Statement (.sra16 x0 x1) := of_one rfl
theorem addi16 (x0 : Reg) (x1 : BitVec 5) : Statement (.addi16 x0 x1) := of_one rfl
theorem mul16 (x0 : Reg) (x1 : BitVec 5) : Statement (.mul16 x0 x1) := of_one rfl
theorem fadd16 (x0 : Reg) (x1 : BitVec 5) : Statement (.fadd16 x0 x1) := of_one rfl
theorem fsub16 (x0 : Reg) (x1 : BitVec 5) : Statement (.fsub16 x0 x1) := of_one rfl
theorem fmul16 (x0 : Reg) (x1 : BitVec 5) : Statement (.fmul16 x0 x1) := of_one rfl
theorem fmin16 (x0 : Reg) (x1 : BitVec 5) : Statement (.fmin16 x0 x1) := of_one rfl
theorem fmax16 (x0 : Reg) (x1 : BitVec 5) : Statement (.fmax16 x0 x1) := of_one rfl
theorem nfetch (x0 : WReg) (x1 : BitVec 2) : Statement (.nfetch x0 x1) := of_two rfl
theorem ndec (x0 : BitVec 4) : Statement (.ndec x0) := of_two rfl
theorem box8 (x0 : WReg) : Statement (.box8 x0) := of_two rfl
theorem tri (x0 x1 : WReg) : Statement (.tri x0 x1) := of_two rfl
theorem split (x0 x1 x2 : WReg) : Statement (.split x0 x1 x2) := of_two rfl
theorem kcmp (x0 x1 x2 : WReg) : Statement (.kcmp x0 x1 x2) := of_two rfl
theorem dist (x0 x1 x2 : WReg) : Statement (.dist x0 x1 x2) := of_two rfl
theorem child (x0 x1 : WReg) : Statement (.child x0 x1) := of_two rfl
theorem push (x0 x1 : WReg) : Statement (.push x0 x1) := of_two rfl
theorem pop (x0 x1 : WReg) : Statement (.pop x0 x1) := of_two rfl
theorem kbest (x0 x1 x2 : WReg) : Statement (.kbest x0 x1 x2) := of_two rfl
theorem emit (x0 x1 : WReg) (x2 : BitVec 11) : Statement (.emit x0 x1 x2) := of_two rfl
theorem handoff (x0 : WReg) : Statement (.handoff x0) := of_two rfl
theorem walkEnd : Statement (.walkEnd) := of_two rfl
theorem movi (x0 : WReg) (x1 : BitVec 11) : Statement (.movi x0 x1) := of_two rfl
theorem walkMov (x0 x1 : WReg) : Statement (.walkMov x0 x1) := of_two rfl
theorem walkAdd (x0 x1 x2 : WReg) : Statement (.walkAdd x0 x1 x2) := of_two rfl
theorem walkSub (x0 x1 x2 : WReg) : Statement (.walkSub x0 x1 x2) := of_two rfl
theorem walkFadd (x0 x1 x2 : WReg) : Statement (.walkFadd x0 x1 x2) := of_two rfl
theorem walkFmul (x0 x1 x2 : WReg) : Statement (.walkFmul x0 x1 x2) := of_two rfl
theorem walkFmin (x0 x1 x2 : WReg) : Statement (.walkFmin x0 x1 x2) := of_two rfl
theorem walkFmax (x0 x1 x2 : WReg) : Statement (.walkFmax x0 x1 x2) := of_two rfl
theorem walkCmpI32 (x0 x1 x2 : WReg) (x3 : BitVec 4) : Statement (.walkCmpI32 x0 x1 x2 x3) := of_two rfl
theorem walkCmpF32 (x0 x1 x2 : WReg) (x3 : BitVec 4) : Statement (.walkCmpF32 x0 x1 x2 x3) := of_two rfl
theorem walkBr (x0 : WReg) (x1 : BitVec 11) : Statement (.walkBr x0 x1) := of_two rfl
theorem walkJmp (x0 : BitVec 11) : Statement (.walkJmp x0) := of_two rfl
theorem figCall (x0 x1 x2 : XReg) : Statement (.figCall x0 x1 x2) := of_two rfl
theorem figWait (x0 : XReg) : Statement (.figWait x0) := of_two rfl
theorem figSync (x0 x1 : XReg) : Statement (.figSync x0 x1) := of_two rfl
theorem figSetw (x0 x1 : XReg) : Statement (.figSetw x0 x1) := of_two rfl
theorem figAlloc (x0 x1 x2 : XReg) : Statement (.figAlloc x0 x1 x2) := of_two rfl
theorem figRdreg (x0 x1 : XReg) : Statement (.figRdreg x0 x1) := of_two rfl
theorem figWrreg (x0 x1 x2 : XReg) : Statement (.figWrreg x0 x1 x2) := of_two rfl
theorem figResume (x0 x1 x2 : XReg) : Statement (.figResume x0 x1 x2) := of_two rfl
theorem figMbox (x0 x1 : XReg) : Statement (.figMbox x0 x1) := of_two rfl
theorem figEvent (x0 : XReg) : Statement (.figEvent x0) := of_two rfl
theorem figLaunch (x0 x1 : XReg) : Statement (.figLaunch x0 x1) := of_two rfl
theorem figInbox (x0 x1 x2 : XReg) : Statement (.figInbox x0 x1 x2) := of_two rfl
theorem figReplay (x0 x1 x2 : XReg) : Statement (.figReplay x0 x1 x2) := of_two rfl
theorem xfigStallComplete (x0 x1 : Nat) : Statement (.xfigStallComplete x0 x1) := of_none rfl
theorem callerLoad (x0 : Bool) (x1 : LoadWidth) (x2 x3 : XReg) (x4 : BitVec 12) : Statement (.callerLoad x0 x1 x2 x3 x4) := of_none rfl
theorem callerStore (x0 : Bool) (x1 : StoreWidth) (x2 x3 : XReg) (x4 : BitVec 12) : Statement (.callerStore x0 x1 x2 x3 x4) := of_none rfl
theorem callerAmo (x0 : AmoOp) (x1 x2 x3 : Bool) (x4 x5 x6 : XReg) : Statement (.callerAmo x0 x1 x2 x3 x4 x5 x6) := of_none rfl
theorem callerLr (x0 x1 x2 : Bool) (x3 x4 : XReg) : Statement (.callerLr x0 x1 x2 x3 x4) := of_none rfl
theorem callerSc (x0 x1 x2 : Bool) (x3 x4 x5 : XReg) : Statement (.callerSc x0 x1 x2 x3 x4 x5) := of_none rfl
theorem callerFence : Statement (.callerFence) := of_none rfl
theorem callerFenceI : Statement (.callerFenceI) := of_none rfl
theorem handlerReturn : Statement (.handlerReturn) := of_none rfl
theorem callerEnd : Statement (.callerEnd) := of_none rfl
theorem xfgEventsWrite (x0 : CsrOp) (x1 : XReg) (x2 : CsrSrc) : Statement (.xfgEventsWrite x0 x1 x2) := of_none rfl
theorem xfgFhandlerWrite (x0 : CsrOp) (x1 : XReg) (x2 : CsrSrc) : Statement (.xfgFhandlerWrite x0 x1 x2) := of_none rfl
theorem xfgFsupWrite (x0 : CsrOp) (x1 : XReg) (x2 : CsrSrc) : Statement (.xfgFsupWrite x0 x1 x2) := of_none rfl
theorem registerWrite (x0 : RegWrite) : Statement (.registerWrite x0) := of_none rfl
theorem eventInterrupt (x0 x1 : Nat) : Statement (.eventInterrupt x0 x1) := of_none rfl
theorem callerException (x0 x1 : Nat) : Statement (.callerException x0 x1) := of_none rfl
theorem corePark (x0 : Nat) : Statement (.corePark x0) := of_none rfl
theorem coreReset (x0 : Nat) : Statement (.coreReset x0) := of_none rfl
theorem rotationSlotFill (x0 x1 x2 : Nat) : Statement (.rotationSlotFill x0 x1 x2) := of_none rfl
theorem codeFetchArrival (x0 x1 x2 : Nat) : Statement (.codeFetchArrival x0 x1 x2) := of_none rfl
theorem microthreadInitComplete (x0 x1 : Nat) : Statement (.microthreadInitComplete x0 x1) := of_none rfl
theorem longLatencyResult (x0 : Nat) (x1 : Response) : Statement (.longLatencyResult x0 x1) := of_none rfl
theorem deferredFault (x0 x1 : Nat) : Statement (.deferredFault x0 x1) := of_none rfl
theorem faultMessagePost (x0 x1 : Nat) : Statement (.faultMessagePost x0 x1) := of_none rfl
theorem quitRetire (x0 x1 : Nat) : Statement (.quitRetire x0 x1) := of_none rfl
theorem budgetRefill (x0 : Nat) : Statement (.budgetRefill x0) := of_none rfl
theorem storeFifoExit (x0 : Nat) : Statement (.storeFifoExit x0) := of_none rfl
theorem storeAck (x0 : Nat) : Statement (.storeAck x0) := of_none rfl
theorem owningPortLoad (x0 : Nat) : Statement (.owningPortLoad x0) := of_none rfl
theorem owningPortStore (x0 : Nat) : Statement (.owningPortStore x0) := of_none rfl
theorem owningPortAtomic (x0 : Nat) : Statement (.owningPortAtomic x0) := of_none rfl
theorem tluTranslation (x0 : Nat) : Statement (.tluTranslation x0) := of_none rfl
theorem faultRecordArrival (x0 : Nat) : Statement (.faultRecordArrival x0) := of_none rfl
theorem homeRead (x0 : Nat) : Statement (.homeRead x0) := of_none rfl
theorem homeStore (x0 : StoreSource) : Statement (.homeStore x0) := of_none rfl
theorem homeAtomic (x0 : Nat) : Statement (.homeAtomic x0) := of_none rfl
theorem cacheFillArrival (x0 : Nat) : Statement (.cacheFillArrival x0) := of_none rfl
theorem writeThroughAck (x0 : Nat) : Statement (.writeThroughAck x0) := of_none rfl
theorem wakeMessage (x0 x1 x2 : Nat) : Statement (.wakeMessage x0 x1 x2) := of_none rfl
theorem mmaPerform (x0 : Nat) : Statement (.mmaPerform x0) := of_none rfl
theorem acczPerform (x0 : Nat) : Statement (.acczPerform x0) := of_none rfl
theorem accldPerform (x0 : Nat) : Statement (.accldPerform x0) := of_none rfl
theorem accstPerform (x0 : Nat) : Statement (.accstPerform x0) := of_none rfl
theorem wbldPerform (x0 : Nat) : Statement (.wbldPerform x0) := of_none rfl
theorem sksetPerform (x0 : Nat) : Statement (.sksetPerform x0) := of_none rfl
theorem joinPass (x0 x1 : Nat) : Statement (.joinPass x0 x1) := of_none rfl
theorem copyStart (x0 x1 : Nat) : Statement (.copyStart x0 x1) := of_none rfl
theorem copyElement (x0 x1 : Nat) (x2 : Bool) : Statement (.copyElement x0 x1 x2) := of_none rfl
theorem copyEnd (x0 x1 : Nat) : Statement (.copyEnd x0 x1) := of_none rfl
theorem signalEntryPerform (x0 x1 : Nat) : Statement (.signalEntryPerform x0 x1) := of_none rfl
theorem spawnArrival (x0 x1 : Nat) : Statement (.spawnArrival x0 x1) := of_none rfl
theorem wordArrival (x0 x1 : Nat) : Statement (.wordArrival x0 x1) := of_none rfl
theorem bounceArrival (x0 x1 : Nat) : Statement (.bounceArrival x0 x1) := of_none rfl
theorem eventSignal (x0 : Nat) : Statement (.eventSignal x0) := of_none rfl
theorem levelArrival (x0 : Nat) : Statement (.levelArrival x0) := of_none rfl
theorem levelSummons (x0 : Nat) : Statement (.levelSummons x0) := of_none rfl
theorem levelCompletion (x0 : Nat) : Statement (.levelCompletion x0) := of_none rfl
theorem queryAdmission (x0 : Nat) : Statement (.queryAdmission x0) := of_none rfl
theorem tcfgPerform (x0 : Nat) : Statement (.tcfgPerform x0) := of_none rfl
theorem nodeFetchArrival (x0 x1 : Nat) : Statement (.nodeFetchArrival x0 x1) := of_none rfl
theorem hitAppend (x0 x1 : Nat) : Statement (.hitAppend x0 x1) := of_none rfl
theorem queryDone (x0 x1 : Nat) : Statement (.queryDone x0 x1) := of_none rfl
theorem gteRequestStart (x0 : Nat) : Statement (.gteRequestStart x0) := of_none rfl
theorem gteProbe (x0 : Nat) : Statement (.gteProbe x0) := of_none rfl
theorem gteGather (x0 : Nat) : Statement (.gteGather x0) := of_none rfl
theorem gteScatter (x0 : Nat) : Statement (.gteScatter x0) := of_none rfl
theorem gteSadd (x0 : Nat) : Statement (.gteSadd x0) := of_none rfl
theorem gteSfadd (x0 : Nat) : Statement (.gteSfadd x0) := of_none rfl
theorem gteSmin (x0 : Nat) : Statement (.gteSmin x0) := of_none rfl
theorem gteSmax (x0 : Nat) : Statement (.gteSmax x0) := of_none rfl
theorem gteNinv (x0 : Nat) : Statement (.gteNinv x0) := of_none rfl
theorem gteRequestEnd (x0 : Nat) : Statement (.gteRequestEnd x0) := of_none rfl
theorem preemptionRequest (x0 x1 : Nat) : Statement (.preemptionRequest x0 x1) := of_none rfl
theorem contextSave (x0 x1 : Nat) : Statement (.contextSave x0 x1) := of_none rfl
theorem contextResume (x0 x1 : Nat) : Statement (.contextResume x0 x1) := of_none rfl
theorem doorbellWrite (x0 : Nat) (x1 : Word) : Statement (.doorbellWrite x0 x1) := of_none rfl
theorem hostQueueTake : Statement (.hostQueueTake) := of_none rfl
theorem dispatchPlacement (x0 : Nat) : Statement (.dispatchPlacement x0) := of_none rfl
theorem preemptionDecision (x0 : Nat) : Statement (.preemptionDecision x0) := of_none rfl
theorem resumeDecision (x0 : Nat) : Statement (.resumeDecision x0) := of_none rfl
theorem forcedResume (x0 : Nat) : Statement (.forcedResume x0) := of_none rfl
theorem terminationSweep (x0 : Nat) : Statement (.terminationSweep x0) := of_none rfl
theorem watchdogWindow (x0 : Nat) : Statement (.watchdogWindow x0) := of_none rfl
theorem managementAbort (x0 : Nat) : Statement (.managementAbort x0) := of_none rfl
theorem faultrespWrite (x0 : DWord) : Statement (.faultrespWrite x0) := of_none rfl
theorem faultheadWrite (x0 : Nat) (x1 : Word) : Statement (.faultheadWrite x0 x1) := of_none rfl
theorem shootgoWrite (x0 : DWord) : Statement (.shootgoWrite x0) := of_none rfl
theorem shootdownDone : Statement (.shootdownDone) := of_none rfl
theorem intstatClear (x0 : DWord) : Statement (.intstatClear x0) := of_none rfl
theorem pcfgWrite (x0 : Nat) (x1 : Line) : Statement (.pcfgWrite x0 x1) := of_none rfl
theorem managementPoolRead (x0 x1 : Nat) : Statement (.managementPoolRead x0 x1) := of_none rfl
theorem managementPoolWrite (x0 x1 : Nat) (x2 : DWord) : Statement (.managementPoolWrite x0 x1 x2) := of_none rfl
theorem moduleReset (x0 : BootInput) : Statement (.moduleReset x0) := of_none rfl
theorem plimitWrite (x0 : DWord) : Statement (.plimitWrite x0) := of_none rfl
theorem powerWindow (x0 : Half) : Statement (.powerWindow x0) := of_none rfl
theorem thermalStop (x0 : Half) : Statement (.thermalStop x0) := of_none rfl
theorem thermalTrip (x0 : Half) : Statement (.thermalTrip x0) := of_none rfl
theorem patrolScrub (x0 : Nat) : Statement (.patrolScrub x0) := of_none rfl
theorem rtcExtend (x0 : Sender) (x1 : BitVec 3) (x2 : Line) : Statement (.rtcExtend x0 x1 x2) := of_none rfl
theorem rtcAttestationReport (x0 : Sender) (x1 : BitVec 256) : Statement (.rtcAttestationReport x0 x1) := of_none rfl
theorem rtcAttestationDone : Statement (.rtcAttestationDone) := of_none rfl
theorem rtcReadBootstat (x0 : Sender) : Statement (.rtcReadBootstat x0) := of_none rfl
theorem rtcRaiseSvn (x0 : Sender) : Statement (.rtcRaiseSvn x0) := of_none rfl
theorem rtcExtendMr3 (x0 : Sender) (x1 : Line) : Statement (.rtcExtendMr3 x0 x1) := of_none rfl
theorem snapgoWrite (x0 : DWord) : Statement (.snapgoWrite x0) := of_none rfl
theorem snapstatWrite (x0 : DWord) : Statement (.snapstatWrite x0) := of_none rfl
theorem debugSnapshotTrigger : Statement (.debugSnapshotTrigger) := of_none rfl
theorem linkTraining (x0 x1 : DWord) : Statement (.linkTraining x0 x1) := of_none rfl
theorem pairctlRetrain (x0 : DWord) : Statement (.pairctlRetrain x0) := of_none rfl
theorem linkDown : Statement (.linkDown) := of_none rfl
theorem linkResponseTimeout : Statement (.linkResponseTimeout) := of_none rfl
theorem twinRequestArrival (x0 : TwinRequest) : Statement (.twinRequestArrival x0) := of_none rfl
theorem hqArrival (x0 : HqMsg) : Statement (.hqArrival x0) := of_none rfl
theorem subqueryAdmission : Statement (.subqueryAdmission) := of_none rfl
theorem hackArrival (x0 : Word) (x1 : Nat) : Statement (.hackArrival x0 x1) := of_none rfl
theorem hitArrival (x0 : Word) (x1 x2 : Nat) (x3 : List Byte) : Statement (.hitArrival x0 x1 x2 x3) := of_none rfl
theorem hendArrival (x0 : HendMsg) : Statement (.hendArrival x0) := of_none rfl
theorem hcanArrival (x0 : Nat) (x1 : Word) (x2 : Nat) : Statement (.hcanArrival x0 x1 x2) := of_none rfl
theorem schedArrival (x0 : SchedAct) : Statement (.schedArrival x0) := of_none rfl
theorem callerInstruction (x0 : Bool) (x1 : RvOp) : Statement (.callerInstruction x0 x1) := of_none rfl
theorem reservedEncoding (x0 : Word) : Statement (.reservedEncoding x0) := of_none rfl
theorem unloadedWalkerSlot : Statement (.unloadedWalkerSlot) := of_none rfl
theorem thermalResume (x0 : Half) : Statement (.thermalResume x0) := of_none rfl
theorem powerLoss : Statement (.powerLoss) := of_none rfl
theorem clusterPowerGating (x0 : Nat) : Statement (.clusterPowerGating x0) := of_none rfl
theorem clusterPowerRestore (x0 : Nat) : Statement (.clusterPowerRestore x0) := of_none rfl
theorem twinUnsupportedRequest : Statement (.twinUnsupportedRequest) := of_none rfl
theorem rtcUnknownRequest (x0 : Sender) (x1 : Nat) : Statement (.rtcUnknownRequest x0 x1) := of_none rfl

end Sys2Proof.Laws.EncodedLength
end

