-- ==== Sys2Proof/Laws/Turns.lean ====
section
/-! SUPPORT. What the turn of a group of one micro-thread gives for instructions that reach beyond its registers. -/

namespace Sys2Proof.Machine

/-- The one member's body decides the turn. -/
theorem turn_alone {s u : State} {n k : Nat} {g : Group} {slot : Nat} {m : Micro} {r : Res} {w : Nat} {ll : Bool}
    {room : State → Nat → Group → Bool} {body : State → Nat → Group → Nat → Micro → Except Flt State}
    (h : s.Alone n k g slot m r) (hr : room s n g = true) (hb : body s n g slot m = .ok u) :
    turn w ll room body s = .next (u.modCore n fun c => c.endTurn k g 4 w ll) := by
  obtain ⟨⟨⟨c, hs⟩, -, hm⟩, hg, -⟩ := h
  have hx : (s.core n).micro slot = m := by simp only [State.microAt] at hm; simp [Core.micro, hm]
  simp only [turn, hs, hr, ite_true, State.foldMembers, hg, List.foldl_cons, List.foldl_nil, hx, hb]

/-- What the end of a turn leaves of the state it ends. -/
theorem endTurn_facts (u : State) (n k : Nat) (g : Group) (w : Nat) (ll : Bool) (hn : n < 80) :
    let t := u.modCore n fun c => c.endTurn k g 4 w ll
    t = { u with cores := t.cores } ∧ (∀ x, x ≠ n → t.core x = u.core x) ∧ (t.core n).slots = (u.core n).slots ∧
      t.core n = { u.core n with groups := (t.core n).groups, res := (t.core n).res, eligible := (t.core n).eligible } ∧
      ∀ l, t.res? n l = (u.res? n l).map fun r => { r with budget := ((t.res? n l).map Res.budget).getD 0 } := by
  have hc := State.core_modCore_self u n (fun c => c.endTurn k g 4 w ll) hn
  refine ⟨State.modCore_eq u n _, fun x hx => State.core_modCore_other u n x _ hx, by simp [hc], ?_, fun l => ?_⟩
  · rw [hc]
    have h := Core.charge_eq (u.core n) g.launch (w * g.members.length)
    simp only [Core.endTurn]
    rw [h]
  · have h := Core.charge_res (u.core n) g.launch (w * g.members.length) l
    rw [State.res?, State.res?, hc]
    exact h

/-- The state after a post: pending destinations, and a flight entered, in the FIFO if `fifo`. -/
def State.posted (s : State) (n slot : Nat) (d : Reg) (nd : Nat) (fifo : Bool) (f : Flight) : State :=
  let s := if nd = 0 then s else s.modMicro n slot fun m => m.setPend d nd
  if fifo then s.addFifo f else s.addFlight f

@[simp] theorem Micro.setPend_none (m : Micro) (d : Reg) : m.setPend d 0 = m := by simp [Micro.setPend, groupCodes]

/-- A post as one change of the core and one of the flights. -/
theorem State.posted_eq (s : State) (n slot : Nat) (d : Reg) (nd : Nat) (fifo : Bool) (f : Flight) (hn : n < 80)
    (hf : f.core = n) :
    s.posted n slot d nd fifo f =
      { s.modCore n (fun c => { c with
          slots := if nd = 0 then c.slots else Tbl.set c.slots slot ((c.micro slot).setPend d nd)
          fifo := c.fifo ++ if fifo then [s.nextId] else [] }) with
        flights := Tbl.set s.flights s.nextId { f with sent := s.nextId }, nextId := s.nextId + 1 } := by
  subst hf
  have hc := State.cores_at s f.core hn
  unfold State.posted State.addFifo State.addFlight State.modMicro
  cases fifo <;> by_cases h0 : nd = 0 <;> simp [h0, State.modCore, hn, Core.modMicro, Core.setMicro]
  refine Vector.ext fun i hi => ?_
  rw [Vector.getElem_setIfInBounds]
  split
  · rename_i h; subst h; rfl
  · rfl

/-- An instruction whose body posts a flight has `Posts`. -/
theorem Posts.of_turn {i : Instr} {rs : List Reg} {fifo : Bool} {d : Reg} {nd : Nat} {ea : Micro → DWord}
    {ok : State → Nat → Group → Micro → Res → Op → Prop} {w : Nat} {ll : Bool} {room : State → State → Nat → Group → Bool}
    {body : State → State → Nat → Group → Nat → Micro → Except Flt State}
    (he : ∀ s, exec i s = turn w ll (room s) (body s) s)
    (hr : ∀ s n g slot m r o, g.members = [slot] → (s.core n).micro slot = m → ok s n g m r o → room s s n g = true)
    (hb : ∀ s n g slot m r o, s.res? n g.launch = some r → s.Sound → m.Ready rs → ok s n g m r o →
      body s s n g slot m = .ok (s.posted n slot d nd fifo
        (g.flight s n slot m (nd ≠ 0) d nd (ea m) o (if fifo then .fifo else .request)))) :
    Posts i rs fifo d nd ea ok := by
  intro s n k g slot m r o h hs hm ho
  obtain ⟨⟨⟨c, hc⟩, -, hx⟩, hg, hl⟩ := id h
  have hn := (State.seat_parts hc).1
  have hmi : (s.core n).micro slot = m := by simp only [State.microAt] at hx; simp [Core.micro, hx]
  refine ⟨_, (he s).trans (turn_alone h (hr s n g slot m r o hg hmi ho) (hb s n g slot m r o hl hs hm ho)), ?_⟩
  rw [State.posted_eq s n slot d nd fifo _ hn rfl]
  generalize hu : ({ s.modCore n _ with flights := _, nextId := _ } : State) = u
  have hc1 := State.core_modCore_self s n (fun c => { c with
          slots := if nd = 0 then c.slots else Tbl.set c.slots slot ((c.micro slot).setPend d nd)
          fifo := c.fifo ++ if fifo then [s.nextId] else [] }) hn
  have uc : u.core n = { s.core n with
          slots := if nd = 0 then (s.core n).slots else Tbl.set (s.core n).slots slot (m.setPend d nd)
          fifo := (s.core n).fifo ++ if fifo then [s.nextId] else [] } := by
    rw [← hmi, ← hc1, ← hu]; rfl
  have uo : ∀ x, x ≠ n → u.core x = s.core x := fun x hx => by
    rw [← State.core_modCore_other s n x _ hx, ← hu]; rfl
  have ue : u = { s with cores := u.cores, flights := u.flights, nextId := u.nextId } := by
    rw [← hu]; conv_lhs => rw [State.modCore_eq]
  have uf : u.flights = Tbl.set s.flights s.nextId { g.flight s n slot m (nd ≠ 0) d nd (ea m) o
      (if fifo then .fifo else .request) with sent := s.nextId } := by rw [← hu]
  clear hu
  obtain ⟨e1, e2, e3, e4, e5⟩ := endTurn_facts u n k g w ll hn
  generalize u.modCore n (fun c => c.endTurn k g 4 w ll) = t at *
  have tf : t.flights = u.flights := by rw [e1]
  refine ⟨?_, ?_, ?_, ?_, ?_, ?_, ?_, ?_, ?_, ?_⟩
  · simp only [State.microAt] at hx ⊢
    rw [e3, uc]
    by_cases h0 : nd = 0 <;> simp [h0, hx]
  · rw [tf, uf, Tbl.get?_set_self]
    by_cases h0 : nd = 0 <;> simp [h0, Group.flight]
  · rw [e4, uc]
  · rw [e4, uc]
  · intro id hid
    rw [tf, uf, Tbl.get?_set_other _ _ _ _ (Nat.ne_of_lt hid)]
  · intro l
    have h5 := e5 l
    rw [show u.res? n l = s.res? n l by simp only [State.res?, uc]] at h5
    simpa using h5
  · rw [e1]; conv_lhs => rw [ue]
  · exact fun x hx => (e2 x hx).trans (uo x hx)
  · intro x hx
    simp only [State.microAt, e3, uc]
    by_cases h0 : nd = 0 <;> simp [h0, Tbl.get?_set_other _ _ _ _ hx]
  · rw [e4, uc]

end Sys2Proof.Machine
end

