-- ==== Sys2Proof/Tests/Slice0.lean ====
section
/-!
SUPPORT. Small checks: ill-formed instructions are refused, words written from the encoding tables decode, single steps give
what the spec's own examples print, and every statement's hypotheses can be met.
-/

namespace Sys2Proof.Tests

set_option Elab.async false

open Sys2Proof.Machine

/-! Well-formedness: one ill-formed term for each check (R19, R76-R78, R80, R86, R149, R307). -/

theorem test_wf_pair : Instr.wf (.addD 1#6 2#6 4#6) = false := by decide
theorem test_wf_group4 : Instr.wf (.spawn 0#6 2#6 4#6) = false := by decide
theorem test_wf_group8 : Instr.wf (.icount 0#6 4#6) = false := by decide
theorem test_wf_general : Instr.wf (.linkr 0#6 1#6 56#6) = false := by decide
theorem test_wf_rounding : Instr.wf (.f2i 0#6 1#6 5#3) = false := by decide
theorem test_wf_special : Instr.wf (.movs 0#6 31#6) = false := by decide
theorem test_wf_scope : Instr.wf (.fenceFull 7#3) = false := by decide
theorem test_wf_load_size : Instr.wf (.ld 0#6 2#6 7#3 0#2 0#8) = false := by decide
theorem test_wf_store_size : Instr.wf (.st 0#6 2#6 1#3 0#2 0#8) = false := by decide
theorem test_wf_kind : Instr.wf (.ld 0#6 2#6 4#3 3#2 0#8) = false := by decide
theorem test_wf_size_group : Instr.wf (.ld 2#6 2#6 6#3 0#2 0#8) = false := by decide
theorem test_wf_walk_dest : Instr.wf (.box8 29#5) = false := by decide
theorem test_wf_walk_cond : Instr.wf (.walkCmpI32 0#5 1#5 2#5 8#4) = false := by decide

/-! Decoding. -/

/-- The words the spec prints with their assembly (R78, R81-R84, R88-R107, R116-R137, R300, R307). -/
theorem test_decode_spec_examples :
    ([0x0A3922A1, 0x042044B7, 0x000044FF, 0x32206503, 0x0218E30D, 0x12346311, 0xD5E0C305, 0x2438C113,
      0x0640E317, 0x00080299, 0x0040E32D, 0x00000051, 0x100009FF, 0x00001E7F, 0x00001C7F, 0x00001F7F, 0x0001DC7F,
      0x0038C29B, 0x0071851D, 0x8040E31F, 0x9240E325, 0x0008E327, 0x0200A429, 0x08190A2B, 0x0240E32F,
      0x080060AF, 0x0200A033, 0x04A044B9, 0x0060003D, 0x00A0003D, 0x00E0003D, 0x0000854D, 0x0200C84D, 0x0400C44D,
      0x0628804D, 0x0800E04D].map (decodeTableWord 32)) =
      [some (.ffma 5#6 9#6 7#6 5#6), some (.ld 9#6 2#6 4#3 0#2 4#8),
      some (.br 1#3 0#1 1#8 0#10), some (.mulWD 10#6 3#6 4#6), some (.srai 6#6 7#6 3#5), some (.lui 6#6 0x91A3#19),
      some (.addi 6#6 6#6 0x1ABC#13), some (.cmpF32 2#3 6#6 7#6 2#3), some (.sel 6#6 7#6 8#6 3#3), some (.movs 5#6 1#6),
      some (.bfe 6#6 7#6 8#6), some .nop, some (.call 2#3 0#1 0#8 64#10), some (.ret 7#3 0#1 0#8), some (.next 0#8),
      some (.stop 7#3 0#1 0#8), some (.next 7#8), some (.fadd 5#6 6#6 7#6), some (.dadd 10#6 12#6 14#6),
      some (.add2Bf 6#6 7#6 8#6), some (.hfmaBf 6#6 7#6 8#6 9#6), some (.f2i 6#6 7#6 1#3), some (.rsq 8#6 5#6),
      some (.pkb4 20#6 8#6 3#6), some (.rotl 6#6 7#6 8#6), some (.voteall 1#3 3#3), some (.xadd 5#6),
      some (.st 9#6 2#6 4#3 2#2 4#8), some (.fenceAcq 4#3), some (.fenceRel 4#3), some (.fenceRsc 4#3),
      some (.tpost 10#6 4#6), some (.hpop 16#6 6#6), some (.hcount 8#6 6#6), some (.tcfg 4#6 5#6), some (.tcancel 7#6)] := by rfl

/-- A CMPI word of the spec, which is a walker word too (R71, R107). -/
theorem test_decode_cmpi : decodeMicro [0x7095#16, 0#16] = .ok (.cmpi 1#3 4#3 3#6 0#13, []) := by rfl

/-- Walker words the spec prints (R307). -/
theorem test_decode_walker_examples :
    ([0x024A7358, 0xFF606819, 0x00000303].map (decodeTableWord 32)) =
      [some (.walkCmpF32 13#5 14#5 10#5 2#4), some (.walkBr 13#5 0x7FB#11), some (.box8 12#5)] := by rfl

/-- 16-bit halfwords the spec prints (R94). -/
theorem test_decode_short_examples :
    ([0xF872, 0x2042, 0xC0C2].map (decodeTableWord 16)) =
      [some (.addi16 3#6 0x1F#5), some (.add16 2#6 4#5), some (.add16 6#6 24#5)] := by rfl

/-- FAR g10 with its extension word (R83). -/
theorem test_decode_far : decodeTableWord 64 0x0000004A00001FFF = some (.farRegister 0#8 0#1 7#3 10#6) := by rfl

/-- A word of major 0x00 is reserved (R89). -/
theorem test_decode_reserved : (match decodeMicro [1#16, 0#16, 0#16, 0#16] with | .ok _ => true | .error _ => false) = false := by rfl

/-- Words written from the fields the encoding tables give (R79-R86, R194, R305). -/
theorem test_decode_integer_1 :
    ([0x013A1783, 0x02B65603, 0x05E6B783, 0x074F7083, 0x080EAE83, 0x0B8F8783, 0x0D487C83, 0x0E50EB83, 0x10F6E783,
      0x12C44303, 0x1521E003, 0x1771AD03, 0x18897D03, 0x1BBE2C03, 0x1C561983, 0x1E211383, 0x213B8403, 0x22401F03,
      0x25B80683, 0x26062683, 0x2807BF03, 0x2A015B83, 0x2C014903, 0x2EB68803, 0x31D50103, 0x33A9A403, 0x35F5D203,
      0xF3211405, 0xE5864D07, 0x1B494D89, 0x5F79218B, 0xD843490F, 0x0023BD8D, 0x01FCFB0D, 0x022FD08D, 0x0377AF8D,
      0xB057D711, 0x04F22113, 0x26CF2093, 0x40C68393].map (decodeTableWord 32)) =
      [some (.add 47#6 16#6 39#6), some (.sub 44#6 50#6 22#6), some (.and 47#6 53#6 60#6),
      some (.or 33#6 59#6 41#6), some (.xor 29#6 53#6 1#6), some (.andn 15#6 60#6 49#6), some (.sll 57#6 3#6 41#6),
      some (.srl 23#6 7#6 10#6), some (.sra 15#6 55#6 30#6), some (.rol 6#6 34#6 24#6), some (.min 0#6 15#6 36#6),
      some (.max 26#6 13#6 46#6), some (.minu 58#6 11#6 17#6), some (.maxu 24#6 49#6 55#6),
      some (.mul 51#6 48#6 10#6), some (.mulh 39#6 8#6 4#6), some (.mulhu 8#6 28#6 39#6), some (.adds 62#6 0#6 8#6),
      some (.subs 13#6 0#6 55#6), some (.clz 13#6 49#6), some (.ctz 62#6 61#6), some (.popc 55#6 10#6),
      some (.brev 18#6 10#6), some (.addD 16#6 52#6 22#6), some (.subD 2#6 40#6 58#6), some (.mulWD 8#6 13#6 53#6),
      some (.muluWD 36#6 46#6 62#6), some (.addi 40#6 8#6 7780#13), some (.andi 26#6 50#6 7344#13),
      some (.ori 27#6 10#6 873#13), some (.xori 3#6 9#6 3055#13), some (.muli 18#6 26#6 6920#13),
      some (.slli 59#6 29#6 4#5), some (.srli 54#6 39#6 31#5), some (.srai 33#6 62#6 5#5),
      some (.roli 31#6 61#6 14#5), some (.lui 46#6 361150#19), some (.cmpI32 2#3 17#6 30#6 2#3),
      some (.cmpF32 1#3 57#6 25#6 3#3), some (.cmpF64 7#3 52#6 24#6 0#3)] := by rfl

/-- Words written from the fields the encoding tables give (R79-R86, R194, R305). -/
theorem test_decode_integer_2 :
    ([0x69504313, 0x4E42F295, 0x0A8EAF97, 0x00801899, 0x0238A299, 0x0410E399, 0x0610A099, 0x08008319, 0x0A000019,
      0x0CF46019, 0x080123A9, 0x0A065529, 0x01701D2D, 0xE09D8E2D, 0x10070BB1, 0x16062A31, 0x1A0631B1, 0x1C079831,
      0x02010033, 0x05202033, 0x06000E33, 0x08001A33, 0x2656A2FF, 0x0028CF7F].map (decodeTableWord 32)) =
      [some (.cmpI64 6#3 2#6 42#6 4#3), some (.cmpi 5#3 4#3 23#6 2504#13), some (.sel 31#6 53#6 17#6 5#3),
      some (.movs 49#6 16#6), some (.pand 5#3 5#3 7#3), some (.por 7#3 7#3 2#3), some (.pxor 1#3 5#3 2#3),
      some (.pnot 6#3 4#3), some (.p2g 0#6), some (.g2p 35#6 30#6), some (.sinr 7#6 9#6), some (.cosr 42#6 50#6),
      some (.bfe 58#6 0#6 46#6), some (.bfi 28#6 44#6 19#6 48#6), some (.rfadd 23#6 56#6), some (.sadd 20#6 49#6),
      some (.sfadd 35#6 49#6), some (.rdadd 48#6 60#6), some (.xadd 8#6), some (.xmad 1#6 36#6), some (.xrnd 28#6),
      some (.xrndd 52#6), some (.run 0#3 1#1 90#8 153#10), some (.stop 3#3 0#1 163#8)] := by rfl

/-- Words written from the fields the encoding tables give (R79-R86, R194, R305). -/
theorem test_decode_float_1 :
    ([0x018A0A1B, 0x03522E9B, 0x0496901B, 0x074D799B, 0x08B2C89B, 0x0A052B1B, 0x0C05FE1B, 0x0FAB4B1B, 0x10077A9B,
      0x12017B9B, 0x1406F61B, 0x16039F1B, 0x01F1461D, 0x03B3C91D, 0x0555CD1D, 0x06B3151D, 0x0894501D, 0x0A06841D,
      0x0C034D1D, 0x0EC48F1D, 0x1004C29D, 0x1202DA1D, 0x14000C1D, 0x1600CA1D, 0x0127539F, 0x03112A1F, 0x05471C9F,
      0x07230D9F, 0x08DFC71F, 0x80FA4F1F, 0x83F5AC1F, 0x84C7BB1F, 0x87D1531F, 0x8932179F, 0x7C9BE821, 0xB40A9E21,
      0x64255E23, 0xC0975E23, 0x471CE725, 0xA02467A5].map (decodeTableWord 32)) =
      [some (.fadd 20#6 16#6 49#6), some (.fsub 29#6 17#6 42#6), some (.fmul 32#6 52#6 18#6),
      some (.fmin 51#6 43#6 41#6), some (.fmax 17#6 22#6 22#6), some (.fabs 22#6 41#6), some (.fneg 60#6 47#6),
      some (.fsgn 22#6 26#6 53#6), some (.fcls 53#6 59#6), some (.fflr 55#6 11#6), some (.fceil 44#6 55#6),
      some (.frndn 62#6 28#6), some (.dadd 12#6 10#6 62#6), some (.dsub 18#6 30#6 54#6),
      some (.dmul 26#6 46#6 42#6), some (.dmin 42#6 24#6 22#6), some (.dmax 32#6 34#6 18#6), some (.dabs 8#6 52#6),
      some (.dneg 26#6 26#6), some (.dsgn 30#6 36#6 24#6), some (.dcls 5#6 38#6), some (.dflr 52#6 22#6),
      some (.dceil 24#6 0#6), some (.drndn 20#6 6#6), some (.add2 39#6 58#6 36#6), some (.sub2 20#6 9#6 34#6),
      some (.mul2 57#6 56#6 40#6), some (.min2 27#6 24#6 36#6), some (.max2 14#6 62#6 27#6),
      some (.add2Bf 30#6 18#6 31#6), some (.sub2Bf 24#6 45#6 62#6), some (.mul2Bf 54#6 61#6 24#6),
      some (.min2Bf 38#6 10#6 58#6), some (.max2Bf 47#6 16#6 38#6), some (.ffma 16#6 31#6 19#6 62#6),
      some (.ffms 60#6 20#6 1#6 26#6), some (.dfma 60#6 42#6 4#6 50#6), some (.dfms 60#6 58#6 18#6 32#6),
      some (.hfma 14#6 39#6 35#6 35#6), some (.hfmaBf 15#6 35#6 4#6 16#6)] := by rfl

/-- Words written from the fields the encoding tables give (R79-R86, R194, R305). -/
theorem test_decode_float_2 :
    ([0x0016B827, 0x02143F27, 0x040E67A7, 0x060DA0A7, 0x08254127, 0x0A0B1C27, 0x0C1BDEA7, 0x0E10D927, 0x10203127,
      0x123B75A7, 0x1400BF27, 0x163D4FA7, 0x1800C127, 0x1A0E0927, 0x1C129E27, 0x00007629, 0x020035A9, 0x0403AF29,
      0x0606DE29, 0x0C028929, 0x0E004629, 0x00880EAB, 0x021B98AB, 0x0405A22B, 0x0600682B, 0x0964142B,
      0x0A05042B].map (decodeTableWord 32)) =
      [some (.f2i 48#6 53#6 2#3), some (.f2u 62#6 33#6 2#3), some (.i2f 15#6 51#6 1#3), some (.u2f 1#6 45#6 1#3),
      some (.d2f 2#6 42#6 4#3), some (.f2d 56#6 24#6 1#3), some (.d2i 61#6 30#6 3#3), some (.i2d 50#6 6#6 2#3),
      some (.f2h 34#6 1#6 4#3), some (.h2f 43#6 27#6 7#3), some (.f2bf 62#6 5#6 0#3), some (.bf2f 31#6 42#6 7#3),
      some (.d2l 2#6 6#6 0#3), some (.l2d 18#6 48#6 1#3), some (.f2h2 60#6 20#6 2#3), some (.rcp 44#6 3#6),
      some (.rsq 43#6 1#6), some (.log2 30#6 29#6), some (.exp2 60#6 54#6), some (.drcp 18#6 20#6),
      some (.drsq 12#6 2#6), some (.pke4 29#6 0#6 17#6), some (.pke5 49#6 28#6 3#6), some (.upe4 4#6 45#6),
      some (.upe5 16#6 3#6), some (.pkb4 40#6 32#6 44#6), some (.upb4 8#6 40#6)] := by rfl

/-- Words written from the fields the encoding tables give (R79-R86, R194, R305). -/
theorem test_decode_lanes :
    ([0x01CE9FAF, 0x027463AF, 0x04426F2F, 0x062E38AF, 0x0800432F, 0x0A00612F, 0x0C00242F, 0x0F10AF2F, 0x107D82AF,
      0x00066DB1, 0x0207B231, 0x040547B1, 0x060221B1, 0x0803F631, 0x0A01E1B1, 0x0C05A631, 0x0E064931, 0x12070331,
      0x14008D31, 0x18031831, 0x00000033].map (decodeTableWord 32)) =
      [some (.shfl 63#6 52#6 57#6), some (.rotl 7#6 35#6 14#6), some (.bfly 30#6 19#6 8#6),
      some (.bcast 49#6 49#6 5#6), some (.voteall 6#3 2#3), some (.voteany 2#3 3#3), some (.ballot 8#6 1#3),
      some (.linkr 30#6 5#6 34#6), some (.linkw 5#6 44#6 15#6), some (.radd 27#6 51#6), some (.rmin 36#6 61#6),
      some (.rmax 15#6 42#6), some (.rminu 3#6 17#6), some (.rmaxu 44#6 31#6), some (.rand 3#6 15#6),
      some (.ror 12#6 45#6), some (.rxor 18#6 50#6), some (.rfmin 6#6 56#6), some (.rfmax 26#6 4#6),
      some (.saddx 48#6 24#6), some (.xclr)] := by rfl

/-- Words written from the fields the encoding tables give (R79-R86, R194, R305). -/
theorem test_decode_memory :
    ([0x00010835, 0x03600335, 0x04A30A35, 0x06C003B5, 0xAF1B1EB7, 0x16824D39, 0x00AF9B3B, 0x0219CD3B, 0x0555C23B,
      0x0716CC3B, 0x082B8B3B, 0x0A0698BB, 0x0C699F3B, 0x0F9B803B, 0x10F400BB, 0x137359BB, 0x15BE9A3B, 0x17A6053B,
      0x1805543B, 0x1B21083B, 0x1D73043B, 0x0008003D, 0x0058003D, 0x00A8003D, 0x00E8003D].map (decodeTableWord 32)) =
      [some (.icount 16#6 8#6), some (.iwrite 6#6 0#6 44#6), some (.uwrite 20#6 24#6 20#6),
      some (.mwrite 7#6 0#6 24#6), some (.ld 61#6 24#6 3#3 0#2 175#8), some (.st 26#6 18#6 0#3 2#2 22#8),
      some (.aaddW 54#6 60#6 21#6), some (.aandW 26#6 14#6 3#6), some (.aorW 4#6 46#6 42#6),
      some (.axorW 24#6 54#6 34#6), some (.aminW 22#6 28#6 5#6), some (.amaxW 49#6 52#6 0#6),
      some (.aminuW 62#6 12#6 13#6), some (.amaxuW 0#6 28#6 51#6), some (.aswapW 1#6 32#6 30#6),
      some (.acasW 51#6 26#6 46#6), some (.afaddW 52#6 52#6 55#6), some (.aaddD 10#6 48#6 52#6),
      some (.aswapD 40#6 42#6 0#6), some (.acasD 16#6 8#6 36#6), some (.afaddD 8#6 24#6 46#6),
      some (.fenceFull 1#3), some (.fenceAcq 3#3), some (.fenceRel 5#3), some (.fenceRsc 5#3)] := by rfl

/-- Words written from the fields the encoding tables give (R79-R86, R194, R305). -/
theorem test_decode_engines :
    ([0x0018003F, 0x0206203F, 0x0001AD41, 0x0201D041, 0x019C07C3, 0x02158043, 0x04031C43, 0x06E0D4C3, 0x0804DE43,
      0x0A031FC3, 0x00D10EC5, 0x02000045, 0x04B08045, 0x06000FC5, 0x000004C7, 0x020004C7, 0x040000C7, 0x06000247,
      0x080001C7, 0x0A004047, 0x0C006147, 0x0E00A047, 0x10000047, 0x048206C9, 0x0000004B, 0x0205024B, 0x04C1454B,
      0x0791F64B, 0x0884A1CB, 0x00070E4D, 0x0400E04D, 0x06E8404D, 0x0805804D, 0x00001C4F].map (decodeTableWord 32)) =
      [some (.cpost 0#6 0#6 3#6), some (.ccancel 49#6), some (.gpost 26#6 13#6), some (.gstat 32#6 14#6),
      some (.qinit 15#6 32#6 51#6), some (.qpush 44#6 2#6), some (.qpop 56#6 24#6), some (.qpushn 41#6 6#6 28#6),
      some (.qpopn 60#6 38#6), some (.qcount 63#6 24#6), some (.spawn 29#6 8#6 26#6), some (.quit),
      some (.sendw 4#6 22#6), some (.recvw 31#6), some (.sign 9#4 0#6), some (.cvwait 9#4), some (.lvarr 1#3),
      some (.lvwait 4#3), some (.lvsync 3#3), some (.qjoin 2#6), some (.csig 2#2 3#6), some (.waitev 5#6),
      some (.yield), some (.mma 13#4 16#6 16#6 0#1 1#1 0#1), some (.accz 0#4), some (.accld 4#4 40#6),
      some (.accst 10#4 10#6 24#6), some (.wbld 44#6 15#6 50#6), some (.skset 3#2 37#6 16#6),
      some (.tpost 28#6 56#6), some (.hcount 0#6 7#6), some (.tcfg 2#6 29#6), some (.tcancel 44#6),
      some (.mint 56#6 0#6)] := by rfl

/-- Words written from the fields the encoding tables give (R79-R86, R194, R305). -/
theorem test_decode_walker :
    ([0x0204C44D, 0x00208801, 0x01800002, 0x00000203, 0x0000D284, 0x000998C5, 0x00064346, 0x000BDF07, 0x00008208,
      0x000FA009, 0x0016050A, 0x0005184B, 0x1DD6C00C, 0x0000180D, 0x0000000E, 0x560000D0, 0x00001ED1, 0x00144ED2,
      0x00189153, 0x00116154, 0x001455D5, 0x001840D6, 0x000DDA97, 0x00965358, 0x02291158, 0x0A00F019,
      0x1820001A].map (decodeTableWord 32)) =
      [some (.hpop 8#6 38#6), some (.nfetch 17#5 1#2), some (.ndec 12#4), some (.box8 8#5), some (.tri 10#5 26#5),
      some (.split 3#5 19#5 9#5), some (.kcmp 13#5 8#5 6#5), some (.dist 28#5 27#5 11#5), some (.child 8#5 16#5),
      some (.push 20#5 15#5), some (.pop 20#5 22#5), some (.kbest 1#5 3#5 5#5), some (.emit 24#5 22#5 238#11),
      some (.handoff 3#5), some (.walkEnd), some (.movi 3#5 688#11), some (.walkMov 27#5 3#5),
      some (.walkAdd 27#5 9#5 20#5), some (.walkSub 5#5 18#5 24#5), some (.walkFadd 5#5 12#5 17#5),
      some (.walkFmul 23#5 10#5 20#5), some (.walkFmin 3#5 8#5 24#5), some (.walkFmax 10#5 27#5 13#5),
      some (.walkCmpI32 13#5 10#5 22#5 4#4), some (.walkCmpF32 5#5 2#5 9#5 1#4), some (.walkBr 30#5 80#11),
      some (.walkJmp 193#11)] := by rfl

/-- Words written from the fields the encoding tables give (R79-R86, R194, R305). -/
theorem test_decode_trailers :
    ([0x00000051, 0x02060051, 0x04000051, 0x060290D1, 0x08055CD1, 0x001FDC7F, 0x771854FF, 0x377C5D7F, 0x435431FF,
      0x000D027F].map (decodeTableWord 32)) =
      [some (.nop), some (.trap 48#6), some (.ebrk), some (.fstat 33#6 20#6), some (.setrm 57#6 42#6),
      some (.next 127#8), some (.br 5#3 0#1 97#8 476#10), some (.jmp 241#8 221#10),
      some (.call 4#3 1#1 80#8 269#10), some (.ret 0#3 0#1 52#8)] := by rfl

/-- Words written from the fields the encoding tables give (R79-R86, R194, R305). -/
theorem test_decode_short :
    ([0x9C20, 0xA322, 0x2984, 0x2746, 0x7948, 0xAC0A, 0x776C, 0x92CE, 0xE830, 0x2372, 0x4494, 0x7C16, 0x8F98,
      0xE1BA, 0x89FC, 0xA95E].map (decodeTableWord 16)) =
      [some (.mov16 33#6 19#5), some (.add16 25#6 20#5), some (.sub16 12#6 5#5), some (.and16 58#6 4#5),
      some (.or16 10#6 15#5), some (.xor16 32#6 21#5), some (.sll16 59#6 14#5), some (.srl16 22#6 18#5),
      some (.sra16 1#6 29#5), some (.addi16 27#6 4#5), some (.mul16 36#6 8#5), some (.fadd16 32#6 15#5),
      some (.fsub16 60#6 17#5), some (.fmul16 13#6 28#5), some (.fmin16 15#6 17#5),
      some (.fmax16 10#6 21#5)] := by rfl

/-- Words written from the fields the encoding tables give (R79-R86, R194, R305). -/
theorem test_decode_xfig :
    ([0x019B8E0B, 0x00001F0B, 0x0008268B, 0x0001B70B, 0x00D1438B, 0x0006D00B, 0x03E9588B, 0x009A618B, 0x000AF80B,
      0x0200750B, 0x000E85AB, 0x01E1172B, 0x00C1A2AB].map (decodeTableWord 32)) =
      [some (.figCall 28#5 23#5 25#5), some (.figWait 30#5), some (.figSync 13#5 16#5), some (.figSetw 14#5 3#5),
      some (.figAlloc 7#5 2#5 13#5), some (.figRdreg 0#5 13#5), some (.figWrreg 17#5 18#5 30#5),
      some (.figResume 3#5 20#5 9#5), some (.figMbox 16#5 21#5), some (.figEvent 10#5), some (.figLaunch 11#5 29#5),
      some (.figInbox 14#5 2#5 30#5), some (.figReplay 5#5 3#5 12#5)] := by rfl
/-! Single steps against the spec's own examples. -/

/-- A micro-thread with budget 56 and some registers set. -/
def microWith (regs : List (Nat × Nat)) : Micro :=
  regs.foldl (fun m p => m.setReg (BitVec.ofNat 6 p.1) (BitVec.ofNat 32 p.2)) trialMicro

/-- Micro-threads in slots 0, 1, … of core 0, all members of one group whose turn it is. -/
def seated (ms : List Micro) : State :=
  let s := State.reset.modCore 0 fun c =>
    { trialCore c [] with
      slots := ms.mapIdx fun i m => (i, m)
      res := [(1, { trialRes with grant := some 4 })]
      groups := [(0, { launch := 1, fig := 0#32, off := 0, ll := 0, members := List.range ms.length, waiting := [] })] }
  { s with focus := .group 0 0 0, sealed := [trialObject] }

/-- What a slot holds after an instruction: registers, predicates, flags. -/
def after (i : Instr) (ms : List Micro) (slot : Nat) (rs : List Nat) : Option (List Nat × Nat × Nat) :=
  match exec i (seated ms) with
  | .next t => (t.microAt 0 slot).map fun m => (rs.map fun r => (m.reg (BitVec.ofNat 6 r)).toNat, m.preds.toNat, m.fflags.toNat)
  | _ => none

/-- ADDS and ADD of the example under R101. -/
theorem test_adds : after (.adds 5#6 6#6 7#6) [microWith [(6, 0x7FFFFFF0), (7, 0x20)]] 0 [5] = some ([0x7FFFFFFF], 0, 0) := by
  decide
theorem test_add : after (.add 5#6 6#6 7#6) [microWith [(6, 0x7FFFFFF0), (7, 0x20)]] 0 [5] = some ([0x80000010], 0, 0) := by
  decide
theorem test_subs : after (.subs 5#6 6#6 7#6) [microWith [(6, 0x80000000), (7, 1)]] 0 [5] = some ([0x80000000], 0, 0) := by
  decide
/-- The example under R102. -/
theorem test_mul_wd :
    after (.mulWD 10#6 3#6 4#6) [microWith [(3, 0xFFFFFFFE), (4, 3)]] 0 [10, 11] = some ([0xFFFFFFFA, 0xFFFFFFFF], 0, 0) := by
  decide
theorem test_mulu_wd :
    after (.muluWD 10#6 3#6 4#6) [microWith [(3, 0xFFFFFFFE), (4, 3)]] 0 [10, 11] = some ([0xFFFFFFFA, 2], 0, 0) := by
  decide
/-- The example under R104: LUI and ADDI build 0x12345ABC. -/
theorem test_lui : after (.lui 6#6 0x91A3#19) [microWith []] 0 [6] = some ([0x12346000], 0, 0) := by decide
theorem test_addi : after (.addi 6#6 6#6 0x1ABC#13) [microWith [(6, 0x12346000)]] 0 [6] = some ([0x12345ABC], 0, 0) := by decide
/-- The example under R106: a NaN is not less and raises NV; NE is true and raises nothing. -/
theorem test_cmp_lt_nan :
    after (.cmpF32 2#3 6#6 7#6 2#3) [microWith [(6, 0x7FC00000), (7, 0)]] 0 [] = some ([], 0, 0x10) := by decide
theorem test_cmp_ne_nan :
    after (.cmpF32 2#3 6#6 7#6 1#3) [microWith [(6, 0x7FC00000), (7, 0)]] 0 [] = some ([], 4, 0) := by decide
/-- The examples under R111. -/
theorem test_bfe : after (.bfe 6#6 7#6 8#6) [microWith [(7, 0xF00), (8, 0x10408)]] 0 [6] = some ([0xFFFFFFFF], 0, 0) := by
  decide
theorem test_bfi :
    after (.bfi 6#6 7#6 8#6 9#6) [microWith [(7, 5), (8, 0x408), (9, 0xAAAAAAAA)]] 0 [6] = some ([0xAAAAA5AA], 0, 0) := by
  decide
/-- The example under R125. -/
theorem test_add2_bf :
    after (.add2Bf 6#6 7#6 8#6) [microWith [(7, 0x3F803F80), (8, 0x3B80C000)]] 0 [6] = some ([0x3F80BF80], 0, 1) := by decide
/-- The example under R131: −2.75 in RTZ, RDN, and the canonical NaN. -/
theorem test_f2i : after (.f2i 6#6 7#6 1#3) [microWith [(7, 0xC0300000)]] 0 [6] = some ([0xFFFFFFFE], 0, 1) := by decide
theorem test_f2i_nan : after (.f2i 6#6 7#6 1#3) [microWith [(7, 0x7FC00000)]] 0 [6] = some ([0], 0, 0x10) := by decide
/-- The example under R68: RSQ of 9. -/
theorem test_rsq : after (.rsq 8#6 5#6) [microWith [(5, 0x41100000)]] 0 [8] = some ([0x3EAAB000], 0, 1) := by decide +kernel
/-- The block of the example under R54 and R142. -/
theorem test_pkb4 :
    after (.pkb4 20#6 8#6 3#6)
      [microWith [(8, 0x3E800000), (9, 0xBF800000), (10, 0x40200000), (11, 0x40400000), (12, 0), (13, 0xBF000000),
        (14, 0x3FC00000), (15, 0x3F400000), (3, 0)]] 0 [20, 21] = some ([0x35A078C1, 0x4A7E], 0, 0) := by decide +kernel
/-- The example under R64: a set of four, in the tree and in the exact accumulator's lane order. -/
theorem test_rfadd :
    after (.rfadd 5#6 6#6) [microWith [(6, 0x3F800000)], microWith [(6, 0x33800000)], microWith [(6, 0x33800000)],
      microWith [(6, 0)]] 3 [5] = some ([0x3F800000], 0, 1) := by decide
/-- A code at the budget is illegal, and a pending source is an unawaited read (R18, R76, R87). -/
theorem test_budget_fault :
    ((match exec (.add 5#6 40#6 7#6) (seated [{ microWith [] with bud := 32 }]) with
      | .next t => (t.microAt 0 0).map fun m => (m.life, m.fault.map FaultInfo.code)
      | _ => none) = some (.faulted, some 0x01#8)) := by decide
theorem test_pending_fault :
    ((match exec (.add 5#6 6#6 7#6) (seated [{ microWith [] with pend := 0x40#64 }]) with
      | .next t => (t.microAt 0 0).map fun m => m.fault.map fun f => (f.code, f.detail)
      | _ => none) = some (some (0x03#8, 6#32))) := by decide

/-! The machine. -/

/-- Reset memory is in the canonical form. -/
theorem test_reset_memory : Memory.wf State.reset.mem = true := by decide

/-- A placed word is the first instruction after reset: ADD g1, g2, g3 adds. -/
theorem test_first_step :
    (match step (State.reset.withFetchWord 32 0x00188083) with
      | .next t => (Tbl.get? (t.core 0).groups 0).map fun g => g.off
      | _ => none) = some 4 := by decide

/-! Every statement's hypotheses are met: one state for each agent, and what each statement asks of it beside that. -/

/-- A launch record with some fields set. -/
def recordWith (fields : List (Nat × Nat × Nat)) : List Byte :=
  fields.foldl (fun b f => b.take f.1 ++ bytesOfNat f.2.1 f.2.2 ++ b.drop (f.1 + f.2.1)) (bytesOfNat 200 0)

/-- One core at (0, 0), ASID 1, one level of domain 1, one tile, one WB unit, call stacks of two entries from 0x100. -/
def richRecord : List Byte :=
  recordWith [(8, 2, 1), (11, 1, 1), (14, 1, 1), (15, 1, 1), (16, 8, 0x1000), (54, 1, 1), (56, 2, 1), (68, 4, 0x100), (72, 1, 2),
    (128, 1, 1)]

/-- A resident launch with a grant, convergence registers of two signers, skip streams, a level and a hit queue. -/
def richRes : Res :=
  { trialRes with
    record := richRecord, grant := some 4, cvs := List.replicate 16 ⟨2, []⟩, sks := List.replicate 4 ⟨0, 0, 0, false⟩
    tileMap := [0], wbMap := [0], levels := [Level.blank], hitqs := some ⟨0x4000, 2, 3, true, 0, 0, []⟩ :: List.replicate 7 none
    walker := List.replicate 1024 0#32 }

/-- The issue group of the micro-thread in slot 0. -/
def soleGroup : Group := { launch := 1, fig := 0#32, off := 0, ll := 0, members := [0], waiting := [] }

/-- Launch 1 on core 0, with a micro-thread in slot 0 and a query in entry 0. -/
def placed (r : Res) (m : Micro) (q : Query) : State :=
  { (State.reset.modCore 0 fun c => { trialCore c [] with slots := [(0, m)], res := [(1, r)], queries := [(0, q)] }) with
    focus := .group 0 0 0, sealed := [trialObject] }

/-- It is the micro-thread's turn. -/
def turnOf (m : Micro) (r : Res := richRes) : State := placed r m trialQuery

/-- It is the caller's turn. -/
def callerTurn (h : Caller) (m : Micro := trialMicro) : State :=
  { placed { richRes with caller := h } m trialQuery with focus := .caller 0 1 }

/-- It is the query's turn. -/
def queryTurn (q : Query) (r : Res := richRes) : State := { placed r trialMicro q with focus := .walker 0 0 }


/-- A state that agrees with reset in memory, power and accesses in flight is sound. -/
theorem witness_sound (s : State) (a : s.mem = []) (b : s.power = Power.reset) (c : s.flights = []) : s.Sound := by
  unfold State.Sound; rw [a, b, c]; exact ⟨rfl, by decide, by decide, rfl, fun _ h => (List.not_mem_nil h).elim⟩

theorem witness_alone (m : Micro) (r : Res) : (turnOf m r).Alone 0 0 soleGroup 0 m r ∧ (turnOf m r).Sound := by
  have h : ∃ c, (turnOf m r).seat? = some (0, 0, c, soleGroup) := ⟨_, rfl⟩
  have a : (turnOf m r).microAt 0 0 = some m := rfl
  have b : (turnOf m r).res? 0 1 = some r := rfl
  exact ⟨⟨⟨h, .head _, a⟩, rfl, b⟩, witness_sound _ rfl rfl rfl⟩

theorem witness_calling (h : Caller) (m : Micro) :
    (callerTurn h m).Calling 0 1 { richRes with caller := h } ∧ (callerTurn h m).Sound := by
  refine ⟨⟨rfl, by decide, ?_⟩, witness_sound _ rfl rfl rfl⟩; rfl

theorem witness_walking (q : Query) (r : Res) (l : q.launch = 1) (a : q.state = .running) (b : r.phase = .resident) :
    (queryTurn q r).Walking 0 0 q r := by
  refine ⟨rfl, by decide, ?_, ?_, a, b⟩
  · rfl
  · rw [l]; rfl

/-- With a budget of 56 and no result outstanding every register is ready. -/
theorem witness_ready (m : Micro) (a : m.bud = 56) (b : m.pend = 0#64) (rs : List Reg) (c : m.bad = 0#64 := by rfl) : m.Ready rs := by
  intro r _; refine ⟨?_, by simp [Micro.Settled, b, c]⟩
  simp [Micro.codeOk, a]; omega

/-- A lane statement's hypotheses: the micro-thread's turn, and its registers ready. -/
def LaneMet (m : Micro) (rs : List Reg) : Prop := (turnOf m).Member 0 0 soleGroup 0 m ∧ m.Ready rs

theorem laneMet (m : Micro) (rs : List Reg) (a : m.bud = 56) (b : m.pend = 0#64) (c : m.bad = 0#64 := by rfl) : LaneMet m rs :=
  ⟨(witness_alone m richRes).1.1, witness_ready m a b rs c⟩

theorem witness_IntegerResults : LaneMet trialMicro [5#6, 6#6, 7#6] := laneMet _ _ rfl rfl
/-- SETRM's operand at its greatest, 4. -/
theorem witness_ComparisonAndPredicateResults : LaneMet (microWith [(6, 4)]) [5#6, 6#6, 7#6] ∧ ((microWith [(6, 4)]).reg 6#6).toNat ≤ 4 :=
  ⟨laneMet _ _ rfl rfl, by decide⟩
theorem witness_FloatResults : LaneMet trialMicro ([5#6, 6#6, 7#6] ++ pairOf 8#6 ++ pairOf 10#6) := laneMet _ _ rfl rfl
theorem witness_ConversionAndSpecialFunctionResults : LaneMet trialMicro ([5#6, 6#6] ++ pairOf 8#6) := laneMet _ _ rfl rfl
theorem witness_BitFieldAndPackingResults :
    LaneMet (microWith [(7, 15), (9, 0xFEFE)]) (groupCodes 16#6 8 ++ groupCodes 8#6 8 ++ [7#6]) ∧
    (let m := microWith [(7, 15), (9, 0xFEFE)]
     ((m.reg 7#6).toNat < 16 ∧ (m.reg 7#6).toNat % 8 ≠ 5 ∧ (m.reg 7#6).toNat % 8 ≠ 6) ∧
     (m.reg 9#6).toNat < 2 ^ 16 ∧ (m.reg 9#6).toNat % 256 ≠ 255 ∧ (m.reg 9#6).toNat / 256 % 128 ≠ 127) ∧
    ((microWith [(7, 7)]).reg 7#6).toNat < 8 := ⟨laneMet _ _ rfl rfl, by decide, by decide⟩
theorem witness_ShortFormAndSpecialRegisterResults :
    LaneMet { trialMicro with cych := some 1#32 } [2#6, reg16 4#5] ∧ (turnOf trialMicro).res? 0 soleGroup.launch = some richRes :=
  ⟨laneMet _ _ rfl rfl, rfl⟩
/-- Every member of the group is ready. -/
theorem membersReady (m : Micro) (rs : List Reg) (a : m.bud = 56) (b : m.pend = 0#64) (c : m.bad = 0#64 := by rfl) :
    (turnOf m).MembersReady 0 soleGroup rs := by
  intro x hx; have h : x = 0 := by simpa [soleGroup] using hx
  subst h; exact ⟨m, rfl, witness_ready m a b rs c⟩
theorem witness_LaneExchangeAndVoteResults :
    (turnOf trialMicro).Member 0 0 soleGroup 0 trialMicro ∧ (turnOf trialMicro).MembersReady 0 soleGroup [5#6, 6#6, 7#6] :=
  ⟨(witness_alone _ _).1.1, membersReady _ _ rfl rfl⟩
theorem witness_ReductionResults :
    (turnOf trialMicro).Member 0 0 soleGroup 0 trialMicro ∧
      (turnOf trialMicro).MembersReady 0 soleGroup (pairOf 8#6 ++ pairOf 10#6) :=
  ⟨(witness_alone _ _).1.1, membersReady _ _ rfl rfl⟩
/-- Two micro-threads: the first names the second in g6. -/
def twoThreads : State :=
  (turnOf (microWith [(6, 1)])).modCore 0 fun c => { c with slots := [(0, microWith [(6, 1)]), (1, trialMicro)] }
theorem witness_ExactAccumulatorAndLinkResults :
    (1 ∈ (twoThreads.core 0).launches ∧ Tbl.sorted (twoThreads.core 0).slots = true ∧ 0 ∈ (twoThreads.core 0).owned 1) ∧
    twoThreads.Member 0 0 soleGroup 0 (microWith [(6, 1)]) ∧ (microWith [(6, 1)]).Ready [5#6, 6#6] ∧
    ((microWith [(6, 1)]).reg 6#6).toNat = 1 ∧ twoThreads.microAt 0 1 = some trialMicro ∧ trialMicro.owner = some soleGroup.launch ∧
    trialMicro.life = .free ∧ 55 < trialMicro.bud ∧ trialMicro.pend.getLsbD 55 = false := by
  have h : ∃ c, twoThreads.seat? = some (0, 0, c, soleGroup) := ⟨_, rfl⟩
  refine ⟨by decide, ⟨h, .head _, rfl⟩, witness_ready _ rfl rfl _, by decide, rfl, rfl, rfl, by decide, by decide⟩

/-- One address at the edge of each clause of the address check, from core 0 with a rectangle of one core: global, array and
relative forms, and what each gives (R155, R156, R158). -/
theorem witness_LoadAndStorePosts_address :
    ([(0x0000800000000000#64, false), (0x00007FFFFFFFFFF8#64, false), (0xFFFF800000000000#64, false), (0x00007FFFFFFFFFF9#64, false),
      (0#64, true), (0xFFFE000000240000#64, false), (0xFFFE004B8023FFF8#64, false), (0xFFFE00500023FFF8#64, false),
      (0xFFFE000400000000#64, false), (0xFFFE010000000001#64, false), (0xFFFD00F800000000#64, false),
      (0xFFFD00080023FFF8#64, false), (0xFFFD02F800000008#64, true), (0xFFFD040000000000#64, true)].map
      fun p => match checkAddr 0 richRes p.1 8 p.2 with
        | .ok (.global va) => (0, va, 0)
        | .ok (.pool t c o) => (if t then 2 else 1, c, o)
        | .error e => (e.code.toNat, (e.detail.getD 0#32).toNat / 2 ^ 22, (e.detail.getD 0#32).toNat % 2 ^ 22)) =
      [(4, 3, 0), (0, 0x7FFFFFFFFFF8, 0), (0, 0x800000000000, 0), (6, 0, 0x3FFFF9), (7, 0, 0), (7, 0, 0x240000), (1, 79, 0x23FFF8),
        (7, 0, 0x23FFF8), (7, 0, 0), (6, 0, 1), (7, 0, 0), (1, 1, 0x23FFF8), (1, 0, 8), (7, 0, 0)] := by
  decide
theorem witness_LoadAndStorePosts :
    ((turnOf trialMicro).Alone 0 0 soleGroup 0 trialMicro richRes ∧ (turnOf trialMicro).Sound) ∧
    trialMicro.Ready (groupCodes 4#6 4 ++ pairOf 2#6) ∧ (∃ t, checkAddr 0 richRes (trialMicro.pair 2#6) 16 false = .ok t) :=
  ⟨witness_alone _ _, witness_ready _ rfl rfl _, _, rfl⟩
theorem witness_AtomicResults :
    ((turnOf trialMicro).Alone 0 0 soleGroup 0 trialMicro richRes ∧ (turnOf trialMicro).Sound) ∧
    trialMicro.Ready (groupCodes 4#6 2 ++ pairOf 2#6 ++ groupCodes 8#6 4) ∧
    (∃ t, checkAddr 0 richRes (trialMicro.pair 2#6) 8 false = .ok t) := ⟨witness_alone _ _, witness_ready _ rfl rfl _, _, rfl⟩
/-- A merge of two empty streams, an engine's descriptor at 0, and the three kinds of TCFG: 16 decode entries, the one walker word
1023, hit queue 7. MINT of the least and the greatest code object. -/
theorem witness_EngineMergeAndMintPosts :
    ((turnOf trialMicro).Alone 0 0 soleGroup 0 trialMicro richRes ∧ (turnOf trialMicro).Sound) ∧
    trialMicro.Ready ([4#6] ++ groupCodes 8#6 8 ++ groupCodes 16#6 4) ∧
    ((trialMicro.reg 14#6).toNat < 4 ∧ trialMicro.reg 15#6 = 0#32 ∧ trialMicro.reg 19#6 = 0#32) ∧
    (∃ t, checkAddr 0 richRes (trialMicro.pair 8#6) 4 false = .ok t) ∧
    (∀ q, q < 8 → (turnOf trialMicro).roomIn 0 q) ∧ ((turnOf trialMicro).core 0).inSp 0 512 = true ∧
    (0x43FF0001 / 2 ^ 26 = 16 ∧ 0x43FF0001 / 2 ^ 11 % 2 ^ 5 = 0 ∧ 1 ≤ 0x43FF0001 % 2 ^ 11 ∧
      0x43FF0001 / 2 ^ 16 % 2 ^ 10 + 0x43FF0001 % 2 ^ 11 ≤ 1024) ∧ 0x80000007 / 2 ^ 3 = 2 ^ 28 ∧
    (let m := microWith [(8, 0xFFFFF000), (9, 0x7FFF), (10, 0x8000000)]
     m.Ready (pairOf 4#6 ++ groupCodes 8#6 8) ∧ (m.pair 8#6).toNat < 2 ^ 47 ∧ (m.pair 8#6).toNat % 4096 = 0 ∧
     8 ≤ (m.reg 10#6).toNat ∧ (m.reg 10#6).toNat ≤ 0x8000000 ∧ (m.reg 11#6).toNat % 8 = 0 ∧ (m.reg 12#6).toNat < 4) ∧
    8 ≤ ((microWith [(10, 8)]).reg 10#6).toNat :=
  ⟨witness_alone _ _, witness_ready _ rfl rfl _, by decide, ⟨_, rfl⟩, by unfold State.roomIn; decide, by decide, by decide, by decide,
    ⟨witness_ready _ rfl rfl _, by decide⟩, by decide⟩
/-- A header in the own scratchpad, a ring of 2^16 entries, and the own core as the target. -/
theorem witness_QueueAndMessagePosts :
    let m := microWith [(2, 0x200000), (3, 0xFFFE0000), (4, 0x1000), (5, 0x10000)]
    ((turnOf m).Alone 0 0 soleGroup 0 m richRes ∧ (turnOf m).Sound) ∧ m.Ready (pairOf 2#6 ++ groupCodes 4#6 4) ∧
    (checkAddr 0 richRes (m.pair 2#6) 64 true = .ok (.pool false 0 0x200000) ∧ ((turnOf m).core 0).inSp 0x200000 64 = true) ∧
    (∃ e, e ≤ 16 ∧ (m.reg 5#6).toNat = 2 ^ e) ∧ ((turnOf m).core 0).inSp 0x1000 (4 * 0x10000) = true ∧
    richRes.inRect 0 = true ∧ (turnOf m).station.card = false ∧ (turnOf m).roomIn 0 7 :=
  ⟨witness_alone _ _, witness_ready _ rfl rfl _, by decide, ⟨16, by decide⟩, by decide, by decide, by decide,
    by unfold State.roomIn; decide⟩
/-- A fence's turn; and beside another store of the own pool a load and a store in flight, as a fence sees them. -/
theorem witness_FenceResults :
    ((turnOf trialMicro).Alone 0 0 soleGroup 0 trialMicro richRes ∧ (turnOf trialMicro).Sound) ∧
    (let f : Flight := { core := 0, launch := 1, agent := .micro, who := [], fig := 0#32, off := 0, word := 0#32, ll := 8
                         dst := 0#6, dstN := 0, ea := 0xFFFE000800000000#64, sent := 0, op := .store 4 0#2 0#128, stage := .fifo }
     let s : State := (turnOf trialMicro).modCore 0 fun c => { c with fifo := [0] }
     s.inFifo 0 0 = true ∧ s.remoteStore f = true ∧ s.remoteStore { f with ea := 0xFFFE000000000000#64 } = false ∧
       f.stage ≠ .acked ∧ f.stage ≠ .faulted ∧ f.stage ≠ .twin) := ⟨witness_alone _ _, by decide⟩
/-- A word in the mailbox and none; a set latch and a clear one, on line 63; joins of every queue and of none, with WAIT. -/
theorem witness_WaitResults :
    (let m : Micro := { microWith [(5, 63), (6, 0xFF), (7, 0x80)] with mailbox := some 7#32 }
     ((turnOf m).Alone 0 0 soleGroup 0 m richRes ∧ (turnOf m).Sound) ∧ m.Ready [5#6, 6#6, 7#6] ∧
      (m.reg 5#6).toNat < 64 ∧ (m.reg 6#6).toNat < 256 ∧ (m.reg 7#6).toNat % 128 = 0 ∧
      (∀ q, q < 7 → (turnOf m).roomIn 0 q) ∧ richRes.latches.getLsbD 63 = false) ∧
    ((turnOf trialMicro { richRes with latches := 1#64 <<< 63 }).Alone 0 0 soleGroup 0 trialMicro { richRes with latches := 1#64 <<< 63 } ∧
      trialMicro.mailbox = none ∧ trialMicro.linked = .none) :=
  ⟨⟨witness_alone _ _, witness_ready _ rfl rfl _, by decide, by decide, by decide, by unfold State.roomIn; decide, by decide⟩,
    (witness_alone _ _).1, rfl, rfl⟩
/-- A COUNT of 1024; an MMA in the I8 format that joins an epoch of two, and one that closes an epoch of one; a signature of the
micro-thread's own in an open epoch. -/
theorem witness_ConvergenceAndSignatureResults :
    let m := microWith [(4, 0x244), (5, 1024), (6, 0x4000), (7, 0)]
    let x : Sig := ⟨0, 0#16, 0#32, 0#7, 0#32, 0#32, 0#32, 0, 0#32, 0#12, 0⟩
    let own : Res := { richRes with cvs := [⟨2, [x]⟩] }
    let s : State := { turnOf m own with nextId := 1 }
    ((turnOf m).Alone 0 0 soleGroup 0 m richRes ∧ (turnOf m).Sound) ∧ m.Ready [4#6, 5#6, 6#6, 7#6] ∧
    (1 ≤ (m.reg 5#6).toNat ∧ (m.reg 5#6).toNat ≤ 1024 ∧ (richRes.cv 15).sigs = []) ∧
    (turnOf m).MmaLegal 0 15 m richRes 4#6 6#6 ⟨4, 4, 2, .rne, false⟩ 64 ∧ (turnOf m).roomIn 0 4 ∧ richRes.away = false ∧
    ((richRes.cv 15).sigs.length + 1 < (richRes.cv 15).count ∧ (richRes.cv 16).sigs.length + 1 = (richRes.cv 16).count) ∧
    (s.Alone 0 0 soleGroup 0 m own ∧ ∃ x ∈ (own.cv 0).sigs, x.slot = 0 ∧ x.gen = m.gen ∧ x.seq < s.nextId) :=
  ⟨witness_alone _ _, witness_ready _ rfl rfl _, by decide, ⟨witness_ready _ rfl rfl _, by decide⟩, by unfold State.roomIn; decide,
    rfl, by decide, (witness_alone _ _).1, by decide⟩
theorem witness_ArrayInstructionsEnter :
    let m := microWith [(4, 0x244), (5, 0x80000000), (6, 0), (7, 0xFFFFFFFF), (8, 0x4000)]
    ((turnOf m).Alone 0 0 soleGroup 0 m richRes ∧ (turnOf m).Sound) ∧ m.Ready [4#6, 5#6, 6#6, 7#6, 8#6] ∧ (turnOf m).roomIn 0 4 ∧
    (0 < richRes.tiles ∧ (m.reg 6#6).toNat < richRes.units ∧ m.reg 7#6 = 0xFFFFFFFF#32) ∧ formatWord (m.reg 4#6) = some ⟨4, 4, 2, .rne, false⟩ ∧
    ((m.reg 5#6).toNat / 2 ^ 22 = 2 ^ 9 ∧ (m.reg 8#6).toNat < 2 ^ 22) ∧ ((turnOf m).core 0).inSp 0x4000 16384 = true :=
  ⟨witness_alone _ _, witness_ready _ rfl rfl _, by unfold State.roomIn; decide, by decide, by decide, by decide, by decide⟩
/-- The one level the launch declares, before and after the arrival; an HPOP of hit queue 7. -/
theorem witness_LevelAndHitPopResults :
    let m := microWith [(5, 7)]
    let u : Micro := { m with arrived := 1#8 }
    ((turnOf m).Alone 0 0 soleGroup 0 m richRes ∧ (turnOf m).Sound) ∧ (0#3).toNat < recNat richRes.record 11 1 ∧
    m.arrived.getLsbD 0 = false ∧ ((turnOf u).Alone 0 0 soleGroup 0 u richRes ∧ u.arrived.getLsbD 0 = true) ∧
    (m.life ≠ .faulted ∧ Tbl.sorted ((turnOf m).core 0).slots = true ∧ m.owner = some soleGroup.launch) ∧
    m.Ready (groupCodes 8#6 8 ++ [5#6]) ∧ (m.reg 5#6).toNat < 8 :=
  ⟨witness_alone _ _, by decide, by decide, ⟨(witness_alone _ _).1, by decide⟩, by decide, witness_ready _ rfl rfl _, by decide⟩
/-- What a trailer asks: its micro-thread at the end of its figure. -/
theorem endsPlainly (m : Micro) (a : m.life = .free) (b : m.quitting = false ∧ m.waits = false ∧ m.yielding = false ∧ m.rearmed = false) :
    (turnOf m).EndsPlainly 0 0 0 m := by
  refine ⟨by rw [a]; decide, b.1, b.2.1, b.2.2.1, b.2.2.2, rfl, ?_⟩
  intro p hp; have h : p = (0, soleGroup) := by simpa using (show p ∈ [(0, soleGroup)] from hp)
  subst h; intro c; exact (c rfl).elim

/-- In called and in free mode; conditions met and unmet (p7 with sense 0 and 1); the figure at 0 as a target; a call stack with room
and one with a word to take; and a QUIT with nothing left. -/
theorem witness_TrailerResults :
    let m : Micro := { trialMicro with csp := 0x108#32 }
    let q : Micro := { trialMicro with quitting := true }
    ((turnOf m).Alone 0 0 soleGroup 0 m richRes ∧ (turnOf m).Sound) ∧ (turnOf m).EndsPlainly 0 0 0 m ∧
    (m.mode = .free ∧ m.pred 7#3 ≠ (0#1 == 1#1) ∧ m.pred 7#3 = (1#1 == 1#1)) ∧ (turnOf m).isStart 0 1 0#32 = true ∧ m.Ready [5#6] ∧
    ({ trialMicro with mode := .called } : Micro).mode = .called ∧
    (m.csp.toNat ≠ recNat richRes.record 68 4 + 8 * recNat richRes.record 72 1 * 0 + 8 * recNat richRes.record 72 1 ∧
      m.csp.toNat ≠ recNat richRes.record 68 4 + 8 * recNat richRes.record 72 1 * 0) ∧ ((turnOf m).core 0).fifo = [] ∧
    (turnOf m).peek (poolAddr 0 (m.csp.toNat - 8)) 4 = 0 ∧
    ((turnOf q).Alone 0 0 soleGroup 0 q richRes ∧ q.quitting = true ∧ q.life ≠ .faulted ∧ q.linked = .none ∧ q.deferred = [] ∧
      q.pend = 0#64 ∧ (turnOf q).flights = []) :=
  ⟨witness_alone _ _, endsPlainly _ rfl (by decide), by decide, by decide, witness_ready _ rfl rfl _, rfl, by decide, rfl, by decide,
    (witness_alone _ _).1, by decide⟩
/-- Called mode; 8 bytes on no figure starts; a full and an empty call stack; a code at a budget of 32, a pending source and a
pending destination; SETRM of 5; control words 16, 5, 8; B4 words 0x10000, 0xFF, 0x7F00. -/
theorem witness_PreciseFaultResults :
    let full : Micro := { microWith [(5, 5), (6, 16), (7, 8), (9, 0x10000)] with csp := 0x110#32 }
    let bare : Micro := { microWith [(7, 6), (9, 0xFF)] with csp := 0x100#32, bud := 32, pend := 0x40#64 }
    ((turnOf full).Alone 0 0 soleGroup 0 full richRes ∧ (turnOf bare).Alone 0 0 soleGroup 0 bare richRes) ∧
    (turnOf full).isStart 0 1 (BitVec.ofInt 32 (0 + 8 * 1)) = false ∧
    (full.csp.toNat = recNat richRes.record 68 4 + 8 * recNat richRes.record 72 1 * 0 + 8 * recNat richRes.record 72 1 ∧
      bare.csp.toNat = recNat richRes.record 68 4 + 8 * recNat richRes.record 72 1 * 0) ∧
    (bare.codeOk 32#6 = false ∧ bare.codeOk 31#6 = true ∧ bare.pend.getLsbD 6 = true ∧ bare.pend.getLsbD 5 = false) ∧
    (full.Ready (groupCodes 16#6 8 ++ [5#6, 6#6, 7#6, 8#6, 9#6]) ∧ 4 < (full.reg 5#6).toNat ∧ 16 ≤ (full.reg 6#6).toNat ∧
      8 ≤ (full.reg 7#6).toNat ∧ 2 ^ 16 ≤ (full.reg 9#6).toNat) ∧
    ((bare.reg 7#6).toNat % 8 = 6 ∧ (bare.reg 9#6).toNat % 256 = 255 ∧ 0x7F00 / 256 % 128 = 127) :=
  ⟨⟨(witness_alone _ _).1, (witness_alone _ _).1⟩, by decide, by decide, by decide, ⟨witness_ready _ rfl rfl _, by decide⟩, by decide⟩

/-! More clauses of the same statements, each at an edge of what it asks. -/

/-- Two members of one group, both of which name slot 1, and one that names itself (R149, R150); every member ready for XADD. -/
theorem witness_ExactAccumulatorAndLinkResults_group :
    let g : Group := { soleGroup with members := [0, 1] }
    let s : State := (turnOf (microWith [(6, 1)])).modCore 0 fun c =>
      { c with slots := [(0, microWith [(6, 1)]), (1, microWith [(6, 1)])], groups := [(0, g)] }
    (∃ c, s.seat? = some (0, 0, c, g)) ∧ g.launch ∈ (s.core 0).launches ∧ Tbl.sorted (s.core 0).slots = true ∧
    (∀ x ∈ g.members, x ∈ (s.core 0).owned g.launch) ∧ g.members.Pairwise (fun x y => x < y) ∧ s.MembersReady 0 g [5#6, 6#6] ∧
    ∀ x ∈ g.members, ∃ m u, s.microAt 0 x = some m ∧ (m.reg 6#6).toNat < 1024 ∧ s.microAt 0 (m.reg 6#6).toNat = some u ∧
      u.owner = some g.launch ∧ u.life = .free ∧ (55#6).toNat < u.bud ∧ u.pend.getLsbD 55 = false ∧ u.bad.getLsbD 55 = false := by
  refine ⟨⟨_, rfl⟩, by decide, by decide, by decide, by decide, ?_, ?_⟩
  all_goals
    intro x hx
    rcases (by simpa using (show x ∈ [0, 1] from hx) : x = 0 ∨ x = 1) with rfl | rfl
  · exact ⟨_, rfl, witness_ready _ rfl rfl _⟩
  · exact ⟨_, rfl, witness_ready _ rfl rfl _⟩
  · exact ⟨_, microWith [(6, 1)], rfl, by decide, rfl, by decide⟩
  · exact ⟨_, microWith [(6, 1)], rfl, by decide, rfl, by decide⟩
/-- An access of 16 bytes to the last such place of a pool, by the array kind and by the global one. -/
theorem witness_LoadAndStorePosts_edge :
    (∃ t, checkAddr 0 richRes 0xFFFE004B8023FFF0#64 16 true = .ok t) ∧ ∃ t, checkAddr 0 richRes 0xFFFE004B8023FFF0#64 16 false = .ok t :=
  ⟨⟨_, rfl⟩, ⟨_, rfl⟩⟩
/-- A merge of 8-byte keys whose output ends where stream A begins and begins where stream B ends; MINT at the lowest address of the
upper half; TCFG of a whole decode table, of the last walker word, and of hit queue 7. -/
theorem witness_EngineMergeAndMintPosts_edge :
    let m := microWith [(8, 0x1010), (10, 0xFF8), (12, 2), (13, 1), (14, 3), (16, 0x1000), (18, 2)]
    ((m.reg 14#6).toNat < 4 ∧ (m.reg 14#6).getLsbD 0 = true ∧ m.reg 15#6 = 0#32 ∧ m.reg 19#6 = 0#32) ∧
    ((∃ t, checkAddr 0 richRes (m.pair 8#6) 8 false = .ok t) ∧ (∃ t, checkAddr 0 richRes (m.pair 10#6) 8 false = .ok t) ∧
      ∃ t, checkAddr 0 richRes (m.pair 16#6) 8 false = .ok t) ∧
    ((m.pair 16#6).toNat + (m.reg 18#6).toNat * 8 = (m.pair 8#6).toNat ∧
      (m.pair 10#6).toNat + (m.reg 13#6).toNat * 8 = (m.pair 16#6).toNat) ∧
    2 ^ 64 - 2 ^ 47 ≤ ((microWith [(8, 0), (9, 0xFFFF8000)]).pair 8#6).toNat ∧
    (let u := microWith [(4, 0x240), (5, 0), (6, 0x43FF0001), (7, 0x80000007)]
     ((u.reg 5#6).toNat = 0 ∧ (u.reg 6#6).toNat / 2 ^ 26 = 16 ∧ (u.reg 6#6).toNat / 2 ^ 16 % 2 ^ 10 + (u.reg 6#6).toNat % 2 ^ 11 = 1024 ∧
       (u.reg 7#6).toNat / 2 ^ 3 = 2 ^ 28) ∧ (u.reg 4#6).toNat % 64 = 0 ∧
     ((turnOf u).core 0).inSp 0x240 512 = true ∧ ((turnOf u).core 0).inSp 0x240 4 = true) :=
  ⟨by decide, ⟨⟨_, rfl⟩, ⟨_, rfl⟩, ⟨_, rfl⟩⟩, by decide, by decide, by decide⟩
/-- A fence that is done at once, and one that waits for an earlier load. -/
theorem witness_FenceResults_done :
    let f : Flight := { core := 0, launch := 1, agent := .micro, who := [⟨0, 0#16, true, false⟩], fig := 0#32, off := 0, word := 0#32, ll := 8
                        dst := 0#6, dstN := 0, ea := 0#64, sent := 1, op := .fence 0 4 [], stage := .request }
    let s : State := { turnOf trialMicro with flights := [(0, { f with op := .load 4#3 0#2 })], nextId := 1 }
    (turnOf trialMicro).fenceDone 1 f = true ∧ s.fenceDone 1 f = false := by decide
/-- The pop of a RET waits for an earlier load of the same word that has no value yet; a push still in the store FIFO gives its data. -/
theorem witness_TrailerResults_pop :
    let m : Micro := { trialMicro with csp := 0x108#32 }
    let p : Flight := { core := 0, launch := 1, agent := .micro, who := [⟨0, 0#16, true, false⟩], fig := 0#32, off := 0, word := 0#32, ll := 8
                        dst := 0#6, dstN := 0, ea := 0xFFFE000000000100#64, sent := 0, op := .store 8 2#2 0x40#128, stage := .fifo }
    let s : State := { (turnOf m).modCore 0 fun c => { c with fifo := [0] } with flights := [(0, p)], nextId := 1 }
    let w : State := { turnOf m with flights := [(0, { p with op := .load 5#3 2#2, stage := .request })], nextId := 1 }
    (w.popMay 0 1 0 m = false ∧ m.csp.toNat ≠ recNat richRes.record 68 4 + 8 * recNat richRes.record 72 1 * 0) ∧
    (s.inFifo 0 0 = true ∧ s.targetOfFlight p = .pool false 0 (m.csp.toNat - 8) ∧ s.popWord 0 0 m.gen (m.csp.toNat - 8) = 0x40#32 ∧
      s.popMay 0 1 0 m = true) := by decide
/-- A source word with an uncorrectable error, and one in the second source alone. -/
theorem witness_PreciseFaultResults_bad :
    let m : Micro := { trialMicro with bad := 0x60#64 }
    (m.bad.getLsbD 5 = true ∧ m.pend.getLsbD 5 = false) ∧ m.Settled 7#6 ∧ m.bad.getLsbD 6 = true ∧
    (turnOf m).Alone 0 0 soleGroup 0 m richRes :=
  ⟨by decide, ⟨rfl, rfl⟩, by decide, (witness_alone _ _).1⟩

/-- A query record with some fields set. -/
def queryRecord (fields : List (Nat × Nat × Nat)) : List Byte :=
  fields.foldl (fun b f => b.take f.1 ++ bytesOfNat f.2.1 f.2.2 ++ b.drop (f.1 + f.2.1)) (bytesOfNat 128 0)
/-- A KBEST query with two spill entries at 0x8000 and a node decoded by entry 0. -/
def richQuery : Query :=
  { trialQuery with record := queryRecord [(3, 1, 1), (4, 2, 2), (20, 4, 0x8000), (24, 2, 2)], buf := List.replicate 128 0#8
                    kind := some 0, dec := some 0 }
/-- A launch with sixteen decode entries of zeros. -/
def decodeRes : Res := { richRes with decode := List.replicate 16 (List.replicate 32 0#8) }

/-- A branch back to 0 and one on to 1023. -/
theorem witness_WalkerRegisterResults :
    let q : Query := { richQuery with pc := 1022, q := (Vector.replicate 16 0#32).set 1 5#32 }
    (queryTurn q).Walking 0 0 q richRes ∧ q.pc < 1023 ∧ (3#4).toNat < 8 ∧ q.reg 1#5 ≠ 0#32 ∧ q.reg 2#5 = 0#32 ∧
    (q.pc : Int) + (1#11).toInt ≤ 1023 ∧ 0 ≤ (q.pc : Int) + (BitVec.ofInt 11 (-1022)).toInt ∧ (28#5).toNat < 29 ∧ 29 ≤ (29#5).toNat :=
  ⟨witness_walking _ _ rfl rfl rfl, by decide⟩
/-- A ray along z from (1/4, 1/4, −1) and the triangle (0, 0, 0), (1, 0, 0), (0, 1, 0); a ray of zeros. -/
theorem witness_WalkerNodeResults :
    let tri := (List.range 9).flatMap fun i => bytesOfNat 4 (if i = 3 ∨ i = 7 then 0x3F800000 else 0)
    let ray : Vector Word 16 := #v[0x3E800000#32, 0x3E800000#32, 0xBF800000#32, 0#32, 0#32, 0x3F800000#32, 0#32, 0#32, 0#32, 0#32,
      0x7F800000#32, 16#32, 15#32, 7#32, 0x3FFFFFFF#32, 36#32]
    let q : Query := { richQuery with q := ray, buf := tri ++ List.replicate 92 0#8 }
    (queryTurn q decodeRes).Walking 0 0 q decodeRes ∧ q.pc < 1023 ∧
    ((q.reg 14#5).getLsbD 31 = false ∧ (q.reg 16#5).getLsbD 0 = false ∧
      canonical (BitVec.ofNat 64 (recNat q.record 8 8 + 128 * ((q.reg 14#5).toNat % 2 ^ 30))) = true) ∧
    (recNat (decodeRes.decode.getD 15 []) 0 1 = 0 ∧ q.kind = some 0 ∧ recNat (decodeRes.decode.getD 15 []) 1 1 + 32 ≤ q.buf.length ∧
      recNat (decodeRes.decode.getD 15 []) 2 1 < q.buf.length ∧
      ∀ i : Fin 8, decodeField q.buf (recNat (decodeRes.decode.getD 15 []) (16 + 2 * i.val) 2) = some 0#32) ∧
    ((q.reg 16#5).toNat % 4 = 0 ∧ (q.reg 16#5).toNat + 36 ≤ q.buf.length ∧ (triHit q 0).isSome = true ∧ (triHit q 36).isNone = true) ∧
    ((q.reg 12#5).toNat = 15 ∧ (q.reg 15#5).toNat % 4 = 0 ∧ (q.reg 15#5).toNat + 4 * (q.reg 11#5).toNat ≤ q.buf.length ∧
      (q.reg 11#5).toNat = 16 ∧ (q.reg 13#5).toNat < 8) := ⟨witness_walking _ _ rfl rfl rfl, by decide, by decide, by decide +kernel, by decide +kernel,
    by decide +kernel⟩
/-- A stack of three and of four with an area left, a stack emptied with a word spilled, and an empty and a full hit queue. -/
theorem witness_WalkerStackAndHitResults :
    let e : Word × Word := (1#32, 2#32)
    let q (st : List (Word × Word)) (n : Nat) : Query := { richQuery with stack := st, spilled := n }
    let full : Res := { richRes with hitqs := some ⟨0x4000, 2, 3, true, 0, 2, [(0, 0, false), (0, 0, false)]⟩ :: List.replicate 7 none }
    (∀ st n, (queryTurn (q st n)).Walking 0 0 (q st n) richRes) ∧ [e, e, e].length < 4 ∧ richQuery.pc < 1023 ∧
    (1 < recNat richQuery.record 24 2 ∧ ((queryTurn (q [e, e, e, e] 1)).core 0).inSp (0x8000 + 8) 8 = true) ∧
    (queryTurn (q [] 1)).isBad (poolAddr 0 0x8000) 8 = false ∧ richQuery.mode 0 = true ∧ richQuery.origin = none ∧
    ((richQuery.reg 1#5).toNat % 2 ^ 16 ≠ 0xFFFF ∧ richRes.hitq (recNat richQuery.record 2 1 % 8) = some ⟨0x4000, 2, 3, true, 0, 0, []⟩) ∧
    (queryTurn richQuery full).Walking 0 0 richQuery full ∧ (∃ h, full.hitq 0 = some h ∧ h.cap ≤ h.tail - h.head) :=
  ⟨fun _ _ => witness_walking _ _ rfl rfl rfl, by decide, by decide, by decide, by decide, by decide, by decide, by decide,
    witness_walking _ _ rfl rfl rfl, _, rfl, by decide⟩
/-- Hand-off 7 with seven out, with a link and without; and each error. -/
theorem witness_WalkerHandoffAndErrorResults :
    let q : Query := { trialQuery with q := (Vector.replicate 16 0#32).set 1 0x80000000#32, out := [0, 1, 2, 3, 4, 5, 6] }
    let up : State := { queryTurn q with station := { Station.reset with up := true } }
    let e : Query := { trialQuery with stack := [(0#32, 0#32), (0#32, 0#32), (0#32, 0#32), (0#32, 0#32)], pc := 1023
                                       q := #v[0#32, 0x80000000#32, 16#32, 8#32, 0xFFFF#32, 0#32, 0#32, 0#32, 0#32, 0#32, 0#32, 0#32, 0#32, 0#32, 0#32, 0#32] }
    ((queryTurn q).Walking 0 0 q richRes ∧ (queryTurn q).station.up = false) ∧ (up.Walking 0 0 q richRes ∧ up.station.up = true) ∧
    ((q.reg 1#5).getLsbD 31 = true ∧ 7 < 8 ∧ 7 ∉ q.out ∧ (∀ j, j < 7 → j ∈ q.out) ∧ q.pc < 1023) ∧
    (queryTurn e).Walking 0 0 e richRes ∧ (e.origin = none ∧ e.out = [] ∧ e.stack.length = 4 ∧ e.spilled = recNat e.record 24 2) ∧
    (trialQuery.stack = [] ∧ trialQuery.spilled = 0) ∧
    ((e.reg 1#5).getLsbD 31 = true ∧ (e.reg 0#5).getLsbD 31 = false ∧ e.kind = none ∧ e.dec = none ∧ 15 < (e.reg 2#5).toNat ∧
      (e.reg 0#5).toNat = 0 ∧ 7 < (e.reg 3#5).toNat ∧ e.mode 0 = false ∧ (e.reg 4#5).toNat % 2 ^ 16 = 0xFFFF ∧ e.reg 0#5 = 0#32 ∧ 1023 ≤ e.pc) :=
  ⟨⟨witness_walking _ _ rfl rfl rfl, rfl⟩, ⟨⟨rfl, by decide, rfl, rfl, rfl, rfl⟩, rfl⟩, by decide, witness_walking _ _ rfl rfl rfl, by decide, by decide, by decide⟩
/-- A caller with some registers set. -/
def callerWith (regs : List (Nat × Nat)) : Caller :=
  regs.foldl (fun h p => h.setReg (BitVec.ofNat 5 p.1) (BitVec.ofNat 64 p.2)) Caller.blank
/-- The page at 0x1000 mapped to itself for every access: V, R, W, X, U, A and D set (R376). -/
def openLeaf : Leaf := { asid := 1, vpn := 1, level := 0, pte := BitVec.ofNat 64 (1024 + 0xDF) }
/-- The same state with that page mapped. -/
def mapped (s : State) : State := s.modTlu (tluOf 0x1000) fun t => { t with leaves := [openLeaf] }

theorem witness_CallerInstructionResults :
    (callerTurn (callerWith [(1, 7)])).Calling 0 1 { richRes with caller := callerWith [(1, 7)] } := (witness_calling _ _).1
/-- U-mode and S-mode; the calls 0x58 and others; in the handler and outside; a supervisor core inside and outside the rectangle. -/
theorem witness_CallerExceptionAndCsrResults :
    let u : Caller := { callerWith [(17, 0x58), (1, 10)] with handler := some (1#64, 2#64, 0x1000#64) }
    let v : Caller := { Caller.blank with priv := .supervisor, sstatus := 0x100#64 }
    (callerTurn u).Calling 0 1 { richRes with caller := u } ∧ (callerTurn v).Calling 0 1 { richRes with caller := v } ∧
    (u.priv = .user ∧ u.reg 17#5 ≠ 0x59#64 ∧ u.handler = some (1#64, 2#64, 0x1000#64) ∧ Caller.blank.handler = none ∧
      Caller.blank.reg 17#5 ≠ 0x59#64) ∧ v.priv = .supervisor ∧
    ((csrResult .rw 0#64 (u.reg 0#5)).toNat % 32 = 0 ∧ 10 ≤ (csrResult .rw 0#64 (u.reg 1#5)).toNat % 32) ∧
    0x105#12 ∉ [0x800#12, 0x801#12, 0x802#12] :=
  ⟨(witness_calling _ _).1, (witness_calling _ _).1, by decide, rfl, by decide, by decide⟩
/-- The own pool and a mapped global page; LR in each. -/
theorem witness_CallerAccessResults :
    let h := callerWith [(1, 0xFFFE000000000000), (2, 0x1000)]
    let s := mapped (callerTurn h)
    s.Calling 0 1 { richRes with caller := h } ∧ s.Sound ∧
    (checkAddr 0 richRes (h.reg 1#5) 8 false = .ok (.pool false 0 0) ∧ s.portOk 0 1 0 8 = true ∧ s.away 0 1 = false) ∧
    (checkAddr 0 richRes (h.reg 2#5) 8 false = .ok (.global 0x1000) ∧ s.isSealed 0x1000 = true ∧
      s.translate richRes.asid 0x1000 .write = .ok 0x1000 true ∧ s.translate richRes.asid 0x1000 .read = .ok 0x1000 true) ∧
    ({ s with sealed := [] } : State).isSealed 0x1000 = false ∧ s.callerOpen 0 1 = false ∧ s.isBad 0x1000 8 = false ∧
    s.isBad (poolAddr 0 0) 8 = false :=
  ⟨⟨rfl, by decide, rfl⟩, witness_sound _ rfl rfl rfl, by decide, by decide, by decide, by decide, by decide, by decide⟩
/-- An SC with its line reserved and without; a caller's fence. -/
theorem witness_CallerReservationAndFenceResults :
    let f : Flight := { core := 0, launch := 1, agent := .caller, who := [], fig := 0#32, off := 0, word := 0#32, ll := 8
                        dst := 0#6, dstN := 2, ea := 0x1000#64, sent := 0, op := .sc true 5#64, stage := .fifo }
    let s : State := { callerTurn Caller.blank with resvs := [(0, 1, 0x40)] }
    f.op = .sc true 5#64 ∧ (f.core, f.launch, 0x1000 / 64) ∈ s.resvs ∧ (f.core, f.launch, 0x1040 / 64) ∉ s.resvs ∧
    (callerTurn Caller.blank).Calling 0 1 { richRes with caller := Caller.blank } ∧ (callerTurn Caller.blank).Sound :=
  ⟨rfl, by decide, by decide, witness_calling _ _⟩

/-- A called micro-thread with nothing to do, and one with four figures queued. -/
def calledMicro (callq : List Word) : Micro := { trialMicro with mode := .called, life := .called, held := .called, callq := callq }
/-- The caller's turn with no issue group. -/
def calm (h : Caller) (m : Micro) (r : Res := { richRes with caller := h }) : State :=
  { (State.reset.modCore 0 fun c => { trialCore c [] with slots := [(0, m)], res := [(1, r)], groups := [] }) with
    focus := .caller 0 1, sealed := [trialObject] }
theorem calm_owned (h : Caller) (m : Micro) (r : Res) (a : m.owner = some 1) : ((calm h m r).core 0).owned 1 = [0] := by
  show (List.filter (fun p => p.2.owner == some 1) [(0, m)]).map Prod.fst = [0]
  simp [a]
theorem calm_named (h : Caller) (m : Micro) (r : Res) (x : Nat) (a : m.owner = some 1) :
    ((calm h m r).core 0).named 1 (1#64 <<< 63) x ↔ x = 0 := by
  unfold Core.named; rw [calm_owned h m r a]; simp
/-- FIG.CALL of an idle micro-thread and of one with four figures queued; FIG.SYNC and FIG.WAIT with nothing called and with a figure
queued, and with an enabled event; a mailbox with and without a message; an empty block for FIG.INBOX and FIG.REPLAY. -/
theorem witness_FigureCallAndMailboxResults :
    let h := callerWith [(1, 0x8000000000000000), (2, 0x8000000000000000), (5, 1), (6, 0x400)]
    let idle := calm h (calledMicro [])
    let full := calm h (calledMicro [0#32, 0#32, 0#32, 0#32])
    let msg : Res := { richRes with caller := { h with evEnable := 1#16 }, mbox := [bytesOfNat 16 5] }
    idle.Calling 0 1 { richRes with caller := h } ∧ Tbl.sorted (idle.core 0).slots = true ∧
    (∀ x, x ∈ [0] ↔ (idle.core 0).named 1 (h.reg 2#5) x ∧ ((idle.core 0).micro x).life = .called ∧ ((idle.core 0).micro x).mode = .called) ∧
    ((idle.core 0).micro 0).callq = [] ∧ (idle.core 0).inFlight 0 = false ∧
    (∀ x ∈ (idle.core 0).owned 1, ((idle.core 0).micro x).callq = [] ∧ (idle.core 0).inFlight x = false) ∧
    ((full.core 0).named 1 (h.reg 2#5) 0 ∧ 4 ≤ ((full.core 0).micro 0).callq.length ∧ 0 ∈ (full.core 0).owned 1) ∧
    ((full.core 0).enabledEvents 1 { richRes with caller := h } &&& ~~~4#16 = 0#16) ∧
    ((calm h (calledMicro [0#32]) msg).core 0).enabledEvents 1 msg &&& ~~~4#16 ≠ 0#16 ∧
    (msg.mbox = bytesOfNat 16 5 :: [] ∧ h.reg 0#5 = 0#64 ∧ h.reg 5#5 = 1#64 ∧ richRes.mbox = []) ∧
    ((h.reg 6#5).toNat % 32 = 0 ∧ (idle.core 0).inSp 0x400 32 = true ∧ idle.callerBusy 0 1 = false ∧ (idle.core 0).inbox = [] ∧
      richRes.spill = []) := by
  refine ⟨⟨rfl, by decide, rfl⟩, by decide, ?_, by decide, by decide, by decide, ⟨?_, by decide, by decide⟩, by decide, by decide, by decide,
    by decide⟩
  · intro x; rw [show (callerWith _).reg 2#5 = 1#64 <<< 63 from by decide, calm_named _ _ _ _ rfl]
    constructor
    · intro hx; have e : x = 0 := by simpa using hx
      subst e; exact ⟨rfl, rfl, rfl⟩
    · intro hx; simp [hx.1]
  · rw [show (callerWith _).reg 2#5 = 1#64 <<< 63 from by decide]; exact (calm_named _ _ _ _ rfl).2 rfl
/-- A free micro-thread holds the grant, a called one does not; FIG.ALLOC of one micro-thread of budget 16 with register-file room;
the register window of a live and of a faulted micro-thread. -/
theorem witness_SlotAndRegisterWindowResults :
    let h := callerWith [(1, 1), (2, 16), (3, 64), (4, 55), (6, 143), (7, 1024)]
    let room : Res := { richRes with caller := h, record := recordWith [(8, 2, 1), (14, 1, 1), (15, 1, 1), (52, 2, 1)] }
    let s := calm h (calledMicro []) room
    let faulted : Micro := { calledMicro [] with life := .faulted }
    s.Calling 0 1 room ∧ Tbl.sorted (s.core 0).slots = true ∧ (callerTurn h).Calling 0 1 { richRes with caller := h } ∧
    (∃ x ∈ ((callerTurn h).core 0).owned 1, (((callerTurn h).core 0).micro x).life = .free) ∧
    (¬ ∃ x ∈ (s.core 0).owned 1, ((s.core 0).micro x).life = .free ∨ ((s.core 0).micro x).life = .parked ∨
      ((s.core 0).micro x).life = .faulted) ∧
    (2 ^ 0 ≤ (h.reg 1#5).toNat ∧ (h.reg 1#5).toNat < 2 ^ 1 ∧ (h.reg 2#5).toNat % 256 ∈ [16, 24, 32, 40, 48, 56] ∧
      (h.reg 2#5).toNat < 256) ∧
    ((s.core 0).allocSlots 1 room 1 16 0).1 ++ ((s.core 0).allocSlots 1 room 1 16 0).2 ≠ [] ∧
    ((h.reg 3#5).toNat = 256 * 0 + 64 ∧ (h.reg 4#5).toNat = 256 * 0 + 55 ∧ (h.reg 6#5).toNat = 256 * 0 + 143 ∧
      (h.reg 7#5).toNat ≤ 1024 ∧ s.microAt 0 0 = some (calledMicro []) ∧ (calledMicro []).owner = some 1 ∧ 55 < (calledMicro []).bud) ∧
    (calm h faulted room).microAt 0 0 = some faulted ∧ faulted.life = .faulted ∧ (richRes.cv 15).sigs = [] :=
  ⟨⟨rfl, by decide, rfl⟩, by decide, (witness_calling _ _).1, by decide, by decide, by decide, by decide +kernel, by decide, rfl, rfl, rfl⟩
/-- An access in flight of the micro-thread in slot 0. -/
def flightOf (o : Op) (ea : DWord) (st : Stage) (dstN : Nat := 0) : Flight :=
  { core := 0, launch := 1, agent := .micro, who := [⟨0, 0#16, true, false⟩], fig := 0#32, off := 0, word := 0#32, ll := 0
    dst := 4#6, dstN := dstN, ea := ea, sent := 0, op := o, stage := st }
/-- Core 0 with one access in flight. -/
def flying (f : Flight) (g : Core → Core := fun c => c) : State :=
  mapped { ((turnOf trialMicro).modCore 0 g) with flights := [(0, f)], nextId := 1 }
/-- The address of offset 0x400 of core 0's pool. -/
def poolEa : DWord := 0xFFFE000000000400#64
/-- One access in flight, below the next number, leaves a state sound. -/
theorem flying_sound (f : Flight) (s : State) (a : s.mem = []) (b : s.power = Power.reset) (c : s.flights = [(0, f)]) (d : s.nextId = 1) :
    s.Sound := by
  unfold State.Sound; rw [a, b, c, d]
  refine ⟨rfl, by decide, by decide, rfl, fun p h => ?_⟩
  have e : p = (0, f) := by simpa using h
  rw [e]; exact Nat.zero_lt_one

/-- A retry, a retirement and a skip of a fault; a caller behind its fence that posts the record at 0x1000. -/
theorem witness_FaultResumeAndLaunchPostResults :
    let h := callerWith [(2, 1), (3, 2), (4, 0x1000)]
    let i : FaultInfo := ⟨0x0C#8, 0#32, 0#32, 8, 0#16, 4, 0, true, none, .instruction, true, 0⟩
    let m : Micro := { trialMicro with life := .faulted, fault := some i }
    let x : Launch :=
      { record := richRecord, state := .placed, rootq := 0, entry := none, poster := none, restarts := 0, order := 0, since := 0, x0 := 0, y0 := 0
        areas := [], sweep := none, twinSweep := none, pairIndex := none, proposed := false, fin := none, released := false, endRefused := false }
    let s : State := { mapped (callerTurn { h with stall := some (.launch 5#5 4#5) }) with
      dsc := { Dsc.reset with launches := [(1, x)] }, sealed := [] }
    ((callerTurn h m).Calling 0 1 { richRes with caller := h } ∧ (callerTurn h m).microAt 0 0 = some m) ∧
    ((h.reg 0#5).toNat = 0 ∧ (h.reg 2#5).toNat = 1 ∧ (h.reg 3#5).toNat = 2) ∧
    (m.fault = some i ∧ m.owner = some 1 ∧ i.redo = .instruction ∧ i.inFig = true ∧ i.trailer = none ∧ m.linked = .none ∧
      trialMicro.life ≠ .faulted ∧ h.stall = none) ∧
    (s.Calling 0 1 { richRes with caller := { h with stall := some (.launch 5#5 4#5) } } ∧ s.callerFenced 0 1 = false ∧ s.launch? 1 = some x ∧
      (h.reg 4#5).toNat % 64 = 0 ∧ (∃ q, s.dsc.queues[x.rootq]? = some q ∧ (∃ b, s.readRecord x.asid 0x1000 8 = .ok b ∧
        s.refuses b x.asid x.part (q.cfg.toNat / 2 ^ 35 % 8) ≠ none))) :=
  ⟨⟨(witness_calling _ _).1, rfl⟩, by decide, by decide, ⟨rfl, by decide, rfl⟩, by decide, rfl, by decide, _, rfl, _, rfl, by decide +kernel⟩

/-- Issue: a micro-thread created, one with a deferred fault, one that quits while parked, a fault not yet posted, a free rotation slot with
an eligible micro-thread, and a group that waits for a line it has. -/
theorem witness_IssueEventResults :
    let i : FaultInfo := ⟨0x0C#8, 0#32, 0#32, 8, 0#16, 4, 0, true, none, .instruction, false, 0⟩
    let at_ (m : Micro) : State := calm Caller.blank m
    let q : Micro := { trialMicro with quitting := true, life := .parked }
    let free := calm Caller.blank trialMicro { richRes with budget := 1 }
    let wait : State := (turnOf trialMicro).modCore 0 fun c =>
      { c with groups := [(0, { soleGroup with waiting := [0x40] })], code := [(1, 0x40, 0#512)] }
    let miss : State := (mapped (turnOf trialMicro)).modCore 0 fun c => { c with groups := [(0, { soleGroup with waiting := [0x40] })] }
    ((at_ { trialMicro with life := .created }).microAt 0 0 = some { trialMicro with life := .created } ∧
      ((at_ { trialMicro with deferred := [i] }).core 0).inGroup 0 = false) ∧
    (((at_ q).core 0).inGroup 0 = false ∧ q.linked = .none ∧ q.deferred = [] ∧ q.pend = 0#64 ∧ (at_ q).flights = []) ∧
    (((at_ { trialMicro with life := .faulted, fault := some i }).core 0).firstUnposted 1 = some (0, i) ∧
      coreOfCode (Caller.blank.fsup.toNat % 512) = some 0 ∧ richRes.spill = [] ∧ richRes.mbox.length < 64) ∧
    (Tbl.get? (free.core 0).groups 7 = none ∧ 7 < free.power.throttle ∧ (free.core 0).parked = false ∧
      ((free.core 0).serviceOrder 0).find? (fun l => !(free.eligible 0 l 0).isEmpty) = some 1 ∧
      free.eligible 0 1 0 = [(0, 0#32)] ∧ free.isStart 0 1 0#32 = true) ∧
    (Tbl.get? (wait.core 0).groups 0 = some { soleGroup with waiting := [0x40] } ∧ (wait.core 0).hasCode richRes.asid 0x40 = true) ∧
    ((miss.core 0).hasCode richRes.asid 0x40 = false ∧ miss.translate richRes.asid (0x40 * 64) .exec = .ok 0x1000 true ∧
      (∃ o, miss.codeObject richRes.asid richRes.code = some o ∧ 0x1000 / 0x1000 ∈ o.pages) ∧
      ((miss.cluster (clusterOf 0)).find richRes.asid 0x40 false).isNone = true) :=
  ⟨⟨rfl, by decide⟩, by decide, by decide, by decide +kernel, by decide, by decide, by decide, ⟨_, rfl, by decide⟩, by decide⟩

/-- A load of 8 and of 16 bytes, a store and an atomic at the own port; each at the head of the FIFO; a store of another core's pool; a
global store whose page is translated; an acknowledged store. -/
theorem witness_PortAndFifoResults :
    let ld := flightOf (.load 5#3 0#2) poolEa .request
    let st := flightOf (.store 8 0#2 5#128) poolEa .request
    let am := flightOf (.atomic 0#7 5#128) poolEa .request
    let head (f : Flight) : State := flying { f with stage := .fifo } fun c => { c with fifo := [0] }
    let far := { st with ea := 0xFFFE000800000400#64 }
    let up : State := flying { st with ea := 0x1000#64, stage := .ready 0x1000 true } fun c => { c with fifo := [0] }
    (flying ld).Sound ∧ (∀ f ∈ [ld, st, am], f.stage = .request ∧ (flying f).targetOfFlight f = .pool false 0 0x400 ∧
      (flying f).lineBusy f 0 0x400 = false ∧ (flying f).portOk 0 1 0x400 8 = true ∧ (flying f).away 0 1 = false ∧
      (flying f).isBad (poolAddr 0 0x400) 16 = false) ∧
    ((flying ld).loadMay 0 ld = true ∧ (flying ld).forward 0 ld = .none ∧ ld.size = 8 ∧ am.size = 4 ∧
      (flightOf (.load 6#3 0#2) poolEa .request).size = 16 ∧ (flying ld).portOk 0 1 0x23FFFC 8 = false) ∧
    (∀ f ∈ [st, am], ((head f).core 0).fifo = [0] ∧ (head f).held 0 { f with stage := .fifo } = false ∧
      (head f).loadsOpen 0 { f with stage := .fifo } = false) ∧
    (head far).targetOfFlight far = .pool false 1 0x400 ∧
    (up.targetOfFlight { st with ea := 0x1000#64 } = .global 0x1000 ∧ (up.cluster (clusterOf 0)).wtb.length < 64) ∧
    (st.isStore = true ∧ 0 ∉ ((flying { st with stage := .acked }).cluster (clusterOf 0)).wtb ∧
      ({ ld with stage := .reply 0#128 0#5 } : Flight).bound = true) :=
  ⟨flying_sound _ _ rfl rfl rfl rfl, by decide, by decide, by decide, by decide, by decide, by decide⟩

/-- A global load that is translated, one whose walk fails, the read at its home and the fill's arrival; a store and an atomic there; a
result with its destination pending; a wake. -/
theorem witness_GlobalAccessAndDeliveryResults :
    let ld (st : Stage) := flightOf (.load 5#3 0#2) 0x1000#64 st 2
    let sx (st : Stage) := flightOf (.store 8 0#2 5#128) 0x1000#64 st
    let bare (f : Flight) : State :=
      ({ flying f with dsc := { Dsc.reset with asidtab := 0x80000#64 } } : State).write 0x80008 (bytesOfNat 8 (2 ^ 63 + 0x90))
    let woken : State := { flying (ld .parked) with wakes := [(0, 1, 1)] }
    ((flying (ld .request)).targetOfFlight (ld .request) = .global 0x1000 ∧ (flying (ld .request)).loadMay 0 (ld .request) = true ∧
      (flying (ld .request)).translate ((flying (ld .request)).asidOf 0 1) 0x1000 .read = .ok 0x1000 true) ∧
    (let s := bare { ld .request with ea := 0x2000#64 }
     s.targetOfFlight { ld .request with ea := 0x2000#64 } = .global 0x2000 ∧ (s.tlu (tluOf 0x2000)).recs = [] ∧
       Memory.wf s.mem = true ∧ s.translate 1 0x2000 .read = .fail 0#64) ∧
    ((flying (ld (.home 0x1000 true))).loadMay 0 (ld (.home 0x1000 true)) = true ∧
      (flying (ld (.home 0x1000 true))).readHeld 0 1 (ld (.home 0x1000 true)).vline 0 0x1000 = false ∧
      (((flying (ld (.home 0x1000 true))).cluster 0).find 1 0x40 false).isNone = true ∧
      (flying (ld (.home 0x1000 true))).isBad 0x1000 64 = false ∧ ((flying (ld (.home 0x1000 true))).cluster 0).wtb = []) ∧
    ((flying (sx (.home 0x1000 true))).bufferBusy 0 (sx (.home 0x1000 true)) = false ∧
      (flying (sx (.home 0x1000 true))).isSealed 0x1000 = true ∧
      ({ flying (sx (.home 0x1000 true)) with sealed := [] } : State).isSealed 0x1000 = false ∧
      (flying (sx (.home 0x1000 true))).isBad 0x1000 8 = false) ∧
    ((flying (ld (.fill 0#512 true))).loadMay 0 (ld (.fill 0#512 true)) = true ∧
      (flying (ld (.fill 0#512 true))).forward 0 (ld (.fill 0#512 true)) = .none ∧ (ld (.fill 0#512 true)).isFence = false) ∧
    ((flying (ld (.reply 7#128 0#5))).microAt 0 0 = some trialMicro ∧ (flying (ld (.reply 7#128 0#5))).away 0 1 = false ∧
      trialMicro.life ≠ .retired) ∧
    ((0, 1, 1) ∈ woken.wakes ∧ woken.res? 0 1 = some richRes ∧ richRes.asid = 1 ∧ richRes.ringNext < 4096 ∧
      (ld .parked).ea.toNat % 2 ^ 48 / 0x1000 = 1) :=
  ⟨by decide, by decide +kernel, by decide, by decide, by decide, by decide, by decide, rfl, by decide⟩

/-- The array: each operation at the head of its queue; an I8 MMA of an image without entries. -/
theorem witness_ArrayOperationResults :
    let i : Issuer := ⟨0, 0#16, 0#32, 0, 0#32⟩
    let s (o : MxOp) : State := (turnOf trialMicro).modCore 0 fun c => { c with mx := [⟨1, i, 0, o⟩] }
    let unit : List Byte := [4#8, 32#8, 2#8, 0#8]
    let img : State := (s (.mma 0#7 0x244#32 0#32 0#32 0 [])).write (wbAddr 0 0) unit
    (∀ o ∈ [MxOp.accz 0, .accld 0 0x4000, .accst 0 0x80000000#32 0#32, .accst 0 0x4000#32 0x244#32, .skset 3 0x4000 0xFFFF,
        .wbld 0 0xFFFFFFFF#32 0x4000 0x244#32], ((s o).core 0).mx.length = 1 ∧ (s o).storesBefore 0 0 = false) ∧
    ((s (.accz 0)).res? 0 1 = some richRes ∧ richRes.phase = .resident) ∧ formatWord 0x244#32 = some ⟨4, 4, 2, .rne, false⟩ ∧
    ((s (.accz 0)).isBad (poolAddr 0 0x4000) 16384 = false ∧ (0x80000000#32).getLsbD 31 = true ∧ (0x4000#32).getLsbD 31 = false) ∧
    (((s (.accz 0)).buildImage 0 0x4000 4).length / 256 ≤ richRes.units) ∧
    (match img.image 0 richRes 0 4 with
      | .ok g => g.bf == 4
      | .error _ => false) = true :=
  ⟨by decide, ⟨rfl, rfl⟩, by decide, by decide, by decide +kernel, by decide +kernel⟩
/-- Engines: a join at the head of its queue, a copy waiting with a legal, with an illegal and with a damaged descriptor; a signal entry, a
signal on line 63 with and without a waiter, and one that a full spill ring holds. -/
def copyIssuer : Issuer := ⟨0, 0#16, 0#32, 0, 0#32⟩
/-- A copy descriptor of two elements. -/
def copyOf (src dst : DWord) (esize : Nat) (flags : Byte) : CopyDesc := ⟨src, dst, esize, [⟨2, 2 ^ esize, 2 ^ esize⟩], flags, 5, 0x600⟩
/-- A channel with one entry, and its flight in flight. -/
def chanWith (o : ChanOp) (f : Core → Core := fun c => c) (st : Stage := .engine) : State :=
  flying (flightOf (.copy 0 0x400) 0#64 st 2) fun c => f { c with chans := #v[[⟨1, o⟩], [], [], []] }
theorem witness_CopyAndSignalResults :
    let joined := chanWith (.join 3) fun c => { c with joins := [(3, ⟨1, 1, copyIssuer, true⟩)] }
    let w := chanWith (.copy 0 0x400 .waiting false)
    let legal : State := w.write (poolAddr 0 0x411) [1#8]
    let hurt : State := { legal with watch := { legal.watch with bad := [poolAddr 0 0x400 / 4] } }
    let sig (m : Micro) : State := (calm Caller.blank m).modCore 0 fun c => { c with signals := [(1, 63)] }
    let held : State := (sig trialMicro).modCore 0 fun c =>
      { c with signals := [(2, 5), (1, 63)], res := c.res ++ [(2, { richRes with phase := .saved, ringNext := 4096 })] }
    (w.Sound ∧ joined.joinAtHead 0 3 (joined.core 0) 0 = true ∧ joined.away 0 1 = false) ∧
    (w.headCopy 0 0 = some (1, 0, 0x400, .waiting, false) ∧ w.descBad 0 0x400 = false ∧ hurt.descBad 0 0x400 = true ∧
      (w.readDesc 0 0x400).reason (w.core 0) 0x400 (w.peek (poolAddr 0 0x411) 1) (w.peek (poolAddr 0 0x418) 8) = some 1 ∧
      (legal.readDesc 0 0x400).reason (legal.core 0) 0x400 (legal.peek (poolAddr 0 0x411) 1) (legal.peek (poolAddr 0 0x418) 8) = none) ∧
    (chanWith (.sig 63 copyIssuer)).away 0 1 = false ∧
    (((sig { trialMicro with evWaits := 1#64 <<< 63 }).core 0).signals.find? (fun p =>
        !((sig trialMicro).away 0 p.1 && (sig trialMicro).ringFull 0 p.1)) = some (1, 63) ∧
      ((sig { trialMicro with evWaits := 1#64 <<< 63 }).core 0).inGroup 0 = false ∧ trialMicro.evWaits.getLsbD 63 = false ∧
      (held.core 0).signals.find? (fun p => !(held.away 0 p.1 && held.ringFull 0 p.1)) = some (1, 63)) :=
  ⟨⟨flying_sound _ _ rfl rfl rfl rfl, by decide, by decide⟩, by decide +kernel, by decide, by decide⟩
/-- An element of a copy: of 8 bytes and of 16 in each half, from a pool, from a cached line and from a page the host must map; written
to a pool in one piece, in its lower and in its upper half; stored to global memory; and its store acknowledged. -/
theorem witness_CopyAndSignalResults_element :
    let s (d : CopyDesc) (el : Elem) : State := chanWith (.copy 0 0x400 (.started d 1 8 el false) false)
    let p8 := copyOf poolEa (poolEa + 0x100#64) 3 1#8
    let p16 := copyOf poolEa (poolEa + 0x100#64) 4 0#8
    let g8 := copyOf 0x1000#64 0x1000#64 3 0#8
    let far := copyOf 0x5000#64 0x1000#64 3 0#8
    let v : Elem := { Elem.fresh with val := some 5#128 }
    let near : State := let t := s g8 Elem.fresh
      { t with clusters := t.clusters.set 0 { Cluster.reset with lines := [⟨1, 0x40, false, 0#512⟩] } }
    let bare : State := ({ s far Elem.fresh with dsc := { Dsc.reset with asidtab := 0x80000#64 } } : State).write 0x80008
      (bytesOfNat 8 (2 ^ 63 + 0x90))
    let child : Flight := { flightOf (.store 8 0#2 5#128) 0x1008#64 .acked with agent := .engine, who := [], parent := some 0 }
    let acked : State := { s g8 v with flights := [(0, flightOf (.copy 0 0x400) 0#64 .engine 2), (1, child)], nextId := 2 }
    ((s p8 Elem.fresh).core 0).chan 0 = ⟨1, .copy 0 0x400 (.started p8 1 8 Elem.fresh false) false⟩ :: [] ∧
    (richRes.phase = .resident ∧ 1 < p8.total ∧ p8.total = 2 ∧ p8.bytes = 8 ∧ p16.bytes = 16 ∧ (s p8 v).childOf 0 = none) ∧
    ((s p8 Elem.fresh).reach 0 1 (p8.srcAt 1) 8 .read = .pool 0 0x408 ∧ (s p8 Elem.fresh).isBad (poolAddr 0 0x408) 8 = false ∧
      (s p16 Elem.fresh).reach 0 1 (p16.srcAt 1) 16 .read = .pool 0 0x410 ∧ (s p16 Elem.fresh).isBad (poolAddr 0 0x418) 8 = false ∧
      ({ Elem.fresh with low := some 1#64 } : Elem).low.isSome = true) ∧
    (near.reach 0 1 (g8.srcAt 1) 8 .read = .home 0x1008 true ∧
      (near.cluster (clusterOf 0)).find (near.asidOf 0 1) ((g8.srcAt 1 + 0#64).toNat % 2 ^ 48 / 64) false = some ⟨1, 0x40, false, 0#512⟩) ∧
    bare.reach 0 1 (far.srcAt 1) 8 .read = .page 0x5008 0#64 ∧
    ((s p8 v).reach 0 1 (p8.dstAt 1) 8 .write = .pool 0 0x508 ∧ (s p8 v).away 0 1 = false ∧ (s p8 v).isBad (poolAddr 0 0x508) 8 = false ∧
      (s p16 v).reach 0 1 (p16.dstAt 1) 16 .write = .pool 0 0x510 ∧ v.half = false ∧ ({ v with half := true } : Elem).val = some 5#128) ∧
    (({ s g8 v with sealed := [] } : State).reach 0 1 (g8.dstAt 1) 8 .write = .home 0x1008 true ∧
      ((s g8 v).cluster (clusterOf 0)).wtb.length < 64) ∧
    (acked.childOf 0 = some (1, child) ∧ child.stage = .acked ∧ acked.Sound) := by
  refine ⟨by decide +kernel, by decide +kernel, by decide +kernel, by decide +kernel, by decide +kernel, by decide +kernel, by decide +kernel,
    by decide +kernel, by decide +kernel, rfl, by decide, by decide, rfl, by decide⟩
/-- The ends of a copy: all its elements delivered, stopped by CCANCEL, and ended before. -/
theorem witness_CopyAndSignalResults_end :
    let d := copyOf poolEa (poolEa + 0x100#64) 3 5#8
    let s (st : CopyState) : State := chanWith (.copy 0 0x400 st false)
    ((s (.started d 2 16 Elem.fresh false)).headCopy 0 0 = some (1, 0, 0x400, .started d 2 16 Elem.fresh false, false) ∧ d.total ≤ 2) ∧
    (s (.started d 1 8 Elem.fresh true)).headCopy 0 0 = some (1, 0, 0x400, .started d 1 8 Elem.fresh true, false) ∧
    (s (.ended (some d) 1 8 1 5)).headCopy 0 0 = some (1, 0, 0x400, .ended (some d) 1 8 1 5, false) ∧
    (s (.ended none 0 0 2 0)).headCopy 0 0 = some (1, 0, 0x400, .ended none 0 0 2 0, false) ∧
    Tbl.get? (s (.ended none 0 0 2 0)).flights 0 = some (flightOf (.copy 0 0x400) 0#64 .engine 2) :=
  ⟨by decide +kernel, by decide +kernel, by decide +kernel, by decide +kernel, rfl⟩

/-- Messages: a SPAWN with a retired slot of the launch and without, a word for an empty and a full mailbox, a waiting RECVW and a
micro-thread that is gone, an inbox entry that can be delivered, and a full inbox. -/
def msgOf (k : Nat) : Msg := ⟨k, true, 0, 0, 0#16, 0#32, 0#32, [1#32, 2#32, 3#32, 4#32], 1, .none⟩
theorem witness_MessageArrivalResults :
    let s (k : Nat) (m : Micro) : State := (turnOf m).modCore 0 fun c =>
      { c with net := [(0, [msgOf k])], slots := [(0, m), (1, { trialMicro with life := .retired })] }
    let none_ : State := (s 1 trialMicro).modCore 0 fun c => { c with slots := [(0, trialMicro)] }
    let linked : Micro := { trialMicro with linked := .recvw }
    let rec_ : State := { s 3 linked with flights := [(0, flightOf .recvw 0#64 .linked 1)], nextId := 1 }
    let ready : State := (s 3 trialMicro).modCore 0 fun c => { c with inbox := [msgOf 3] }
    let full : State := (s 1 trialMicro).modCore 0 fun c => { c with inbox := List.replicate 256 (msgOf 3) }
    ((s 1 trialMicro).Sound ∧ Tbl.get? ((s 1 trialMicro).core 0).net 0 = some [msgOf 1] ∧ ((s 1 trialMicro).core 0).inbox.length < 256 ∧
      Tbl.sorted ((s 1 trialMicro).core 0).net = true ∧ (msgOf 1).box ≠ .overflow ∧ (s 1 trialMicro).res? 0 1 = some richRes) ∧
    (coreOfCode ((msgOf 1).src % 512) = some 0 ∧ ((s 1 trialMicro).spawnSlot 0 (msgOf 1)).isSome = true ∧
      none_.spawnSlot 0 (msgOf 1) = none ∧ (msgOf 1).args.length = 4) ∧
    ((s 3 trialMicro).inboxReady 0 = none ∧ trialMicro.gen = (msgOf 3).tgen ∧ trialMicro.owner = some (msgOf 3).launch ∧
      trialMicro.life ≠ .retired ∧ trialMicro.linked ≠ .recvw ∧ trialMicro.mailbox = none ∧
      ({ trialMicro with mailbox := some 0#32 } : Micro).mailbox ≠ none ∧ ({ trialMicro with gen := 1#16 } : Micro).gen ≠ (msgOf 3).tgen) ∧
    (rec_.linkedFlight 0 0 = some (0, flightOf .recvw 0#64 .linked 1) ∧ ((rec_.core 0).micro 0).linked = .recvw) ∧
    (ready.inboxReady 0 = some (msgOf 3, []) ∧ ready.mail 0 (msgOf 3) = .empty) ∧ 256 ≤ (full.core 0).inbox.length :=
  ⟨⟨witness_sound _ rfl rfl rfl, rfl, by decide, rfl, by decide, rfl⟩, by decide, by decide, by decide, by decide, by decide +kernel⟩
/-- Replies to a SPAWN: one that a SPAWN in flight waits for, and one that nothing does. -/
theorem witness_MessageArrivalResults_reply :
    let m : Msg := { msgOf 2 with ret := 0x1000#32 }
    let s (fs : Tbl Flight) : State :=
      { (turnOf trialMicro).modCore 0 (fun c => { c with net := [(0, [m])] }) with flights := fs, nextId := 1 }
    let f := flightOf (.spawn 0#32 0 []) 0#64 .engine 1
    (m.kind = 2 ∧ f.dst.toNat = m.ret.toNat / 1024 % 64 ∧ f.repliedBy m = true ∧ Tbl.get? (s [(0, f)]).flights 0 = some f ∧
      trialMicro.gen = m.tgen ∧ trialMicro.life ≠ .retired ∧ ((s [(0, f)]).core 0).inbox.length < 256) ∧
    ∀ p ∈ (s []).flights, p.2.core = 0 → p.2.repliedBy m = false := ⟨by decide, fun _ h => (List.not_mem_nil h).elim⟩

/-- Levels of domain 2 on one core and on two: an arrival that is the last and one that is not, a summons and a completion of the open
episode, and a local completion. -/
theorem witness_LevelEventResults :
    let m : LvMsg := ⟨1, 0, 0, 0, false⟩
    let two : Res := { richRes with record := recordWith [(11, 1, 1), (14, 1, 2), (15, 1, 1), (128, 1, 3)] }
    let one : Res := { richRes with record := recordWith [(11, 1, 1), (14, 1, 1), (15, 1, 1), (128, 1, 2)] }
    let s (r : Res) : State := ((turnOf trialMicro r).modCore 0 fun c => { c with lvArr := [m], lvSum := [m], lvDone := [m] }).modCore 1
      fun c => { c with res := [(1, r)] }
    let loc : State := calm Caller.blank { trialMicro with arrived := 1#8 } { one with levels := [{ Level.blank with arrivals := 1 }] }
    ((s two).res? 0 1 = some two ∧ two.phase = .resident ∧ two.ringNext < 4096 ∧ two.levelDom 0 = 3 ∧ m.twin = false) ∧
    ((∃ x ∈ (s two).levelCores two 0 1 (two.levelDom 0), x ∉ [m.core]) ∧
      ∀ x ∈ (s { two with levels := [{ Level.blank with received := [1] }] }).levelCores two 0 1 (two.levelDom 0), x ∈ [1] ++ [m.core]) ∧
    ((two.level 0).episode = m.episode ∧ 0 < two.levels.length ∧ Tbl.sorted ((s two).core 0).slots = true) ∧
    ((loc.core 0).lvDone = [] ∧ (loc.core 0).levelList.head? = some (1, 0) ∧ one.levelDom 0 = 2 ∧ loc.partReady 0 1 0 = true) :=
  ⟨⟨rfl, rfl, by decide, by decide, rfl⟩, by decide, by decide, by decide⟩

/-- Traversal: a TPOST that is admitted and one refused; the three kinds of TCFG; a node fetch whose line is in the cluster and one read at
its home; a waiting record, and a query that drains, with room in the hit queue. -/
theorem witness_TraversalEventResults :
    let i : Issuer := ⟨0, 0#16, 0#32, 0, 0#32⟩
    let post (o : QqOp) : State := (flying (flightOf (.tpost 0x400) 0#64 .engine 2) fun c => { c with trp := [⟨1, o⟩], queries := [] })
    let p := post (.tpost 0 0x400)
    let bad : List Byte := [0#8, 9#8]
    let node : Query := { trialQuery with state := .nodeWait, record := queryRecord [(8, 8, 0x1000)] }
    let fetch : State := flying (flightOf .recvw 0#64 .engine) fun c => { c with queries := [(0, node)] }
    let near : State := { fetch with clusters := fetch.clusters.set 0 { Cluster.reset with lines := [⟨1, 0x40, true, 0#512⟩] } }
    (p.res? 0 1 = some richRes ∧ (p.core 0).freeEntries ≠ [] ∧ (Tbl.get? p.flights 0).isSome = true) ∧
    (admissionStatus (p.core 0) richRes (Memory.readN p.mem (poolAddr 0 0x400) 128) = 0 ∧ admissionStatus (p.core 0) richRes bad ≠ 0) ∧
    (((post (.tcfg 0x400 0#32 i)).core 0).queries = [] ∧ decodeEntryOk (List.replicate 32 0#8) = true ∧
      walkWordOk 1023 0x00000303#32 = true) ∧
    ((0x80000007#32).extractLsb' 30 2 = 2#2 ∧ (0x4000 : Nat) % 32 = 0 ∧ (2 : Nat) ^ 12 ≤ 4096 ∧ (p.core 0).inSp 0x4000 (32 * 4096) = true ∧
      (richRes.hitq 7).isNone = true) ∧
    (fetch.query? 0 0 = some node ∧ node.mode 2 = false ∧ node.pageHeld = none ∧ node.pc < 1023 ∧
      (near.cluster 0).find richRes.asid 0x40 true = some ⟨1, 0x40, true, 0#512⟩ ∧
      ((fetch.cluster 0).find richRes.asid 0x40 true).isNone = true ∧ fetch.translate richRes.asid 0x1000 .read = .ok 0x1000 true ∧
      fetch.isBad 0x1000 64 = false ∧ (fetch.cluster 0).wtb = []) ∧
    (∀ q ∈ [{ trialQuery with state := .hitWait [] true }, { trialQuery with state := .hitWait [] false }, { trialQuery with state := .drain }],
      (queryTurn q).query? 0 0 = some q ∧ richRes.hitq q.hq = some ⟨0x4000, 2, 3, true, 0, 0, []⟩ ∧ q.out = [] ∧ q.pageHeld = none ∧
      q.survivors = none ∧ q.mode 0 = false ∧ q.pc < 1023) ∧ State.reset.station.hits = [] :=
  ⟨⟨rfl, by decide +kernel, rfl⟩, by decide +kernel, by decide +kernel, by decide, by decide +kernel, by decide, rfl⟩

/-- Gather/scatter requests: a descriptor of one 8-byte element (or of another size) at index 0 of a table at 0x1000, with DATA at 0x800 of the
own pool. -/
def gteDesc (op : Nat) (es : Nat := 3) (flags : Nat := 0) (base : Nat := 0x1000) : List Byte :=
  [(0, 1, op), (1, 1, es), (3, 1, flags), (8, 8, base), (16, 4, 16), (20, 4, 1), (24, 4, 0xC00), (32, 8, 0xFFFE000000000800)].foldl
    (fun b f => b.take f.1 ++ bytesOfNat f.2.1 f.2.2 ++ b.drop (f.1 + f.2.1)) (bytesOfNat 64 0)
def gteQ : GteReq := ⟨1, 7, 0x400, ⟨0, 0#16, 0#32, 0, 0#32⟩⟩
/-- A started request: its index read or not, the page it holds, and its element. -/
def gteRun (bytes : List Byte) (idx : Option Nat) (p : Option (Nat × Nat × Bool)) (el : Elem := Elem.fresh) : GteRun :=
  { req := gteQ, bytes := bytes, i := 0, probed := p, held := false, ended := none, idx := idx, el := el }
def gteState (g : GteRun) (lines : List CLine := []) : State :=
  let s := mapped (turnOf trialMicro)
  { s with clusters := s.clusters.set 0 { Cluster.reset with gte := [(0, g)], lines := lines }, sealed := [] }
/-- The start of a request: legal, of no element, in breach, and damaged; a probe of an open page, of the page it holds, outside, sealed,
without tables, and of a page the host must map. -/
theorem witness_GatherScatterResults :
    let start : State := (gteState (gteRun [] none none)).modCore 0 fun c => { c with gteq := [⟨1, .req gteQ⟩] }
    let s0 : State := { start with clusters := start.clusters.set 0 Cluster.reset }
    let hurt : State := { s0 with watch := { s0.watch with bad := [poolAddr 0 0x400 / 4] } }
    let none_ : List Byte := (gteDesc 0).take 20 ++ bytesOfNat 4 0 ++ (gteDesc 0).drop 24
    let g := gteRun (gteDesc 0) none none
    let bare : State := ({ gteState (gteRun (gteDesc 0 3 0 0x5000) none none) with dsc := { Dsc.reset with asidtab := 0x80000#64 } } : State).write
      0x80008 (bytesOfNat 8 (2 ^ 63 + 0x90))
    let sealed_ : State := { gteState (gteRun (gteDesc 1) none none) with sealed := [trialObject] }
    ((s0.core 0).gteq = [⟨1, .req gteQ⟩] ∧ s0.res? 0 1 = some richRes ∧ Tbl.get? (s0.cluster (clusterOf 0)).gte 0 = none ∧
      (s0.cluster (clusterOf 0)).powered = true ∧ s0.isBad (poolAddr 0 0x400) 64 = false ∧ hurt.isBad (poolAddr 0 0x400) 64 = true) ∧
    (g.reason 0 (start.core 0) richRes = none ∧ g.count = 1 ∧ (gteRun none_ none none).reason 0 (start.core 0) richRes = none ∧
      (gteRun none_ none none).count = 0 ∧ (gteRun (List.replicate 64 0xFF#8) none none).reason 0 (start.core 0) richRes = some 1) ∧
    ((gteState g).gteRun? 0 = some (richRes, g) ∧ g.op = 0 ∧ g.bad = false ∧ g.idx = none ∧ (gteState g).portOk 0 1 0xC00 4 = true ∧
      (gteState g).isBad (poolAddr 0 0xC00) 4 = false ∧ (gteState g).peek (poolAddr 0 0xC00) 4 = 0 ∧ g.isize = 4) ∧
    ((gteState g).translate richRes.asid 0x1000 .read = .ok 0x1000 true ∧ isArray 0x1000#64 = false ∧ canonical 0x1000#64 = true ∧
      isArray 0xFFFE000000000000#64 = true ∧ ((gteRun (gteDesc 0) (some 0) (some (1, 0x1000, true))).probed.map fun p => p.1) = some 1) ∧
    (sealed_.translate richRes.asid 0x1000 .write = .ok 0x1000 true ∧ sealed_.isSealed 0x1000 = true ∧
      (gteRun (gteDesc 1) none none).op = 1) ∧
    ((gteState g).translate richRes.asid 0x5000 .read = .noTables ∧ bare.translate richRes.asid 0x5000 .read = .fail 0#64 ∧
      (bare.tlu (tluOf 0x5000)).recs = []) :=
  ⟨⟨rfl, rfl, rfl, rfl, by decide +kernel, by decide +kernel⟩, by decide +kernel, by decide +kernel, by decide +kernel, by decide +kernel,
    by decide +kernel⟩
/-- An element whose page is held: read from a cached line, from its home, uncached, and in each half of 16 bytes; written to DATA; DATA
read, a scatter's store, and each combine. -/
theorem witness_GatherScatterResults_element :
    let p : Option (Nat × Nat × Bool) := some (1, 0x1000, true)
    let v : Elem := { Elem.fresh with val := some 5#128 }
    let near := gteState (gteRun (gteDesc 0) (some 0) p) [⟨1, 0x40, false, 0#512⟩]
    (∀ op ∈ [0, 1, 2, 3, 4, 5], ∀ el ∈ [Elem.fresh, v],
      let g := gteRun (gteDesc op) (some 0) p el
      let s := gteState g
      g.op = op ∧ s.gteRun? 0 = some (richRes, g) ∧ g.dataAt 0 richRes = (0, 0x800) ∧ s.portOk 0 1 0x800 8 = true ∧ s.away 0 1 = false ∧
        s.isBad (poolAddr 0 0x800) 8 = false ∧ s.isBad 0x1000 8 = false ∧ s.isSealed 0x1000 = false ∧ s.locationBusy 0 0x1000 = false ∧
        (s.cluster 0).wtb.length < 64 ∧ s.readHeld 0 1 0x40 0 0x1000 = false ∧ (s.cluster 0).find 1 0x40 false = none) ∧
    (near.cluster 0).find (near.asidOf 0 1) 0x40 false = some ⟨1, 0x40, false, 0#512⟩ ∧
    (let g := gteRun (gteDesc 0 4 1) (some 0) (some (1, 0x1000, false)) { Elem.fresh with low := some 1#64 }
     (gteState g).gteRun? 0 = some (richRes, g) ∧ g.elem = 16 ∧ g.flag 0 = true ∧ (gteState g).portOk 0 1 0x800 16 = true ∧
       (gteState g).isBad 0x1008 8 = false) ∧
    (let g := gteRun (gteDesc 0 4) (some 0) p { v with half := true }
     (gteState g).gteRun? 0 = some (richRes, g) ∧ g.el.half = true ∧ g.el.val = some 5#128) ∧
    (∀ op ∈ [4, 5], (gteRun (gteDesc op 3 8) (some 0) p v).flag 3 = true ∧ (gteRun (gteDesc op 3 4) (some 0) p v).flag 2 = true ∧
      (gteRun (gteDesc op 3 4) (some 0) p v).flag 3 = false ∧ (gteRun (gteDesc op) (some 0) p v).flag 2 = false) := by
  refine ⟨by decide +kernel, by decide +kernel, by decide +kernel, by decide +kernel, by decide +kernel⟩
/-- NINV of this cluster and of all; the end of a request with no store of its own, with one that met a fault, and with one still on its
way. -/
theorem witness_GatherScatterResults_end :
    let n := gteRun (gteDesc 6 0 16) none none
    let g : GteRun := { gteRun (gteDesc 1) none none with i := 1, ended := some (2#32, 1) }
    let f (st : Stage) : Flight := { flightOf (.store 8 0#2 5#128) 0x1000#64 st with agent := .engine, who := [], off := 6, word := 5#32 }
    let s (st : Stage) : State := { gteState g with flights := [(0, f st)], nextId := 1 }
    (n.op = 6 ∧ n.bad = false ∧ n.flag 4 = true ∧ (gteRun (gteDesc 6 0) none none).flag 4 = false ∧ (gteState n).gteRun? 0 = some (richRes, n)) ∧
    (Tbl.get? ((gteState g).cluster (clusterOf 0)).gte 0 = some g ∧ (gteState g).scatters 0 = [] ∧ (gteState g).gteEnd? 0 g = some (2#32, 1) ∧
      (gteState g).ringFull 0 1 = false) ∧
    ((s .faulted).scatters 0 = [(0, f .faulted)] ∧ (s .faulted).gteEnd? 0 g = some (0x503#32, 0) ∧
      (s .acked).gteEnd? 0 g = some (2#32, 1) ∧ (s (.home 0x1000 true)).gteEnd? 0 g = none) ∧ (s .acked).Sound :=
  ⟨by decide +kernel, by decide +kernel, by decide +kernel, flying_sound _ _ rfl rfl rfl rfl⟩

/-- A caller stalled at FIG.WAIT and at FIG.SYNC whose conditions hold, an enabled event, and a page fault with its record answered and
still open. -/
theorem witness_CallerEventResults :
    let w : Caller := { Caller.blank with stall := some (.wait 5#5) }
    let y : Caller := { callerWith [(1, 0x8000000000000000)] with stall := some (.sync 5#5 1#5) }
    let e : Caller := { Caller.blank with fhandler := 0x1000#64, evEnable := 4#16 }
    let f : Caller := { Caller.blank with exc := some ⟨13, 0x5000#64, false⟩ }
    let open_ : State := (calm f (calledMicro [])).modTlu (tluOf 0x5000) fun t => { t with recs := [⟨0, 0, 1, 5, 0#64, .written⟩] }
    (∀ x ∈ ((calm w (calledMicro [])).core 0).owned 1, (((calm w (calledMicro [])).core 0).micro x).callq = [] ∧
      ((calm w (calledMicro [])).core 0).inFlight x = false) ∧
    ((((calm y (calledMicro [])).core 0).named 1 (y.reg 1#5) 0) ∧ Tbl.sorted ((calm y (calledMicro [])).core 0).slots = true) ∧
    (((calm e (calledMicro [])).core 0).enabledEvents 1 { richRes with caller := e } ≠ 0#16 ∧ e.fhandler ≠ 0#64 ∧
      (calm e (calledMicro [])).fetchHeld 0 1 = false) ∧
    ((calm f (calledMicro [])).recordOpen richRes.asid 0x5000 = false ∧ open_.recordOpen richRes.asid 0x5000 = true ∧ 13 ∈ [12, 13, 15]) := by
  refine ⟨by decide, ⟨?_, by decide⟩, by decide, by decide⟩
  rw [show (Caller.reg { callerWith _ with stall := _ } 1#5) = 1#64 <<< 63 from by decide]; exact (calm_named _ _ _ _ rfl).2 rfl
/-- A partition configuration with some fields set. -/
def partWith (fields : List (Nat × Nat × Nat)) : Line :=
  BitVec.ofNat 512 (natOfBytes (fields.foldl (fun b f => b.take f.1 ++ bytesOfNat f.2.1 f.2.2 ++ b.drop (f.1 + f.2.1)) (bytesOfNat 64 0)))
/-- Partition 0 with cluster 0, two strikes, 10 figures a window, one save area at 0x1000000 and a fault ring of 4 records at 0x2000. -/
def part0 : Part :=
  ⟨partWith [(0, 2, 1), (2, 1, 1), (3, 1, 2), (16, 4, 10), (24, 8, 0x1000000), (32, 8, 0x700000), (40, 8, 0x2000), (48, 2, 4)], 0#32, 0, 0, 0⟩
/-- A launch record that is accepted: ASID 1, one core, a code object at 0x1000, no level, no role. -/
def goodRecord (prio : Nat) : List Byte :=
  [(0, 4, 0x57C01A5C), (4, 2, 1), (6, 1, prio), (8, 2, 1), (14, 1, 1), (15, 1, 1), (16, 8, 0x1000), (24, 8, 0x1000), (32, 8, 0x1000),
    (48, 4, 0x101), (52, 2, 1), (54, 1, 1), (60, 4, 0x8000), (64, 4, 0x40), (68, 4, 0x8000)].foldl
    (fun b f => b.take f.1 ++ bytesOfNat f.2.1 f.2.2 ++ b.drop (f.1 + f.2.1)) (bytesOfNat 512 0)
/-- An accepted launch of that record. -/
def goodLaunch (st : LaunchState) (prio : Nat := 0) : Launch :=
  { record := goodRecord prio, state := st, rootq := 0, entry := some (0, 0), poster := none, restarts := 0, order := 0, since := 0, x0 := 0, y0 := 0
    areas := [], sweep := none, twinSweep := none, pairIndex := none, proposed := false, fin := none, released := false, endRefused := false }
/-- A module with some launches, some launches on core 0, and the page at 0x1000 mapped. -/
def desk (launches : Tbl Launch) (res : Tbl Res) : State :=
  let s := mapped (State.reset.modCore 0 fun c => { c with res := res, part := 0x101#32 })
  { s with dsc := { Dsc.reset with launches := launches, parts := [part0] }, sealed := [trialObject] }
/-- The launch as it stands on its core. -/
def goodRes : Res := { richRes with record := goodRecord 0, tileMap := [], wbMap := [], grant := none, caller := { Caller.blank with ended := true } }

/-- Pre-emption: the request, a quiet core, a context whose image in the save area stands, an S-mode exception, a parked core. -/
theorem witness_PreemptionResults :
    let areas : Tbl (Nat × Nat) := [(0, 0x1000000, 0x1600000)]
    let x (st : LaunchState) : Launch := { goodLaunch st with areas := areas }
    let mem : SavedMem := ⟨List.replicate 64 0#8, [], [], 0x101#32, [[], [], [], []], [], [], [], [], [], [], Vector.replicate 4 0#32, [], false⟩
    let image := [(0, 4, 0x57C00C7A), (4, 2, 1), (8, 4, 1)].foldl
      (fun b f => b.take f.1 ++ bytesOfNat f.2.1 f.2.2 ++ b.drop (f.1 + f.2.1)) (bytesOfNat 16 0)
    let back : State := (desk [(1, x .resuming)] [(1, { goodRes with phase := .saved, saved := some mem })]).write 0x1000000 image
    let exc : Res := { goodRes with caller := { Caller.blank with exc := some ⟨2, 0#64, true⟩ } }
    let req := desk [(1, x .saving)] [(1, goodRes)]
    let halt := desk [(1, x .saving)] [(1, { goodRes with phase := .halting })]
    (req.Sound ∧ req.res? 0 1 = some goodRes ∧ req.launch? 1 = some (x .saving) ∧ Tbl.has (x .saving).areas 0 = true ∧
      goodRes.spill = [] ∧ Tbl.sorted (req.core 0).groups = true) ∧
    ((x .saving).proposed = false ∧ halt.quiet 0 1 = true ∧ halt.saveDamaged 0 1 { goodRes with phase := .halting } = false) ∧
    (Memory.wf back.mem = true ∧ Tbl.get? (x .resuming).areas 0 = some (0x1000000, 0x1600000) ∧
      (back.core 0).fitsAgain 1 (x .resuming).record [] = true ∧ back.imageRefused 0 1 0x1000000 0x1600000 0 = none ∧
      goodRes.wbMap = [] ∧ goodRes.grant = none) ∧
    (((desk [(1, x .placed)] [(1, exc)]).core 0).res = [(1, exc)] ∧ exc.phase = .resident ∧
      ((desk [(1, goodLaunch .placed)] [(1, exc)]).allocAreas (x .placed).part [0] = some [(0, 0x1000000, 0x1600000)])) :=
  ⟨⟨witness_sound _ rfl rfl rfl, rfl, rfl, rfl, rfl, rfl⟩, by decide, by decide +kernel, rfl, rfl, by decide +kernel⟩

/-- The host: doorbells at and past the capacity; an entry whose record cannot be read, is refused, is accepted, and lies on a page the
host could map; fault records with room and without, a refused one, and a response; shoot-downs; partition writes; management accesses. -/
theorem witness_HostInterfaceResults :
    let h : HostQ := ⟨0#64, 0x8000000000010001#64, 0#32, 1#32, 0, false⟩
    let q (va : Nat) (tab : DWord := 0#64) : State :=
      let s := { desk [] [] with dsc := { Dsc.reset with parts := [part0], queues := [h], asidtab := tab } }
      s.write 0 (bytesOfNat 8 va)
    let r : FaultRec := ⟨3, 0, 1, 5, 0#64, .offered⟩
    let rec_ (v : Part) (st : RecState) : State := { (desk [(1, goodLaunch .placed)] []).modTlu 2 (fun t => { t with recs := [{ r with state := st }] }) with
      dsc := { Dsc.reset with parts := [v], launches := [(1, goodLaunch .placed)] } }
    ((1#32 - h.head).toNat ≤ h.cfg.toNat % 2 ^ 16 ∧ h.cfg.toNat % 2 ^ 16 < (2#32 - h.head).toNat) ∧
    ((q 1).nextQueue = some (0, h) ∧ (match (q 1).entryRecord h with | .error none => true | _ => false) = true) ∧
    ((match (q 0x1000).entryRecord h with | .ok b => (q 0x1000).refuses b h.asid h.part h.maxPrio == some 2 | _ => false) = true) ∧
    ((match ((q 0x1000).write 0x1000 (goodRecord 0)).entryRecord h with
      | .ok b => ((q 0x1000).write 0x1000 (goodRecord 0)).refuses b h.asid h.part h.maxPrio == none
      | _ => false) = true ∧ h.held = false ∧ (q 0).dsc.idents + 1 < 2 ^ 31) ∧
    ((match ((q 0x5000 0x80000#64).write 0x80008 (bytesOfNat 8 (2 ^ 63 + 0x90))).entryRecord h with | .error (some _) => true | _ => false) = true) ∧
    (((rec_ part0 .offered).tlu 2).recs.find? (fun r => r.state != .written) = some r ∧ (rec_ part0 .offered).asidPart r.asid = some 0 ∧
      (BitVec.ofNat 32 part0.written - part0.consumed).toNat < part0.field 48 2 ∧
      ({ part0 with written := 4 } : Part).field 48 2 ≤ (BitVec.ofNat 32 4 - ({ part0 with written := 4 } : Part).consumed).toNat) ∧
    ((0x200000003#64).extractLsb' 37 27 = 0#27 ∧
      ((rec_ part0 .written).tlu ((0x200000003#64).toNat / 2 ^ 32 % 16)).recs.find? (fun r => r.seq == (0x200000003#64).toNat % 2 ^ 32) =
        some { r with state := .written } ∧ (0x1200000003#64).getLsbD 36 = true ∧ (0x2000000000#64).extractLsb' 37 27 ≠ 0#27) ∧
    (({ Dsc.reset with shootBusy := some (0, 0, 0) } : Dsc).shootBusy ≠ none ∧
      ({ desk [] [] with dsc := { Dsc.reset with shootBusy := some (0, 0, 0) } } : State).shootOpen (0, 0, 0) = false) ∧
    (0 < (q 0).dsc.parts.length ∧ (q 0).dsc.launches = [] ∧ (q 0).core 0 = { Core.reset with part := 0x101#32 }) ∧
    (0x2BFFF8 % 8 = 0 ∧ 0x2BFFF8 + 8 ≤ 0x2C0000 ∧ ((q 0).core 0).res = [] ∧ ((desk [] [(1, goodRes)]).core 0).res ≠ []) :=
  ⟨by decide, ⟨by decide, by decide +kernel⟩, by decide +kernel, ⟨by decide +kernel, rfl, by decide⟩, by decide +kernel, by decide +kernel, by decide +kernel,
    by decide +kernel, ⟨by decide, rfl, rfl⟩, by decide, by decide, rfl, by exact List.cons_ne_nil _ _⟩

/-- Scheduling: a waiting launch that fits, one for which a placed launch of lower priority must go, a saved one that fits again, and one
whose spill ring is full. -/
theorem witness_SchedulerDecisionResults :
    let w := desk [(1, goodLaunch .waiting)] []
    let low : Tbl Launch := [(1, goodLaunch .placed), (2, { goodLaunch .waiting 7 with order := 1 })]
    let one : Line := partWith [(0, 2, 1), (2, 1, 1), (24, 8, 0x1000000), (32, 8, 0x700000)]
    let pin : List Byte := ((goodRecord 7).take 7 ++ [4#8] ++ (goodRecord 7).drop 8)
    let y : Launch := { goodLaunch .waiting 7 with record := pin, order := 1 }
    let full : Tbl Launch := [(1, goodLaunch .placed), (2, y)]
    let b : State := { desk full [(1, goodRes)] with dsc := { Dsc.reset with launches := full, parts := [⟨one, 0#32, 0, 0, 0⟩] } }
    let saved (k : Nat) : State := desk [(1, goodLaunch .saved)] [(1, { goodRes with phase := .saved, ringNext := k })]
    (w.Sound ∧ w.launch? 1 = some (goodLaunch .waiting) ∧ (goodLaunch .waiting).isPair = false ∧ w.deciding 0 = false ∧
      0 < w.dsc.parts.length) ∧
    (w.firstWaiting 0 = some (1, goodLaunch .waiting) ∧ w.fullIn 0 = none ∧ (w.part 0).enabled = true ∧
      (w.candidates (goodLaunch .waiting)).find? (fun o => w.fitsAt 1 (goodLaunch .waiting) [] o) = some (0, 0) ∧
      rolesOf (goodLaunch .waiting).record = []) ∧
    (low.length = 2 ∧ b.firstWaiting 0 = some (2, y) ∧ b.fullIn 0 = none ∧ b.savingIn 0 = false ∧ b.candidates y = [(0, 0)] ∧
      b.fitsAt 2 y [] (0, 0) = false ∧
      b.victims 2 y (0, 0) (b.dsc.launches.filter fun q => q.1 != 2 && q.2.state == .placed &&
        (q.2.cores.any fun n => (rectCores 0 0 y.width y.height).contains n) && decide (b.effective q.2 < b.effective y)) =
        some [(1, goodLaunch .placed)] ∧ (∃ n ∈ (goodLaunch .placed).cores, ∀ q, b.res? n 1 = some q → q.phase ≠ .saved) ∧
      (b.allocAreas (goodLaunch .placed).part (goodLaunch .placed).cores).isSome = true) ∧
    ((saved 0).firstWaiting 0 = some (1, goodLaunch .saved) ∧ (saved 0).fullIn 0 = none ∧
      (saved 0).fitsAt 1 (goodLaunch .saved) [] (0, 0) = true) ∧
    ((saved 4096).fullIn 0 = some (1, goodLaunch .saved) ∧ (saved 4096).deciding 0 = false) := by
  refine ⟨⟨witness_sound _ rfl rfl rfl, rfl, by decide, by decide, by decide⟩, by decide +kernel, ⟨rfl, by decide +kernel, by decide +kernel,
    by decide +kernel, by decide +kernel, by decide +kernel, by decide +kernel, ⟨0, by decide +kernel, ?_⟩, by decide +kernel⟩,
    by decide +kernel, by decide +kernel⟩
  intro q hq; rw [← Option.some.inj ((rfl : some goodRes = _).trans hq)]; decide

/-- Ends: a launch that is not idle, one idle for the first and for the second time; one with a parked core; a window with too few and with
enough figures. -/
theorem witness_LaunchEndResults :
    let busy := desk [(1, goodLaunch .placed)] [(1, { goodRes with caller := Caller.blank })]
    let idle := desk [(1, goodLaunch .placed)] [(1, goodRes)]
    let again : Launch := { goodLaunch .placed with sweep := some (0, 0) }
    let lost : State := idle.modCore 0 fun c => { c with parked := true }
    (idle.Sound ∧ idle.launch? 1 = some (goodLaunch .placed) ∧ (goodLaunch .placed).isPair = false ∧ Tbl.sorted idle.dsc.launches = true) ∧
    ((goodLaunch .placed).cores = [0] ∧ idle.res? 0 1 = some goodRes ∧ goodRes.phase = .resident) ∧
    (busy.sweepOf 1 (goodLaunch .placed) = (false, 0, 0) ∧ idle.sweepOf 1 (goodLaunch .placed) = (true, 0, 0) ∧
      (goodLaunch .placed).sweep ≠ some (0, 0) ∧ again.sweep = some (0, 0)) ∧
    (idle.flights = [] ∧ recNat (goodLaunch .placed).record 192 8 = 0 ∧ (goodLaunch .placed).poster = none ∧ (goodLaunch .placed).part < 8 ∧
      (goodLaunch .placed).entry = some (0, 0)) ∧
    ((goodLaunch .placed).holds = true ∧ (lost.core 0).parked = true ∧ (idle.core 0).parked = false) ∧
    (idle.dsc.launches = [(1, goodLaunch .placed)] ∧ idle.figuresOf 1 (goodLaunch .placed) = (0, true) ∧ (idle.part 0).field 16 4 = 10 ∧
      (idle.part 0).field 3 1 = 2 ∧ (idle.part 0).enabled = true ∧ (State.reset.part 0).enabled = false) :=
  ⟨⟨witness_sound _ rfl rfl rfl, rfl, by decide, rfl⟩, ⟨by decide +kernel, rfl, rfl⟩, by decide +kernel, by decide +kernel, by decide +kernel, by decide +kernel⟩
/-- A link that is up, with pair launch 1 under index 0. -/
def linked (s : State) : State := { s with station := { Station.reset with up := true, present := true, table := some 1 :: List.replicate 15 none } }
/-- The record of a PAIR launch. -/
def pairRecord : List Byte := (goodRecord 0).take 7 ++ [2#8] ++ (goodRecord 0).drop 8
/-- The launch as it stands on its core. -/
def pairRes : Res := { richRes with record := pairRecord, tileMap := [], wbMap := [] }
/-- An accepted PAIR launch. -/
def pairLaunch (st : LaunchState) : Launch := { goodLaunch st with record := pairRecord, pairIndex := some 0 }

/-- The link: no twin yet and trained, down and retraining; a request outstanding; requests of the twin for a launch of the pair table,
inside and outside its scratchpad, and for none. -/
theorem witness_LinkResults :
    let up := linked (desk [(1, pairLaunch .placed)] [(1, pairRes)])
    let out : State := { up with station := { up.station with unhacked := [(0#32, 0)] } }
    let bad : State := { up with watch := { up.watch with bad := [poolAddr 0 0x400 / 4] } }
    (up.Sound ∧ up.station.up = true ∧ Tbl.sorted up.dsc.launches = true ∧ up.dsc.launches.all (fun p => p.2.state != .ending) = true) ∧
    (State.reset.station.up = false ∧ State.reset.station.present = false ∧
      ({ Station.reset with present := true, retraining := true } : Station).retraining = true) ∧
    (out.station.unhacked ≠ [] ∧ up.station.unhacked = [] ∧ up.flights = []) ∧
    (up.pairLaunch 0 = some 1 ∧ up.pairLaunch 1 = none ∧ up.res? 0 1 = some pairRes ∧ pairRes.phase = .resident ∧ (up.core 0).traceEn = false) ∧
    (up.portOk 0 1 0x400 (twinSize (.read 8)) = false ∧ up.portOk 0 1 0x8000 (twinSize (.read 8)) = true ∧
      up.isBad (poolAddr 0 0x8000) 8 = false ∧ bad.isBad (poolAddr 0 0x400) 8 = true ∧ twinSize (.atomic 0#7 1#128 2) = 4) :=
  ⟨⟨witness_sound _ rfl rfl rfl, rfl, rfl, rfl⟩, ⟨rfl, rfl, rfl⟩, ⟨by exact List.cons_ne_nil _ _, rfl, rfl⟩, ⟨rfl, rfl, rfl, rfl, rfl⟩, by decide +kernel⟩

/-- Hand-offs: a sub-query for a resident and for a halted launch, in the buffer, and for a launch that is gone; returns for a query with
hand-off 3 out, into an empty and a full hit queue; a cancel. -/
theorem witness_HandoffArrivalResults :
    let msg (k : Nat) : HqMsg := ⟨k, 0, 5#32, 3, bytesOfNat 128 0, [], []⟩
    let q : Query := { trialQuery with tag := 5#32, out := [3] }
    let sub : Query := { trialQuery with origin := some ⟨0, 5#32, 3⟩ }
    let up (r : Res) (q : Query) : State :=
      linked ((desk [(1, pairLaunch .placed)] [(1, r)]).modCore 0 fun c => { c with queries := [(0, q)] })
    let s (r : Res) (q : Query) (m : List HqMsg) : State := { up r q with station := { (up r q).station with hqs := m } }
    let full : Res := { pairRes with hitqs := [some ⟨0x8000, 1, 0, false, 0, 1, [(0, 0, false)]⟩] }
    ((up pairRes q).Sound ∧ (up pairRes q).pairLaunch 0 = some 1 ∧ coreOfCode ((msg 0).origin % 512) = some 0 ∧
      (up pairRes q).res? 0 1 = some pairRes ∧ ({ pairRes with phase := .halting } : Res).phase ≠ .resident ∧ pairRes.ringNext < 4096) ∧
    ((s pairRes q [msg 0]).subPlace (msg 0) = some (1, 0, pairRes) ∧ (s pairRes q [msg 1]).subPlace (msg 1) = none) ∧
    (((s pairRes q [msg 0]).core 0).freeEntries ≠ [] ∧ (msg 0).record.length = 128) ∧
    ((up pairRes q).awaiting 5#32 3 = [(0, 0)] ∧ (up pairRes q).awaiting 5#32 2 = [] ∧ (up pairRes q).query? 0 0 = some q) ∧
    (pairRes.hitq q.hq = some ⟨0x4000, 2, 3, true, 0, 0, []⟩ ∧ (full.hitq q.hq).any (fun v => decide (v.cap ≤ v.tail - v.head)) = true ∧
      (up pairRes q).station.hits.length < 256) ∧
    ((up pairRes sub).query? 0 0 = some sub ∧ sub.origin = some ⟨0, 5#32, 3⟩ ∧ ((up pairRes sub).core 0).queries = [(0, sub)]) :=
  ⟨⟨witness_sound _ rfl rfl rfl, rfl, by decide, rfl, by decide, by decide⟩, ⟨rfl, by decide +kernel⟩, by decide +kernel, ⟨by decide +kernel, by decide +kernel, rfl⟩,
    by decide, rfl, rfl, rfl⟩

/-- Scheduling acts: a proposal that card 0 refuses and one that card 1 accepts; a confirmation with and without its launch; pre-emption,
resume of a saved half and of one still saving, an abort, sweeps on either card, and a barrier message. -/
theorem witness_SchedulingActResults :
    let card1 : State := let s := desk [] []; { s with station := { Station.reset with up := true, present := true, card := true, table := List.replicate 16 none } }
    let s (st : LaunchState) (p : Bool := false) := linked (desk [(1, { pairLaunch st with proposed := p })] [(1, pairRes)])
    (card1.Sound ∧ card1.cardNo = 1 ∧ (s .placed).cardNo = 0 ∧ card1.dsc.placingStopped = false) ∧
    ((card1.rectangles pairRecord (recNat pairRecord 10 1)).contains (0, 0) = true ∧
      (∀ n ∈ rectCores 0 0 (recNat pairRecord 14 1) (recNat pairRecord 15 1), (card1.core n).fits pairRecord [] = true) ∧
      card1.station.table.getD 0 (some 0) = none ∧ card1.launch? 1 = none ∧ rolesOf pairRecord = []) ∧
    ((s .waiting true).launch? 1 = some { pairLaunch .waiting with proposed := true } ∧ 0 < (s .waiting).station.table.length) ∧
    ((s .placed).launch? 1 = some (pairLaunch .placed) ∧ (pairLaunch .placed).areas = [] ∧
      ((s .placed).allocAreas (pairLaunch .placed).part (pairLaunch .placed).cores).isSome = true ∧ 0 ∈ (pairLaunch .placed).cores ∧
      (s .placed).res? 0 1 = some pairRes ∧ pairRes.phase ≠ .saved) ∧
    ((s .saved).launch? 1 = some (pairLaunch .saved) ∧ (s .saving).launch? 1 = some (pairLaunch .saving)) ∧
    ((s .placed).pairLaunch 0 = some 1 ∧ (s .placed).pairLaunch 5 = none ∧
      (pairLaunch .placed).cores.filter (fun n => ((s .placed).res? n 1).isSome) = [0]) :=
  ⟨⟨witness_sound _ rfl rfl rfl, rfl, rfl, rfl⟩, by decide +kernel, ⟨rfl, by decide⟩, ⟨rfl, rfl, by decide +kernel, by decide +kernel, rfl, by decide⟩, ⟨rfl, rfl⟩, rfl, rfl, by decide +kernel⟩

/-- The bytes of an image of a kind with an SVN: its header, and nothing else. -/
def imageOf (kind svn : Nat) (signed : Bool := true) : Sys2Proof.Image :=
  ⟨bytesOfNat 4 0x57C0F1A0 ++ bytesOfNat 2 kind ++ bytesOfNat 2 svn ++ bytesOfNat 4 0 ++ List.replicate 29908 0#8, signed⟩
/-- Boot: images of the three kinds verify under a fused key; one of too low an SVN, one whose signature fails and one of another kind; a
power sample above the limit, below 95 % of it and between; 105, 95 and 115 °C at their edges; a cluster of no partition. -/
theorem witness_ModuleResults :
    let keys : List Line := [shake256 (List.replicate 64 0#8)]
    let verifies (i : Sys2Proof.Image) (kind : Nat) : Prop :=
      recNat i.bytes 0 4 = 0x57C0F1A0 ∧ recNat i.bytes 4 2 = kind ∧ recNat i.bytes 6 2 < 1024 ∧ recNat i.bytes 8 4 % 8 = 0 ∧
      recNat i.bytes 8 4 ≤ 2 ^ 24 ∧ 29920 + recNat i.bytes 8 4 ≤ i.bytes.length ∧
      (∀ x ∈ (i.bytes.drop 16).take 48, x = 0#8) ∧ shake256 ((i.bytes.drop 64).take 64) ∈ keys ∧ i.signed = true
    let reg := State.reset
    (verifies (imageOf 1 1) 1 ∧ verifies (imageOf 2 1023) 2 ∧ verifies (imageOf 3 0) 3 ∧ recNat (imageOf 3 0).bytes 6 2 < 1 ∧
      (imageOf 2 1 false).signed = false ∧ recNat (imageOf 3 1).bytes 4 2 ≠ 2) ∧
    (reg.power.plimit.toNat < (701#16).toNat ∧ 100 * (664#16).toNat < 95 * reg.power.plimit.toNat ∧
      95 * reg.power.plimit.toNat ≤ 100 * (665#16).toNat ∧ (700#16).toNat ≤ reg.power.plimit.toNat) ∧
    (8 * 105 ≤ (840#16).toNat ∧ (759#16).toNat < 8 * 95 ∧ 8 * 95 ≤ (760#16).toNat ∧ (919#16).toNat < 8 * 115 ∧ 8 * 115 ≤ (920#16).toNat) ∧
    ((reg.cluster 9).powered = true ∧ (∀ p, p < 8 → (reg.part p).hasCluster 9 = false) ∧ (reg.cluster 9).wtb = [] ∧ (reg.cluster 9).gte = []) ∧
    ((desk [] []).part 0).hasCluster 0 = true := by
  have len (k v : Nat) (h : recNat (imageOf k v).bytes 8 4 = 0) : 29920 + recNat (imageOf k v).bytes 8 4 ≤ (imageOf k v).bytes.length := by
    rw [h]; simp [imageOf, bytesOfNat, -List.reduceReplicate]
  have key (k v : Nat) : ((imageOf k v).bytes.drop 64).take 64 = List.replicate 64 0#8 := by
    simp [imageOf, bytesOfNat, -List.reduceReplicate]
  have ok (k v : Nat) (hk : recNat (imageOf k v).bytes 4 2 = k) (hv : recNat (imageOf k v).bytes 6 2 < 1024)
      (h0 : recNat (imageOf k v).bytes 8 4 = 0) (hm : recNat (imageOf k v).bytes 0 4 = 0x57C0F1A0)
      (hz : ∀ x ∈ ((imageOf k v).bytes.drop 16).take 48, x = 0#8) :
      recNat (imageOf k v).bytes 0 4 = 0x57C0F1A0 ∧ recNat (imageOf k v).bytes 4 2 = k ∧ recNat (imageOf k v).bytes 6 2 < 1024 ∧
      recNat (imageOf k v).bytes 8 4 % 8 = 0 ∧ recNat (imageOf k v).bytes 8 4 ≤ 2 ^ 24 ∧
      29920 + recNat (imageOf k v).bytes 8 4 ≤ (imageOf k v).bytes.length ∧
      (∀ x ∈ ((imageOf k v).bytes.drop 16).take 48, x = 0#8) ∧
      shake256 (((imageOf k v).bytes.drop 64).take 64) ∈ [shake256 (List.replicate 64 0#8)] ∧ (imageOf k v).signed = true :=
    ⟨hm, hk, hv, by rw [h0], by rw [h0]; decide, len k v h0, hz, by rw [key]; exact List.mem_singleton.2 rfl, rfl⟩
  refine ⟨⟨ok 1 1 ?_ ?_ ?_ ?_ ?_, ok 2 1023 ?_ ?_ ?_ ?_ ?_, ok 3 0 ?_ ?_ ?_ ?_ ?_, ?_, rfl, ?_⟩, by decide, by decide, by decide +kernel, by decide +kernel⟩ <;>
    decide +kernel
/-- FIPS 202: SHAKE256 of the empty message. -/
theorem test_shake256_empty : shakeBytes 16 [] =
    [0x46#8, 0xB9#8, 0xDD#8, 0x2B#8, 0x0B#8, 0xA8#8, 0x8D#8, 0x13#8, 0x23#8, 0x3B#8, 0x3F#8, 0xEB#8, 0x74#8, 0x3E#8, 0xEB#8, 0x24#8] := by
  decide +kernel

/-- The mailbox free and with a report running; a trigger armed, not armed, and armed with a snapshot held; a word in error; and one offset
of each window. -/
theorem witness_ManagementResults :
    let busy : State := { State.reset with rtc := { Rtc.reset with running := some (0#256, Rtc.reset.mr) } }
    let armed : State := { State.reset with watch := { Watch.reset with arm := 9#4 } }
    let bad : State := { State.reset with watch := { Watch.reset with bad := [0x400] } }
    (State.reset.rtc.running = none ∧ busy.rtc.running.isSome = true ∧ busy.rtc.waiting = [] ∧ 4 ≤ (4#3).toNat ∧ ¬ 4 ≤ (3#3).toNat) ∧
    (armed.watch.arm.getLsbD 0 = true ∧ armed.watch.arm.getLsbD 3 = true ∧ armed.watch.held = false ∧ State.reset.watch.arm.getLsbD 0 = false ∧
      ({ armed.watch with held := true } : Watch).held = true) ∧
    (0x1004 < 2 ^ 37 ∧ bad.isBad (0x1004 / 8 * 8) 8 = true ∧ State.reset.isBad (0x1004 / 8 * 8) 8 = false) ∧
    (0x3F8 < 0x400 ∧ 0x3F8 % 8 = 0 ∧ 0x5F8 < 0x600 ∧ 0x868 < 0x870 ∧ 0x11F8 < 0x1200 ∧ 0x1000000 + 0x13FFFFF8 < 0x1000000 + 0x400000 * 80) :=
  ⟨⟨rfl, rfl, rfl, by decide, by decide⟩, by decide +kernel, by decide +kernel, by decide⟩
theorem witness_ClassMaskResults : LaneMet trialMicro ([5#6, 6#6] ++ pairOf 8#6) := laneMet _ _ rfl rfl
/-- NaNs of either kind and the greatest finite number, in FP32. -/
theorem witness_FloatRules :
    fp32 ∈ [fp16, bf16, fp32, fp64] ∧ (0x7F800001 < 2 ^ fp32.width ∧ fp32.infCode < 0x7F800001 % fp32.signBit ∧
      0x7F800001 / 2 ^ (fp32.prec - 2) % 2 = 0) ∧ 0x7FC00000 / 2 ^ (fp32.prec - 2) % 2 = 1 ∧ 0xFF7FFFFF % fp32.signBit < fp32.infCode := by
  decide
theorem witness_ThermalRules :
    8 * 105 ≤ (840#16).toNat ∧ (759#16).toNat < 8 * 95 ∧ 8 * 95 ≤ (760#16).toNat ∧ (919#16).toNat < 8 * 115 ∧ 8 * 115 ≤ (920#16).toNat ∧
    ({ Dsc.reset with placingStopped := true } : Dsc).placingStopped = true := by decide
/-- An issue group whose word decodes and one whose word does not, a caller that is ready, a query, and a module in reset. -/
theorem witness_StepRunsTheFetchedInstruction :
    let s (w : Nat) : State := { (mapped (turnOf trialMicro)).write 0x1000 (bytesOfNat 4 w) with agenda := [.issue 0 0 0] }
    let c : State := mapped (calm { Caller.blank with pc := 0x1000#64 } trialMicro)
    let halves (s : State) : List Half := [0, 2, 4, 6].map fun k => BitVec.ofNat 16 (s.peek (0x1000 + k) 2)
    (s 0).agenda = [.issue 0 0 0] ∧ (s 0).power.powered = true ∧ (s 0).power.inReset = false ∧
    (Tbl.get? ((s 0).core 0).groups 0 = some soleGroup ∧ soleGroup.waiting = [] ∧ ((s 0).codeOf richRes).isSome = true) ∧
    ((match decodeMicro (halves (s 0x51)) with | .ok (i, _) => i.wf | .error _ => false) = true ∧
      (match decodeMicro (halves (s 1)) with | .ok _ => false | .error _ => true) = true) ∧
    (c.callerReady 0 1 { richRes with caller := { Caller.blank with pc := 0x1000#64 } } = true ∧
      (match c.fetchHalf 1 0x1000#64 with | .ok a => a == 0#16 | .error _ => false) = true) ∧
    ((queryTurn trialQuery).query? 0 0 = some trialQuery ∧
      (match decodeWalker 0x00000303#32 with | .ok i => i.wf | .error _ => false) = true) ∧
    ({ Rtc.reset with failStep := 2 } : Rtc).failStep ≠ 0 ∧ ({ Power.reset with inReset := true } : Power).inReset = true :=
  ⟨rfl, rfl, rfl, ⟨rfl, rfl, rfl⟩, by decide +kernel, by decide +kernel, ⟨rfl, by decide +kernel⟩, by decide, rfl⟩
theorem witness_DecodedInstructionsAreWellFormed :
    (match decodeMicro [0x0051#16, 0#16, 7#16] with | .ok (_, rest) => rest == [7#16] | .error _ => false) = true ∧
    (match decodeWalker 0x00000303#32 with | .ok _ => true | .error _ => false) = true ∧
    (match decodeXfig 0x019B8E0B#32 with | .ok _ => true | .error _ => false) = true := by decide +kernel
theorem witness_EncodingRoundTrip :
    ((Instr.addi 6#6 6#6 0x1ABC#13).wf = true ∧ (encode (.addi 6#6 6#6 0x1ABC#13)).isSome = true) ∧
    ((Instr.box8 28#5).wf = true ∧ (encode (.box8 28#5)).isSome = true) ∧
    ((Instr.figCall 28#5 23#5 25#5).wf = true ∧ (encode (.figCall 28#5 23#5 25#5)).isSome = true) := by decide +kernel
/-- The state after reset is sound, and a step of it answers. -/
theorem witness_StepKeepsSound :
    State.reset.Sound ∧ ∃ t, step { State.reset with agenda := [.event .powerLoss] } = .next t :=
  ⟨witness_sound _ rfl rfl rfl, _, rfl⟩


/-! More clauses of the walker's, the caller's and the issue statements. -/

/-- A sub-query; a spill at the second of two entries and a pop of the second. -/
theorem witness_WalkerStackAndHitResults_sub :
    let q : Query := { richQuery with origin := some ⟨9, 5#32, 7⟩ }
    let p : Query := { richQuery with spilled := 2 }
    (queryTurn q).Walking 0 0 q richRes ∧ (q.origin = some ⟨9, 5#32, 7⟩ ∧ (q.reg 1#5).toNat % 2 ^ 16 ≠ 0xFFFF ∧ q.pc < 1023) ∧
    (p.stack = [] ∧ 0 < p.spilled ∧ ((queryTurn p).core 0).inSp (recNat p.record 20 4 % 2 ^ 22 + 8 * (p.spilled - 1)) 8 = true) :=
  ⟨witness_walking _ _ rfl rfl rfl, by decide, by decide⟩
/-- A caller of a PAIR launch that reaches the twin's pool, the own pool, another core's pool and a page it may write; its LR in each. -/
theorem witness_CallerAccessResults_far :
    let h := callerWith [(1, 0xFFFE010000000000), (2, 0xFFFE000800000000), (3, 0x1000)]
    let s : State := linked { mapped (callerTurn h) with dsc := { Dsc.reset with launches := [(1, pairLaunch .placed)] } }
    let t : State := { mapped (callerTurn h) with sealed := [] }
    (s.Calling 0 1 { richRes with caller := h } ∧ checkAddr 0 richRes (h.reg 1#5) 8 false = .ok (.pool true 0 0) ∧
      s.twinWire 1 0 0 (h.reg 1#5) = .ok 0 ∧ s.callerOpen 0 1 = false) ∧
    (checkAddr 0 richRes (h.reg 2#5) 8 false = .ok (.pool false 1 0) ∧ s.poolBusy 0 s.nextId 1 0 = false) ∧
    (checkAddr 0 richRes (h.reg 3#5) 8 false = .ok (.global 0x1000) ∧ t.translate richRes.asid 0x1000 .write = .ok 0x1000 true ∧
      t.isSealed 0x1000 = false ∧ t.homeOpen 0 0x1000 = false) :=
  ⟨⟨⟨rfl, by decide, rfl⟩, by decide⟩, by decide, by decide⟩
/-- FIG.INBOX takes one of two entries into a block, and is refused a misaligned one; FIG.REPLAY of one entry with room, and none. -/
theorem witness_FigureCallAndMailboxResults_inbox :
    let h := callerWith [(1, 0x400), (2, 1), (3, 0x401)]
    let m (l : Nat) : Msg := ⟨4, false, 0, 0, 0#16, 0#32, 0#32, [], l, .none⟩
    let s : State := (calm h (calledMicro [])).modCore 0 fun c => { c with inbox := [m 2, m 1, m 1] }
    s.Calling 0 1 { richRes with caller := h } ∧ takeEntries 1 (h.reg 2#5).toNat (s.core 0).inbox = ([m 1], [m 2, m 1]) ∧
    ((h.reg 1#5).toNat % 32 = 0 ∧ (s.core 0).inSp (h.reg 1#5).toNat 32 = true ∧ (s.core 0).fifo = [] ∧ richRes.spill = []) ∧
    (h.reg 3#5).toNat % 32 ≠ 0 ∧ s.callerBusy 0 1 = false ∧ ((h.reg 2#5).toNat = 1 ∧ (h.reg 0#5).toNat = 0 ∧ (s.core 0).inbox.length < 256) :=
  ⟨⟨rfl, by decide, rfl⟩, by decide, by decide, by decide, by decide, by decide⟩
/-- FIG.SYNC where one of the micro-threads named is done and one is still busy, and where all are done; FIG.WAIT with a figure queued. -/
theorem witness_FigureCallAndMailboxResults_sync :
    let h := callerWith [(1, 0x200000000)]
    let two (q : List Word) : State := (calm h (calledMicro [])).modCore 0 fun c => { c with slots := [(0, calledMicro []), (1, calledMicro q)] }
    ((two []).core 0).owned 1 = [0, 1] ∧ (∀ x, x = 0 ∨ x = 1 → ((two []).core 0).named 1 (h.reg 1#5) x) ∧
    (∀ x ∈ ((two []).core 0).owned 1, (((two []).core 0).micro x).callq = [] ∧ ((two []).core 0).inFlight x = false) ∧
    ((((two [0#32]).core 0).named 1 (h.reg 1#5) 1) ∧ (((two [0#32]).core 0).micro 1).life = .called ∧
      (((two [0#32]).core 0).micro 1).callq ≠ []) := by
  refine ⟨by decide, ?_, by decide, ⟨⟨by decide, by decide, by decide, .inr (by decide)⟩, by decide, by decide⟩⟩
  rintro x (rfl | rfl) <;> exact ⟨by decide, by decide, by decide, .inr (by decide)⟩
/-- FIG.SETW without a grant and with one, for 0 and for a request above the capacity; FIG.ALLOC of an own retired micro-thread, of a
role that is not declared, of a budget that is none, and where nothing is free. -/
theorem witness_SlotAndRegisterWindowResults_sets :
    let h := callerWith [(1, 1), (2, 16), (3, 0x110), (4, 17), (5, 1024)]
    let r : Res := { richRes with caller := h, grant := none }
    let old : Micro := { Micro.blank with owner := some 1, bud := 16 }
    let s := calm h old r
    let full := calm h (calledMicro []) r
    s.Calling 0 1 r ∧ r.grant = none ∧ richRes.grant = some 4 ∧
    (¬ ∃ x ∈ (s.core 0).owned 1, ((s.core 0).micro x).life = .free ∨ ((s.core 0).micro x).life = .parked ∨
      ((s.core 0).micro x).life = .faulted) ∧
    (s.core 0).allocSlots 1 r 1 16 0 = ([0], []) ∧ (full.core 0).allocSlots 1 r 1 16 0 = ([], []) ∧
    (0 < (h.reg 3#5).toNat / 256 ∧ (recNat r.record 73 1).testBit ((h.reg 3#5).toNat / 256 - 1) = false ∧
      (h.reg 4#5).toNat % 256 ∉ [16, 24, 32, 40, 48, 56] ∧ 1024 ≤ (h.reg 5#5).toNat) ∧
    ((h.reg 0#5).toNat = 0 ∧ 2 ^ 0 ≤ (h.reg 1#5).toNat ∧ (h.reg 1#5).toNat < 2 ^ 1) ∧
    (∀ k, k < recNat (recordWith [(8, 2, 1)]) 11 1 → recNat (recordWith [(8, 2, 1)]) (128 + 8 * k) 1 ≠ 1) :=
  ⟨⟨rfl, by decide, rfl⟩, rfl, rfl, by decide, by decide, by decide, by decide, by decide, by decide⟩
/-- The register window's numbers at the edge of each row, of a micro-thread that goes on inside a figure, of a called one with a figure
queued, of a faulted one and of one that is not the launch's; and the values FIG.WRREG refuses. -/
theorem witness_SlotAndRegisterWindowResults_window :
    let i : FaultInfo := ⟨0x0C#8, 0#32, 0#32, 8, 0#16, 4, 0, true, none, .instruction, false, 0⟩
    let inside : Micro := { trialMicro with pos := some ⟨0x40#32, 8, 1⟩ }
    let bad : Micro := { trialMicro with life := .faulted, fault := some i, mailbox := some 7#32 }
    let h := callerWith [(1, 67), (2, 69), (3, 70), (4, 71), (5, 72), (6, 73), (7, 74), (8, 75), (9, 127), (10, 128), (11, 143), (12, 55),
      (13, 1024), (14, 1025), (15, 5), (16, 4)]
    (calm h inside).Calling 0 1 { richRes with caller := h } ∧ (calm h inside).microAt 0 0 = some inside ∧
    (List.range 11).map (fun k => (h.reg (BitVec.ofNat 5 (k + 1))).toNat) = [67, 69, 70, 71, 72, 73, 74, 75, 127, 128, 143] ∧
    (inside.pos = some ⟨0x40#32, 8, 1⟩ ∧ trialMicro.pos = none ∧ trialMicro.mode = .free ∧ (calledMicro [1#32]).callq = 1#32 :: [] ∧
      (calledMicro [1#32]).pos = none ∧ (calledMicro [1#32]).mode = .called) ∧
    (bad.life = .faulted ∧ bad.fault = some i ∧ bad.mailbox = some 7#32 ∧ bad.owner = some 1 ∧ Micro.blank.owner ≠ some 1) ∧
    (({ bad with bud := 16 } : Micro).bud ≤ 55 ∧ 55 < bad.bud) ∧
    ((h.reg 13#5).toNat ≤ 1024 ∧ 1024 < (h.reg 14#5).toNat ∧ (h.reg 0#5).toNat = 0 ∧ (h.reg 16#5).toNat % 2 ^ 32 ≤ 4) :=
  ⟨⟨rfl, by decide, rfl⟩, rfl, by decide, by decide, by decide, by decide, by decide⟩
/-- FIG.LAUNCH waits for its fence; a record that is accepted is posted; a misaligned, an array and a non-canonical address. -/
theorem witness_FaultResumeAndLaunchPostResults_accepted :
    let h : Caller := { callerWith [(4, 0x1000), (5, 0x1020), (6, 0xFFFE000000000000), (7, 0x800000000000)] with stall := some (.launch 5#5 4#5) }
    let f : Flight := { core := 0, launch := 1, agent := .caller, who := [], fig := 0#32, off := 0, word := 0#32, ll := 8, dst := 0#6
                        dstN := 0, ea := 0#64, sent := 0, op := .fence 3 4 [], stage := .request }
    let s : State := { (desk [(1, goodLaunch .placed)] [(1, { goodRes with caller := h })]).write 0x1000 (goodRecord 0) with focus := .caller 0 1 }
    s.Calling 0 1 { goodRes with caller := h } ∧ (s.callerFenced 0 1 = false ∧ ({ s with flights := [(0, f)] } : State).callerFenced 0 1 = true) ∧
    (match s.readRecord (goodLaunch .placed).asid 0x1000 8 with
      | .ok b => s.refuses b (goodLaunch .placed).asid (goodLaunch .placed).part 0 == none
      | .error _ => false) = true ∧
    (s.dsc.queues[(goodLaunch .placed).rootq]?).isSome = true ∧ Dsc.reset.queues[64]? = none ∧
    ((h.reg 5#5).toNat % 64 ≠ 0 ∧ isArray (h.reg 6#5) = true ∧ canonical (h.reg 7#5) = false) :=
  ⟨⟨by decide +kernel, by decide, by decide +kernel⟩, by decide +kernel, by decide +kernel, by decide +kernel, by decide +kernel, by decide⟩
/-- Issue: a turn of a micro-thread that goes on inside a figure; a refill of an enabled budget; a line of code in the cluster cache, and one
of a page that no cache keeps. -/
theorem witness_IssueEventResults_more :
    let inside : Micro := { trialMicro with pos := some ⟨0#32, 4, 1⟩ }
    let free := calm Caller.blank inside { richRes with budget := 1 }
    let miss : State := (mapped (turnOf trialMicro)).modCore 0 fun c => { c with groups := [(0, { soleGroup with waiting := [0x40] })] }
    let hit : State := miss.modCluster 0 fun c => { c with lines := [⟨1, 0x40, false, 5#512⟩] }
    let nc : State := miss.modTlu (tluOf 0x1000) fun t => { t with leaves := [{ openLeaf with pte := openLeaf.pte ||| 1#64 <<< 61 }] }
    let q : Micro := { trialMicro with quitting := true, life := .called, rearmed := true }
    ((free.eligible 0 1 0).head? = some (0, 0#32) ∧ (free.core 0).micro 0 = inside) ∧
    ((hit.cluster (clusterOf 0)).find richRes.asid 0x40 false = some ⟨1, 0x40, false, 5#512⟩) ∧
    (nc.translate richRes.asid (0x40 * 64) .exec = .ok 0x1000 false ∧ nc.isBad 0x1000 64 = false ∧ miss.isBad 0x1000 64 = false) ∧
    (((State.reset.modCore 0 fun c => { c with bEn := true }).core 0).bEn = true ∧ richRes.phase ≠ .saved) ∧
    (q.quitting = true ∧ q.rearmed = true ∧ ((calm Caller.blank q).core 0).inGroup 0 = false ∧ (calm Caller.blank q).flights = []) :=
  ⟨by decide +kernel, by decide +kernel, by decide, by decide, by decide⟩


/-! More clauses of the accesses' and the array's statements. -/

/-- Loads and stores of 16 bytes, their second halves, and accesses outside the scratchpad; a store of another core to a core that traces; an
own atomic and a translated one at the head of the FIFO; an entry of the buffer with none of its line before it. -/
theorem witness_PortAndFifoResults_more :
    let ld (st : Stage) := flightOf (.load 6#3 0#2) poolEa st
    let st (g : Stage) := flightOf (.store 16 0#2 5#128) poolEa g
    let out (o : Op) := flightOf o 0xFFFE000000200000#64 .request
    let am := flightOf (.atomic 0#7 5#128) poolEa .fifo
    let head (f : Flight) : State := flying f fun c => { c with fifo := [0] }
    let far : Flight := { flightOf (.store 4 0#2 5#128) 0xFFFE000800000400#64 .request with core := 0 }
    let traced : State := (flying far).modCore 1 fun c => { c with traceEn := true, res := [(1, richRes)], part := ((flying far).core 0).part }
    let bare (f : Flight) : State := (flying f).modCore 0 fun c => { c with part := 0xFF000000#32 }
    (∀ f ∈ [ld .request, ld (.half 1#64)], f.size = 16 ∧ (flying f).portOk 0 1 0x400 16 = true ∧ (flying f).loadMay 0 f = true ∧
      (flying f).forward 0 f = .none ∧ (flying f).isBad (poolAddr 0 0x400) 16 = false ∧ (flying f).lineBusy f 0 0x400 = false) ∧
    (∀ f ∈ [st .request, st (.half 0#64)], (flying f).inFifo 0 0 = false ∧ (flying f).portOk 0 1 0x400 16 = true ∧ (flying f).away 0 1 = false) ∧
    (traced.targetOfFlight far = .pool false 1 0x400 ∧ traced.portOk 1 1 0x400 4 = true ∧ traced.away 1 1 = false ∧ (traced.core 1).traceEn = true ∧
      traced.inFifo 0 0 = false ∧ far.core ≠ 1) ∧
    (∀ o ∈ [Op.load 5#3 0#2, .atomic 0#7 5#128], (out o).stage = .request ∧ (bare (out o)).targetOfFlight (out o) = .pool false 0 0x200000 ∧
      (bare (out o)).portOk 0 1 0x240000 (out o).size = false) ∧
    (∀ g ∈ [Stage.fifo, .half 0#64], (head (st g)).held 0 (st g) = false ∧ (head (st g)).loadsOpen 0 (st g) = false) ∧
    ((head am).portOk 0 1 0x400 4 = true ∧ (head am).isBad (poolAddr 0 0x400) 4 = false ∧ (head am).held 0 am = false ∧
      (head am).loadsOpen 0 am = false) ∧
    (let a := flightOf (.atomic 0#7 5#128) 0x1000#64 (.ready 0x1000 true)
     (head a).targetOfFlight a = .global 0x1000 ∧ a.isAtomic = true ∧ (head a).held 0 a = false) ∧
    (let k := flightOf (.store 8 0#2 5#128) 0x1000#64 .acked
     k.bound = true ∧ (flying k).entriesAhead 0 k = [] ∧ (flying k).hasParent k = false) := by
  refine ⟨by decide, by decide, by decide, by decide, by decide, by decide, by decide, by decide⟩
/-- Global accesses: a store at the head of the FIFO whose page is open; a failed walk of a page that has a record already; each half of a
16-byte store and of a 16-byte load; an atomic at its home; a host's last byte of the address space; a load that finds its line in the
cache; two accesses parked on one page. -/
theorem witness_GlobalAccessAndDeliveryResults_more :
    let sx (st : Stage) (low : Option DWord := none) : Flight := { flightOf (.store 16 0#2 5#128) 0x1000#64 st with low := low }
    let lx (st : Stage) (low : Option DWord := none) : Flight := { flightOf (.load 6#3 0#2) 0x1000#64 st with low := low }
    let am := flightOf (.atomic 0#7 5#128) 0x1000#64 (.home 0x1000 true)
    let head : State := flying (sx .fifo) fun c => { c with fifo := [0] }
    let f := flightOf (.load 5#3 0#2) 0x2000#64 .request
    let open_ : State := ((({ flying f with dsc := { Dsc.reset with asidtab := 0x80000#64 } } : State).write 0x80008
      (bytesOfNat 8 (2 ^ 63 + 0x90))).modTlu (tluOf 0x2000) fun t => { t with recs := [⟨0, 0, 1, 2, 0#64, .written⟩] })
    let near (g : Flight) : State := (flying g).modCluster 0 fun c => { c with lines := [⟨1, 0x40, false, 5#512⟩] }
    let p (sent : Nat) : Flight := { flightOf (.load 5#3 0#2) 0x1000#64 .parked with sent := sent }
    let two : State := { flying (p 0) with flights := [(0, p 0), (1, p 1)], nextId := 2, wakes := [(0, 1, 1)] }
    ((sx .fifo).stage = .fifo ∧ (head.core 0).fifo.head? = some 0 ∧ head.held 0 (sx .fifo) = false ∧
      head.translate (head.asidOf 0 1) 0x1000 .write = .ok 0x1000 true) ∧
    (open_.translate 1 0x2000 .read = .fail 0#64 ∧ (open_.tlu (tluOf 0x2000)).recs.any (fun r => r.asid == 1 && r.page == 2) = true) ∧
    ((sx (.home 0x1000 true)).low = none ∧ (sx (.home 0x1000 true) (some 0#64)).low ≠ none ∧
      (flying (sx (.home 0x1000 true))).bufferBusy 0 (sx (.home 0x1000 true)) = false ∧ (sx .fifo).size = 16) ∧
    ((flying am).bufferBusy 0 am = false ∧ (flying am).isSealed 0x1000 = true ∧ (flying am).isBad 0x1000 am.size = false) ∧
    (0x1FFFFFFFFF + [1#8].length ≤ 0x2000000000 ∧ (flying f).isSealed 0x1FFFFFFFFF = false) ∧
    ((lx (.fill 0#512 true)).low = none ∧ (lx (.fill 0#512 true) (some 1#64)).low = some 1#64 ∧ (lx .request).size = 16 ∧
      (flying (lx (.fill 0#512 true))).loadMay 0 (lx (.fill 0#512 true)) = true ∧
      (flying (lx (.fill 0#512 true))).forward 0 (lx (.fill 0#512 true)) = .none) ∧
    (((near f).cluster 0).find ((near (lx .request)).asidOf 0 1) (lx .request).vline false = some ⟨1, 0x40, false, 5#512⟩) ∧
    (two.Sound ∧ (p 0).sent < (p 1).sent ∧ (0, 1, 1) ∈ two.wakes ∧ ∀ q ∈ (two.core 0).res, q.2.ringNext < 4096) := by
  refine ⟨by decide, by decide +kernel, by decide, by decide, by decide, by decide, by decide +kernel, by unfold State.Sound; decide⟩
/-- The array: a tile that is resident, one that is not; an MMA of an image with no entry, with a skip stream and without, into the resident
tile and into one that is no part of the array. -/
theorem witness_ArrayOperationResults_more :
    let i : Issuer := ⟨0, 0#16, 0#32, 0, 0#32⟩
    let r : Res := { richRes with sks := [⟨0x400, 0, 100, false⟩] }
    let s (o : MxOp) (l : Option (Nat × Nat)) : State := (turnOf trialMicro r).modCore 0 fun c =>
      { c with mx := [⟨1, i, 0, o⟩], resident := l, cells := List.replicate 16384 0#8 }
    let m := s (.mma 1#7 0x244#32 0#32 0#32 0 []) (some (1, 0))
    ((s (.accz 0) (some (1, 0))).core 0).resident = some (1, 0) ∧ ((s (.accz 0) none).core 0).resident = none ∧
    (match m.presence 0 0 (mmaShape 4).2.2 (r.sks.getD 0 default) with
      | .ok _ => true
      | .error _ => false) = true ∧
    m.badIn (aRanges 0 0 64 4 []) = none ∧ (1#7).getLsbD 0 = true ∧ (0#7).getLsbD 0 = false ∧ (2#7).getLsbD 1 = true ∧
    (s (.mma 0#7 0x244#32 0#32 0#32 0 []) none).isBad (poolAddr 0 ((m.core 0).tileOff r 0)) 16384 = false := by
  refine ⟨rfl, rfl, by decide +kernel, by decide +kernel, by decide, by decide, by decide, by decide +kernel⟩


/-! More clauses of the levels', the traversal's, the caller's and the schedulers' statements. -/

/-- Levels: a core's part of an episode for its home on the same core, and one of the pair on card 1; a completion of another episode than the
open one, with a micro-thread that arrived late, one that waits and one that does neither; an episode of one set; an early message and one
of a launch whose ring is full. -/
theorem witness_LevelEventResults_more :
    let res (dom : Nat) (v : Level) : Res := { richRes with
      record := recordWith [(11, 1, 1), (14, 1, 1), (15, 1, 1), (128, 1, dom)], levels := [v] }
    let s (dom : Nat) (v : Level) (m : Micro := { trialMicro with arrived := 1#8 }) : State := calm Caller.blank m (res dom v)
    let part := s 3 { Level.blank with arrivals := 1 }
    let pair : State := { s 6 { Level.blank with arrivals := 1 } with station := { Station.reset with up := true, card := true } }
    let set_ := s 1 { Level.blank with setEp := [(0, 1)] }
    let msg : LvMsg := ⟨1, 0, 1, 0, false⟩
    let full : State := part.modCore 0 fun c => { c with
      res := [(1, { res 3 Level.blank with ringNext := 4096, phase := .saved })], lvDone := [⟨1, 0, 0, 0, false⟩] }
    (part.Sound ∧ part.readyArrivals 0 = [(1, 0, 0)] ∧ (part.core 0).lvArr = [] ∧ part.ringFull 0 1 = false ∧
      (res 3 Level.blank).levelDom 0 = 3) ∧
    (pair.readyArrivals 0 = [(1, 0, 0)] ∧ pair.station.card = true ∧ (res 6 Level.blank).levelDom 0 = 6) ∧
    ((part.early 0 msg = true) ∧ (s 3 { Level.blank with episode := 1 }).early 0 msg = false ∧ full.ringFull 0 1 = true) ∧
    (∀ m ∈ [{ trialMicro with late := 1#8, arrived := 1#8 }, { trialMicro with arrived := 1#8, lvWaits := 1#8 }, trialMicro],
      (s 3 Level.blank m).microAt 0 0 = some m ∧ m.life ≠ .retired ∧ 0 ∈ ((s 3 Level.blank m).core 0).owned 1) ∧
    ((res 1 Level.blank).levelDom 0 = 1 ∧ (set_.core 0).levelList = [(1, 0)] ∧
      set_.completeSetAt 0 1 0 (res 1 { Level.blank with setEp := [(0, 1)] }) = some (0, [0])) := by
  refine ⟨⟨witness_sound _ rfl rfl rfl, ?_, ?_, ?_, ?_⟩, ?_, ?_, ?_, ?_⟩ <;> decide +kernel

/-- Traversal: a TPOST whose record is damaged; decode entries and walker words in breach; a hit queue outside the scratchpad, in breach, and
with records not taken; a node fetch that has its first line, one at the last address of the walker store, a FRESH one, one whose page the
host must map, one without tables, and one of a damaged line; a hit queue without room; a record returned for a query; survivors. -/
theorem witness_TraversalEventResults_more :
    let i : Issuer := ⟨0, 0#16, 0#32, 0, 0#32⟩
    let post (o : QqOp) : State := (flying (flightOf (.tpost 0x400) 0#64 .engine 2) fun c => { c with trp := [⟨1, o⟩], queries := [] })
    let p := post (.tpost 0 0x400)
    let hurt : State := { p with watch := { p.watch with bad := [poolAddr 0 0x400 / 4] } }
    let busy : Res := { richRes with hitqs := richRes.hitqs.set 0 (some ⟨0x4000, 2, 3, true, 0, 1, [(0, 0, false)]⟩) }
    let node (mode va pc : Nat) (buf : List Byte) : Query :=
      { trialQuery with state := .nodeWait, record := queryRecord [(3, 1, mode), (8, 8, va)], pc := pc, buf := buf }
    let fetch : State := flying (flightOf .recvw 0#64 .engine)
    let bare : State := ({ fetch with dsc := { Dsc.reset with asidtab := 0x80000#64 } } : State).write 0x80008 (bytesOfNat 8 (2 ^ 63 + 0x90))
    let torn : State := { fetch with watch := { fetch.watch with bad := [0x1000 / 4] } }
    let back : State := linked fetch
    let hits : State := { back with station := { back.station with hits := [(5#32, 3, List.replicate 32 0#8)] } }
    (hurt.isBad (poolAddr 0 0x400) 128 = true ∧ (hurt.core 0).trp = [⟨1, .tpost 0 0x400⟩] ∧ p.isBad (poolAddr 0 0x400) 16 = false) ∧
    (((post (.tcfg 0x400 0#32 i)).core 0).trp = [⟨1, .tcfg 0x400 0#32 i⟩] ∧ decodeEntryOk (List.replicate 32 0xFF#8) = false ∧
      walkWordOk 0 0xFFFFFFFF#32 = false ∧ (0x40000000#32).extractLsb' 30 2 = 1#2) ∧
    ((p.core 0).inSp 0x3FFFE0 (32 * 4096) = false ∧ ¬ (0x4004 % 32 = 0) ∧ (∃ h, busy.hitq 0 = some h ∧ h.untaken ≠ 0)) ∧
    ((node 0 0x1000 0 (List.replicate 64 0#8)).buf.length = 64 ∧ (node 0 0x1000 1023 []).pc = 1023 ∧ (node 4 0x1000 0 []).mode 2 = true ∧
      (node 0 0x1000 0 []).origin = none ∧ (node 0 0x1000 0 []).out = []) ∧
    (fetch.translate richRes.asid 0x5000 .read = .noTables ∧ bare.translate richRes.asid 0x5000 .read = .fail 0#64 ∧
      (bare.tlu (tluOf 0x5000)).recs = [] ∧ torn.isBad 0x1000 64 = true ∧ fetch.homeBusy 0 fetch.nextId 0x1000 = false ∧
      fetch.atomicBusy (clusterOf 0) 0x1000 = false) ∧
    ((busy.hitq 0).any (fun h => decide (h.cap + h.head - h.tail = 1)) = true ∧ Tbl.sorted (fetch.core 0).queries = true) ∧
    (takeFirst (fun x => x.1 == 5#32) hits.station.hits = some ((5#32, 3, List.replicate 32 0#8), [])) ∧
    (∀ q ∈ [{ richQuery with state := .drain, survivors := some [(1#32, 2#32)] }, { richQuery with state := .drain }],
      (q.mode 0 = true ∧ q.mode 1 = false ∧ q.out = [] ∧ q.pageHeld = none)) := by
  refine ⟨?_, ?_, ⟨?_, ?_, _, rfl, ?_⟩, ?_, ?_, ?_, rfl, ?_⟩ <;> decide +kernel

/-- A caller stalled at FIG.WAIT while a figure is queued, with an enabled event and without; at FIG.SYNC on a busy micro-thread; at FIG.CALL
on one with room and on one without; at FIG.LAUNCH behind a fence; no event enabled; the inbox full without a handler; an exception that
aborts. -/
theorem witness_CallerEventResults_more :
    let all := callerWith [(1, 0x8000000000000000), (2, 0x8000000000000000)]
    let queued := calledMicro [0#32]
    let w : Caller := { all with stall := some (.wait 5#5) }
    let we : Caller := { w with evEnable := 8#16, evPending := 8#16 }
    let c : Caller := { all with stall := some (.call 5#5 1#5 2#5) }
    let s (h : Caller) (m : Micro) : State := calm h m
    let fenced : State := { s { all with stall := some (.launch 5#5 6#5) } queued with
      flights := [(0, { flightOf (.fence 0 0 [1]) 0#64 .engine with agent := .caller, who := [] })], nextId := 1 }
    let full : State := (s Caller.blank queued).modCore 0 fun c => { c with inbox := List.replicate 256 (msgOf 3) }
    (((s w queued).core 0).owned 1 = [0] ∧ (((s w queued).core 0).micro 0).callq ≠ [] ∧
      ((s w queued).core 0).enabledEvents 1 { richRes with caller := w } &&& ~~~4#16 = 0#16) ∧
    (((s we queued).core 0).enabledEvents 1 { richRes with caller := we } &&& ~~~4#16 = 8#16) ∧
    (queued.life = .called ∧ queued.mode = .called ∧ queued.callq.length < 4 ∧ 4 ≤ (calledMicro (List.replicate 4 0#32)).callq.length ∧
      c.stall = some (.call 5#5 1#5 2#5) ∧ Tbl.sorted ((s c queued).core 0).slots = true) ∧
    (fenced.callerFenced 0 1 = true ∧ (s { all with stall := some (.launch 5#5 6#5) } queued).callerFenced 0 1 = false) ∧
    (256 ≤ (full.core 0).inbox.length ∧ (takeEntries 1 256 (full.core 0).inbox).1.length = 256 ∧ Caller.blank.fhandler = 0#64) ∧
    (2 ∉ [12, 13, 15] ∧ ((s Caller.blank queued).core 0).enabledEvents 1 { richRes with caller := Caller.blank } = 0#16) := by
  refine ⟨?_, ?_, ?_, ?_, ?_, ?_⟩ <;> decide +kernel

/-- Pre-emption: a signal and a SPAWN that a halted launch catches; a context that comes back with the grant it had and with another one; an
image that is refused; a group that waits for code. -/
theorem witness_PreemptionResults_more :
    let areas : Tbl (Nat × Nat) := [(0, 0x1000000, 0x1600000)]
    let x (st : LaunchState) : Launch := { goodLaunch st with areas := areas }
    let halted : Res := { goodRes with phase := .halting }
    let s (f : Core → Core) : State := (desk [(1, x .saved)] [(1, halted)]).modCore 0 f
    let sig := s fun c => { c with signals := [(1, 7)] }
    let spawn := s fun c => { c with net := [(3, [msgOf 1, msgOf 3])] }
    let stuck : State := (desk [(1, x .saving)] [(1, goodRes)]).modCore 0 fun c =>
      { c with groups := [(0, { soleGroup with waiting := [0x40] })], slots := [(0, trialMicro)] }
    let mem : SavedMem := ⟨List.replicate 64 0#8, [], [], 0x101#32, [[], [], [], []], [], [], [], [], [], [], Vector.replicate 4 0#32, [], false⟩
    let back : State := desk [(1, x .resuming)] [(1, { goodRes with phase := .saved, saved := some mem })]
    ((sig.core 0).signals = [(1, 7)] ∧ halted.phase ≠ .resident ∧ halted.ringNext < 4096 ∧ Tbl.get? (x .saved).areas 0 = some (0x1000000, 0x1600000)) ∧
    (Tbl.get? (spawn.core 0).net 3 = some [msgOf 1, msgOf 3] ∧ (msgOf 1).launch = 1 ∧ (msgOf 1).kind = 1 ∧ (msgOf 1).box ≠ .overflow) ∧
    (Tbl.get? (stuck.core 0).groups 0 = some { soleGroup with waiting := [0x40] } ∧ stuck.microAt 0 0 = some trialMicro ∧
      0 ∈ soleGroup.members) ∧
    ((back.imageRefused 0 1 0x1000000 0x1600000 0).isSome = true) ∧
    (grantFor 8 0 = 8 ∧ grantFor 8 4 ≠ 8 ∧ LaunchState.resuming ≠ .placed) := by
  refine ⟨?_, ?_, ?_, ?_, ?_⟩ <;> decide +kernel

/-- The host: an entry taken once READY is set; a response that fails what waits for a page; a shoot-down that something translated keeps
open; a partition write that would share a cluster or sets a reserved bit. -/
theorem witness_HostInterfaceResults_more :
    let h : HostQ := ⟨0#64, 0x8000000000010001#64, 0#32, 1#32, 0, false⟩
    let s : State := { (({ desk [] [] with dsc := { Dsc.reset with parts := [part0], queues := [h] } } : State).write 0 (bytesOfNat 8 0x1000)).write 0x1000 (goodRecord 0) with
      rtc := { Rtc.reset with ready := true } }
    let ld := flightOf (.load 5#3 0#2) 0x1000#64
    let open_ : State := { flying (ld (.home 0x1000 true)) with dsc := { Dsc.reset with shootBusy := some (1, 1, 1) } }
    let held : State := (desk [] []).modTlu 1 fun t => { t with holds := [(0, 1, 1)] }
    let alone : Line := partWith [(0, 2, 1), (2, 1, 1)]
    let parts (v : Line) : State := { desk [] [] with dsc := { Dsc.reset with parts := [part0, { part0 with cfg := v }] } }
    (s.rtc.ready = true ∧ s.nextQueue = some (0, h) ∧ (match s.entryRecord h with
      | .ok b => s.refuses b h.asid h.part h.maxPrio == none
      | _ => false) = true ∧ State.reset.rtc.ready = false) ∧
    (open_.shootOpen (1, 1, 1) = true ∧ shootHits (1, 1, 1) (open_.asidOf 0 1) 1 1 = true) ∧
    (∃ x ∈ (held.tlu 1).holds, shootHits (1, 1, 1) x.2.1 x.2.2 1 = true) ∧
    ((flying (ld .parked)).parkedAt (ld .parked) = some 0x1000 ∧ (flying (ld .parked)).res? 0 1 = some richRes ∧ richRes.asid = 1) ∧
    (((parts 0#512).part 1).enabled = false ∧ ((parts alone).part 0).enabled = true ∧ alone.getLsbD 16 = true ∧ alone.getLsbD 0 = true ∧
      part0.cfg.getLsbD 0 = true ∧ (1#512 <<< 95).getLsbD 95 = true ∧ (parts alone).dsc.launches = []) := by
  refine ⟨?_, ?_, ⟨(0, 1, 1), ?_, ?_⟩, ?_, ?_⟩ <;> decide +kernel

/-- Scheduling: a PAIR launch with an index free; one whose confirmation waits; no place and no victim; two launches that must both go; a saved
PAIR launch on either card; a launch whose ring is full while another saves. -/
theorem witness_SchedulerDecisionResults_more :
    let twin (s : State) (card : Bool) : State := { s with station := { Station.reset with up := true, present := true, card := card, table := List.replicate 16 none } }
    let p (st : LaunchState) : Launch := { pairLaunch st with pairIndex := none }
    let fresh (card : Bool) : State := twin (desk [(1, p .waiting)] []) card
    let conf (stop : Bool) : State :=
      let s := desk [(1, { p .waiting with proposed := true, confirmed := true })] []
      { s with dsc := { s.dsc with placingStopped := stop } }
    let saved (card : Bool) : State := twin (desk [(1, p .saved)] [(1, { pairRes with phase := .saved, ringNext := 4096 })]) card
    let big : Res := { goodRes with record := goodRecord 0 }
    let pin : Launch := { goodLaunch .waiting with record := (goodRecord 0).take 7 ++ [4#8] ++ (goodRecord 0).drop 8 }
    let none_ : State := (desk [(2, pin)] []).modCore 0 fun c => { c with parked := true }
    ((fresh false).firstWaiting 0 = some (1, p .waiting) ∧ (p .waiting).isPair = true ∧ (fresh false).freeIndex = some 0 ∧
      (fresh false).confirmedIn 0 = none ∧
      (fresh false).fitsAt 1 (p .waiting) [] (0, 0) = true ∧ (fresh false).deciding 0 = false ∧ (fresh false).fullIn 0 = none) ∧
    ((conf true).confirmedIn 0 = some (1, { p .waiting with proposed := true, confirmed := true }) ∧ (conf true).dsc.placingStopped = true ∧
      (conf false).dsc.placingStopped = false) ∧
    (none_.firstWaiting 0 = some (2, pin) ∧ (∀ o ∈ none_.candidates pin,
      none_.fitsAt 2 pin [] o = false ∧ none_.victims 2 pin o [] = none)) ∧
    ((saved false).fullIn 0 = some (1, p .saved) ∧ (saved true).fullIn 0 = some (1, p .saved) ∧ (p .saved).twinFull = false ∧
      (saved false).deciding 0 = false ∧ (saved true).station.card = true ∧ (saved false).fitsAt 1 (p .saved) [] (0, 0) = true) ∧
    ((desk [(1, goodLaunch .saved), (2, goodLaunch .saving)] [(1, { big with phase := .saved, ringNext := 4096 })]).savingIn 0 = true ∧
      (desk [(1, goodLaunch .placed)] [(1, { big with phase := .saved, ringNext := 4096 })]).fullIn 0 = some (1, goodLaunch .placed)) := by
  refine ⟨?_, ?_, ?_, ?_, ?_⟩ <;> decide +kernel

/-- Ends: a launch that is ending with an access out and with none, released and not; an end word on a page the host must map; a PAIR launch
that asks for, waits for and has the twin's sweep; a queue that is hung, and one strike before. -/
theorem witness_LaunchEndResults_more :
    let e (rel : Bool) : Launch := { goodLaunch .ending with fin := some (2, 0, false), released := rel }
    let s := desk [(1, e false)] [(1, goodRes)]
    let out : State := { s with flights := [(0, flightOf (.store 8 0#2 5#128) poolEa .asked)], nextId := 1 }
    let far : Launch := { e true with record := (goodRecord 0).take 192 ++ bytesOfNat 8 0x5000 ++ (goodRecord 0).drop 200 }
    let bare : State := ({ desk [(1, far)] [] with dsc := { Dsc.reset with launches := [(1, far)], parts := [part0], asidtab := 0x80000#64 } } : State).write
      0x80008 (bytesOfNat 8 (2 ^ 63 + 0x90))
    let p : Launch := pairLaunch .placed
    let hung (k : Nat) : State :=
      let s := desk [(1, goodLaunch .placed)] [(1, goodRes)]
      { s with dsc := { s.dsc with queues := [{ (Dsc.reset.queues.getD 0 default) with strikes := k }] } }
    (s.Sound ∧ s.launch? 1 = some (e false) ∧ (e false).released = false ∧ s.flights = [] ∧ (e true).released = true ∧
      (∃ f ∈ out.flights, f.2.launch = 1 ∧ out.sentOpen f.1 f.2 = true)) ∧
    (far.asid = 1 ∧ far.part < 25 ∧ (match bare.endWord far with
      | .wait va _ => va / 2 ^ 12 == 5
      | _ => false) = true) ∧
    (p.isPair = true ∧ p.twinSweep = none ∧ p.swept = none ∧ ({ p with swept := some true } : Launch).swept ≠ none ∧
      (linked (desk [(1, p)] [(1, pairRes)])).station.card = false) ∧
    (((hung 1).dsc.queues[0]?).any (fun h => decide (2 ≤ h.strikes + 1)) = true ∧ ((hung 0).dsc.queues[0]?).any (fun h => decide (h.strikes + 1 < 2)) = true ∧
      (goodLaunch .placed).rootq = 0 ∧ (goodLaunch .placed).restarts < ((hung 0).part 0).field 20 1 + 1) := by
  refine ⟨⟨witness_sound _ rfl rfl rfl, rfl, rfl, rfl, rfl, ⟨_, List.mem_singleton.2 rfl, ?_⟩⟩, ?_, ?_, ?_⟩ <;> decide +kernel

/-- The link: no training yet; accesses to the twin that wait; a request of 16 bytes and its second half; one for a halted
launch with a free and with a full ring; an LR, and an SC with and without its reservation. -/
theorem witness_LinkResults_more :
    let req (o : TwinOp) (src : Nat := 0) : TwinRequest := { tag := 0, src := src, index := 0, core := 0, off := 0x8000, op := o }
    let up (r : Res) : State := linked (desk [(1, pairLaunch .placed)] [(1, r)])
    let half : State := let s := up pairRes; { s with station := { s.station with halves := [(req (.read 16), 7#64)] } }
    let waits (st : Stage) : State := { up pairRes with flights := [(0, flightOf (.load 5#3 0#2) 0xFFFE010000008000#64 st 2)], nextId := 1 }
    let kept : State := { up pairRes with resvs := [(80, 1, poolAddr 0 0x8000 / 64)] }
    (State.reset.station.up = false ∧ State.reset.station.present = false ∧ State.reset.rtc.ready = false) ∧
    ((∃ p ∈ (waits .twin).flights, p.2.stage = .twin) ∧ (∃ p ∈ (waits .asked).flights, p.2.stage = .asked)) ∧
    ((half.station.halves.find? fun h => h.1 == req (.read 16)) = some (req (.read 16), 7#64) ∧
      ((up pairRes).station.halves.find? fun h => h.1 == req (.read 16)) = none ∧ half.twinLineBusy (req (.read 8)) = true ∧
      half.twinLineBusy (req (.read 8) 1) = false) ∧
    (({ pairRes with phase := .halting } : Res).phase ≠ .resident ∧ ({ pairRes with ringNext := 4096 } : Res).ringNext = 4096 ∧
      (up pairRes).portOk 0 1 0x8000 16 = true) ∧
    ((80 + (req (.reserve 8)).src, 1, poolAddr 0 0x8000 / 64) ∈ kept.resvs ∧ (up pairRes).resvs = [] ∧
      (up pairRes).isBad (poolAddr 0 0x8000) (twinSize (.conditional 8 0#128)) = false) := by
  refine ⟨⟨rfl, rfl, rfl⟩, ⟨⟨_, List.mem_singleton.2 rfl, rfl⟩, ⟨_, List.mem_singleton.2 rfl, rfl⟩⟩, ?_, ?_, ?_⟩ <;> decide +kernel

/-- Hand-offs: a sub-query that waits for an entry; an acknowledged and an unknown hand-off; a full buffer; a returned record behind another of
its query; a query that keeps its best candidates and one that has failed; a cancel for a halted launch and for no core. -/
theorem witness_HandoffArrivalResults_more :
    let q : Query := { trialQuery with tag := 5#32, out := [3] }
    let up (r : Res) (q : Query) : State :=
      linked ((desk [(1, pairLaunch .placed)] [(1, r)]).modCore 0 fun c => { c with queries := [(0, q)] })
    let m : HqMsg := ⟨0, 0, 5#32, 3, bytesOfNat 128 0, [], []⟩
    let s (f : Station → Station) : State := let u := up pairRes q; { u with station := f u.station }
    let queued := { up { pairRes with phase := .halting } q with station := { (up pairRes q).station with hqs := [m] } }
    ((5#32, 3) ∈ (s fun t => { t with unhacked := [(5#32, 3)] }).station.unhacked ∧ (5#32, 3) ∉ (up pairRes q).station.unhacked) ∧
    (256 ≤ (s fun t => { t with hits := List.replicate 256 (5#32, 3, []) }).station.hits.length ∧
      (∃ x ∈ (s fun t => { t with hits := [(5#32, 3, [])] }).station.hits, x.1 = 5#32)) ∧
    ((queued.subPlace m).any (fun p => p.2.2.phase != .resident) = true) ∧
    ((up pairRes q).awaiter 5#32 3 = some (0, 0) ∧ q.err = none ∧ ({ q with record := queryRecord [(3, 1, 1)] } : Query).mode 0 = true ∧ q.mode 0 = false) ∧
    (coreOfCode (511 % 512) = none ∧ coreOfCode (0 % 512) = some 0) := by
  have one (s : State) (h : s.awaiting 5#32 3 = [(0, 0)]) : s.awaiter 5#32 3 = some (0, 0) := by
    simp [State.awaiter, h, Nat.mod_one]
  refine ⟨?_, ?_, ?_, ⟨one _ ?_, ?_⟩, ?_⟩ <;> decide +kernel

/-- Scheduling acts on card 1: a proposal of an index in use, while placing is stopped, and of a launch known here; a resume of a saved half
that fits and of one that cannot; a sweep of a placed half. On card 0: a confirmation while placing is stopped, a refusal, a report asked
for and one that came late, and an area that is missing. -/
theorem witness_SchedulingActResults_more :
    let on (card : Bool) (x : Launch) (r : Res) (stop : Bool := false) : State :=
      let s := desk [(1, x)] [(1, r)]
      { s with station := { Station.reset with up := true, present := true, card := card, table := some 1 :: List.replicate 15 none }
               dsc := { s.dsc with placingStopped := stop } }
    let r := { pairRes with phase := .saved }
    let x := pairLaunch .saved
    let noArea : State := let s := on false (pairLaunch .placed) pairRes
      { s with dsc := { s.dsc with parts := [⟨partWith [(0, 2, 1), (2, 1, 1)], 0#32, 0, 0, 0⟩] } }
    ((on true x r).station.card = true ∧ (on true x r).station.table.getD 0 (some 0) ≠ none ∧ (on true x r true).dsc.placingStopped = true ∧
      (on true x r).launch? 1 ≠ none) ∧
    ((on true x r).fitsAt 1 x [] (x.x0, x.y0) = true ∧ ((on true x r).modCore 0 fun c => { c with parked := true }).fitsAt 1 x [] (x.x0, x.y0) = false) ∧
    ((on true (pairLaunch .placed) pairRes).launch? 1 = some (pairLaunch .placed) ∧ (pairLaunch .placed).cores = [0] ∧ pairRes.phase = .resident) ∧
    ((on false { x with proposed := true } r true).launch? 1 = some { x with proposed := true } ∧ x.state ≠ .ending ∧
      ({ x with swept := some true } : Launch).swept = some true ∧ ({ x with swept := some false } : Launch).swept ≠ some true) ∧
    (noArea.allocAreas (pairLaunch .placed).part [0] = none) := by
  refine ⟨?_, ?_, ?_, ?_, ?_⟩ <;> decide +kernel

/-- The management registers: a request that waits behind a report, and another report behind it; a word corrected by a scrub; and one offset of
each further register. -/
theorem witness_ManagementResults_more :
    let r : Rtc := { Rtc.reset with running := some (0#256, Rtc.reset.mr), waiting := [(.host, .bootstat), (.host, .report 1#256), (.host, .bootstat)] }
    let weak : State := { State.reset with watch := { Watch.reset with weak := [0x401] } }
    (r.running ≠ none ∧ r.waiting = [(.host, .bootstat)] ++ (.host, .report 1#256) :: [(.host, .bootstat)]) ∧
    (weak.isBad (0x1004 / 8 * 8) 8 = false ∧ 0x401 ∈ weak.watch.weak ∧ 0x1004 / 8 * 2 + 1 = 0x401 ∧ ¬ (2 ^ 37 ≤ 0x1004)) ∧
    ((0x3F0 : Nat) / 16 = 63 ∧ (0x3F0 : Nat) / 8 % 2 = 0 ∧ (0x3F8 : Nat) / 8 % 2 = 1 ∧ (0x404 : Nat) / 8 * 8 = 0x400 ∧ (0x814 : Nat) / 8 * 8 = 0x810) ∧
    ((0x00FFFFFFFFFFFFC0#64 &&& 0x00FFFFFFFFFFFFC0#64) = 0x00FFFFFFFFFFFFC0#64 ∧ (1#64 &&& 0x00FFFFFFFFFFFFC0#64) ≠ 1#64) := by
  refine ⟨⟨?_, rfl⟩, ?_, ?_, ?_⟩ <;> decide +kernel

/-- Steps: a group that waits for code; a caller that is not ready and one with a 4-byte instruction; a query whose turn another has; a
snapshot whose late part is due and one that waits; a mailbox request after a boot that stopped. -/
theorem witness_StepRunsTheFetchedInstruction_more :
    let wait : State := (turnOf trialMicro).modCore 0 fun c => { c with groups := [(0, { soleGroup with waiting := [0x40] })] }
    let at_ (w : Nat) : State := (mapped (calm { Caller.blank with pc := 0x1000#64 } trialMicro)).write 0x1000 (bytesOfNat 4 w)
    let two : State := (queryTurn trialQuery).modCore 0 fun c => { c with queries := [(0, trialQuery), (1, trialQuery)] }
    let snap (k : Nat) : Watch := { Watch.reset with
      snap := some ⟨[], State.reset.cores, [], State.reset.clusters, State.reset.tlus, [], Dsc.reset, Station.reset⟩, skew := k }
    (Tbl.get? (wait.core 0).groups 0 = some { soleGroup with waiting := [0x40] } ∧ wait.power.powered = true) ∧
    (({ Caller.blank with ended := true } : Caller).ended = true ∧
      (calm { Caller.blank with ended := true } trialMicro).callerReady 0 1 { richRes with caller := { Caller.blank with ended := true } } = false) ∧
    ((match (at_ 0x19B8E0B).fetchHalf 1 0x1000#64 with | .ok a => a.extractLsb' 0 2 == 3#2 | .error _ => false) = true ∧
      (match (at_ 0x19B8E0B).fetchHalf 1 0x1002#64 with | .ok a => a == 0x19B#16 | .error _ => false) = true) ∧
    ((two.nextQueryOf 0).isSome = true ∧ (two.nextQueryOf 0 ≠ some 0 ∨ two.nextQueryOf 0 ≠ some 1)) ∧
    ((snap 0).snap ≠ none ∧ (snap 0).late = none ∧ (snap 0).skew = 0 ∧ (snap 1).skew ≠ 0 ∧ Watch.reset.snap = none) ∧
    (isMailbox (.rtcReadBootstat .host) = true ∧ isMailbox .powerLoss = false) := by
  refine ⟨?_, ?_, ?_, ?_, ?_, ?_⟩ <;> decide +kernel

end Sys2Proof.Tests
end

/-! One step: what the turn at the head of the agenda fetches and runs (R5, R13, R190, R306, R322, R437, R444). -/

namespace Sys2Proof.Machine

/-! Latching between turns (R444) changes the watch alone, and none of its error bits. -/

theorem State.latchLate_eq (s : State) :
    ∃ w : Watch, s.latchLate = { s with watch := w } ∧ w.bad = s.watch.bad := by
  unfold State.latchLate
  split
  · exact ⟨s.watch, rfl, rfl⟩
  · split <;> exact ⟨_, rfl, rfl⟩

theorem State.latchLate_idle {s : State} (h : s.watch.snap = none ∨ s.watch.late ≠ none) : s.latchLate = s :=
  if_pos (h.imp Option.isNone_iff_eq_none.2 Option.isSome_iff_ne_none.2)

theorem State.latchLate_open {s : State} (h : s.watch.snap ≠ none) (hl : s.watch.late = none) :
    s.latchLate = if s.watch.skew = 0 then { s with watch := { s.watch with late := some s.blocks } }
      else { s with watch := { s.watch with skew := s.watch.skew - 1 } } :=
  if_neg (by simp [hl, h])

/-- The state in which a turn of the agenda acts. -/
def State.turned (s : State) (rest : List Turn) : State := { s.latchLate with agenda := rest }

section
variable (s : State) (rest : List Turn)

@[simp] theorem State.turned_core (n : Nat) : (s.turned rest).core n = s.core n := by
  obtain ⟨w, hw, -⟩ := s.latchLate_eq
  rw [State.turned, hw]; rfl

@[simp] theorem State.turned_power : (s.turned rest).power = s.power := by
  obtain ⟨w, hw, -⟩ := s.latchLate_eq
  rw [State.turned, hw]

@[simp] theorem State.turned_rtc : (s.turned rest).rtc = s.rtc := by
  obtain ⟨w, hw, -⟩ := s.latchLate_eq
  rw [State.turned, hw]

@[simp] theorem State.turned_res? (n l : Nat) : (s.turned rest).res? n l = s.res? n l := by
  simp [State.res?]

@[simp] theorem State.turned_query? (n e : Nat) : (s.turned rest).query? n e = s.query? n e := by
  simp [State.query?]

@[simp] theorem State.turned_codeOf (r : Res) : (s.turned rest).codeOf r = s.codeOf r := by
  obtain ⟨w, hw, -⟩ := s.latchLate_eq
  rw [State.turned, hw]; rfl

@[simp] theorem State.turned_callerReady (n l : Nat) (r : Res) : (s.turned rest).callerReady n l r = s.callerReady n l r := by
  obtain ⟨w, hw, -⟩ := s.latchLate_eq
  rw [State.turned, hw]; rfl

@[simp] theorem State.turned_fetchHalf (asid : Nat) (pc : DWord) : (s.turned rest).fetchHalf asid pc = s.fetchHalf asid pc := by
  obtain ⟨w, hw, hb⟩ := s.latchLate_eq
  have bad (a n : Nat) : ({ s with watch := w, agenda := rest } : State).isBad a n = s.isBad a n := by
    simp only [State.isBad, hb]
  rw [State.turned, hw]
  simp only [State.fetchHalf, bad]
  rfl

@[simp] theorem State.turned_nextQueryOf (n : Nat) : (s.turned rest).nextQueryOf n = s.nextQueryOf n := by
  obtain ⟨w, hw, -⟩ := s.latchLate_eq
  rw [State.turned, hw]; rfl

end

/-! The step that a turn at the head of the agenda gives, through `Move`. -/

section
variable {s : State} {turn : Turn} {rest : List Turn}

theorem step_of_run {i : Instr} {t : State} (ha : s.agenda = turn :: rest) (h : (s.turned rest).fetch turn = .run i t) :
    step s = exec i t := by
  simp only [State.turned] at h
  simp only [step, State.nextTurn, ha, h]

theorem step_of_stay {t : State} (ha : s.agenda = turn :: rest) (h : (s.turned rest).fetch turn = .stay t) :
    step s = .next t := by
  simp only [State.turned] at h
  simp only [step, State.nextTurn, ha, h]

end

/-- An empty agenda is the agenda of the turn that is drawn (log 9): neither the agenda nor the counter is latched. -/
theorem State.nextTurn_drawn (s : State) (k : Nat) : State.nextTurn { s with agenda := [], fresh := k } =
    State.nextTurn { s with agenda := [Config.nextTurn k], fresh := k + 1 } := by
  simp only [State.nextTurn, State.latchLate, State.blocks]
  congr 1
  split
  · rfl
  · split <;> rfl

theorem step_of_drawnTurn (s : State) (k : Nat) :
    step { s with agenda := [], fresh := k } = step { s with agenda := [Config.nextTurn k], fresh := k + 1 } := by
  simp only [step, State.nextTurn_drawn]

section
variable {s : State} {n : Nat}

/-! What each agent's turn comes to. -/

theorem State.issueTurn_waiting {port rot : Nat} {g : Group} (hg : Tbl.get? (s.core n).groups (port * 8 + rot) = some g)
    (hw : g.waiting ≠ []) : s.issueTurn n port rot = .stay s := by
  simp [State.issueTurn, hg, hw]

theorem codeInstr_of_decode {h : Nat → Half} {off : Nat} {i : Instr} {more : List Half}
    (hd : decodeMicro [h off, h (off + 2), h (off + 4), h (off + 6)] = .ok (i, more)) : (codeInstr h off).1 = some i := by
  simp only [codeInstr, hd]

theorem codeInstr_of_reject {h : Nat → Half} {off : Nat} {e : Reject}
    (hd : decodeMicro [h off, h (off + 2), h (off + 4), h (off + 6)] = .error e) : (codeInstr h off).1 = none := by
  simp only [codeInstr, hd]

/-- A group that does not wait runs what stands at its place in its figure; a word that is no instruction, as a reserved
encoding (R71, R87). -/
theorem State.issueTurn_of_code {port rot : Nat} {g : Group} {r : Res} {o : Sealed} {h : Nat → Half}
    (hg : Tbl.get? (s.core n).groups (port * 8 + rot) = some g) (hr : s.res? n g.launch = some r) (hc : s.codeOf r = some (o, h))
    (hw : g.waiting = []) :
    let w := codeWord h (g.fig.toNat + g.off)
    s.issueTurn n port rot =
      .run ((codeInstr h (g.fig.toNat + g.off)).1.getD (.reservedEncoding w)) (s.at_ (.group n port rot) w) := by
  simp only [State.issueTurn, hg, hw, hr, hc, List.isEmpty_nil, Bool.not_true, Bool.false_eq_true, if_false]
  cases (codeInstr h (g.fig.toNat + g.off)).1 <;> rfl

theorem State.callerTurn_idle {l : Nat} {r : Res} (hr : s.res? n l = some r) (h : s.callerReady n l r = false) :
    s.callerTurn n l = .stay s := by
  simp [State.callerTurn, hr, h]

theorem State.callerTurn_of_fetch {l : Nat} {r : Res} {w : Word} {i : Instr} (hr : s.res? n l = some r)
    (h : s.callerReady n l r = true) (hf : s.callerFetch r = .ok (w, i)) :
    s.callerTurn n l = .run (r.caller.turnOf i) (s.at_ (.caller n l) w) := by
  simp [State.callerTurn, hr, h, hf]

theorem State.callerFetch_short {r : Res} {a : Half} (ha : s.fetchHalf r.asid r.caller.pc = .ok a)
    (h : a.extractLsb' 0 2 ≠ 3#2) : s.callerFetch r = .ok (a.setWidth 32, (decodeCaller a 0#16).1) := by
  simp [State.callerFetch, ha, h]

theorem State.callerFetch_long {r : Res} {a b : Half} (ha : s.fetchHalf r.asid r.caller.pc = .ok a)
    (h : a.extractLsb' 0 2 = 3#2) (hb : s.fetchHalf r.asid (r.caller.pc + 2#64) = .ok b) :
    s.callerFetch r = .ok (b ++ a, (decodeCaller a b).1) := by
  simp [State.callerFetch, ha, h, hb, joinHalves]

theorem State.walkerTurn_unserved {e : Nat} {q : Query} (hq : s.query? n e = some q) (h : s.nextQueryOf n ≠ some e) :
    s.walkerTurn n e = .stay s := by
  simp [State.walkerTurn, hq, h]

theorem State.walkerTurn_of_decode {e : Nat} {q : Query} {r : Res} {i : Instr} (hq : s.query? n e = some q)
    (hr : s.res? n q.launch = some r) (h : s.nextQueryOf n = some e) (hd : decodeWalker (r.walker.getD q.pc 0#32) = .ok i) :
    s.walkerTurn n e = .run i (s.at_ (.walker n e) (r.walker.getD q.pc 0#32)) := by
  simp only [State.walkerTurn, hq, hr, h, hd, ne_eq, not_true_eq_false, if_false]

end

/-! The rotation over the running queries (R322): the next one behind the last served, in the cyclic order of the entries. -/

theorem Tbl.pairwise_of_sorted {α : Type} {t : Tbl α} (h : Tbl.sorted t = true) : t.Pairwise fun p q => p.1 < q.1 := by
  induction t with
  | nil => exact .nil
  | cons p t ih => exact .cons (Tbl.sorted_all p.1 p.2 t h) (ih ((Tbl.sorted_cons p.1 p.2 t).1 h).2)

/-- The entries that may be served, in the order of the table. -/
def State.readyQueries (s : State) (n : Nat) : List Nat :=
  ((s.core n).queries.filter fun p => p.2.state == .running && !s.away n p.2.launch).map Prod.fst

theorem State.mem_readyQueries {s : State} {n e : Nat} : e ∈ s.readyQueries n ↔
    ∃ p ∈ (s.core n).queries, p.1 = e ∧ p.2.state = .running ∧ s.away n p.2.launch = false := by
  simp [State.readyQueries]

theorem State.readyQueries_rise {s : State} {n : Nat} (h : Tbl.sorted (s.core n).queries = true) :
    (s.readyQueries n).Pairwise (· < ·) :=
  List.pairwise_map.2 ((Tbl.pairwise_of_sorted h).filter _)

/-- The next query served is the first ready one behind the last served, or the first of all where none is behind it. -/
theorem State.nextQueryOf_some {s : State} {n e : Nat} (h : s.nextQueryOf n = some e) :
    (s.readyQueries n).find? (fun x => decide ((s.core n).walked < x)) = some e ∨
      (s.readyQueries n).find? (fun x => decide ((s.core n).walked < x)) = none ∧ (s.readyQueries n).head? = some e := by
  simp only [State.nextQueryOf] at h
  split at h
  case h_1 _ e' he => exact .inl (h ▸ he)
  case h_2 he => exact .inr ⟨he, h⟩

theorem State.nextQueryOf_ready {s : State} {n e : Nat} (h : s.nextQueryOf n = some e) : e ∈ s.readyQueries n := by
  obtain hf | ⟨-, hh⟩ := State.nextQueryOf_some h
  · exact List.mem_of_find?_eq_some hf
  · exact List.mem_of_head? hh

/-- No ready query lies between the last served and the next, in the cyclic order of the entries. -/
theorem State.nextQueryOf_next {s : State} {n e x : Nat} (h : s.nextQueryOf n = some e)
    (hs : Tbl.sorted (s.core n).queries = true) (hx : x ∈ s.readyQueries n) :
    ((s.core n).walked < e → x ≤ (s.core n).walked ∨ e ≤ x) ∧ (e ≤ (s.core n).walked → e ≤ x ∧ x ≤ (s.core n).walked) := by
  have rise := State.readyQueries_rise hs
  obtain hf | ⟨hn, hh⟩ := State.nextQueryOf_some h
  · obtain ⟨he, before, after, hl, hb⟩ := List.find?_eq_some_iff_append.1 hf
    rw [hl] at rise hx
    have hgt : ∀ y ∈ after, e < y := (List.pairwise_cons.1 (List.pairwise_append.1 rise).2.1).1
    simp only [decide_eq_true_eq, Bool.not_eq_true', decide_eq_false_iff_not] at he hb
    refine ⟨fun _ => ?_, fun hle => absurd he (Nat.not_lt.2 hle)⟩
    rcases List.mem_append.1 hx with hx | hx
    · exact .inl (Nat.not_lt.1 (hb x hx))
    · rcases List.mem_cons.1 hx with rfl | hx
      · exact .inr (Nat.le_refl _)
      · exact .inr (Nat.le_of_lt (hgt x hx))
  · have hle : ∀ y ∈ s.readyQueries n, y ≤ (s.core n).walked := by simpa using hn
    obtain ⟨l, hl⟩ := List.head?_eq_some_iff.1 hh
    refine ⟨fun _ => .inl (hle x hx), fun _ => ⟨?_, hle x hx⟩⟩
    rw [hl] at rise hx
    rcases List.mem_cons.1 hx with rfl | hx
    · exact Nat.le_refl _
    · exact Nat.le_of_lt ((List.pairwise_cons.1 rise).1 x hx)

/-! Turns of events and of agents while the SoC runs, and while it does not (R435, R437). -/

section
variable {s : State}

theorem State.running_of_power (hp : s.power.powered = true) (hr : s.power.inReset = false) : s.running = true := by
  simp [State.running, hp, hr]

theorem State.not_running_of_power (h : s.power.powered = false ∨ s.power.inReset = true) : s.running = false := by
  rcases h with h | h <;> simp [State.running, h]

theorem State.fetch_issue (h : s.running = true) (n port rot : Nat) : s.fetch (.issue n port rot) = s.issueTurn n port rot :=
  if_pos h

theorem State.fetch_caller (h : s.running = true) (n l : Nat) : s.fetch (.caller n l) = s.callerTurn n l := if_pos h

theorem State.fetch_walker (h : s.running = true) (n e : Nat) : s.fetch (.walker n e) = s.walkerTurn n e := if_pos h

theorem State.fetch_upset (h : s.running = true) (x : Upset) : s.fetch (.upset x) = .stay (s.upset x) := by
  simp [State.fetch, h]

theorem State.fetch_supervisor (h : s.running = true) (n l cause : Nat) (pc tval : DWord) :
    s.fetch (.supervisor n l cause pc tval) = .stay (s.supervisorTurn n l cause pc tval) := by
  simp [State.fetch, h]

theorem State.fetch_event_running (h : s.running = true) (i : Instr) : s.fetch (.event i) = .run i (s.at_ .none 0#32) := by
  simp [State.fetch, State.eventTurn, h]

theorem State.fetch_event_reset (boot : BootInput) :
    s.fetch (.event (.moduleReset boot)) = .run (.moduleReset boot) (s.at_ .none 0#32) := by
  simp [State.fetch, State.eventTurn, allowedInReset]

theorem State.fetch_event_mailbox {i : Instr} (hp : s.power.powered = true) (hf : s.rtc.failStep ≠ 0) (hi : isMailbox i = true) :
    s.fetch (.event i) = .run i (s.at_ .none 0#32) := by
  simp [State.fetch, State.eventTurn, hp, hf, hi]

theorem allowedInReset_eq_false {i : Instr} (h : ∀ boot, i ≠ .moduleReset boot) : allowedInReset i = false := by
  unfold allowedInReset
  split
  · exact absurd rfl (h _)
  · rfl

theorem State.fetch_event_still {i : Instr} (h : s.running = false) (hb : ∀ boot, i ≠ .moduleReset boot)
    (hm : s.power.powered = false ∨ s.rtc.failStep = 0 ∨ isMailbox i = false) : s.fetch (.event i) = .stay s := by
  simp only [State.fetch, State.eventTurn, h, allowedInReset_eq_false hb]
  rcases hm with hm | hm | hm <;> simp [hm]

/-- In reset no agent but an event acts. -/
theorem State.fetch_still {turn : Turn} (h : s.running = false) (hb : ∀ boot, turn ≠ .event (.moduleReset boot))
    (hm : s.power.powered = false ∨ s.rtc.failStep = 0) : s.fetch turn = .stay s := by
  cases turn with
  | event i => exact State.fetch_event_still h (fun boot hi => hb boot (hi ▸ rfl)) (hm.imp_right .inl)
  | issue | caller | walker | upset | supervisor => simp [State.fetch, h]

end
end Sys2Proof.Machine

namespace Sys2Proof.Proofs
open Sys2Proof Sys2Proof.Machine

/-- Settles O54: the turn at the head of the agenda gives its agent's move, each agent's move is the instruction that it fetches,
and latching between turns changes nothing that a fetch reads. -/
theorem stepRunsTheFetchedInstruction : Obligations.StepRunsTheFetchedInstruction := by
  intro s turn rest ha u
  have hu : u = s.turned rest := rfl
  clear_value u
  subst hu
  refine ⟨State.latchLate_idle, fun h hl hk => ?_, fun h hl hk => ?_, fun hp hr => ?_, fun hoff => ?_, step_of_drawnTurn s⟩
  · rw [State.latchLate_open h hl, if_neg hk]
  · rw [State.latchLate_open h hl, if_pos hk]; rfl
  · have hrun : (s.turned rest).running = true := State.running_of_power (by simpa using hp) (by simpa using hr)
    refine ⟨?_, ?_, ?_, ?_, ?_, ?_, ?_⟩
    · rintro n port rot g r o h rfl hg hres hcode off word
      rw [← State.turned_core s rest] at hg
      rw [← State.turned_res? s rest] at hres
      rw [← State.turned_codeOf s rest] at hcode
      have hf := State.fetch_issue hrun n port rot
      refine ⟨fun hw => step_of_stay ha (hf.trans (State.issueTurn_waiting hg hw)), fun i more hw hd => ?_, fun e hw hd => ?_⟩
      · refine step_of_run ha (hf.trans ((State.issueTurn_of_code hg hres hcode hw).trans ?_))
        rw [codeInstr_of_decode hd]; rfl
      · refine step_of_run ha (hf.trans ((State.issueTurn_of_code hg hres hcode hw).trans ?_))
        rw [codeInstr_of_reject hd]; rfl
    · rintro n l r a b rfl hres
      rw [← State.turned_res? s rest] at hres
      rw [← State.turned_callerReady s rest, ← State.turned_fetchHalf s rest, ← State.turned_fetchHalf s rest]
      have hf := State.fetch_caller hrun n l
      refine ⟨fun hready => step_of_stay ha (hf.trans (State.callerTurn_idle hres hready)),
        fun hready hfa => ⟨fun hs => ?_, fun hs hfb => ?_⟩⟩
      · exact step_of_run ha (hf.trans (State.callerTurn_of_fetch hres hready (State.callerFetch_short hfa hs)))
      · exact step_of_run ha (hf.trans (State.callerTurn_of_fetch hres hready (State.callerFetch_long hfa hs hfb)))
    · rintro n e q r rfl hq hres
      rw [← State.turned_query? s rest] at hq
      rw [← State.turned_res? s rest] at hres
      rw [← State.turned_nextQueryOf s rest]
      have hf := State.fetch_walker hrun n e
      exact ⟨fun hn => step_of_stay ha (hf.trans (State.walkerTurn_unserved hq hn)),
        fun i hn hd => step_of_run ha (hf.trans (State.walkerTurn_of_decode hq hres hn hd))⟩
    · exact fun n e hn => ⟨State.mem_readyQueries.1 (State.nextQueryOf_ready hn), fun p hp hrunning haway hsorted =>
        State.nextQueryOf_next hn hsorted (State.mem_readyQueries.2 ⟨p, hp, rfl, hrunning, haway⟩)⟩
    · rintro i rfl
      exact step_of_run ha (State.fetch_event_running hrun i)
    · rintro x rfl
      exact step_of_stay ha (State.fetch_upset hrun x)
    · rintro n l cause pc tval rfl
      exact step_of_stay ha (State.fetch_supervisor hrun n l cause pc tval)
  · have hstill : (s.turned rest).running = false := State.not_running_of_power (by simpa using hoff)
    refine ⟨?_, fun hb hm => ?_, ?_⟩
    · rintro boot rfl
      exact step_of_run ha (State.fetch_event_reset boot)
    · exact step_of_stay ha (State.fetch_still hstill hb (by simpa using hm.symm))
    · rintro i hfail hp rfl
      refine ⟨fun hi => step_of_run ha (State.fetch_event_mailbox (by simpa using hp) (by simpa using hfail) hi), fun hi hb => ?_⟩
      exact step_of_stay ha (State.fetch_event_still hstill hb (.inr (.inr hi)))

end Sys2Proof.Proofs

/-! Every instruction and event answers a next state (R10): a breach is an entry, a fault taken or a status, and no end of the run. -/

namespace Sys2Proof.Machine

/-- An outcome that ends no run. -/
def GoesOn (o : Out) : Prop := ∃ t, o = .next t

theorem GoesOn.next (s : State) : GoesOn (.next s) := ⟨s, rfl⟩

theorem GoesOn.ite {c : Prop} [Decidable c] {a b : Out} (ha : GoesOn a) (hb : GoesOn b) : GoesOn (if c then a else b) := by
  split
  · exact ha
  · exact hb

/-! The shared forms of the meanings: whatever they are given to do, they answer a next state. -/

section
variable (s : State)

theorem lanes_goesOn (len w : Nat) (f : Core → Nat → Micro → Except Flt Micro) : GoesOn (lanes len w f s) := by
  unfold lanes
  split <;> exact .next _

theorem setTurn_goesOn {α : Type} (w : Nat) (read : Micro → Except Flt α)
    (write : List (Option α) → Nat → Nat → α → Micro → Micro) : GoesOn (setTurn w read write s) := by
  unfold setTurn
  split <;> exact .next _

theorem xacTurn_goesOn {α : Type} (w : Nat) (read : Micro → Except Flt α) (upd : List α → Xac → Xac)
    (write : Xac → Micro → Micro) : GoesOn (xacTurn w read upd write s) := by
  unfold xacTurn
  split <;> exact .next _

theorem turn_goesOn (w : Nat) (ll : Bool) (room : State → Nat → Group → Bool)
    (body : State → Nat → Group → Nat → Micro → Except Flt State) : GoesOn (turn w ll room body s) := by
  unfold turn
  split
  · exact .next _
  · split <;> exact .next _

theorem trailer_goesOn (len : Nat) (aw : BitVec 8)
    (control : State → Nat → Group → Nat → Micro → Word → Except Flt Go) : GoesOn (trailer len aw control s) := by
  unfold trailer
  split <;> exact .next _

theorem walk_goesOn (f : State → Nat → Nat → Res → Query → State) : GoesOn (walk f s) := by
  unfold walk
  repeat' first | with_reducible exact .next _ | split

theorem walkTry_goesOn (f : Res → Query → Option Query) : GoesOn (walkTry f s) := walk_goesOn _ _

theorem walkAlu_goesOn (d : WReg) (f : Query → Word) : GoesOn (walkAlu d f s) := walkTry_goesOn _ _

theorem walkFp_goesOn (d a b : WReg) (f : Nat → Nat → FpRes) : GoesOn (walkFp d a b f s) := walkAlu_goesOn _ _ _

theorem xfig_goesOn (k : Option Stall) (act : State → Nat → Nat → Core → Res → XRes) : GoesOn (xfig k act s) := by
  unfold xfig
  repeat' first | with_reducible exact .next _ | split

theorem onFlight_goesOn (id : Nat) (f : Flight → State → State) : GoesOn (onFlight id f s) := by
  unfold onFlight
  split <;> exact .next _

theorem onArray_goesOn (core : Nat) (run : State → Res → MxEntry → Option (Except ArrayFault State)) :
    GoesOn (onArray core run s) := by
  simp only [onArray]
  repeat' first | with_reducible exact .next _ | split

theorem gteIndexed_goesOn (core : Nat) (run : State → Res → GteRun → Nat → State) : GoesOn (gteIndexed core run s) := by
  unfold gteIndexed
  repeat' first | with_reducible exact .next _ | split

theorem gteElement_goesOn (core op : Nat) (fetch put : State → GteRun → DWord → Nat → Bool → Nat → Nat → GteAct) :
    GoesOn (gteElement core op fetch put s) :=
  gteIndexed_goesOn _ _ _

theorem callerDo_goesOn (f : Core → Res → Caller → Caller) : GoesOn (callerDo f s) := by
  unfold callerDo
  split <;> exact .next _

theorem callerFenceDo_goesOn (kind : Nat) : GoesOn (callerFenceDo kind s) := by
  unfold callerFenceDo
  split <;> exact .next _

theorem callerWrite_goesOn (ea : Caller → DWord) (len : Nat) (go : Nat → Nat → Res → State → State) :
    GoesOn (callerWrite ea len go s) := by
  simp only [callerWrite]
  repeat' first | with_reducible exact .next _ | split

theorem csrAct_goesOn (addr : Nat) (op : CsrOp) (rd : XReg) (src : CsrSrc)
    (put : State → Res → Caller → DWord → Option Caller) : GoesOn (csrAct addr op rd src put s) := by
  unfold csrAct
  split <;> exact .next _

/-! Meanings that choose one of these forms. -/

theorem execMovs_goesOn (d : Reg) (idx : BitVec 6) : GoesOn (execMovs d idx s) := by
  unfold execMovs
  split
  · exact .next _
  · exact lanes_goesOn _ _ _ _

theorem execRet_goesOn (p : PReg) (sense : BitVec 1) (aw : BitVec 8) : GoesOn (execRet p sense aw s) := by
  unfold execRet
  split
  · exact trailer_goesOn _ _ _ _
  · exact .next _

theorem execHomeStore_goesOn (src : StoreSource) : GoesOn (execHomeStore src s) := by
  cases src with
  | access flight =>
    unfold execHomeStore
    exact onFlight_goesOn _ _ _
  | host pa data =>
    unfold execHomeStore
    dsimp only
    split <;> exact .next _

theorem execCallerInstruction_goesOn (c : Bool) (op : RvOp) : GoesOn (execCallerInstruction c op s) := by
  unfold execCallerInstruction
  split
  · exact .next _
  · exact callerDo_goesOn _ _

theorem execCallerStore_goesOn (c : Bool) (width : StoreWidth) (rs1 rs2 : XReg) (imm : BitVec 12) :
    GoesOn (execCallerStore c width rs1 rs2 imm s) := by
  unfold execCallerStore
  exact callerWrite_goesOn _ _ _ _

/-! Writes of the device windows, each the meaning of its register (R385, R431). -/

theorem execDoorbellWrite_goesOn (q : Nat) (tail : Word) : GoesOn (execDoorbellWrite q tail s) := by
  unfold execDoorbellWrite
  split
  · exact .next _
  · exact .ite (.next _) (.next _)

theorem execFaultrespWrite_goesOn (v : DWord) : GoesOn (execFaultrespWrite v s) := by
  unfold execFaultrespWrite
  refine .ite (.next _) ?_
  split <;> exact .next _

theorem execShootgoWrite_goesOn (v : DWord) : GoesOn (execShootgoWrite v s) := .ite (.next _) (.ite (.next _) (.next _))

theorem execFaultheadWrite_goesOn (p : Nat) (v : Word) : GoesOn (execFaultheadWrite p v s) := .ite (.next _) (.next _)

theorem execPairctlRetrain_goesOn (v : DWord) : GoesOn (execPairctlRetrain v s) := .ite (.next _) (.next _)

theorem execPlimitWrite_goesOn (v : DWord) : GoesOn (execPlimitWrite v s) := .ite (.next _) (.next _)

theorem execSnapgoWrite_goesOn (v : DWord) : GoesOn (execSnapgoWrite v s) := .ite (.next _) (.next _)

theorem execSnapstatWrite_goesOn (v : DWord) : GoesOn (execSnapstatWrite v s) := .ite (.next _) (.next _)

theorem execManagementPoolWrite_goesOn (core off : Nat) (data : DWord) : GoesOn (execManagementPoolWrite core off data s) :=
  .ite (.next _) (.ite (.next _) (.ite (.next _) (.next _)))

theorem dscWrite_goesOn (management : Bool) (off : Nat) (v : DWord) : GoesOn (dscWrite management off v s) :=
  .ite (.next _) <| .ite (.ite (.next _) (.next _)) <| .ite (execDoorbellWrite_goesOn ..) <|
    .ite (execFaultrespWrite_goesOn ..) <| .ite (.next _) <| .ite (.next _) <| .ite (.next _) <|
    .ite (execShootgoWrite_goesOn ..) <| .ite (execFaultheadWrite_goesOn ..) <| .ite (.ite (.next _) (.next _)) <|
    .ite (.next _) <| .ite (.ite (.next _) (.next _)) <| .ite (execPairctlRetrain_goesOn ..) (.next _)

theorem deviceWrite_goesOn (management : Bool) (off : Nat) (v : DWord) : GoesOn (deviceWrite management off v s) :=
  .ite (dscWrite_goesOn ..) <| .ite (.next _) <| .ite (execPlimitWrite_goesOn ..) <| .ite (.next _) <|
    .ite (execSnapgoWrite_goesOn ..) <| .ite (execSnapstatWrite_goesOn ..) <| .ite (.next _) <|
    .ite (execManagementPoolWrite_goesOn ..) (.next _)

theorem execRegisterWrite_goesOn (target : RegWrite) : GoesOn (execRegisterWrite target s) := by
  cases target with
  | csr op addr rd src =>
    unfold execRegisterWrite
    exact csrAct_goesOn _ _ _ _ _ _
  | device management off value => exact deviceWrite_goesOn _ _ _ _
  | half management off value =>
    unfold execRegisterWrite halfWrite
    dsimp only
    split
    · exact deviceWrite_goesOn ..
    · exact .ite (deviceWrite_goesOn ..) (.next _)

end

theorem exec_goesOn (i : Instr) (s : State) : GoesOn (exec i s) := by
  unfold exec
  cases i with
  | add | sub | and | or | xor | andn | sll | srl | sra | rol | min | max | minu | maxu | mul | mulh | mulhu | adds | subs
  | clz | ctz | popc | brev | addD | subD | mulWD | muluWD | addi | andi | ori | xori | muli | slli | srli | srai | roli | lui
  | cmpI32 | cmpF32 | cmpF64 | cmpI64 | cmpi | sel | pand | por | pxor | pnot | p2g | g2p | fadd | fsub | fmul | fmin | fmax
  | fabs | fneg | fsgn | fcls | fflr | fceil | frndn | dadd | dsub | dmul | dmin | dmax | dabs | dneg | dsgn | dcls | dflr
  | dceil | drndn | add2 | sub2 | mul2 | min2 | max2 | add2Bf | sub2Bf | mul2Bf | min2Bf | max2Bf | ffma | ffms | dfma | dfms
  | hfma | hfmaBf | f2i | f2u | i2f | u2f | d2f | f2d | d2i | i2d | f2h | h2f | f2bf | bf2f | d2l | l2d | f2h2 | rcp | rsq
  | log2 | exp2 | sinr | cosr | drcp | drsq | pke4 | pke5 | upe4 | upe5 | pkb4 | upb4 | bfe | bfi | nop | trap | ebrk | fstat
  | setrm | mov16 | add16 | sub16 | and16 | or16 | xor16 | sll16 | srl16 | sra16 | addi16 | mul16 | fadd16 | fsub16 | fmul16
  | fmin16 | fmax16 | linkr | quit | yield => exact lanes_goesOn _ _ _ _
  | voteall | voteany | ballot | rfadd | rfmin | rfmax | sadd | saddx | sfadd | rdadd | shfl | rotl | bfly | bcast | radd
  | rmin | rmax | rminu | rmaxu | rand | ror | rxor => exact setTurn_goesOn _ _ _ _
  | xclr | xadd | xmad | xrnd | xrndd => exact xacTurn_goesOn _ _ _ _ _
  | icount | iwrite | uwrite | mwrite | ld | st | acasW | aaddD | aswapD | acasD | afaddD | fenceFull | fenceAcq | fenceRel
  | fenceRsc | cpost | ccancel | gpost | gstat | qinit | qpush | qpop | qpushn | qpopn | qcount | spawn | sendw | recvw | sign
  | cvwait | lvarr | lvwait | lvsync | qjoin | csig | waitev | tpost | hcount | tcfg | tcancel | mint | aaddW | aandW | aorW
  | axorW | aminW | amaxW | aminuW | amaxuW | aswapW | afaddW | accz | accld | accst | wbld | skset | mma =>
    exact turn_goesOn _ _ _ _ _
  | next | br | jmp | call | run | stop | farOffset | farRegister => exact trailer_goesOn _ _ _ _
  | nfetch | push | pop | emit | handoff | walkEnd | walkBr | walkJmp | unloadedWalkerSlot => exact walk_goesOn _ _
  | ndec | box8 | tri | split | kcmp | dist | child | kbest => exact walkTry_goesOn _ _
  | movi | walkMov | walkAdd | walkSub | walkCmpI32 | walkCmpF32 => exact walkAlu_goesOn _ _ _
  | walkFadd | walkFmul | walkFmin | walkFmax => exact walkFp_goesOn _ _ _ _ _
  | figCall | figWait | figSync | figSetw | figAlloc | figRdreg | figWrreg | figResume | figMbox | figEvent | figLaunch
  | figInbox | figReplay => exact xfig_goesOn _ _ _
  | longLatencyResult | storeAck | owningPortLoad | owningPortStore | owningPortAtomic | tluTranslation | homeRead | homeAtomic
  | cacheFillArrival => exact onFlight_goesOn _ _ _
  | mmaPerform | acczPerform | accldPerform | accstPerform | wbldPerform | sksetPerform => exact onArray_goesOn _ _ _
  | gteProbe => exact gteIndexed_goesOn _ _ _
  | gteGather | gteScatter | gteSadd | gteSfadd | gteSmin | gteSmax => exact gteElement_goesOn _ _ _ _ _
  | handlerReturn | callerEnd => exact callerDo_goesOn _ _
  | callerFence | callerFenceI => exact callerFenceDo_goesOn _ _
  | callerAmo | callerSc => exact callerWrite_goesOn _ _ _ _
  | xfgEventsWrite | xfgFhandlerWrite | xfgFsupWrite => exact csrAct_goesOn _ _ _ _ _ _
  | microthreadInitComplete | deferredFault | budgetRefill | spawnArrival | bounceArrival | intstatClear | pcfgWrite
  | thermalStop | thermalTrip | rtcExtend | rtcAttestationReport | rtcReadBootstat | rtcRaiseSvn | rtcExtendMr3
  | debugSnapshotTrigger | thermalResume | powerLoss | rtcUnknownRequest => exact .next _
  | movs => exact execMovs_goesOn ..
  | ret => exact execRet_goesOn ..
  | homeStore => exact execHomeStore_goesOn ..
  | callerStore => exact execCallerStore_goesOn ..
  | callerInstruction => exact execCallerInstruction_goesOn ..
  | doorbellWrite => exact execDoorbellWrite_goesOn ..
  | faultrespWrite => exact execFaultrespWrite_goesOn ..
  | shootgoWrite => exact execShootgoWrite_goesOn ..
  | faultheadWrite => exact execFaultheadWrite_goesOn ..
  | pairctlRetrain => exact execPairctlRetrain_goesOn ..
  | plimitWrite => exact execPlimitWrite_goesOn ..
  | snapgoWrite => exact execSnapgoWrite_goesOn ..
  | snapstatWrite => exact execSnapstatWrite_goesOn ..
  | managementPoolWrite => exact execManagementPoolWrite_goesOn ..
  | registerWrite => exact execRegisterWrite_goesOn ..
  -- No shared form: the branches of each of the meanings below all end in a next state.
  | hpop | linkw | reservedEncoding | writeThroughAck | wakeMessage | eventSignal | joinPass | signalEntryPerform | quitRetire
  | levelArrival | levelSummons | levelCompletion | wordArrival | storeFifoExit | rotationSlotFill | codeFetchArrival =>
    dsimp only [execHpop, execLinkw, execReservedEncoding, execWriteThroughAck, execWakeMessage, execEventSignal, execJoinPass,
      execSignalEntryPerform, execQuitRetire, execLevelArrival, execLevelSummons, execLevelCompletion, execWordArrival,
      execStoreFifoExit, execRotationSlotFill, execCodeFetchArrival]
    repeat' first | with_reducible exact .next _ | split
  | copyStart | copyElement | copyEnd | gteRequestStart | gteNinv | gteRequestEnd | queryAdmission | queryDone | hitAppend
  | tcfgPerform | nodeFetchArrival =>
    dsimp only [execCopyStart, execCopyElement, execCopyEnd, execGteRequestStart, execGteNinv, execGteRequestEnd,
      execQueryAdmission, execQueryDone, execHitAppend, execTcfgPerform, execNodeFetchArrival]
    repeat' first | with_reducible exact .next _ | split
  | hackArrival | hitArrival | hendArrival | hcanArrival | hqArrival | subqueryAdmission =>
    dsimp only [execHackArrival, execHitArrival, execHendArrival, execHcanArrival, execHqArrival, execSubqueryAdmission]
    repeat' first | with_reducible exact .next _ | split
  | xfigStallComplete | callerLoad | callerLr | eventInterrupt | callerException | preemptionRequest | corePark | coreReset
  | contextSave | contextResume | faultMessagePost =>
    dsimp only [execXfigStallComplete, execCallerLoad, execCallerLr, execEventInterrupt, execCallerException,
      execPreemptionRequest, execCorePark, execCoreReset, execContextSave, execContextResume, execFaultMessagePost]
    repeat' first | with_reducible exact .next _ | split
  | hostQueueTake | dispatchPlacement | resumeDecision | preemptionDecision | forcedResume | terminationSweep | watchdogWindow
  | managementAbort | faultRecordArrival | shootdownDone =>
    dsimp only [execHostQueueTake, execDispatchPlacement, execResumeDecision, execPreemptionDecision, execForcedResume,
      execTerminationSweep, execWatchdogWindow, execManagementAbort, execFaultRecordArrival, execShootdownDone]
    repeat' first | with_reducible exact .next _ | split
  | linkTraining | twinUnsupportedRequest | linkDown | linkResponseTimeout | twinRequestArrival | schedArrival
  | managementPoolRead | moduleReset | powerWindow | clusterPowerGating | clusterPowerRestore | rtcAttestationDone
  | patrolScrub =>
    dsimp only [execLinkTraining, execTwinUnsupportedRequest, execLinkDown, execLinkResponseTimeout, execTwinRequestArrival,
      execSchedArrival, execManagementPoolRead, execModuleReset, execPowerWindow, execClusterPowerGating,
      execClusterPowerRestore, execRtcAttestationDone, execPatrolScrub]
    repeat' first | with_reducible exact .next _ | split

theorem step_goesOn (s : State) : GoesOn (step s) := by
  unfold step
  split
  · exact exec_goesOn _ _
  · exact .next _

end Sys2Proof.Machine

namespace Sys2Proof.Proofs
open Sys2Proof Sys2Proof.Machine

/-- Settles O60: each shared form of a meaning answers a next state whatever it is given to do, every other meaning does in each of
its branches, and a step is one meaning or none. -/
theorem everyInstructionAnswersANextState : Obligations.EveryInstructionAnswersANextState :=
  ⟨exec_goesOn, step_goesOn⟩

end Sys2Proof.Proofs

/-! The management registers: the mailbox of the root-of-trust core, snapshots, the patrol scrub and the device windows. -/

namespace Sys2Proof.Machine

/-! The mailbox of the root-of-trust core (R438). -/

section
variable {s : State} {i : Instr} {who : Sender} {req : RtcReq}

theorem State.rtcRequest_busy (h : s.rtc.running ≠ none) :
    s.rtcRequest who req = { s with rtc := { s.rtc with waiting := s.rtc.waiting ++ [(who, req)] } } := by
  simp only [State.rtcRequest, Option.isSome_iff_ne_none.2 h, if_true]

theorem State.rtcRequest_free (h : s.rtc.running = none) :
    s.rtcRequest who req = { s with rtc := s.rtc.perform who req } := by
  simp [State.rtcRequest, h]

/-- An event that is a mailbox request waits behind the report that runs. -/
theorem Answers.of_waiting_request (he : exec i s = .next (s.rtcRequest who req)) (h : s.rtc.running ≠ none) :
    Answers i s fun t => t = { s with rtc := { s.rtc with waiting := s.rtc.waiting ++ [(who, req)] } } :=
  ⟨_, he, State.rtcRequest_busy h⟩

/-- An event that is a mailbox request is performed where no report runs. -/
theorem Answers.of_request {r : Rtc} (he : exec i s = .next (s.rtcRequest who req)) (hr : s.rtc.perform who req = r)
    (h : s.rtc.running = none) : Answers i s fun t => t = { s with rtc := r } :=
  ⟨_, he, by rw [State.rtcRequest_free h, hr]⟩

/-- Only a report makes later requests wait. -/
theorem Rtc.perform_running {r : Rtc} (h : ∀ x, req ≠ .report x) : (r.perform who req).running = r.running := by
  cases req with
  | report nonce => exact absurd rfl (h nonce)
  | extend | bootstat | raise | extendMr3 | unknown =>
    simp only [Rtc.perform]
    repeat' first | rfl | split

/-- Requests that are no reports are performed one after another. -/
theorem Rtc.drain_append {pre post : List (Sender × RtcReq)} {r : Rtc} (hr : r.running = none)
    (hp : ∀ p ∈ pre, ∀ x, p.2 ≠ .report x) :
    r.drain (pre ++ post) = (pre.foldl (fun (r : Rtc) p => r.perform p.1 p.2) r).drain post ∧
      (pre.foldl (fun (r : Rtc) p => r.perform p.1 p.2) r).running = none := by
  induction pre generalizing r with
  | nil => exact ⟨rfl, hr⟩
  | cons p pre ih =>
    have hq : (r.perform p.1 p.2).running = none := (Rtc.perform_running (hp p List.mem_cons_self)).trans hr
    have := ih hq fun q hq => hp q (List.mem_cons_of_mem _ hq)
    simpa [Rtc.drain, hr] using this

/-- The next report runs, over the measurements as they stand, and the requests behind it wait. -/
theorem Rtc.drain_report {r : Rtc} {x : BitVec 256} {rest : List (Sender × RtcReq)} (hr : r.running = none) :
    r.drain ((who, .report x) :: rest) = { r with running := some (x, r.mr), waiting := rest } := by
  cases rest <;> simp [Rtc.drain, Rtc.perform, hr]

end

/-- The root-of-trust core once the report that ran is signed (R440). -/
def State.reported (s : State) (nonce : BitVec 256) (mr : Vector Line 8) : Rtc :=
  { s.rtc.result 0#8 (BitVec.ofNat 64 s.draw) with
    running := none, reports := s.rtc.reports ++ [s.rtc.signedReport nonce mr] }

theorem exec_attestationDone_idle {s : State} (h : s.rtc.running = none) : exec .rtcAttestationDone s = .next s := by
  change execRtcAttestationDone s = _
  simp only [execRtcAttestationDone, h]

theorem exec_attestationDone {s : State} {nonce : BitVec 256} {mr : Vector Line 8} (h : s.rtc.running = some (nonce, mr)) :
    exec .rtcAttestationDone s =
      .next { s with rtc := (s.reported nonce mr).drain s.rtc.waiting, fresh := s.fresh + 1 } := by
  change execRtcAttestationDone s = _
  simp only [execRtcAttestationDone, h]
  rfl

/-! Snapshots (R443). -/

section
variable {s : State} {k : Nat}

/-- The two sources of a snapshot that are events of their own: SNAPGO and the debug connector. -/
theorem exec_trigger {i : Instr} (hi : (i = .snapgoWrite 1#64 ∧ k = 0) ∨ (i = .debugSnapshotTrigger ∧ k = 3)) :
    exec i s = .next (s.trigger k) := by
  rcases hi with ⟨rfl, rfl⟩ | ⟨rfl, rfl⟩ <;> rfl

theorem State.trigger_unarmed (h : s.watch.arm.getLsbD k = false) : s.trigger k = s := by simp [State.trigger, h]

theorem State.trigger_held (h : s.watch.arm.getLsbD k = true) (hh : s.watch.held = true) :
    s.trigger k = { s with watch := { s.watch with lost := s.watch.lost + 1#16 } } := by simp [State.trigger, h, hh]

theorem State.trigger_latches (h : s.watch.arm.getLsbD k = true) (hh : s.watch.held = false) :
    s.trigger k = { s with
      fresh := s.fresh + 1
      watch := { s.watch with
        held := true, count := s.watch.count + 1#16, late := none, skew := 1, pick := Config.freeNat s.fresh
        snap := some s.blocks } } := by simp [State.trigger, h, hh]

end

/-! The patrol scrub (R441). -/

theorem State.corrects_only (s : State) (pa len : Nat) :
    s.corrects pa len = { s with watch := (s.corrects pa len).watch } ∧
      (s.corrects pa len).watch =
        { s.watch with weak := (s.corrects pa len).watch.weak, corrected := (s.corrects pa len).watch.corrected } := by
  simp only [State.corrects]
  split <;> exact ⟨rfl, rfl⟩

/-- The words that a read meets are corrected, and no others. -/
theorem State.mem_corrects_weak {s : State} {pa len w : Nat} :
    w ∈ (s.corrects pa len).watch.weak ↔ w ∈ s.watch.weak ∧ ¬ (pa / 4 ≤ w ∧ w * 4 < pa + len) := by
  simp only [State.corrects]
  split
  case isTrue h =>
    rw [List.length_eq_zero_iff, List.filter_eq_nil_iff] at h
    exact ⟨fun hw => ⟨hw, by simpa using h w hw⟩, And.left⟩
  case isFalse => simp [not_and_or, -not_and]

theorem State.corrects_onlyCorrects (s : State) (pa len : Nat) : OnlyCorrects s (s.corrects pa len) :=
  ⟨(s.corrects_only pa len).2, fun _ hw => (State.mem_corrects_weak.1 hw).1⟩

/-- The log's newest entry names the block 4, the kind 2, the error's number and the address of the word (R441). -/
theorem State.logError_scrub (s : State) {a : Nat} (ha : a < 2 ^ 37) :
    ∃ e : BitVec 128, (s.logError 4 2 0 a).watch.errLog = (s.watch.errLog ++ [e]).drop (s.watch.errLog.length + 1 - 16) ∧
      e.toNat / 2 ^ 64 = a ∧ e.toNat / 2 ^ 32 % 2 ^ 32 = s.watch.errSeq.toNat ∧ e.toNat / 2 ^ 8 % 2 ^ 8 = 2 := by
  refine ⟨_, rfl, ?_⟩
  have := s.watch.errSeq.isLt
  rw [BitVec.toNat_ofNat]
  omega

/-- A scrub of a word with an uncorrectable error logs it and leaves it. -/
theorem patrolScrub_logs {s : State} {pa : Nat} (h : pa < 2 ^ 37) (hb : s.isBad (pa / 8 * 8) 8 = true) :
    Answers (.patrolScrub pa) s fun t =>
      t = { s with watch := { s.watch with errSeq := s.watch.errSeq + 1#32, errLog := t.watch.errLog } } ∧
      ∃ e : BitVec 128, t.watch.errLog = (s.watch.errLog ++ [e]).drop (s.watch.errLog.length + 1 - 16) ∧
        e.toNat / 2 ^ 64 = pa / 8 * 8 ∧ e.toNat / 2 ^ 32 % 2 ^ 32 = s.watch.errSeq.toNat ∧ e.toNat / 2 ^ 8 % 2 ^ 8 = 2 :=
  ⟨s.logError 4 2 0 (pa / 8 * 8), (if_neg (Nat.not_le.2 h)).trans (if_pos hb), rfl, State.logError_scrub s (by omega)⟩

/-- A scrub of any other word corrects its single-bit errors and no others. -/
theorem patrolScrub_corrects {s : State} {pa : Nat} (h : pa < 2 ^ 37) (hb : s.isBad (pa / 8 * 8) 8 = false) :
    Answers (.patrolScrub pa) s fun t => t = { s with watch := t.watch } ∧ OnlyCorrects s t ∧
      (∀ w ∈ t.watch.weak, w ≠ pa / 8 * 2 ∧ w ≠ pa / 8 * 2 + 1) ∧
      ∀ w ∈ s.watch.weak, w ≠ pa / 8 * 2 → w ≠ pa / 8 * 2 + 1 → w ∈ t.watch.weak := by
  refine ⟨s.corrects (pa / 8 * 8) 8, (if_neg (Nat.not_le.2 h)).trans (if_neg (by simp [hb])),
    (s.corrects_only _ _).1, s.corrects_onlyCorrects _ _, fun w hw => ?_, fun w hw h0 h1 => ?_⟩
  · have := (State.mem_corrects_weak.1 hw).2
    omega
  · exact State.mem_corrects_weak.2 ⟨hw, by omega⟩

/-- A write of 1 to HELD keeps it, a write of 0 arms the trigger again (R443). -/
theorem snapstatWrite_answers (s : State) (v : DWord) : Answers (.snapstatWrite v) s fun t =>
    t = { s with watch := { s.watch with held := v.getLsbD 0 && s.watch.held } } := by
  cases h : v.getLsbD 0
  · exact ⟨_, if_neg (by rw [h]; decide), rfl⟩
  · exact ⟨s, if_pos h, rfl⟩

/-! Writes of the device windows (R385, R431, R448). -/

section
variable {s : State} {m : Bool} {off : Nat} {v : DWord}

theorem exec_deviceWrite : exec (.registerWrite (.device m off v)) s = deviceWrite m off v s := rfl

theorem exec_halfWrite {x : Word} : exec (.registerWrite (.half m off x)) s = halfWrite m off x s := rfl

theorem deviceWrite_low (h : off < 0x10000) : deviceWrite m off v s = dscWrite m off v s := if_pos h

/-- A host hart reaches the DSC window alone. -/
theorem deviceWrite_host (h : 0x10000 ≤ off) : deviceWrite false off v s = .next s :=
  (if_neg (by omega)).trans (if_pos rfl)

theorem deviceWrite_pool (hlo : 0x1000000 ≤ off) (hhi : off < 0x1000000 + 0x400000 * 80) : deviceWrite true off v s =
    execManagementPoolWrite ((off - 0x1000000) / 0x400000) ((off - 0x1000000) % 0x400000) v s :=
  (if_neg (by omega)).trans <| (if_neg (by decide)).trans <| (if_neg (by omega)).trans <| (if_neg (by omega)).trans <|
    (if_neg (by omega)).trans <| (if_neg (by omega)).trans <| (if_neg (by omega)).trans <| if_pos ⟨hlo, hhi⟩

theorem dscWrite_unaligned (h : off % 8 ≠ 0) : dscWrite m off v s = .next s := if_pos h

theorem dscWrite_queue (h : off < 0x400) (h8 : off % 8 = 0) : dscWrite m off v s =
    if m then .next (s.modQueue (off / 16) fun h => h.put (off / 8 % 2) v) else .next s :=
  (if_neg (by omega)).trans (if_pos h)

theorem dscWrite_doorbell (h8 : off % 8 = 0) (hlo : 0x400 ≤ off) (hhi : off < 0x600) :
    dscWrite m off v s = execDoorbellWrite ((off - 0x400) / 8) (v.setWidth 32) s :=
  (if_neg (by omega)).trans <| (if_neg (by omega)).trans <| if_pos hhi

theorem dscWrite_faulthead (h8 : off % 8 = 0) (hlo : 0x830 ≤ off) (hhi : off < 0x870) :
    dscWrite m off v s = execFaultheadWrite ((off - 0x830) / 8) (v.setWidth 32) s :=
  (if_neg (by omega)).trans <| (if_neg (by omega)).trans <| (if_neg (by omega)).trans <| (if_neg (by omega)).trans <|
    (if_neg (by omega)).trans <| (if_neg (by omega)).trans <| (if_neg (by omega)).trans <| (if_neg (by omega)).trans <|
    if_pos ⟨hlo, hhi⟩

theorem dscWrite_pcfg (h8 : off % 8 = 0) (hlo : 0x1000 ≤ off) (hhi : off < 0x1200) : dscWrite m off v s =
    if m then execPcfgWrite ((off - 0x1000) / 64) ((s.part ((off - 0x1000) / 64)).put (off / 8 % 8) v) s else .next s :=
  (if_neg (by omega)).trans <| (if_neg (by omega)).trans <| (if_neg (by omega)).trans <| (if_neg (by omega)).trans <|
    (if_neg (by omega)).trans <| (if_neg (by omega)).trans <| (if_neg (by omega)).trans <| (if_neg (by omega)).trans <|
    (if_neg (by omega)).trans <| (if_neg (by omega)).trans <| (if_neg (by omega)).trans <| if_pos ⟨hlo, hhi⟩

/-- The registers that a host hart may not write (R385, R431). -/
theorem deviceWrite_barred (h : off = 0x870 ∨ (0x1000 ≤ off ∧ off < 0x1200) ∨ off = 0x2008 ∨ 0x10000 ≤ off) :
    deviceWrite false off v s = .next s := by
  rcases h with rfl | ⟨hlo, hhi⟩ | rfl | h
  · rfl
  · rw [deviceWrite_low (by omega)]
    by_cases h8 : off % 8 = 0
    · rw [dscWrite_pcfg h8 hlo hhi]; rfl
    · exact dscWrite_unaligned h8
  · rfl
  · exact deviceWrite_host h

/-- A word of a queue's descriptor is replaced where no reserved bit is set (R9, R385; log 81). -/
theorem HostQ.put_eq (h : HostQ) (word : Nat) (v : DWord) (hw : word < 2) : h.put word v =
    if word = 0 ∧ v &&& 0x00FFFFFFFFFFFFC0#64 = v then { h with ring := v }
    else if word = 1 ∧ v &&& 0x8000003FFFFFFFFF#64 = v then { h with cfg := v }
    else h := by
  obtain rfl | rfl : word = 0 ∨ word = 1 := by omega
  · simp [HostQ.put]
  · simp [HostQ.put]

theorem State.modQueue_queues (s : State) (q k : Nat) (f : HostQ → HostQ) :
    (s.modQueue q f).dsc.queues[k]? = (s.dsc.queues[k]?).map fun h => if k = q then f h else h := by
  simp [State.modQueue, State.modDsc]

/-- A management hart writes a word of one queue's descriptor, and no other queue changes. -/
theorem queueWrite_answers (h : off < 0x400) (h8 : off % 8 = 0) : Answers (.registerWrite (.device true off v)) s fun t =>
    t = { s with dsc := { s.dsc with queues := t.dsc.queues } } ∧
      ∀ q, t.dsc.queues[q]? = (s.dsc.queues[q]?).map fun (h : HostQ) =>
        if q = off / 16 ∧ off / 8 % 2 = 0 ∧ v &&& 0x00FFFFFFFFFFFFC0#64 = v then { h with ring := v }
        else if q = off / 16 ∧ off / 8 % 2 = 1 ∧ v &&& 0x8000003FFFFFFFFF#64 = v then { h with cfg := v }
        else h := by
  refine ⟨_, (deviceWrite_low (by omega)).trans (dscWrite_queue h h8), rfl, fun q => ?_⟩
  rw [State.modQueue_queues]
  congr 1
  funext x
  by_cases hq : q = off / 16
  · simp only [hq, if_true, true_and]
    exact HostQ.put_eq x _ v (by omega)
  · simp only [hq, if_false, false_and]

/-- A 4-byte write of a register that holds its value keeps the other half (log 83). -/
theorem exec_half_held {x : Word} {w : DWord} (h : s.heldWord (off / 8 * 8) = some w) :
    exec (.registerWrite (.half m off x)) s = exec (.registerWrite (.device m (off / 8 * 8)
      (if off % 8 = 4 then x ++ w.setWidth 32 else w.extractLsb' 32 32 ++ x))) s := by
  rw [exec_halfWrite, exec_deviceWrite]
  simp only [halfWrite, h]

/-- A 4-byte write of the low half of a register that acts on a write is an 8-byte write of it (log 83). -/
theorem exec_half_acting {x : Word} (h : s.heldWord (off / 8 * 8) = none) (h8 : off % 8 = 0) :
    exec (.registerWrite (.half m off x)) s = exec (.registerWrite (.device m off (x.setWidth 64))) s := by
  rw [exec_halfWrite, exec_deviceWrite]
  simp only [halfWrite, h, h8, if_true]

end

/-! Reads of the device windows. -/

section
variable {s : State} {m : Bool} {off : Nat}

theorem State.deviceRead_low (h : off < 0x10000) (h8 : off % 8 = 0) : s.deviceRead m off = some (s.dscRead off) := by
  have : off / 8 * 8 = off := by omega
  exact (if_pos h).trans (by rw [this])

theorem State.heldWord_queue (h : off < 0x400) :
    s.heldWord off = (s.dsc.queues[off / 16]?).map fun h => if off / 8 % 2 = 0 then h.ring else h.cfg := if_pos h

theorem State.dscRead_held {w : DWord} (h : s.heldWord off = some w) : s.dscRead off = w := by
  simp only [State.dscRead, h]

/-- No register of the doorbells or the fault heads holds what is written to it. -/
theorem State.heldWord_acting (h : 0x400 ≤ off ∧ off < 0x600 ∨ 0x830 ≤ off ∧ off < 0x870) : s.heldWord off = none :=
  (if_neg (by omega)).trans <| (if_neg (by omega)).trans <| (if_neg (by omega)).trans <| (if_neg (by omega)).trans <|
    (if_neg (by omega)).trans <| (if_neg (by omega)).trans <| (if_neg (by omega)).trans <| if_neg (by omega)

theorem State.dscRead_doorbell {q : Nat} {h : HostQ} (hq : q < 64) (hh : s.dsc.queues[q]? = some h) :
    s.dscRead (0x400 + 8 * q) = h.doorbell := by
  simp only [State.dscRead, State.heldWord_acting (s := s) (off := 0x400 + 8 * q) (by omega)]
  rw [if_pos (by omega), show (0x400 + 8 * q - 0x400) / 8 = q by omega, hh]
  rfl

theorem State.dscRead_faulthead {p : Nat} (hp : p < 8) : s.dscRead (0x830 + 8 * p) = (s.part p).faultHead := by
  simp only [State.dscRead, State.heldWord_acting (s := s) (off := 0x830 + 8 * p) (by omega)]
  rw [if_neg (by omega), if_neg (by omega), if_pos (by omega), show (0x830 + 8 * p - 0x830) / 8 = p by omega]

end

theorem toNat_append_add {m n : Nat} (x : BitVec m) (y : BitVec n) : (x ++ y).toNat = x.toNat * 2 ^ n + y.toNat := by
  rw [BitVec.toNat_append, ← Nat.shiftLeft_add_eq_or_of_lt y.isLt, Nat.shiftLeft_eq]

/-! The words that reads give, as numbers. -/

theorem HostQ.doorbell_eq (h : HostQ) : h.doorbell = BitVec.ofNat 64 (h.head.toNat + 2 ^ 32 * h.tail.toNat) := by
  apply BitVec.eq_of_toNat_eq
  rw [HostQ.doorbell, toNat_append_add, BitVec.toNat_ofNat]
  omega

theorem Dsc.shootStat_eq (d : Dsc) : d.shootStat = BitVec.ofNat 64 ((if d.shootBusy.isSome then 1 else 0) +
    2 ^ 16 * d.shootDone.toNat + 2 ^ 48 * d.shootLost.toNat) := by
  apply BitVec.eq_of_toNat_eq
  rw [Dsc.shootStat, toNat_append_add, toNat_append_add, toNat_append_add, BitVec.toNat_ofNat, BitVec.toNat_ofBool]
  cases d.shootBusy.isSome <;> simp <;> omega

theorem Station.status_eq (t : Station) :
    t.late ++ t.losses ++ ((0#13 : BitVec 13) ++ BitVec.ofBool t.card ++ BitVec.ofBool t.present ++ BitVec.ofBool t.up) =
      BitVec.ofNat 64 ((if t.up then 1 else 0) + (if t.present then 2 else 0) + (if t.card then 4 else 0) +
        2 ^ 16 * t.losses.toNat + 2 ^ 32 * t.late.toNat) := by
  apply BitVec.eq_of_toNat_eq
  simp only [toNat_append_add, BitVec.toNat_ofNat, BitVec.toNat_ofBool]
  cases t.up <;> cases t.present <;> cases t.card <;> simp <;> omega

theorem Watch.status_eq (w : Watch) : (0#16 : BitVec 16) ++ w.lost ++ w.count ++ ((0#15 : BitVec 15) ++ BitVec.ofBool w.held) =
    BitVec.ofNat 64 ((if w.held then 1 else 0) + 2 ^ 16 * w.count.toNat + 2 ^ 32 * w.lost.toNat) := by
  apply BitVec.eq_of_toNat_eq
  simp only [toNat_append_add, BitVec.toNat_ofNat, BitVec.toNat_ofBool]
  cases w.held <;> simp <;> omega

end Sys2Proof.Machine

namespace Sys2Proof.Proofs
open Sys2Proof Sys2Proof.Machine

/-- Settles O50: a mailbox request waits or is performed, and the end of a report performs those that wait up to the next one; a trigger
latches or is lost; a scrub logs or corrects; each register's write and read by the lemma of its place in the windows. -/
theorem managementResults : Obligations.ManagementResults := by
  intro s rtc waits result refused extended
  refine ⟨?_, ?_, ?_, ?_, ?_, ?_, ?_, ?_, ?_, ?_, ?_, ?_, ?_, ?_, ?_, ?_, ?_, ?_, ?_, ?_, ?_, ?_⟩
  · intro who k data
    refine ⟨Answers.of_waiting_request rfl, Answers.of_request rfl ?_⟩
    by_cases h : 4 ≤ k.toNat
    · rw [if_pos h]
      exact if_pos ⟨h, by omega⟩
    · rw [if_neg h]
      exact if_neg fun hk => h hk.1
  · intro who data
    refine ⟨Answers.of_waiting_request rfl, Answers.of_request rfl ?_⟩
    cases who with
    | host => rfl
    | management => cases h : s.rtc.ready <;> simp only [Rtc.perform, h] <;> rfl
  · exact fun who nonce => ⟨Answers.of_waiting_request rfl, Answers.of_request rfl rfl⟩
  · exact fun who => ⟨Answers.of_waiting_request rfl, Answers.of_request rfl rfl⟩
  · refine fun who => ⟨Answers.of_waiting_request rfl, Answers.of_request rfl ?_⟩
    cases who <;> rfl
  · exact fun who code => ⟨Answers.of_waiting_request rfl, Answers.of_request rfl rfl⟩
  · exact fun h => ⟨s, exec_attestationDone_idle h, rfl⟩
  · intro nonce mr h body secret r pre post hw hp q
    have hd := Rtc.drain_append (post := post) (r := s.reported nonce mr) rfl hp
    exact ⟨fun hpost => ⟨_, exec_attestationDone h, by rw [hw, hd.1, hpost]; rfl⟩,
      fun who x rest hpost => ⟨_, exec_attestationDone h, by rw [hw, hd.1, hpost, Rtc.drain_report hd.2]; rfl⟩⟩
  · exact fun i k hi => ⟨fun h => ⟨_, exec_trigger hi, State.trigger_unarmed h⟩,
      fun h hh => ⟨_, exec_trigger hi, State.trigger_held h hh⟩, fun h hh => ⟨_, exec_trigger hi, State.trigger_latches h hh⟩⟩
  · exact fun w block => rfl
  · exact fun v => ⟨fun hv => ⟨_, if_neg hv, rfl⟩, snapstatWrite_answers s v⟩
  · intro pa
    exact ⟨fun h => ⟨s, if_pos h, rfl⟩, patrolScrub_logs, patrolScrub_corrects⟩
  · -- Writes of 8 bytes, in the order of the statement; those of 4 bytes last.
    intro management off v w low
    refine ⟨?_, ?_, ?_, ?_, ?_, ?_, ?_, ?_, ?_, ?_, ?_, ?_, ?_, ?_, ?_, ?_, ?_, ?_, ?_, ?_, ?_, ?_⟩
    · rintro h h8 rfl
      exact queueWrite_answers h h8
    · rintro h rfl
      by_cases h8 : off % 8 = 0
      · exact ⟨s, (deviceWrite_low (by omega)).trans (dscWrite_queue h h8), rfl⟩
      · exact ⟨s, (deviceWrite_low (by omega)).trans (dscWrite_unaligned h8), rfl⟩
    · exact fun h h8 => ⟨s, (deviceWrite_low h).trans (dscWrite_unaligned h8), rfl⟩
    · exact fun h8 hlo hhi => (deviceWrite_low (by omega)).trans (dscWrite_doorbell h8 hlo hhi)
    · rintro rfl; rfl
    · rintro rfl; exact ⟨_, rfl, rfl⟩
    · rintro rfl; exact ⟨_, rfl, rfl⟩
    · rintro rfl; exact ⟨_, rfl, rfl⟩
    · rintro rfl; rfl
    · exact fun h8 hlo hhi => (deviceWrite_low (by omega)).trans (dscWrite_faulthead h8 hlo hhi)
    · rintro rfl rfl; exact ⟨_, rfl, rfl⟩
    · rintro rfl; rfl
    · rintro h8 hlo hhi rfl
      exact (deviceWrite_low (by omega)).trans (dscWrite_pcfg h8 hlo hhi)
    · rintro h rfl
      exact ⟨s, deviceWrite_barred h, rfl⟩
    · rintro (rfl | rfl | rfl | rfl | rfl) <;> cases management <;> exact ⟨s, rfl, rfl⟩
    · rintro rfl rfl; rfl
    · rintro rfl rfl; rfl
    · rintro rfl rfl; exact ⟨_, rfl, rfl⟩
    · rintro rfl rfl; rfl
    · rintro rfl rfl; rfl
    · rintro hlo hhi rfl
      exact deviceWrite_pool hlo hhi
    · intro x half held
      refine ⟨?_, ?_, ?_, ?_, ?_⟩
      · exact fun h => exec_half_held (by rw [h]; rfl)
      · exact fun h => exec_half_held (by rw [h]; rfl)
      · exact fun h => exec_half_held (by rw [h]; rfl)
      · exact fun h => exec_half_held (by rw [h]; rfl)
      · rintro (rfl | rfl | rfl | rfl | rfl) <;> exact exec_half_acting rfl rfl
  · -- Reads: the queues' registers, then the others.
    intro management q h hq hqueue
    refine ⟨?_, ?_, ?_⟩
    · rw [State.deviceRead_low (by omega) (by omega), State.dscRead_doorbell hq hqueue, HostQ.doorbell_eq]
    · rw [State.deviceRead_low (by omega) (by omega), State.dscRead_held (w := h.ring)]
      rw [State.heldWord_queue (by omega), show 16 * q / 16 = q by omega, hqueue]
      exact congrArg some (if_pos (by omega))
    · rw [State.deviceRead_low (by omega) (by omega), State.dscRead_held (w := h.cfg)]
      rw [State.heldWord_queue (by omega), show (16 * q + 8) / 16 = q by omega, hqueue]
      exact congrArg some (if_neg (by omega))
  · intro management
    refine ⟨?_, fun p hp => ?_, ?_, ?_, ?_⟩
    · exact (State.deviceRead_low (by decide) (by decide)).trans (congrArg some s.dsc.shootStat_eq)
    · rw [State.deviceRead_low (by omega) (by omega), State.dscRead_faulthead hp]; rfl
    · exact State.deviceRead_low (by decide) (by decide)
    · exact (State.deviceRead_low (by decide) (by decide)).trans (congrArg some s.station.status_eq)
    · rw [Bool.eq_iff_iff]; simp [Dsc.intLine]
  · rfl
  · rfl
  · rfl
  · rfl
  · rfl
  · exact congrArg some s.watch.status_eq
  · exact fun off h => (if_neg (by omega)).trans (if_pos rfl)

end Sys2Proof.Proofs

/-! The state of reset (R25, R62, R350, R433, R438). -/

namespace Sys2Proof.Machine

theorem State.reset_core (n : Nat) : State.reset.core n = Core.reset := by
  simp only [State.reset, State.core, Vector.getElem?_replicate]
  split <;> rfl

theorem State.reset_cluster (n : Nat) : State.reset.cluster n = Cluster.reset := by
  simp only [State.reset, State.cluster, Vector.getElem?_replicate]
  split <;> rfl

/-- Memory without cells reads as 0 (log 1). -/
theorem natOfBytes_readN_nil (a k : Nat) : natOfBytes (Memory.readN [] a k) = 0 := by
  induction k generalizing a with
  | zero => rfl
  | succ k ih => simp [Memory.readN, natOfBytes, Memory.read1, ih]

theorem State.reset_part (p : Nat) : State.reset.part p = ⟨0#512, 0#32, 0, 0, 0⟩ :=
  List.getD_eq_getElem?_getD.trans (List.getElem?_getD_replicate_default_eq _ _ _)

/-- A partition whose record is 0 is not enabled. -/
theorem Part.enabled_zero : Part.enabled ⟨0#512, 0#32, 0, 0, 0⟩ = false := by
  rw [Part.enabled, Part.field, getLine, BitVec.toNat_zero, Nat.zero_div, Nat.zero_mod, Nat.zero_testBit]

theorem State.reset_sound : State.reset.Sound :=
  ⟨rfl, by decide, by decide, rfl, fun _ h => absurd h List.not_mem_nil⟩

end Sys2Proof.Machine

namespace Sys2Proof.Proofs
open Sys2Proof Sys2Proof.Machine

/-- Settles O58: each part of the state is read at `State.reset`. -/
theorem resetState : Obligations.ResetState := by
  refine ⟨⟨fun n slot => ?_, rfl, rfl, natOfBytes_readN_nil, rfl, rfl, rfl, rfl, fun i => ?_, fun cl _ => ?_, fun p => ?_, rfl⟩,
    State.reset_sound⟩
  · rw [State.reset_core]; rfl
  · exact Vector.getElem_replicate _
  · rw [State.reset_cluster]; exact ⟨rfl, rfl⟩
  · rw [State.reset_part, Part.enabled_zero]

end Sys2Proof.Proofs

/-! A micro-thread's turns: the rules of the operations that act on one core, on its accesses in flight and on its FIFO. -/

namespace Sys2Proof.Machine

/-! Tables. -/

section
variable {α : Type}

/-- Of two entries set under one key the second stands. -/
@[simp] theorem Tbl.set_set (t : Tbl α) (k : Nat) (a b : α) : Tbl.set (Tbl.set t k a) k b = Tbl.set t k b := by
  induction t with
  | nil => simp [Tbl.set]
  | cons p r ih =>
    obtain ⟨j, c⟩ := p
    by_cases hlt : k < j
    · simp [Tbl.set, hlt]
    · by_cases he : j = k
      · subst he; simp [Tbl.set]
      · simp [Tbl.set, hlt, he, ih]

theorem Tbl.get?_modify (t : Tbl α) (k j : Nat) (f : α → α) :
    Tbl.get? (Tbl.modify t k f) j = (Tbl.get? t j).map fun a => if j = k then f a else a := by
  by_cases h : j = k
  · subst h; simp
  · simp [Tbl.get?_modify_other _ _ _ _ h, h]

/-- An entry of a table is under its key. -/
theorem Tbl.mem_of_get? {t : Tbl α} {k : Nat} {a : α} (h : Tbl.get? t k = some a) : (k, a) ∈ t := by
  induction t with
  | nil => cases h
  | cons p r ih =>
    obtain ⟨j, b⟩ := p
    simp only [Tbl.get?] at h
    split at h
    · obtain rfl := Option.some.inj h
      subst_vars
      exact List.mem_cons_self
    · exact List.mem_cons_of_mem _ (ih h)

/-- An entry of another key stays when one is set. -/
theorem Tbl.mem_set_of_ne {t : Tbl α} {k : Nat} {a : α} {p : Nat × α} (hp : p ∈ t) (hk : p.1 ≠ k) : p ∈ Tbl.set t k a := by
  induction t with
  | nil => cases hp
  | cons q r ih =>
    obtain ⟨j, b⟩ := q
    simp only [Tbl.set]
    split
    · exact List.mem_cons_of_mem _ hp
    · split
      · rcases List.mem_cons.1 hp with rfl | hp
        · exact absurd ‹_› hk
        · exact List.mem_cons_of_mem _ hp
      · rcases List.mem_cons.1 hp with rfl | hp
        · exact List.mem_cons_self
        · exact List.mem_cons_of_mem _ (ih hp)

/-- In a table with rising keys the entry under a key is the one that stands there. -/
theorem Tbl.get?_of_mem {t : Tbl α} (hs : Tbl.sorted t = true) {k : Nat} {a : α} (h : (k, a) ∈ t) : Tbl.get? t k = some a := by
  induction t with
  | nil => cases h
  | cons p r ih =>
    obtain ⟨j, b⟩ := p
    rcases List.mem_cons.1 h with e | h
    · cases e; simp [Tbl.get?]
    · have hj : j < k := Tbl.sorted_all j b r hs _ h
      simp only [Tbl.get?, if_neg (Nat.ne_of_lt hj)]
      exact ih ((Tbl.sorted_cons j b r).1 hs).2 h

end

/-! The accesses in flight replaced: the one part of a turn beside the cores. -/

/-- The state with other accesses in flight, and the next number. -/
def State.flown (s : State) (fl : Tbl Flight) (k : Nat) : State := { s with flights := fl, nextId := k }

section
variable (s : State) (fl fl' : Tbl Flight) (k k' n : Nat) (f : Core → Core)

@[simp] theorem State.flown_core : (s.flown fl k).core n = s.core n := rfl
@[simp] theorem State.flown_flights : (s.flown fl k).flights = fl := rfl
@[simp] theorem State.flown_nextId : (s.flown fl k).nextId = k := rfl
@[simp] theorem State.flown_flown : (s.flown fl k).flown fl' k' = s.flown fl' k' := rfl
@[simp] theorem State.flown_self : s.flown s.flights s.nextId = s := rfl

@[simp] theorem State.flown_modCore : (s.flown fl k).modCore n f = (s.modCore n f).flown fl k := by
  unfold State.modCore State.flown; dsimp only; split <;> rfl

@[simp] theorem State.flown_same : (s.modCore n f).flown s.flights s.nextId = s.modCore n f := by
  conv_rhs => rw [State.modCore_eq]
  conv_lhs => rw [State.modCore_eq]
  rfl

theorem State.addFlight_eq (f : Flight) :
    s.addFlight f = s.flown (Tbl.set s.flights s.nextId { f with sent := s.nextId }) (s.nextId + 1) := rfl

end

/-- A change of a core by parts: what the parts of the changed core are. -/
theorem State.core_modCore (s : State) (n x : Nat) (f : Core → Core) (h : n < 80) :
    (s.modCore n f).core x = if x = n then f (s.core n) else s.core x := by
  by_cases hx : x = n
  · subst hx; simp [State.core_modCore_self s x f h]
  · simp [hx, State.core_modCore_other s n x f hx]

/-- A change of a core that leaves it as it is changes nothing. -/
theorem State.modCore_congr (s : State) (n : Nat) {f g : Core → Core} (h : f (s.core n) = g (s.core n)) :
    s.modCore n f = s.modCore n g := by
  by_cases hn : n < 80
  · simp only [State.modCore, State.cores_at s n hn, h]
  · rw [State.modCore_out s n f (by omega), State.modCore_out s n g (by omega)]

theorem State.modCore_id (s : State) (n : Nat) {f : Core → Core} (h : f (s.core n) = s.core n) : s.modCore n f = s := by
  refine (State.modCore_congr s n (g := id) h).trans ?_
  unfold State.modCore
  split
  case h_1 c hc =>
    obtain ⟨hn, rfl⟩ := Vector.getElem?_eq_some_iff.1 hc
    have : s.cores.setIfInBounds n s.cores[n] = s.cores := Vector.ext fun i hi => by
      simp only [Vector.getElem_setIfInBounds]
      split
      · subst_vars; rfl
      · rfl
    rw [id, this]
  case h_2 => rfl

/-- A change made or not is one change. -/
theorem State.ite_modCore (s : State) (n : Nat) (f : Core → Core) (p : Prop) [Decidable p] :
    (if p then s.modCore n f else s) = s.modCore n fun c => if p then f c else c := by
  split
  · rfl
  · exact (State.modCore_id s n rfl).symm

theorem State.ite_flown (s : State) (n : Nat) (f : Core → Core) (fl : Tbl Flight) (k : Nat) (p : Prop) [Decidable p] :
    (if p then (s.modCore n f).flown fl k else s) =
      (s.modCore n fun c => if p then f c else c).flown (if p then fl else s.flights) (if p then k else s.nextId) := by
  split
  · rfl
  · rw [State.flown_same, State.modCore_id s n rfl]

/-! The micro-threads of a core, through `Core.micro` and `State.microAt`. -/

theorem State.micro_of_microAt {s : State} {n slot : Nat} {m : Micro} (h : s.microAt n slot = some m) :
    (s.core n).micro slot = m := by
  simp only [State.microAt] at h
  simp [Core.micro, h]

theorem Core.modMicro_eq (c : Core) (slot : Nat) (f : Micro → Micro) :
    c.modMicro slot f = { c with slots := Tbl.set c.slots slot (f (c.micro slot)) } := rfl

@[simp] theorem Core.micro_mk_set (c : Core) (slot : Nat) (m : Micro) :
    Core.micro { c with slots := Tbl.set c.slots slot m } slot = m := by simp [Core.micro]

/-- A stamped micro-thread, and the next moment (R38). -/
theorem Core.stamp_eq (c : Core) (slot : Nat) :
    c.stamp slot = { c with slots := Tbl.set c.slots slot { c.micro slot with since := c.eligible }, eligible := c.eligible + 1 } :=
  rfl

/-! Frames: nothing but the turn of one micro-thread. -/

section
variable {n slot : Nat} {s t u : State}

theorem OnlyTurn.modCore (hn : n < 80) {f : Core → Core}
    (hm : ∀ x, x ≠ slot → Tbl.get? (f (s.core n)).slots x = Tbl.get? (s.core n).slots x)
    (hc : f (s.core n) = { s.core n with
      slots := (f (s.core n)).slots, groups := (f (s.core n)).groups, res := (f (s.core n)).res
      eligible := (f (s.core n)).eligible, fifo := (f (s.core n)).fifo, mx := (f (s.core n)).mx }) (fl : Tbl Flight) (k : Nat) :
    OnlyTurn n slot s ((s.modCore n f).flown fl k) := by
  refine ⟨?_, fun x hx => State.core_modCore_other s n x f hx, fun x hx => ?_, ?_⟩
  · conv_lhs => rw [State.modCore_eq]
    rfl
  · simp only [State.microAt, State.flown_core, State.core_modCore_self s n f hn, hm x hx]
  · simpa only [State.flown_core, State.core_modCore_self s n f hn] using hc

/-- A launch's change of itself, beside charges: a table changed under one key. -/
theorem LaunchBecomes.of_modify {l : Nat} {f : Res → Res}
    (h : (t.core n).res = Tbl.modify (s.core n).res l f) : LaunchBecomes n l f s t := by
  intro x
  simp only [State.res?, h, Tbl.get?_modify]
  cases Tbl.get? (s.core n).res x with
  | none => rfl
  | some r =>
    by_cases hx : x = l <;> simp [hx]

theorem OnlyCharged.of_res (h : (t.core n).res = (s.core n).res) : OnlyCharged n s t := by
  intro x
  simp only [State.res?, h]
  cases Tbl.get? (s.core n).res x <;> simp

end

end Sys2Proof.Machine

/-! The end of a figure for the one member of a group (R27, R29, R117-R120, R260). -/

namespace Sys2Proof.Machine

/-- What a trailer's decision makes of a micro-thread. -/
def Micro.went (m : Micro) (g : Group) (go : Go) : Micro :=
  { m with
    mode := go.mode, pc := go.pc.getD m.pc
    csp := if go.push then m.csp + 8#32 else if go.pop then m.csp - 8#32 else m.csp
    from_ := go.pc.map fun _ => (g.fig, g.off) }

/-- The push of a CALL, as it enters the FIFO. -/
def Group.pushOf (g : Group) (s : State) (n slot : Nat) (m : Micro) (next : Word) : Flight :=
  { g.flight s n slot m false 0#6 0 (ownArray n m.csp.toNat) (.store 8 2#2 (next.setWidth 128)) .fifo with sent := s.nextId }

/-- The accesses in flight once a trailer has pushed, or not. -/
def State.pushed (s : State) (n : Nat) (g : Group) (slot : Nat) (m : Micro) (next : Word) (push : Bool) : Tbl Flight :=
  if push then Tbl.set s.flights s.nextId (g.pushOf s n slot m next) else s.flights

/-- A core once a micro-thread has gone on; one that leaves called mode with no figure queued is newly eligible (R38). -/
def Core.goneOn (c : Core) (g : Group) (slot : Nat) (go : Go) (ids : List Nat) : Core :=
  let m := c.micro slot
  { c with
    slots := Tbl.set c.slots slot { m.went g go with since := if m.mode = .called ∧ m.callq = [] ∧ go.mode = .free then c.eligible else m.since }
    fifo := c.fifo ++ ids
    eligible := if m.mode = .called ∧ m.callq = [] ∧ go.mode = .free then c.eligible + 1 else c.eligible }

section
variable {s : State} {n k slot : Nat} {g : Group} {m : Micro} {r : Res} {go : Go} {next : Word} {aw : BitVec 8}

@[simp] theorem Group.flight_core (ll : Bool) (d : Reg) (dn : Nat) (ea : DWord) (op : Op) (st : Stage) :
    (g.flight s n slot m ll d dn ea op st).core = n := rfl

theorem State.goOn_eq (hm : (s.core n).micro slot = m) (hq : m.quitting = false) :
    s.goOn n g slot m next go =
      (s.modCore n fun c => c.goneOn g slot go (if go.push then [s.nextId] else [])).flown
      (s.pushed n g slot m next go.push) (s.nextId + if go.push then 1 else 0) := by
  subst hm
  simp only [State.goOn, hq, Bool.false_eq_true, if_false, State.ite_modCore, State.modMicro]
  simp only [State.addFifo, Group.flight_core, State.addFlight_eq, State.flown_modCore, State.ite_flown, State.modCore_modCore]
  refine congr (congrArg₂ State.flown (State.modCore_congr _ _ ?_) rfl) (by split <;> rfl)
  generalize s.core n = c at *
  simp only [Core.goneOn, Core.modMicro_eq, Core.stamp_eq, Core.micro]
  by_cases he : ((Tbl.get? c.slots slot).getD Micro.blank).mode = .called ∧
      ((Tbl.get? c.slots slot).getD Micro.blank).callq = [] ∧ go.mode = .free
  · cases hp : go.push <;> simp [hp, he, Micro.went]
  · cases hp : go.push <;> simp [hp, he, Micro.went]

@[simp] theorem Core.goneOn_micro (c : Core) (ids : List Nat) : (c.goneOn g slot go ids).micro slot =
    { (c.micro slot).went g go with
      since := if (c.micro slot).mode = .called ∧ (c.micro slot).callq = [] ∧ go.mode = .free then c.eligible
               else (c.micro slot).since } := by
  simp [Core.micro, Core.goneOn]

/-! The end of a figure for one micro-thread (R120). -/

/-- An access whose figure ends for a micro-thread: its trailer's mask says whether its result is awaited (R120). -/
def Flight.closed (f : Flight) (n slot : Nat) (gen : Half) (aw : BitVec 8) : Flight :=
  if f.core == n && f.agent == .micro then
    { f with who := f.who.map fun w =>
        if w.slot == slot && w.gen == gen && w.inFig then
          { w with inFig := false, awaited := decide (f.ll < 8) && aw.getLsbD f.ll }
        else w }
  else f

theorem State.closeFlights_eq (s : State) (n slot : Nat) (gen : Half) (aw : BitVec 8) :
    s.closeFlights n slot gen aw = s.flown (Tbl.mapKV s.flights fun _ f => f.closed n slot gen aw) s.nextId := rfl

/-- A core once a figure has ended for a micro-thread, which then awaits `bits`. -/
def Core.figureEnded (c : Core) (l slot : Nat) (bits : BitVec 8) : Core :=
  (c.modMicro slot fun m => { m with await := bits, pos := none, life := m.modeLife }).modRes l fun r =>
    { r with figures := r.figures + 1 }

@[simp] theorem Core.figureEnded_micro (c : Core) (l slot : Nat) (bits : BitVec 8) : (c.figureEnded l slot bits).micro slot =
    { c.micro slot with await := bits, pos := none, life := (c.micro slot).modeLife } := by
  simp [Core.figureEnded, Core.modRes, Core.modMicro, Core.setMicro, Core.micro]

theorem State.endFigure_eq (s : State) (n l slot : Nat) (aw : BitVec 8) :
    let gen := ((s.core n).micro slot).gen
    s.endFigure n l slot aw = (s.modCore n fun c => c.figureEnded l slot (s.awaitBits n slot gen aw)).flown
      (Tbl.mapKV s.flights fun _ f => f.closed n slot gen aw) s.nextId := by
  simp only [State.endFigure, State.modMicro, State.modRes, State.closeFlights_eq, State.flown_modCore, State.modCore_modCore]
  rfl

/-- An access still owes a micro-thread's figure the result of its long-latency number (R72, R120). -/
def Flight.owes (f : Flight) (n slot : Nat) (gen : Half) (j : Nat) : Prop :=
  f.core = n ∧ f.agent = .micro ∧ f.ll = j ∧ ∃ w ∈ f.who, w.slot = slot ∧ w.gen = gen ∧ w.inFig = true

theorem State.awaitBits_iff (s : State) (n slot : Nat) (gen : Half) (aw : BitVec 8) {j : Nat} (hj : j < 8) :
    (s.awaitBits n slot gen aw).getLsbD j = true ↔ aw.getLsbD j = true ∧ ∃ p ∈ s.flights, p.2.owes n slot gen j := by
  have go (fl : Tbl Flight) (b : BitVec 8) : (fl.foldl (fun b p =>
      if p.2.core == n && p.2.agent == .micro && decide (p.2.ll < 8) &&
          (p.2.who.any fun w => w.slot == slot && w.gen == gen && w.inFig) then b ||| (1#8 <<< p.2.ll)
      else b) b).getLsbD j = true ↔ b.getLsbD j = true ∨ ∃ p ∈ fl, p.2.owes n slot gen j := by
    induction fl generalizing b with
    | nil => simp
    | cons p fl ih =>
      rw [List.foldl_cons, ih]
      simp only [List.exists_mem_cons_iff, ← or_assoc]
      refine or_congr_left ?_
      split
      case isTrue h =>
        simp only [Bool.and_eq_true, beq_iff_eq, decide_eq_true_eq, List.any_eq_true] at h
        obtain ⟨⟨⟨hc, ha⟩, hl⟩, w, hw, ⟨hs, hg⟩, hf⟩ := h
        have : (1#8 <<< p.2.ll).getLsbD j = true ↔ p.2.ll = j := by
          simp [BitVec.getLsbD_shiftLeft, BitVec.getLsbD_one]; omega
        simp only [BitVec.getLsbD_or, Bool.or_eq_true, this]
        exact or_congr_right ⟨fun h => ⟨hc, ha, h, w, hw, hs, hg, hf⟩, fun h => h.2.2.1⟩
      case isFalse h =>
        refine (or_iff_left fun ⟨hc, ha, hl, w, hw, hs, hg, hf⟩ => h ?_).symm
        simp only [Bool.and_eq_true, beq_iff_eq, decide_eq_true_eq, List.any_eq_true]
        exact ⟨⟨⟨hc, ha⟩, by omega⟩, w, hw, ⟨hs, hg⟩, hf⟩
  unfold State.awaitBits
  rw [BitVec.getLsbD_and, Bool.and_eq_true, go]
  simp


/-! The trailer of a group of one member (R117, R177). -/

/-- A micro-thread between figures that nothing keeps waiting stays as it is (R29). -/
theorem Core.refresh_plain {c : Core} (hr : (c.micro slot).rearmed = false) (hb : (c.micro slot).blocked = false)
    (hl : (c.micro slot).life = (c.micro slot).modeLife) : c.refresh slot = c := by
  simp only [Core.refresh, hr, hb, ← hl, Bool.false_and, Bool.false_eq_true, if_false, if_true]
  split
  · rfl
  · split <;> rfl

theorem State.settleMicro_plain (hq : ((s.core n).micro slot).quitting = false) (hy : ((s.core n).micro slot).yielding = false)
    (hr : (s.core n).refresh slot = s.core n) : s.settleMicro n slot = s := by
  simp only [State.settleMicro, hq, hy, Bool.false_and, Bool.false_eq_true, if_false]
  exact State.modCore_id s n hr

/-- A trailer that decides for the one member of its group: what is decided is done, the figure ends, the group ends. -/
theorem trailer_decides {len : Nat} {control : State → Nat → Group → Nat → Micro → Word → Except Flt Go} {u : State}
    (h : s.Alone n k g slot m r) (hc : control s n g slot m (nextFigure g.fig g.off len) = .ok go)
    (hu : s.goOn n g slot m (nextFigure g.fig g.off len) go = u) (hl : ((u.core n).micro slot).life ≠ .faulted) :
    trailer len aw control s = .next (((u.endFigure n g.launch slot aw).modCore n fun c =>
      { c with groups := Tbl.erase c.groups k, eligible := c.eligible + 1 }).settleMicro n slot) := by
  obtain ⟨⟨⟨c, hs⟩, -, hm⟩, hg, -⟩ := h
  have hl : (u.core n).standing g = [slot] := by simp [Core.standing, hg, hl]
  simp only [trailer, hs, State.foldMembers, hg, List.foldl_cons, List.foldl_nil, State.micro_of_microAt hm, hc, bind, Except.bind,
    hu, hl]

/-- A trailer that faults the one member of its group. -/
theorem trailer_faults {len : Nat} {control : State → Nat → Group → Nat → Micro → Word → Except Flt Go} {e : Flt}
    (h : s.Alone n k g slot m r) (hc : control s n g slot m (nextFigure g.fig g.off len) = .error e) :
    trailer len aw control s = .next ((s.faultMember n g len slot (some aw) e).modCore n fun c =>
      { c with groups := Tbl.erase c.groups k, eligible := c.eligible + 1 }) := by
  obtain ⟨⟨⟨c, hs⟩, -, hm⟩, hg, -⟩ := h
  have hn := (State.seat_parts hs).1
  have hl : ((s.faultMember n g len slot (some aw) e).core n).standing g = [] := by
    simp [Core.standing, hg, State.faultMember, State.core_modCore_self _ _ _ hn, Micro.takeFault]
  simp only [trailer, hs, State.foldMembers, hg, List.foldl_cons, List.foldl_nil, State.micro_of_microAt hm, hc, bind, Except.bind,
    hl]

theorem nextFigure_eq (g : Group) (len : Nat) : nextFigure g.fig g.off len = g.nextAt len := by
  simp only [nextFigure, Group.nextAt, Nat.mul_comm]

/-- The accesses in flight once a figure has ended. -/
def State.flightsAfter (s : State) (n : Nat) (g : Group) (slot : Nat) (m : Micro) (len : Nat) (aw : BitVec 8) (push : Bool) :
    Tbl Flight :=
  Tbl.mapKV (s.pushed n g slot m (g.nextAt len) push) fun _ f => f.closed n slot m.gen aw

/-- A core once the trailer of a group's one member has ended its figure. -/
def Core.trailed (c : Core) (k : Nat) (g : Group) (slot : Nat) (go : Go) (ids : List Nat) (bits : BitVec 8) : Core :=
  let c := (c.goneOn g slot go ids).figureEnded g.launch slot bits
  { c with groups := Tbl.erase c.groups k, eligible := c.eligible + 1 }

/-- A micro-thread at the end of its figure, which awaits `bits`. -/
def Micro.trailed (m : Micro) (g : Group) (go : Go) (bits : BitVec 8) (eligible : Nat) : Micro :=
  { m.went g go with
    since := if m.mode = .called ∧ m.callq = [] ∧ go.mode = .free then eligible else m.since
    await := bits, pos := none, life := (m.went g go).modeLife }

section
variable (c : Core) (ids : List Nat) (bits : BitVec 8)

theorem Core.trailed_slot : Tbl.get? (c.trailed k g slot go ids bits).slots slot =
    some ((c.micro slot).trailed g go bits c.eligible) := by
  simp [Core.trailed, Core.figureEnded, Core.modRes, Core.modMicro_eq, Micro.trailed]
  rfl

theorem Core.trailed_other {x : Nat} (h : x ≠ slot) :
    Tbl.get? (c.trailed k g slot go ids bits).slots x = Tbl.get? c.slots x := by
  simp only [Core.trailed, Core.figureEnded, Core.modRes, Core.modMicro_eq, Core.goneOn, Tbl.set_set, Tbl.get?_set_other _ _ _ _ h]

@[simp] theorem Core.trailed_micro :
    (c.trailed k g slot go ids bits).micro slot = (c.micro slot).trailed g go bits c.eligible := by
  simp [Core.micro, Core.trailed_slot]

@[simp] theorem Core.trailed_res : (c.trailed k g slot go ids bits).res =
    Tbl.modify c.res g.launch fun r => { r with figures := r.figures + 1 } := rfl

@[simp] theorem Core.trailed_groups : (c.trailed k g slot go ids bits).groups = Tbl.erase c.groups k := rfl

@[simp] theorem Core.trailed_fifo : (c.trailed k g slot go ids bits).fifo = c.fifo ++ ids := rfl

@[simp] theorem Core.trailed_mx : (c.trailed k g slot go ids bits).mx = c.mx := rfl

end

/-- The end of a figure where nothing makes the micro-thread park, retire or wait (R29): the state it leaves. -/
theorem trailer_ends {len : Nat} {control : State → Nat → Group → Nat → Micro → Word → Except Flt Go}
    (h : s.Alone n k g slot m r) (hp : s.EndsPlainly n k slot m) (hc : control s n g slot m (g.nextAt len) = .ok go) :
    ∃ bits : BitVec 8,
      (∀ j, j < 8 → (bits.getLsbD j = true ↔ aw.getLsbD j = true ∧
        ∃ p ∈ s.pushed n g slot m (g.nextAt len) go.push, p.2.owes n slot m.gen j)) ∧
      trailer len aw control s = .next
        ((s.modCore n fun c => c.trailed k g slot go (if go.push then [s.nextId] else []) bits).flown
          (s.flightsAfter n g slot m len aw go.push) (s.nextId + if go.push then 1 else 0)) := by
  obtain ⟨⟨⟨c, hs⟩, -, hm⟩, -, -⟩ := id h
  have hn := (State.seat_parts hs).1
  have hx := State.micro_of_microAt hm
  obtain ⟨hlife, hquit, hwaits, hyield, hrearmed, -, -⟩ := hp
  have hgo := State.goOn_eq (go := go) (g := g) (next := g.nextAt len) hx hquit
  generalize hu : (s.modCore n _).flown _ _ = u at hgo
  have hcore : u.core n = (s.core n).goneOn g slot go (if go.push then [s.nextId] else []) := by
    rw [← hu, State.flown_core, State.core_modCore_self _ _ _ hn]
  have hflights : u.flights = s.pushed n g slot m (g.nextAt len) go.push := by rw [← hu, State.flown_flights]
  have hgen : ((u.core n).micro slot).gen = m.gen := by rw [hcore, Core.goneOn_micro, hx]; rfl
  refine ⟨u.awaitBits n slot m.gen aw, fun j hj => hflights ▸ u.awaitBits_iff n slot m.gen aw hj, ?_⟩
  refine (trailer_decides h (by rwa [nextFigure_eq]) (by rw [nextFigure_eq, hgo]) ?_).trans (congrArg _ ?_)
  · rw [hcore, Core.goneOn_micro, hx]; exact hlife
  have hend : (u.endFigure n g.launch slot aw).modCore n (fun c =>
      { c with groups := Tbl.erase c.groups k, eligible := c.eligible + 1 }) =
      (s.modCore n fun c => c.trailed k g slot go (if go.push then [s.nextId] else []) (u.awaitBits n slot m.gen aw)).flown
        (s.flightsAfter n g slot m len aw go.push) (s.nextId + if go.push then 1 else 0) := by
    rw [State.endFigure_eq, hgen, hflights]
    generalize u.awaitBits n slot m.gen aw = bits
    simp only [← hu, State.flown_modCore, State.modCore_modCore, State.flown_flown, State.flown_nextId]
    rfl
  have hmicro : (((s.modCore n fun c => c.trailed k g slot go (if go.push then [s.nextId] else [])
      (u.awaitBits n slot m.gen aw)).flown (s.flightsAfter n g slot m len aw go.push)
        (s.nextId + if go.push then 1 else 0)).core n).micro slot =
      m.trailed g go (u.awaitBits n slot m.gen aw) (s.core n).eligible := by
    rw [State.flown_core, State.core_modCore_self _ _ _ hn, Core.trailed_micro, hx]
  rw [hend]
  exact State.settleMicro_plain (by rw [hmicro]; exact hquit) (by rw [hmicro]; exact hyield)
    (Core.refresh_plain (by rw [hmicro]; exact hrearmed) (by rw [hmicro]; exact hwaits) (by rw [hmicro]; rfl))

theorem State.owes_pushed (hsound : s.Sound) (len : Nat) (push : Bool) {j : Nat} (hj : j < 8) :
    (∃ p ∈ s.pushed n g slot m (g.nextAt len) push, p.2.owes n slot m.gen j) ↔ ∃ p ∈ s.flights, p.2.owes n slot m.gen j := by
  cases push
  case false => exact Iff.rfl
  case true =>
    obtain ⟨-, -, -, -, hid⟩ := hsound
    refine ⟨fun ⟨p, hp, ho⟩ => ?_, fun ⟨p, hp, ho⟩ => ⟨p, Tbl.mem_set_of_ne hp (Nat.ne_of_lt (hid p hp)), ho⟩⟩
    rcases Tbl.mem_set _ _ _ p hp with rfl | hp
    · exact absurd ho.2.2.1 (Nat.ne_of_gt hj)
    · exact ⟨p, hp, ho⟩

/-- A trailer whose decision is known gives what a statement of a trailer asks. -/
theorem Trails.of_control {i : Instr} {ok : State → Nat → Group → Nat → Micro → Res → Prop}
    {f : State → Nat → Group → Nat → Micro → Micro} {push : Bool} {len : Nat}
    {control : State → Nat → Group → Nat → Micro → Word → Except Flt Go}
    (he : ∀ s n k g slot m r, s.Alone n k g slot m r → ok s n g slot m r → exec i s = trailer len aw control s)
    (hc : ∀ s n g slot m r, s.res? n g.launch = some r → ok s n g slot m r →
      ∃ go, control s n g slot m (g.nextAt len) = .ok go ∧ m.went g go = f s n g slot m ∧ go.push = push) :
    Trails i aw ok f push := by
  intro s n k g slot m r h hsound hp hok
  obtain ⟨⟨⟨c, hs⟩, -, hm⟩, -, hr⟩ := id h
  have hn := (State.seat_parts hs).1
  have hx := State.micro_of_microAt hm
  obtain ⟨go, hgo, hf, rfl⟩ := hc s n g slot m r hr hok
  obtain ⟨bits, hbits, ht⟩ := trailer_ends (aw := aw) h hp hgo
  have hcore := State.core_modCore_self s n (fun c => c.trailed k g slot go (if go.push then [s.nextId] else []) bits) hn
  have hgroups : Tbl.sorted (s.core n).groups = true := hp.2.2.2.2.2.1
  refine ⟨_, (he s n k g slot m r h hok).trans ht, ⟨m.trailed g go bits (s.core n).eligible, ?_, ?_, fun j hj => ?_⟩,
    ?_, LaunchBecomes.of_modify ?_, ?_, ?_, OnlyTurn.modCore hn (fun x hx => Core.trailed_other _ _ _ hx) rfl _ _⟩
  · rw [State.microAt, State.flown_core, hcore, Core.trailed_slot, hx]
  · rw [← hf]
    cases hmode : go.mode <;> simp [Micro.trailed, Micro.modeLife, Micro.went, hmode]
  · exact (hbits j hj).trans (and_congr_right' (State.owes_pushed hsound len go.push hj))
  · rw [State.flown_core, hcore]
    exact Tbl.get?_erase_self _ _ hgroups
  · rw [State.flown_core, hcore]; rfl
  · rw [State.flown_core, hcore]; rfl
  · rw [State.flown_core, hcore]; rfl

end
end Sys2Proof.Machine

/-! What each trailer decides (R27, R74, R75, R83, R117-R119), and the stack of a CALL and a RET (R22, R118). -/

namespace Sys2Proof.Machine

section
variable {s : State} {n k slot : Nat} {g : Group} {m : Micro} {r : Res} {next pc : Word} {p : PReg} {sense : BitVec 1}

theorem Micro.holds_of_ne (h : m.pred p ≠ (sense == 1#1)) : m.holds p sense = true := by simp [Micro.holds, h]

theorem Micro.holds_of_eq (h : m.pred p = (sense == 1#1)) : m.holds p sense = false := by simp [Micro.holds, h]

theorem Micro.freeOnly_free (h : m.mode = .free) (x : Except Flt Go) : m.freeOnly x = x := by simp only [Micro.freeOnly, h]

theorem Micro.freeOnly_called (h : m.mode = .called) (x : Except Flt Go) : m.freeOnly x = .error .illegal := by
  simp only [Micro.freeOnly, h]

theorem State.goStart_to {l : Nat} (h : s.isStart n l pc = true) : s.goStart n l (Go.to pc) = .ok (Go.to pc) := by
  simp [State.goStart, Go.to, h]

theorem State.goStart_lost {l : Nat} {go : Go} (hpc : go.pc = some pc) (h : s.isStart n l pc = false) :
    s.goStart n l go = .error (.figureForm 5) := by
  simp [State.goStart, hpc, h]

theorem State.goFar_unmet (h : m.mode = .free) (t : Except Flt Word) : s.goFar n g m next false t = .ok (Go.to next) := by
  rw [State.goFar, Micro.freeOnly_free h]; rfl

theorem State.goFar_met (h : m.mode = .free) (t : Except Flt Word) :
    s.goFar n g m next true t = t.bind fun pc => s.goStart n g.launch (Go.to pc) := by
  rw [State.goFar, Micro.freeOnly_free h]; rfl

theorem State.goFar_called {holds : Bool} (h : m.mode = .called) (t : Except Flt Word) :
    s.goFar n g m next holds t = .error .illegal := by
  rw [State.goFar, Micro.freeOnly_called h]

theorem Micro.went_stay (h : m.mode = .called) : m.went g Go.stay = { m with from_ := none } := by
  simp [Micro.went, Go.stay, h]

theorem Micro.went_stop : m.went g Go.stay = { m with mode := .called, from_ := none } := rfl

theorem Micro.went_to : m.went g (Go.to pc) = { m with mode := .free, pc := pc, from_ := some (g.fig, g.off) } := rfl

theorem Micro.went_on (h : m.mode = .free) : m.went g (Go.to pc) = { m with pc := pc, from_ := some (g.fig, g.off) } := by
  simp [Micro.went, Go.to, h]

/-- A FAR's target (R83). -/
theorem farTarget_eq (fig : Word) (off : BitVec 25) : farTarget fig off = BitVec.ofInt 32 (fig.toNat + 8 * off.toInt) := by
  rw [farTarget, BitVec.ofInt_add, BitVec.ofInt_mul, BitVec.mul_comm, BitVec.ofInt_natCast, BitVec.ofNat_toNat, BitVec.setWidth_eq]
  rfl

/-- The target of an off10 (R75). -/
theorem farTarget_short (fig : Word) (off : BitVec 10) :
    farTarget fig (off.signExtend 25) = BitVec.ofInt 32 (fig.toNat + 8 * off.toInt) := by
  rw [farTarget_eq, BitVec.toInt_signExtend_of_le (by omega)]

end

/-! The pop of a RET (R118). -/

theorem foldl_unchanged {α β : Type} {f : α → β → α} {a : α} {l : List β} (h : ∀ x ∈ l, f a x = a) : l.foldl f a = a := by
  induction l with
  | nil => rfl
  | cons x l ih => rw [List.foldl_cons, h x List.mem_cons_self, ih fun y hy => h y (List.mem_cons_of_mem _ hy)]

/-- An access of one micro-thread. -/
def Flight.ownedBy (f : Flight) (n slot : Nat) (gen : Half) : Prop :=
  f.core = n ∧ f.agent = .micro ∧ ∃ w ∈ f.who, w.slot = slot ∧ w.gen = gen

section
variable {s : State} {n slot : Nat} {m : Micro}

theorem Flight.sameAgent_popLoad {f : Flight} {l : Nat} (h : ¬ f.ownedBy n slot m.gen) :
    f.sameAgent (popLoad n l slot m) = false := by
  rw [Bool.eq_false_iff]
  intro hs
  simp only [Flight.sameAgent, popLoad, Bool.and_eq_true, beq_iff_eq] at hs
  obtain ⟨⟨hc, ha⟩, hw⟩ := hs
  rw [ha] at hw
  obtain ⟨w, hw, hsg⟩ := List.any_eq_true.1 hw
  have : slot = w.slot ∧ m.gen = w.gen := by simpa using hsg
  exact h ⟨hc, ha, w, hw, this.1.symm, this.2.symm⟩

/-- A micro-thread without accesses in flight may pop at once. -/
theorem State.popMay_idle {l : Nat} (h : ∀ q ∈ s.flights, ¬ q.2.ownedBy n slot m.gen) : s.popMay n l slot m = true := by
  have hs : ∀ q ∈ s.flights, q.2.sameAgent (popLoad n l slot m) = false := fun q hq => Flight.sameAgent_popLoad (h q hq)
  have hf : s.forward s.nextId (popLoad n l slot m) = .none :=
    foldl_unchanged fun q hq => by simp [hs q hq]
  have hh : s.held s.nextId (popLoad n l slot m) = false := by
    simp only [State.held, List.any_eq_false]
    exact fun q hq => by simp [hs q hq]
  have hg : s.heldHalting s.nextId (popLoad n l slot m) = false := by
    simp only [State.heldHalting, List.any_eq_false]
    exact fun q hq => by simp [hs q hq]
  have hl : s.loadMay s.nextId (popLoad n l slot m) = true := by
    simp only [State.loadMay, hh, Bool.not_false, Bool.true_and, Bool.not_eq_true', List.any_eq_false]
    exact fun q hq => by simp [hs q hq]
  simp [State.popMay, hf, hg, hl]

/-- The word under no buffered push of the micro-thread is that of the own pool. -/
theorem State.popWord_pool {off : Nat} (h : ∀ q ∈ s.flights, q.2.ownedBy n slot m.gen → s.inFifo n q.1 = false) :
    s.popWord n slot m.gen off = BitVec.ofNat 32 (s.peek (poolAddr n off) 4) := by
  have hb (o : Nat) : s.ownByte n slot m.gen o = Memory.read1 s.mem (poolAddr n o) := by
    refine foldl_unchanged fun q hq => if_neg fun hc => ?_
    simp only [Bool.and_eq_true, beq_iff_eq, List.any_eq_true] at hc
    obtain ⟨⟨⟨hn, ha⟩, hi⟩, hw⟩ := hc
    exact absurd hi (by simp [h q hq ⟨hn, ha, hw⟩])
  simp only [State.popWord, hb]
  rfl

theorem word_of_bytes (data : QWord) :
    BitVec.ofNat 32 (natOfBytes ((List.range 4).map fun i => data.extractLsb' (8 * i) 8)) = data.setWidth 32 := by
  apply BitVec.eq_of_toNat_eq
  simp only [List.range_succ, List.range_zero, List.nil_append, List.cons_append, List.map_cons, List.map_nil, natOfBytes,
    BitVec.extractLsb'_toNat, BitVec.toNat_ofNat, BitVec.toNat_setWidth, Nat.shiftRight_eq_div_pow]
  omega

/-- The word under the micro-thread's one buffered push of it is what was pushed. -/
theorem State.popWord_pushed {id off : Nat} {f : Flight} {data : QWord} (hf : s.flights = [(id, f)])
    (ho : f.ownedBy n slot m.gen) (hi : s.inFifo n id = true) (hop : f.op = .store 8 2#2 data)
    (ht : s.targetOfFlight f = .pool false n off) : s.popWord n slot m.gen off = data.setWidth 32 := by
  obtain ⟨hc, ha, hw⟩ := ho
  have hb (i : Nat) (hlt : i < 4) : s.ownByte n slot m.gen (off + i) = data.extractLsb' (8 * i) 8 := by
    have hown : (f.core == n && f.agent == .micro && s.inFifo n id && (f.who.any fun w => w.slot == slot && w.gen == m.gen)) = true := by
      simpa [hc, ha, hi] using hw
    simp only [State.ownByte, hf, List.foldl_cons, List.foldl_nil, hown, if_true, hop, ht]
    rw [if_pos ⟨trivial, by omega, by omega⟩, Nat.add_sub_cancel_left]
  rw [← word_of_bytes, State.popWord]
  exact congrArg _ (congrArg _ (List.map_congr_left fun i hlt => hb i (List.mem_range.1 hlt)))

/-- An offset of the own pool as an array address (R156). -/
theorem ownArray_toNat {off : Nat} (hn : n < 80) (ho : off < 2 ^ 32) :
    (ownArray n off).toNat = 0xFFFE * 2 ^ 48 + (n % 10) * 2 ^ 35 + (n / 10) * 2 ^ 31 + off := by
  simp only [ownArray, coreX, coreY, BitVec.toNat_ofNat]
  omega

end

/-! CALL and RET. -/

section
variable {s : State} {n k slot : Nat} {g : Group} {m : Micro} {r : Res} {p : PReg} {sense : BitVec 1} {aw : BitVec 8}

theorem State.retMay_of_pops (h : s.Alone n k g slot m r)
    (hp : s.pops n g.launch slot m p sense = true → s.popMay n g.launch slot m = true) : s.retMay p sense = true := by
  obtain ⟨⟨⟨c, hs⟩, -, hm⟩, hg, -⟩ := h
  have hx := State.micro_of_microAt hm
  obtain ⟨-, rfl, -⟩ := State.seat_parts hs
  cases hpop : s.pops n g.launch slot m p sense <;> simp_all [State.retMay]

/-- What a RET decides for a member (R117-R119). -/
def retControl (p : PReg) (sense : BitVec 1) (s : State) (n : Nat) (g : Group) (slot : Nat) (m : Micro) (next : Word) : Except Flt Go :=
  m.freeOnly (do
    if m.holds p sense then
      match s.res? n g.launch with
      | none => .ok (Go.to next)
      | some r =>
        if m.csp.toNat = r.stackBase slot then .error (.protection 2 (m.csp.toNat % 0x400000))
        else s.goStart n g.launch { Go.to (s.popWord n slot m.gen (m.csp.toNat - 8)) with pop := true }
    else .ok (Go.to next))

theorem execRet_eq (h : s.Alone n k g slot m r)
    (hp : s.pops n g.launch slot m p sense = true → s.popMay n g.launch slot m = true) :
    execRet p sense aw s = trailer 4 aw (retControl p sense) s :=
  if_pos (State.retMay_of_pops h hp)

end
end Sys2Proof.Machine

/-! The trailers, one by one. -/

namespace Sys2Proof.Machine

section
variable {s : State} {n k slot : Nat} {g : Group} {m : Micro} {r : Res} {aw : BitVec 8} {p : PReg} {sense : BitVec 1} {i : Instr}
  {ok : State → Nat → Group → Nat → Micro → Res → Prop} {len : Nat}
  {control : State → Nat → Group → Nat → Micro → Word → Except Flt Go}

theorem Micro.rd_settled {q : Reg} (h : m.Settled q) : m.rd q = .ok (m.reg q) := by
  simp [Micro.rd, h.1, h.2]

theorem Micro.need_one {q : Reg} (h : m.codeOk q = true) : m.need [q] = .ok () := if_pos (by simp [h])

/-- A trailer that ends a called figure, and no more (R27). -/
theorem Trails.done (he : ∀ s, exec i s = trailer len aw control s)
    (hc : ∀ s n g slot m r next, ok s n g slot m r → m.mode = .called ∧ control s n g slot m next = .ok Go.stay) :
    Trails i aw ok fun _ _ _ _ m => { m with from_ := none } :=
  Trails.of_control (fun s _ _ _ _ _ _ _ _ => he s) fun s n g slot m r _ h =>
    ⟨_, (hc s n g slot m r _ h).2, Micro.went_stay (hc s n g slot m r 0 h).1, rfl⟩

/-- A trailer that lets a free micro-thread go on at the next figure (R27). -/
theorem Trails.on (he : ∀ s n k g slot m r, s.Alone n k g slot m r → ok s n g slot m r → exec i s = trailer len aw control s)
    (hc : ∀ s n g slot m r next, ok s n g slot m r → m.mode = .free ∧ control s n g slot m next = .ok (Go.to next)) :
    Trails i aw ok fun _ _ g _ m => { m with pc := g.nextAt len, from_ := some (g.fig, g.off) } :=
  Trails.of_control he fun s n g slot m r _ h =>
    ⟨_, (hc s n g slot m r _ h).2, Micro.went_on (hc s n g slot m r 0 h).1, rfl⟩

/-- A trailer that makes a micro-thread go, in free mode, to a target. -/
theorem Trails.to {target : Group → Micro → Word} (he : ∀ s, exec i s = trailer len aw control s)
    (hc : ∀ s n g slot m r next, ok s n g slot m r → control s n g slot m next = .ok (Go.to (target g m))) :
    Trails i aw ok fun _ _ g _ m => { m with mode := .free, pc := target g m, from_ := some (g.fig, g.off) } :=
  Trails.of_control (fun s _ _ _ _ _ _ _ _ => he s) fun s n g slot m r _ h => ⟨_, hc s n g slot m r _ h, rfl, rfl⟩

/-! What each form runs. -/

section
variable (s aw p sense) (off : BitVec 10) (far : BitVec 25) (q : Reg)

theorem exec_next : exec (.next aw) s = execNext aw s := rfl
theorem exec_br : exec (.br p sense aw off) s = execBr p sense aw off s := rfl
theorem exec_jmp : exec (.jmp aw off) s = execJmp aw off s := rfl
theorem exec_call : exec (.call p sense aw off) s = execCall p sense aw off s := rfl
theorem exec_ret : exec (.ret p sense aw) s = execRet p sense aw s := rfl
theorem exec_run : exec (.run p sense aw off) s = execRun p sense aw off s := rfl
theorem exec_stop : exec (.stop p sense aw) s = execStop p sense aw s := rfl
theorem exec_farOffset : exec (.farOffset aw sense p far) s = execFarOffset aw sense p far s := rfl
theorem exec_farRegister : exec (.farRegister aw sense p q) s = execFarRegister aw sense p q s := rfl

end

/-! What each decides (R27, R83, R117). -/

section
variable {next pc : Word} {t : Except Flt Word} {q : Reg} {off : BitVec 10} {far : BitVec 25}

/-- The condition of a trailer does not hold, in free mode. -/
def Micro.Unmet (m : Micro) (p : PReg) (sense : BitVec 1) : Prop := m.mode = .free ∧ m.pred p = (sense == 1#1)

/-- The condition of a trailer holds, in free mode. -/
def Micro.Met (m : Micro) (p : PReg) (sense : BitVec 1) : Prop := m.mode = .free ∧ m.pred p ≠ (sense == 1#1)

theorem goFar_on (h : m.Unmet p sense) :
    m.mode = .free ∧ s.goFar n g m next (m.holds p sense) t = .ok (Go.to next) :=
  ⟨h.1, by rw [Micro.holds_of_eq h.2, State.goFar_unmet h.1]⟩

theorem goFar_to (h : m.mode = .free) (hs : s.isStart n g.launch pc = true) :
    s.goFar n g m next true (.ok pc) = .ok (Go.to pc) := by
  rw [State.goFar_met h]
  exact State.goStart_to hs

/-- A CALL or a RET whose condition does not hold goes on. -/
theorem freeOnly_on {x : Except Flt Go} (h : m.Unmet p sense) :
    m.mode = .free ∧ m.freeOnly (if m.holds p sense then x else .ok (Go.to next)) = .ok (Go.to next) :=
  ⟨h.1, by rw [Micro.holds_of_eq h.2, Micro.freeOnly_free h.1]; rfl⟩

/-- A RET whose condition does not hold pops nothing. -/
theorem State.pops_unmet {l : Nat} (h : m.Unmet p sense) : s.pops n l slot m p sense = false := by
  simp [State.pops, Micro.holds_of_eq h.2]

/-- A RET pops where its condition holds and its stack is not empty (R118). -/
theorem State.pops_met (h : m.Met p sense) (hr : s.res? n g.launch = some r) (hc : m.csp.toNat ≠ r.stackBase slot) :
    s.pops n g.launch slot m p sense = true := by
  simp [State.pops, h.1, Micro.holds_of_ne h.2, hr, hc]

/-- What a CALL decides for a member (R117-R119). -/
def callControl (p : PReg) (sense : BitVec 1) (off : BitVec 10) (s : State) (n : Nat) (g : Group) (slot : Nat) (m : Micro)
    (next : Word) : Except Flt Go :=
  m.freeOnly (do
    if m.holds p sense then
      match s.res? n g.launch with
      | none => .ok (Go.to next)
      | some r =>
        if m.csp.toNat = r.stackBase slot + 8 * r.stackDepth then .error (.protection 1 (m.csp.toNat % 0x400000))
        else s.goStart n g.launch { Go.to (farTarget g.fig (off.signExtend 25)) with push := true }
    else .ok (Go.to next))

/-- A CALL that finds room goes to its target and pushes (R118). -/
theorem callControl_met (h : m.Met p sense) (hr : s.res? n g.launch = some r)
    (hc : m.csp.toNat ≠ r.stackBase slot + 8 * r.stackDepth)
    (hs : s.isStart n g.launch (BitVec.ofInt 32 (g.fig.toNat + 8 * off.toInt)) = true) :
    callControl p sense off s n g slot m next =
      .ok { Go.to (BitVec.ofInt 32 (g.fig.toNat + 8 * off.toInt)) with push := true } := by
  rw [callControl, Micro.freeOnly_free h.1, if_pos (Micro.holds_of_ne h.2), hr, farTarget_short]
  simp only [hc, if_false, State.goStart, Go.to, hs, if_true]

theorem retControl_met (h : m.Met p sense) (hr : s.res? n g.launch = some r) (hc : m.csp.toNat ≠ r.stackBase slot)
    (hs : s.isStart n g.launch (s.popWord n slot m.gen (m.csp.toNat - 8)) = true) :
    retControl p sense s n g slot m next = .ok { Go.to (s.popWord n slot m.gen (m.csp.toNat - 8)) with pop := true } := by
  rw [retControl, Micro.freeOnly_free h.1, if_pos (Micro.holds_of_ne h.2), hr]
  simp only [hc, if_false, State.goStart, Go.to, hs, if_true]

end
end

/-! The trailers, form by form. -/

section
variable (aw : BitVec 8) (p : PReg) (sense : BitVec 1) (off : BitVec 10) (far : BitVec 25) (q : Reg)

/-- A figure is done in called mode. -/
def figureDone (_ : State) (_ : Nat) (_ : Group) (_ : Nat) (m : Micro) : Micro := { m with from_ := none }

/-- A free micro-thread goes on past a trailer of `len` bytes. -/
def goesOn (len : Nat) (_ : State) (_ : Nat) (g : Group) (_ : Nat) (m : Micro) : Micro :=
  { m with pc := g.nextAt len, from_ := some (g.fig, g.off) }

/-- A micro-thread goes to a target. -/
def goesTo (target : Group → Micro → Word) (_ : State) (_ : Nat) (g : Group) (_ : Nat) (m : Micro) : Micro :=
  { m with mode := .free, pc := target g m, from_ := some (g.fig, g.off) }

/-- The figure plus 8 times an offset (R75, R83). -/
def relative (v : Int) (g : Group) (_ : Micro) : Word := BitVec.ofInt 32 (g.fig.toNat + 8 * v)

theorem next_called : Trails (.next aw) aw (fun _ _ _ _ m _ => m.mode = .called) figureDone :=
  Trails.done (exec_next · aw) fun _ _ _ _ m _ _ h => ⟨h, by rw [Micro.goNext, h]⟩

theorem next_free : Trails (.next aw) aw (fun _ _ _ _ m _ => m.mode = .free) (goesOn 4) :=
  Trails.on (fun s _ _ _ _ _ _ _ _ => exec_next s aw) fun _ _ _ _ m _ _ h => ⟨h, by rw [Micro.goNext, h]⟩

theorem br_unmet : Trails (.br p sense aw off) aw (fun _ _ _ _ m _ => m.Unmet p sense) (goesOn 4) :=
  Trails.on (fun s _ _ _ _ _ _ _ _ => exec_br s aw p sense off) fun _ _ _ _ _ _ _ h => goFar_on h

theorem call_unmet : Trails (.call p sense aw off) aw (fun _ _ _ _ m _ => m.Unmet p sense) (goesOn 4) :=
  Trails.on (fun s _ _ _ _ _ _ _ _ => exec_call s aw p sense off) fun _ _ _ _ _ _ _ h => freeOnly_on h

theorem ret_unmet : Trails (.ret p sense aw) aw (fun _ _ _ _ m _ => m.Unmet p sense) (goesOn 4) :=
  Trails.on (fun s _ _ _ _ _ _ h hu => (exec_ret s aw p sense).trans (execRet_eq h fun hp => by simp [State.pops_unmet hu] at hp))
    fun _ _ _ _ _ _ _ h => freeOnly_on h

theorem farOffset_unmet : Trails (.farOffset aw sense p far) aw (fun _ _ _ _ m _ => m.Unmet p sense) (goesOn 8) :=
  Trails.on (fun s _ _ _ _ _ _ _ _ => exec_farOffset s aw p sense far) fun _ _ _ _ _ _ _ h => goFar_on h

theorem farRegister_unmet :
    Trails (.farRegister aw sense p q) aw (fun _ _ _ _ m _ => m.Unmet p sense ∧ m.codeOk q = true) (goesOn 8) :=
  Trails.on (fun s _ _ _ _ _ _ _ _ => exec_farRegister s aw p sense q) fun _ _ _ _ _ _ _ h => by
    rw [Micro.need_one h.2]
    exact goFar_on h.1

theorem run_unmet :
    Trails (.run p sense aw off) aw (fun _ _ _ _ m _ => m.mode = .called ∧ m.pred p = (sense == 1#1)) figureDone :=
  Trails.done (exec_run · aw p sense off) fun _ _ _ _ m _ _ h => ⟨h.1, by simp only [h.1, Micro.holds_of_eq h.2]; rfl⟩

theorem stop_called : Trails (.stop p sense aw) aw (fun _ _ _ _ m _ => m.mode = .called) figureDone :=
  Trails.done (exec_stop · aw p sense) fun _ _ _ _ m _ _ h => ⟨h, by simp only [h]⟩

theorem stop_unmet : Trails (.stop p sense aw) aw (fun _ _ _ _ m _ => m.Unmet p sense) (goesOn 4) :=
  Trails.on (fun s _ _ _ _ _ _ _ _ => exec_stop s aw p sense) fun _ _ _ _ m _ _ h =>
    ⟨h.1, by simp only [h.1, Micro.holds_of_eq h.2]; rfl⟩

theorem stop_met : Trails (.stop p sense aw) aw (fun _ _ _ _ m _ => m.Met p sense)
    fun _ _ _ _ m => { m with mode := .called, from_ := none } :=
  Trails.of_control (fun s _ _ _ _ _ _ _ _ => exec_stop s aw p sense) fun _ _ _ _ m _ _ h =>
    ⟨Go.stay, by simp only [h.1, Micro.holds_of_ne h.2, if_true], rfl, rfl⟩

theorem br_met : Trails (.br p sense aw off) aw
    (fun s n g _ m _ => m.mode = .free ∧ m.pred p ≠ (sense == 1#1) ∧ s.isStart n g.launch (relative off.toInt g m) = true)
    (goesTo (relative off.toInt)) :=
  Trails.to (exec_br · aw p sense off) fun _ _ _ _ _ _ _ ⟨hm, hp, hs⟩ => by
    rw [Micro.holds_of_ne hp, farTarget_short]
    exact goFar_to hm hs

theorem jmp_free : Trails (.jmp aw off) aw
    (fun s n g _ m _ => m.mode = .free ∧ s.isStart n g.launch (relative off.toInt g m) = true) (goesTo (relative off.toInt)) :=
  Trails.to (exec_jmp · aw off) fun _ _ _ _ _ _ _ ⟨hm, hs⟩ => by
    rw [farTarget_short]
    exact goFar_to hm hs

theorem farOffset_met : Trails (.farOffset aw sense p far) aw
    (fun s n g _ m _ => m.mode = .free ∧ m.pred p ≠ (sense == 1#1) ∧ s.isStart n g.launch (relative far.toInt g m) = true)
    (goesTo (relative far.toInt)) :=
  Trails.to (exec_farOffset · aw p sense far) fun _ _ _ _ _ _ _ ⟨hm, hp, hs⟩ => by
    rw [Micro.holds_of_ne hp, farTarget_eq]
    exact goFar_to hm hs

theorem farRegister_met : Trails (.farRegister aw sense p q) aw
    (fun s n g _ m _ => (m.mode = .free ∧ m.pred p ≠ (sense == 1#1) ∧ s.isStart n g.launch (m.reg q) = true) ∧ m.Ready [q])
    (goesTo fun _ m => m.reg q) :=
  Trails.to (exec_farRegister · aw p sense q) fun _ _ _ _ m _ _ ⟨⟨hm, hp, hs⟩, hq⟩ => by
    obtain ⟨hc, hset⟩ := hq q List.mem_cons_self
    rw [Micro.need_one hc, Micro.rd_settled hset, Micro.holds_of_ne hp]
    exact goFar_to hm hs

theorem run_called : Trails (.run p sense aw off) aw
    (fun s n g _ m _ => m.mode = .called ∧ m.pred p ≠ (sense == 1#1) ∧ s.isStart n g.launch (relative off.toInt g m) = true)
    (goesTo (relative off.toInt)) :=
  Trails.to (exec_run · aw p sense off) fun _ _ _ _ m _ _ ⟨hm, hp, hs⟩ => by
    simp only [hm, Micro.holds_of_ne hp, if_true, farTarget_short]
    exact State.goStart_to hs

theorem run_free : Trails (.run p sense aw off) aw
    (fun s n g _ m _ => m.mode = .free ∧ s.isStart n g.launch (relative off.toInt g m) = true) (goesTo (relative off.toInt)) :=
  Trails.to (exec_run · aw p sense off) fun _ _ _ _ m _ _ ⟨hm, hs⟩ => by
    simp only [hm, farTarget_short]
    exact State.goStart_to hs

/-- A RET pops its stack and goes to the word (R118). -/
theorem ret_met : Trails (.ret p sense aw) aw
    (fun s n g slot m r => m.Met p sense ∧ m.csp.toNat ≠ r.stackBase slot ∧ s.popMay n g.launch slot m = true ∧
      s.isStart n g.launch (s.popWord n slot m.gen (m.csp.toNat - 8)) = true)
    fun s n g slot m =>
      { m with pc := s.popWord n slot m.gen (m.csp.toNat - 8), csp := m.csp - 8#32, from_ := some (g.fig, g.off) } :=
  Trails.of_control (fun s _ _ _ _ _ _ h ⟨_, _, hmay, _⟩ => (exec_ret s aw p sense).trans (execRet_eq h fun _ => hmay))
    fun _ _ g _ m _ hr ⟨hm, hc, _, hs⟩ => ⟨_, retControl_met hm hr hc hs, by simp [Micro.went, Go.to, hm.1], rfl⟩

/-- A RET waits until its pop may be performed (R118). -/
theorem ret_waits {s : State} {n k slot : Nat} {g : Group} {m : Micro} {r : Res} (h : s.Alone n k g slot m r) (hm : m.Met p sense)
    (hc : m.csp.toNat ≠ r.stackBase slot) (hmay : s.popMay n g.launch slot m = false) : exec (.ret p sense aw) s = .next s := by
  obtain ⟨⟨⟨c, hs⟩, -, hx⟩, hg, hr⟩ := h
  obtain ⟨-, rfl, -⟩ := State.seat_parts hs
  have hret : s.retMay p sense = false := by
    simp [State.retMay, hs, hg, State.micro_of_microAt hx, State.pops_met hm hr hc, hmay]
  rw [exec_ret, execRet, hret]
  rfl

/-- A CALL goes to its target and pushes (R118). -/
theorem call_met : Trails (.call p sense aw off) aw
    (fun s n g slot m r => m.Met p sense ∧ m.csp.toNat ≠ r.stackBase slot + 8 * r.stackDepth ∧
      s.isStart n g.launch (BitVec.ofInt 32 (g.fig.toNat + 8 * off.toInt)) = true)
    (fun _ _ g _ m =>
      { m with pc := BitVec.ofInt 32 (g.fig.toNat + 8 * off.toInt), csp := m.csp + 8#32, from_ := some (g.fig, g.off) }) true :=
  Trails.of_control (fun s _ _ _ _ _ _ _ _ => exec_call s aw p sense off)
    fun _ _ g _ m _ hr ⟨hm, hc, hs⟩ => ⟨_, callControl_met hm hr hc hs, by simp [Micro.went, Go.to, hm.1], rfl⟩

theorem Flight.closed_same (f : Flight) (n slot : Nat) (gen : Half) :
    (f.closed n slot gen aw).core = f.core ∧ (f.closed n slot gen aw).stage = f.stage ∧ (f.closed n slot gen aw).op = f.op ∧
      (f.closed n slot gen aw).ea = f.ea := by
  unfold Flight.closed
  split <;> exact ⟨rfl, rfl, rfl, rfl⟩

/-- The push of a CALL in the store FIFO (R22, R118). -/
theorem call_pushes {s : State} {n k slot : Nat} {g : Group} {m : Micro} {r : Res} (h : s.Alone n k g slot m r)
    (hp : s.EndsPlainly n k slot m) (hm : m.Met p sense) (hc : m.csp.toNat ≠ r.stackBase slot + 8 * r.stackDepth)
    (hs : s.isStart n g.launch (BitVec.ofInt 32 (g.fig.toNat + 8 * off.toInt)) = true) :
    Answers (.call p sense aw off) s fun t =>
      (t.core n).fifo = (s.core n).fifo ++ [s.nextId] ∧
      ∃ f, Tbl.get? t.flights s.nextId = some f ∧ f.core = n ∧ f.stage = .fifo ∧ f.op = .store 8 2#2 ((g.nextAt 4).setWidth 128) ∧
        f.ea.toNat = 0xFFFE * 2 ^ 48 + (n % 10) * 2 ^ 35 + (n / 10) * 2 ^ 31 + m.csp.toNat := by
  obtain ⟨⟨⟨c, hseat⟩, -, -⟩, -, hr⟩ := id h
  have hn := (State.seat_parts hseat).1
  obtain ⟨bits, -, ht⟩ := trailer_ends (len := 4) (aw := aw) h hp (callControl_met hm hr hc hs)
  obtain ⟨hcore, hstage, hop, hea⟩ := Flight.closed_same aw (g.pushOf s n slot m (g.nextAt 4)) n slot m.gen
  refine ⟨_, (exec_call s aw p sense off).trans ht, ?_, (g.pushOf s n slot m (g.nextAt 4)).closed n slot m.gen aw, ?_, hcore, hstage, hop, ?_⟩
  · rw [State.flown_core, State.core_modCore_self _ _ _ hn]; rfl
  · simp [State.flightsAfter, State.pushed]
  · rw [hea]
    exact ownArray_toNat hn m.csp.isLt

end
end Sys2Proof.Machine

/-! QUIT at the end of a figure (R25, R29, R260). -/

namespace Sys2Proof.Machine

section
variable {s : State} {n k slot : Nat} {g : Group} {m : Micro} {r : Res}

/-- The end of a figure leaves the accesses of others as they are. -/
theorem Flight.closed_of_others {f : Flight} (gen : Half) (aw : BitVec 8)
    (h : ∀ w ∈ f.who, f.core = n → f.agent = .micro → w.slot ≠ slot) : f.closed n slot gen aw = f := by
  unfold Flight.closed
  split
  case isFalse => rfl
  case isTrue hc =>
    simp only [Bool.and_eq_true, beq_iff_eq] at hc
    have : (f.who.map fun w => if w.slot == slot && w.gen == gen && w.inFig then
        { w with inFig := false, awaited := decide (f.ll < 8) && aw.getLsbD f.ll } else w) = f.who := by
      refine (List.map_congr_left fun w hw => if_neg ?_).trans (List.map_id f.who)
      simp [h w hw hc.1 hc.2]
    rw [this]

/-- A core once a figure has ended after QUIT for a micro-thread that nothing is left of. -/
def Core.quit (c : Core) (k l slot : Nat) (bits : BitVec 8) : Core :=
  ({ c.figureEnded l slot bits with groups := Tbl.erase c.groups k, eligible := c.eligible + 1 } : Core).modMicro slot Micro.retire

theorem Core.quit_slot (c : Core) (k l slot : Nat) (bits : BitVec 8) :
    Tbl.get? (c.quit k l slot bits).slots slot =
      some { c.micro slot with await := bits, pos := none, life := (c.micro slot).modeLife }.retire := by
  simp [Core.quit, Core.modMicro_eq, Core.figureEnded, Core.modRes, Core.micro]

theorem Core.quit_other (c : Core) (k l slot : Nat) (bits : BitVec 8) {x : Nat} (h : x ≠ slot) :
    Tbl.get? (c.quit k l slot bits).slots x = Tbl.get? c.slots x := by
  simp [Core.quit, Core.modMicro_eq, Core.figureEnded, Core.modRes, Tbl.get?_set_other _ _ _ _ h]

/-- A figure that ends after QUIT, with nothing left of its micro-thread, retires it. -/
theorem next_retires {aw : BitVec 8} (h : s.Alone n k g slot m r) (hq : m.quitting = true) (hl : m.life ≠ .faulted)
    (hlink : m.linked = .none) (hd : m.deferred = []) (hpend : m.pend = 0#64)
    (ho : ∀ p ∈ s.flights, ∀ w ∈ p.2.who, p.2.core = n → p.2.agent = .micro → w.slot ≠ slot) :
    exec (.next aw) s = .next (s.modCore n fun c => c.quit k g.launch slot (s.awaitBits n slot m.gen aw)) := by
  obtain ⟨⟨⟨c, hs⟩, -, hm⟩, -, -⟩ := id h
  have hn := (State.seat_parts hs).1
  have hx := State.micro_of_microAt hm
  have hflights : (Tbl.mapKV s.flights fun _ f => f.closed n slot m.gen aw) = s.flights :=
    (List.map_congr_left fun p hp => congrArg (p.1, ·) (Flight.closed_of_others _ _ (ho p hp))).trans (List.map_id s.flights)
  have hend : (s.endFigure n g.launch slot aw).modCore n (fun c =>
      { c with groups := Tbl.erase c.groups k, eligible := c.eligible + 1 }) =
      s.modCore n fun c => { c.figureEnded g.launch slot (s.awaitBits n slot m.gen aw) with
        groups := Tbl.erase c.groups k, eligible := c.eligible + 1 } := by
    rw [State.endFigure_eq, hx, hflights, State.flown_same, State.modCore_modCore]
    rfl
  rw [exec_next]
  refine (trailer_decides h rfl (if_pos hq) (by rwa [hx])).trans (congrArg _ ?_)
  rw [hend]
  generalize hu : s.modCore n _ = u
  have hmicro : (u.core n).micro slot =
      { m with await := s.awaitBits n slot m.gen aw, pos := none, life := m.modeLife } := by
    rw [← hu, State.core_modCore_self _ _ _ hn, ← hx]
    exact Core.figureEnded_micro _ g.launch _ _
  have hready : u.quitReady n slot ((u.core n).micro slot) = true := by
    have hfl : u.flights = s.flights := by rw [← hu, State.modCore_eq]
    simp only [State.quitReady, hmicro, hlink, hd, hpend, hfl, List.isEmpty_nil, beq_self_eq_true, Bool.true_and, Bool.not_eq_true',
      List.any_eq_false, Bool.and_eq_true, beq_iff_eq, List.any_eq_true, not_and, not_exists]
    exact fun p hp ⟨⟨hc, ha⟩, _⟩ w hw hslot _ => ho p hp w hw hc ha hslot
  rw [State.settleMicro, hready, hmicro, hq, Bool.and_self, if_pos rfl, State.modMicro, ← hu, State.modCore_modCore]
  rfl

end
end Sys2Proof.Machine

namespace Sys2Proof.Proofs
open Sys2Proof Sys2Proof.Machine

/-- Settles O19: each trailer's decision for the one member of its group, followed through the end of the figure. -/
theorem trailerResults : Obligations.TrailerResults := by
  refine ⟨fun aw p sense off far q =>
      ⟨next_called aw, next_free aw, br_unmet aw p sense off, call_unmet aw p sense off, ret_unmet aw p sense,
        farOffset_unmet aw p sense far, farRegister_unmet aw p sense q, run_unmet aw p sense off, stop_called aw p sense,
        stop_unmet aw p sense, stop_met aw p sense⟩,
    fun aw p sense off far q =>
      ⟨br_met aw p sense off, jmp_free aw off, farOffset_met aw p sense far, farRegister_met aw p sense q, run_called aw p sense off,
        run_free aw p sense off⟩,
    fun aw p sense off => ⟨call_met aw p sense off, ret_met aw p sense, fun s n k g slot m r h => ⟨fun hm hc hmay => ?_, ?_, ?_, ?_⟩,
      fun s n k g slot m r h _ hp hm hc hs => call_pushes aw p sense off h hp hm hc hs⟩,
    fun aw s n k g slot m r h _ hq hl hlink hd hpend ho => ⟨_, next_retires h hq hl hlink hd hpend ho, ?_⟩⟩
  · exact ⟨s, ret_waits aw p sense h hm hc hmay, rfl⟩
  · exact State.popMay_idle
  · exact State.popWord_pool
  · exact fun id f data hf ho hi hop ht => State.popWord_pushed hf ho hi hop ht
  · obtain ⟨⟨⟨c, hs⟩, -, hm⟩, -, -⟩ := id h
    have hcore := State.core_modCore_self s n (fun c => c.quit k g.launch slot (s.awaitBits n slot m.gen aw)) (State.seat_parts hs).1
    refine ⟨⟨{ m with await := s.awaitBits n slot m.gen aw, pos := none, life := m.modeLife }.retire, ?_, rfl, rfl, rfl, rfl⟩, LaunchBecomes.of_modify ?_, ?_, ?_, ?_⟩
    · rw [State.microAt, hcore, Core.quit_slot, State.micro_of_microAt hm]
    · rw [hcore]; rfl
    · rw [hcore]; rfl
    · rw [hcore]; rfl
    · exact State.flown_same s n _ ▸ OnlyTurn.modCore (State.seat_parts hs).1 (fun x hx => Core.quit_other _ _ _ _ _ hx) rfl _ _
end Sys2Proof.Proofs

/-! The precise faults of trailers and of instructions that reach registers only (R16, R18, R74, R87, R88, R276, R283). -/

namespace Sys2Proof.Machine

section
variable {s : State} {n k slot : Nat} {g : Group} {m : Micro} {r : Res} {aw : BitVec 8} {i : Instr} {len : Nat}
  {control : State → Nat → Group → Nat → Micro → Word → Except Flt Go} {ok : State → Nat → Group → Nat → Micro → Res → Prop}

/-- A core once a trailer has faulted the one member of its group (R119). -/
def Core.trailFaulted (c : Core) (k : Nat) (g : Group) (slot len : Nat) (w : Word) (aw : BitVec 8) (e : Flt) : Core :=
  let c' := c.modMicro slot fun m => m.takeFault (e.info m g.fig g.off len g.ll w (some aw) c.eligible)
  { c' with groups := Tbl.erase c'.groups k, eligible := c'.eligible + 1 }

/-- A trailer whose decision is a fault gives what a statement of it asks. -/
theorem TrailFaults.of_control {flt : Micro → Flt} {e : State → Micro → Byte × Word}
    (he : ∀ s n k g slot m r, s.Alone n k g slot m r → ok s n g slot m r → exec i s = trailer len aw control s)
    (hc : ∀ s n g slot m r next, s.res? n g.launch = some r → ok s n g slot m r → control s n g slot m next = .error (flt m))
    (hf : ∀ s m, ((flt m).code, (flt m).detail.getD s.curWord) = e s m) : TrailFaults i aw ok e := by
  intro s n k g slot m r h hok
  obtain ⟨⟨⟨c, hs⟩, -, hm⟩, -, hr⟩ := id h
  have hn := (State.seat_parts hs).1
  have ht := (he s n k g slot m r h hok).trans (trailer_faults h (hc s n g slot m r _ hr hok))
  rw [State.faultMember, State.modCore_modCore] at ht
  have hcore := State.core_modCore_self s n (fun c => c.trailFaulted k g slot len s.curWord aw (flt m)) hn
  refine ⟨_, ht, ⟨(flt m).info m g.fig g.off len g.ll s.curWord (some aw) (s.core n).eligible, ?_, hf s m, rfl, rfl, rfl⟩,
    (congrArg (Tbl.get? ·.groups k) hcore).trans rfl, OnlyCharged.of_res ((congrArg Core.res hcore).trans rfl), ?_,
    (congrArg Core.fifo hcore).trans rfl, ?_⟩
  · refine (congrArg (Tbl.get? ·.slots slot) hcore).trans ?_
    simp [Core.trailFaulted, Core.modMicro_eq, State.micro_of_microAt hm, Micro.takeFault]
  · rw [State.modCore_eq]
  · exact State.flown_same s n _ ▸ OnlyTurn.modCore hn (fun x hx => Tbl.get?_set_other _ _ _ _ hx) rfl _ _

/-! What each trailer refuses (R27, R74, R119). -/

theorem goFar_lost {next pc : Word} (h : m.mode = .free) (hs : s.isStart n g.launch pc = false) :
    s.goFar n g m next true (.ok pc) = .error (.figureForm 5) := by
  rw [State.goFar_met h]
  exact State.goStart_lost (go := Go.to pc) rfl hs

variable (aw) (p : PReg) (sense : BitVec 1) (off : BitVec 10) (far : BitVec 25) (q : Reg)

/-- A trailer that is illegal in called mode. -/
def IllegalCalled (i : Instr) (aw : BitVec 8) : Prop :=
  TrailFaults i aw (fun _ _ _ _ m _ => m.mode = .called) fun s _ => (0x01#8, s.curWord)

theorem br_called : IllegalCalled (.br p sense aw off) aw :=
  TrailFaults.of_control (flt := fun _ => .illegal) (fun s _ _ _ _ _ _ _ _ => exec_br s aw p sense off)
    (fun _ _ _ _ _ _ _ _ h => State.goFar_called h _) fun _ _ => rfl

theorem jmp_called : IllegalCalled (.jmp aw off) aw :=
  TrailFaults.of_control (flt := fun _ => .illegal) (fun s _ _ _ _ _ _ _ _ => exec_jmp s aw off)
    (fun _ _ _ _ _ _ _ _ h => State.goFar_called h _) fun _ _ => rfl

theorem call_called : IllegalCalled (.call p sense aw off) aw :=
  TrailFaults.of_control (flt := fun _ => .illegal) (fun s _ _ _ _ _ _ _ _ => exec_call s aw p sense off)
    (fun _ _ _ _ _ _ _ _ h => Micro.freeOnly_called h _) fun _ _ => rfl

/-- A RET pops nothing in called mode. -/
theorem State.pops_called {l : Nat} (h : m.mode = .called) : s.pops n l slot m p sense = false := by simp [State.pops, h]

theorem ret_called : IllegalCalled (.ret p sense aw) aw :=
  TrailFaults.of_control (flt := fun _ => .illegal)
    (fun s _ _ _ _ _ _ h hm => (exec_ret s aw p sense).trans (execRet_eq h fun hp => by simp [State.pops_called p sense hm] at hp))
    (fun _ _ _ _ _ _ _ _ h => Micro.freeOnly_called h _) fun _ _ => rfl

theorem farOffset_called : IllegalCalled (.farOffset aw sense p far) aw :=
  TrailFaults.of_control (flt := fun _ => .illegal) (fun s _ _ _ _ _ _ _ _ => exec_farOffset s aw p sense far)
    (fun _ _ _ _ _ _ _ _ h => State.goFar_called h _) fun _ _ => rfl

/-- A FAR's register beyond the budget is illegal too (R119; log 16). -/
theorem farRegister_called : IllegalCalled (.farRegister aw sense p q) aw :=
  TrailFaults.of_control (flt := fun _ => .illegal) (fun s _ _ _ _ _ _ _ _ => exec_farRegister s aw p sense q)
    (fun _ _ _ _ m _ _ _ h => by
      rw [State.goFar_called h, Micro.need]
      split <;> rfl)
    fun _ _ => rfl

/-- "Figure form", reason 5: the target is no figure start (R74). -/
def NoStart (_ : State) (_ : Micro) : Byte × Word := (0x02#8, BitVec.ofNat 32 (5 * 2 ^ 22))

theorem br_lost : TrailFaults (.br p sense aw off) aw
    (fun s n g _ m _ => m.Met p sense ∧ s.isStart n g.launch (BitVec.ofInt 32 (g.fig.toNat + 8 * off.toInt)) = false) NoStart :=
  TrailFaults.of_control (flt := fun _ => .figureForm 5) (fun s _ _ _ _ _ _ _ _ => exec_br s aw p sense off)
    (fun _ _ _ _ _ _ _ _ ⟨hm, hs⟩ => by
      rw [Micro.holds_of_ne hm.2, farTarget_short]
      exact goFar_lost hm.1 hs)
    fun _ _ => rfl

theorem jmp_lost : TrailFaults (.jmp aw off) aw
    (fun s n g _ m _ => m.mode = .free ∧ s.isStart n g.launch (BitVec.ofInt 32 (g.fig.toNat + 8 * off.toInt)) = false) NoStart :=
  TrailFaults.of_control (flt := fun _ => .figureForm 5) (fun s _ _ _ _ _ _ _ _ => exec_jmp s aw off)
    (fun _ _ _ _ _ _ _ _ ⟨hm, hs⟩ => by
      rw [farTarget_short]
      exact goFar_lost hm hs)
    fun _ _ => rfl

/-- A call-stack fault: its detail number and CSP within the pool (R276). -/
def stackFault (d : Nat) (_ : State) (m : Micro) : Byte × Word := (0x04#8, BitVec.ofNat 32 (d * 2 ^ 22 + m.csp.toNat % 2 ^ 22))

theorem call_full : TrailFaults (.call p sense aw off) aw
    (fun _ _ _ slot m r => m.Met p sense ∧ m.csp.toNat = r.stackBase slot + 8 * r.stackDepth) (stackFault 1) :=
  TrailFaults.of_control (flt := fun m => .protection 1 (m.csp.toNat % 0x400000))
    (fun s _ _ _ _ _ _ _ _ => exec_call s aw p sense off)
    (fun _ _ _ _ _ _ _ hr ⟨hm, hc⟩ => by
      rw [Micro.freeOnly_free hm.1, if_pos (Micro.holds_of_ne hm.2), hr]
      exact if_pos hc)
    fun _ m => by simp [Flt.protection, detailOf, stackFault]

theorem ret_empty : TrailFaults (.ret p sense aw) aw
    (fun _ _ _ slot m r => m.Met p sense ∧ m.csp.toNat = r.stackBase slot) (stackFault 2) :=
  TrailFaults.of_control (flt := fun m => .protection 2 (m.csp.toNat % 0x400000))
    (fun s _ _ _ _ _ _ h ⟨_, hc⟩ => (exec_ret s aw p sense).trans (execRet_eq h fun hp => by
      obtain ⟨-, -, hr⟩ := h
      simp [State.pops, hr, hc] at hp))
    (fun _ _ _ _ _ _ _ hr ⟨hm, hc⟩ => by
      rw [retControl, Micro.freeOnly_free hm.1, if_pos (Micro.holds_of_ne hm.2), hr]
      exact if_pos hc)
    fun _ m => by simp [Flt.protection, detailOf, stackFault]

end
end Sys2Proof.Machine

/-! The precise faults of instructions that reach registers only (R16, R18, R76, R87, R90, R276, R283). -/

namespace Sys2Proof.Machine

section
variable {m : Micro} {d a b : Reg} {i : Instr} {ready : Micro → Prop} {e : Micro → Word → Byte × Word} {len w : Nat}

/-- A register-only instruction that faults a member gives what a statement of it asks (R87, R88). -/
theorem LaneFault.of_lanes {f : Core → Nat → Micro → Except Flt Micro} (flt : Micro → Flt) (he : ∀ s, exec i s = lanes len w f s)
    (hf : ∀ c slot m, ready m → f c slot m = .error (flt m)) (hw : ∀ m w, ((flt m).code, (flt m).detail.getD w) = e m w) :
    LaneFault i ready e := by
  intro s n k g slot m h hr
  obtain ⟨t, ht, ho, hm⟩ := lanes_spec len w f h
  rw [hf _ _ _ hr] at hm
  exact ⟨t, (he s).trans ht, ho, _, hm, hw m s.curWord, rfl, rfl, rfl⟩

theorem detailOf_sub (sub arg : Nat) (hs : sub < 256) (ha : arg < 2 ^ 22) :
    detailOf false sub arg = BitVec.ofNat 32 (sub * 2 ^ 22 + arg) := by
  rw [detailOf, Nat.mod_eq_of_lt hs, Nat.mod_eq_of_lt ha, if_neg Bool.false_ne_true, Nat.zero_add]

/-! The operands of a register-only instruction of two words, in the order they are checked (R226; log 10). -/

/-- The two sources of an instruction that writes `d`. -/
def Micro.operands (m : Micro) (d a b : Reg) : Except Flt (Word × Word) := do
  m.need [d, a, b]
  let x ← m.rd a
  let y ← m.rd b
  m.wrOk d 1
  .ok (x, y)

theorem Micro.op2_eq (f : Word → Word → Word) :
    m.op2 f d a b = (m.operands d a b).bind fun p => .ok (m.setReg d (f p.1 p.2)) := by
  simp only [Micro.op2, Micro.operands, bind, Except.bind]
  cases m.need [d, a, b] <;> cases m.rd a <;> cases m.rd b <;> cases m.wrOk d 1 <;> rfl

theorem Micro.fop2_eq (f : Word → Word → FpRes) :
    m.fop2 f d a b = (m.operands d a b).bind fun p =>
      .ok ((m.setReg d (BitVec.ofNat 32 (f p.1 p.2).1)).raise (f p.1 p.2).2) := by
  simp only [Micro.fop2, Micro.operands, bind, Except.bind]
  cases m.need [d, a, b] <;> cases m.rd a <;> cases m.rd b <;> cases m.wrOk d 1 <;> rfl

theorem Micro.need_codes {rs : List Reg} (h : ∀ c ∈ rs, m.codeOk c = true) : m.need rs = .ok () :=
  if_pos (List.all_eq_true.2 h)

theorem Micro.need_beyond {rs : List Reg} (h : ∃ c ∈ rs, m.codeOk c = false) : m.need rs = .error .illegal :=
  if_neg (by simpa using h)

theorem Micro.rd_pending (h : m.pend.getLsbD a.toNat = true) : m.rd a = .error (.unawaited a false false) := if_pos h

theorem Micro.rd_bad (hp : m.pend.getLsbD a.toNat = false) (hb : m.bad.getLsbD a.toNat = true) : m.rd a = .error (.machineCheck a) := by
  simp [Micro.rd, hp, hb]

theorem Micro.wrOk_pending (h : m.pend.getLsbD d.toNat = true) : m.wrOk d 1 = .error (.unawaited d true false) := by
  simp [Micro.wrOk, Micro.pending?, h]

theorem Micro.wrOk_clear (h : m.pend.getLsbD d.toNat = false) : m.wrOk d 1 = .ok () := by
  simp [Micro.wrOk, Micro.pending?, h]

/-- The codes of an instruction of two sources are within the budget. -/
def Micro.Codes (m : Micro) (d a b : Reg) : Prop := ∀ r ∈ [d, a, b], m.codeOk r = true

theorem Micro.operands_beyond (h : ∃ r ∈ [d, a, b], m.codeOk r = false) : m.operands d a b = .error .illegal := by
  rw [Micro.operands, Micro.need_beyond h]; rfl

theorem Micro.operands_first (h : m.Codes d a b) {e : Flt} (ha : m.rd a = .error e) : m.operands d a b = .error e := by
  rw [Micro.operands, Micro.need_codes h, ha]; rfl

theorem Micro.operands_second (h : m.Codes d a b) {e : Flt} (ha : m.Settled a) (hb : m.rd b = .error e) :
    m.operands d a b = .error e := by
  rw [Micro.operands, Micro.need_codes h, Micro.rd_settled ha, hb]; rfl

theorem Micro.operands_dest (h : m.Codes d a b) (ha : m.Settled a) (hb : m.Settled b) (hd : m.pend.getLsbD d.toNat = true) :
    m.operands d a b = .error (.unawaited d true false) := by
  rw [Micro.operands, Micro.need_codes h, Micro.rd_settled ha, Micro.rd_settled hb, Micro.wrOk_pending hd]; rfl

theorem Micro.operands_ok (h : m.Codes d a b) (ha : m.Settled a) (hb : m.Settled b) (hd : m.pend.getLsbD d.toNat = false) :
    m.operands d a b = .ok (m.reg a, m.reg b) := by
  rw [Micro.operands, Micro.need_codes h, Micro.rd_settled ha, Micro.rd_settled hb, Micro.wrOk_clear hd]; rfl

theorem unawaited_source (_ : Micro) (w : Word) :
    ((Flt.unawaited a false false).code, (Flt.unawaited a false false).detail.getD w) = (0x03#8, BitVec.ofNat 32 a.toNat) := by
  have := a.isLt
  simp [Flt.unawaited, detailOf_sub 0 a.toNat (by omega) (by omega)]

theorem unawaited_dest (_ : Micro) (w : Word) :
    ((Flt.unawaited d true false).code, (Flt.unawaited d true false).detail.getD w) = (0x03#8, BitVec.ofNat 32 (64 + d.toNat)) := by
  have := d.isLt
  simp [Flt.unawaited, detailOf_sub 0 (d.toNat + 64) (by omega) (by omega), Nat.add_comm]

theorem machineCheck_source (_ : Micro) (w : Word) :
    ((Flt.machineCheck a).code, (Flt.machineCheck a).detail.getD w) = (0x0D#8, BitVec.ofNat 32 (2 * 2 ^ 22 + a.toNat)) := by
  have := a.isLt
  simp [Flt.machineCheck, detailOf_sub 2 a.toNat (by omega) (by omega)]

/-- An instruction whose operands are `operands`. -/
def TwoSources (i : Instr) (d a b : Reg) : Prop :=
  ∃ len w, ∃ g : Micro → Word × Word → Except Flt Micro, ∀ s, exec i s = lanes len w (fun _ _ m => (m.operands d a b).bind (g m)) s

/-- A fault of the operands is the instruction's. -/
theorem TwoSources.fault (hi : TwoSources i d a b) (flt : Flt) (hf : ∀ m, ready m → m.operands d a b = .error flt)
    (hw : ∀ (m : Micro) (w : Word), (flt.code, flt.detail.getD w) = e m w) : LaneFault i ready e := by
  obtain ⟨len, w, g, he⟩ := hi
  exact LaneFault.of_lanes (fun _ => flt) he (fun _ _ m hr => by rw [hf m hr]; rfl) hw

theorem TwoSources.of_op2 {len w : Nat} {f : Micro → Word → Word → Word}
    (he : ∀ s, exec i s = lanes len w (fun _ _ m => m.op2 (f m) d a b) s) : TwoSources i d a b :=
  ⟨len, w, fun m p => .ok (m.setReg d (f m p.1 p.2)), fun s => by simp only [he, Micro.op2_eq]⟩

theorem TwoSources.of_fop2 {len w : Nat} {f : Micro → Word → Word → FpRes}
    (he : ∀ s, exec i s = lanes len w (fun _ _ m => m.fop2 (f m) d a b) s) : TwoSources i d a b :=
  ⟨len, w, fun m p => .ok ((m.setReg d (BitVec.ofNat 32 (f m p.1 p.2).1)).raise (f m p.1 p.2).2), fun s => by
    simp only [he, Micro.fop2_eq]⟩

/-- What a statement of the operands' faults asks of one instruction (R16, R18, R76, R276, R283). -/
theorem TwoSources.faults (hi : TwoSources i d a b) :
    LaneFault i (fun m => ∃ r ∈ [d, a, b], m.codeOk r = false) (fun _ w => (0x01#8, w)) ∧
    LaneFault i (fun m => m.Codes d a b ∧ m.pend.getLsbD a.toNat = true) (fun _ _ => (0x03#8, BitVec.ofNat 32 a.toNat)) ∧
    LaneFault i (fun m => m.Codes d a b ∧ m.Settled a ∧ m.pend.getLsbD b.toNat = true)
      (fun _ _ => (0x03#8, BitVec.ofNat 32 b.toNat)) ∧
    LaneFault i (fun m => m.Codes d a b ∧ m.Settled a ∧ m.Settled b ∧ m.pend.getLsbD d.toNat = true)
      (fun _ _ => (0x03#8, BitVec.ofNat 32 (64 + d.toNat))) ∧
    LaneFault i (fun m => m.Codes d a b ∧ m.pend.getLsbD a.toNat = false ∧ m.bad.getLsbD a.toNat = true)
      (fun _ _ => (0x0D#8, BitVec.ofNat 32 (2 * 2 ^ 22 + a.toNat))) ∧
    LaneFault i (fun m => m.Codes d a b ∧ m.Settled a ∧ m.pend.getLsbD b.toNat = false ∧ m.bad.getLsbD b.toNat = true)
      (fun _ _ => (0x0D#8, BitVec.ofNat 32 (2 * 2 ^ 22 + b.toNat))) :=
  ⟨hi.fault .illegal (fun _ h => Micro.operands_beyond h) fun _ _ => rfl,
    hi.fault _ (fun _ h => Micro.operands_first h.1 (Micro.rd_pending h.2)) unawaited_source,
    hi.fault _ (fun _ h => Micro.operands_second h.1 h.2.1 (Micro.rd_pending h.2.2)) unawaited_source,
    hi.fault _ (fun _ h => Micro.operands_dest h.1 h.2.1 h.2.2.1 h.2.2.2) unawaited_dest,
    hi.fault _ (fun _ h => Micro.operands_first h.1 (Micro.rd_bad h.2.1 h.2.2)) machineCheck_source,
    hi.fault _ (fun _ h => Micro.operands_second h.1 h.2.1 (Micro.rd_bad h.2.2.1 h.2.2.2)) machineCheck_source⟩

end

section
variable (d a b : Reg) (s : State)

theorem exec_add : exec (.add d a b) s = execAdd d a b s := rfl
theorem exec_sub : exec (.sub d a b) s = execSub d a b s := rfl
theorem exec_and : exec (.and d a b) s = execAnd d a b s := rfl
theorem exec_or : exec (.or d a b) s = execOr d a b s := rfl
theorem exec_xor : exec (.xor d a b) s = execXor d a b s := rfl
theorem exec_sll : exec (.sll d a b) s = execSll d a b s := rfl
theorem exec_mul : exec (.mul d a b) s = execMul d a b s := rfl
theorem exec_fadd : exec (.fadd d a b) s = execFadd d a b s := rfl
theorem exec_fmul : exec (.fmul d a b) s = execFmul d a b s := rfl
theorem exec_trap : exec (.trap a) s = execTrap a s := rfl
theorem exec_ebrk : exec .ebrk s = execEbrk s := rfl
theorem exec_setrm : exec (.setrm d a) s = execSetrm d a s := rfl
theorem exec_pke4 : exec (.pke4 d a b) s = execPke4 d a b s := rfl
theorem exec_pke5 : exec (.pke5 d a b) s = execPke5 d a b s := rfl
theorem exec_pkb4 : exec (.pkb4 d a b) s = execPkb4 d a b s := rfl
theorem exec_upb4 : exec (.upb4 d a) s = execUpb4 d a s := rfl
theorem exec_reservedEncoding (x : Word) : exec (.reservedEncoding x) s = execReservedEncoding x s := rfl

end

section
variable {m : Micro} {d a b : Reg} {s : State} {n k slot : Nat} {g : Group}

/-- The instructions of two sources that a statement samples. -/
theorem twoSources_sample {i : Instr} (hi : i ∈ [.add d a b, .sub d a b, .and d a b, .or d a b, .xor d a b, .sll d a b, .mul d a b,
    .fadd d a b, .fmul d a b]) : TwoSources i d a b := by
  simp only [List.mem_cons, List.not_mem_nil, or_false] at hi
  rcases hi with rfl | rfl | rfl | rfl | rfl | rfl | rfl | rfl | rfl
  · exact TwoSources.of_op2 (f := fun _ => _) (exec_add d a b)
  · exact TwoSources.of_op2 (f := fun _ => _) (exec_sub d a b)
  · exact TwoSources.of_op2 (f := fun _ => _) (exec_and d a b)
  · exact TwoSources.of_op2 (f := fun _ => _) (exec_or d a b)
  · exact TwoSources.of_op2 (f := fun _ => _) (exec_xor d a b)
  · exact TwoSources.of_op2 (f := fun _ => _) (exec_sll d a b)
  · exact TwoSources.of_op2 (f := fun _ => _) (exec_mul d a b)
  · exact TwoSources.of_fop2 (f := fun m x y => fpAdd fp32 m.rm x.toNat y.toNat) (exec_fadd d a b)
  · exact TwoSources.of_fop2 (f := fun m x y => fpMul fp32 m.rm x.toNat y.toNat) (exec_fmul d a b)

/-- A word with an uncorrectable error is written, and good again (R284). -/
theorem LaneResult.of_op2 {i : Instr} {len w : Nat} {f : Word → Word → Word}
    (he : ∀ s, exec i s = lanes len w (fun _ _ m => m.op2 f d a b) s) :
    LaneResult i (fun m => m.Codes d a b ∧ m.Settled a ∧ m.Settled b ∧ m.pend.getLsbD d.toNat = false)
      fun m => m.setReg d (f (m.reg a) (m.reg b)) :=
  LaneResult.of_lanes he fun _ _ m ⟨hc, ha, hb, hd⟩ => by rw [Micro.op2_eq, Micro.operands_ok hc ha hb hd]; rfl

theorem getLsbD_one_shiftLeft {i j : Nat} (hi : i < 64) : (1#64 <<< j).getLsbD i = decide (i = j) := by
  rw [← BitVec.twoPow_eq, BitVec.getLsbD_twoPow]
  by_cases h : i = j
  · simp [h ▸ hi, h]
  · simp [h, Ne.symm h]

theorem Micro.setReg_bad_at (m : Micro) (v : Word) (r : Reg) :
    (m.setReg d v).bad.getLsbD r.toNat = if r = d then false else m.bad.getLsbD r.toNat := by
  have hr := r.isLt
  simp only [Micro.setReg, BitVec.getLsbD_and, BitVec.getLsbD_not, getLsbD_one_shiftLeft hr, BitVec.toNat_inj]
  by_cases h : r = d <;> simp [h, hr]

/-! Reserved codes and control words (R115, R136-R138). -/

theorem trap_faults : LaneFault (.trap a) (fun m => m.Ready [a]) fun m _ => (0x0B#8, m.reg a) :=
  LaneFault.of_lanes (fun m => .trap (m.reg a)) (exec_trap a)
    (fun _ _ _ h => by simp only [Micro.need_ok h, Micro.rd_ok (h a (by simp)).2, bind, Except.bind]) fun _ _ => rfl

theorem ebrk_faults : LaneFault .ebrk (fun _ => True) fun _ w => (0x0C#8, w) :=
  LaneFault.of_lanes (fun _ => .breakpoint) exec_ebrk (fun _ _ _ _ => rfl) fun _ _ => rfl

theorem setrm_faults : LaneFault (.setrm d a) (fun m => m.Ready [d, a] ∧ 4 < (m.reg a).toNat) fun _ _ => (0x09#8, 0#32) :=
  LaneFault.of_lanes (fun _ => .reserved 0) (exec_setrm d a)
    (fun _ _ m ⟨h, hv⟩ => by
      simp only [Micro.need_ok h, Micro.rd_ok (h a (by simp)).2, Micro.wrOk_clear (h d (by simp)).2.1, bind, Except.bind]
      exact if_neg (Nat.not_le_of_lt hv))
    fun _ _ => rfl

/-- A control word names no rounding mode (R136). -/
theorem Micro.npkRm_none {v : Word} (h : 16 ≤ v.toNat ∨ v.toNat % 8 = 5 ∨ v.toNat % 8 = 6) : m.npkRm v = none := by
  refine if_pos ?_
  simp only [← BitVec.toNat_inj, ne_eq, BitVec.extractLsb'_toNat, BitVec.toNat_ofNat, Nat.shiftRight_eq_div_pow]
  omega

theorem self_mem_groupCodes (r : Reg) {n : Nat} (h : 0 < n) : r ∈ groupCodes r n := by
  simp only [groupCodes, List.mem_map, List.mem_range]
  exact ⟨0, h, by simp⟩

theorem Micro.packBytes_reserved {f : Fmt} (h : m.Ready ([d, b] ++ groupCodes a 4))
    (hv : 16 ≤ (m.reg b).toNat ∨ (m.reg b).toNat % 8 = 5 ∨ (m.reg b).toNat % 8 = 6) :
    m.packBytes f d a b = .error (.reserved 0) := by
  have ha := self_mem_groupCodes a (n := 4) (by decide)
  simp only [Micro.packBytes, Micro.need_ok (rs := [d, a, b]) (h.sub (by simp [ha])),
    Micro.rdGroup_ok (h.clear (qs := groupCodes a 4) (by simp +contextual)), Micro.rd_ok (h b (by simp)).2,
    Micro.wrOk_clear (h d (by simp)).2.1, Micro.npkRm_none hv, bind, Except.bind]

theorem pack_reserved {i : Instr} {f : Fmt} (he : ∀ s, exec i s = alu 2 (fun m => m.packBytes f d a b) s) :
    LaneFault i (fun m => m.Ready ([d, b] ++ groupCodes a 4) ∧
      (16 ≤ (m.reg b).toNat ∨ (m.reg b).toNat % 8 = 5 ∨ (m.reg b).toNat % 8 = 6)) fun _ _ => (0x09#8, 0#32) :=
  LaneFault.of_lanes (fun _ => .reserved 0) he (fun _ _ _ h => Micro.packBytes_reserved h.1 h.2) fun _ _ => rfl

theorem Micro.packBlock_reserved (h : m.Ready (pairOf d ++ [b] ++ groupCodes a 8))
    (hv : 8 ≤ (m.reg b).toNat ∨ (m.reg b).toNat = 5 ∨ (m.reg b).toNat = 6) : m.packBlock d a b = .error (.reserved 0) := by
  have ha := self_mem_groupCodes a (n := 8) (by decide)
  have hw : m.wrOk d 2 = .ok () := Micro.wrOk_ok (h.clear (by simp [pairOf]))
  simp only [Micro.packBlock, Micro.need_ok (rs := [d, a, b]) (h.sub (by simp [ha, pairOf])),
    Micro.rdGroup_ok (h.clear (qs := groupCodes a 8) (by simp +contextual)), Micro.rd_ok (h b (by simp)).2, hw, bind, Except.bind]
  split
  · rfl
  case h_2 rm hr =>
    have : (m.reg b).getLsbD 3 = true := by
      have : ¬ (16 ≤ (m.reg b).toNat ∨ (m.reg b).toNat % 8 = 5 ∨ (m.reg b).toNat % 8 = 6) := fun hc => by
        simp [Micro.npkRm_none hc] at hr
      rw [BitVec.getLsbD, Nat.testBit_eq_decide_div_mod_eq, decide_eq_true_eq]
      omega
    rw [if_pos this]

theorem Micro.unpackBlock_reserved (h : m.Ready (groupCodes d 8 ++ pairOf a))
    (hv : 2 ^ 16 ≤ (m.reg (a + 1#6)).toNat ∨ (m.reg (a + 1#6)).toNat % 256 = 255 ∨ (m.reg (a + 1#6)).toNat / 256 % 128 = 127) :
    m.unpackBlock d a = .error (.reserved 0) := by
  have hd := self_mem_groupCodes d (n := 8) (by decide)
  have hp : m.rdPair a = .ok (m.pair a) := Micro.rdPair_ok (h.clear (by simp [pairOf]))
  have hw : m.wrOk d 8 = .ok () := Micro.wrOk_ok (h.clear (by simp +contextual))
  simp only [Micro.unpackBlock, Micro.need_ok (rs := [d, a]) (h.sub (by simp [hd, pairOf])), hp, hw, bind, Except.bind]
  have hlo := (m.reg a).isLt
  have hpair : (m.pair a).toNat = (m.reg (a + 1#6)).toNat * 2 ^ 32 + (m.reg a).toNat := by
    rw [Micro.pair, mkPair, toNat_append_add]
  have hside : ((m.pair a).extractLsb' 32 16).toNat = (m.reg (a + 1#6)).toNat % 2 ^ 16 := by
    simp only [BitVec.extractLsb'_toNat, hpair, Nat.shiftRight_eq_div_pow]; omega
  have hupper : ((m.pair a).extractLsb' 48 16).toNat = (m.reg (a + 1#6)).toNat / 2 ^ 16 % 2 ^ 16 := by
    simp only [BitVec.extractLsb'_toNat, hpair, Nat.shiftRight_eq_div_pow]; omega
  have hword := (m.reg (a + 1#6)).isLt
  refine if_pos ?_
  generalize (m.pair a).extractLsb' 32 16 = side at hside
  simp only [b4IllFormed, Bool.or_eq_true, beq_iff_eq, ← BitVec.toNat_inj, ne_eq, hupper]
  simp only [BitVec.extractLsb'_toNat, hside, BitVec.toNat_ofNat, Nat.shiftRight_eq_div_pow]
  omega

/-! A reserved encoding (R87, R90). -/

/-- The members of a list fault, one after another. -/
def Core.faulted (c : Core) (g : Group) (len : Nat) (w : Word) (aw : Option (BitVec 8)) (e : Flt) (l : List Nat) : Core :=
  l.foldl (fun c slot => c.modMicro slot fun m => m.takeFault (e.info m g.fig g.off len g.ll w aw c.eligible)) c

theorem Core.faulted_eq (c : Core) (g : Group) (len : Nat) (w : Word) (aw : Option (BitVec 8)) (e : Flt) (l : List Nat) :
    c.faulted g len w aw e l = { c with slots := (c.faulted g len w aw e l).slots } := by
  induction l generalizing c with
  | nil => rfl
  | cons x l ih => exact (ih _).trans rfl

theorem Core.faulted_get (c : Core) (g : Group) (len : Nat) (w : Word) (aw : Option (BitVec 8)) (e : Flt) (l : List Nat) (x : Nat) :
    Tbl.get? (c.faulted g len w aw e l).slots x = if x ∈ l then
      some ((c.micro x).takeFault (e.info (c.micro x) g.fig g.off len g.ll w aw c.eligible)) else Tbl.get? c.slots x := by
  induction l generalizing c with
  | nil => rfl
  | cons y l ih =>
    refine (ih _).trans ?_
    by_cases hx : x = y
    · subst hx
      simp only [Core.modMicro_eq, Core.micro, Tbl.get?_set_self, Option.getD_some, List.mem_cons, true_or, if_true]
      split <;> rfl
    · simp [Core.modMicro_eq, Core.micro, hx, Tbl.get?_set_other _ _ _ _ hx]

theorem State.foldMembers_error (s : State) (n : Nat) (g : Group) (len : Nat) (aw : Option (BitVec 8)) (e : Flt) :
    s.foldMembers n g len aw (fun _ _ _ => .error e) = s.modCore n fun c => c.faulted g len s.curWord aw e g.members := by
  suffices h : ∀ (l : List Nat) (t : State), t.curWord = s.curWord →
      l.foldl (fun t slot => t.faultMember n g len slot aw e) t = t.modCore n fun c => c.faulted g len s.curWord aw e l from
    h g.members s rfl
  intro l
  induction l with
  | nil => exact fun t _ => (State.modCore_id t n rfl).symm
  | cons x l ih =>
    intro t ht
    rw [List.foldl_cons, ih _ (by simp [State.faultMember, ht]), State.faultMember, State.modCore_modCore, ht]
    rfl

theorem reservedEncoding_faults (x : Word) : LaneFault (.reservedEncoding x) (fun _ => True) fun _ w => (0x01#8, w) := by
  intro s n k g slot m ⟨⟨c, hs⟩, hmem, hm⟩ _
  have hn := (State.seat_parts hs).1
  simp only [Answers, exec_reservedEncoding, execReservedEncoding, hs, State.foldMembers_error, State.modCore_modCore]
  generalize (if x.getLsbD 0 then _ else 2 : Nat) = len
  generalize (if x.extractLsb' 0 7 == 0x7F#7 then _ else none : Option (BitVec 8)) = aw
  refine ⟨_, rfl, ?_, ?_⟩
  · rw [State.modCore_congr s n (g := fun _ => Core.endTurn { s.core n with
      slots := ((s.core n).faulted g len s.curWord aw .illegal g.members).slots } k g len 1 false)
      (congrArg (Core.endTurn · k g len 1 false) (Core.faulted_eq _ _ _ _ _ _ _))]
    exact onlyMembers_turn s n k g _ len 1 false hn fun y hy => by rw [Core.faulted_get, if_neg hy]
  · refine ⟨Flt.illegal.info m g.fig g.off len g.ll s.curWord aw (s.core n).eligible, ?_, rfl, rfl, rfl, rfl⟩
    rw [State.microAt, State.core_modCore_self _ _ _ hn, Core.endTurn_slots, Core.faulted_get, if_pos hmem, State.micro_of_microAt hm]
    rfl

end
end Sys2Proof.Machine

namespace Sys2Proof.Proofs
open Sys2Proof Sys2Proof.Machine

/-- Settles O20: the trailers' faults, then the operands' faults in the order of their checks, then the instructions that raise their own. -/
theorem preciseFaultResults : Obligations.PreciseFaultResults := by
  refine ⟨fun aw p sense off far q =>
      ⟨br_called aw p sense off, jmp_called aw off, call_called aw p sense off, ret_called aw p sense, farOffset_called aw p sense far,
        farRegister_called aw p sense q, br_lost aw p sense off, jmp_lost aw off, call_full aw p sense off, ret_empty aw p sense⟩,
    fun d a b => ⟨fun i hi => (twoSources_sample hi).faults, fun x hx => ?_, fun m v r => m.setReg_bad_at v r, trap_faults, ebrk_faults,
      reservedEncoding_faults, setrm_faults, fun i hi => ?_, ?_, ?_⟩⟩
  · simp only [List.mem_cons, List.not_mem_nil, or_false] at hx
    rcases hx with rfl | rfl | rfl | rfl | rfl
    · exact LaneResult.of_op2 (exec_add d a b)
    · exact LaneResult.of_op2 (exec_sub d a b)
    · exact LaneResult.of_op2 (exec_and d a b)
    · exact LaneResult.of_op2 (exec_or d a b)
    · exact LaneResult.of_op2 (exec_xor d a b)
  · simp only [List.mem_cons, List.not_mem_nil, or_false] at hi
    rcases hi with rfl | rfl
    · exact pack_reserved (exec_pke4 d a b)
    · exact pack_reserved (exec_pke5 d a b)
  · exact LaneFault.of_lanes (fun _ => .reserved 0) (exec_pkb4 d a b) (fun _ _ m h => Micro.packBlock_reserved h.1 h.2) fun _ _ => rfl
  · exact LaneFault.of_lanes (fun _ => .reserved 0) (exec_upb4 d a) (fun _ _ m h => Micro.unpackBlock_reserved h.1 h.2) fun _ _ => rfl

end Sys2Proof.Proofs

/-! The caller's turn: what an Xfig instruction that is done, stalls or traps gives (R190, R194, R280). -/

namespace Sys2Proof.Machine

theorem Tbl.modify_modify {α : Type} (t : Tbl α) (k : Nat) (f g : α → α) :
    Tbl.modify (Tbl.modify t k f) k g = Tbl.modify t k fun a => g (f a) := by
  induction t with
  | nil => rfl
  | cons p t ih =>
    obtain ⟨j, a⟩ := p
    by_cases h : j = k <;> simp [Tbl.modify, h, ih]

section
variable {s t u : State} {n l : Nat} {r : Res} {f g : Res → Res}

/-! A launch of a core changed. -/

theorem State.modRes_modRes (s : State) (n l : Nat) (f g : Res → Res) :
    (s.modRes n l f).modRes n l g = s.modRes n l fun r => g (f r) := by
  simp only [State.modRes, State.modCore_modCore, Core.modRes, Tbl.modify_modify]

theorem State.modRes_core (s : State) (n l : Nat) (f : Res → Res) (hn : n < 80) :
    (s.modRes n l f).core n = { s.core n with res := Tbl.modify (s.core n).res l f } :=
  State.core_modCore_self s n _ hn

theorem State.res?_modRes (hn : n < 80) (x : Nat) :
    (s.modRes n l f).res? n x = (s.res? n x).map fun r => if x = l then f r else r := by
  rw [State.res?, State.modRes_core s n l f hn]
  exact Tbl.get?_modify _ _ _ _

theorem State.res?_modRes_at (hn : n < 80) : (s.modRes n l f).res? n l = (s.res? n l).map f := by
  rw [State.res?_modRes hn]
  simp

theorem State.res?_modRes_self (hn : n < 80) (hr : s.res? n l = some r) : (s.modRes n l f).res? n l = some (f r) := by
  rw [State.res?_modRes hn, hr]
  simp

theorem OnlyLaunch.modRes (hn : n < 80) : OnlyLaunch n l s (s.modRes n l f) := by
  refine ⟨State.modCore_eq s n _, fun x hx => State.core_modCore_other s n x _ hx, ?_, fun x hx => ?_⟩
  · rw [State.modRes_core s n l f hn]
  · rw [State.res?_modRes hn]
    simp [hx]

theorem OnlyLaunch.trans (h : OnlyLaunch n l s t) (h' : OnlyLaunch n l t u) : OnlyLaunch n l s u := by
  obtain ⟨h1, h2, h3, h4⟩ := h
  obtain ⟨g1, g2, g3, g4⟩ := h'
  refine ⟨?_, fun x hx => (g2 x hx).trans (h2 x hx), ?_, fun x hx => (g4 x hx).trans (h4 x hx)⟩
  · rw [g1, h1]
  · rw [g3, h3]

theorem OnlyLaunch.mem (h : OnlyLaunch n l s t) : t.mem = s.mem := by rw [h.1]

theorem OnlyLaunch.micros (h : OnlyLaunch n l s t) : OnlyMicros n s t := by
  obtain ⟨h1, h2, h3, -⟩ := h
  refine ⟨h1, h2, ?_⟩
  rw [h3]

theorem OnlyLaunch.microAt (h : OnlyLaunch n l s t) (x : Nat) : t.microAt n x = s.microAt n x := by
  rw [State.microAt, h.2.2.1, State.microAt]

theorem OnlyMicros.trans (h : OnlyMicros n s t) (h' : OnlyMicros n t u) : OnlyMicros n s u := by
  obtain ⟨h1, h2, h3⟩ := h
  obtain ⟨g1, g2, g3⟩ := h'
  refine ⟨?_, fun x hx => (g2 x hx).trans (h2 x hx), ?_⟩
  · rw [g1, h1]
  · rw [g3, h3]

/-! The caller (R190, R280). -/

@[simp] theorem Caller.setReg_pc (h : Caller) (rd : XReg) (v : DWord) : (h.setReg rd v).pc = h.pc := by
  unfold Caller.setReg; split <;> rfl

/-- A caller whose Xfig instruction is done (R194). -/
def Caller.xdone (h : Caller) (rd : XReg) (v : DWord) : Caller := { h.setReg rd v with pc := h.pc + 4#64, stall := none }

/-- A launch whose caller's Xfig instruction is done. -/
def Res.xdone (r : Res) (rd : XReg) (v : DWord) : Res := { r with caller := r.caller.xdone rd v }

theorem State.modCaller_eq (s : State) (n l : Nat) (f : Caller → Caller) :
    s.modCaller n l f = s.modRes n l fun r => { r with caller := f r.caller } := rfl

theorem State.xdone_eq (s : State) (n l : Nat) (rd : XReg) (v : DWord) :
    (s.setX n l rd v).modCaller n l (fun h => { h with pc := h.pc + 4#64, stall := none }) = s.modRes n l (Res.xdone · rd v) := by
  simp only [State.setX, State.modCaller_eq, State.modRes_modRes, Caller.setReg_pc]
  rfl

theorem putBit_getLsbD (v : DWord) {i j : Nat} (b : Bool) (hi : i < 64) : (putBit v j b).getLsbD i = if i = j then b else v.getLsbD i := by
  unfold putBit
  cases b
  case true =>
    simp only [if_true, BitVec.getLsbD_or, getLsbD_one_shiftLeft hi]
    by_cases h : i = j <;> simp [h]
  case false =>
    simp only [Bool.false_eq_true, if_false, BitVec.getLsbD_and, BitVec.getLsbD_not, getLsbD_one_shiftLeft hi]
    by_cases h : i = j <;> simp [h, hi]

/-- What an exception makes of a caller (R190, R280; log 3). -/
theorem Caller.trapped (h : Caller) (cause : Nat) (tval : DWord) : h.Trapped (h.trap cause tval) cause tval := by
  refine ⟨rfl, fun i hi => ?_⟩
  simp only [Caller.trap, putBit_getLsbD _ _ hi, sstatusSie, sstatusSpie, sstatusSpp]
  by_cases h1 : i = 1
  · subst h1; rfl
  · by_cases h8 : i = 8
    · subst h8; rfl
    · simp [h1, h8]

/-! An Xfig instruction of the caller in focus (R194-R203). -/

section
variable {k : Option Stall} {act : State → Nat → Nat → Core → Res → XRes} {i : Instr} {rd : XReg} {v : Nat}

theorem State.Calling.seat (h : s.Calling n l r) : s.callerSeat? = some (n, l, s.core n, r) := by
  obtain ⟨hf, hn, hr⟩ := h
  simp only [State.res?] at hr
  simp [State.callerSeat?, hf, State.cores_at s n hn, hr]

theorem xfig_done (h : s.Calling n l r) {w : DWord} (ha : act s n l (s.core n) r = .done (u.setX n l rd w)) :
    xfig k act s = .next (u.modRes n l (Res.xdone · rd w)) := by
  simp only [xfig, h.seat, ha, State.xdone_eq]

theorem xfig_stall (h : s.Calling n l r) (ha : act s n l (s.core n) r = .stall u) :
    xfig k act s = .next (u.modRes n l fun r => { r with caller := { r.caller with stall := k } }) := by
  simp only [xfig, h.seat, ha, State.modCaller_eq]

theorem xfig_trap (h : s.Calling n l r) {cause : Nat} {tval : DWord} (ha : act s n l (s.core n) r = .trap cause tval) :
    xfig k act s = .next (s.modRes n l fun r => { r with caller := r.caller.trap cause tval }) := by
  simp only [xfig, h.seat, ha, State.modCaller_eq]

/-- The launch that an Xfig instruction is done for. -/
theorem XfigDone.of_res (h : s.Calling n l r) (hu : u.res? n l = some (f r)) (hc : (f r).caller = r.caller)
    (hcores : ∀ x, x ≠ n → u.core x = s.core x) (hres : ∀ x, x ≠ l → u.res? n x = s.res? n x) (hmem : u.mem = s.mem) :
    XfigDone n l r rd v f s (u.modRes n l (Res.xdone · rd (BitVec.ofNat 64 v))) := by
  obtain ⟨-, hn, -⟩ := h
  have ho := OnlyLaunch.modRes (s := u) (l := l) (f := (Res.xdone · rd (BitVec.ofNat 64 v))) hn
  refine ⟨?_, fun x hx => (ho.2.1 x hx).trans (hcores x hx), fun x hx => (ho.2.2.2 x hx).trans (hres x hx), ho.mem.trans hmem⟩
  rw [State.res?_modRes_self hn hu, Res.xdone, hc]
  rfl

/-- An Xfig instruction that changes its launch alone, and is done. -/
theorem xfig_done_launch (h : s.Calling n l r) (ha : act s n l (s.core n) r = .done ((s.modRes n l f).setX n l rd (BitVec.ofNat 64 v)))
    (hc : (f r).caller = r.caller) (he : exec i s = xfig k act s) :
    Answers i s fun t => XfigDone n l r rd v f s t ∧ OnlyLaunch n l s t := by
  have hn := h.2.1
  have ho := OnlyLaunch.modRes (s := s) (l := l) (f := f) hn
  exact ⟨_, he.trans (xfig_done h ha), XfigDone.of_res h (State.res?_modRes_self hn h.2.2) hc ho.2.1 ho.2.2.2 ho.mem,
    ho.trans (OnlyLaunch.modRes hn)⟩

theorem State.modRes_id (s : State) (n l : Nat) : s.modRes n l (fun r => r) = s := by
  refine State.modCore_id s n ?_
  have : Tbl.modify (s.core n).res l (fun r => r) = (s.core n).res := by
    generalize (s.core n).res = t
    induction t with
    | nil => rfl
    | cons p t ih =>
      obtain ⟨j, a⟩ := p
      by_cases h : j = l <;> simp [Tbl.modify, h, ih]
  rw [Core.modRes, this]

/-- An Xfig instruction that gives a value and is done. -/
theorem xfig_gives (h : s.Calling n l r) (ha : act s n l (s.core n) r = .done (s.setX n l rd (BitVec.ofNat 64 v)))
    (he : exec i s = xfig k act s) : Answers i s fun t => XfigDone n l r rd v (fun r => r) s t ∧ OnlyLaunch n l s t :=
  xfig_done_launch (f := fun r => r) h (by rwa [State.modRes_id]) rfl he

/-- An Xfig instruction that changes micro-threads of its core, and is done. -/
theorem xfig_done_micros (h : s.Calling n l r) {F : Core → Core}
    (hF : F (s.core n) = { s.core n with slots := (F (s.core n)).slots, eligible := (F (s.core n)).eligible })
    (ha : act s n l (s.core n) r = .done ((s.modCore n F).setX n l rd (BitVec.ofNat 64 v))) (he : exec i s = xfig k act s) :
    Answers i s fun t => XfigDone n l r rd v (fun r => r) s t ∧
      (∀ x, t.microAt n x = Tbl.get? (F (s.core n)).slots x) ∧ OnlyMicros n s t := by
  have hn := h.2.1
  have hcore := State.core_modCore_self s n F hn
  have hres (x : Nat) : (s.modCore n F).res? n x = s.res? n x := by rw [State.res?, hcore, hF, State.res?]
  have hcores (x : Nat) (hx : x ≠ n) : (s.modCore n F).core x = s.core x := State.core_modCore_other s n x F hx
  have ho : OnlyLaunch n l (s.modCore n F) _ := OnlyLaunch.modRes (f := (Res.xdone · rd (BitVec.ofNat 64 v))) hn
  refine ⟨_, he.trans (xfig_done h ha), XfigDone.of_res h ((hres l).trans h.2.2) rfl hcores (fun x _ => hres x) (State.modCore_mem _ _ _),
    fun x => (ho.microAt x).trans (congrArg (fun c : Core => Tbl.get? c.slots x) hcore), OnlyMicros.trans ⟨State.modCore_eq s n F, hcores, ?_⟩ ho.micros⟩
  have hr : (F (s.core n)).res = (s.core n).res := by rw [hF]
  rw [hcore, hr]
  exact hF

theorem xfig_stalls {st : Stall} (h : s.Calling n l r) (ha : act s n l (s.core n) r = .stall s) (he : exec i s = xfig (some st) act s) :
    Answers i s fun t => t.res? n l = some { r with caller := { r.caller with stall := some st } } ∧ OnlyLaunch n l s t :=
  ⟨_, he.trans (xfig_stall h ha), State.res?_modRes_self h.2.1 h.2.2, OnlyLaunch.modRes h.2.1⟩

theorem xfig_traps {cause : Nat} {tval : DWord} (h : s.Calling n l r) (ha : act s n l (s.core n) r = .trap cause tval)
    (he : exec i s = xfig k act s) : Answers i s fun t =>
      (∃ u, t.res? n l = some { r with caller := u } ∧ r.caller.Trapped u cause tval) ∧ OnlyLaunch n l s t :=
  ⟨_, he.trans (xfig_trap h ha), ⟨_, State.res?_modRes_self h.2.1 h.2.2, Caller.trapped _ _ _⟩, OnlyLaunch.modRes h.2.1⟩

end
end
end Sys2Proof.Machine

/-! FIG.CALL, FIG.SYNC, FIG.WAIT, FIG.MBOX, FIG.EVENT, FIG.INBOX and FIG.REPLAY (R26, R193, R195, R196, R201, R202). -/

namespace Sys2Proof.Machine

section
variable {s : State} {n l : Nat} {r : Res} {c : Core} {rd rs1 rs2 : XReg}

theorem exec_figCall : exec (.figCall rd rs1 rs2) s = xfig (some (.call rd rs1 rs2)) (figCallAct rd rs1 rs2) s := rfl
theorem exec_figSync : exec (.figSync rd rs1) s = xfig (some (.sync rd rs1)) (figSyncAct rd rs1) s := rfl
theorem exec_figWait : exec (.figWait rd) s = xfig (some (.wait rd)) (figWaitAct rd) s := rfl
theorem exec_figMbox : exec (.figMbox rd rs1) s = xfig none (figMboxAct rd rs1) s := rfl
theorem exec_figEvent : exec (.figEvent rd) s = xfig none (figEventAct rd) s := rfl
theorem exec_figInbox : exec (.figInbox rd rs1 rs2) s = xfig none (figInboxAct rd rs1 rs2) s := rfl
theorem exec_figReplay : exec (.figReplay rd rs1 rs2) s = xfig none (figReplayAct rd rs1 rs2) s := rfl

/-! Selectors (R195). -/

theorem toNat_field_zero {v : DWord} (i k : Nat) :
    v.toNat / 2 ^ i % 2 ^ k = 0 ↔ ∀ j, i ≤ j → j < i + k → v.getLsbD j = false := by
  have field (j : Nat) : (v.toNat / 2 ^ i % 2 ^ k).testBit j = (decide (j < k) && v.getLsbD (i + j)) := by
    rw [Nat.testBit_mod_two_pow, Nat.testBit_div_two_pow, BitVec.getLsbD, Nat.add_comm j]
  constructor
  · intro h j hi hk
    have := field (j - i)
    rw [h, Nat.zero_testBit, Nat.add_sub_cancel' hi, decide_eq_true (by omega), Bool.true_and] at this
    exact this.symm
  · intro h
    refine Nat.eq_of_testBit_eq fun j => ?_
    rw [field, Nat.zero_testBit]
    by_cases hj : j < k
    · simp [h (i + j) (by omega) (by omega)]
    · simp [hj]

/-- The bits of a selector that must be 0 (R195). -/
theorem selector_clear (sel : DWord) : sel &&& 0x7FFFFC00FFFFFC00#64 = 0#64 ↔
    sel.toNat / 2 ^ 10 % 2 ^ 22 = 0 ∧ sel.toNat / 2 ^ 42 % 2 ^ 21 = 0 := by
  have mask : ∀ j : Fin 64, (0x7FFFFC00FFFFFC00#64).getLsbD j = decide ((10 ≤ j.val ∧ j.val < 32) ∨ 42 ≤ j.val ∧ j.val < 63) := by
    decide
  rw [toNat_field_zero, toNat_field_zero]
  constructor
  · intro h
    have clear (j : Nat) (hj : j < 64) (hm : (10 ≤ j ∧ j < 32) ∨ 42 ≤ j ∧ j < 63) : sel.getLsbD j = false := by
      have := congrArg (BitVec.getLsbD · j) h
      simpa only [BitVec.getLsbD_and, mask ⟨j, hj⟩, hm, decide_true, Bool.and_true, BitVec.getLsbD_zero] using this
    exact ⟨fun j _ _ => clear j (by omega) (by omega), fun j _ _ => clear j (by omega) (by omega)⟩
  · intro ⟨h1, h2⟩
    refine BitVec.eq_of_getLsbD_eq fun j hj => ?_
    rw [BitVec.getLsbD_and, mask ⟨j, hj⟩, BitVec.getLsbD_zero, Bool.and_eq_false_imp]
    intro ht
    refine decide_eq_false fun (hm : (10 ≤ j ∧ j < 32) ∨ 42 ≤ j ∧ j < 63) => ?_
    rcases hm with hm | hm
    · exact Bool.false_ne_true ((h1 j hm.1 (by omega)).symm.trans ht)
    · exact Bool.false_ne_true ((h2 j hm.1 (by omega)).symm.trans ht)

theorem Core.mem_selected {sel : DWord} {slot : Nat} : slot ∈ c.selected l sel ↔ c.named l sel slot := by
  have h10 : (sel.extractLsb' 0 10).toNat = sel.toNat % 2 ^ 10 := by simp [BitVec.extractLsb'_toNat]
  have h32 : (sel.extractLsb' 32 10).toNat = sel.toNat / 2 ^ 32 % 2 ^ 10 := by
    simp [BitVec.extractLsb'_toNat, Nat.shiftRight_eq_div_pow]
  simp only [Core.selected, Core.named, h10, h32, ne_eq, ite_not]
  by_cases hs : sel &&& 0x7FFFFC00FFFFFC00#64 = 0#64
  · simp only [hs, if_true, (selector_clear sel).1 hs, true_and]
    split
    case isTrue h63 => simp [h63]
    case isFalse h63 => simp only [h63, List.mem_filter, decide_eq_true_eq, Bool.false_eq_true, false_or]
  · have := mt (selector_clear sel).2 hs
    simp only [hs, if_false, List.not_mem_nil, false_iff]
    exact fun h => this ⟨h.2.1, h.2.2.1⟩

/-- A launch's slots, each once. -/
theorem Core.owned_nodup (h : Tbl.sorted c.slots = true) : (c.owned l).Nodup :=
  List.pairwise_map.2 (((Tbl.pairwise_of_sorted h).imp Nat.ne_of_lt).sublist List.filter_sublist)

theorem Core.selected_nodup (h : Tbl.sorted c.slots = true) (sel : DWord) : (c.selected l sel).Nodup := by
  unfold Core.selected
  split
  · exact List.nodup_nil
  · split
    · exact Core.owned_nodup h
    · exact (Core.owned_nodup h).filter _

/-- The number of elements of a list that the same elements, each once, number. -/
theorem length_of_mem_iff {xs ys : List Nat} (hx : xs.Nodup) (hy : ys.Nodup) (h : ∀ x, x ∈ xs ↔ x ∈ ys) : xs.length = ys.length :=
  ((List.perm_ext_iff_of_nodup hx hy).2 h).length_eq

/-! FIG.CALL (R26, R195). -/

/-- A called figure enters a micro-thread's queue; one whose queue was empty is newly eligible (R38). -/
def Core.queueFig (fig : Word) (c : Core) (slot : Nat) : Core :=
  let fresh := (c.micro slot).callq.isEmpty
  let c := c.modMicro slot fun m => { m with callq := m.callq ++ [fig] }
  if fresh then c.stamp slot else c

theorem Core.queueFig_eq (fig : Word) (c : Core) (slot : Nat) : c.queueFig fig slot =
    { c with
      slots := Tbl.set c.slots slot { c.micro slot with
        callq := (c.micro slot).callq ++ [fig]
        since := if (c.micro slot).callq = [] then c.eligible else (c.micro slot).since }
      eligible := if (c.micro slot).callq = [] then c.eligible + 1 else c.eligible } := by
  by_cases h : (c.micro slot).callq = [] <;>
    simp [Core.queueFig, Core.stamp_eq, Core.modMicro_eq, h]

/-- A micro-thread with one figure more in its queue. -/
def Queued (fig : Word) (eligible : Nat) (m u : Micro) : Prop :=
  u = { m with callq := m.callq ++ [fig], since := u.since } ∧ (m.callq ≠ [] → u.since = m.since) ∧ (m.callq = [] → eligible ≤ u.since)

theorem Core.foldl_queueFig (fig : Word) {xs : List Nat} (hx : xs.Nodup) (c : Core) :
    (∀ x ∈ xs, ∃ u, Tbl.get? (xs.foldl (Core.queueFig fig) c).slots x = some u ∧ Queued fig c.eligible (c.micro x) u) ∧
      (∀ x, x ∉ xs → Tbl.get? (xs.foldl (Core.queueFig fig) c).slots x = Tbl.get? c.slots x) ∧
      xs.foldl (Core.queueFig fig) c = { c with
        slots := (xs.foldl (Core.queueFig fig) c).slots, eligible := (xs.foldl (Core.queueFig fig) c).eligible } := by
  induction xs generalizing c with
  | nil => exact ⟨fun x h => absurd h List.not_mem_nil, fun _ _ => rfl, rfl⟩
  | cons y ys ih =>
    obtain ⟨hy, hys⟩ := List.nodup_cons.1 hx
    obtain ⟨hin, hout, hcore⟩ := ih hys (c.queueFig fig y)
    have hslots := congrArg Core.slots (Core.queueFig_eq fig c y)
    have hel : c.eligible ≤ (c.queueFig fig y).eligible := by
      rw [Core.queueFig_eq]
      dsimp only
      split <;> omega
    refine ⟨fun x hxs => ?_, fun x hxs => ?_, ?_⟩
    · by_cases hxy : x = y
      · subst hxy
        refine ⟨_, (hout x hy).trans ((congrArg (Tbl.get? · x) hslots).trans (Tbl.get?_set_self _ _ _)), rfl, fun h => if_neg h, fun h => ?_⟩
        exact (if_pos h).ge
      · obtain ⟨u, hu, hq⟩ := hin x ((List.mem_cons.1 hxs).resolve_left hxy)
        have hm : (c.queueFig fig y).micro x = c.micro x := by
          rw [Core.micro, hslots, Tbl.get?_set_other _ _ _ _ hxy, Core.micro]
        rw [hm] at hq
        exact ⟨u, hu, hq.1, hq.2.1, fun h => hel.trans (hq.2.2 h)⟩
    · obtain ⟨hxy, hxs⟩ := not_or.1 (mt List.mem_cons.2 hxs)
      rw [List.foldl_cons, hout x hxs, hslots, Tbl.get?_set_other _ _ _ _ hxy]
    · rw [List.foldl_cons, hcore, Core.queueFig_eq]


/-- The micro-threads that take a call (R26, R195). -/
def Core.reached (c : Core) (l : Nat) (sel : DWord) : List Nat :=
  (c.selected l sel).filter fun slot => (c.micro slot).life == .called && (c.micro slot).mode == .called

theorem Core.mem_reached {sel : DWord} {x : Nat} :
    x ∈ c.reached l sel ↔ c.named l sel x ∧ (c.micro x).life = .called ∧ (c.micro x).mode = .called := by
  simp [Core.reached, Core.mem_selected]

theorem figCallAct_eq : figCallAct rd rs1 rs2 s n l c r =
    if (c.reached l (r.caller.reg rs2)).any fun slot => decide (4 ≤ (c.micro slot).callq.length) then .stall s
    else .done ((s.modCore n fun d => (c.reached l (r.caller.reg rs2)).foldl (Core.queueFig ((r.caller.reg rs1).setWidth 32)) d).setX n l rd
      (BitVec.ofNat 64 (c.reached l (r.caller.reg rs2)).length)) := rfl

/-- A FIG.CALL that finds room in every queue. -/
theorem figCall_queues (h : s.Calling n l r) (hs : Tbl.sorted (s.core n).slots = true) {slots : List Nat} (hnd : slots.Nodup)
    (hmem : ∀ x, x ∈ slots ↔
      (s.core n).named l (r.caller.reg rs2) x ∧ ((s.core n).micro x).life = .called ∧ ((s.core n).micro x).mode = .called)
    (hroom : ∀ x ∈ slots, ((s.core n).micro x).callq.length < 4) :
    Answers (.figCall rd rs1 rs2) s fun t =>
      XfigDone n l r rd slots.length (fun r => r) s t ∧
      (∀ x ∈ slots, ∃ u, t.microAt n x = some u ∧
        Queued ((r.caller.reg rs1).setWidth 32) (s.core n).eligible ((s.core n).micro x) u) ∧
      (∀ x, x ∉ slots → t.microAt n x = s.microAt n x) ∧ OnlyMicros n s t := by
  have hn := h.2.1
  have hmem' (x : Nat) : x ∈ (s.core n).reached l (r.caller.reg rs2) ↔ x ∈ slots := Core.mem_reached.trans (hmem x).symm
  have hnd' : ((s.core n).reached l (r.caller.reg rs2)).Nodup := (Core.selected_nodup hs _).filter _
  rw [← length_of_mem_iff hnd' hnd hmem']
  simp only [← hmem']
  simp only [← hmem'] at hroom
  generalize hxs : (s.core n).reached l (r.caller.reg rs2) = xs at *
  have ha : figCallAct rd rs1 rs2 s n l (s.core n) r = .done
      ((s.modCore n fun d => xs.foldl (Core.queueFig ((r.caller.reg rs1).setWidth 32)) d).setX n l rd (BitVec.ofNat 64 xs.length)) := by
    rw [figCallAct_eq, hxs, if_neg]
    simpa using hroom
  obtain ⟨hin, hout, hcore⟩ := Core.foldl_queueFig ((r.caller.reg rs1).setWidth 32) hnd' (s.core n)
  obtain ⟨t, ht, hdone, hmicro, ho⟩ := xfig_done_micros h hcore ha exec_figCall
  exact ⟨t, ht, hdone, fun x hx => (hin x hx).imp fun u hu => ⟨(hmicro x).trans hu.1, hu.2⟩, fun x hx => (hmicro x).trans (hout x hx), ho⟩

theorem figCall_stalls (h : s.Calling n l r) {x : Nat} (hx : (s.core n).named l (r.caller.reg rs2) x ∧
      ((s.core n).micro x).life = .called ∧ ((s.core n).micro x).mode = .called) (hfull : 4 ≤ ((s.core n).micro x).callq.length) :
    Answers (.figCall rd rs1 rs2) s fun t =>
      t.res? n l = some { r with caller := { r.caller with stall := some (.call rd rs1 rs2) } } ∧ OnlyLaunch n l s t :=
  xfig_stalls h (by rw [figCallAct_eq, if_pos (List.any_eq_true.2 ⟨x, Core.mem_reached.2 hx, decide_eq_true hfull⟩)]) exec_figCall

/-! FIG.SYNC and FIG.WAIT (R196). -/

/-- A called figure is queued or in flight. -/
def Core.Busy (c : Core) (slot : Nat) : Prop := (c.micro slot).callq ≠ [] ∨ c.inFlight slot = true

/-- A called micro-thread that has nothing left. -/
def Core.idle (c : Core) (slot : Nat) : Bool := (c.micro slot).life == .called && (c.micro slot).callq.isEmpty && !c.inFlight slot

theorem Core.idle_iff {x : Nat} : c.idle x = true ↔ (c.micro x).life = .called ∧ ¬ c.Busy x := by
  simp [Core.idle, Core.Busy, and_assoc]

theorem figSyncAct_eq : figSyncAct rd rs1 s n l c r =
    if (c.selected l (r.caller.reg rs1)).all fun x => c.idle x || ((c.micro x).life == .retired || (c.micro x).life == .faulted) then
      .done (s.setX n l rd (BitVec.ofNat 64 ((c.selected l (r.caller.reg rs1)).filter c.idle).length))
    else .stall s := rfl

theorem figSync_done (h : s.Calling n l r) (hs : Tbl.sorted (s.core n).slots = true) {done : List Nat} (hnd : done.Nodup)
    (hmem : ∀ x, x ∈ done ↔ (s.core n).named l (r.caller.reg rs1) x ∧ ((s.core n).micro x).life = .called ∧ ¬ (s.core n).Busy x)
    (hall : ∀ x, (s.core n).named l (r.caller.reg rs1) x →
      x ∈ done ∨ ((s.core n).micro x).life = .retired ∨ ((s.core n).micro x).life = .faulted) :
    Answers (.figSync rd rs1) s fun t => XfigDone n l r rd done.length (fun r => r) s t ∧ OnlyLaunch n l s t := by
  have hmem' (x : Nat) : x ∈ ((s.core n).selected l (r.caller.reg rs1)).filter (s.core n).idle ↔ x ∈ done := by
    rw [List.mem_filter, Core.mem_selected, Core.idle_iff, hmem]
  rw [← length_of_mem_iff ((Core.selected_nodup hs _).filter _) hnd hmem']
  refine xfig_gives h ?_ exec_figSync
  rw [figSyncAct_eq, if_pos]
  refine List.all_eq_true.2 fun x hx => ?_
  rcases hall x (Core.mem_selected.1 hx) with hd | hgone
  · simp [(List.mem_filter.1 ((hmem' x).2 hd)).2]
  · simp [hgone]

theorem figSync_stalls (h : s.Calling n l r) {x : Nat} (hx : (s.core n).named l (r.caller.reg rs1) x)
    (hl : ((s.core n).micro x).life = .called) (hb : (s.core n).Busy x) :
    Answers (.figSync rd rs1) s fun t =>
      t.res? n l = some { r with caller := { r.caller with stall := some (.sync rd rs1) } } ∧ OnlyLaunch n l s t := by
  refine xfig_stalls h ?_ exec_figSync
  rw [figSyncAct_eq, if_neg]
  intro hall
  have := List.all_eq_true.1 hall x (Core.mem_selected.2 hx)
  have hidle : (s.core n).idle x = false := Bool.eq_false_iff.2 fun hi => (Core.idle_iff.1 hi).2 hb
  simp [hidle, hl] at this

theorem Core.calledHolds_iff : c.calledHolds l = true ↔ ∀ x ∈ c.owned l, ¬ c.Busy x := by
  simp [Core.calledHolds, Core.Busy]

theorem Core.calledHolds_false {x : Nat} (hx : x ∈ c.owned l) (hb : c.Busy x) : c.calledHolds l = false :=
  Bool.eq_false_iff.2 fun h => Core.calledHolds_iff.1 h x hx hb


theorem figWait_idle (h : s.Calling n l r) (hb : ∀ x ∈ (s.core n).owned l, ¬ (s.core n).Busy x) :
    Answers (.figWait rd) s fun t => XfigDone n l r rd 0 (fun r => r) s t ∧ OnlyLaunch n l s t :=
  xfig_gives h (if_pos (Core.calledHolds_iff.2 hb)) exec_figWait

theorem figWait_event (h : s.Calling n l r) {x : Nat} (hx : x ∈ (s.core n).owned l) (hb : (s.core n).Busy x)
    (he : (s.core n).enabledEvents l r &&& ~~~4#16 ≠ 0#16) :
    Answers (.figWait rd) s fun t => XfigDone n l r rd 1 (fun r => r) s t ∧ OnlyLaunch n l s t :=
  xfig_gives h (by rw [figWaitAct, Core.calledHolds_false hx hb, if_neg Bool.false_ne_true, if_pos he]) exec_figWait

theorem figWait_stalls (h : s.Calling n l r) {x : Nat} (hx : x ∈ (s.core n).owned l) (hb : (s.core n).Busy x)
    (he : (s.core n).enabledEvents l r &&& ~~~4#16 = 0#16) :
    Answers (.figWait rd) s fun t =>
      t.res? n l = some { r with caller := { r.caller with stall := some (.wait rd) } } ∧ OnlyLaunch n l s t :=
  xfig_stalls h (by rw [figWaitAct, Core.calledHolds_false hx hb, if_neg Bool.false_ne_true, if_neg (not_not.2 he)]) exec_figWait

/-! FIG.MBOX and FIG.EVENT (R193, R201, R274). -/

theorem figMbox_low (h : s.Calling n l r) {b : List Byte} {rest : List (List Byte)} (hb : r.mbox = b :: rest)
    (h0 : r.caller.reg rs1 = 0#64) :
    Answers (.figMbox rd rs1) s fun t => XfigDone n l r rd (natOfBytes (b.take 8)) (fun r => r) s t ∧ OnlyLaunch n l s t :=
  xfig_gives h (by simp only [figMboxAct, hb, h0]; rfl) exec_figMbox

theorem figMbox_high (h : s.Calling n l r) {b : List Byte} {rest : List (List Byte)} (hb : r.mbox = b :: rest)
    (h1 : r.caller.reg rs1 = 1#64) : Answers (.figMbox rd rs1) s fun t =>
      XfigDone n l r rd (natOfBytes (b.drop 8)) (fun r => { r with mbox := rest }) s t ∧ OnlyLaunch n l s t :=
  xfig_done_launch (f := fun r => { r with mbox := rest }) h (by simp only [figMboxAct, hb, h1]; rfl) rfl exec_figMbox

theorem figMbox_empty (h : s.Calling n l r) (hb : r.mbox = []) :
    Answers (.figMbox rd rs1) s fun t => XfigDone n l r rd 0 (fun r => r) s t ∧ OnlyLaunch n l s t :=
  xfig_gives h (by simp only [figMboxAct, hb]) exec_figMbox

theorem Caller.setReg_evPending (h : Caller) (e : BitVec 16) (v : DWord) :
    Caller.setReg { h with evPending := e } rd v = { h.setReg rd v with evPending := e } := by
  unfold Caller.setReg; split <;> rfl

theorem figEvent_reads (h : s.Calling n l r) : Answers (.figEvent rd) s fun t =>
    t.res? n l = some { r with caller :=
      { r.caller.setReg rd (BitVec.ofNat 64 ((s.core n).enabledEvents l r).toNat) with
        evPending := r.caller.evPending &&& ~~~((s.core n).enabledEvents l r), pc := r.caller.pc + 4#64, stall := none } } ∧
      OnlyLaunch n l s t := by
  refine ⟨_, exec_figEvent.trans (xfig_done (u := s.modRes n l _) h rfl), ?_, (OnlyLaunch.modRes h.2.1).trans (OnlyLaunch.modRes h.2.1)⟩
  rw [State.res?_modRes_self h.2.1 (State.res?_modRes_self h.2.1 h.2.2), BitVec.ofNat_toNat, Res.xdone, Caller.xdone,
    Caller.setReg_evPending]

/-! FIG.INBOX (R202). -/

/-- An entry of the launch is taken while there is room for it; another stays (R202). -/
theorem takeEntries_cons (k : Nat) (m : Msg) (q : List Msg) : takeEntries l k (m :: q) =
    if m.launch = l ∧ 0 < k then (m :: (takeEntries l (k - 1) q).1, (takeEntries l (k - 1) q).2)
    else ((takeEntries l k q).1, m :: (takeEntries l k q).2) := by
  cases k with
  | zero => cases q <;> simp [takeEntries]
  | succ k => by_cases h : m.launch = l <;> simp [takeEntries, h]

theorem takeFirst_none {α : Type} {p : α → Bool} {xs : List α} (h : ∀ x ∈ xs, p x = false) : takeFirst p xs = none := by
  induction xs with
  | nil => rfl
  | cons x xs ih => simp [takeFirst, h x List.mem_cons_self, ih fun y hy => h y (List.mem_cons_of_mem _ hy)]

/-- Without messages in the spill ring none is offered (R295). -/
theorem State.offerSpill_none (hr : s.res? n l = some r) (h : ∀ x ∈ r.spill, x.isMsg = false) (fuel : Nat) :
    s.offerSpill n l fuel = s := by
  cases fuel with
  | zero => rfl
  | succ k => simp [State.offerSpill, hr, takeFirst_none h]

theorem figInboxAct_eq {out rest : List Msg} (h : takeEntries l (r.caller.reg rs2).toNat c.inbox = (out, rest)) :
    figInboxAct rd rs1 rs2 s n l c r =
      if (r.caller.reg rs1).toNat % 32 ≠ 0 ∨ !c.inSp (r.caller.reg rs1).toNat (32 * out.length) then .trap 7 (r.caller.reg rs1)
      else if !c.fifo.isEmpty then .again
      else .done ((((s.write (poolAddr n (r.caller.reg rs1).toNat) (out.flatMap Msg.bytes)).modCore n fun c =>
        { c with inbox := rest }).offerSpill n l r.spill.length).setX n l rd (BitVec.ofNat 64 out.length)) := by
  simp only [figInboxAct, h]

/-- A write of memory, as a statement sees it (R191, R284). -/
theorem OnlyWrites.write (s : State) (a : Nat) (bs : List Byte) : OnlyWrites s (s.write a bs) :=
  ⟨rfl, fun _ hx => (List.mem_filter.1 hx).1, rfl, fun _ hx => (List.mem_filter.1 hx).1, fun _ hx => (List.mem_filter.1 hx).1⟩

theorem figInbox_moves (h : s.Calling n l r) {out rest : List Msg}
    (ht : takeEntries l (r.caller.reg rs2).toNat (s.core n).inbox = (out, rest)) (ha : (r.caller.reg rs1).toNat % 32 = 0)
    (hsp : (s.core n).inSp (r.caller.reg rs1).toNat (32 * out.length) = true) (hf : (s.core n).fifo = [])
    (hm : ∀ x ∈ r.spill, x.isMsg = false) : Answers (.figInbox rd rs1 rs2) s fun t =>
      t.res? n l = some { r with caller :=
        { r.caller.setReg rd (BitVec.ofNat 64 out.length) with pc := r.caller.pc + 4#64, stall := none } } ∧
      (∀ x, x ≠ l → t.res? n x = s.res? n x) ∧ (∀ x, x ≠ n → t.core x = s.core x) ∧
      t.core n = { s.core n with res := (t.core n).res, inbox := rest } ∧
      t.mem = Memory.writeN s.mem (poolAddr n (r.caller.reg rs1).toNat) (out.flatMap Msg.bytes) ∧
      OnlyWrites s { t with cores := s.cores } := by
  have hn := h.2.1
  generalize hu : (s.write (poolAddr n (r.caller.reg rs1).toNat) (out.flatMap Msg.bytes)).modCore n
    (fun c => { c with inbox := rest }) = u
  have hcore : u.core n = { s.core n with inbox := rest } := by
    rw [← hu, State.core_modCore_self _ _ _ hn, State.core, State.write_cores, State.core]
  have hres (x : Nat) : u.res? n x = s.res? n x := by rw [State.res?, hcore, State.res?]
  have hact : figInboxAct rd rs1 rs2 s n l (s.core n) r = .done (u.setX n l rd (BitVec.ofNat 64 out.length)) := by
    rw [figInboxAct_eq ht, if_neg (by simp [ha, hsp]), if_neg (by simp [hf]), hu, State.offerSpill_none ((hres l).trans h.2.2) hm]
  obtain ⟨h1, h2, h3, h4⟩ : OnlyLaunch n l u (u.modRes n l (Res.xdone · rd (BitVec.ofNat 64 out.length))) := OnlyLaunch.modRes hn
  refine ⟨_, exec_figInbox.trans (xfig_done h hact), ?_, fun x hx => (h4 x hx).trans (hres x), fun x hx => (h2 x hx).trans ?_, ?_, ?_, ?_⟩
  · exact State.res?_modRes_self hn ((hres l).trans h.2.2)
  · rw [← hu, State.core_modCore_other _ _ _ _ hx]; rfl
  · rw [h3, hcore]
  · rw [h1, ← hu]
    exact State.modCore_mem _ _ _
  · rw [h1, ← hu, State.modCore_eq]
    exact OnlyWrites.write _ _ _

theorem figInbox_traps (h : s.Calling n l r) (ha : (r.caller.reg rs1).toNat % 32 ≠ 0) : Answers (.figInbox rd rs1 rs2) s fun t =>
    (∃ u, t.res? n l = some { r with caller := u } ∧ r.caller.Trapped u 7 (r.caller.reg rs1)) ∧ OnlyLaunch n l s t :=
  xfig_traps h (by rw [figInboxAct_eq rfl, if_pos (.inl ha)]) exec_figInbox

/-! FIG.REPLAY (R202, R262). -/

theorem figReplay_traps (h : s.Calling n l r) (ha : (r.caller.reg rs1).toNat % 32 ≠ 0 ∨
      (s.core n).inSp (r.caller.reg rs1).toNat (32 * (r.caller.reg rs2).toNat) = false) :
    Answers (.figReplay rd rs1 rs2) s fun t =>
      (∃ u, t.res? n l = some { r with caller := u } ∧ r.caller.Trapped u 5 (r.caller.reg rs1)) ∧ OnlyLaunch n l s t :=
  xfig_traps h (by rw [figReplayAct, if_pos (by simpa using ha)]) exec_figReplay

theorem figReplayAct_eq (ha : (r.caller.reg rs1).toNat % 32 = 0)
    (hsp : c.inSp (r.caller.reg rs1).toNat (32 * (r.caller.reg rs2).toNat) = true) (hb : s.callerBusy n l = false) :
    figReplayAct rd rs1 rs2 s n l c r =
      .done ((s.replay n l (r.caller.reg rs1).toNat (r.caller.reg rs2).toNat 0).1.setX n l rd
        (BitVec.ofNat 64 (s.replay n l (r.caller.reg rs1).toNat (r.caller.reg rs2).toNat 0).2)) := by
  rw [figReplayAct, if_neg (by simp [ha, hsp]), if_neg (by simp [hb])]

theorem State.replay_none {off k : Nat} (h : k = 0 ∨ 256 ≤ (s.core n).inbox.length) : s.replay n l off k 0 = (s, 0) := by
  cases k with
  | zero => rfl
  | succ k => rw [State.replay, if_pos (by simpa using h)]

theorem State.replay_one {off : Nat} (h : (s.core n).inbox.length < 256) : s.replay n l off 1 0 =
    (match Msg.ofBytes l (Memory.readN s.mem (poolAddr n off) 32) with
      | some m => s.takeMsg n m
      | none => (s.consume n l).countStale n, 1) := by
  rw [State.replay, if_neg (by omega)]
  rfl

end
end Sys2Proof.Machine

namespace Sys2Proof.Proofs
open Sys2Proof Sys2Proof.Machine

/-- Settles O29, instruction by instruction of the caller in focus. -/
theorem figureCallAndMailboxResults : Obligations.FigureCallAndMailboxResults := by
  refine ⟨fun rd rs1 rs2 s n l r h hs => ⟨fun slots hnd hmem hroom => figCall_queues h hs hnd hmem hroom,
      fun x hx hfull => figCall_stalls h hx hfull, fun done hnd hmem hall => figSync_done h hs hnd hmem hall,
      fun x hx hl hb => figSync_stalls h hx hl hb, fun hb => figWait_idle h ?_, fun x hx hb he => figWait_event h hx hb he,
      fun x hx hb he => figWait_stalls h hx hb he⟩,
    fun rd rs1 rs2 s n l r h => ⟨fun b rest hb h0 => figMbox_low h hb h0, fun b rest hb h1 => figMbox_high h hb h1,
      fun hb => figMbox_empty h hb, figEvent_reads h,
      fun out rest ht ha hsp hf hm => figInbox_moves h ht ha hsp hf hm, fun q m out rest ht => ?_, fun ha => figInbox_traps h ha,
      fun ha => figReplay_traps h ha, fun ha hsp hb => ⟨fun hk => ?_, fun hk hi => ?_⟩⟩⟩
  · intro x hx
    simpa [Core.Busy] using hb x hx
  · rw [takeEntries_cons] at ht
    split at ht
    case isTrue hm =>
      obtain ⟨rfl, rfl⟩ := Prod.mk.inj ht
      rw [if_pos hm]
      exact ⟨rfl, rfl⟩
    case isFalse hm =>
      obtain ⟨rfl, rfl⟩ := Prod.mk.inj ht
      rw [if_neg hm]
      exact ⟨_, rfl, rfl⟩
  · exact xfig_gives h (by rw [figReplayAct_eq ha hsp hb, State.replay_none hk]) exec_figReplay
  · refine ⟨_, exec_figReplay.trans (xfig_done h (figReplayAct_eq ha hsp hb)), ?_⟩
    rw [hk, State.replay_one hi]
    exact ⟨State.res?_modRes_at h.2.1, OnlyLaunch.modRes h.2.1⟩

end Sys2Proof.Proofs

/-! What a recut of a launch's sets leaves alone (R33, R268): fences come and go, and levels of the launch move. -/

namespace Sys2Proof.Machine

/-- Fences have begun or ended, and with them lines of clusters may have gone; nothing else changed (R174, R330). -/
def OnlyFences (s t : State) : Prop := t = { s with flights := t.flights, clusters := t.clusters, nextId := t.nextId }

section
variable {s t u : State} {n l slot k dom : Nat}

theorem OnlyFences.refl (s : State) : OnlyFences s s := rfl

theorem OnlyFences.trans (h : OnlyFences s t) (h' : OnlyFences t u) : OnlyFences s u := by
  unfold OnlyFences at *
  rw [h', h]

theorem OnlyFences.core (h : OnlyFences s t) (x : Nat) : t.core x = s.core x := by
  rw [h]; rfl

theorem OnlyFences.mem (h : OnlyFences s t) : t.mem = s.mem := by rw [h]

theorem OnlyFences.foldl {α : Type} {f : State → α → State} (hf : ∀ s x, OnlyFences s (f s x)) (xs : List α) (s : State) :
    OnlyFences s (xs.foldl f s) := by
  induction xs generalizing s with
  | nil => rfl
  | cons x xs ih => exact (hf s x).trans (ih _)

theorem OnlyFences.modCluster (s : State) (n : Nat) (f : Cluster → Cluster) : OnlyFences s (s.modCluster n f) := by
  unfold OnlyFences State.modCluster
  split <;> rfl

theorem OnlyFences.endFence (s : State) (p : Nat × Flight) : OnlyFences s (s.endFence p) := by
  unfold State.endFence
  split
  · dsimp only
    split
    · exact (OnlyFences.trans (t := s.dropFlight p.1) rfl (OnlyFences.modCluster _ _ _)).trans rfl
    · rfl
  · rfl

theorem OnlyFences.settle (s : State) : OnlyFences s s.settle := OnlyFences.foldl OnlyFences.endFence _ s

theorem OnlyFences.addFence (s : State) (n l slot : Nat) (gen : Half) (kind scope : Nat) :
    OnlyFences s (s.addFence n l slot gen kind scope) := by
  unfold State.addFence
  split <;> rfl

/-! Levels of one launch have moved. -/

/-- Levels of the launch `l` on core `n` have moved, and fences and waits of its micro-threads with them. -/
structure LevelsMove (n l : Nat) (s t : State) : Prop where
  mem : t.mem = s.mem
  cores : ∀ x, x ≠ n → t.core x = s.core x
  others : ∀ x, x ≠ l → t.res? n x = s.res? n x
  launch : (t.res? n l).map (fun r => { r with levels := [] }) = (s.res? n l).map fun r => { r with levels := [] }
  sorted : Tbl.sorted (s.core n).slots = true → Tbl.sorted (t.core n).slots = true
  owner : ∀ x, ((t.core n).micro x).owner = ((s.core n).micro x).owner

theorem LevelsMove.refl (n l : Nat) (s : State) : LevelsMove n l s s := ⟨rfl, fun _ _ => rfl, fun _ _ => rfl, rfl, id, fun _ => rfl⟩

theorem LevelsMove.trans (h : LevelsMove n l s t) (h' : LevelsMove n l t u) : LevelsMove n l s u :=
  ⟨h'.mem.trans h.mem, fun x hx => (h'.cores x hx).trans (h.cores x hx), fun x hx => (h'.others x hx).trans (h.others x hx),
    h'.launch.trans h.launch, fun hs => h'.sorted (h.sorted hs), fun x => (h'.owner x).trans (h.owner x)⟩

theorem LevelsMove.of_fences (h : OnlyFences s t) : LevelsMove n l s t := by
  have hr (x : Nat) : t.res? n x = s.res? n x := by rw [State.res?, h.core, State.res?]
  exact ⟨h.mem, fun x _ => h.core x, fun x _ => hr x, by rw [hr], fun hs => by rwa [h.core], fun x => by rw [h.core]⟩

theorem LevelsMove.foldl {α : Type} {f : State → α → State} (hf : ∀ s x, LevelsMove n l s (f s x)) (xs : List α) (s : State) :
    LevelsMove n l s (xs.foldl f s) := by
  induction xs generalizing s with
  | nil => exact .refl n l s
  | cons x xs ih => exact (hf s x).trans (ih _)

/-- A core's micro-threads changed, their owners excepted. -/
theorem LevelsMove.modCore (hn : n < 80) {f : Core → Core} (hr : (f (s.core n)).res = (s.core n).res)
    (hs : Tbl.sorted (s.core n).slots = true → Tbl.sorted (f (s.core n)).slots = true)
    (ho : ∀ x, ((f (s.core n)).micro x).owner = ((s.core n).micro x).owner) : LevelsMove n l s (s.modCore n f) := by
  have hc := State.core_modCore_self s n f hn
  have hres (x : Nat) : (s.modCore n f).res? n x = s.res? n x := by rw [State.res?, hc, hr, State.res?]
  exact ⟨State.modCore_mem _ _ _, fun x hx => State.core_modCore_other s n x f hx, fun x _ => hres x, by rw [hres],
    fun h => by rw [hc]; exact hs h, fun x => by rw [hc]; exact ho x⟩

theorem Core.micro_modMicro (c : Core) (slot x : Nat) (f : Micro → Micro) :
    (c.modMicro slot f).micro x = if x = slot then f (c.micro slot) else c.micro x := by
  by_cases h : x = slot
  · subst h; simp [Core.modMicro_eq]
  · simp [Core.modMicro_eq, Core.micro, h, Tbl.get?_set_other _ _ _ _ h]

theorem Core.owner_modMicro (c : Core) (slot x : Nat) {f : Micro → Micro} (h : ∀ m, (f m).owner = m.owner) :
    ((c.modMicro slot f).micro x).owner = (c.micro x).owner := by
  rw [Core.micro_modMicro]
  split
  · subst_vars; exact h _
  · rfl

theorem Core.sorted_modMicro {c : Core} (slot : Nat) (f : Micro → Micro) (h : Tbl.sorted c.slots = true) :
    Tbl.sorted (c.modMicro slot f).slots = true := Tbl.sorted_set _ _ _ h

theorem LevelsMove.modMicro (hn : n < 80) {f : Micro → Micro} (hf : ∀ m, (f m).owner = m.owner) :
    LevelsMove n l s (s.modMicro n slot f) :=
  LevelsMove.modCore hn rfl (Core.sorted_modMicro slot f) fun x => Core.owner_modMicro _ slot x hf

/-- What `refresh` can do: nothing, or a change of the micro-thread's state, and a stamp (R29, R37, R38). -/
theorem Core.refresh_cases (c : Core) (slot : Nat) : c.refresh slot = c ∨
    ∃ f : Micro → Micro, (∀ m, f m = { m with life := (f m).life, rearmed := (f m).rearmed }) ∧
      c.refresh slot = (c.modMicro slot f).stamp slot := by
  unfold Core.refresh
  dsimp only
  generalize (if (c.micro slot).blocked && !(c.micro slot).rearmed then Life.parked else (c.micro slot).modeLife) = life
  split
  · exact .inl rfl
  · split
    case h_4 => exact .inl rfl
    all_goals
      split
      · exact .inr ⟨fun m => { m with rearmed := false }, fun _ => rfl, rfl⟩
      · split
        · exact .inl rfl
        · exact .inr ⟨fun m => { m with life := life }, fun _ => rfl, rfl⟩

theorem Core.refresh_facts (c : Core) (slot : Nat) : (c.refresh slot).res = c.res ∧
    (Tbl.sorted c.slots = true → Tbl.sorted (c.refresh slot).slots = true) ∧
    ∀ x, ((c.refresh slot).micro x).owner = (c.micro x).owner := by
  rcases c.refresh_cases slot with h | ⟨f, hf, h⟩
  · rw [h]
    exact ⟨rfl, id, fun _ => rfl⟩
  · rw [h]
    exact ⟨rfl, fun hs => Tbl.sorted_set _ _ _ (Core.sorted_modMicro slot f hs), fun x =>
      (Core.owner_modMicro (c.modMicro slot f) slot x (f := fun m => { m with since := c.eligible }) fun _ => rfl).trans
        (Core.owner_modMicro c slot x fun m => by rw [hf m])⟩

theorem LevelsMove.refreshed (hn : n < 80) {f : Micro → Micro} (hf : ∀ m, (f m).owner = m.owner) :
    LevelsMove n l s (s.modCore n fun c => (c.modMicro slot f).refresh slot) :=
  LevelsMove.modCore hn (Core.refresh_facts _ _).1 (fun h => (Core.refresh_facts _ _).2.1 (Core.sorted_modMicro _ _ h))
    fun x => ((Core.refresh_facts _ _).2.2 x).trans (Core.owner_modMicro _ _ x hf)

theorem LevelsMove.releaseLevel (hn : n < 80) (s : State) (slot : Nat) : LevelsMove n l s (s.releaseLevel n l slot k dom) := by
  unfold State.releaseLevel
  dsimp only
  split
  · exact .refl n l s
  · split
    · exact LevelsMove.modMicro hn fun _ => rfl
    · split
      · refine LevelsMove.trans (LevelsMove.modMicro hn ?_) (LevelsMove.trans (LevelsMove.of_fences (OnlyFences.addFence _ n l slot _ 1 dom))
          (LevelsMove.refreshed hn fun _ => ?_))
        · exact fun _ => rfl
        · rfl
      · exact LevelsMove.modMicro hn fun _ => rfl

theorem LevelsMove.modLevel (hn : n < 80) (f : Level → Level) : LevelsMove n l s (s.modLevel n l k f) := by
  obtain ⟨h1, h2, h3, h4⟩ : OnlyLaunch n l s (s.modLevel n l k f) := OnlyLaunch.modRes hn
  refine ⟨by rw [h1], h2, h4, ?_, fun h => by rwa [h3], fun x => by rw [h3]; rfl⟩
  rw [State.modLevel, State.res?_modRes_at hn, Option.map_map]
  rfl

theorem LevelsMove.completeSet (hn : n < 80) (s : State) (i : Nat) (slots : List Nat) :
    LevelsMove n l s (s.completeSet n l k i slots) :=
  ((LevelsMove.foldl (LevelsMove.releaseLevel hn) slots s).trans (LevelsMove.of_fences (OnlyFences.settle _))).trans
    (LevelsMove.modLevel hn _)

theorem LevelsMove.completeSets (hn : n < 80) (s : State) : LevelsMove n l s (s.completeSets n l k) := by
  refine LevelsMove.foldl (fun t p => ?_) _ s
  split
  · split
    · exact LevelsMove.completeSet hn t _ _
    · exact .refl n l t
  · exact .refl n l t

theorem LevelsMove.recutLevels (hn : n < 80) (s : State) : LevelsMove n l s (s.recutLevels n l) := by
  unfold State.recutLevels
  split
  · exact .refl n l s
  · refine LevelsMove.foldl (fun t k => ?_) _ s
    split
    · exact (LevelsMove.modLevel hn _).trans (LevelsMove.completeSets hn _)
    · exact .refl n l t

/-- A launch without set levels has none to recut (R33, R268). -/
theorem State.recutLevels_none (h : ∀ r, s.res? n l = some r → ∀ k, k < r.nlevel → r.levelDom k ≠ domSet) : s.recutLevels n l = s := by
  unfold State.recutLevels
  split
  · rfl
  case h_2 r hr => exact foldl_unchanged fun k hk => if_neg (h r hr k (List.mem_range.1 hk))

/-! The slots and sets of a launch (R24, R32). -/

theorem Core.mem_owned {c : Core} (h : Tbl.sorted c.slots = true) {x : Nat} : x ∈ c.owned l ↔ (c.micro x).owner = some l := by
  simp only [Core.owned, List.mem_map, List.mem_filter, beq_iff_eq, Core.micro]
  constructor
  · rintro ⟨⟨y, m⟩, ⟨hm, ho⟩, rfl⟩
    rw [Tbl.get?_of_mem h hm]
    exact ho
  · cases hg : Tbl.get? c.slots x with
    | none => exact fun h => nomatch h
    | some m => exact fun ho => ⟨(x, m), ⟨Tbl.mem_of_get? hg, ho⟩, rfl⟩

theorem Core.owned_sorted {c : Core} (h : Tbl.sorted c.slots = true) : (c.owned l).Pairwise (· < ·) :=
  List.pairwise_map.2 ((Tbl.pairwise_of_sorted h).sublist List.filter_sublist)

/-- The slots of a launch are those its micro-threads' owners name. -/
theorem Core.owned_congr {c d : Core} (hc : Tbl.sorted c.slots = true) (hd : Tbl.sorted d.slots = true)
    (h : ∀ x, (c.micro x).owner = (d.micro x).owner) : c.owned l = d.owned l :=
  ((List.perm_ext_iff_of_nodup (Core.owned_nodup hc) (Core.owned_nodup hd)).2 fun x => by
    rw [Core.mem_owned hc, Core.mem_owned hd, h x]).eq_of_pairwise
      (fun _ _ _ _ hab hba => absurd hba (Nat.lt_asymm hab)) (Core.owned_sorted hc) (Core.owned_sorted hd)

theorem State.grantOf_eq (s : State) (n l : Nat) : (s.core n).grantOf l = ((s.res? n l).bind Res.grant).getD 0 := by
  rw [Core.grantOf, State.res?]
  cases Tbl.get? (s.core n).res l <;> rfl

theorem LevelsMove.grantOf (h : LevelsMove n l s t) : (t.core n).grantOf l = (s.core n).grantOf l := by
  have := congrArg (fun o => (Option.bind o Res.grant).getD 0) h.launch
  simp only [Option.bind_map] at this
  rw [State.grantOf_eq, State.grantOf_eq]
  exact this

theorem LevelsMove.sets (h : LevelsMove n l s t) (hs : Tbl.sorted (s.core n).slots = true) : (t.core n).sets l = (s.core n).sets l := by
  rw [Core.sets, Core.sets, h.grantOf, Core.owned_congr (h.sorted hs) hs h.owner]

theorem LevelsMove.res? (h : LevelsMove n l s t) {r : Res} (hr : s.res? n l = some r) : ∃ v, t.res? n l = some { r with levels := v } := by
  have hl := h.launch
  rw [hr] at hl
  obtain ⟨r', hr', he⟩ := Option.map_eq_some_iff.1 hl
  refine ⟨r'.levels, hr'.trans (congrArg some ?_)⟩
  exact congrArg (fun q : Res => { q with levels := r'.levels }) he

end
end Sys2Proof.Machine

/-! FIG.SETW, FIG.ALLOC, FIG.RDREG and FIG.WRREG (R31, R33, R197-R199, R224). -/

namespace Sys2Proof.Machine

section
variable {s t u : State} {n l : Nat} {r : Res} {c : Core} {rd rs1 rs2 : XReg}

theorem exec_figSetw : exec (.figSetw rd rs1) s = xfig none (figSetwAct rd rs1) s := rfl
theorem exec_figAlloc : exec (.figAlloc rd rs1 rs2) s = xfig none (figAllocAct rd rs1 rs2) s := rfl
theorem exec_figRdreg : exec (.figRdreg rd rs1) s = xfig none (figRdregAct rd rs1) s := rfl
theorem exec_figWrreg : exec (.figWrreg rd rs1 rs2) s = xfig none (figWrregAct rd rs1 rs2) s := rfl

/-! Grants and sets (R31-R33). -/

/-- R33 forbids a change of slots or grant. -/
def Core.Held (c : Core) (l : Nat) : Prop :=
  ∃ x ∈ c.owned l, (c.micro x).life = .free ∨ (c.micro x).life = .parked ∨ (c.micro x).life = .faulted

theorem Core.setsHeld_iff : c.setsHeld l = true ↔ c.Held l := by
  rw [Core.setsHeld, List.any_eq_true]
  refine exists_congr fun x => and_congr_right fun _ => ?_
  cases (c.micro x).life <;> simp

/-- The grant that a request gets (R31). -/
def Gets (cap req grant : Nat) : Prop :=
  (req = 0 → grant = cap) ∧ (0 < req → ∃ e, 2 ^ e ≤ req ∧ req < 2 ^ (e + 1) ∧ grant = min cap (2 ^ e))

theorem Gets.eq {cap req grant : Nat} (h : Gets cap req grant) : grantFor cap req = grant := by
  unfold grantFor
  split
  · exact (h.1 ‹_›).symm
  · obtain ⟨e, hlo, hhi, rfl⟩ := h.2 (Nat.pos_of_ne_zero ‹_›)
    rw [(Nat.log2_eq_iff ‹_›).2 ⟨hlo, hhi⟩]

/-- No level of a launch is a set level. -/
def Res.NoSets (r : Res) : Prop := ∀ k, k < recNat r.record 11 1 → recNat r.record (128 + 8 * k) 1 ≠ 1

/-- The accumulators after a recut (R33, R36). -/
def Core.recutOf (c d : Core) (l : Nat) (xacs : Tbl Xac) : Tbl Xac :=
  if d.sets l = c.sets l then xacs else recutXacs xacs (c.sets l) (d.sets l)

/-- The sets of a launch depend on the micro-threads and its grant. -/
theorem Core.sets_congr {d : Core} (hs : d.slots = c.slots) (hg : d.grantOf l = c.grantOf l) : d.sets l = c.sets l := by
  rw [Core.sets, Core.sets, hg, Core.owned, hs, Core.owned]

/-- A launch with its accumulators recut (R33, R36). -/
def State.recutXacsOf (u : State) (n l : Nat) (c : Core) : State :=
  u.modRes n l fun r => { r with xacs := c.recutOf (u.core n) l r.xacs }

theorem State.recutXacsOf_sets (hn : n < 80) : ((u.recutXacsOf n l c).core n).sets l = (u.core n).sets l := by
  have hc : (u.recutXacsOf n l c).core n = _ := State.modRes_core u n l _ hn
  refine Core.sets_congr (by rw [hc]) ?_
  rw [State.grantOf_eq, State.grantOf_eq, State.recutXacsOf, State.res?_modRes_at hn, Option.bind_map]
  rfl

theorem State.recut_eq (u : State) (n l : Nat) (c : Core) : u.recut n l (c.sets l) =
    if (u.core n).sets l = c.sets l then u.recutXacsOf n l c else (u.recutXacsOf n l c).recutLevels n l := by
  by_cases h : (u.core n).sets l = c.sets l
  · have : u.recutXacsOf n l c = u := by
      simp only [State.recutXacsOf, Core.recutOf, h, if_true]
      exact State.modRes_id u n l
    rw [State.recut, if_pos h, if_pos h, this]
  · simp only [State.recut, State.recutXacsOf, Core.recutOf, h, if_false]

theorem State.recut_moves (hn : n < 80) : LevelsMove n l (u.recutXacsOf n l c) (u.recut n l (c.sets l)) := by
  rw [State.recut_eq]
  split
  · exact .refl n l _
  · exact .recutLevels hn _

theorem State.recut_none (hn : n < 80) (hr : u.res? n l = some r) (h : r.NoSets) : u.recut n l (c.sets l) = u.recutXacsOf n l c := by
  rw [State.recut_eq]
  split
  · rfl
  · refine State.recutLevels_none fun q hq k hk => ?_
    have := State.res?_modRes_self (f := fun r => { r with xacs := c.recutOf (u.core n) l r.xacs }) hn hr
    obtain rfl := Option.some.inj (this.symm.trans hq)
    exact h k hk

/-- An Xfig instruction that has changed slots or the grant of its launch, recuts its sets and is done. -/
theorem xfig_done_recut {k : Option Stall} {act : State → Nat → Nat → Core → Res → XRes} {i : Instr} {v : Nat} {g : Res → Res}
    (h : s.Calling n l r) (ha : act s n l (s.core n) r = .done ((u.recut n l ((s.core n).sets l)).setX n l rd (BitVec.ofNat 64 v)))
    (he : exec i s = xfig k act s) (hu : u.res? n l = some (g r)) (hc : (g r).caller = r.caller)
    (hs : Tbl.sorted (u.core n).slots = true) (hcores : ∀ x, x ≠ n → u.core x = s.core x)
    (hres : ∀ x, x ≠ l → u.res? n x = s.res? n x) (hmem : u.mem = s.mem) :
    Answers i s fun t => ∃ lv,
      XfigDone n l r rd v (fun q => { g q with xacs := (s.core n).recutOf (t.core n) l (g r).xacs, levels := lv }) s t ∧
      ((g r).NoSets → lv = (g r).levels ∧ OnlyLaunch n l u t) := by
  have hn := h.2.1
  have hw : OnlyLaunch n l u (u.recutXacsOf n l (s.core n)) := OnlyLaunch.modRes hn
  have hwres : (u.recutXacsOf n l (s.core n)).res? n l = some { g r with xacs := (s.core n).recutOf (u.core n) l (g r).xacs } :=
    State.res?_modRes_self hn hu
  have hmove : LevelsMove n l _ _ := State.recut_moves (u := u) (c := s.core n) hn
  have hnone := State.recut_none (u := u) (c := s.core n) hn hu
  generalize u.recut n l ((s.core n).sets l) = y at *
  have ht : OnlyLaunch n l y (y.modRes n l (Res.xdone · rd (BitVec.ofNat 64 v))) := OnlyLaunch.modRes hn
  have hsets : ((y.modRes n l (Res.xdone · rd (BitVec.ofNat 64 v))).core n).sets l = (u.core n).sets l := by
    refine (Core.sets_congr (by rw [ht.2.2.1]) ?_).trans ((hmove.sets (by rw [hw.2.2.1]; exact hs)).trans (State.recutXacsOf_sets hn))
    rw [State.grantOf_eq, State.grantOf_eq, State.res?_modRes_at hn, Option.bind_map]
    rfl
  obtain ⟨lv, hlv⟩ := hmove.res? hwres
  refine ⟨_, he.trans (xfig_done h ha), lv, ?_, fun hns => ⟨?_, ?_⟩⟩
  · rw [Core.recutOf, hsets]
    exact XfigDone.of_res h hlv hc (fun x hx => (hmove.cores x hx).trans ((hw.2.1 x hx).trans (hcores x hx)))
      (fun x hx => (hmove.others x hx).trans ((hw.2.2.2 x hx).trans (hres x hx))) (hmove.mem.trans (hw.mem.trans hmem))
  · rw [hnone hns, hwres] at hlv
    exact (congrArg Res.levels (Option.some.inj hlv)).symm
  · rw [hnone hns] at ht ⊢
    exact hw.trans ht

theorem XfigDone.congr {f g : Res → Res} {v : Nat} (h : XfigDone n l r rd v f s t) (he : f r = g r) : XfigDone n l r rd v g s t := by
  unfold XfigDone at *
  rwa [← he]

/-! FIG.SETW (R31, R33, R197). -/

theorem figSetwAct_held (h : c.Held l) : figSetwAct rd rs1 s n l c r = .done (s.setX n l rd (BitVec.ofNat 64 (c.grantOf l))) :=
  if_pos (Core.setsHeld_iff.2 h)

/-- What a FIG.SETW that R33 allows leaves before the recut. -/
def State.setw (s : State) (n l : Nat) (req : DWord) (grant : Nat) : State :=
  s.modRes n l fun r => { r with setw := some req, grant := r.grant.map fun _ => grant }

theorem figSetwAct_free (h : ¬ c.Held l) {grant : Nat} (hg : Gets c.cap (r.caller.reg rs1).toNat grant) :
    figSetwAct rd rs1 s n l c r =
      .done (((s.setw n l (r.caller.reg rs1) grant).recut n l (c.sets l)).setX n l rd (BitVec.ofNat 64 grant)) := by
  rw [← hg.eq]
  exact if_neg (mt Core.setsHeld_iff.1 h)

theorem figSetw_held (h : s.Calling n l r) (hh : (s.core n).Held l) : Answers (.figSetw rd rs1) s fun t =>
    XfigDone n l r rd (r.grant.getD 0) (fun r => r) s t ∧ OnlyLaunch n l s t :=
  xfig_gives h (by rw [figSetwAct_held hh, State.grantOf_eq, h.2.2]; rfl) exec_figSetw

theorem figSetw_first (h : s.Calling n l r) (hh : ¬ (s.core n).Held l) (hg : r.grant = none) {grant : Nat}
    (hw : Gets (s.core n).cap (r.caller.reg rs1).toNat grant) : Answers (.figSetw rd rs1) s fun t =>
      XfigDone n l r rd grant (fun q => { q with setw := some (r.caller.reg rs1) }) s t ∧ OnlyLaunch n l s t := by
  have hn := h.2.1
  have ho : OnlyLaunch n l s (s.setw n l (r.caller.reg rs1) grant) := OnlyLaunch.modRes hn
  have hf : ({ r with setw := some (r.caller.reg rs1), grant := r.grant.map fun _ => grant } : Res) =
      { r with setw := some (r.caller.reg rs1) } := by rw [hg]; rfl
  have hsets : ((s.setw n l (r.caller.reg rs1) grant).core n).sets l = (s.core n).sets l := by
    refine Core.sets_congr (by rw [ho.2.2.1]) ?_
    rw [State.grantOf_eq, State.grantOf_eq, State.setw, State.res?_modRes_self hn h.2.2, h.2.2, hf]
    rfl
  have ha := figSetwAct_free (s := s) (n := n) (l := l) (rd := rd) hh hw
  rw [State.recut, if_pos hsets] at ha
  obtain ⟨t, ht, hdone, honly⟩ := xfig_done_launch (f := fun q => { q with
    setw := some (r.caller.reg rs1), grant := q.grant.map fun _ => grant }) h ha rfl exec_figSetw
  exact ⟨t, ht, hdone.congr hf, honly⟩

theorem figSetw_again (h : s.Calling n l r) (hs : Tbl.sorted (s.core n).slots = true) (hh : ¬ (s.core n).Held l) {old grant : Nat}
    (hg : r.grant = some old) (hw : Gets (s.core n).cap (r.caller.reg rs1).toNat grant) :
    Answers (.figSetw rd rs1) s fun t => ∃ lv,
      XfigDone n l r rd grant (fun q => { q with
        setw := some (r.caller.reg rs1), grant := some grant, xacs := (s.core n).recutOf (t.core n) l r.xacs, levels := lv }) s t ∧
      (r.NoSets → lv = r.levels ∧ OnlyLaunch n l s t) := by
  have hn := h.2.1
  have ho : OnlyLaunch n l s (s.setw n l (r.caller.reg rs1) grant) := OnlyLaunch.modRes hn
  have hu : (s.setw n l (r.caller.reg rs1) grant).res? n l = some { r with setw := some (r.caller.reg rs1), grant := some grant } := by
    refine (State.res?_modRes_self hn h.2.2).trans ?_
    rw [hg]
    rfl
  obtain ⟨t, ht, lv, hdone, hns⟩ := xfig_done_recut (g := fun q => { q with setw := some (r.caller.reg rs1), grant := some grant }) h
    (figSetwAct_free hh hw) exec_figSetw hu rfl (by rw [ho.2.2.1]; exact hs) ho.2.1 ho.2.2.2 ho.mem
  exact ⟨t, ht, lv, hdone, fun hr => ⟨(hns hr).1, ho.trans (hns hr).2⟩⟩

/-! FIG.ALLOC (R24, R31, R33, R198). -/

section
variable {bud role : Nat} {mode : Mode} {pc : Word}

theorem State.createMicro_eq (hr : s.res? n l = some r) (x : Nat) : s.createMicro n l x bud role mode pc [] =
    s.modCore n fun c => { c with slots := Tbl.set c.slots x ((c.micro x).create l bud role mode pc
      (BitVec.ofNat 32 (r.stackBase x)) [] (s.lateBits n l x)) } := by
  rw [State.createMicro, hr]
  rfl

/-- Micro-threads created, one after another. -/
theorem State.foldl_createMicro (hn : n < 80) (hr : s.res? n l = some r) (xs : List Nat) : ∃ slots : Tbl Micro,
    xs.foldl (fun t x => t.createMicro n l x bud role mode pc []) s = s.modCore n (fun c => { c with slots := slots }) ∧
      (Tbl.sorted (s.core n).slots = true → Tbl.sorted slots = true) ∧
      (∀ x, x ∉ xs → Tbl.get? slots x = Tbl.get? (s.core n).slots x) ∧
      ∀ x ∈ xs, ∃ late, Tbl.get? slots x = some (((s.core n).micro x).create l bud role mode pc
        (BitVec.ofNat 32 (r.stackBase x)) [] late) := by
  induction xs generalizing s with
  | nil => exact ⟨(s.core n).slots, (State.modCore_id s n rfl).symm, id, fun _ _ => rfl, fun _ h => absurd h List.not_mem_nil⟩
  | cons y ys ih =>
    have hs := State.createMicro_eq (bud := bud) (role := role) (mode := mode) (pc := pc) hr y
    generalize hf : (fun c : Core => ({ c with slots := Tbl.set c.slots y ((c.micro y).create l bud role mode pc
      (BitVec.ofNat 32 (r.stackBase y)) [] (s.lateBits n l y)) } : Core)) = f at hs
    have hcore : (s.modCore n f).core n = f (s.core n) := State.core_modCore_self s n f hn
    have hr' : (s.modCore n f).res? n l = some r := by rw [State.res?, hcore, ← hf]; exact hr
    obtain ⟨slots, hfold, hsort, hout, hin⟩ := ih hr'
    rw [hcore] at hsort hout hin
    subst hf
    refine ⟨slots, ?_, fun h => hsort (Tbl.sorted_set _ _ _ h), fun x hx => ?_, fun x hx => ?_⟩
    · rw [List.foldl_cons, hs, hfold, State.modCore_modCore]
    · obtain ⟨hxy, hx⟩ := not_or.1 (mt List.mem_cons.2 hx)
      exact (hout x hx).trans (Tbl.get?_set_other _ _ _ _ hxy)
    · by_cases hxy : x = y
      · subst hxy
        by_cases hmem : x ∈ ys
        · obtain ⟨late, hl⟩ := hin x hmem
          refine ⟨late, hl.trans ?_⟩
          rw [Core.micro_mk_set]
          rfl
        · exact ⟨_, (hout x hmem).trans (Tbl.get?_set_self _ _ _)⟩
      · obtain ⟨late, hl⟩ := hin x ((List.mem_cons.1 hx).resolve_left hxy)
        refine ⟨late, hl.trans ?_⟩
        rw [Core.micro, Tbl.get?_set_other _ _ _ _ hxy, Core.micro]

end

/-- A declared role (R381). -/
def Res.Declares (r : Res) (role : Nat) : Prop := role = 0 ∨ role ≤ 3 ∧ (recNat r.record 73 1).testBit (role - 1) = true

theorem rolesOf_contains (rec : List Byte) (k : Nat) : (rolesOf rec).contains k = (decide (k < 3) && (recNat rec 73 1).testBit k) := by
  rw [Bool.eq_iff_iff]
  simp [rolesOf, bitsSet]

theorem Res.declares_iff {role : Nat} (h : role < 4) : r.Declares role ↔ role = 0 ∨ (rolesOf r.record).contains (role - 1) = true := by
  rw [Res.Declares, rolesOf_contains]
  refine or_congr_right' fun h0 => ?_
  simp only [Bool.and_eq_true, decide_eq_true_eq]
  exact and_congr_left' ⟨fun _ => by omega, fun _ => by omega⟩

theorem budgetOk_iff (bud : Nat) : budgetOk bud = true ↔ bud ∈ [16, 24, 32, 40, 48, 56] := List.contains_iff_mem

/-- FIG.ALLOC refuses a request (R33, R198). -/
theorem figAlloc_refused (h : s.Calling n l r)
    (hb : 1024 ≤ (r.caller.reg rs2).toNat ∨ (r.caller.reg rs2).toNat % 256 ∉ [16, 24, 32, 40, 48, 56] ∨ (s.core n).Held l ∨
      (0 < (r.caller.reg rs2).toNat / 256 ∧ (recNat r.record 73 1).testBit ((r.caller.reg rs2).toNat / 256 - 1) = false)) :
    Answers (.figAlloc rd rs1 rs2) s fun t => XfigDone n l r rd 0 (fun r => r) s t ∧ OnlyLaunch n l s t := by
  refine xfig_gives h (if_pos ?_) exec_figAlloc
  rcases hb with hb | hb | hb | ⟨h0, hb⟩
  · exact .inl hb
  · exact .inr (.inl (by simpa [budgetOk] using hb))
  · exact .inr (.inr (.inr (Core.setsHeld_iff.2 hb)))
  · by_cases hlt : (r.caller.reg rs2).toNat < 1024
    · have hrole : (r.caller.reg rs2).toNat / 256 < 4 := by omega
      have hnot : ¬ r.Declares ((r.caller.reg rs2).toNat / 256) := by
        rintro (hz | ⟨-, ht⟩)
        · omega
        · exact Bool.false_ne_true (hb.symm.trans ht)
      refine .inr (.inr (.inl ?_))
      rw [Nat.mod_eq_of_lt hrole]
      simpa using mt (Res.declares_iff hrole).2 hnot
    · exact .inl (Nat.le_of_not_lt hlt)


/-- What a micro-thread is created as by FIG.ALLOC (R23, R198). -/
def Res.created (r : Res) (l bud role x : Nat) (gen : Half) (late : BitVec 8) : Micro :=
  { Micro.blank with
    gen := gen, owner := some l, life := .created, mode := if role = 0 then .called else .free, bud := bud, role := role, late := late
    pc := if role = 0 then 0#32 else BitVec.ofNat 32 (recNat r.record (100 + 8 * (role - 1)) 4)
    csp := BitVec.ofNat 32 (recNat r.record 68 4 + 8 * recNat r.record 72 1 * x) }

/-- What a FIG.ALLOC that R33 allows leaves before the recut. -/
def State.allocated (s : State) (n l : Nat) (r : Res) (own new : List Nat) (bud role : Nat) : State :=
  ((own ++ new).foldl (fun t x => t.createMicro n l x bud role (if role = 0 then .called else .free)
      (if role = 0 then 0#32 else BitVec.ofNat 32 (roleOf r.record (role - 1)).1) []) s).modRes n l fun q =>
    { q with
      rfUsed := q.rfUsed + 4 * bud * new.length
      grant := some (q.grant.getD (grantFor (s.core n).cap (q.setw.getD 0#64).toNat)) }

/-- What a FIG.ALLOC that R33 allows does (R198). -/
theorem figAllocAct_free {spec : Nat} (he : (r.caller.reg rs2).toNat = spec) (hs : spec < 1024)
    (hb : spec % 256 ∈ [16, 24, 32, 40, 48, 56]) (hh : ¬ (s.core n).Held l) (hd : r.Declares (spec / 256)) {own new : List Nat}
    (ha : (s.core n).allocSlots l r (r.caller.reg rs1).toNat (spec % 256) (spec / 256) = (own, new)) :
    figAllocAct rd rs1 rs2 s n l (s.core n) r =
      if own = [] ∧ new = [] then .done (s.setX n l rd 0#64)
      else .done (((s.allocated n l r own new (spec % 256) (spec / 256)).recut n l ((s.core n).sets l)).setX n l rd
        (BitVec.ofNat 64 (own.length + new.length))) := by
  subst he
  have hrole : (r.caller.reg rs2).toNat / 256 < 4 := by omega
  simp only [figAllocAct, Nat.mod_eq_of_lt hrole, ha]
  rw [if_neg]
  · rfl
  · rintro (h | h | h | h)
    · omega
    · simp [(budgetOk_iff _).2 hb] at h
    · rw [decide_eq_true ((Res.declares_iff hrole).1 hd)] at h
      exact Bool.false_ne_true h
    · exact hh (Core.setsHeld_iff.1 h)

/-- What is left of a state in which micro-threads have been created. -/
theorem State.allocated_facts (hn : n < 80) (hr : s.res? n l = some r) (own new : List Nat) (bud role : Nat) :
    (s.allocated n l r own new bud role).res? n l = some { r with
        rfUsed := r.rfUsed + 4 * bud * new.length
        grant := some (r.grant.getD (grantFor (s.core n).cap (r.setw.getD 0#64).toNat)) } ∧
      (∀ x, x ≠ l → (s.allocated n l r own new bud role).res? n x = s.res? n x) ∧ OnlyMicros n s (s.allocated n l r own new bud role) ∧
      (Tbl.sorted (s.core n).slots = true → Tbl.sorted ((s.allocated n l r own new bud role).core n).slots = true) ∧
      (∀ x, x ∉ own ++ new → (s.allocated n l r own new bud role).microAt n x = s.microAt n x) ∧
      ∀ x ∈ own ++ new, ∃ late, (s.allocated n l r own new bud role).microAt n x =
        some (r.created l bud role x ((s.core n).micro x).gen late) := by
  obtain ⟨slots, hfold, hsort, hout, hin⟩ := State.foldl_createMicro (bud := bud) (role := role)
    (mode := if role = 0 then .called else .free)
    (pc := if role = 0 then 0#32 else BitVec.ofNat 32 (roleOf r.record (role - 1)).1) hn hr (own ++ new)
  rw [State.allocated, hfold]
  generalize hu : s.modCore n (fun c => { c with slots := slots }) = u
  have hcore : u.core n = { s.core n with slots := slots } := by rw [← hu]; exact State.core_modCore_self s n _ hn
  have hres (x : Nat) : u.res? n x = s.res? n x := by rw [State.res?, hcore]; rfl
  have ho (f : Res → Res) : OnlyLaunch n l u (u.modRes n l f) := OnlyLaunch.modRes hn
  have hmicro (f : Res → Res) (x : Nat) : (u.modRes n l f).microAt n x = Tbl.get? slots x := by
    rw [(ho f).microAt, State.microAt, hcore]
  refine ⟨State.res?_modRes_self hn ((hres l).trans hr), fun x hx => ((ho _).2.2.2 x hx).trans (hres x),
    OnlyMicros.trans ⟨?_, fun x hx => ?_, ?_⟩ (ho _).micros, fun h => ?_, fun x hx => (hmicro _ x).trans (hout x hx),
    fun x hx => (hin x hx).imp fun late hl => (hmicro _ x).trans hl⟩
  · rw [← hu]; exact State.modCore_eq s n _
  · rw [← hu]; exact State.core_modCore_other s n x _ hx
  · rw [hcore]
  · rw [(ho _).2.2.1, hcore]; exact hsort h

theorem figAlloc_none (h : s.Calling n l r) {spec : Nat} (he : (r.caller.reg rs2).toNat = spec) (hs : spec < 1024)
    (hb : spec % 256 ∈ [16, 24, 32, 40, 48, 56]) (hh : ¬ (s.core n).Held l) (hd : r.Declares (spec / 256)) {own new : List Nat}
    (ha : (s.core n).allocSlots l r (r.caller.reg rs1).toNat (spec % 256) (spec / 256) = (own, new)) (hnone : own ++ new = []) :
    Answers (.figAlloc rd rs1 rs2) s fun t => XfigDone n l r rd 0 (fun r => r) s t ∧ OnlyLaunch n l s t :=
  xfig_gives h (by rw [figAllocAct_free he hs hb hh hd ha, if_pos (List.append_eq_nil_iff.1 hnone)]) exec_figAlloc

theorem figAlloc_creates (h : s.Calling n l r) (hsort : Tbl.sorted (s.core n).slots = true) {spec : Nat}
    (he : (r.caller.reg rs2).toNat = spec) (hs : spec < 1024)
    (hb : spec % 256 ∈ [16, 24, 32, 40, 48, 56]) (hh : ¬ (s.core n).Held l) (hd : r.Declares (spec / 256)) {own new : List Nat}
    (ha : (s.core n).allocSlots l r (r.caller.reg rs1).toNat (spec % 256) (spec / 256) = (own, new)) (hsome : own ++ new ≠ [])
    {grant : Nat} (hold : ∀ old, r.grant = some old → grant = old)
    (hnew : r.grant = none → Gets (s.core n).cap (r.setw.getD 0#64).toNat grant) :
    Answers (.figAlloc rd rs1 rs2) s fun t => ∃ lv,
      XfigDone n l r rd (own.length + new.length) (fun q => { q with
        rfUsed := q.rfUsed + 4 * (spec % 256) * new.length, grant := some grant
        xacs := (s.core n).recutOf (t.core n) l r.xacs, levels := lv }) s t ∧
      (r.NoSets → lv = r.levels ∧ OnlyMicros n s t ∧ (∀ x, x ∉ own ++ new → t.microAt n x = s.microAt n x) ∧
        ∀ x ∈ own ++ new, ∃ late, t.microAt n x = some (r.created l (spec % 256) (spec / 256) x ((s.core n).micro x).gen late)) := by
  have hgrant : r.grant.getD (grantFor (s.core n).cap (r.setw.getD 0#64).toNat) = grant := by
    cases hg : r.grant with
    | none => exact (hnew hg).eq
    | some old => exact (hold old hg).symm
  obtain ⟨hu, hothers, hmicros, hsorted, hout, hin⟩ := State.allocated_facts h.2.1 h.2.2 own new (spec % 256) (spec / 256)
  rw [hgrant] at hu
  have hact := figAllocAct_free (rd := rd) he hs hb hh hd ha
  rw [if_neg (mt List.append_eq_nil_iff.2 hsome)] at hact
  obtain ⟨t, ht, lv, hdone, hns⟩ := xfig_done_recut
    (g := fun q => { q with rfUsed := q.rfUsed + 4 * (spec % 256) * new.length, grant := some grant }) h hact exec_figAlloc hu rfl
    (hsorted hsort) hmicros.2.1 hothers (by rw [hmicros.1])
  refine ⟨t, ht, lv, hdone, fun hr => ?_⟩
  obtain ⟨hlv, ho⟩ := hns hr
  exact ⟨hlv, hmicros.trans ho.micros, fun x hx => (ho.microAt x).trans (hout x hx), fun x hx => (hin x hx).imp fun late hl =>
    (ho.microAt x).trans hl⟩


/-! The register window (R199, R224). -/

section
variable {slot k : Nat} {m : Micro}

/-- A window address names a slot and a number (R199). -/
theorem windowOf_eq {a : DWord} (ha : a.toNat = 256 * slot + k) (hk : k < 256) (hs : slot < 1024) : windowOf a = some (slot, k) := by
  rw [windowOf, if_pos (by omega), show a.toNat / 256 = slot by omega, show a.toNat % 256 = k by omega]

/-- A live micro-thread of the launch, which the window shows. -/
def Micro.Shown (m : Micro) (l : Nat) : Prop := m.owner = some l ∧ m.life ≠ .created ∧ m.life ≠ .retired

theorem figRdreg_cv (h : s.Calling n l r) (hw : windowOf (r.caller.reg rs1) = some (slot, k)) (h1 : 128 ≤ k) (h2 : k < 144) :
    Answers (.figRdreg rd rs1) s fun t =>
      XfigDone n l r rd ((r.cv (k - 128)).count + 2 ^ 16 * (r.cv (k - 128)).sigs.length) (fun r => r) s t ∧ OnlyLaunch n l s t :=
  xfig_gives h (by simp only [figRdregAct, hw, h1, h2, and_self, if_true]) exec_figRdreg

theorem figRdreg_hidden (h : s.Calling n l r) (hw : windowOf (r.caller.reg rs1) = some (slot, k)) (hk : k < 128)
    (hm : (s.core n).micro slot = m) (hn : ¬ m.Shown l) :
    Answers (.figRdreg rd rs1) s fun t => XfigDone n l r rd 0 (fun r => r) s t ∧ OnlyLaunch n l s t := by
  refine xfig_gives h ?_ exec_figRdreg
  have hcv : ¬ (128 ≤ k ∧ k < 144) := by omega
  unfold Micro.Shown at hn
  simp only [figRdregAct, hw, hcv, hm, hn, if_false]

theorem figRdreg_shown (h : s.Calling n l r) (hw : windowOf (r.caller.reg rs1) = some (slot, k)) (hk : k < 128)
    (hm : (s.core n).micro slot = m) (hn : m.Shown l) {v : Nat} (hv : m.window k = v) :
    Answers (.figRdreg rd rs1) s fun t => XfigDone n l r rd v (fun r => r) s t ∧ OnlyLaunch n l s t := by
  refine xfig_gives h ?_ exec_figRdreg
  have hcv : ¬ (128 ≤ k ∧ k < 144) := by omega
  unfold Micro.Shown at hn
  simp only [figRdregAct, hw, hcv, hm, hn, if_false, if_true, hv, ne_eq, not_false_eq_true, and_self]

theorem Micro.window_reg (i : Fin 64) (h56 : i.val < 56) (hb : i.val < m.bud) : m.window i.val = m.regs[i].toNat := by
  simp [Micro.window, h56, hb]

theorem Micro.window_beyond (h56 : k < 56) (hb : m.bud ≤ k) : m.window k = 0 := by
  simp [Micro.window, h56, Nat.not_lt_of_le hb]

/-- The figure and offset that the window shows of a micro-thread that has not faulted (R199). -/
theorem Micro.window_figure (h : m.life ≠ .faulted) : m.window 67 = (m.nextFig.getD 0#32).toNat := by
  simp only [Micro.window, show ¬ 67 < 56 by decide, show ¬ 67 < 64 by decide, if_false]
  split
  · exact absurd ‹_› h
  · rfl

theorem Micro.window_fault {i : FaultInfo} (hl : m.life = .faulted) (hi : m.fault = some i) :
    m.window 67 = i.fig.toNat ∧ m.window 68 = i.off := by
  simp [Micro.window, hl, hi]

/-- FIG.WRREG refuses a write (R199). -/
theorem figWrreg_refused (h : s.Calling n l r) (ha : figWrregAct rd rs1 rs2 s n l (s.core n) r = .done (s.setX n l rd 1#64)) :
    Answers (.figWrreg rd rs1 rs2) s fun t => XfigDone n l r rd 1 (fun r => r) s t ∧ OnlyLaunch n l s t :=
  xfig_gives h ha exec_figWrreg

theorem figWrreg_writes (h : s.Calling n l r) (hw : windowOf (r.caller.reg rs1) = some (slot, k)) (hk : k < 128)
    (hm : (s.core n).micro slot = m) (ho : m.owner = some l) (hl : m.life = .faulted) {u : Micro}
    (hu : m.setWindow k ((r.caller.reg rs2).setWidth 32) = some u) :
    Answers (.figWrreg rd rs1 rs2) s fun t =>
      XfigDone n l r rd 0 (fun r => r) s t ∧ t.microAt n slot = some u ∧ (∀ x, x ≠ slot → t.microAt n x = s.microAt n x) ∧
        OnlyMicros n s t := by
  have hcv : ¬ (128 ≤ k ∧ k < 144) := by omega
  have hact : figWrregAct rd rs1 rs2 s n l (s.core n) r = .done ((s.modCore n fun c => c.setMicro slot u).setX n l rd (BitVec.ofNat 64 0)) := by
    simp only [figWrregAct, hw, hcv, hm, ho, hl, hu, if_false, if_true, and_self]
  obtain ⟨t, ht, hdone, hmicro, honly⟩ := xfig_done_micros (F := fun c => c.setMicro slot u) h rfl hact exec_figWrreg
  exact ⟨t, ht, hdone, (hmicro slot).trans (Tbl.get?_set_self _ _ _), fun x hx => (hmicro x).trans (Tbl.get?_set_other _ _ _ _ hx), honly⟩

theorem figWrreg_rejects (h : s.Calling n l r) (hw : windowOf (r.caller.reg rs1) = some (slot, k)) (hk : k < 128)
    (hm : (s.core n).micro slot = m) (hr : m.life = .faulted → m.setWindow k ((r.caller.reg rs2).setWidth 32) = none) :
    Answers (.figWrreg rd rs1 rs2) s fun t => XfigDone n l r rd 1 (fun r => r) s t ∧ OnlyLaunch n l s t := by
  have hcv : ¬ (128 ≤ k ∧ k < 144) := by omega
  refine xfig_gives h ?_ exec_figWrreg
  simp only [figWrregAct, hw, hcv, hm, if_false]
  split
  case isTrue hl => simp only [hr hl.2]
  case isFalse => rfl

theorem figWrregAct_cv (hw : windowOf (r.caller.reg rs1) = some (slot, k)) (h1 : 128 ≤ k) (h2 : k < 144) :
    figWrregAct rd rs1 rs2 s n l c r =
      if (r.caller.reg rs2).toNat = 0 ∨ 1024 < (r.caller.reg rs2).toNat ∨ !(r.cv (k - 128)).sigs.isEmpty then .done (s.setX n l rd 1#64)
      else .done ((s.modRes n l fun q => q.setCv (k - 128) { r.cv (k - 128) with count := (r.caller.reg rs2).toNat }).setX n l rd 0#64) := by
  simp only [figWrregAct, hw, h1, h2, and_self, if_true]

theorem figWrreg_cv (h : s.Calling n l r) (hw : windowOf (r.caller.reg rs1) = some (slot, k)) (h1 : 128 ≤ k) (h2 : k < 144)
    (hv : 1 ≤ (r.caller.reg rs2).toNat) (hv' : (r.caller.reg rs2).toNat ≤ 1024) (hs : (r.cv (k - 128)).sigs = []) :
    Answers (.figWrreg rd rs1 rs2) s fun t =>
      XfigDone n l r rd 0
        (fun q => { q with cvs := q.cvs.mapIdx fun i x => if i = k - 128 then ⟨(r.caller.reg rs2).toNat, []⟩ else x }) s t ∧
      OnlyLaunch n l s t := by
  refine xfig_done_launch h ?_ rfl exec_figWrreg
  rw [figWrregAct_cv hw h1 h2, if_neg]
  · have hcv : ({ r.cv (k - 128) with count := (r.caller.reg rs2).toNat } : Cv) = ⟨(r.caller.reg rs2).toNat, []⟩ := congrArg (Cv.mk _) hs
    exact congrArg (fun v => XRes.done ((s.modRes n l fun q => q.setCv (k - 128) v).setX n l rd 0#64)) hcv
  · rintro (h | h | h)
    · omega
    · omega
    · simp [hs] at h

theorem figWrreg_cv_refused (h : s.Calling n l r) (hw : windowOf (r.caller.reg rs1) = some (slot, k)) (h1 : 128 ≤ k) (h2 : k < 144)
    (hv : (r.caller.reg rs2).toNat = 0 ∨ 1024 < (r.caller.reg rs2).toNat ∨ (r.cv (k - 128)).sigs ≠ []) :
    Answers (.figWrreg rd rs1 rs2) s fun t => XfigDone n l r rd 1 (fun r => r) s t ∧ OnlyLaunch n l s t :=
  xfig_gives h (by rw [figWrregAct_cv hw h1 h2, if_pos (by simpa using hv)]) exec_figWrreg

end
end
end Sys2Proof.Machine

namespace Sys2Proof.Proofs
open Sys2Proof Sys2Proof.Machine

/-- Settles O30: grants and slots through the recut of the launch's sets, the register window number by number. -/
theorem slotAndRegisterWindowResults : Obligations.SlotAndRegisterWindowResults := by
  refine ⟨fun rd rs1 rs2 s n l r h hs => ⟨figSetw_held h, fun hh hg grant hw => figSetw_first h hh hg hw,
      fun hh old grant hg hw => figSetw_again h hs hh hg hw, figAlloc_refused h,
      fun hspec hb hh hd own new ha => ⟨figAlloc_none h rfl hspec hb hh hd ha, fun hsome grant hold hnew => ?_⟩⟩,
    fun rd rs1 rs2 s n l r h hs slot k m ha hk hslot hm => ?_⟩
  · obtain ⟨t, ht, lv, hdone, hns⟩ := figAlloc_creates (rd := rd) h hs rfl hspec hb hh hd ha hsome hold hnew
    refine ⟨t, ht, lv, hdone, fun hr => ?_⟩
    obtain ⟨hlv, ho, hout, hin⟩ := hns hr
    exact ⟨hlv, ho, hout, fun x hx => (hin x hx).elim fun late hl => ⟨_, hl, rfl⟩⟩
  · have hw := windowOf_eq ha hk hslot
    have hm := State.micro_of_microAt hm
    refine ⟨fun i hi h56 hb hmine => ?_, fun h56 hb hmine => figRdreg_shown h hw (by omega) hm hmine (Micro.window_beyond h56 hb),
      fun hlt hmine => figRdreg_hidden h hw hlt hm hmine, fun hmine => ?_, figRdreg_cv h hw, fun ho hl => ?_,
      fun hlt hl => figWrreg_rejects h hw hlt hm fun hf => absurd hf hl, figWrreg_cv h hw, figWrreg_cv_refused h hw⟩
    · subst hi
      exact figRdreg_shown h hw (by omega) hm hmine (Micro.window_reg i h56 hb)
    · have reads (j v : Nat) (hj : j < 128) (hv : m.window j = v) (hk : k = j) : Answers (.figRdreg rd rs1) s fun t =>
          XfigDone n l r rd v (fun r => r) s t ∧ OnlyLaunch n l s t := by
        subst hk
        exact figRdreg_shown h hw hj hm hmine hv
      refine ⟨reads 64 _ (by omega) rfl, reads 65 _ (by omega) rfl, reads 66 _ (by omega) rfl, reads 69 _ (by omega) rfl,
        fun hk a ha => reads 70 _ (by omega) ?_ hk, reads 71 _ (by omega) rfl, reads 72 _ (by omega) rfl, fun hk hl => ?_,
        fun i hl hi => ⟨reads 67 _ (by omega) (Micro.window_fault hl hi).1, reads 68 _ (by omega) (Micro.window_fault hl hi).2⟩,
        fun hk x hx => reads 73 _ (by omega) ?_ hk, reads 74 _ (by omega) rfl, reads 75 _ (by omega) rfl⟩
      · show lifeCode m.life + _ = _
        simp only [List.mem_cons, Prod.mk.injEq, List.not_mem_nil, or_false] at ha
        rcases ha with ⟨hl, rfl⟩ | ⟨hl, rfl⟩ | ⟨hl, rfl⟩ | ⟨hl, rfl⟩ | ⟨hl, rfl⟩ <;> rw [hl] <;> rfl
      · have figure (v : Word) (hv : m.nextFig = some v) := reads 67 v.toNat (by omega) (by rw [Micro.window_figure hl, hv]; rfl) hk
        exact ⟨fun p hp => figure _ (by rw [Micro.nextFig, hp]), fun hp hf => figure _ (by rw [Micro.nextFig, hp, hf]),
          fun hp hf f q hq => figure _ (by rw [Micro.nextFig, hp, hf, hq]; rfl)⟩
      · show (m.mailbox.getD 0#32).toNat = _
        rw [hx]; rfl
    · have narrow (w : Nat) (hw : w ≤ 32) : ((r.caller.reg rs2).setWidth 32).setWidth w = (r.caller.reg rs2).setWidth w :=
        BitVec.setWidth_setWidth_of_le _ hw
      have writes (j : Nat) (u : Micro) (hj : j < 128) (hu : m.setWindow j ((r.caller.reg rs2).setWidth 32) = some u) (hk : k = j) :
          Answers (.figWrreg rd rs1 rs2) s fun t => XfigDone n l r rd 0 (fun r => r) s t ∧ t.microAt n slot = some u ∧
            (∀ x, x ≠ slot → t.microAt n x = s.microAt n x) ∧ OnlyMicros n s t := by
        subst hk
        exact figWrreg_writes (rd := rd) (rs2 := rs2) h hw hj hm ho hl hu
      refine ⟨fun h56 hb => writes k _ (by omega) ?_ rfl, writes 64 _ (by omega) ?_, writes 65 _ (by omega) ?_,
        fun hk hv => writes 66 _ (by omega) ?_ hk, writes 69 _ (by omega) rfl, fun h56 hb => figWrreg_rejects h hw (by omega) hm fun _ => ?_⟩
      · exact (if_pos (by omega)).trans (if_pos (.inl ⟨h56, hb⟩))
      · rw [← narrow 7 (by omega)]; rfl
      · rw [← narrow 5 (by omega)]; rfl
      · rw [← narrow 3 (by omega)]
        exact if_pos (by simpa using hv)
      · exact (if_pos (by omega)).trans (if_neg (by omega))

end Sys2Proof.Proofs

/-! The issue events of one micro-thread, the budgets and fault messages (R29, R38, R169, R187, R260, R274, R277). -/

namespace Sys2Proof.Machine

section
variable {s t : State} {n slot : Nat} {m : Micro}

theorem exec_microthreadInitComplete : exec (.microthreadInitComplete n slot) s = execMicrothreadInitComplete n slot s := rfl
theorem exec_deferredFault : exec (.deferredFault n slot) s = execDeferredFault n slot s := rfl
theorem exec_quitRetire : exec (.quitRetire n slot) s = execQuitRetire n slot s := rfl
theorem exec_budgetRefill : exec (.budgetRefill n) s = execBudgetRefill n s := rfl
theorem exec_faultMessagePost : exec (.faultMessagePost n slot) s = execFaultMessagePost n slot s := rfl
theorem exec_rotationSlotFill {port rot : Nat} : exec (.rotationSlotFill n port rot) s = execRotationSlotFill n port rot s := rfl
theorem exec_codeFetchArrival {port rot : Nat} : exec (.codeFetchArrival n port rot) s = execCodeFetchArrival n port rot s := rfl

/-- Of a core one micro-thread alone has changed, and how many became eligible. -/
def OneMicro (n slot : Nat) (s t : State) : Prop :=
  OnlyMicros n s t ∧ (t.core n).res = (s.core n).res ∧ ∀ x, x ≠ slot → t.microAt n x = s.microAt n x

/-- An event that makes one micro-thread of a core `u`, and stamps it or not. -/
theorem oneMicro_set (hn : n < 80) {f : Core → Core} {u : Micro} {e : Nat}
    (hf : f (s.core n) = { s.core n with slots := Tbl.set (s.core n).slots slot u, eligible := e }) :
    (s.modCore n f).microAt n slot = some u ∧ OneMicro n slot s (s.modCore n f) := by
  have hc := State.core_modCore_self s n f hn
  rw [hf] at hc
  refine ⟨?_, ⟨State.modCore_eq s n f, fun x hx => State.core_modCore_other s n x f hx, ?_⟩, ?_, fun x hx => ?_⟩
  · rw [State.microAt, hc]; exact Tbl.get?_set_self _ _ _
  · rw [hc]
  · rw [hc]
  · rw [State.microAt, hc]; exact Tbl.get?_set_other _ _ _ _ hx

/-- MICROTHREAD_INIT_COMPLETE (R29). -/
theorem microthreadInitComplete_becomes (hn : n < 80) (hm : s.microAt n slot = some m) (hl : m.life = .created) :
    Answers (.microthreadInitComplete n slot) s fun t =>
      t.microAt n slot = some { m with life := if m.mode = .called then .called else .free, since := (s.core n).eligible } ∧
      OneMicro n slot s t := by
  have hx := State.micro_of_microAt hm
  refine ⟨_, exec_microthreadInitComplete, oneMicro_set hn (e := (s.core n).eligible + 1) ?_⟩
  dsimp only
  rw [hx, if_pos hl, Core.stamp_eq, Core.modMicro_eq, Core.micro_mk_set, hx, Tbl.set_set]
  cases hmode : m.mode <;> simp [Micro.modeLife, hmode]

/-- DEFERRED_FAULT (R29, R169). -/
theorem deferredFault_taken (hn : n < 80) {i : FaultInfo} {rest : List FaultInfo} (hm : s.microAt n slot = some m)
    (hd : m.deferred = i :: rest) (hl : m.life ∈ [Life.called, .free, .parked]) (hf : m.fault = none) (hp : m.pos = none)
    (hg : (s.core n).inGroup slot = false) : Answers (.deferredFault n slot) s fun t =>
      t.microAt n slot = some { m with life := .faulted, fault := some { i with stamp := (s.core n).eligible }, deferred := rest } ∧
      OneMicro n slot s t := by
  have hx := State.micro_of_microAt hm
  refine ⟨_, exec_deferredFault, oneMicro_set hn (e := (s.core n).eligible + 1) ?_⟩
  simp only [List.mem_cons, List.not_mem_nil, or_false] at hl
  rcases hl with hl | hl | hl <;> simp [hx, hd, hl, hf, hp, hg, Core.setMicro, Micro.takeFault]

/-- QUIT_RETIRE (R25, R29, R260). -/
theorem quitRetire_retires (hn : n < 80) (hm : s.microAt n slot = some m) (hq : m.quitting = true)
    (hl : m.life = .parked ∨ m.rearmed = true) (hg : (s.core n).inGroup slot = false) (hlink : m.linked = .none)
    (hd : m.deferred = []) (hpend : m.pend = 0#64)
    (ho : ∀ p ∈ s.flights, p.2.core = n → p.2.agent = .micro → (∃ w ∈ p.2.who, w.slot = slot ∧ w.gen = m.gen) →
      8 ≤ p.2.ll ∧ p.1 ∉ (s.core n).fifo) :
    Answers (.quitRetire n slot) s fun t => t.microAt n slot = some m.retire ∧ OneMicro n slot s t := by
  have hx := State.micro_of_microAt hm
  have hready : s.quitReady n slot m = true := by
    simp only [State.quitReady, hlink, hd, hpend, List.isEmpty_nil, beq_self_eq_true, Bool.true_and, Bool.not_eq_true',
      List.any_eq_false, Bool.and_eq_true, Bool.or_eq_true, decide_eq_true_eq, beq_iff_eq, List.any_eq_true, State.inFifo,
      List.contains_iff_mem]
    rintro p hp ⟨⟨⟨hc, ha⟩, hlive⟩, hw⟩
    obtain ⟨h8, hout⟩ := ho p hp hc ha hw
    exact hlive.elim (fun h => absurd h (Nat.not_lt_of_le h8)) hout
  have hcond : (m.quitting && (m.life == .parked || m.rearmed) && !(s.core n).inGroup slot && s.quitReady n slot m) = true := by
    rcases hl with hl | hl <;> simp [hq, hl, hg, hready]
  refine ⟨_, exec_quitRetire.trans ?_, oneMicro_set (f := fun c => c.modMicro slot Micro.retire) (e := (s.core n).eligible) hn ?_⟩
  · simp only [execQuitRetire, hx, hcond, if_true]
    rfl
  · rw [Core.modMicro_eq, hx]

/-- BUDGET_REFILL (R187). -/
theorem budgetRefill_refills (hn : n < 80) : Answers (.budgetRefill n) s fun t =>
    OnlyCore n s t ∧ (t.core n).cyc = BitVec.ofNat 64 (((s.core n).cyc.toNat / 1024 + 1) * 1024) ∧ (t.core n).slots = (s.core n).slots ∧
    ∀ l, t.res? n l = (s.res? n l).map fun r =>
      if (s.core n).bEn = true ∧ r.phase ≠ .saved then
        { r with budget := min (r.budget + (s.core n).bRefill.toNat) (s.core n).bCeil.toNat } else r := by
  refine ⟨_, exec_budgetRefill, ⟨State.modCore_eq s n _, fun x hx => State.core_modCore_other s n x _ hx⟩, ?_, ?_, fun l => ?_⟩
  · rw [State.core_modCore_self _ _ _ hn]; dsimp only; split <;> rfl
  · rw [State.core_modCore_self _ _ _ hn]; dsimp only; split <;> rfl
  · rw [State.res?, State.core_modCore_self _ _ _ hn, State.res?]
    dsimp only
    cases hb : (s.core n).bEn
    · simp
    · simp only [if_true, Tbl.get?_mapKV, true_and, ne_eq, ite_not]

/-! FAULT_MESSAGE_POST (R274, R277). -/

/-- A register's machine check is logged, and may trigger a snapshot: nothing but the watch changes (R441, R443). -/
theorem State.logRegister_only (s : State) (n : Nat) (i : FaultInfo) :
    s.logRegister n i = { s with watch := (s.logRegister n i).watch, fresh := (s.logRegister n i).fresh } ∧
      (i.code ≠ 0x0D#8 → s.logRegister n i = s) := by
  unfold State.logRegister
  split
  case isTrue h =>
    refine ⟨?_, fun hc => absurd h.1 hc⟩
    simp only [State.machineCheck, State.trigger]
    split
    · rfl
    · split <;> rfl
  case isFalse => exact ⟨rfl, fun _ => rfl⟩

theorem State.leftover_none {l : Nat} {q : Res} (hq : s.res? n l = some q) (h : ∀ b, Spill.faultMsg b ∉ q.spill) (fuel : Nat) :
    s.leftover n l fuel = s := by
  cases fuel with
  | zero => rfl
  | succ k =>
    rw [State.leftover, hq]
    dsimp only
    rw [takeFirst_none]
    intro x hx
    cases x with
    | faultMsg b => exact absurd hx (h b)
    | _ => rfl

theorem coreOfCode_lt {v x : Nat} (h : coreOfCode v = some x) : x < 80 := by
  simp only [coreOfCode, coreAt, Option.ite_none_right_eq_some, Option.some.injEq] at h
  obtain ⟨⟨hx, hy⟩, hv⟩ := h
  have hw : Config.meshW = 10 := rfl
  have hh : Config.meshH = 8 := rfl
  omega

/-- A message at the end of a mailbox. -/
def Res.mailed (b : List Byte) (r : Res) : Res := { r with mbox := r.mbox ++ [b] }

/-- A fault whose message is posted. -/
def Micro.markPosted (m : Micro) : Micro := { m with fault := m.fault.map fun i => { i with posted := true } }

/-- What FAULT_MESSAGE_POST leaves: the message at the end of the supervisor's mailbox, its fault marked, and a register's machine check
logged. -/
def State.postedTo (s : State) (n slot dst l : Nat) (i : FaultInfo) (b : List Byte) : State :=
  ((s.modRes dst l (Res.mailed b)).modMicro n slot Micro.markPosted).logRegister n i

theorem execFaultMessagePost_posted {l dst : Nat} {r q : Res} {i : FaultInfo} (hm : s.microAt n slot = some m) (ho : m.owner = some l)
    (hr : s.res? n l = some r) (hp : r.phase = .resident) (hu : (s.core n).firstUnposted l = some (slot, i))
    (hd : coreOfCode (r.caller.fsup.toNat % 512) = some dst) (hq : s.res? dst l = some q) (hqp : q.phase = .resident)
    (hs : ∀ b, Spill.faultMsg b ∉ q.spill) (he : q.caller.ended = false) (hbox : q.mbox.length < 64) :
    execFaultMessagePost n slot s = .next (s.postedTo n slot dst l i (faultBytes (slot + 1024 * s.coreWord n) i)) := by
  have hfull : decide (mboxRoom ≤ q.mbox.length) = false := decide_eq_false (Nat.not_le_of_lt hbox)
  have hra : r.away = false := by rw [Res.away, hp]; rfl
  have hqa : q.away = false := by rw [Res.away, hqp]; rfl
  simp only [execFaultMessagePost, State.micro_of_microAt hm, ho, hr, hu, hd, hra, ne_eq, not_true_eq_false, Bool.false_eq_true,
    or_self, if_false, hq, hqa, he, State.leftover_none hq hs, hfull]
  rfl

/-- A launch and a micro-thread changed, on cores that may be one: what each core keeps. -/
theorem State.core_modRes_modMicro (x dst l : Nat) (f : Res → Res) (g : Micro → Micro) :
    let t := (s.modRes dst l f).modMicro n slot g
    t.core x = { s.core x with slots := (t.core x).slots, res := (t.core x).res } := by
  have hm (u : State) : (u.modMicro n slot g).core x = { u.core x with slots := ((u.modMicro n slot g).core x).slots } := by
    by_cases hx : x = n ∧ n < 80
    · obtain ⟨rfl, hn⟩ := hx
      rw [State.modMicro, State.core_modCore_self _ _ _ hn]
      rfl
    · by_cases hn : n < 80
      · rw [State.modMicro, State.core_modCore_other _ _ _ _ fun h => hx ⟨h, hn⟩]
      · rw [State.modMicro, State.modCore_out _ _ _ (Nat.le_of_not_lt hn)]
  have hr : (s.modRes dst l f).core x = { s.core x with res := ((s.modRes dst l f).core x).res } := by
    by_cases hx : x = dst ∧ dst < 80
    · obtain ⟨rfl, hd⟩ := hx
      rw [State.modRes_core _ _ _ _ hd]
    · by_cases hd : dst < 80
      · rw [State.modRes, State.core_modCore_other _ _ _ _ fun h => hx ⟨h, hd⟩]
      · rw [State.modRes, State.modCore_out _ _ _ (Nat.le_of_not_lt hd)]
  have h := hm (s.modRes dst l f)
  rw [hr] at h
  dsimp only
  rw [h]

theorem State.microAt_modMicro (hn : n < 80) (s : State) (f : Micro → Micro) (x y : Nat) :
    (s.modMicro n slot f).microAt x y = if x = n ∧ y = slot then some (f ((s.core n).micro slot)) else s.microAt x y := by
  rw [State.microAt, State.modMicro, State.core_modCore s n x _ hn]
  by_cases hx : x = n
  · subst hx
    by_cases hy : y = slot
    · subst hy
      simp [Core.modMicro_eq]
    · simp [hy, State.microAt, Core.modMicro_eq, Tbl.get?_set_other]
  · simp [hx, State.microAt]

theorem State.res?_modMicro (hn : n < 80) (s : State) (f : Micro → Micro) (x y : Nat) :
    (s.modMicro n slot f).res? x y = s.res? x y := by
  rw [State.res?, State.modMicro, State.core_modCore s n x _ hn]
  split
  · subst_vars; rfl
  · rfl

theorem State.microAt_modRes {l : Nat} (hn : n < 80) (s : State) (f : Res → Res) (x y : Nat) :
    (s.modRes n l f).microAt x y = s.microAt x y := by
  rw [State.microAt, State.modRes, State.core_modCore s n x _ hn]
  split
  · subst_vars; rfl
  · rfl

theorem State.res?_modRes_ne {l : Nat} (hn : n < 80) (s : State) (f : Res → Res) {x y : Nat} (h : x ≠ n ∨ y ≠ l) :
    (s.modRes n l f).res? x y = s.res? x y := by
  by_cases hx : x = n
  · subst hx
    have hy : y ≠ l := h.resolve_left fun h => h rfl
    rw [State.res?_modRes hn]
    simp [hy]
  · rw [State.res?, State.modRes, State.core_modCore_other _ _ _ _ hx, State.res?]

/-- FAULT_MESSAGE_POST (R274, R277). -/
theorem faultMessagePost_posts {l dst : Nat} {r q : Res} {i : FaultInfo} (hn : n < 80) (hm : s.microAt n slot = some m) (ho : m.owner = some l)
    (hr : s.res? n l = some r) (hp : r.phase = .resident) (hfirst : (s.core n).firstUnposted l = some (slot, i)) (hf : m.fault = some i)
    (hd : coreOfCode (r.caller.fsup.toNat % 512) = some dst) (hq : s.res? dst l = some q) (hqp : q.phase = .resident)
    (hs : ∀ b, Spill.faultMsg b ∉ q.spill) (he : q.caller.ended = false) (hbox : q.mbox.length < 64) :
    Answers (.faultMessagePost n slot) s fun t =>
      t.res? dst l = some { q with mbox := q.mbox ++ [faultBytes (slot + 1024 * s.coreWord n) i] } ∧
      t.microAt n slot = some { m with fault := some { i with posted := true } } ∧
      (∀ x y, x ≠ n ∨ y ≠ slot → t.microAt x y = s.microAt x y) ∧ (∀ x y, x ≠ dst ∨ y ≠ l → t.res? x y = s.res? x y) ∧
      (∀ x, t.core x = { s.core x with slots := (t.core x).slots, res := (t.core x).res }) ∧
      (i.code ≠ 0x0D#8 → t.watch = s.watch ∧ t.fresh = s.fresh) ∧
      t = { s with cores := t.cores, watch := t.watch, fresh := t.fresh } := by
  have hdst := coreOfCode_lt hd
  generalize hb : faultBytes (slot + 1024 * s.coreWord n) i = b
  obtain ⟨u, hu⟩ : ∃ u, (s.modRes dst l (Res.mailed b)).modMicro n slot Micro.markPosted = u := ⟨_, rfl⟩
  obtain ⟨hlog, hsame⟩ := State.logRegister_only u n i
  have hpost : s.postedTo n slot dst l i b = u.logRegister n i := by rw [State.postedTo, hu]
  have hcore (x : Nat) : (u.logRegister n i).core x = u.core x :=
    (congrArg (State.core · x) hlog).trans rfl
  have hmicro (x y : Nat) : (u.logRegister n i).microAt x y = if x = n ∧ y = slot then some m.markPosted else s.microAt x y := by
    rw [State.microAt, hcore, ← State.microAt, ← hu, State.microAt_modMicro hn, State.microAt_modRes hdst,
      State.micro_of_microAt ((State.microAt_modRes hdst _ _ _ _).trans hm)]
  have hres (x y : Nat) : (u.logRegister n i).res? x y = (s.modRes dst l (Res.mailed b)).res? x y := by
    rw [State.res?, hcore, ← State.res?, ← hu, State.res?_modMicro hn]
  have hu' : u = { s with cores := u.cores } := by
    rw [← hu, State.modMicro, State.modCore_eq, State.modRes, State.modCore_eq s]
  have hexec := execFaultMessagePost_posted hm ho hr hp hfirst hd hq hqp hs he hbox
  rw [hb, hpost] at hexec
  refine ⟨_, exec_faultMessagePost.trans hexec, ?_, ?_, ?_, ?_, ?_, ?_, ?_⟩
  · rw [hres, State.res?_modRes_self hdst hq, Res.mailed]
  · rw [hmicro, if_pos ⟨rfl, rfl⟩, Micro.markPosted, hf, Option.map_some]
  · exact fun x y h => by rw [hmicro, if_neg fun e => h.elim (· e.1) (· e.2)]
  · exact fun x y h => by rw [hres, State.res?_modRes_ne hdst _ _ h]
  · exact fun x => by rw [hcore, ← hu]; exact State.core_modRes_modMicro _ _ _ _ _
  · intro hc
    rw [hsame hc, hu']
    exact ⟨rfl, rfl⟩
  · have hcores : (u.logRegister n i).cores = u.cores := (congrArg State.cores hlog).trans rfl
    rw [hcores]
    exact hlog.trans (congrArg (fun v : State => { v with watch := (u.logRegister n i).watch, fresh := (u.logRegister n i).fresh }) hu')

end
end Sys2Proof.Machine

/-! A rotation slot takes a group (R38, R179, R180). -/

namespace Sys2Proof.Machine

section
variable {s t : State} {n slot : Nat} {m : Micro}

/-! Sorted lists of numbers. -/

theorem mem_insertNat {a x : Nat} {l : List Nat} : x ∈ insertNat a l ↔ x = a ∨ x ∈ l := by
  induction l with
  | nil => simp [insertNat]
  | cons y r ih =>
    rw [insertNat]
    split
    · simp
    · split
      · subst_vars; simp
      · rw [List.mem_cons, ih, List.mem_cons]
        exact or_left_comm

theorem insertNat_sorted {a : Nat} {l : List Nat} (h : l.Pairwise (· < ·)) : (insertNat a l).Pairwise (· < ·) := by
  induction l with
  | nil => simp [insertNat]
  | cons y r ih =>
    obtain ⟨hy, hr⟩ := List.pairwise_cons.1 h
    rw [insertNat]
    split
    case isTrue hay =>
      exact List.pairwise_cons.2 ⟨fun z hz => (List.mem_cons.1 hz).elim (fun e => e ▸ hay) fun hz => Nat.lt_trans hay (hy z hz), h⟩
    case isFalse hay =>
      split
      · exact h
      · refine List.pairwise_cons.2 ⟨fun z hz => ?_, ih hr⟩
        rcases mem_insertNat.1 hz with rfl | hz
        · omega
        · exact hy z hz

theorem mem_sortNat {x : Nat} {l : List Nat} : x ∈ sortNat l ↔ x ∈ l := by
  induction l with
  | nil => rfl
  | cons y r ih => rw [sortNat, List.foldr_cons, mem_insertNat, ← sortNat, ih, List.mem_cons]

theorem sortNat_nodup (l : List Nat) : (sortNat l).Nodup := by
  have h : (sortNat l).Pairwise (· < ·) := by
    induction l with
    | nil => exact .nil
    | cons y r ih => exact insertNat_sorted ih
  exact h.imp Nat.ne_of_lt

/-! Several micro-threads of a core changed, each once. -/

/-- A core's micro-threads changed one after the other: the core keeps the rest. -/
theorem Core.foldl_modMicro_slots {α : Type} (f : α → Micro → Micro) (xs : List (α × Nat)) (c : Core) :
    xs.foldl (fun c p => c.modMicro p.2 (f p.1)) c =
      { c with slots := (xs.foldl (fun c p => c.modMicro p.2 (f p.1)) c).slots } := by
  induction xs generalizing c with
  | nil => rfl
  | cons p xs ih => rw [List.foldl_cons, ih]; rfl

theorem Core.foldl_modMicro_other {α : Type} (f : α → Micro → Micro) {xs : List (α × Nat)} {c : Core} {x : Nat}
    (h : x ∉ xs.map Prod.snd) : Tbl.get? (xs.foldl (fun c p => c.modMicro p.2 (f p.1)) c).slots x = Tbl.get? c.slots x := by
  induction xs generalizing c with
  | nil => rfl
  | cons p xs ih =>
    obtain ⟨hp, hx⟩ := not_or.1 (fun e => h (List.mem_cons.2 e))
    rw [List.foldl_cons, ih hx, Core.modMicro_eq]
    exact Tbl.get?_set_other _ _ _ _ hp

theorem Core.foldl_modMicro_at {α : Type} (f : α → Micro → Micro) {xs : List (α × Nat)} {c : Core} {i : α} {x : Nat}
    (hd : (xs.map Prod.snd).Nodup) (h : (i, x) ∈ xs) :
    Tbl.get? (xs.foldl (fun c p => c.modMicro p.2 (f p.1)) c).slots x = some (f i (c.micro x)) := by
  induction xs generalizing c with
  | nil => cases h
  | cons p xs ih =>
    obtain ⟨hp, hd⟩ := List.nodup_cons.1 hd
    rcases List.mem_cons.1 h with rfl | h
    · rw [List.foldl_cons, Core.foldl_modMicro_other f hp, Core.modMicro_eq]
      exact Tbl.get?_set_self _ _ _
    · have hx : x ≠ p.2 := fun e => hp (e ▸ List.mem_map_of_mem h)
      rw [List.foldl_cons, ih hd h, Core.micro_modMicro, if_neg hx]

/-! A member enters its group (R73). -/

theorem Micro.setGroup_only (m : Micro) (r : Reg) (vs : List Word) :
    m.setGroup r vs = { m with regs := (m.setGroup r vs).regs, bad := (m.setGroup r vs).bad } := by
  induction vs generalizing m r with
  | nil => rfl
  | cons v vs ih => rw [Micro.setGroup, ih]; rfl

/-- A group's registers alone are set (R16). -/
theorem Micro.reg_setGroup_below {m : Micro} {r d : Reg} {vs : List Word} (h : d.toNat < r.toNat) (hlen : r.toNat + vs.length ≤ 64) :
    (m.setGroup r vs).reg d = m.reg d := by
  induction vs generalizing m r with
  | nil => rfl
  | cons v vs ih =>
    rw [Micro.setGroup]
    cases vs with
    | nil => simp [Micro.setGroup, Micro.reg, Micro.setReg, Nat.ne_of_gt h]
    | cons w vs =>
      simp only [List.length_cons] at hlen ih
      have hr : (r + 1#6).toNat = r.toNat + 1 := by rw [BitVec.toNat_add]; exact Nat.mod_eq_of_lt (by simp; omega)
      rw [ih (by omega) (by omega)]
      simp [Micro.reg, Micro.setReg, Nat.ne_of_gt h]

/-- A micro-thread whose called figure has left its call queue (R73). -/
def Micro.dequeued (m : Micro) : Micro := { m with callq := if m.mode = Mode.called then m.callq.tail else m.callq }

theorem Micro.enterGroup_start {m : Micro} (k : Nat) (h : m.pos = none) :
    m.enterGroup k = m.dequeued.setGroup 56#6 ((List.range 8).map fun i => BitVec.ofNat 32 (Config.freeNat (k + i))) := by
  unfold Micro.enterGroup Micro.dequeued
  split
  case h_1 p hp => exact absurd (hp.symm.trans h) (by simp)
  case h_2 =>
    dsimp only
    split <;> rfl

theorem Micro.enterGroup_inside {m : Micro} {p : Pos} (k : Nat) (h : m.pos = some p) : m.enterGroup k = m := by
  rw [Micro.enterGroup, h]

theorem Micro.enterGroup_facts {m u : Micro} {k : Nat} (hu : m.enterGroup k = u) :
    u = { m with callq := u.callq, regs := u.regs, bad := u.bad } ∧
      (m.pos = none → u.callq = if m.mode = .called then m.callq.tail else m.callq) ∧
      ∀ d : Reg, d.toNat < 56 → u.reg d = m.reg d := by
  subst hu
  rcases Option.eq_none_or_eq_some m.pos with hpos | ⟨p, hpos⟩
  · rw [Micro.enterGroup_start k hpos]
    refine ⟨?_, fun _ => ?_, fun d hd => Micro.reg_setGroup_below (m := m.dequeued) hd (by simp)⟩
    · rw [Micro.setGroup_only]; rfl
    · rw [Micro.setGroup_only]; rfl
  · rw [Micro.enterGroup_inside k hpos]
    exact ⟨rfl, fun e => absurd (hpos.symm.trans e) (by simp), fun _ _ => rfl⟩

/-! The group that is gathered (R38, R180, R468). -/

section
variable {l : Nat} {r : Res} {lead : Nat} {fig : Word} {list : List (Nat × Word)}

theorem State.gather_nodup : (s.gather n l r lead fig list).Nodup := by
  unfold State.gather
  dsimp only
  split
  · exact List.nodup_singleton _
  · split <;> exact sortNat_nodup _

theorem State.gather_inside {p : Pos} (h : ((s.core n).micro lead).pos = some p) : s.gather n l r lead fig list = [lead] := by
  simp [State.gather, h]

theorem State.mem_gather {x : Nat} (ht : (s.traits r fig).2 = false) (h : ((s.core n).micro lead).pos = none) :
    x ∈ s.gather n l r lead fig list ↔
      x ∈ ((list.filter fun p => p.2 = fig ∧ ((s.core n).micro p.1).pos = none).map Prod.fst).take 64 := by
  simp [State.gather, h, ht, mem_sortNat]


theorem map_snd_numbered (xs : List Nat) : (xs.mapIdx fun i x => (i, x)).map Prod.snd = xs :=
  List.ext_getElem (by simp) (by simp)

/-- The members of a group, numbered, enter it. -/
def Core.entered (c : Core) (members : List Nat) (k : Nat) : Core :=
  (members.mapIdx fun i slot => (i, slot)).foldl
    (fun c p => c.modMicro p.2 ((fun i m => m.enterGroup (k + 8 * i - 8 * members.length)) p.1)) c

theorem Core.entered_slots (c : Core) (members : List Nat) (k : Nat) :
    c.entered members k = { c with slots := (c.entered members k).slots } :=
  Core.foldl_modMicro_slots (fun i m => m.enterGroup (k + 8 * i - 8 * members.length)) _ c

theorem Core.entered_other {c : Core} {members : List Nat} {k x : Nat} (h : x ∉ members) :
    Tbl.get? (c.entered members k).slots x = Tbl.get? c.slots x :=
  Core.foldl_modMicro_other (fun i m => m.enterGroup (k + 8 * i - 8 * members.length)) (by rwa [map_snd_numbered])

theorem Core.entered_member {c : Core} {members : List Nat} {k x : Nat} (hd : members.Nodup) (h : x ∈ members) :
    ∃ j, Tbl.get? (c.entered members k).slots x = some ((c.micro x).enterGroup j) := by
  obtain ⟨i, hi, rfl⟩ := List.mem_iff_getElem.1 h
  exact ⟨_, Core.foldl_modMicro_at (fun i m => m.enterGroup (k + 8 * i - 8 * members.length)) (i := i)
    (by rwa [map_snd_numbered]) (List.mem_mapIdx.2 ⟨i, hi, rfl⟩)⟩

/-- A group is placed in a rotation slot: its members enter it, at the position its leader goes on from (R38, R180, R468). -/
theorem State.placeGroup_eq (s : State) (n l port rot : Nat) (r : Res) (lead : Nat) (fig : Word) (list : List (Nat × Word)) :
    ∃ (k : Nat) (g : Group), (s.placeGroup n l port rot r lead fig list = { s with fresh := k }.modCore n fun c =>
        let c := c.entered (s.gather n l r lead fig list) k
        { c with
          groups := Tbl.set c.groups (port * 8 + rot) g
          lastServed := c.lastServed.mapIdx fun i v => if i = port then l else v }) ∧
      g.launch = l ∧ g.fig = fig ∧ g.members = s.gather n l r lead fig list ∧
      (((s.core n).micro lead).pos = none → g.off = 0 ∧ g.ll = 0) ∧
      ∀ p, ((s.core n).micro lead).pos = some p → g.off = p.off ∧ g.ll = p.ll := by
  refine ⟨_, _, rfl, rfl, rfl, rfl, fun h => ?_, fun p h => ?_⟩
  · dsimp only
    rw [h]
    exact ⟨rfl, rfl⟩
  · dsimp only
    rw [h]
    exact ⟨rfl, rfl⟩

/-- What ROTATION_SLOT_FILL leaves (R38, R179, R180): the group, its members and the port's turn. -/
theorem State.placeGroup_places (hn : n < 80) {port rot : Nat} {rest : List (Nat × Word)}
    (ht : s.placeGroup n l port rot r lead fig rest = t) :
    (∃ g, Tbl.get? (t.core n).groups (port * 8 + rot) = some g ∧ g.launch = l ∧ g.fig = fig ∧
      (((s.core n).micro lead).pos = none → g.off = 0 ∧ g.ll = 0) ∧
      (∀ p, ((s.core n).micro lead).pos = some p → g.off = p.off ∧ g.ll = p.ll ∧ g.members = [lead]) ∧
      ((s.traits r fig).2 = false → ((s.core n).micro lead).pos = none → ∀ x, x ∈ g.members ↔
        x ∈ ((rest.filter fun p => p.2 = fig ∧ ((s.core n).micro p.1).pos = none).map Prod.fst).take 64) ∧
      (∀ x, x ∉ g.members → t.microAt n x = s.microAt n x) ∧
      ∀ x m, x ∈ g.members → s.microAt n x = some m → ∃ u, t.microAt n x = some u ∧
        u = { m with callq := u.callq, regs := u.regs, bad := u.bad } ∧
        (m.pos = none → u.callq = if m.mode = .called then m.callq.tail else m.callq) ∧
        ∀ d : Reg, d.toNat < 56 → u.reg d = m.reg d) ∧
    (∀ j, j ≠ port * 8 + rot → Tbl.get? (t.core n).groups j = Tbl.get? (s.core n).groups j) ∧
    t.core n = { s.core n with slots := (t.core n).slots, groups := (t.core n).groups, lastServed := (t.core n).lastServed } ∧
    (t.core n).lastServed = (s.core n).lastServed.mapIdx (fun i v => if i = port then l else v) ∧
    t = { s with cores := t.cores, fresh := t.fresh } ∧ ∀ x, x ≠ n → t.core x = s.core x := by
  obtain ⟨k, g, he, hl, hf, hg, hnone, hsome⟩ := State.placeGroup_eq s n l port rot r lead fig rest
  have hcore : t.core n = { s.core n with
      slots := ((s.core n).entered (s.gather n l r lead fig rest) k).slots
      groups := Tbl.set (s.core n).groups (port * 8 + rot) g
      lastServed := (s.core n).lastServed.mapIdx fun i v => if i = port then l else v } := by
    rw [← ht, he, State.core_modCore_self _ _ _ hn, Core.entered_slots]
    rfl
  have hslots (x : Nat) : t.microAt n x = Tbl.get? ((s.core n).entered (s.gather n l r lead fig rest) k).slots x := by
    rw [State.microAt, hcore]
  refine ⟨⟨g, ?_, hl, hf, hnone, fun p hp => ⟨(hsome p hp).1, (hsome p hp).2, ?_⟩, fun h h' x => ?_, fun x hx => ?_, fun x m hx hm => ?_⟩,
    fun j hj => ?_, ?_, ?_, ?_, fun x hx => ?_⟩
  · rw [hcore]; exact Tbl.get?_set_self _ _ _
  · rw [hg, State.gather_inside hp]
  · rw [hg, State.mem_gather h h']
  · rw [hslots, Core.entered_other (hg ▸ hx)]; rfl
  · obtain ⟨j, hj⟩ := Core.entered_member (c := s.core n) (k := k) State.gather_nodup (hg ▸ hx)
    rw [State.micro_of_microAt hm] at hj
    exact ⟨_, (hslots x).trans hj, Micro.enterGroup_facts rfl⟩
  · rw [hcore]; exact Tbl.get?_set_other _ _ _ _ hj
  · rw [hcore]
  · rw [hcore]
  · rw [← ht, he, State.modCore_eq]
  · rw [← ht, he, State.core_modCore_other _ _ _ _ hx]
    rfl

theorem execRotationSlotFill_places {port rot : Nat} {rest : List (Nat × Word)} (hport : port < 8) (hrot : rot < 8)
    (hthrottle : rot < s.power.throttle) (hfree : Tbl.get? (s.core n).groups (port * 8 + rot) = none) (hparked : (s.core n).parked = false)
    (hl : ((s.core n).serviceOrder port).find? (fun l => !(s.eligible n l port).isEmpty) = some l) (hr : s.res? n l = some r)
    (he : s.eligible n l port = (lead, fig) :: rest) (hs : s.isStart n l fig = true) :
    execRotationSlotFill n port rot s = .next (s.placeGroup n l port rot r lead fig ((lead, fig) :: rest)) := by
  have hcond : ¬ (8 ≤ port ∨ 8 ≤ rot ∨ s.power.throttle ≤ rot ∨ Tbl.has (s.core n).groups (port * 8 + rot) = true ∨
      (s.core n).parked = true) := by
    simp only [Tbl.has, hfree, hparked, Option.isSome_none, Bool.false_eq_true, or_false]
    omega
  simp only [execRotationSlotFill, if_neg hcond, hl, hr, he, hs, if_true]

end

end
end Sys2Proof.Machine

/-! A line of code arrives (R181, R182, R328, R329, R372). -/

namespace Sys2Proof.Machine

section
variable {s t u : State} {n port rot : Nat} {g : Group} {v : Nat} {rest : List Nat} {r : Res}

theorem clusterOf_lt (hn : n < 80) : clusterOf n < 10 := by
  unfold clusterOf
  omega

theorem State.modCluster_eq (s : State) (k : Nat) (f : Cluster → Cluster) :
    s.modCluster k f = { s with clusters := (s.modCluster k f).clusters } := by
  unfold State.modCluster
  split <;> rfl

theorem State.cluster_modCluster_other {k x : Nat} (f : Cluster → Cluster) (h : x ≠ k) : (s.modCluster k f).cluster x = s.cluster x := by
  unfold State.modCluster State.cluster
  split
  · rw [Vector.getElem?_setIfInBounds_ne (Ne.symm h)]
  · rfl

/-- A leaf entry kept, or none: the translation units alone change, and a free choice is made (R149). -/
theorem State.cacheLeaf_only (s : State) (asid va : Nat) (need : Need) :
    s.cacheLeaf asid va need = { s with tlus := (s.cacheLeaf asid va need).tlus, fresh := (s.cacheLeaf asid va need).fresh } := by
  unfold State.cacheLeaf
  split
  · rfl
  · split
    · rfl
    · simp only [State.modTlu]
      split <;> rfl

theorem Cluster.mem_fill {c : Cluster} {l x : CLine} {k : Nat} (h : x ∈ (c.fill l k).lines) : x ∈ c.lines ∨ x = l := by
  rcases List.mem_cons.1 h with h | h
  · exact .inr h
  · exact .inl (List.mem_filter.1 (List.mem_of_mem_eraseIdx h)).1

/-- The line a group waited for is there: the group, and perhaps the code cache. -/
def LineArrives (n k : Nat) (g : Group) (rest : List Nat) (s t : State) : Prop :=
  Tbl.get? (t.core n).groups k = some { g with waiting := rest } ∧
    (∀ j, j ≠ k → Tbl.get? (t.core n).groups j = Tbl.get? (s.core n).groups j) ∧
    t.core n = { s.core n with groups := (t.core n).groups, code := (t.core n).code } ∧ (∀ x, x ≠ n → t.core x = s.core x) ∧
    t = { s with cores := t.cores, clusters := t.clusters, tlus := t.tlus, watch := t.watch, fresh := t.fresh }

/-- What `execCodeFetchArrival` does with its group when the line has come. -/
def State.lineArrived (s : State) (n k : Nat) (g : Group) (rest : List Nat) : State :=
  s.modCore n fun c => { c with groups := Tbl.set c.groups k { g with waiting := rest } }

/-- Beside the code cache of a core, the clusters, the translation units and the watch, a state is as it was. -/
structure CachesOnly (n : Nat) (s u : State) : Prop where
  state : u = { s with cores := u.cores, clusters := u.clusters, tlus := u.tlus, watch := u.watch, fresh := u.fresh }
  core : u.core n = { s.core n with code := (u.core n).code }
  cores : ∀ x, x ≠ n → u.core x = s.core x

theorem CachesOnly.refl (n : Nat) (s : State) : CachesOnly n s s := ⟨rfl, rfl, fun _ _ => rfl⟩

/-- A step that leaves the cores. -/
theorem CachesOnly.of_cores (h : CachesOnly n s u)
    (ht : ∃ cl tl w fr, t = { u with clusters := cl, tlus := tl, watch := w, fresh := fr }) : CachesOnly n s t := by
  obtain ⟨hs, hc, ho⟩ := h
  obtain ⟨cl, tl, w, fr, rfl⟩ := ht
  exact ⟨by rw [hs], hc, ho⟩

theorem CachesOnly.cacheLeaf (h : CachesOnly n s u) (asid va : Nat) (need : Need) : CachesOnly n s (u.cacheLeaf asid va need) :=
  h.of_cores ⟨_, _, _, _, State.cacheLeaf_only u asid va need⟩

theorem CachesOnly.corrects (h : CachesOnly n s u) (pa len : Nat) : CachesOnly n s (u.corrects pa len) :=
  h.of_cores ⟨_, _, _, _, (State.corrects_only u pa len).1⟩

theorem CachesOnly.fill (h : CachesOnly n s u) (k : Nat) (f : Cluster → Cluster) : CachesOnly n s (u.modCluster k f).drawn :=
  h.of_cores ⟨_, _, _, _, by rw [State.modCluster_eq]; rfl⟩

theorem CachesOnly.keepCode (hn : n < 80) (h : CachesOnly n s u) (asid vline : Nat) (l : Line) :
    CachesOnly n s (u.keepCode n asid vline l) ∧ ((u.keepCode n asid vline l).core n).code.head? = some (asid, vline, l) := by
  obtain ⟨hs, hc, ho⟩ := h
  have hx : (u.keepCode n asid vline l).core n = (u.core n).fillCode asid vline u.draw l := State.core_modCore_self u n _ hn
  refine ⟨⟨?_, ?_, fun x hxn => (State.core_modCore_other u n x _ hxn).trans (ho x hxn)⟩, ?_⟩
  · rw [State.keepCode, State.modCore_eq, hs]
    rfl
  · rw [hx, hc]
    rfl
  · rw [hx]
    rfl

/-- A group's line arrives once the caches have it. -/
theorem LineArrives.of_caches {k : Nat} (hn : n < 80) (h : CachesOnly n s u) (ht : u.lineArrived n k g rest = t) :
    LineArrives n k g rest s t ∧ (t.core n).code = (u.core n).code ∧ t.clusters = u.clusters ∧ t.watch = u.watch := by
  obtain ⟨hs, hc, ho⟩ := h
  have hx : t.core n = { s.core n with groups := Tbl.set (s.core n).groups k { g with waiting := rest }, code := (u.core n).code } := by
    rw [← ht, State.lineArrived, State.core_modCore_self _ _ _ hn, hc]
  have hu : t = { u with cores := t.cores } := by rw [← ht, State.lineArrived, State.modCore_eq]
  refine ⟨⟨?_, fun j hj => ?_, ?_, fun x hxn => ?_, ?_⟩, ?_, ?_, ?_⟩
  · rw [hx]; exact Tbl.get?_set_self _ _ _
  · rw [hx]; exact Tbl.get?_set_other _ _ _ _ hj
  · rw [hx]
  · rw [← ht]; exact (State.core_modCore_other _ _ _ _ hxn).trans (ho x hxn)
  · rw [hu, hs]
  · rw [hx]
  · rw [hu]
  · rw [hu]

/-! CODE_FETCH_ARRIVAL, by where the line is. -/

section
variable (hg : Tbl.get? (s.core n).groups (port * 8 + rot) = some g) (hw : g.waiting = v :: rest)
  (hr : s.res? n g.launch = some r) (hp : r.phase = .resident)
include hg hw hr hp

theorem execCodeFetchArrival_there (hc : (s.core n).hasCode r.asid v = true) :
    execCodeFetchArrival n port rot s = .next (s.lineArrived n (port * 8 + rot) g rest) := by
  simp [execCodeFetchArrival, hg, hw, hr, Res.away, hp, hc, State.lineArrived]

variable {pa : Nat} {cc : Bool} {o : Sealed} (hc : (s.core n).hasCode r.asid v = false)
  (ht : s.translate r.asid (v * 64) .exec = .ok pa cc) (ho : s.codeObject r.asid r.code = some o) (hm : pa / 0x1000 ∈ o.pages)
include hc ht ho hm

theorem execCodeFetchArrival_cached {x : CLine} (hcc : cc = true) (hf : (s.cluster (clusterOf n)).find r.asid v false = some x) :
    execCodeFetchArrival n port rot s =
      .next (((s.cacheLeaf r.asid (v * 64) .exec).keepCode n r.asid v x.data).lineArrived n (port * 8 + rot) g rest) := by
  simp [execCodeFetchArrival, hg, hw, hr, Res.away, hp, hc, ht, ho, hm, hcc, hf, State.lineArrived]

theorem execCodeFetchArrival_read (hcc : cc = true) (hf : (s.cluster (clusterOf n)).find r.asid v false = none)
    (hb : s.isBad pa 64 = false) :
    let line := s.mergeBuffer (clusterOf n) r.asid v (s.lineAt pa)
    let u := (s.corrects pa 64).cacheLeaf r.asid (v * 64) .exec
    execCodeFetchArrival n port rot s =
      .next (((u.modCluster (clusterOf n) fun q => q.fill ⟨r.asid, v, false, line⟩ u.draw).drawn.keepCode n r.asid v line).lineArrived n
        (port * 8 + rot) g rest) := by
  simp [execCodeFetchArrival, hg, hw, hr, Res.away, hp, hc, ht, ho, hm, hcc, hf, hb, State.lineArrived]

theorem execCodeFetchArrival_uncached (hcc : cc = false) (hb : s.isBad pa 64 = false) :
    execCodeFetchArrival n port rot s =
      .next (((s.corrects pa 64).cacheLeaf r.asid (v * 64) .exec).lineArrived n (port * 8 + rot) g rest) := by
  simp [execCodeFetchArrival, hg, hw, hr, Res.away, hp, hc, ht, ho, hm, hcc, hb, State.lineArrived]

end

theorem State.cacheLeaf_clusters (s : State) (asid va : Nat) (need : Need) : (s.cacheLeaf asid va need).clusters = s.clusters :=
  (congrArg State.clusters (State.cacheLeaf_only s asid va need)).trans rfl

theorem State.cacheLeaf_watch (s : State) (asid va : Nat) (need : Need) : (s.cacheLeaf asid va need).watch = s.watch :=
  (congrArg State.watch (State.cacheLeaf_only s asid va need)).trans rfl

theorem State.corrects_clusters (s : State) (pa len : Nat) : (s.corrects pa len).clusters = s.clusters :=
  (congrArg State.clusters (State.corrects_only s pa len).1).trans rfl

theorem OnlyCorrects.of_watch {pa len : Nat} (h : t.watch = (s.corrects pa len).watch) : OnlyCorrects s t := by
  unfold OnlyCorrects
  rw [h]
  exact State.corrects_onlyCorrects s pa len

/-- CODE_FETCH_ARRIVAL of a line that is in the code cache by now (R181). -/
theorem codeFetchArrival_there (hn : n < 80) (hg : Tbl.get? (s.core n).groups (port * 8 + rot) = some g) (hw : g.waiting = v :: rest)
    (hr : s.res? n g.launch = some r) (hp : r.phase = .resident) (hc : (s.core n).hasCode r.asid v = true) :
    Answers (.codeFetchArrival n port rot) s fun t =>
      LineArrives n (port * 8 + rot) g rest s t ∧ (t.core n).code = (s.core n).code ∧ OnlyCore n s t := by
  obtain ⟨ha, hcode, -, -⟩ := LineArrives.of_caches (k := port * 8 + rot) (g := g) (rest := rest) hn (CachesOnly.refl n s) rfl
  refine ⟨_, exec_codeFetchArrival.trans (execCodeFetchArrival_there hg hw hr hp hc), ha, hcode, State.modCore_eq _ _ _, ?_⟩
  exact fun x hx => State.core_modCore_other _ _ _ _ hx

section
variable (hn : n < 80) (hg : Tbl.get? (s.core n).groups (port * 8 + rot) = some g) (hw : g.waiting = v :: rest)
  (hr : s.res? n g.launch = some r) (hp : r.phase = .resident) {pa : Nat} {cc : Bool} {o : Sealed}
  (hc : (s.core n).hasCode r.asid v = false) (ht : s.translate r.asid (v * 64) .exec = .ok pa cc)
  (ho : s.codeObject r.asid r.code = some o) (hm : pa / 0x1000 ∈ o.pages)
include hn hg hw hr hp hc ht ho hm

/-- CODE_FETCH_ARRIVAL of a line that the cluster cache holds (R181). -/
theorem codeFetchArrival_cached {x : CLine} (hcc : cc = true) (hf : (s.cluster (clusterOf n)).find r.asid v false = some x) :
    Answers (.codeFetchArrival n port rot) s fun t => LineArrives n (port * 8 + rot) g rest s t ∧
      (t.core n).code.head? = some (r.asid, v, x.data) ∧ t.clusters = s.clusters ∧ t.watch = s.watch := by
  have h := CachesOnly.keepCode hn ((CachesOnly.refl n s).cacheLeaf r.asid (v * 64) .exec) r.asid v x.data
  obtain ⟨ha, hcode, hcl, hwatch⟩ := LineArrives.of_caches (k := port * 8 + rot) (g := g) (rest := rest) hn h.1 rfl
  refine ⟨_, exec_codeFetchArrival.trans (execCodeFetchArrival_cached hg hw hr hp hc ht ho hm hcc hf), ha, hcode ▸ h.2, ?_, ?_⟩
  · rw [hcl, State.keepCode, State.drawn_clusters, State.modCore_clusters, State.cacheLeaf_clusters]
  · rw [hwatch, State.keepCode, State.drawn_watch, State.modCore_watch, State.cacheLeaf_watch]

/-- CODE_FETCH_ARRIVAL of a line read at its home, which the cluster cache keeps (R181, R328, R329). -/
theorem codeFetchArrival_read (hcc : cc = true) (hf : (s.cluster (clusterOf n)).find r.asid v false = none)
    (hb : s.isBad pa 64 = false) :
    let cl := clusterOf n
    let line := s.mergeBuffer cl r.asid v (s.lineAt pa)
    Answers (.codeFetchArrival n port rot) s fun t => LineArrives n (port * 8 + rot) g rest s t ∧
      (t.core n).code.head? = some (r.asid, v, line) ∧ (t.cluster cl).lines.head? = some ⟨r.asid, v, false, line⟩ ∧
      (∀ x ∈ (t.cluster cl).lines, x ∈ (s.cluster cl).lines ∨ x = ⟨r.asid, v, false, line⟩) ∧
      (∀ k, k ≠ cl → t.cluster k = s.cluster k) ∧ OnlyCorrects s t := by
  intro cl line
  let u := (s.corrects pa 64).cacheLeaf r.asid (v * 64) .exec
  let w := u.modCluster cl fun q => q.fill ⟨r.asid, v, false, line⟩ u.draw
  have hu : CachesOnly n s u := ((CachesOnly.refl n s).corrects pa 64).cacheLeaf r.asid (v * 64) .exec
  have hucl (k : Nat) : u.cluster k = s.cluster k := by
    rw [State.cluster, State.cacheLeaf_clusters, State.corrects_clusters, ← State.cluster]
  have h := CachesOnly.keepCode hn (hu.fill cl fun q => q.fill ⟨r.asid, v, false, line⟩ u.draw) r.asid v line
  obtain ⟨ha, hcode, hcl, hwatch⟩ := LineArrives.of_caches (k := port * 8 + rot) (g := g) (rest := rest) hn h.1 rfl
  have hcluster (k : Nat) : ((w.drawn.keepCode n r.asid v line).lineArrived n (port * 8 + rot) g rest).cluster k = w.cluster k := by
    rw [State.cluster, hcl, State.keepCode, State.drawn_clusters, State.modCore_clusters, State.drawn_clusters, ← State.cluster]
  have hself : w.cluster cl = (s.cluster cl).fill ⟨r.asid, v, false, line⟩ u.draw := by
    rw [State.cluster_modCluster_self _ _ _ (clusterOf_lt hn), hucl]
  refine ⟨_, exec_codeFetchArrival.trans (execCodeFetchArrival_read hg hw hr hp hc ht ho hm hcc hf hb), ha, hcode ▸ h.2, ?_, ?_, ?_, ?_⟩
  · rw [hcluster, hself]
    rfl
  · rw [hcluster, hself]
    exact fun x hx => Cluster.mem_fill hx
  · exact fun k hk => by rw [hcluster, State.cluster_modCluster_other _ hk, hucl]
  · exact OnlyCorrects.of_watch (pa := pa) (len := 64) (hwatch.trans (by
      rw [State.keepCode, State.drawn_watch, State.modCore_watch, State.drawn_watch, State.modCluster_watch, State.cacheLeaf_watch]))

/-- CODE_FETCH_ARRIVAL of a line of an uncacheable page (R372). -/
theorem codeFetchArrival_uncached (hcc : cc = false) (hb : s.isBad pa 64 = false) :
    Answers (.codeFetchArrival n port rot) s fun t => LineArrives n (port * 8 + rot) g rest s t ∧
      (t.core n).code = (s.core n).code ∧ t.clusters = s.clusters ∧ OnlyCorrects s t := by
  have hu : CachesOnly n s ((s.corrects pa 64).cacheLeaf r.asid (v * 64) .exec) :=
    ((CachesOnly.refl n s).corrects pa 64).cacheLeaf r.asid (v * 64) .exec
  obtain ⟨ha, hcode, hcl, hwatch⟩ := LineArrives.of_caches (k := port * 8 + rot) (g := g) (rest := rest) hn hu rfl
  refine ⟨_, exec_codeFetchArrival.trans (execCodeFetchArrival_uncached hg hw hr hp hc ht ho hm hcc hb), ha, ?_, ?_, ?_⟩
  · rw [hcode, State.core, State.cacheLeaf_only, (State.corrects_only s pa 64).1]
    rfl
  · rw [hcl, State.cacheLeaf_clusters, State.corrects_clusters]
  · exact OnlyCorrects.of_watch (pa := pa) (len := 64) (hwatch.trans (State.cacheLeaf_watch _ _ _ _))

end

end
end Sys2Proof.Machine

/-! O32: the issue events of a core. -/

namespace Sys2Proof.Proofs
open Sys2Proof Sys2Proof.Machine

/-- Settles O32: one lemma per issue event. -/
theorem issueEventResults : Obligations.IssueEventResults := by
  unfold Obligations.IssueEventResults
  intro s n hn
  refine ⟨fun slot m hm hl => microthreadInitComplete_becomes hn hm hl, fun slot m i rest hm hd hl hf hp hg =>
      deferredFault_taken hn hm hd hl hf hp hg, fun slot m hm hq hl hg hk hd hp ho => ?_, budgetRefill_refills hn, ?_, ?_, ?_⟩
  · obtain ⟨t, ht, hu, hothers⟩ := quitRetire_retires hn hm hq hl hg hk hd hp ho
    exact ⟨t, ht, ⟨m.retire, hu, rfl, rfl, rfl, rfl, rfl, rfl⟩, hothers⟩
  · intro slot m l r i dst q hm ho hr hp hfirst _ hf hd hq hqp hs he hbox
    exact faultMessagePost_posts hn hm ho hr hp hfirst hf hd hq hqp hs he hbox
  · intro port rot l r lead fig rest hport hrot hthrottle hfree hparked hl hr he hs
    exact ⟨_, exec_rotationSlotFill.trans (execRotationSlotFill_places hport hrot hthrottle hfree hparked hl hr he hs),
      State.placeGroup_places hn rfl⟩
  · intro port rot g v rest r hg hw hr hp
    refine ⟨codeFetchArrival_there hn hg hw hr hp, fun pa cc o hc ht ho hm => ⟨fun x hcc hf => ?_, fun hcc hf hb => ?_, fun hcc hb => ?_⟩⟩
    · exact codeFetchArrival_cached hn hg hw hr hp hc ht ho hm hcc hf
    · exact codeFetchArrival_read hn hg hw hr hp hc ht ho hm hcc hf hb
    · exact codeFetchArrival_uncached hn hg hw hr hp hc ht ho hm hcc hb

end Sys2Proof.Proofs

/-! What the end of a fence leaves alone (R174, R330). -/

namespace Sys2Proof.Machine

section
variable {s t u : State}

theorem Tbl.sorted_mapKV {α β : Type} {t : Tbl α} (f : Nat → α → β) (h : Tbl.sorted t = true) : Tbl.sorted (Tbl.mapKV t f) = true := by
  induction t with
  | nil => rfl
  | cons p r ih =>
    refine Tbl.sorted_of_all _ _ _ (fun q hq => ?_) (ih ((Tbl.sorted_cons _ _ _).1 h).2)
    obtain ⟨x, hx, rfl⟩ := List.mem_map.1 hq
    exact Tbl.sorted_all _ _ _ h _ hx

/-- How the stage of an access may change when a fence ends: a line on its way loses its place in the cache (R330). -/
def Stage.Loses (a b : Stage) : Prop :=
  b = a ∨ (∃ line c, a = .fill line c ∧ b = .fill line false) ∨ ∃ pa c, a = .home pa c ∧ b = .home pa false

theorem Stage.Loses.trans {a b c : Stage} (h : a.Loses b) (h' : b.Loses c) : a.Loses c := by
  rcases h with rfl | ⟨line, x, rfl, rfl⟩ | ⟨pa, x, rfl, rfl⟩
  · exact h'
  · rcases h' with rfl | ⟨line', y, e, rfl⟩ | ⟨pa', y, e, rfl⟩
    · exact .inr (.inl ⟨line, x, rfl, rfl⟩)
    · cases e; exact .inr (.inl ⟨line, x, rfl, rfl⟩)
    · cases e
  · rcases h' with rfl | ⟨line', y, e, rfl⟩ | ⟨pa', y, e, rfl⟩
    · exact .inr (.inr ⟨pa, x, rfl, rfl⟩)
    · cases e
    · cases e; exact .inr (.inr ⟨pa, x, rfl, rfl⟩)

/-- Fences have ended: clusters have dropped lines, and every other access is as it was but for its place in the cache. -/
structure Settles (s t : State) : Prop where
  state : t = { s with flights := t.flights, clusters := t.clusters }
  drops : OnlyDrops s t
  keeps : ∀ id f, Tbl.get? s.flights id = some f → f.isFence = false →
    ∃ u, Tbl.get? t.flights id = some u ∧ u = { f with stage := u.stage } ∧ f.stage.Loses u.stage
  ends : ∀ id u, Tbl.get? t.flights id = some u → ∃ f, Tbl.get? s.flights id = some f ∧ f.isFence = u.isFence
  sorted : Tbl.sorted s.flights = true → Tbl.sorted t.flights = true

theorem OnlyDrops.trans (h : OnlyDrops s t) (h' : OnlyDrops t u) : OnlyDrops s u := by
  intro k
  obtain ⟨ht, hl⟩ := h k
  obtain ⟨hu, hl'⟩ := h' k
  exact ⟨by rw [hu, ht], fun x hx => hl x (hl' x hx)⟩

theorem OnlyDrops.refl (s : State) : OnlyDrops s s := fun _ => ⟨rfl, fun _ h => h⟩

theorem OnlyDrops.of_clusters (h : t.clusters = s.clusters) : OnlyDrops s t := by
  intro k
  have hk : t.cluster k = s.cluster k := by rw [State.cluster, h, State.cluster]
  exact ⟨by rw [hk], fun x hx => hk ▸ hx⟩

theorem Settles.refl (s : State) : Settles s s :=
  ⟨rfl, .refl s, fun _ f h _ => ⟨f, h, rfl, .inl rfl⟩, fun _ u h => ⟨u, h, rfl⟩, id⟩

theorem Settles.trans (h : Settles s t) (h' : Settles t u) : Settles s u := by
  refine ⟨?_, h.drops.trans h'.drops, fun id f hf hn => ?_, fun id w hw => ?_, fun hs => h'.sorted (h.sorted hs)⟩
  · rw [h'.state, h.state]
  · obtain ⟨v, hv, he, hst⟩ := h.keeps id f hf hn
    obtain ⟨w, hw, he', hst'⟩ := h'.keeps id v hv (by rw [he]; exact hn)
    exact ⟨w, hw, by rw [he', he], hst.trans hst'⟩
  · obtain ⟨v, hv, he⟩ := h'.ends id w hw
    obtain ⟨f, hf, he'⟩ := h.ends id v hv
    exact ⟨f, hf, he'.trans he⟩

/-- An entry that is a fence, if there is one, goes. -/
theorem Settles.dropFlight {id : Nat} (hs : Tbl.sorted s.flights = true) (hf : ∀ f, Tbl.get? s.flights id = some f → f.isFence = true) :
    Settles s (s.dropFlight id) := by
  refine ⟨rfl, .of_clusters rfl, fun j f hj hn => ?_, fun j u hu => ?_, Tbl.sorted_erase _ _⟩
  · have hne : j ≠ id := fun e => by
      rw [e] at hj
      rw [hf f hj] at hn
      cases hn
    exact ⟨f, (Tbl.get?_erase_other _ _ _ hne).trans hj, rfl, .inl rfl⟩
  · by_cases hne : j = id
    · rw [State.dropFlight, hne, Tbl.get?_erase_self _ _ hs] at hu
      cases hu
    · exact ⟨u, (Tbl.get?_erase_other _ _ _ hne).symm.trans hu, rfl⟩

theorem OnlyDrops.dropLines (s : State) (cl : Nat) (p : CLine → Bool) : OnlyDrops s (s.dropLines cl p) := by
  intro k
  unfold State.dropLines State.cluster State.modCluster
  split
  case h_1 c hc =>
    by_cases hk : cl = k
    · subst hk
      obtain ⟨hlt, rfl⟩ := Vector.getElem?_eq_some_iff.1 hc
      simp only [Vector.getElem?_setIfInBounds_self_of_lt hlt, Vector.getElem?_eq_getElem hlt, Option.getD_some]
      exact ⟨trivial, fun x hx => (List.mem_filter.1 hx).1⟩
    · rw [Vector.getElem?_setIfInBounds_ne hk]
      exact ⟨rfl, fun _ h => h⟩
  case h_2 => exact ⟨rfl, fun _ h => h⟩

/-- A line on its way to a cluster loses its place in the cache (R330). -/
def Flight.losesPlace (cl : Nat) (f : Flight) : Flight :=
  if clusterOf f.core == cl && f.isLoad then
    match f.stage with
    | .fill line _ => { f with stage := .fill line false }
    | .home pa _ => { f with stage := .home pa false }
    | _ => f
  else f

theorem Flight.losesPlace_facts (cl : Nat) (f : Flight) :
    f.losesPlace cl = { f with stage := (f.losesPlace cl).stage } ∧ f.stage.Loses (f.losesPlace cl).stage ∧
      (f.losesPlace cl).isFence = f.isFence := by
  unfold Flight.losesPlace
  split
  · split
    case h_1 line c e => exact ⟨rfl, .inr (.inl ⟨line, c, e, rfl⟩), rfl⟩
    case h_2 pa c e => exact ⟨rfl, .inr (.inr ⟨pa, c, e, rfl⟩), rfl⟩
    case h_3 => exact ⟨rfl, .inl rfl, rfl⟩
  · exact ⟨rfl, .inl rfl, rfl⟩

theorem State.acquire_flights (s : State) (cl : Nat) :
    (s.acquire cl).flights = Tbl.mapKV s.flights fun _ f => f.losesPlace cl := by
  simp only [State.acquire, State.dropFills, State.dropLines, State.modCluster_flights, Bool.and_true]
  rfl

/-- An acquire drops data lines, and those on their way (R330). -/
theorem Settles.acquire (s : State) (cl : Nat) : Settles s (s.acquire cl) := by
  refine ⟨?_, (OnlyDrops.dropLines s cl _).trans (.of_clusters rfl), fun id f hf _ => ?_, fun id u hu => ?_, fun hs => ?_⟩
  · rw [State.acquire, State.dropFills, State.dropLines, State.modCluster_eq]
  · rw [State.acquire_flights, Tbl.get?_mapKV, hf]
    exact ⟨_, rfl, (Flight.losesPlace_facts cl f).1, (Flight.losesPlace_facts cl f).2.1⟩
  · rw [State.acquire_flights, Tbl.get?_mapKV] at hu
    obtain ⟨f, hf, rfl⟩ := Option.map_eq_some_iff.1 hu
    exact ⟨f, hf, (Flight.losesPlace_facts cl f).2.2.symm⟩
  · rw [State.acquire_flights]
    exact Tbl.sorted_mapKV _ hs

theorem Settles.endFence {p : Nat × Flight} (hs : Tbl.sorted s.flights = true)
    (hp : ∀ f, Tbl.get? s.flights p.1 = some f → f.isFence = true) : Settles s (s.endFence p) := by
  unfold State.endFence
  split
  · dsimp only
    split
    · exact (Settles.dropFlight hs hp).trans (Settles.acquire _ _)
    · exact Settles.dropFlight hs hp
  · exact .refl s

/-- Fences of a state end one after the other. -/
theorem Settles.foldl {ps : List (Nat × Flight)} (hs : Tbl.sorted s.flights = true)
    (hp : ∀ p ∈ ps, ∀ f, Tbl.get? s.flights p.1 = some f → f.isFence = true) : Settles s (ps.foldl State.endFence s) := by
  induction ps generalizing s with
  | nil => exact .refl s
  | cons p ps ih =>
    have h := Settles.endFence hs (hp p (List.mem_cons_self ..))
    refine h.trans (ih (h.sorted hs) fun q hq u hu => ?_)
    obtain ⟨f, hf, he⟩ := h.ends q.1 u hu
    rw [← he]
    exact hp q (List.mem_cons_of_mem _ hq) f hf

theorem State.fenceDone_isFence {id : Nat} {f : Flight} (h : s.fenceDone id f = true) : f.isFence = true := by
  unfold State.fenceDone at h
  unfold Flight.isFence
  split at h
  case h_1 => rfl
  case h_2 => cases h

/-- Every fence that may end ends (R174). -/
theorem State.settle_settles (hs : Tbl.sorted s.flights = true) : Settles s s.settle := by
  refine Settles.foldl hs fun p hp f hf => ?_
  obtain ⟨hmem, hdone⟩ := List.mem_filter.1 hp
  obtain rfl := Option.some.inj ((Tbl.get?_of_mem hs hmem).symm.trans hf)
  exact State.fenceDone_isFence hdone

/-- Fences that end leave every access but `x`, and what `x` was makes no difference. -/
theorem Settles.flights {id : Nat} (h : Settles t u)
    (ht : ∀ j, j ≠ id → Tbl.get? t.flights j = Tbl.get? s.flights j) : SettlesFlights id s u := by
  intro j f hj hf hn
  obtain ⟨v, hv, he, hst⟩ := h.keeps j f ((ht j hj).trans hf) hn
  exact ⟨v, hv, he, hst⟩

theorem Settles.gone {id : Nat} (h : Settles t u) (ht : Tbl.get? t.flights id = none) : Tbl.get? u.flights id = none := by
  cases hu : Tbl.get? u.flights id with
  | none => rfl
  | some f =>
    obtain ⟨g, hg, -⟩ := h.ends id f hu
    rw [ht] at hg
    cases hg

theorem Settles.core (h : Settles s t) (x : Nat) : t.core x = s.core x := by rw [h.state]; rfl

end
end Sys2Proof.Machine

/-! A result of one word delivered to one micro-thread (R120, R169). -/

namespace Sys2Proof.Machine

section
variable {s t u : State} {n id slot : Nat} {m : Micro} {f : Flight} {w : Who} {v : Word}

/-- A core of which one micro-thread has become `u`, but for what its return to the issue changes (R29, R38). -/
def Core.Touches (slot : Nat) (u : Micro) (c d : Core) : Prop :=
  d = { c with slots := d.slots, eligible := d.eligible } ∧ (∀ x, x ≠ slot → Tbl.get? d.slots x = Tbl.get? c.slots x) ∧
    ∃ x, Tbl.get? d.slots slot = some x ∧ x = { u with life := x.life, since := x.since, rearmed := x.rearmed }

theorem Core.Touches.trans {c d e : Core} {u : Micro} (h : c.Touches slot u d)
    (h' : ∀ x, Tbl.get? d.slots slot = some x → d.Touches slot x e) : c.Touches slot u e := by
  obtain ⟨hd, ho, x, hx, hu⟩ := h
  obtain ⟨he, ho', y, hy, hv⟩ := h' x hx
  exact ⟨by rw [he, hd], fun z hz => (ho' z hz).trans (ho z hz), y, hy, by rw [hv, hu]⟩

theorem Core.touches_set (c : Core) (u : Micro) : c.Touches slot u (c.setMicro slot u) :=
  ⟨rfl, fun _ h => Tbl.get?_set_other _ _ _ _ h, u, Tbl.get?_set_self _ _ _, rfl⟩

theorem Core.touches_modMicro {c : Core} {u : Micro} {g : Micro → Micro} (h : Tbl.get? c.slots slot = some u)
    (hg : ∀ m, g m = { m with life := (g m).life, since := (g m).since, rearmed := (g m).rearmed }) :
    c.Touches slot u (c.modMicro slot g) := by
  have hm : c.micro slot = u := by rw [Core.micro, h]; rfl
  rw [Core.modMicro, hm]
  exact ⟨rfl, fun _ h => Tbl.get?_set_other _ _ _ _ h, g u, Tbl.get?_set_self _ _ _, hg u⟩

theorem Core.touches_stamp {c : Core} {u : Micro} (h : Tbl.get? c.slots slot = some u) : c.Touches slot u (c.stamp slot) := by
  obtain ⟨hd, ho, hx⟩ := Core.touches_modMicro (g := fun m => { m with since := c.eligible }) h fun _ => rfl
  exact ⟨rfl, ho, hx⟩

theorem Core.touches_refresh {c : Core} {u : Micro} (h : Tbl.get? c.slots slot = some u) : c.Touches slot u (c.refresh slot) := by
  rcases c.refresh_cases slot with e | ⟨g, hg, e⟩
  · rw [e]
    exact ⟨rfl, fun _ _ => rfl, u, h, rfl⟩
  · rw [e]
    exact (Core.touches_modMicro h fun m => by rw [hg m]).trans fun x hx => Core.touches_stamp hx

/-! The words of the result. -/

theorem extractLsb'_setWidth_word (v : Word) (i : Nat) :
    (v.setWidth 128).extractLsb' (32 * i) 32 = if i = 0 then v else 0#32 := by
  ext j hj
  by_cases hi : i = 0
  · subst hi
    simp [hj, show j < 128 by omega]
  · have : 32 ≤ 32 * i + j := by omega
    simp [hi, BitVec.getLsbD_of_ge v _ this]

/-- What the delivery of the word `v` makes of its micro-thread. -/
def Micro.given (m : Micro) (f : Flight) (w : Who) (v : Word) : Micro :=
  { m.setGroup f.dst ((List.range f.dstN).map fun i => if i = 0 then v else 0#32) with
    pend := (m.clearPend f.dst f.dstN).pend
    await := if w.awaited = true then m.await &&& ~~~(1#8 <<< f.ll) else m.await }

theorem Micro.deliver_word (m : Micro) (f : Flight) (w : Who) (v : Word) :
    m.deliver f w.awaited (v.setWidth 128) noFlags = m.given f w v := by
  have hw : resultWords f.dstN (v.setWidth 128) = (List.range f.dstN).map fun i => if i = 0 then v else 0#32 :=
    List.map_congr_left fun i _ => extractLsb'_setWidth_word v i
  have hf (x : FFlags) : x ||| noFlags = x := BitVec.or_zero
  rw [Micro.deliver, hw, Micro.given, Micro.setGroup_only]
  dsimp only [Micro.raise, Micro.clearPend]
  rw [hf]
  split <;> rfl

/-! The delivery. -/

/-- What the delivery of a word to one micro-thread leaves. -/
structure Delivered (n id slot : Nat) (f : Flight) (w : Who) (m : Micro) (v : Word) (s t : State) : Prop where
  state : t = { s with cores := t.cores, clusters := t.clusters, flights := t.flights }
  core : (s.core n).Touches slot (m.given f w v) (t.core n)
  cores : ∀ x, x ≠ n → t.core x = s.core x
  gone : Tbl.get? t.flights id = none
  drops : OnlyDrops s t
  settles : SettlesFlights id s t

theorem State.deliver_delivers (hn : n < 80) (hs : Tbl.sorted s.flights = true) (ha : f.agent = .micro) (hc : f.core = n) (hw : f.who = [w])
    (hm : s.microAt n w.slot = some m) (hg : m.gen = w.gen) (hl : m.life ≠ .retired) :
    Delivered n id w.slot f w m v s (s.deliver id f (v.setWidth 128) noFlags) := by
  have hlive : (s.core n).liveAt w.slot w.gen = some m := by
    rw [State.microAt] at hm
    simp [Core.liveAt, hm, hg, hl]
  let g : Core → Core := fun c =>
    match c.liveAt w.slot w.gen with
    | none => c
    | some m =>
      let m' := m.deliver f w.awaited (v.setWidth 128) noFlags
      let c := c.setMicro w.slot m'
      (if m.await ≠ 0#8 ∧ m'.await = 0#8 then c.stamp w.slot else c).refresh w.slot
  have he : s.deliver id f (v.setWidth 128) noFlags = ((s.modCore n g).dropFlight id).settle := by
    simp only [State.deliver, ha, hw, hc, List.foldl_cons, List.foldl_nil]
    rfl
  have hcore : (s.core n).Touches w.slot (m.given f w v) (g (s.core n)) := by
    simp only [g, hlive, Micro.deliver_word]
    split
    · exact ((Core.touches_set _ _).trans fun x hx => Core.touches_stamp hx).trans fun x hx => Core.touches_refresh hx
    · exact (Core.touches_set _ _).trans fun x hx => Core.touches_refresh hx
  have hfl : (s.modCore n g).flights = s.flights := State.modCore_flights _ _ _
  have hset := State.settle_settles (s := (s.modCore n g).dropFlight id) (by rw [State.dropFlight, hfl]; exact Tbl.sorted_erase _ _ hs)
  rw [he]
  refine ⟨?_, ?_, fun x hx => ?_, hset.gone (by rw [State.dropFlight, hfl]; exact Tbl.get?_erase_self _ _ hs), ?_, hset.flights fun j hj => ?_⟩
  · rw [hset.state, State.dropFlight, State.modCore_eq]
  · rw [hset.core]
    exact (State.core_modCore_self s n g hn).symm ▸ hcore
  · rw [hset.core]
    exact State.core_modCore_other s n x g hx
  · exact (OnlyDrops.of_clusters (State.modCore_clusters s n g)).trans hset.drops
  · rw [State.dropFlight, hfl]
    exact Tbl.get?_erase_other _ _ _ hj

end
end Sys2Proof.Machine

/-! Messages between micro-threads arrive (R258-R264). -/

namespace Sys2Proof.Machine

section
variable {s t u b : State} {n l slot : Nat} {src : Option (Nat × List Msg)} {posted : Option (Nat × Msg)} {inbox : List Msg}
  {stale sent received : Nat} {N : Tbl (List Msg)} {w : Msg} {m : Micro}

theorem exec_spawnArrival {x : Nat} : exec (.spawnArrival n x) s = execSpawnArrival n x s := rfl
theorem exec_wordArrival {x : Nat} : exec (.wordArrival n x) s = execWordArrival n x s := rfl
theorem exec_bounceArrival {x : Nat} : exec (.bounceArrival n x) s = execBounceArrival n x s := rfl
theorem exec_longLatencyResult {id : Nat} {resp : Response} :
    exec (.longLatencyResult id resp) s = execLongLatencyResult id resp s := rfl

/-! What stands in the networks, and what the arrival of a message at a core changes beside its micro-threads. -/

/-- What a core holds of a source's messages. -/
def State.netOf (s : State) (y x : Nat) : List Msg := (Tbl.get? (s.core y).net x).getD []

/-- The networks, with the oldest message from a source gone and another posted by the core. -/
def NetsMove (n : Nat) (src : Option (Nat × List Msg)) (posted : Option (Nat × Msg)) (s t : State) : Prop := ∀ y x, y < 80 →
  t.netOf y x =
    (match src with
     | some (z, rest) => if y = n ∧ x = z then rest else s.netOf y x
     | none => s.netOf y x) ++
    (match posted with
     | some (z, m) => if y = z ∧ x = n then [m] else []
     | none => [])

/-- What an arrival changes of a core beside its launches and micro-threads. -/
def CoreTakes (n : Nat) (inbox : List Msg) (stale : Nat) (s t : State) : Prop :=
  t.core n = { s.core n with
    net := (t.core n).net, inbox := inbox, stale := (s.core n).stale + BitVec.ofNat 32 stale, res := (t.core n).res
    slots := (t.core n).slots, eligible := (t.core n).eligible } ∧
  ∀ y, y ≠ n → t.core y = { s.core y with net := (t.core y).net }

/-- What an arrival counts for a launch (R264). -/
def Counts (n l sent received : Nat) (s t : State) : Prop := ∀ x, t.res? n x = (s.res? n x).map fun r =>
  if x = l then { r with sent := r.sent + sent, received := r.received + received } else r

/-- An arrival, beside the micro-threads. -/
structure MsgTaken (n : Nat) (inbox : List Msg) (stale l sent received : Nat) (src : Option (Nat × List Msg))
    (posted : Option (Nat × Msg)) (s t : State) : Prop where
  core : CoreTakes n inbox stale s t
  counts : Counts n l sent received s t
  nets : NetsMove n src posted s t

/-- What a core's network table becomes when a message leaves it, or not. -/
def NetGives (s : State) (n : Nat) (src : Option (Nat × List Msg)) (N : Tbl (List Msg)) : Prop := ∀ x,
  (Tbl.get? N x).getD [] = match src with
    | some (z, rest) => if x = z then rest else s.netOf n x
    | none => s.netOf n x

theorem NetGives.moves (hN : NetGives s n src N) (ho : ∀ y, y ≠ n → t.core y = s.core y) (ht : (t.core n).net = N) :
    NetsMove n src none s t := by
  intro y x _
  by_cases hy : y = n
  · subst hy
    rw [State.netOf, ht, hN x]
    cases src <;> simp
  · rw [State.netOf, ho y hy, ← State.netOf]
    cases src <;> simp [hy]

theorem MsgTaken.of_core (hN : NetGives s n src N) (ho : ∀ y, y ≠ n → t.core y = s.core y)
    (ht : t.core n = { s.core n with
      net := N, inbox := inbox, stale := (s.core n).stale + BitVec.ofNat 32 stale
      res := Tbl.modify (s.core n).res l fun r => { r with sent := r.sent + sent, received := r.received + received }
      slots := (t.core n).slots, eligible := (t.core n).eligible }) :
    MsgTaken n inbox stale l sent received src none s t := by
  refine ⟨⟨?_, fun y hy => by rw [ho y hy]⟩, fun x => ?_, hN.moves ho (by rw [ht])⟩
  · conv_lhs => rw [ht]
    rw [ht]
  · rw [State.res?, ht]
    exact Tbl.get?_modify _ _ _ _

theorem State.core_enterNet {y : Nat} (hy : y < 80) (u : State) (x : Nat) : (u.enterNet n y w).core x =
    { u.core x with net := if x = y then Tbl.set (u.core y).net n (u.netOf y n ++ [w]) else (u.core x).net } := by
  rw [State.enterNet, State.core_modCore _ _ _ _ hy]
  split
  · subst_vars; rfl
  · rfl

/-- A message posted behind those that stand there (R258). -/
theorem MsgTaken.post {y : Nat} (hy : y < 80) (h : MsgTaken n inbox stale l sent received src none s u) :
    MsgTaken n inbox stale l sent received src (some (y, w)) s (u.enterNet n y w) := by
  obtain ⟨⟨hc, ho⟩, hr, hn⟩ := h
  have hx := State.core_enterNet (n := n) (w := w) hy u
  refine ⟨⟨?_, fun z hz => ?_⟩, fun x => ?_, fun z x hz => ?_⟩
  · rw [hx, hc]
  · rw [hx, ho z hz]
  · rw [State.res?, hx, ← hr x]
    rfl
  · have hold := hn z x hz
    simp only [List.append_nil] at hold
    rw [← hold, State.netOf, hx]
    by_cases hzy : z = y
    · subst hzy
      by_cases hxn : x = n
      · subst hxn
        simp
      · simp [hxn, Tbl.get?_set_other _ _ _ _ hxn, State.netOf]
    · simp [hzy, State.netOf]

theorem State.enterNet_state (u : State) (n y : Nat) (w : Msg) : u.enterNet n y w = { u with cores := (u.enterNet n y w).cores } :=
  State.modCore_eq _ _ _

/-- A message posted, and counted as sent (R258, R264). -/
theorem MsgTaken.posts (hn : n < 80) {y : Nat} (hy : y < 80) (hl : w.launch = l) (h : MsgTaken n inbox stale l 0 received src none s u) :
    MsgTaken n inbox stale l 1 received src (some (y, w)) s (u.post n y w) ∧ (∀ x, ((u.post n y w).core x).slots = (u.core x).slots) ∧
      u.post n y w = { u with cores := (u.post n y w).cores } := by
  subst hl
  obtain ⟨⟨hc, ho⟩, hr, hnet⟩ := h
  have hx (z : Nat) : (u.modRes n w.launch fun r => { r with sent := r.sent + 1 }).core z = { u.core z with
      res := ((u.modRes n w.launch fun r => { r with sent := r.sent + 1 }).core z).res } := by
    by_cases hz : z = n
    · rw [hz, State.modRes_core _ _ _ _ hn]
    · rw [State.modRes, State.core_modCore_other _ _ _ _ hz]
  refine ⟨MsgTaken.post hy ⟨⟨?_, fun z hz => ?_⟩, fun x => ?_, fun z x hz => ?_⟩, fun x => ?_, ?_⟩
  · rw [hx, hc]
  · rw [State.modRes, State.core_modCore_other _ _ _ _ hz]
    exact ho z hz
  · rw [State.res?_modRes hn, hr x, Option.map_map]
    refine congrArg (fun f => Option.map f (s.res? n x)) (funext fun r => ?_)
    by_cases hxl : x = w.launch <;> simp [hxl]
  · rw [State.netOf, hx, ← State.netOf, hnet z x hz]
  · rw [State.post, State.core_enterNet hy, hx]
  · rw [State.post, State.enterNet_state, State.modRes, State.modCore_eq]

/-- An arrival whose last step touches the core's micro-threads alone. -/
theorem MsgTaken.touch (h : MsgTaken n inbox stale l sent received src posted s u)
    (hc : t.core n = { u.core n with slots := (t.core n).slots, eligible := (t.core n).eligible })
    (ho : ∀ y, y ≠ n → t.core y = u.core y) : MsgTaken n inbox stale l sent received src posted s t := by
  obtain ⟨⟨hu, huo⟩, hr, hn⟩ := h
  have hnet (y : Nat) : (t.core y).net = (u.core y).net := by
    by_cases hy : y = n
    · rw [hy, hc]
    · rw [ho y hy]
  refine ⟨⟨?_, fun y hy => by rw [ho y hy, ← huo y hy]⟩, fun x => ?_, fun y x hy => ?_⟩
  · conv_lhs => rw [hc, hu]
    conv_rhs => rw [hc]
  · rw [State.res?, hc, ← hr x]
    rfl
  · rw [State.netOf, hnet, ← State.netOf, hn y x hy]

/-! The message has left its place: the state before it is performed. -/

/-- A message has left a core's network, or its inbox. -/
def State.offered (s : State) (n : Nat) (N : Tbl (List Msg)) (inbox : List Msg) : State :=
  s.modCore n fun c => { c with net := N, inbox := inbox }

/-- The table of a core's network when the oldest message of a source has left it. -/
def State.popped (s : State) (n x : Nat) : Tbl (List Msg) :=
  if (s.netOf n x).tail.isEmpty then Tbl.erase (s.core n).net x else Tbl.set (s.core n).net x (s.netOf n x).tail

theorem State.popNet_offered (s : State) (n x : Nat) : s.popNet n x = s.offered n (s.popped n x) (s.core n).inbox :=
  State.modCore_congr s n rfl

theorem State.takenInbox_offered (s : State) (n : Nat) (inbox : List Msg) :
    (s.modCore n fun c => { c with inbox := inbox }) = s.offered n (s.core n).net inbox := State.modCore_congr s n rfl

theorem NetGives.none (s : State) (n : Nat) : NetGives s n none (s.core n).net := fun _ => rfl

theorem NetGives.pop {x : Nat} {msg : Msg} {rest : List Msg} (h : Tbl.get? (s.core n).net x = some (msg :: rest))
    (hr : rest ≠ [] ∨ Tbl.sorted (s.core n).net = true) :
    NetGives s n (some (x, rest)) (s.popped n x) := by
  intro z
  have hx : s.netOf n x = msg :: rest := by rw [State.netOf, h]; rfl
  rw [State.popped, hx, List.tail_cons]
  by_cases hz : z = x
  · subst hz
    cases rest with
    | nil =>
      have hs := hr.resolve_left fun h => h rfl
      simp [Tbl.get?_erase_self _ _ hs]
    | cons y ys => simp
  · cases rest with
    | nil => simp [hz, Tbl.get?_erase_other _ _ _ hz, State.netOf]
    | cons y ys => simp [hz, Tbl.get?_set_other _ _ _ _ hz, State.netOf]

theorem State.offered_other {y : Nat} (hy : y ≠ n) : (s.offered n N inbox).core y = s.core y := State.core_modCore_other s n y _ hy

section
variable (hn : n < 80)
include hn

theorem State.offered_core : (s.offered n N inbox).core n = { s.core n with net := N, inbox := inbox } :=
  State.core_modCore_self s n _ hn

theorem State.offered_res? (x : Nat) : (s.offered n N inbox).res? n x = s.res? n x := by
  rw [State.res?, State.offered_core hn, State.res?]

theorem State.offered_micro (y x : Nat) : ((s.offered n N inbox).core y).micro x = (s.core y).micro x := by
  by_cases hy : y = n
  · rw [hy, State.offered_core hn, Core.micro, Core.micro]
  · rw [State.offered_other hy]

theorem State.offered_mail : (s.offered n N inbox).mail n w = s.mail n w := by
  unfold State.mail
  rw [State.offered_micro hn]

end

theorem State.offered_state (s : State) (n : Nat) (N : Tbl (List Msg)) (inbox : List Msg) :
    s.offered n N inbox = { s with cores := (s.offered n N inbox).cores } := State.modCore_eq _ _ _

end
end Sys2Proof.Machine

/-! Words, SPAWNs and replies taken (R259, R261, R264). -/

namespace Sys2Proof.Machine

section
variable {s t u b : State} {n l slot : Nat} {src : Option (Nat × List Msg)} {inbox : List Msg}
  {stale sent received : Nat} {N : Tbl (List Msg)} {w : Msg} {m : Micro}

/-- Nothing but the cores has changed, twice. -/
theorem State.cores_trans (h : u = { s with cores := u.cores }) (h' : t = { u with cores := t.cores }) :
    t = { s with cores := t.cores } := by
  rw [h', h]

/-- The bounce of a word that its target's core discarded (R261). -/
def Msg.bounce (src : Nat) (w : Msg) : Msg :=
  { kind := 4, reply := false, src := src, tslot := w.ret.toNat % 1024, tgen := w.ret.extractLsb' 16 16
    value := 0xFFFFFFFF#32, ret := 0#32, args := [], launch := w.launch }

/-- The bounce that a stale word causes, and where it goes (R261). -/
def State.bounced (s : State) (n : Nat) (w : Msg) (back : Option Nat) : Option (Nat × Msg) :=
  if w.kind = 3 ∧ w.reply = true then back.map fun y => (y, w.bounce (s.coreWord n)) else none

/-- The word's target is there. -/
def Micro.Target (m : Micro) (w : Msg) : Prop := m.gen = w.tgen ∧ m.owner = some w.launch ∧ m.life ≠ .retired

/-- An entry counted at a core (R264): the message has left its place. -/
def State.counted (s : State) (n l : Nat) (N : Tbl (List Msg)) (inbox : List Msg) : State := (s.offered n N inbox).consume n l

section
variable (hn : n < 80)
include hn

theorem State.counted_core : (s.counted n l N inbox).core n = { s.core n with
    net := N, inbox := inbox, res := Tbl.modify (s.core n).res l fun r => { r with received := r.received + 1 } } := by
  rw [State.counted, State.consume, State.modRes_core _ _ _ _ hn, State.offered_core hn]

theorem State.counted_micro (x : Nat) : ((s.counted n l N inbox).core n).micro x = (s.core n).micro x := by
  rw [State.counted_core hn, Core.micro, Core.micro]

theorem State.counted_microAt (x : Nat) : (s.counted n l N inbox).microAt n x = s.microAt n x := by
  rw [State.microAt, State.counted_core hn, State.microAt]

end

theorem State.counted_other {y : Nat} (hy : y ≠ n) : (s.counted n l N inbox).core y = s.core y :=
  (State.core_modCore_other _ n y _ hy).trans (State.offered_other hy)

theorem State.counted_state (s : State) (n l : Nat) (N : Tbl (List Msg)) (inbox : List Msg) :
    s.counted n l N inbox = { s with cores := (s.counted n l N inbox).cores } := by
  rw [State.counted, State.consume, State.modRes, State.modCore_eq, State.offered_state]

/-- A message counted, after a step that touches the core's micro-threads and its count of stale words alone. -/
theorem MsgTaken.counted (hn : n < 80) (hN : NetGives s n src N) {f : Core → Core}
    (hf : ∀ c, f c = { c with stale := c.stale + BitVec.ofNat 32 stale, slots := (f c).slots, eligible := (f c).eligible }) :
    let t := (s.counted n l N inbox).modCore n f
    MsgTaken n inbox stale l 0 1 src none s t ∧ t = { s with cores := t.cores } := by
  have hc := State.core_modCore_self (s.counted n l N inbox) n f hn
  refine ⟨.of_core hN (fun y hy => ?_) ?_, ?_⟩
  · rw [State.core_modCore_other _ _ _ _ hy, State.counted_other hy]
  · rw [hc]
    refine (hf _).trans ?_
    generalize f ((s.counted n l N inbox).core n) = d
    rw [State.counted_core hn]
    rfl
  · rw [State.modCore_eq, State.counted_state]

theorem MsgTaken.of_counted (hn : n < 80) (hN : NetGives s n src N) :
    MsgTaken n inbox 0 l 0 1 src none s (s.counted n l N inbox) := by
  have h := (MsgTaken.counted (l := l) (inbox := inbox) (stale := 0) hn hN (f := fun c => c) fun c => by simp).1
  rwa [State.modCore_id _ _ rfl] at h

/-! A word. -/

theorem State.mail_stale (h : ¬ ((s.core n).micro w.tslot).Target w) : s.mail n w = .stale := by
  refine if_pos ?_
  simp only [Micro.Target, not_and_or, ne_eq, not_not] at h
  exact h

theorem State.mail_there (h : ((s.core n).micro w.tslot).Target w) : s.mail n w =
    if ((s.core n).micro w.tslot).linked = .recvw then .waiter
    else if ((s.core n).micro w.tslot).mailbox.isNone then .empty else .full := by
  obtain ⟨hg, ho, hl⟩ := h
  exact if_neg (by simp [hg, ho, hl])

section
variable (hn : n < 80) (hN : NetGives s n src N)
include hn

theorem State.microAt_counted_modMicro (f : Micro → Micro) (x : Nat) : ((s.counted n l N inbox).modMicro n slot f).microAt n x =
    if x = slot then some (f ((s.core n).micro slot)) else s.microAt n x := by
  rw [State.microAt_modMicro hn, State.counted_micro hn, State.counted_microAt hn]
  simp

include hN

/-- A word fills an empty mailbox (R261). -/
theorem takeWord_empty (h : ((s.core n).micro w.tslot).Target w) (hl : ((s.core n).micro w.tslot).linked ≠ .recvw)
    (hb : ((s.core n).micro w.tslot).mailbox = none) (ht : (s.offered n N inbox).takeWord n w = t) :
    t.microAt n w.tslot = some { (s.core n).micro w.tslot with mailbox := some w.value } ∧
      (∀ x, x ≠ w.tslot → t.microAt n x = s.microAt n x) ∧ MsgTaken n inbox 0 w.launch 0 1 src none s t ∧
      t = { s with cores := t.cores } := by
  have he : t = (s.counted n w.launch N inbox).modMicro n w.tslot fun x => { x with mailbox := some w.value } := by
    rw [← ht, State.takeWord, State.offered_mail hn, State.mail_there h, if_neg hl, if_pos (by simp [hb])]
    rfl
  subst he
  refine ⟨?_, fun x hx => ?_, MsgTaken.counted hn hN fun c => by simp [Core.modMicro_eq]⟩
  · rw [State.microAt_counted_modMicro hn, if_pos rfl]
  · rw [State.microAt_counted_modMicro hn, if_neg hx]

/-- A word whose target cannot take it waits in the inbox (R261). -/
theorem keepWord_kept (ht : ((s.offered n N inbox).modCore n fun c => { c with inbox := c.inbox ++ [w] }) = t) :
    CoreTakes n (inbox ++ [w]) 0 s t ∧ (t.core n).res = (s.core n).res ∧ (t.core n).slots = (s.core n).slots ∧ NetsMove n src none s t ∧
      t = { s with cores := t.cores } := by
  have hc : t.core n = { s.core n with net := N, inbox := inbox ++ [w] } := by
    rw [← ht, State.core_modCore_self _ _ _ hn, State.offered_core hn]
  have ho (y : Nat) (hy : y ≠ n) : t.core y = s.core y := by
    rw [← ht, State.core_modCore_other _ _ _ _ hy, State.offered_other hy]
  refine ⟨⟨?_, fun y hy => by rw [ho y hy]⟩, by rw [hc], by rw [hc], hN.moves ho (by rw [hc]), ?_⟩
  · rw [hc]
    simp
  · rw [← ht, State.modCore_eq, State.offered_state]

/-- A stale word is discarded and counted, and bounces where its sender asked for replies (R25, R261, R264). -/
theorem takeWord_stale (h : ¬ ((s.core n).micro w.tslot).Target w) {back : Option Nat} (hb : coreOfCode (w.src % 512) = back)
    (ht : (s.offered n N inbox).takeWord n w = t) :
    (t.core n).slots = (s.core n).slots ∧
      MsgTaken n inbox 1 w.launch (if (s.bounced n w back).isSome then 1 else 0) 1 src (s.bounced n w back) s t ∧
      t = { s with cores := t.cores } := by
  obtain ⟨u, hu⟩ : ∃ u, (s.counted n w.launch N inbox).countStale n = u := ⟨_, rfl⟩
  obtain ⟨htaken, hstate⟩ := MsgTaken.counted (l := w.launch) (inbox := inbox) (stale := 1) hn hN
    (f := fun c => { c with stale := c.stale + 1#32 }) fun _ => rfl
  change MsgTaken _ _ _ _ _ _ _ _ s (State.countStale _ n) at htaken
  change State.countStale _ n = { s with cores := (State.countStale _ n).cores } at hstate
  have hslots : (u.core n).slots = (s.core n).slots := by
    rw [← hu, State.countStale, State.core_modCore_self _ _ _ hn, State.counted_core hn]
  rw [hu] at htaken hstate
  have hword : t = if w.kind = 3 ∧ w.reply = true then
      (match coreOfCode (w.src % 512) with
       | none => u
       | some c => u.post n c (w.bounce (s.coreWord n)))
      else u := by
    have hcode : s.coreWord n = u.coreWord n := by rw [hstate]; rfl
    rw [← ht, State.takeWord, State.offered_mail hn, State.mail_stale h, hcode, ← hu]
    rfl
  by_cases hk : w.kind = 3 ∧ w.reply = true
  · cases back with
    | none =>
      rw [if_pos hk, hb] at hword
      rw [hword, State.bounced, if_pos hk]
      exact ⟨hslots, htaken, hstate⟩
    | some y =>
      rw [if_pos hk, hb] at hword
      replace hword : t = u.post n y (w.bounce (s.coreWord n)) := hword
      obtain ⟨hpost, hs, hc⟩ := htaken.posts (w := w.bounce (s.coreWord n)) hn (coreOfCode_lt hb) rfl
      rw [hword, State.bounced, if_pos hk]
      exact ⟨(hs n).trans hslots, hpost, State.cores_trans hstate hc⟩
  · rw [if_neg hk] at hword
    rw [hword, State.bounced, if_neg hk]
    exact ⟨hslots, htaken, hstate⟩

end

end
end Sys2Proof.Machine

/-! Words received by a RECVW, SPAWNs performed, and their replies (R256, R259, R261). -/

namespace Sys2Proof.Machine

section
variable {s t u b : State} {n l id slot : Nat} {src : Option (Nat × List Msg)} {inbox : List Msg}
  {stale sent received : Nat} {N : Tbl (List Msg)} {w : Msg} {m : Micro} {f : Flight} {x : Who} {linked : Link} {v : Word}

/-- The result of a RECVW or a SPAWN that one micro-thread waits for. -/
def GivesWord (n id slot : Nat) (f : Flight) (w : Who) (m : Micro) (linked : Link) (v : Word) (s t : State) : Prop :=
  (∃ u, t.microAt n slot = some u ∧
    u = { (m.setGroup f.dst ((List.range f.dstN).map fun i => if i = 0 then v else 0#32)) with
      pend := (m.clearPend f.dst f.dstN).pend, linked := linked
      await := if w.awaited = true then m.await &&& ~~~(1#8 <<< f.ll) else m.await
      life := u.life, since := u.since, rearmed := u.rearmed }) ∧
  Tbl.get? t.flights id = none ∧ (∀ y, y ≠ slot → t.microAt n y = s.microAt n y) ∧ OnlyDrops s t ∧ SettlesFlights id s t ∧
  t = { s with cores := t.cores, clusters := t.clusters, flights := t.flights }

theorem Micro.setGroup_linked (m : Micro) (k : Link) (r : Reg) (vs : List Word) :
    ({ m with linked := k } : Micro).setGroup r vs = { m.setGroup r vs with linked := k } := by
  induction vs generalizing m r with
  | nil => rfl
  | cons v vs ih => exact ih (m.setReg r v) (r + 1#6)

theorem GivesWord.of_delivered (hb : b = { s with cores := b.cores }) (hs : ∀ y, y ≠ slot → b.microAt n y = s.microAt n y)
    (h : Delivered n id slot f x { m with linked := linked } v b t) : GivesWord n id slot f x m linked v s t := by
  obtain ⟨hstate, ⟨-, hother, u, hu, he⟩, -, hgone, hdrops, hset⟩ := h
  have hfl : b.flights = s.flights := by rw [hb]
  refine ⟨⟨u, hu, ?_⟩, hgone, fun y hy => (hother y hy).trans (hs y hy), ?_, fun j g hj hg => hset j g hj (hfl ▸ hg), ?_⟩
  · rw [he, Micro.given, Micro.setGroup_linked]
    rfl
  · exact (OnlyDrops.of_clusters (by rw [hb])).trans hdrops
  · rw [hstate, hb]

section
variable (hn : n < 80) (hN : NetGives s n src N) (hs : Tbl.sorted s.flights = true)
include hn hN hs

omit hN in
/-- A word counted, and delivered to one micro-thread that waits for it, whatever it is linked to by then. -/
theorem MsgTaken.delivers {k : Link} (htaken : MsgTaken n inbox 0 l 0 1 src none s b) (hstate : b = { s with cores := b.cores })
    (hmicro : ∀ y, b.microAt n y = if y = x.slot then some { m with linked := k } else s.microAt n y)
    (ha : f.agent = .micro) (hc : f.core = n) (hw : f.who = [x]) (hg : m.gen = x.gen) (hl : m.life ≠ .retired)
    (ht : b.deliver id f (v.setWidth 128) noFlags = t) :
    GivesWord n id x.slot f x m k v s t ∧ MsgTaken n inbox 0 l 0 1 src none s t := by
  have hd : Delivered n id x.slot f x { m with linked := k } v b t :=
    ht ▸ State.deliver_delivers hn (by rw [hstate]; exact hs) ha hc hw (by rw [hmicro, if_pos rfl]) hg hl
  exact ⟨.of_delivered hstate (fun y hy => by rw [hmicro, if_neg hy]) hd, htaken.touch hd.core.1 hd.cores⟩

/-- A word is received by the RECVW that waits for it (R256, R261). -/
theorem takeWord_waiter (h : ((s.core n).micro w.tslot).Target w) (hl : ((s.core n).micro w.tslot).linked = .recvw)
    (hf : s.linkedFlight n w.tslot = some (id, f)) (hw : f.who = [x]) (hslot : x.slot = w.tslot) (hgen : x.gen = w.tgen)
    (ht : (s.offered n N inbox).takeWord n w = t) :
    GivesWord n id w.tslot f x ((s.core n).micro w.tslot) .none w.value s t ∧ MsgTaken n inbox 0 w.launch 0 1 src none s t := by
  obtain ⟨hg, ho, hlife⟩ := h
  have hlinked : (s.counted n w.launch N inbox).linkedFlight n w.tslot = some (id, f) := by
    rw [State.counted_state]
    exact hf
  have he : t = ((s.counted n w.launch N inbox).modMicro n w.tslot fun y => { y with linked := .none }).deliver id f
      (w.value.setWidth 128) noFlags := by
    rw [← ht, State.takeWord, State.offered_mail hn, State.mail_there ⟨hg, ho, hlife⟩, if_pos hl]
    dsimp only
    rw [← State.counted, hlinked]
  have hfound := List.find?_some hf
  simp only [Bool.and_eq_true, beq_iff_eq] at hfound
  obtain ⟨⟨⟨hcore, hagent⟩, -⟩, -⟩ := hfound
  have hm : s.microAt n x.slot = some ((s.core n).micro w.tslot) := by
    rw [hslot, State.microAt, Core.micro] at *
    cases hget : Tbl.get? (s.core n).slots w.tslot with
    | some y => rfl
    | none =>
      rw [hget] at ho
      cases ho
  rw [← hslot] at he hg hlife ⊢
  obtain ⟨htaken, hstate⟩ := MsgTaken.counted (l := w.launch) (inbox := inbox) (stale := 0) hn hN
    (f := fun c => c.modMicro x.slot fun y => { y with linked := .none }) fun c => by simp [Core.modMicro_eq]
  exact htaken.delivers hn hs hstate (fun y => State.microAt_counted_modMicro hn _ y) hagent hcore hw (hg.trans hgen.symm) hlife
    he.symm

end

/-! A SPAWN performed. -/

theorem Micro.reg_setGroup_above {m : Micro} {r d : Reg} {vs : List Word} (h : r.toNat + vs.length ≤ d.toNat) :
    (m.setGroup r vs).reg d = m.reg d := by
  induction vs generalizing m r with
  | nil => rfl
  | cons v vs ih =>
    have hd := d.isLt
    simp only [List.length_cons] at h
    have hr : (r + 1#6).toNat = r.toNat + 1 := by rw [BitVec.toNat_add]; exact Nat.mod_eq_of_lt (by simp; omega)
    rw [Micro.setGroup, ih (by omega)]
    simp [Micro.reg, Micro.setReg, show r.toNat ≠ d.toNat by omega]

theorem Micro.setGroup_good {m : Micro} (r : Reg) (vs : List Word) (h : m.bad = 0#64) : (m.setGroup r vs).bad = 0#64 := by
  induction vs generalizing m r with
  | nil => exact h
  | cons v vs ih => exact ih (r + 1#6) (by simp [Micro.setReg, h])

/-- The state of a micro-thread that a SPAWN creates (R23, R259). -/
theorem Micro.create_facts {m u : Micro} {l bud role : Nat} {pc csp : Word} {args : List Word} {late : BitVec 8}
    (h : m.create l bud role .free pc csp args late = u) :
    u = { Micro.blank with
      regs := u.regs, gen := m.gen, owner := some l, life := .created, mode := .free, bud := bud, role := role, pc := pc
      csp := csp, late := late } ∧
    (∀ i : Fin 4, args.length = 4 → u.regs[i] = args.getD i 0#32) ∧
    ∀ i : Fin 64, args.length ≤ i → args.length ≤ 64 → u.regs[i] = 0#32 := by
  have hregs : u.regs = (Micro.blank.setGroup 0#6 args).regs := h ▸ rfl
  refine ⟨?_, fun i hi => ?_, fun i hi _ => ?_⟩
  · rw [← h, Micro.create, Micro.setGroup_only]
    have := Micro.setGroup_good (m := Micro.blank) 0#6 args rfl
    rw [this]
    rfl
  · obtain ⟨a, b, c, d, rfl⟩ := List.length_eq_four.1 hi
    rw [hregs]
    fin_cases i <;> rfl
  · have hd := Micro.reg_setGroup_above (m := Micro.blank) (r := 0#6) (d := BitVec.ofFin i) (vs := args) (by simpa using hi)
    rw [hregs]
    exact hd.trans (Vector.getElem_replicate _)

section
variable (hn : n < 80)
include hn

theorem State.counted_res? : (s.counted n l N inbox).res? n l = (s.res? n l).map fun r => { r with received := r.received + 1 } := by
  rw [State.res?, State.counted_core hn]
  exact Tbl.get?_modify_self _ _ _

theorem State.counted_owned (k : Nat) : ((s.counted n l N inbox).core n).owned k = (s.core n).owned k := by
  rw [State.counted_core hn, Core.owned, Core.owned]

/-- The late bits of a new micro-thread are those of its slot and launch, whatever was counted for the launch (R268). -/
theorem State.lateBits_counted (y : Nat) : (s.counted n l N inbox).lateBits n l y = s.lateBits n l y := by
  have hgrant : ((s.counted n l N inbox).core n).grantOf l = (s.core n).grantOf l := by
    rw [State.grantOf_eq, State.grantOf_eq, State.counted_res? hn]
    cases s.res? n l <;> rfl
  have hplace : ((s.counted n l N inbox).core n).place l y = (s.core n).place l y := by
    rw [Core.place, Core.place, hgrant, State.counted_owned hn]
  unfold State.lateBits
  rw [State.counted_res? hn, hplace]
  cases s.res? n l <;> rfl

theorem State.offered_spawnSlot : (s.offered n N inbox).spawnSlot n w = s.spawnSlot n w := by
  have howned : ((s.offered n N inbox).core n).owned w.launch = (s.core n).owned w.launch := by
    rw [State.offered_core hn, Core.owned, Core.owned]
  unfold State.spawnSlot
  simp only [howned, State.offered_micro hn]

end

/-- The reply to a SPAWN (R259, R262). -/
def Msg.spawnReply (src : Nat) (w : Msg) (v : Word) : Msg :=
  { kind := 2, reply := false, src := src, tslot := w.ret.toNat % 1024, tgen := w.ret.extractLsb' 16 16
    value := v, ret := w.ret &&& 0xFC00#32, args := [], launch := w.launch }

theorem State.replySpawn_eq {y : Nat} (hy : coreOfCode (w.src % 512) = some y) (v : Word) :
    u.replySpawn n w v = u.post n y (w.spawnReply (u.coreWord n) v) := by
  rw [State.replySpawn, hy]
  rfl

/-- A micro-thread created in a slot of a launch whose message is counted (R23, R259). -/
theorem State.createMicro_counted (hn : n < 80) {r : Res} (hr : s.res? n l = some r) {bud role : Nat} {mode : Mode} {pc : Word}
    {args : List Word} : (s.counted n l N inbox).createMicro n l slot bud role mode pc args =
      (s.counted n l N inbox).modMicro n slot fun m =>
        m.create l bud role mode pc (BitVec.ofNat 32 (r.stackBase slot)) args (s.lateBits n l slot) := by
  rw [State.createMicro, State.counted_res? hn, hr, State.lateBits_counted hn]
  rfl

section
variable (hn : n < 80) (hN : NetGives s n src N) {r : Res} (hr : s.res? n w.launch = some r) {y : Nat}
  (hy : coreOfCode (w.src % 512) = some y)
include hn hN hr hy

omit hr in
/-- A message counted, its core's micro-threads changed, and the SPAWN's reply posted (R259, R264). -/
theorem replySpawn_posts {f : Core → Core} {v : Word}
    (hf : ∀ c, f c = { c with stale := c.stale + BitVec.ofNat 32 0, slots := (f c).slots, eligible := (f c).eligible })
    (hb : (s.counted n w.launch N inbox).modCore n f = b) (ht : b.replySpawn n w v = t) :
    MsgTaken n inbox 0 w.launch 1 1 src (some (y, w.spawnReply (s.coreWord n) v)) s t ∧ (t.core n).slots = (b.core n).slots ∧
      t = { s with cores := t.cores } := by
  obtain ⟨htaken, hstate⟩ : MsgTaken n inbox 0 w.launch 0 1 src none s b ∧ b = { s with cores := b.cores } :=
    hb ▸ MsgTaken.counted hn hN hf
  have hcode : s.coreWord n = b.coreWord n := by rw [hstate]; rfl
  obtain ⟨hpost, hslots, hcores⟩ := htaken.posts (w := w.spawnReply (s.coreWord n) v) hn (coreOfCode_lt hy) rfl
  rw [State.replySpawn_eq hy, ← hcode] at ht
  exact ht ▸ ⟨hpost, hslots n, State.cores_trans hstate hcores⟩

omit hr in
/-- A SPAWN without a slot is answered by 0 (R259). -/
theorem takeSpawn_full (hf : s.spawnSlot n w = none) (ht : (s.offered n N inbox).takeSpawn n w = t) :
    (t.core n).slots = (s.core n).slots ∧
      MsgTaken n inbox 0 w.launch 1 1 src (some (y, w.spawnReply (s.coreWord n) 0#32)) s t ∧ t = { s with cores := t.cores } := by
  have he : (s.counted n w.launch N inbox).replySpawn n w 0#32 = t := by
    rw [← ht, State.takeSpawn, State.offered_spawnSlot hn, hf, ite_self]
    rfl
  obtain ⟨hpost, hslots, hstate⟩ := replySpawn_posts hn hN hy (f := fun c => c) (fun c => by simp) (State.modCore_id _ _ rfl) he
  exact ⟨hslots.trans (by rw [State.counted_core hn]), hpost, hstate⟩

/-- A SPAWN creates a micro-thread in the slot found for it (R23, R259). -/
theorem takeSpawn_creates {x : Micro} (hf : s.spawnSlot n w = some (slot, x)) (ht : (s.offered n N inbox).takeSpawn n w = t) :
    (∃ u, t.microAt n slot = some u ∧
      u = { Micro.blank with
        regs := u.regs, gen := x.gen, owner := some w.launch, life := .created, mode := .free, bud := x.bud
        role := x.role, pc := w.value, csp := BitVec.ofNat 32 (r.stackBase slot), late := s.lateBits n w.launch slot } ∧
      (∀ i : Fin 4, w.args.length = 4 → u.regs[i] = w.args.getD i 0#32) ∧
      ∀ i : Fin 64, w.args.length ≤ i → w.args.length ≤ 64 → u.regs[i] = 0#32) ∧
    (∀ z, z ≠ slot → t.microAt n z = s.microAt n z) ∧
    MsgTaken n inbox 0 w.launch 1 1 src
      (some (y, w.spawnReply (s.coreWord n) (BitVec.ofNat 32 (2 ^ 31 + slot + 1024 * x.gen.toNat)))) s t ∧
    t = { s with cores := t.cores } := by
  have hx : (s.core n).micro slot = x := by
    unfold State.spawnSlot at hf
    rw [hy] at hf
    obtain ⟨z, -, hz⟩ := List.mem_map.1 (List.mem_of_find?_eq_some hf)
    cases hz
    rfl
  have he : ((s.counted n w.launch N inbox).createMicro n w.launch slot x.bud x.role .free w.value w.args).replySpawn n w
      (BitVec.ofNat 32 (2 ^ 31 + slot + 1024 * x.gen.toNat)) = t := by
    rw [← ht, State.takeSpawn, State.offered_res? hn, hr, State.offered_spawnSlot hn, hf]
    rfl
  rw [State.createMicro_counted hn hr] at he
  obtain ⟨hpost, hslots, hstate⟩ := replySpawn_posts hn hN hy (fun c => by simp [Core.modMicro_eq]) rfl he
  have hat (z : Nat) := (congrArg (Tbl.get? · z) hslots).trans (State.microAt_counted_modMicro hn _ z)
  refine ⟨⟨_, (hat slot).trans (if_pos rfl), hx ▸ Micro.create_facts rfl⟩, fun z hz => (hat z).trans (if_neg hz), hpost, hstate⟩

end

end
end Sys2Proof.Machine

/-! The arrivals of messages (R258-R264). -/

namespace Sys2Proof.Machine

section
variable {s : State} {n k x : Nat} {src : Option (Nat × List Msg)} {inbox : List Msg} {N : Tbl (List Msg)} {w msg : Msg}
  {rest : List Msg} {r : Res}

/-- A message as its target takes it: its outbox entry is free again (R263). -/
def Msg.unboxed (w : Msg) : Msg := { w with box := .none }

section
variable (h : Tbl.get? (s.core n).net x = some (msg :: rest)) (hr : s.res? n msg.launch = some r) (hp : r.phase = .resident)
include h hr hp

/-- A full inbox holds every message (R263). -/
theorem arriveMsg_held (hi : 256 ≤ (s.core n).inbox.length) : s.arriveMsg n x k = s := by
  have ha : s.away n msg.launch = false := by simp [State.away, hr, Res.away, hp]
  simp only [State.arriveMsg, h, Option.getD_some, ha, Bool.false_eq_true, if_false, if_pos hi, ite_self]

/-- The oldest message from a source is performed (R258). -/
theorem arriveMsg_performs (hk : msg.kind = k) (hb : msg.box ≠ .overflow) (hi : (s.core n).inbox.length < 256) :
    s.arriveMsg n x k = (s.offered n (s.popped n x) (s.core n).inbox).takeMsg n msg.unboxed := by
  have ha : s.away n msg.launch = false := by simp [State.away, hr, Res.away, hp]
  have hbox : (msg.box == .overflow) = false := by simpa using hb
  subst hk
  simp only [State.arriveMsg, h, Option.getD_some, ha, hbox, Bool.false_eq_true, if_false, if_neg (Nat.not_le_of_lt hi),
    ne_eq, not_true_eq_false, decide_false, Bool.or_self, State.popNet_offered]
  rfl

end

/-- A word or a bounce behind an inbox entry for the same target stays there (R261). -/
theorem takeMsg_word {u : State} (hk : w.kind = 3 ∨ w.kind = 4) : u.takeMsg n w = u.arriveWord n w := by
  rw [State.takeMsg, if_neg (by omega), if_neg (by omega)]

theorem takeMsg_spawn {u : State} (hk : w.kind = 1) : u.takeMsg n w = u.takeSpawn n w := if_pos hk

/-- An event delivers a word. -/
def TakesWord (n : Nat) (s : State) (i : Instr) (w : Msg) (src : Option (Nat × List Msg)) (inbox : List Msg) : Prop :=
  let m := (s.core n).micro w.tslot
  (m.Target w → m.linked ≠ .recvw → m.mailbox = none → Answers i s fun t =>
    t.microAt n w.tslot = some { m with mailbox := some w.value } ∧ (∀ y, y ≠ w.tslot → t.microAt n y = s.microAt n y) ∧
    Counts n w.launch 0 1 s t ∧ CoreTakes n inbox 0 s t ∧ NetsMove n src none s t ∧ t = { s with cores := t.cores }) ∧
  (∀ id f y, m.Target w → m.linked = .recvw → s.linkedFlight n w.tslot = some (id, f) → f.who = [y] → y.slot = w.tslot →
    y.gen = w.tgen → Answers i s fun t =>
      GivesWord n id w.tslot f y m .none w.value s t ∧ Counts n w.launch 0 1 s t ∧ CoreTakes n inbox 0 s t ∧ NetsMove n src none s t) ∧
  (¬ m.Target w → ∀ back, coreOfCode (w.src % 512) = back → Answers i s fun t =>
    (t.core n).slots = (s.core n).slots ∧ Counts n w.launch (if (s.bounced n w back).isSome then 1 else 0) 1 s t ∧
    CoreTakes n inbox 1 s t ∧ NetsMove n src (s.bounced n w back) s t ∧ t = { s with cores := t.cores })

theorem takesWord (hn : n < 80) (hN : NetGives s n src N) (hs : Tbl.sorted s.flights = true) {i : Instr}
    (he : exec i s = .next ((s.offered n N inbox).takeWord n w)) : TakesWord n s i w src inbox := by
  refine ⟨fun h hl hb => ?_, fun id f y h hl hf hw hslot hgen => ?_, fun h back hb => ?_⟩
  · obtain ⟨hm, ho, ht, hstate⟩ := takeWord_empty hn hN h hl hb rfl
    exact ⟨_, he, hm, ho, ht.counts, ht.core, ht.nets, hstate⟩
  · obtain ⟨hg, ht⟩ := takeWord_waiter hn hN hs h hl hf hw hslot hgen rfl
    exact ⟨_, he, hg, ht.counts, ht.core, ht.nets⟩
  · obtain ⟨hslots, ht, hstate⟩ := takeWord_stale hn hN h hb rfl
    exact ⟨_, he, hslots, ht.counts, ht.core, ht.nets, hstate⟩

/-- An inbox entry for the word's target (R261). -/
def State.SameTarget (s : State) (n : Nat) (w : Msg) : Prop :=
  ∃ x ∈ (s.core n).inbox, x.launch = w.launch ∧ x.tslot = w.tslot ∧ x.tgen = w.tgen

theorem sameTarget_any : ((s.core n).inbox.any fun x => x.launch == w.launch && x.tslot == w.tslot && x.tgen == w.tgen) = true ↔
    s.SameTarget n w := by
  simp [State.SameTarget, and_assoc]

section
variable (hn : n < 80)
include hn

theorem arriveWord_takes (h : ¬ s.SameTarget n w) : (s.offered n N (s.core n).inbox).arriveWord n w =
    (s.offered n N (s.core n).inbox).takeWord n w := by
  refine if_neg ?_
  rw [State.offered_core hn]
  exact mt sameTarget_any.1 h

theorem arriveWord_keeps (h : s.SameTarget n w ∨ (((s.core n).micro w.tslot).Target w ∧ ((s.core n).micro w.tslot).linked ≠ .recvw ∧
    ((s.core n).micro w.tslot).mailbox ≠ none)) : (s.offered n N (s.core n).inbox).arriveWord n w =
      (s.offered n N (s.core n).inbox).modCore n fun c => { c with inbox := c.inbox ++ [w] } := by
  by_cases hsame : s.SameTarget n w
  · refine if_pos ?_
    rw [State.offered_core hn]
    exact sameTarget_any.2 hsame
  · obtain ⟨ht, hl, hm⟩ := h.resolve_left hsame
    rw [arriveWord_takes hn hsame, State.takeWord, State.offered_mail hn, State.mail_there ht, if_neg hl, if_neg (by simpa using hm)]

end

/-- A reply of which nothing is left is discarded (R264). -/
theorem dropReply_drops (h : Tbl.get? (s.core n).net x = some (msg :: rest)) (hk : msg.kind = 2)
    (hf : ∀ p ∈ s.flights, p.2.core = n → p.2.repliedBy msg = false) :
    s.dropReply n x = (s.counted n msg.launch (s.popped n x) (s.core n).inbox).countStale n := by
  have hany : (s.flights.any fun p => p.2.core == n && p.2.repliedBy msg) = false := by
    simp only [List.any_eq_false, Bool.and_eq_true, beq_iff_eq, not_and, Bool.not_eq_true]
    exact hf
  simp only [State.dropReply, h, Option.getD_some, hk, hany, Bool.not_false, and_self, if_true, State.popNet_offered]
  rfl

/-- A reply is delivered to the SPAWN that waits for it (R258, R259, R352). -/
theorem spawnResult_delivers {id : Nat} {f : Flight} {y : Who} {pc : Word} {args : List Word}
    (h : Tbl.get? (s.core n).net x = some (msg :: rest)) (hr : s.res? n msg.launch = some r) (hp : r.phase = .resident)
    (hi : (s.core n).inbox.length < 256) (hc : f.core = n) (hl : f.launch = msg.launch) (ho : f.op = .spawn pc x args)
    (hst : f.stage = .engine) (hk : msg.kind = 2) (hd : f.dst.toNat = msg.ret.toNat / 1024 % 64) (hw : f.who = [y])
    (hslot : y.slot = msg.tslot) (hgen : y.gen = msg.tgen) :
    s.spawnResult id f = (s.counted n msg.launch (s.popped n x) (s.core n).inbox).deliver id f (msg.value.setWidth 128) noFlags := by
  have ha : s.away n msg.launch = false := by simp [State.away, hr, Res.away, hp]
  have hrep : f.repliedBy msg = true := by simp [Flight.repliedBy, hl, hst, hd, ho, hw, hslot, hgen]
  simp only [State.spawnResult, ho, hc, h, Option.getD_some, hk, hrep, hl, ha, if_neg (Nat.not_le_of_lt hi), State.popNet_offered]
  rfl

end
end Sys2Proof.Machine

/-! O37: the arrivals of messages. -/

namespace Sys2Proof.Proofs
open Sys2Proof Sys2Proof.Machine

section
variable {s : State} {n src : Nat} {msg : Msg} {rest : List Msg} {r : Res}

/-- An event performs a word or a bounce that arrives, and no inbox entry goes before it. -/
def WordEvent (n src : Nat) (s : State) (msg : Msg) (i : Instr) : Prop :=
  (i = .wordArrival n src ∧ msg.kind = 3 ∧ s.inboxReady n = none) ∨ (i = .bounceArrival n src ∧ msg.kind = 4)

theorem WordEvent.exec {i : Instr} (h : WordEvent n src s msg i) : exec i s = .next (s.arriveMsg n src msg.kind) ∧
    (msg.kind = 3 ∨ msg.kind = 4) := by
  rcases h with ⟨rfl, hk, hi⟩ | ⟨rfl, hk⟩
  · refine ⟨?_, .inl hk⟩
    rw [exec_wordArrival, execWordArrival, hi, hk]
  · refine ⟨?_, .inr hk⟩
    rw [exec_bounceArrival, execBounceArrival, hk]

theorem exec_spawn_kind1 (h : Tbl.get? (s.core n).net src = some (msg :: rest)) (hk : msg.kind = 1) :
    exec (.spawnArrival n src) s = .next (s.arriveMsg n src 1) := by
  simp [exec_spawnArrival, execSpawnArrival, h, hk]

theorem exec_spawn_kind2 (h : Tbl.get? (s.core n).net src = some (msg :: rest)) (hk : msg.kind = 2) :
    exec (.spawnArrival n src) s = .next (s.dropReply n src) := by
  simp [exec_spawnArrival, execSpawnArrival, h, hk]

end

/-- Settles O37: a message leaves its network or the inbox, and is performed in the state without it. -/
theorem messageArrivalResults : Obligations.MessageArrivalResults := by
  unfold Obligations.MessageArrivalResults
  intro s n hsound hn
  obtain ⟨-, -, -, hs, -⟩ := hsound
  refine ⟨fun src msg rest r h hrest hbox hr hp => ⟨fun i hi hfull => ?_, fun hroom => ⟨fun y hk hy => ⟨fun slot x hf => ?_, fun hf => ?_⟩,
    fun i hi => ⟨fun hsame => ?_, fun hkeep => ?_⟩, fun id f x m pc args resp hfl hc hl ha ho hst hk hd hw hslot hgen hm hg hlife => ?_⟩,
    fun hk hf => ?_⟩, fun src x xs hx => ?_⟩
  · rcases hi with ⟨rfl, hk⟩ | hi
    · rw [exec_spawn_kind1 h hk, arriveMsg_held h hr hp hfull]
    · rw [(WordEvent.exec hi).1, arriveMsg_held h hr hp hfull]
  · obtain ⟨hu, hm, ht, hstate⟩ := takeSpawn_creates (w := msg.unboxed) (inbox := (s.core n).inbox) hn (NetGives.pop h hrest) hr hy hf rfl
    refine ⟨_, (exec_spawn_kind1 h hk).trans ?_, hu, hm, ht.counts, ht.core, ht.nets, hstate⟩
    rw [arriveMsg_performs h hr hp hk hbox hroom, takeMsg_spawn (w := msg.unboxed) hk]
  · obtain ⟨hslots, ht, hstate⟩ := takeSpawn_full (w := msg.unboxed) (inbox := (s.core n).inbox) hn (NetGives.pop h hrest) hy hf rfl
    refine ⟨_, (exec_spawn_kind1 h hk).trans ?_, hslots, ht.counts, ht.core, ht.nets, hstate⟩
    rw [arriveMsg_performs h hr hp hk hbox hroom, takeMsg_spawn (w := msg.unboxed) hk]
  · obtain ⟨he, hk⟩ := WordEvent.exec hi
    refine takesWord (w := msg.unboxed) hn (NetGives.pop h hrest) hs (he.trans ?_)
    rw [arriveMsg_performs h hr hp rfl hbox hroom, takeMsg_word (w := msg.unboxed) hk]
    exact congrArg Host.Outcome.next (arriveWord_takes (w := msg.unboxed) hn hsame)
  · obtain ⟨he, hk⟩ := WordEvent.exec hi
    obtain ⟨hcore, hres, hslots, hnets, hstate⟩ := keepWord_kept (w := msg.unboxed) (inbox := (s.core n).inbox) hn (NetGives.pop h hrest) rfl
    refine ⟨_, he.trans ?_, hcore, hres, hslots, hnets, hstate⟩
    rw [arriveMsg_performs h hr hp rfl hbox hroom, takeMsg_word (w := msg.unboxed) hk]
    refine congrArg Host.Outcome.next (arriveWord_keeps (w := msg.unboxed) hn (hkeep.imp_right ?_))
    rintro ⟨hg, ho, hl, hlk, hmb⟩
    exact ⟨⟨hg, ho, hl⟩, hlk, hmb⟩
  · have he : exec (.longLatencyResult id resp) s = .next ((s.counted n msg.launch (s.popped n src) (s.core n).inbox).deliver id f
        (msg.value.setWidth 128) noFlags) := by
      rw [exec_longLatencyResult, execLongLatencyResult, onFlight, hfl]
      dsimp only
      rw [hst]
      exact congrArg Host.Outcome.next (spawnResult_delivers h hr hp hroom hc hl ho hst hk hd hw hslot hgen)
    have hmicro (y : Nat) : (s.counted n msg.launch (s.popped n src) (s.core n).inbox).microAt n y =
        if y = x.slot then some { m with linked := m.linked } else s.microAt n y := by
      rw [State.counted_microAt hn]
      split
      · subst_vars; exact hm
      · rfl
    obtain ⟨hgives, ht⟩ := (MsgTaken.of_counted hn (NetGives.pop h hrest)).delivers (k := m.linked) hn hs
      (State.counted_state _ _ _ _ _) hmicro ha hc hw hg hlife rfl
    exact ⟨_, he, hgives, ht.counts, ht.core, ht.nets⟩
  · obtain ⟨ht, hstate⟩ := MsgTaken.counted (l := msg.launch) (inbox := (s.core n).inbox) (stale := 1) hn (NetGives.pop h hrest)
      (f := fun c => { c with stale := c.stale + 1#32 }) fun _ => rfl
    refine ⟨_, (exec_spawn_kind2 h hk).trans (congrArg Host.Outcome.next (dropReply_drops h hk hf)), ?_, ht.counts, ht.core, ht.nets, hstate⟩
    rw [State.countStale, State.core_modCore_self _ _ _ hn, State.counted_core hn]
  · refine takesWord hn (NetGives.none s n) hs ?_
    rw [exec_wordArrival, execWordArrival, hx]
    dsimp only
    rw [State.takenInbox_offered]

end Sys2Proof.Proofs

/-! What a spill ring catches (R293). -/

namespace Sys2Proof.Machine

section
variable {s t u : State} {n l : Nat} {r : Res} {e : Spill}

theorem exec_preemptionRequest : exec (.preemptionRequest n l) s = execPreemptionRequest n l s := rfl
theorem exec_eventSignal : exec (.eventSignal n) s = execEventSignal n s := rfl
theorem exec_contextSave : exec (.contextSave n l) s = execContextSave n l s := rfl
theorem exec_contextResume : exec (.contextResume n l) s = execContextResume n l s := rfl
theorem exec_corePark : exec (.corePark n) s = execCorePark n s := rfl
theorem exec_coreReset : exec (.coreReset n) s = execCoreReset n s := rfl

theorem OnlyWrites.refl (s : State) : OnlyWrites s s := ⟨rfl, fun _ h => h, rfl, fun _ h => h, fun _ h => h⟩

theorem OnlyWrites.trans (h : OnlyWrites s t) (h' : OnlyWrites t u) : OnlyWrites s u := by
  obtain ⟨h1, h2, h3, h4, h5⟩ := h
  obtain ⟨g1, g2, g3, g4, g5⟩ := h'
  refine ⟨?_, fun x hx => h2 x (g2 x hx), ?_, fun w hw => h4 w (g4 w hw), fun w hw => h5 w (g5 w hw)⟩
  · rw [g1, h1]
  · rw [g3, h3]

/-- Beside the cores, writes of memory alone. -/
def WritesBeside (s t : State) : Prop := OnlyWrites s { t with cores := s.cores }

theorem WritesBeside.of_cores (h : t = { s with cores := t.cores }) : WritesBeside s t := by
  rw [WritesBeside, h]
  exact .refl s

theorem WritesBeside.trans (h : WritesBeside s t) (h' : WritesBeside t u) : WritesBeside s u := by
  unfold WritesBeside at *
  refine h.trans ?_
  obtain ⟨g1, g2, g3, g4, g5⟩ := h'
  refine ⟨?_, g2, g3, g4, g5⟩
  have := congrArg (fun v : State => { v with cores := s.cores }) g1
  exact this

theorem State.write_res? (s : State) (a : Nat) (b : List Byte) (x k : Nat) : (s.write a b).res? x k = s.res? x k := rfl

/-- The spill ring of a launch has caught arrivals. -/
structure Spills (n l : Nat) (s t : State) : Prop where
  writes : WritesBeside s t
  cores : ∀ k, k ≠ n → t.core k = s.core k
  core : t.core n = { s.core n with res := (t.core n).res }
  others : ∀ k, k ≠ l → t.res? n k = s.res? n k

theorem Spills.refl (n l : Nat) (s : State) : Spills n l s s := ⟨.of_cores rfl, fun _ _ => rfl, rfl, fun _ _ => rfl⟩

theorem Spills.trans (h : Spills n l s t) (h' : Spills n l t u) : Spills n l s u :=
  ⟨h.writes.trans h'.writes, fun k hk => (h'.cores k hk).trans (h.cores k hk), by rw [h'.core, h.core],
    fun k hk => (h'.others k hk).trans (h.others k hk)⟩

theorem Spills.of_launch (h : OnlyLaunch n l s t) : Spills n l s t :=
  ⟨.of_cores h.1, h.2.1, h.2.2.1, h.2.2.2⟩

theorem Spills.write (n l : Nat) (s : State) (a : Nat) (b : List Byte) : Spills n l s (s.write a b) :=
  ⟨OnlyWrites.write s a b, fun _ _ => rfl, rfl, fun _ _ => rfl⟩

/-- What a spill ring is asked for when it catches an arrival: its memory, if it has any, and the entry in the launch's list. -/
theorem State.catchSpill_cases (hr : s.res? n l = some r) (e : Spill) : ∃ w k, Spills n l s w ∧ (∀ x y, w.res? x y = s.res? x y) ∧
    s.catchSpill n l e = w.modRes n l fun r => { r with spill := r.spill ++ [e], ringNext := r.ringNext + k } := by
  unfold State.catchSpill
  dsimp only
  rw [hr]
  split
  · split
    · exact ⟨_, _, .write _ _ _ _ _, fun _ _ => rfl, rfl⟩
    · exact ⟨s, _, .refl n l s, fun _ _ => rfl, rfl⟩
  · exact ⟨s, _, .refl n l s, fun _ _ => rfl, rfl⟩

theorem State.catchSpill_spills (hn : n < 80) (hr : s.res? n l = some r) (e : Spill) : Spills n l s (s.catchSpill n l e) ∧
    ∃ k, (s.catchSpill n l e).res? n l = some { r with spill := r.spill ++ [e], ringNext := k } := by
  obtain ⟨w, k, hw, hres, he⟩ := State.catchSpill_cases hr e
  rw [he]
  exact ⟨hw.trans (.of_launch (OnlyLaunch.modRes hn)), _, State.res?_modRes_self hn ((hres n l).trans hr)⟩

/-- Arrivals caught one after the other. -/
theorem State.foldl_catchSpill (hn : n < 80) (hr : s.res? n l = some r) (es : List Spill) :
    Spills n l s (es.foldl (fun t e => t.catchSpill n l e) s) ∧
      ∃ k, (es.foldl (fun t e => t.catchSpill n l e) s).res? n l = some { r with spill := r.spill ++ es, ringNext := k } := by
  induction es generalizing s r with
  | nil => exact ⟨.refl n l s, r.ringNext, by simpa using hr⟩
  | cons e es ih =>
    obtain ⟨h, k, hk⟩ := State.catchSpill_spills hn hr e
    obtain ⟨h', j, hj⟩ := ih hk
    refine ⟨h.trans h', j, ?_⟩
    rw [List.foldl_cons, hj]
    simp

/-- An arrival of one entry caught in a ring whose memory is named. -/
theorem State.catchSpill_area {x : Launch} {area ring : Nat} {b : List Byte} (hr : s.res? n l = some r) (hx : s.launch? l = some x)
    (ha : Tbl.get? x.areas n = some (area, ring)) (he : ∀ f, e.entries s.cardNo n f = [b]) :
    s.catchSpill n l e = (s.write (ring + 64 * r.ringNext) b).modRes n l fun r =>
      { r with spill := r.spill ++ [e], ringNext := r.ringNext + 1 } := by
  rw [State.launch?] at hx
  simp only [State.catchSpill, he, hr, hx, ha, List.flatMap_cons, List.flatMap_nil, List.append_nil, List.length_singleton]
  rfl

/-! Signals and SPAWNs for a halted launch (R293). -/

section
variable (hn : n < 80) (hr : s.res? n l = some r) {x : Launch} (hx : s.launch? l = some x) (hp : r.phase ≠ .resident)
  (hring : r.ringNext < 4096) {area ring : Nat} (ha : Tbl.get? x.areas n = some (area, ring))
include hr hp

theorem State.away_launch : s.away n l = true := by
  simp only [State.away, hr, Res.away]
  cases h : r.phase with
  | resident => exact absurd h hp
  | halting => rfl
  | saved => rfl

omit hp in
include hring in
theorem State.ringFull_room : s.ringFull n l = false := by
  simp only [State.ringFull, hr]
  exact decide_eq_false (Nat.not_le_of_lt hring)

include hn hx hring ha

omit hp hring in
/-- An arrival that has left its place is caught. -/
theorem caught_from (hu : u = { s with cores := u.cores }) (hres : ∀ k, u.res? n k = s.res? n k) (ho : ∀ k, k ≠ n → u.core k = s.core k)
    {b : List Byte} (he : ∀ f, e.entries s.cardNo n f = [b]) (ht : u.catchSpill n l e = t) :
    t.res? n l = some { r with spill := r.spill ++ [e], ringNext := r.ringNext + 1 } ∧
      (∀ k, k ≠ l → t.res? n k = s.res? n k) ∧ (∀ k, k ≠ n → t.core k = s.core k) ∧
      t.core n = { u.core n with res := (t.core n).res } ∧ t.mem = Memory.writeN s.mem (ring + 64 * r.ringNext) b ∧ WritesBeside s t := by
  have hru := (hres l).trans hr
  have hmem : u.mem = s.mem := by rw [hu]
  have hxu : u.launch? l = some x := by rw [hu]; exact hx
  have hcard : u.cardNo = s.cardNo := by rw [hu]; rfl
  have hcatch := State.catchSpill_area hru hxu ha (e := e) (b := b) fun f => by rw [hcard]; exact he f
  obtain ⟨hspill, -⟩ := State.catchSpill_spills hn hru e
  rw [ht] at hcatch hspill
  refine ⟨?_, fun k hk => (hspill.others k hk).trans (hres k), fun k hk => (hspill.cores k hk).trans (ho k hk), hspill.core, ?_,
    (WritesBeside.of_cores hu).trans hspill.writes⟩
  · rw [hcatch, State.res?_modRes_self hn ((State.write_res? _ _ _ _ _).trans hru)]
  · rw [hcatch, State.modRes, State.modCore_mem, ← hmem]
    rfl

/-- A signal for a halted launch (R265, R293). -/
theorem eventSignal_caught {line : Nat} {rest : List (Nat × Nat)} (hsig : (s.core n).signals = (l, line) :: rest) :
    Answers (.eventSignal n) s fun t =>
      t.res? n l = some { r with spill := r.spill ++ [.signal line], ringNext := r.ringNext + 1 } ∧
      (∀ k, k ≠ l → t.res? n k = s.res? n k) ∧ (∀ k, k ≠ n → t.core k = s.core k) ∧
      t.core n = { s.core n with signals := rest, res := (t.core n).res } ∧
      t.mem = Memory.writeN s.mem (ring + 64 * r.ringNext) (ringEntry 8 0 (s.coreWord n) 0 line [] []) ∧
      WritesBeside s t := by
  obtain ⟨u, hu⟩ : ∃ u, s.modCore n (fun c => { c with signals := rest }) = u := ⟨_, rfl⟩
  have hcore : u.core n = { s.core n with signals := rest } := by rw [← hu, State.core_modCore_self s n _ hn]
  have hres (k : Nat) : u.res? n k = s.res? n k := by rw [State.res?, hcore, State.res?]
  have he : exec (.eventSignal n) s = .next (u.catchSpill n l (.signal line)) := by
    have hsame : (s.modCore n fun c => { c with signals := c.signals.erase (l, line) }) = u := by
      rw [← hu]
      exact State.modCore_congr s n (by rw [hsig, List.erase_cons_head])
    rw [exec_eventSignal, execEventSignal, hsig, List.find?_cons_of_pos (by simp [State.away_launch hr hp, State.ringFull_room hr hring])]
    dsimp only
    rw [hsame, State.away_launch ((hres l).trans hr) hp, if_pos rfl]
  obtain ⟨h1, h2, h3, h4, h5, h6⟩ := caught_from (e := .signal line) hn hr hx ha (by rw [← hu, State.modCore_eq]) hres
    (fun k hk => by rw [← hu, State.core_modCore_other _ _ _ _ hk]) (fun _ => rfl) rfl
  exact ⟨_, he, h1, h2, h3, by rw [h4, hcore], h5, h6⟩

/-- A SPAWN for a halted launch (R293). -/
theorem spawnArrival_caught {src : Nat} {msg : Msg} {rest : List Msg} (h : Tbl.get? (s.core n).net src = some (msg :: rest))
    (hl : msg.launch = l) (hk : msg.kind = 1) (hb : msg.box ≠ .overflow) : Answers (.spawnArrival n src) s fun t =>
      t.res? n l = some { r with spill := r.spill ++ [.msg { msg with box := .none }], ringNext := r.ringNext + 1 } ∧
      (∀ k, k ≠ l → t.res? n k = s.res? n k) ∧ (∀ k, k ≠ n → t.core k = s.core k) ∧
      t.core n = { s.core n with net := (t.core n).net, res := (t.core n).res } ∧
      (rest ≠ [] → Tbl.get? (t.core n).net src = some rest) ∧
      (∀ k, k ≠ src → Tbl.get? (t.core n).net k = Tbl.get? (s.core n).net k) ∧
      t.mem = Memory.writeN s.mem (ring + 64 * r.ringNext) (ringEntry 6 0 msg.src 0 0 [] msg.bytes) ∧ WritesBeside s t := by
  obtain ⟨u, hu⟩ : ∃ u, s.offered n (s.popped n src) (s.core n).inbox = u := ⟨_, rfl⟩
  have hcore : u.core n = { s.core n with net := s.popped n src } := by rw [← hu, State.offered_core hn]
  have hbox : (msg.box == .overflow) = false := by simpa using hb
  have he : exec (.spawnArrival n src) s = .next (u.catchSpill n l (.msg msg.unboxed)) := by
    subst hl
    rw [Proofs.exec_spawn_kind1 h hk, ← hu]
    simp only [State.arriveMsg, h, Option.getD_some, hk, hbox, State.away_launch hr hp, State.ringFull_room hr hring,
      State.popNet_offered, ne_eq, not_true_eq_false, decide_false, Bool.or_self, Bool.false_eq_true, if_false, if_true, Msg.unboxed]
  have hnet : s.netOf n src = msg :: rest := by rw [State.netOf, h]; rfl
  obtain ⟨h1, h2, h3, h4, h5, h6⟩ := caught_from (e := .msg msg.unboxed) hn hr hx ha (hu ▸ State.offered_state _ _ _ _)
    (fun k => hu ▸ State.offered_res? hn k) (fun k hk => hu ▸ State.offered_other hk) (fun _ => rfl) rfl
  have hnet' : ((u.catchSpill n l (.msg msg.unboxed)).core n).net = s.popped n src := by rw [h4, hcore]
  refine ⟨_, he, h1, h2, h3, ?_, fun hne => ?_, fun k hk => ?_, h5, h6⟩
  · rw [h4, hcore]
  · rw [hnet']
    simp [State.popped, hnet, hne]
  · rw [hnet', State.popped]
    split
    · exact Tbl.get?_erase_other _ _ _ hk
    · exact Tbl.get?_set_other _ _ _ _ hk

end

/-- The management harts reset a parked core (R281). -/
theorem coreReset_resets (hn : n < 80) (h : (s.core n).parked = true) : Answers (.coreReset n) s fun t =>
    OnlyCore n s t ∧ t.core n = { s.core n with parked := false, report := none } := by
  refine ⟨_, exec_coreReset.trans (if_pos h), ⟨State.modCore_eq _ _ _, fun x hx => State.core_modCore_other _ _ _ _ hx⟩, ?_⟩
  exact State.core_modCore_self _ _ _ hn

end
end Sys2Proof.Machine

/-! A launch halts on a core (R182, R285). -/

namespace Sys2Proof.Machine

section
variable {s t u : State} {n l slot : Nat} {r : Res} {c d e : Core} {g : Group} {ps : List (Nat × Group)}

/-! Groups that wait for code are dissolved. -/

/-- Figures have gone back to the call queues of some micro-threads of a core, and these to the issue. -/
structure Core.Returns (touched : Nat → Prop) (figs : Nat → Word → Prop) (c d : Core) : Prop where
  core : d = { c with groups := d.groups, slots := d.slots, eligible := d.eligible }
  others : ∀ slot, ¬ touched slot → Tbl.get? d.slots slot = Tbl.get? c.slots slot
  micros : ∀ slot m, Tbl.get? c.slots slot = some m → ∃ u fs, Tbl.get? d.slots slot = some u ∧
    u = { m with callq := fs ++ m.callq, life := u.life, since := u.since, rearmed := u.rearmed } ∧ ∀ f ∈ fs, figs slot f

section
variable {touched : Nat → Prop} {figs : Nat → Word → Prop}

theorem Core.Returns.of_slots (h : d = { c with groups := d.groups, slots := c.slots }) : c.Returns touched figs d :=
  ⟨by rw [h], fun _ _ => by rw [h], fun slot m hm => ⟨m, [], by rw [h]; exact hm, rfl, fun _ hf => nomatch hf⟩⟩

theorem Core.Returns.trans (h : c.Returns touched figs d) (h' : d.Returns touched figs e) : c.Returns touched figs e := by
  refine ⟨by rw [h'.core, h.core], fun x hx => (h'.others x hx).trans (h.others x hx), fun x m hm => ?_⟩
  obtain ⟨v, fs, hv, he, hf⟩ := h.micros x m hm
  obtain ⟨w, fs', hw, he', hf'⟩ := h'.micros x v hv
  refine ⟨w, fs' ++ fs, hw, ?_, fun f hfm => (List.mem_append.1 hfm).elim (hf' f) (hf f)⟩
  rw [he', he, List.append_assoc]

theorem Core.Returns.foldl {α : Type} {f : Core → α → Core} {xs : List α} (h : ∀ c : Core, ∀ x ∈ xs, c.Returns touched figs (f c x)) (c : Core) :
    c.Returns touched figs (xs.foldl f c) := by
  induction xs generalizing c with
  | nil => exact .of_slots rfl
  | cons x xs ih => exact (h c x (List.mem_cons_self ..)).trans (ih (fun c y hy => h c y (List.mem_cons_of_mem _ hy)) _)

/-- One micro-thread touched. -/
theorem Core.Returns.of_touches {f : Core → Core} (ht : touched slot) {k : Micro → Micro} (c : Core)
    (hcore : f c = { c with slots := (f c).slots, eligible := (f c).eligible })
    (ho : ∀ x, x ≠ slot → Tbl.get? (f c).slots x = Tbl.get? c.slots x)
    (hk : ∀ m, Tbl.get? c.slots slot = some m → c.Touches slot (k m) (f c))
    (hm : ∀ m, ∃ fs, k m = { m with callq := fs ++ m.callq } ∧ ∀ w ∈ fs, figs slot w) : c.Returns touched figs (f c) := by
  refine ⟨by rw [hcore], fun x hx => ho x fun e => hx (e ▸ ht), fun x m hx => ?_⟩
  by_cases hxs : x = slot
  · subst hxs
    obtain ⟨-, -, v, hv, he⟩ := hk m hx
    obtain ⟨fs, hfs, hw⟩ := hm m
    exact ⟨v, fs, hv, by rw [he, hfs], hw⟩
  · exact ⟨m, [], (ho x hxs).trans hx, rfl, fun _ hf => nomatch hf⟩

theorem Core.refresh_slots (c : Core) (slot : Nat) :
    c.refresh slot = { c with slots := (c.refresh slot).slots, eligible := (c.refresh slot).eligible } ∧
      ∀ x, x ≠ slot → Tbl.get? (c.refresh slot).slots x = Tbl.get? c.slots x := by
  rcases c.refresh_cases slot with h | ⟨f, -, h⟩
  · rw [h]
    exact ⟨rfl, fun _ _ => rfl⟩
  · rw [h]
    exact ⟨rfl, fun x hx => (Tbl.get?_set_other _ _ _ _ hx).trans (Tbl.get?_set_other _ _ _ _ hx)⟩

theorem Core.Returns.refresh (ht : touched slot) (c : Core) : c.Returns touched figs (c.refresh slot) :=
  .of_touches (f := fun c => c.refresh slot) (k := id) ht c (c.refresh_slots slot).1 (c.refresh_slots slot).2
    (fun _ hm => Core.touches_refresh hm) fun _ => ⟨[], rfl, fun _ hf => nomatch hf⟩

end

/-- A member's figure goes back to the head of its call queue (R182). -/
def Micro.takeBack (fig : Word) (m : Micro) : Micro := if m.mode = .called ∧ m.pos.isNone then { m with callq := fig :: m.callq } else m

theorem Core.Returns.modMicro {touched : Nat → Prop} {figs : Nat → Word → Prop} {fig : Word} (ht : touched slot) (hf : figs slot fig)
    (c : Core) : c.Returns touched figs (c.modMicro slot (Micro.takeBack fig)) := by
  refine .of_touches (f := fun c => c.modMicro slot (Micro.takeBack fig)) (k := Micro.takeBack fig) ht c rfl
    (fun x hx => Tbl.get?_set_other _ _ _ _ hx) (fun m hm => ?_) fun m => ?_
  · have hx : c.micro slot = m := by rw [Core.micro, hm]; rfl
    rw [Core.modMicro, hx]
    exact Core.touches_set c _
  · unfold Micro.takeBack
    split
    · exact ⟨[fig], rfl, fun w hw => by rw [List.mem_singleton.1 hw]; exact hf⟩
    · exact ⟨[], rfl, fun _ hf => nomatch hf⟩

/-- A group dissolved, and its members back in the issue. -/
def Core.dissolveAt (c : Core) (p : Nat × Group) : Core := p.2.members.foldl (fun c slot => c.refresh slot) (c.dissolve p.1 p.2)

theorem Core.dissolve_eq (c : Core) (k : Nat) (g : Group) : c.dissolve k g =
    let d := g.members.foldl (fun c slot => c.modMicro slot (Micro.takeBack g.fig)) c
    { d with groups := Tbl.erase d.groups k } := rfl

theorem Core.foldl_groups {f : Core → Nat → Core} (hf : ∀ c x, (f c x).groups = c.groups) (xs : List Nat) (c : Core) :
    (xs.foldl f c).groups = c.groups := by
  induction xs generalizing c with
  | nil => rfl
  | cons x xs ih => rw [List.foldl_cons, ih, hf]

theorem Core.dissolveAt_groups (c : Core) (p : Nat × Group) : (c.dissolveAt p).groups = Tbl.erase c.groups p.1 := by
  rw [Core.dissolveAt, Core.foldl_groups fun c x => by rw [(c.refresh_slots x).1], Core.dissolve_eq]
  dsimp only
  rw [Core.foldl_groups (f := fun c slot => c.modMicro slot (Micro.takeBack p.2.fig)) fun _ _ => rfl]

/-- The members of some groups, and the figures they take back. -/
def MemberOf (ps : List (Nat × Group)) (slot : Nat) : Prop := ∃ p ∈ ps, slot ∈ p.2.members
def FigureOf (ps : List (Nat × Group)) (slot : Nat) (f : Word) : Prop := ∃ p ∈ ps, slot ∈ p.2.members ∧ p.2.fig = f

theorem Core.Returns.dissolveAt {p : Nat × Group} (hp : p ∈ ps) (c : Core) :
    c.Returns (MemberOf ps) (FigureOf ps) (c.dissolveAt p) := by
  have hm : ∀ x ∈ p.2.members, MemberOf ps x := fun x hx => ⟨p, hp, hx⟩
  have hback : c.Returns (MemberOf ps) (FigureOf ps) (p.2.members.foldl (fun c slot => c.modMicro slot (Micro.takeBack p.2.fig)) c) :=
    Core.Returns.foldl (fun c x hx => .modMicro (hm x hx) ⟨p, hp, hx, rfl⟩ c) c
  have herase : c.Returns (MemberOf ps) (FigureOf ps) (c.dissolve p.1 p.2) := hback.trans (.of_slots rfl)
  exact herase.trans (Core.Returns.foldl (fun c x hx => .refresh (hm x hx) c) _)

theorem Core.Returns.dissolveAll (ps : List (Nat × Group)) (c : Core) :
    c.Returns (MemberOf ps) (FigureOf ps) (ps.foldl Core.dissolveAt c) :=
  Core.Returns.foldl (fun c _ hp => Core.Returns.dissolveAt hp c) c

theorem Tbl.get?_foldl_erase {α β : Type} {t : Tbl α} (hs : Tbl.sorted t = true) (ps : List (Nat × β)) (k : Nat) :
    Tbl.get? (ps.foldl (fun t p => Tbl.erase t p.1) t) k = if k ∈ ps.map Prod.fst then none else Tbl.get? t k := by
  induction ps generalizing t with
  | nil => rfl
  | cons p ps ih =>
    rw [List.foldl_cons, ih (Tbl.sorted_erase _ _ hs), List.map_cons]
    by_cases hk : k = p.1
    · subst hk
      rw [Tbl.get?_erase_self _ _ hs, ite_self, if_pos (List.mem_cons_self ..)]
    · simp only [List.mem_cons, hk, false_or, Tbl.get?_erase_other _ _ _ hk]

theorem Core.dissolveAll_groups (ps : List (Nat × Group)) (c : Core) :
    (ps.foldl Core.dissolveAt c).groups = ps.foldl (fun t p => Tbl.erase t p.1) c.groups := by
  induction ps generalizing c with
  | nil => rfl
  | cons p ps ih => rw [List.foldl_cons, ih, Core.dissolveAt_groups, List.foldl_cons]

/-- A group that waits for code, which a halt dissolves. -/
def Group.Stuck (l : Nat) (g : Group) : Prop := g.launch = l ∧ g.waiting ≠ []

/-- The groups of a core that wait for code, of one launch. -/
def Core.stuck (c : Core) (l : Nat) : List (Nat × Group) := c.groups.filter fun p => p.2.launch == l && !p.2.waiting.isEmpty

theorem Core.mem_stuck {p : Nat × Group} : p ∈ c.stuck l ↔ p ∈ c.groups ∧ p.2.Stuck l := by
  simp [Core.stuck, Group.Stuck]

/-- The groups that are left are those that do not wait for code. -/
theorem Core.stuck_gone (hs : Tbl.sorted c.groups = true) (k : Nat) (g : Group) :
    Tbl.get? ((c.stuck l).foldl Core.dissolveAt c).groups k = some g ↔ Tbl.get? c.groups k = some g ∧ ¬ g.Stuck l := by
  have hk : k ∈ (c.stuck l).map Prod.fst ↔ ∃ g, Tbl.get? c.groups k = some g ∧ g.Stuck l := by
    constructor
    · intro h
      obtain ⟨⟨j, g⟩, hp, rfl⟩ := List.mem_map.1 h
      obtain ⟨hmem, hst⟩ := Core.mem_stuck.1 hp
      exact ⟨g, Tbl.get?_of_mem hs hmem, hst⟩
    · rintro ⟨g, hg, hst⟩
      exact List.mem_map.2 ⟨(k, g), Core.mem_stuck.2 ⟨Tbl.mem_of_get? hg, hst⟩, rfl⟩
  rw [Core.dissolveAll_groups, Tbl.get?_foldl_erase hs]
  split
  case isTrue h =>
    obtain ⟨g', hg', hst⟩ := hk.1 h
    refine ⟨fun e => (nomatch e), fun ⟨hg, hn⟩ => absurd hst ?_⟩
    obtain rfl := Option.some.inj (hg.symm.trans hg')
    exact hn
  case isFalse h => exact ⟨fun hg => ⟨hg, fun hst => h (hk.2 ⟨g, hg, hst⟩)⟩, And.left⟩

end
end Sys2Proof.Machine

/-! A launch halts on a core, and cores park (R281, R285). -/

namespace Sys2Proof.Machine

section
variable {s t u b : State} {n l : Nat} {r : Res}

theorem Tbl.get?_filter {α : Type} {t : Tbl α} (hs : Tbl.sorted t = true) (q : Nat × α → Bool) (k : Nat) :
    Tbl.get? (t.filter q) k = (Tbl.get? t k).filter fun a => q (k, a) := by
  induction t with
  | nil => rfl
  | cons p r ih =>
    obtain ⟨j, a⟩ := p
    have hr := ih ((Tbl.sorted_cons _ _ _).1 hs).2
    have hnone : Tbl.get? r j = none := by
      cases hg : Tbl.get? r j with
      | none => rfl
      | some b => exact absurd (Tbl.sorted_all j a r hs _ (Tbl.mem_of_get? hg)) (Nat.lt_irrefl _)
    by_cases hk : j = k
    · subst hk
      rw [hnone] at hr
      by_cases hq : q (j, a) = true
      · simp only [List.filter_cons_of_pos hq, Tbl.get?, if_true, Option.filter_some, if_pos hq]
      · simp only [List.filter_cons_of_neg hq, hr, Tbl.get?, if_true, Option.filter_some, if_neg hq]
        rfl
    · by_cases hq : q (j, a) = true
      · simp [List.filter_cons_of_pos hq, Tbl.get?, hk, hr]
      · simp [List.filter_cons_of_neg hq, Tbl.get?, hk, hr]

/-- A load of a launch's caller, which a halt abandons (R285). -/
def Flight.callerLoad (n l : Nat) (f : Flight) : Bool := f.core == n && f.launch == l && f.agent == .caller && f.isLoad

/-- The loads of its caller that a halting launch abandons. -/
def State.callerLoads (s : State) (n l : Nat) : List Nat := (s.flights.filter fun p => p.2.callerLoad n l).map Prod.fst

theorem State.flights_abandoned (hs : Tbl.sorted s.flights = true) (id : Nat) :
    Tbl.get? (s.flights.filter fun p => !(s.callerLoads n l).contains p.1) id =
      (Tbl.get? s.flights id).filter fun f => !f.callerLoad n l := by
  rw [Tbl.get?_filter hs]
  cases hf : Tbl.get? s.flights id with
  | none => rfl
  | some f =>
    have hmem : id ∈ s.callerLoads n l ↔ f.callerLoad n l = true := by
      constructor
      · intro h
        obtain ⟨⟨j, g⟩, hg, rfl⟩ := List.mem_map.1 h
        obtain ⟨hg, hq⟩ := List.mem_filter.1 hg
        obtain rfl := Option.some.inj ((Tbl.get?_of_mem hs hg).symm.trans hf)
        exact hq
      · exact fun h => List.mem_map.2 ⟨(id, f), List.mem_filter.2 ⟨Tbl.mem_of_get? hf, h⟩, rfl⟩
    rw [← List.contains_iff_mem] at hmem
    simp only [Option.filter_some, Bool.eq_iff_iff.2 hmem]

/-- A halting launch's groups that wait for code are dissolved, and its caller's loads and reservation end (R182, R285). -/
def State.abandoned (s : State) (n l : Nat) : State :=
  let t := s.modCore n fun c => (c.stuck l).foldl Core.dissolveAt c
  { t with
    flights := t.flights.filter fun p => !(s.callerLoads n l).contains p.1
    resvs := t.resvs.filter fun r => !(r.1 == n && r.2.1 == l) }

/-- A launch as the halt leaves it, its spill ring empty (R285). -/
def Res.halted (r : Res) (loads : List Nat) : Res :=
  { r with phase := .halting, caller := r.caller.halt loads, spill := [], ringNext := 0 }

theorem State.haltOn_eq (s : State) (n l : Nat) : s.haltOn n l =
    (match (s.abandoned n l).res? n l with
     | some r => r.spill
     | none => []).foldl (fun t e => t.catchSpill n l e)
      ((s.abandoned n l).modRes n l fun r => r.halted (s.callerLoads n l)) := rfl

/-- What a halt leaves. -/
structure Halts (n l : Nat) (r : Res) (s t : State) : Prop where
  launch : ∃ k, t.res? n l = some { r with phase := .halting, caller := r.caller.halt (s.callerLoads n l), ringNext := k } ∧
    (r.spill = [] → k = 0 ∧ t.mem = s.mem)
  others : ∀ k, k ≠ l → t.res? n k = s.res? n k
  cores : ∀ k, k ≠ n → t.core k = s.core k
  core : t.core n = { ((s.core n).stuck l).foldl Core.dissolveAt (s.core n) with res := (t.core n).res }
  resvs : ∀ a ∈ t.resvs, a ∈ s.resvs ∧ ¬ (a.1 = n ∧ a.2.1 = l)
  flights : t.flights = s.flights.filter fun p => !(s.callerLoads n l).contains p.1
  writes : OnlyWrites s { t with cores := s.cores, flights := s.flights, resvs := s.resvs }

theorem State.abandoned_core (hn : n < 80) :
    (s.abandoned n l).core n = ((s.core n).stuck l).foldl Core.dissolveAt (s.core n) := State.core_modCore_self s n _ hn

theorem State.abandoned_res? (hn : n < 80) (k : Nat) : (s.abandoned n l).res? n k = s.res? n k := by
  rw [State.res?, State.abandoned_core hn, (Core.Returns.dissolveAll _ (s.core n)).core, State.res?]

theorem State.abandoned_state (s : State) (n l : Nat) : s.abandoned n l = { s with
    cores := (s.abandoned n l).cores
    flights := s.flights.filter fun p => !(s.callerLoads n l).contains p.1
    resvs := s.resvs.filter fun r => !(r.1 == n && r.2.1 == l) } := by
  unfold State.abandoned
  dsimp only
  rw [State.modCore_eq]

theorem State.haltOn_halts (hn : n < 80) (hr : s.res? n l = some r) : Halts n l r s (s.haltOn n l) := by
  obtain ⟨w, hw⟩ : ∃ w, s.abandoned n l = w := ⟨_, rfl⟩
  have hwres : w.res? n l = some r := hw ▸ (State.abandoned_res? hn l).trans hr
  have hwstate : w = { s with cores := w.cores, flights := w.flights, resvs := w.resvs } := by
    rw [← hw, State.abandoned_state]
  have hwflights : w.flights = s.flights.filter fun p => !(s.callerLoads n l).contains p.1 := by rw [← hw, State.abandoned_state]
  have hwresvs : w.resvs = s.resvs.filter fun r => !(r.1 == n && r.2.1 == l) := by rw [← hw, State.abandoned_state]
  obtain ⟨b, hb⟩ : ∃ b, w.modRes n l (fun r => r.halted (s.callerLoads n l)) = b := ⟨_, rfl⟩
  obtain ⟨hbstate, hbother, hbcore, hbres⟩ : OnlyLaunch n l w b := hb ▸ OnlyLaunch.modRes hn
  have hbr : b.res? n l = some (r.halted (s.callerLoads n l)) := hb ▸ State.res?_modRes_self hn hwres
  obtain ⟨⟨hwrites, hcores, hcore, hothers⟩, k, hk⟩ := State.foldl_catchSpill hn hbr r.spill
  have ht : s.haltOn n l = r.spill.foldl (fun t e => t.catchSpill n l e) b := by
    rw [State.haltOn_eq, hw, hwres, hb]
  have hempty : r.spill = [] → s.haltOn n l = b := fun h => by rw [ht, h]; rfl
  rw [← ht] at hwrites hcores hcore hothers hk
  obtain ⟨h1, h2, h3, h4, h5⟩ := hwrites
  have hbflights : b.flights = w.flights := by rw [hbstate]
  have hbresvs : b.resvs = w.resvs := by rw [hbstate]
  have hbwatch : b.watch = s.watch := by rw [hbstate, hwstate]
  refine ⟨⟨k, hk, fun h => ?_⟩, fun k hk => (hothers k hk).trans ((hbres k hk).trans (hw ▸ State.abandoned_res? hn k)),
    fun k hk => (hcores k hk).trans ((hbother k hk).trans (hw ▸ State.core_modCore_other s n k _ hk)), ?_, fun a ha => ?_, ?_, ?_⟩
  · rw [hempty h] at hk ⊢
    obtain hkr := Option.some.inj (hbr.symm.trans hk)
    exact ⟨(congrArg Res.ringNext hkr).symm, by rw [hbstate, hwstate]⟩
  · rw [hcore, hbcore, ← hw, State.abandoned_core hn]
  · have := h2 a ha
    rw [hbresvs, hwresvs] at this
    obtain ⟨hm, hq⟩ := List.mem_filter.1 this
    exact ⟨hm, fun ⟨e1, e2⟩ => by simp [e1, e2] at hq⟩
  · exact (congrArg State.flights h1).trans (hbflights.trans hwflights)
  · have hb' : b = { s with cores := b.cores, flights := b.flights, resvs := b.resvs } := by rw [hbstate, hwstate]
    refine ⟨?_, fun _ h => h, hbwatch ▸ h3, fun w hw => hbwatch ▸ h4 w hw, fun w hw => hbwatch ▸ h5 w hw⟩
    refine (congrArg (fun v : State => { v with cores := s.cores, flights := s.flights, resvs := s.resvs }) h1).trans ?_
    rw [hb']

/-- PREEMPTION_REQUEST (R182, R285). -/
theorem preemptionRequest_halts {x : Launch} (hr : s.res? n l = some r) (hx : s.launch? l = some x) (hst : x.state = .saving)
    (hp : r.phase = .resident) (ha : Tbl.has x.areas n = true) : exec (.preemptionRequest n l) s = .next (s.haltOn n l) := by
  rw [exec_preemptionRequest, execPreemptionRequest, hx, hr]
  exact if_pos ⟨hst, hp, ha⟩

/-- The caller of a launch that halts (R285, R420). -/
theorem Caller.halt_eq (h : Caller) (loads : List Nat) : h.halt loads = { h with
    pc := if h.priv = .supervisor then h.upc else h.pc, priv := .user, exc := none, stall := none
    waitFor := (h.halt loads).waitFor } := by
  unfold Caller.halt
  cases hp : h.priv
  · simp [hp]
  · simp

/-! A core parks (R281). -/

/-- A launch as it halts on a core that parks: its spill ring keeps what it has. -/
def Res.Halted (r u : Res) : Prop := u = { r with phase := .halting, ringNext := u.ringNext, caller := u.caller }

/-- What a launch's halt on a parking core leaves. -/
structure Parks (n l : Nat) (s t : State) : Prop where
  cores : ∀ k, k ≠ n → t.core k = s.core k
  others : ∀ k, k ≠ l → t.res? n k = s.res? n k
  parked : (t.core n).parked = (s.core n).parked
  report : (t.core n).report = (s.core n).report
  launches : ∀ k, t.launch? k = none ↔ s.launch? k = none
  halted : ∀ r, s.res? n l = some r → r.phase = .resident → s.launch? l ≠ none → ∃ u, t.res? n l = some u ∧ r.Halted u
  away : ∀ r, s.res? n l = some r → r.phase ≠ .resident → t.res? n l = some r

theorem State.launch?_modLaunch (s : State) (l k : Nat) (f : Launch → Launch) : (s.modLaunch l f).launch? k = none ↔ s.launch? k = none := by
  rw [State.launch?, State.modLaunch, State.modDsc, State.launch?]
  dsimp only
  rw [Tbl.get?_modify]
  exact Option.map_eq_none_iff

theorem Spills.launch? (h : Spills n l s t) (k : Nat) : t.launch? k = s.launch? k := by
  have hd : t.dsc = s.dsc := by
    have := congrArg State.dsc h.writes.1
    exact this
  rw [State.launch?, hd, State.launch?]

theorem Halts.launch? (h : Halts n l r s t) (k : Nat) : t.launch? k = s.launch? k := by
  have hd : t.dsc = s.dsc := by
    have := congrArg State.dsc h.writes.1
    exact this
  rw [State.launch?, hd, State.launch?]

theorem Halts.parked (h : Halts n l r s t) : (t.core n).parked = (s.core n).parked ∧ (t.core n).report = (s.core n).report := by
  rw [h.core, (Core.Returns.dissolveAll _ (s.core n)).core]
  exact ⟨rfl, rfl⟩

/-- A save area named for a halting launch: its spill ring stays, and is written there (R293). -/
theorem State.giveArea_gives (hn : n < 80) (hr : s.res? n l = some r) (a : Nat × Nat) : let t := s.giveArea n l a
    (∀ k, k ≠ n → t.core k = s.core k) ∧ (∀ k, k ≠ l → t.res? n k = s.res? n k) ∧
      t.core n = { s.core n with res := (t.core n).res } ∧ (∀ k, t.launch? k = none ↔ s.launch? k = none) ∧
      ∃ k, t.res? n l = some { r with ringNext := k } := by
  obtain ⟨b, hb⟩ : ∃ b, (s.modLaunch l fun x => { x with areas := Tbl.set x.areas n a, sweep := none }).modRes n l (fun r =>
    { r with spill := [], ringNext := 0 }) = b := ⟨_, rfl⟩
  obtain ⟨hbstate, hbother, hbcore, hbres⟩ : OnlyLaunch n l (s.modLaunch l fun x => { x with areas := Tbl.set x.areas n a, sweep := none }) b :=
    hb ▸ OnlyLaunch.modRes hn
  have hbr : b.res? n l = some { r with spill := [], ringNext := 0 } := hb ▸ State.res?_modRes_self hn hr
  obtain ⟨hsp, k, hk⟩ := State.foldl_catchSpill hn hbr r.spill
  have ht : s.giveArea n l a = r.spill.foldl (fun t e => t.catchSpill n l e) b := by
    rw [State.giveArea, hr, hb]
  rw [ht]
  refine ⟨fun k hk => (hsp.cores k hk).trans (hbother k hk), fun k hk => (hsp.others k hk).trans (hbres k hk), ?_, fun k => ?_, k, ?_⟩
  · rw [hsp.core, hbcore]
    rfl
  · rw [hsp.launch?, hbstate]
    exact State.launch?_modLaunch s l k _
  · rw [hk, List.nil_append]

theorem State.parkOn_away (h : s.launch? l = none ∨ ∀ r, s.res? n l = some r → r.phase ≠ .resident) : s.parkOn n l = s := by
  unfold State.parkOn
  split
  case h_1 x r hx hr =>
    rcases h with h | h
    · exact nomatch h.symm.trans hx
    · exact if_pos (h r hr)
  case h_2 => rfl

theorem Parks.of_away (h : s.launch? l = none ∨ ∀ r, s.res? n l = some r → r.phase ≠ .resident) : Parks n l s s :=
  ⟨fun _ _ => rfl, fun _ _ => rfl, rfl, rfl, fun _ => Iff.rfl,
    fun r hr hp hl => absurd hp (h.resolve_left hl r hr), fun _ hr _ => hr⟩

/-- A resident launch halts where its core parks, with a save area or none. -/
theorem State.parkOn_resident (hr : s.res? n l = some r) {x : Launch} (hx : s.launch? l = some x) (hp : r.phase = .resident) :
    let t := (s.modLaunch l fun x => { x with sweep := none }).haltOn n l
    s.parkOn n l = t ∨ ∃ a, s.parkOn n l = t.giveArea n l a := by
  unfold State.parkOn
  rw [hx, hr]
  dsimp only
  rw [if_neg (not_not.2 hp)]
  split
  · exact .inl rfl
  · split
    · exact .inr ⟨_, rfl⟩
    · exact .inl rfl

theorem State.parkOn_parks (hn : n < 80) (s : State) (l : Nat) : Parks n l s (s.parkOn n l) := by
  by_cases haway : s.launch? l = none ∨ ∀ r, s.res? n l = some r → r.phase ≠ .resident
  · rw [State.parkOn_away haway]
    exact .of_away haway
  · obtain ⟨hl, hres⟩ := not_or.1 haway
    obtain ⟨x, hx⟩ := Option.ne_none_iff_exists'.1 hl
    simp only [not_forall, not_not] at hres
    obtain ⟨r, hr, hp⟩ := hres
    obtain ⟨b, hb⟩ : ∃ b, s.modLaunch l (fun x => { x with sweep := none }) = b := ⟨_, rfl⟩
    have hbcore (k : Nat) : b.core k = s.core k := by rw [← hb]; rfl
    have hbres (k : Nat) : b.res? n k = s.res? n k := by rw [← hb]; rfl
    have hblaunch (k : Nat) : b.launch? k = none ↔ s.launch? k = none := by rw [← hb]; exact State.launch?_modLaunch s l k _
    have h := State.haltOn_halts hn ((hbres l).trans hr)
    obtain ⟨k, hk, -⟩ := h.launch
    have honly (q : Res) (hq : s.res? n l = some q) : q = r := Option.some.inj (hq.symm.trans hr)
    have hcases := State.parkOn_resident hr hx hp
    dsimp only at hcases
    rw [hb] at hcases
    rcases hcases with e | ⟨a, e⟩
    · rw [e]
      exact ⟨fun k hk => (h.cores k hk).trans (hbcore k), fun k hk => (h.others k hk).trans (hbres k), h.parked.1.trans (by rw [hbcore]),
        h.parked.2.trans (by rw [hbcore]), fun k => by rw [h.launch?, hblaunch], fun q hq _ _ => ⟨_, hk, by rw [honly q hq, Res.Halted]⟩,
        fun q hq hne => absurd (honly q hq ▸ hp) hne⟩
    · rw [e]
      obtain ⟨g1, g2, g3, g4, j, hj⟩ := State.giveArea_gives hn hk a
      exact ⟨fun k hk => (g1 k hk).trans ((h.cores k hk).trans (hbcore k)), fun k hk => (g2 k hk).trans ((h.others k hk).trans (hbres k)),
        by rw [g3]; exact h.parked.1.trans (by rw [hbcore]), by rw [g3]; exact h.parked.2.trans (by rw [hbcore]),
        fun k => by rw [g4, h.launch?, hblaunch], fun q hq _ _ => ⟨_, hj, by rw [honly q hq, Res.Halted]⟩,
        fun q hq hne => absurd (honly q hq ▸ hp) hne⟩

/-- The launches of a parking core halt one after the other. -/
theorem State.foldl_parkOn (hn : n < 80) {ls : List Nat} (hd : ls.Nodup) (s : State) :
    let t := ls.foldl (fun t l => t.parkOn n l) s
    (∀ k, k ≠ n → t.core k = s.core k) ∧ (t.core n).parked = (s.core n).parked ∧ (t.core n).report = (s.core n).report ∧
      (∀ k, k ∉ ls → t.res? n k = s.res? n k) ∧
      (∀ k r, k ∈ ls → s.res? n k = some r → r.phase = .resident → s.launch? k ≠ none → ∃ u, t.res? n k = some u ∧ r.Halted u) ∧
      ∀ k r, s.res? n k = some r → r.phase ≠ .resident → t.res? n k = some r := by
  induction ls generalizing s with
  | nil => exact ⟨fun _ _ => rfl, rfl, rfl, fun _ _ => rfl, fun _ _ h => absurd h List.not_mem_nil, fun _ _ h _ => h⟩
  | cons l ls ih =>
    obtain ⟨hl, hd⟩ := List.nodup_cons.1 hd
    have h := State.parkOn_parks hn s l
    obtain ⟨i1, i2, i3, i4, i5, i6⟩ := ih hd (s.parkOn n l)
    refine ⟨fun k hk => (i1 k hk).trans (h.cores k hk), i2.trans h.parked, i3.trans h.report, fun k hk => ?_, fun k r hk hr hp hx => ?_,
      fun k r hr hp => ?_⟩
    · obtain ⟨hkl, hk⟩ := not_or.1 (mt List.mem_cons.2 hk)
      exact (i4 k hk).trans (h.others k hkl)
    · by_cases hkl : k = l
      · subst hkl
        obtain ⟨u, hu, he⟩ := h.halted r hr hp hx
        exact ⟨u, (i4 k hl).trans hu, he⟩
      · exact i5 k r ((List.mem_cons.1 hk).resolve_left hkl) ((h.others k hkl).trans hr) hp (mt (h.launches k).1 hx)
    · by_cases hkl : k = l
      · subst hkl
        exact (i4 k hl).trans (h.away r hr hp)
      · exact i6 k r ((h.others k hkl).trans hr) hp

theorem Core.mem_launches {c : Core} {k : Nat} {q : Res} (h : Tbl.get? c.res k = some q) (hp : q.phase ≠ .saved) : k ∈ c.launches :=
  List.mem_map.2 ⟨(k, q), List.mem_filter.2 ⟨Tbl.mem_of_get? h, by simpa using hp⟩, rfl⟩

theorem Core.launches_nodup {c : Core} (h : Tbl.sorted c.res = true) : c.launches.Nodup :=
  List.pairwise_map.2 (((Tbl.pairwise_of_sorted h).sublist List.filter_sublist).imp Nat.ne_of_lt)

/-- The report of a core that parks (R281). -/
def Caller.parkReport (h : Caller) (word : Nat) : List Byte :=
  bytesOfNat 4 (2 ^ 31 + 1024 * word) ++ bytesOfNat 2 0 ++ bytesOfNat 1 (h.scause.toNat % 256) ++
    bytesOfNat 1 0 ++ bytesOfNat 4 h.sepc.toNat ++ bytesOfNat 4 h.stval.toNat

/-- A resident launch whose caller has met an exception in S-mode, which parks its core (R281). -/
def Res.parks (p : Nat × Res) : Bool :=
  match p.2.caller.exc with
  | some e => e.fromS && p.2.phase == .resident
  | none => false

/-- CORE_PARK (R281). -/
theorem corePark_parks (hn : n < 80) {pre post : List (Nat × Res)} {e : CallerExc} (hc : (s.core n).res = pre ++ (l, r) :: post)
    (he : r.caller.exc = some e) (hs : e.fromS = true) (hp : r.phase = .resident)
    (hpre : ∀ p ∈ pre, ∀ e, p.2.caller.exc = some e → e.fromS = false ∨ p.2.phase ≠ .resident) (hparked : (s.core n).parked = false)
    (hsort : Tbl.sorted (s.core n).res = true) : Answers (.corePark n) s fun t =>
      (t.core n).parked = true ∧ (t.core n).report = some (r.caller.parkReport (s.coreWord n)) ∧
      (∀ k q, s.res? n k = some q → q.phase = .resident → s.launch? k ≠ none → ∃ u, t.res? n k = some u ∧ q.Halted u) ∧
      (∀ k q, s.res? n k = some q → q.phase ≠ .resident → t.res? n k = some q) ∧ ∀ k, k ≠ n → t.core k = s.core k := by
  obtain ⟨b, hb⟩ : ∃ b, s.modCore n (fun c => { c with parked := true, report := some (r.caller.parkReport (s.coreWord n)) }) = b := ⟨_, rfl⟩
  have hbcore : b.core n = { s.core n with parked := true, report := some (r.caller.parkReport (s.coreWord n)) } :=
    hb ▸ State.core_modCore_self s n _ hn
  have hbres (k : Nat) : b.res? n k = s.res? n k := by rw [State.res?, hbcore, State.res?]
  have hblaunch (k : Nat) : b.launch? k = s.launch? k := by rw [← hb, State.modCore_eq]; rfl
  have hfind : (s.core n).res.find? Res.parks = some (l, r) := by
    rw [hc, List.find?_append, List.find?_eq_none.2, Option.none_or, List.find?_cons_of_pos]
    · simp [Res.parks, he, hs, hp]
    · intro p hpm
      unfold Res.parks
      split
      case h_1 e hexc => rcases hpre p hpm e hexc with h | h <;> simp [h]
      case h_2 => exact Bool.false_ne_true
  have hexec : exec (.corePark n) s = .next ((s.core n).launches.foldl (fun t l => t.parkOn n l) b) := by
    rw [exec_corePark]
    unfold execCorePark
    dsimp only
    split
    case h_1 hnone => exact nomatch hfind.symm.trans hnone
    case h_2 k q hsome =>
      obtain ⟨rfl, rfl⟩ := Prod.mk.inj (Option.some.inj (hfind.symm.trans hsome))
      rw [if_neg (by simp [hparked]), ← hb]
      rfl
  obtain ⟨h1, h2, h3, -, h5, h6⟩ := State.foldl_parkOn hn (Core.launches_nodup hsort) b
  refine ⟨_, hexec, h2.trans (by rw [hbcore]), h3.trans (by rw [hbcore]), fun k q hq hqp hx => ?_, fun k q hq hqp => ?_,
    fun k hk => (h1 k hk).trans (hb ▸ State.core_modCore_other _ _ _ _ hk)⟩
  · exact h5 k q (Core.mem_launches hq (by rw [hqp]; decide)) ((hbres k).trans hq) hqp (by rwa [hblaunch])
  · exact h6 k q ((hbres k).trans hq) hqp

end
end Sys2Proof.Machine

/-! What the core does to its memories before a save (R239, R248, R252, R283). -/

namespace Sys2Proof.Machine

section
variable {s t u b : State} {n l : Nat} {r : Res}

/-- Memory has been written and read, and the array's cells with it: the core keeps the rest. -/
structure Readies (n : Nat) (s t : State) : Prop where
  writes : WritesBeside s t
  cores : ∀ k, k ≠ n → t.core k = s.core k
  core : t.core n = { s.core n with resident := (t.core n).resident, cells := (t.core n).cells }
  wf : Memory.wf s.mem = true → Memory.wf t.mem = true

theorem Readies.refl (n : Nat) (s : State) : Readies n s s := ⟨.of_cores rfl, fun _ _ => rfl, rfl, id⟩

theorem Readies.trans (h : Readies n s t) (h' : Readies n t u) : Readies n s u :=
  ⟨h.writes.trans h'.writes, fun k hk => (h'.cores k hk).trans (h.cores k hk), by rw [h'.core, h.core], fun hw => h'.wf (h.wf hw)⟩

theorem Readies.foldl {α : Type} {f : State → α → State} (hf : ∀ s x, Readies n s (f s x)) (xs : List α) (s : State) :
    Readies n s (xs.foldl f s) := by
  induction xs generalizing s with
  | nil => exact .refl n s
  | cons x xs ih => exact (hf s x).trans (ih _)

theorem Readies.write (n : Nat) (s : State) (a : Nat) (bs : List Byte) : Readies n s (s.write a bs) :=
  ⟨OnlyWrites.write s a bs, fun _ _ => rfl, rfl, Memory.wf_writeN s.mem a bs⟩

theorem Readies.corrects (n : Nat) (s : State) (pa len : Nat) : Readies n s (s.corrects pa len) := by
  obtain ⟨h1, h2⟩ := s.corrects_only pa len
  have hcore (k : Nat) : (s.corrects pa len).core k = s.core k := by rw [h1]; rfl
  have hmem : (s.corrects pa len).mem = s.mem := by rw [h1]
  have hresvs : (s.corrects pa len).resvs = s.resvs := by rw [h1]
  refine ⟨⟨?_, fun x hx => hresvs ▸ hx, ?_, fun w hw => ?_,
    fun w hw => (State.mem_corrects_weak.1 hw).1⟩, fun k _ => hcore k, ?_, fun h => hmem ▸ h⟩
  · rw [hmem, hresvs, h1]
  · dsimp only
    rw [h2]
  · dsimp only at hw
    rw [h2] at hw
    exact hw
  · rw [hcore]

theorem Readies.countDown (n : Nat) (s : State) (d : CopyDesc) (k : Nat) : Readies n s (s.countDown n d k) := by
  unfold State.countDown
  split
  · exact .write n s _ _
  · exact .refl n s

theorem Readies.countCopies (n l : Nat) (s : State) : Readies n s (s.countCopies n l) := by
  refine Readies.foldl (fun t e => ?_) _ s
  split
  · split
    · exact .countDown n t _ _
    · exact .refl n t
  · split
    · exact .countDown n t _ _
    · exact .refl n t
  · exact .refl n t

theorem Readies.saveReads (n : Nat) (s : State) (r : Res) : Readies n s (s.saveReads n r) := by
  refine Readies.trans (Readies.corrects n s _ _) (Readies.trans (Readies.foldl (fun t i => ?_) _ _) (Readies.foldl (fun t u => ?_) _ _))
  · exact .corrects n t _ _
  · exact .corrects n t _ _

theorem Readies.writeBack (hn : n < 80) (s : State) : Readies n s (s.writeBack n) := by
  have hclear (t : State) : Readies n t (t.modCore n fun c => { c with resident := none, cells := [] }) :=
    ⟨.of_cores (State.modCore_eq _ _ _), fun k hk => State.core_modCore_other _ _ _ _ hk, by rw [State.core_modCore_self _ _ _ hn],
      fun h => (State.modCore_mem t n _).symm ▸ h⟩
  unfold State.writeBack
  dsimp only
  split
  · exact .refl n s
  · split
    · exact (Readies.write n s _ _).trans (hclear _)
    · exact hclear s

theorem State.beforeSave_readies (hn : n < 80) (s : State) (l : Nat) (r : Res) : Readies n s (s.beforeSave n l r) := by
  unfold State.beforeSave
  dsimp only
  refine Readies.trans ?_ ((Readies.countCopies n l _).trans (Readies.saveReads n _ r))
  split
  · split
    · exact .writeBack hn s
    · exact .refl n s
  · exact .refl n s

/-! What such a state has in common with the one before. -/

theorem Readies.isBad (h : Readies n s t) {pa len : Nat} (hb : s.isBad pa len = false) : t.isBad pa len = false := by
  simp only [State.isBad, List.any_eq_false] at hb ⊢
  exact fun w hw => hb w (h.writes.2.2.2.1 w hw)

theorem Readies.res? (h : Readies n s t) (k : Nat) : t.res? n k = s.res? n k := by
  rw [State.res?, h.core, State.res?]

theorem Readies.micro (h : Readies n s t) (x : Nat) : (t.core n).micro x = (s.core n).micro x := by
  rw [h.core, Core.micro, Core.micro]

theorem Readies.flights (h : Readies n s t) : t.flights = s.flights := by
  have := congrArg State.flights h.writes.1
  exact this

theorem Readies.dsc (h : Readies n s t) : t.dsc = s.dsc := by
  have := congrArg State.dsc h.writes.1
  exact this

theorem Readies.station (h : Readies n s t) : t.station = s.station := by
  have := congrArg State.station h.writes.1
  exact this

/-- Nothing that a save reads has become bad (R284). -/
theorem Readies.saveDamaged (h : Readies n s t) (hd : s.saveDamaged n l r = false) : t.saveDamaged n l r = false := by
  have htile (i : Nat) : (t.core n).tileOff r i = (s.core n).tileOff r i := by rw [h.core, Core.tileOff, Core.tileOff]
  have howned : (t.core n).owned l = (s.core n).owned l := by rw [h.core, Core.owned, Core.owned]
  simp only [State.saveDamaged, Bool.or_eq_false_iff, List.any_eq_false, Bool.not_eq_true, howned, htile, h.micro] at hd ⊢
  obtain ⟨⟨⟨h1, h2⟩, h3⟩, h4⟩ := hd
  exact ⟨⟨⟨h.isBad h1, fun i hi => h.isBad (h2 i hi)⟩, fun u hu => h.isBad (h3 u hu)⟩, h4⟩

end
end Sys2Proof.Machine

/-! The header of a context image, read back where it is written (R288). -/

namespace Sys2Proof.Machine

section
variable {s t u b : State} {n l a : Nat} {r : Res} {m : List Host.Cell} {img post : List Byte}

theorem Memory.readN_length (m : List Host.Cell) (a k : Nat) : (Memory.readN m a k).length = k := by
  induction k generalizing a with
  | zero => rfl
  | succ k ih => rw [Memory.readN, List.length_cons, ih]

theorem Memory.readN_add (m : List Host.Cell) (a j k : Nat) :
    Memory.readN m a (j + k) = Memory.readN m a j ++ Memory.readN m (a + j) k := by
  induction j generalizing a with
  | zero => rw [Nat.zero_add]; rfl
  | succ j ih => rw [Nat.add_right_comm, Memory.readN, ih, Memory.readN, Nat.add_right_comm a 1 j, List.cons_append]; rfl

/-- Bytes stand in a memory from an address on. -/
def Memory.Holds (m : List Host.Cell) (a : Nat) (bs : List Byte) : Prop := Memory.readN m a bs.length = bs

theorem Memory.holds_append {xs ys : List Byte} :
    Memory.Holds m a (xs ++ ys) ↔ Memory.Holds m a xs ∧ Memory.Holds m (a + xs.length) ys := by
  rw [Memory.Holds, List.length_append, Memory.readN_add]
  exact ⟨fun h => List.append_inj h (Memory.readN_length _ _ _), fun ⟨h, h'⟩ => by rw [h, h']⟩

theorem Memory.Holds.peek {v k : Nat} (h : Memory.Holds s.mem a (bytesOfNat k v)) : s.peek a k = v % 256 ^ k := by
  rw [Memory.Holds, bytesOfNat_length] at h
  rw [State.peek, h, natOfBytes_bytesOfNat]

theorem padTo_eq (k : Nat) (bs : List Byte) : padTo k bs = bs ++ List.replicate (k - bs.length) 0#8 := by
  rw [padTo, List.take_append, List.take_of_length_le (Nat.le_max_right _ _), List.take_replicate]
  congr 2
  omega

/-- The first fields of a context image (R288). -/
def imageStart (word l damaged : Nat) : List Byte :=
  bytesOfNat 4 0x57C00C7A ++ (bytesOfNat 2 1 ++ (bytesOfNat 2 word ++ (bytesOfNat 4 l ++ bytesOfNat 1 damaged)))

theorem State.contextImage_starts (s : State) (n l : Nat) (r : Res) (v : SavedMem) (ring : Nat) : ∃ rest,
    s.contextImage n l r v ring = imageStart (s.coreWord n) l (if v.damaged then 1 else 0) ++ rest := by
  unfold State.contextImage headerImage imageStart
  simp only [padTo_eq, List.append_assoc]
  exact ⟨_, rfl⟩

theorem State.coreWord_lt (s : State) (hn : n < 80) : s.coreWord n < 2 ^ 16 := by
  have : s.cardNo ≤ 1 := by unfold State.cardNo; split <;> decide
  simp only [State.coreWord, coreCode]
  omega

/-- The header's first fields are read as written. -/
theorem imageStart_peeks {word : Nat} (hw : Memory.wf m = true) (hword : word < 2 ^ 16)
    (ht : t.mem = Memory.writeN m a (imageStart word l 0 ++ post)) :
    t.peek a 4 = 0x57C00C7A ∧ t.peek (a + 4) 2 = 1 ∧ t.peek (a + 6) 2 = word ∧ t.peek (a + 8) 4 = l % 2 ^ 32 ∧ t.peek (a + 12) 1 = 0 := by
  have h : Memory.Holds t.mem a (imageStart word l 0 ++ post) := ht ▸ Memory.readN_writeN_self m a _ hw
  simp only [imageStart, Memory.holds_append, bytesOfNat_length, Nat.add_assoc, Nat.reduceAdd] at h
  obtain ⟨⟨h0, h1, h2, h3, h4⟩, -⟩ := h
  exact ⟨h0.peek, h1.peek, h2.peek.trans (Nat.mod_eq_of_lt hword), h3.peek, h4.peek⟩

/-! A context is saved (R29, R287). -/

theorem State.takeBoxed_core (s : State) (n l k : Nat) :
    (s.takeBoxed n l).core k = { s.core k with net := ((s.takeBoxed n l).core k).net } := by
  simp only [State.takeBoxed, State.core, Vector.getElem?_map]
  cases s.cores[k]? <;> rfl

theorem State.takeBoxed_res? (s : State) (n l k j : Nat) : (s.takeBoxed n l).res? k j = s.res? k j := by
  rw [State.res?, State.takeBoxed_core, State.res?]

/-- A flight as the context of its launch records it (R171, R287). -/
def State.recordedFlight (s : State) (n l : Nat) (f : Flight) : Flight :=
  if (f.core == n && f.launch == l) = true then (s.orphan f).recorded else f

/-- A launch halted and its flights recorded, before its image is written (R29, R287). -/
def State.halfSaved (s : State) (n l : Nat) (v : SavedMem) : State :=
  let h := s.modCore n fun c => c.halted l
  ({ h with flights := Tbl.mapKV h.flights fun _ f => h.recordedFlight n l f } : State).modRes n l fun r => { r with saved := some v }

section
variable {v : SavedMem} (hn : n < 80) (hr : s.res? n l = some r)
include hn

theorem State.halfSaved_core : (s.halfSaved n l v).core n = ((s.core n).halted l).modRes l fun r => { r with saved := some v } := by
  rw [State.halfSaved, State.modRes, State.core_modCore_self _ _ _ hn]
  exact congrArg (fun c : Core => c.modRes l fun r => { r with saved := some v }) (State.core_modCore_self s n _ hn)

omit hn in
theorem State.halfSaved_other {k : Nat} (hk : k ≠ n) : (s.halfSaved n l v).core k = s.core k := by
  rw [State.halfSaved, State.modRes, State.core_modCore_other _ _ _ _ hk]
  exact State.core_modCore_other s n k _ hk

theorem State.halfSaved_res? (k : Nat) :
    (s.halfSaved n l v).res? n k = (s.res? n k).map fun r => if k = l then { r with saved := some v } else r := by
  rw [State.res?, State.halfSaved_core hn]
  exact Tbl.get?_modify _ _ _ _

omit hn in
theorem State.halfSaved_state (s : State) (n l : Nat) (v : SavedMem) : s.halfSaved n l v =
    { s with cores := (s.halfSaved n l v).cores, flights := Tbl.mapKV s.flights fun _ f => (s.modCore n fun c => c.halted l).recordedFlight n l f } := by
  unfold State.halfSaved
  dsimp only
  rw [State.modRes, State.modCore_eq, State.modCore_flights]
  dsimp only
  rw [State.modCore_eq s]

include hr

/-- What a save leaves. -/
theorem State.saveOn_eq {area ring : Nat} (ha : s.areaOf n l = some (area, ring)) : let g := s.halfSaved n l v
    s.saveOn n l r v = (((g.write area (g.contextImage n l { r with saved := some v } v ring)).modCore n fun c =>
      c.dropEntries l (r.traced n)).takeBoxed n l).modRes n l fun r => { r with phase := .saved } := by
  have hg : (s.halfSaved n l v).areaOf n l = some (area, ring) := by rw [State.halfSaved_state]; exact ha
  have hgr : (s.halfSaved n l v).res? n l = some { r with saved := some v } := by rw [State.halfSaved_res? hn, hr]; simp
  have : s.saveOn n l r v = (((match (s.halfSaved n l v).areaOf n l, (s.halfSaved n l v).res? n l with
    | some (area, ring), some r => (s.halfSaved n l v).write area ((s.halfSaved n l v).contextImage n l r v ring)
    | _, _ => s.halfSaved n l v).modCore n fun c => c.dropEntries l (r.traced n)).takeBoxed n l).modRes n l fun r =>
      { r with phase := .saved } := rfl
  rw [this, hg, hgr]

/-- What the core, the flights and the memory are after a save. -/
structure Saves (n l : Nat) (r : Res) (v : SavedMem) (area : Nat) (s t : State) : Prop where
  core : t.core n = { ((s.core n).halted l).dropEntries l (r.traced n) with res := (t.core n).res, net := (t.core n).net }
  launch : t.res? n l = some { r with phase := .saved, saved := some v }
  others : ∀ k, k ≠ l → t.res? n k = s.res? n k
  cores : ∀ k, k ≠ n → t.core k = { s.core k with net := (t.core k).net }
  flights : ∀ id f, Tbl.get? s.flights id = some f → ¬ (f.core = n ∧ f.launch = l) → Tbl.get? t.flights id = some f
  dsc : t.dsc = s.dsc
  image : ∃ rest, t.mem = Memory.writeN s.mem area (imageStart (s.coreWord n) l (if v.damaged then 1 else 0) ++ rest)

theorem State.saveOn_saves {area ring : Nat} (ha : s.areaOf n l = some (area, ring)) : Saves n l r v area s (s.saveOn n l r v) := by
  obtain ⟨g, hg⟩ : ∃ g, s.halfSaved n l v = g := ⟨_, rfl⟩
  have hgstate := hg ▸ State.halfSaved_state s n l v
  have hgcore : g.core n = _ := hg ▸ State.halfSaved_core hn
  have hgres (k : Nat) : g.res? n k = _ := hg ▸ State.halfSaved_res? hn k
  obtain ⟨rest, himg⟩ := g.contextImage_starts n l { r with saved := some v } v ring
  have hword : g.coreWord n = s.coreWord n := by rw [hgstate]; rfl
  obtain ⟨d, hd⟩ : ∃ d, ((g.write area (imageStart (s.coreWord n) l (if v.damaged then 1 else 0) ++ rest)).modCore n fun c =>
    c.dropEntries l (r.traced n)) = d := ⟨_, rfl⟩
  have hdcore : d.core n = (g.core n).dropEntries l (r.traced n) := by
    rw [← hd, State.core_modCore_self _ _ _ hn]; rfl
  have hdres (k : Nat) : d.res? n k = g.res? n k := by rw [State.res?, hdcore]; rfl
  have hdother (k : Nat) (hk : k ≠ n) : d.core k = g.core k := by rw [← hd, State.core_modCore_other _ _ _ _ hk]; rfl
  have hdstate : d = { (g.write area (imageStart (s.coreWord n) l (if v.damaged then 1 else 0) ++ rest)) with cores := d.cores } := by
    rw [← hd, State.modCore_eq]
  have ht := State.saveOn_eq (v := v) hn hr ha
  simp only [hg, himg, hword, hd] at ht
  rw [ht]
  refine ⟨?_, ?_, fun k hk => ?_, fun k hk => ?_, fun id f hf hm => ?_, ?_, rest, ?_⟩
  · rw [State.modRes_core _ _ _ _ hn, State.takeBoxed_core, hdcore, hgcore]
    rfl
  · rw [State.res?_modRes_at hn, State.takeBoxed_res?, hdres, hgres, hr]
    simp
  · rw [State.res?_modRes hn, State.takeBoxed_res?, hdres, hgres]
    simp [hk]
  · rw [State.modRes, State.core_modCore_other _ _ _ _ hk, State.takeBoxed_core, hdother k hk, ← hg, State.halfSaved_other hk]
  · have hfl : ((d.takeBoxed n l).modRes n l fun r => { r with phase := .saved }).flights = g.flights := by
      rw [State.modRes, State.modCore_flights, State.takeBoxed, hdstate]
      rfl
    have hm' : ¬ (f.core == n && f.launch == l) = true := by simpa using hm
    rw [hfl, hgstate]
    dsimp only
    rw [Tbl.get?_mapKV, hf]
    simp only [Option.map_some, State.recordedFlight, if_neg hm']
  · rw [State.modRes, State.modCore_dsc, State.takeBoxed, hdstate, hgstate]
    rfl
  · rw [State.modRes, State.modCore_mem, State.takeBoxed, hdstate, hgstate]
    rfl

end
end
end Sys2Proof.Machine

/-! CONTEXT_SAVE (R284, R287, R288). -/

namespace Sys2Proof.Machine

section
variable {s t u b : State} {n l : Nat} {r : Res} {x : Launch}

/-- A micro-thread as the save of a launch leaves it (R29). -/
def Micro.saved (l : Nat) (m : Micro) : Micro :=
  if m.owner = some l then (if m.life = .retired then { m with held := .retired } else { m with held := m.life, life := .halted }) else m

theorem Core.halted_slots (c : Core) (l : Nat) : (c.halted l).slots = Tbl.mapKV c.slots fun _ m => m.saved l := by
  unfold Core.halted Micro.saved
  dsimp only
  congr 1
  funext _ m
  by_cases ho : m.owner = some l
  · by_cases hl : m.life = .retired
    · simp [ho, hl]
    · simp [ho, hl]
  · simp [ho]

theorem Saves.microAt {v : SavedMem} {area slot : Nat} {m : Micro} (h : Saves n l r v area s t) (hm : s.microAt n slot = some m) :
    t.microAt n slot = some (m.saved l) := by
  rw [State.microAt] at hm
  rw [State.microAt, h.core]
  show Tbl.get? ((s.core n).halted l).slots slot = _
  rw [Core.halted_slots, Tbl.get?_mapKV, hm]
  rfl

/-- A launch as it is marked saved, or not (R390). -/
theorem State.savedAll_cases (s : State) (l : Nat) : s.savedAll l = s ∨
    ∃ f, s.savedAll l = s.modLaunch l f := by
  unfold State.savedAll
  split
  case h_1 => exact .inl rfl
  case h_2 y hy =>
    dsimp only
    split
    · exact .inr ⟨_, rfl⟩
    · exact .inl rfl

theorem State.savedAll_dsc (s : State) (l : Nat) : s.savedAll l = { s with dsc := (s.savedAll l).dsc } := by
  rcases s.savedAll_cases l with h | ⟨f, h⟩
  · rw [h]
  · rw [h]
    rfl

theorem State.savedAll_launch? (s : State) {l k : Nat} (hk : k ≠ l) : (s.savedAll l).launch? k = s.launch? k := by
  rcases s.savedAll_cases l with h | ⟨f, h⟩
  · rw [h]
  · rw [h]
    exact Tbl.get?_modify_other _ _ _ _ hk

theorem State.savedAll_saved (hx : s.launch? l = some x) (hst : x.state = .saving)
    (hall : ∀ k ∈ x.cores, ∃ q, s.res? k l = some q ∧ q.phase = .saved) :
    (s.savedAll l).launch? l = some { x with state := .saved, since := (s.part x.part).decisions } := by
  have h : (x.cores.all fun n => match s.res? n l with
      | some r => r.phase == .saved
      | none => false) = true := by
    refine List.all_eq_true.2 fun k hk => ?_
    obtain ⟨q, hq, hp⟩ := hall k hk
    simp [hq, hp]
  unfold State.savedAll
  rw [hx]
  dsimp only
  rw [if_pos ⟨hst, h⟩]
  refine (Tbl.get?_modify_self _ _ _).trans ?_
  rw [← State.launch?, hx]
  rfl

theorem exec_contextSave_halting {area ring : Nat} (hr : s.res? n l = some r) (hx : s.launch? l = some x) (hp : r.phase = .halting)
    (he : x.state ≠ .ending) (ha : Tbl.get? x.areas n = some (area, ring)) (hq : s.quiet n l = true) :
    exec (.contextSave n l) s = .next (s.saveContext n l r) := by
  have hhas : Tbl.has x.areas n = true := by rw [Tbl.has, ha]; rfl
  have harea : s.areaOf n l = some (area, ring) := by rw [State.areaOf, hx]; exact ha
  rw [exec_contextSave, execContextSave, hx, hr]
  dsimp only
  rw [if_neg (by simp [hp, he, hq]), State.withArea, if_pos hhas, harea, hr]

/-- CONTEXT_SAVE of a launch that has halted, with what its save reads in order. -/
theorem contextSave_saves (hs : s.Sound) (hn : n < 80) (hr : s.res? n l = some r) (hx : s.launch? l = some x) {area ring : Nat}
    (hp : r.phase = .halting) (he : x.state ≠ .ending) (ha : Tbl.get? x.areas n = some (area, ring)) (hq : s.quiet n l = true)
    (hd : s.saveDamaged n l r = false) : Answers (.contextSave n l) s fun t =>
      let c := s.core n
      let b := s.beforeSave n l r
      (∃ v, t.res? n l = some { r with phase := .saved, saved := some v } ∧
        v.sp = Memory.readN b.mem (poolAddr n (recNat r.record 60 4)) (recNat r.record 64 4) ∧
        v.tiles = (List.range r.tileMap.length).map (fun i => Memory.readN b.mem (poolAddr n (c.tileOff r i)) 16384) ∧
        v.wb = r.wbMap.flatMap (fun u => Memory.readN b.mem (wbAddr n (256 * u)) 256) ∧ v.part = c.part ∧ v.cwp = c.cwp ∧
        v.inbox = c.inbox.filter (fun m => m.launch == l) ∧ v.mx = c.mx.filter (fun e => e.launch == l) ∧
        v.trp = c.trp.filter (fun e => e.launch == l) ∧ v.gteq = c.gteq.filter (fun e => e.launch == l) ∧
        v.joins = c.joins.filter (fun p => p.2.launch == l) ∧ v.reissue = s.toReissue n l ∧ v.damaged = false) ∧
      (∀ k, k ≠ l → t.res? n k = s.res? n k) ∧
      (∀ slot m, s.microAt n slot = some m → t.microAt n slot = some
        (if m.owner = some l then (if m.life = .retired then { m with held := .retired } else { m with held := m.life, life := .halted })
         else m)) ∧
      (t.core n).mx = c.mx.filter (fun e => e.launch != l) ∧ (t.core n).trp = c.trp.filter (fun e => e.launch != l) ∧
      (t.core n).gteq = c.gteq.filter (fun e => e.launch != l) ∧ (t.core n).inbox = c.inbox.filter (fun m => m.launch != l) ∧
      (t.core n).joins = c.joins.filter (fun p => p.2.launch != l) ∧
      (∀ i : Fin 4, (t.core n).chans[i] = c.chans[i].filter fun e => e.launch != l) ∧
      (t.core n).groups = c.groups ∧ (t.core n).fifo = c.fifo ∧ (t.core n).part = c.part ∧
      (∀ k, k ≠ n → t.core k = { s.core k with net := (t.core k).net }) ∧
      (∀ id f, Tbl.get? s.flights id = some f → ¬ (f.core = n ∧ f.launch = l) → Tbl.get? t.flights id = some f) ∧
      t.peek area 4 = 0x57C00C7A ∧ t.peek (area + 4) 2 = 1 ∧ t.peek (area + 6) 2 = s.coreWord n ∧
      t.peek (area + 8) 4 = l % 2 ^ 32 ∧ t.peek (area + 12) 1 = 0 ∧
      ((∀ k ∈ x.cores, k ≠ n → ∃ q, s.res? k l = some q ∧ q.phase = .saved) → x.state = .saving →
        ∃ y, t.launch? l = some y ∧ y = { x with state := .saved, since := y.since }) ∧
      ∀ k, k ≠ l → t.launch? k = s.launch? k := by
  obtain ⟨b, hb⟩ : ∃ b, s.beforeSave n l r = b := ⟨_, rfl⟩
  have hready : Readies n s b := hb ▸ State.beforeSave_readies hn s l r
  obtain ⟨v, hv⟩ : ∃ v, b.savedMem n l r = v := ⟨_, rfl⟩
  have hdam : v.damaged = false := hv ▸ hready.saveDamaged hd
  obtain ⟨z, hz⟩ : ∃ z, b.saveOn n l r v = z := ⟨_, rfl⟩
  have hexec : exec (.contextSave n l) s = .next (z.savedAll l) := by
    rw [exec_contextSave_halting hr hx hp he ha hq, State.saveContext]
    simp only [hb, hv, hz, hdam, Bool.false_eq_true, if_false]
  have hbx (k : Nat) : b.launch? k = s.launch? k := by rw [State.launch?, hready.dsc, State.launch?]
  have harea : b.areaOf n l = some (area, ring) := by rw [State.areaOf, hbx, hx]; exact ha
  have hsave : Saves n l r v area b z := hz ▸ State.saveOn_saves hn ((hready.res? l).trans hr) harea
  have hzx (k : Nat) : z.launch? k = s.launch? k := by rw [State.launch?, hsave.dsc, ← State.launch?, hbx]
  have hcoreWord : b.coreWord n = s.coreWord n := by rw [State.coreWord, State.cardNo, hready.station]; rfl
  obtain ⟨rest, himg⟩ := hsave.image
  rw [hdam, hcoreWord] at himg
  have hwf : Memory.wf b.mem = true := hready.wf hs.1
  have hpeeks := imageStart_peeks (t := z.savedAll l) hwf (State.coreWord_lt s hn) (by rw [State.savedAll_dsc]; exact himg)
  have hcores (k : Nat) : (z.savedAll l).core k = z.core k := by rw [State.savedAll_dsc]; rfl
  have hres (k j : Nat) : (z.savedAll l).res? k j = z.res? k j := by rw [State.savedAll_dsc]; rfl
  have hflights : (z.savedAll l).flights = z.flights := by rw [State.savedAll_dsc]
  obtain ⟨q, cells, hbcore⟩ : ∃ q cells, b.core n = { s.core n with resident := q, cells := cells } := ⟨_, _, hready.core⟩
  obtain ⟨res, net, hcore⟩ : ∃ res net, (z.savedAll l).core n =
      { (({ s.core n with resident := q, cells := cells } : Core).halted l).dropEntries l (r.traced n) with res := res, net := net } :=
    ⟨_, _, (hcores n).trans (hbcore ▸ hsave.core)⟩
  refine ⟨_, hexec, ?_⟩
  dsimp only
  rw [hcore, hb]
  refine ⟨⟨v, (hres n l).trans hsave.launch, ?_⟩, fun k hk => (hres n k).trans ((hsave.others k hk).trans (hready.res? k)), fun slot m hm => ?_,
    rfl, rfl, rfl, rfl, rfl, fun i => ?_, rfl, rfl, rfl, fun k hk => ?_, fun id f hf hm => ?_, ?_⟩
  · rw [← hv, State.savedMem, State.tileBytes, State.unitBytes, State.toReissue, hready.flights, hbcore]
    exact ⟨rfl, rfl, rfl, rfl, rfl, rfl, rfl, rfl, rfl, rfl, rfl, hready.saveDamaged hd⟩
  · rw [State.microAt, hcores, ← State.microAt]
    exact hsave.microAt (by rw [State.microAt, hbcore]; exact hm)
  · exact Vector.getElem_map _ _
  · rw [hcores, hsave.cores k hk, hready.cores k hk]
  · rw [hflights]
    exact hsave.flights id f (by rw [hready.flights]; exact hf) hm
  · obtain ⟨h1, h2, h3, h4, h5⟩ := hpeeks
    refine ⟨h1, h2, h3, h4, h5, fun hall hst => ?_, fun k hk => (State.savedAll_launch? z hk).trans (hzx k)⟩
    refine ⟨_, State.savedAll_saved ((hzx l).trans hx) hst fun k hk => ?_, rfl⟩
    by_cases hkn : k = n
    · subst hkn
      exact ⟨_, hsave.launch, rfl⟩
    · obtain ⟨q, hq, hqp⟩ := hall k hk hkn
      refine ⟨q, ?_, hqp⟩
      rw [State.res?, hsave.cores k hkn, hready.cores k hkn]
      exact hq

end
end Sys2Proof.Machine

/-! PREEMPTION_REQUEST (R182, R285, R393). -/

namespace Sys2Proof.Machine

section
variable {s : State} {n l : Nat} {r : Res} {x : Launch}

/-- PREEMPTION_REQUEST of a launch that is being saved. -/
theorem preemptionRequest_results (hs : s.Sound) (hn : n < 80) (hr : s.res? n l = some r) (hx : s.launch? l = some x)
    (hst : x.state = .saving) (hp : r.phase = .resident) (ha : Tbl.has x.areas n = true) (hg : Tbl.sorted (s.core n).groups = true) :
    Answers (.preemptionRequest n l) s fun t =>
      let c := s.core n
      (∃ q, t.res? n l = some q ∧ q = { r with phase := .halting, ringNext := q.ringNext, caller := q.caller } ∧
        q.caller = { r.caller with
          pc := if r.caller.priv = .supervisor then r.caller.upc else r.caller.pc, priv := .user, exc := none, stall := none
          waitFor := q.caller.waitFor } ∧ (r.spill = [] → q.ringNext = 0 ∧ t.mem = s.mem)) ∧
      (∀ k, k ≠ l → t.res? n k = s.res? n k) ∧ (∀ k, k ≠ n → t.core k = s.core k) ∧
      t.core n = { c with
        groups := (t.core n).groups, slots := (t.core n).slots, res := (t.core n).res, eligible := (t.core n).eligible } ∧
      (∀ k g, Tbl.get? (t.core n).groups k = some g ↔ Tbl.get? c.groups k = some g ∧ ¬ g.Stuck l) ∧
      (∀ slot, (∀ p ∈ c.groups, p.2.Stuck l → slot ∉ p.2.members) → t.microAt n slot = s.microAt n slot) ∧
      (∀ slot m, s.microAt n slot = some m → ∃ u figs, t.microAt n slot = some u ∧
        u = { m with callq := figs ++ m.callq, life := u.life, since := u.since, rearmed := u.rearmed } ∧
        ∀ f ∈ figs, ∃ p ∈ c.groups, p.2.Stuck l ∧ slot ∈ p.2.members ∧ p.2.fig = f) ∧
      (∀ a, a ∈ t.resvs → a ∈ s.resvs ∧ ¬ (a.1 = n ∧ a.2.1 = l)) ∧
      (∀ id, Tbl.get? t.flights id = (Tbl.get? s.flights id).filter fun f => !f.callerLoad n l) ∧
      OnlyWrites s { t with cores := s.cores, flights := s.flights, resvs := s.resvs } := by
  obtain ⟨hwf, -, -, hsorted, -⟩ := hs
  have h := State.haltOn_halts hn hr
  obtain ⟨k, hk, hempty⟩ := h.launch
  have hret := Core.Returns.dissolveAll ((s.core n).stuck l) (s.core n)
  have hslots : ((s.haltOn n l).core n).slots = (((s.core n).stuck l).foldl Core.dissolveAt (s.core n)).slots := by rw [h.core]
  have hgroups : ((s.haltOn n l).core n).groups = (((s.core n).stuck l).foldl Core.dissolveAt (s.core n)).groups := by rw [h.core]
  refine ⟨_, preemptionRequest_halts hr hx hst hp ha, ⟨_, hk, rfl, Caller.halt_eq _ _, hempty⟩, h.others, h.cores, ?_, fun k g => ?_,
    fun slot hno => ?_, fun slot m hm => ?_, h.resvs, fun id => ?_, h.writes⟩
  · rw [h.core, hret.core]
  · rw [hgroups]
    exact Core.stuck_gone hg k g
  · rw [State.microAt, hslots]
    refine hret.others slot fun ⟨p, hp, hmem⟩ => ?_
    obtain ⟨hpc, hst⟩ := Core.mem_stuck.1 hp
    exact hno p hpc hst hmem
  · rw [State.microAt, hslots]
    obtain ⟨u, fs, hu, he, hf⟩ := hret.micros slot m hm
    refine ⟨u, fs, hu, he, fun f hfm => ?_⟩
    obtain ⟨p, hp, hmem, hfig⟩ := hf f hfm
    obtain ⟨hpc, hst⟩ := Core.mem_stuck.1 hp
    exact ⟨p, hpc, hst, hmem, hfig⟩
  · rw [h.flights]
    exact State.flights_abandoned hsorted id

end
end Sys2Proof.Machine

/-! A context goes back into its core: memories, queues, accesses (R240, R295). -/

namespace Sys2Proof.Machine

section
variable {s t u : State} {n l at_ : Nat} {r : Res} {v : SavedMem} {c : Core}

/-! The core's memories. -/

/-- Tiles of a restored launch (R240): the lowest that the resident ones leave. -/
def tilesBeside (rest : List (Nat × Res)) (v : SavedMem) : List Nat := (untaken 16 (rest.flatMap fun q => q.2.tileMap)).take v.tiles.length

/-- Bytes written one after the other: each at its own address. -/
def Memory.writeAll {α : Type} (a : α → Nat) (b : α → List Byte) (xs : List α) (m : List Host.Cell) : List Host.Cell :=
  xs.foldl (fun m x => Memory.writeN m (a x) (b x)) m

/-- A memory with the bytes of a saved launch put back, beside the launches that are resident (R240, R295). -/
def restoredMem (n : Nat) (r : Res) (v : SavedMem) (rest : List (Nat × Res)) (part : Word) (m : List Host.Cell) : List Host.Cell :=
  Memory.writeAll (fun p => wbAddr n (256 * p.2)) (fun p => (v.wb.drop (256 * p.1)).take 256)
    ((unitsOf (unitRuns rest) r.wbMap.length).mapIdx fun i u => (i, u))
    (Memory.writeAll (fun p => poolAddr n (((if rest.isEmpty then v.part else part).toNat % 256 + (tilesBeside rest v).getD p.1 0) * 16384))
      Prod.snd (v.tiles.mapIdx fun i b => (i, b)) (Memory.writeN m (poolAddr n (recNat r.record 60 4)) v.sp))

/-- A launch without tiles and weight-buffer units has its scratchpad range put back. -/
theorem restoredMem_plain (rest : List (Nat × Res)) (part : Word) (m : List Host.Cell) (ht : v.tiles = []) (hw : r.wbMap = []) :
    restoredMem n r v rest part m = Memory.writeN m (poolAddr n (recNat r.record 60 4)) v.sp := by
  simp [restoredMem, ht, hw, Memory.writeAll, unitsOf]

/-- Writes one after the other, at addresses that depend on the cores alone. -/
theorem State.foldl_write {α : Type} {a : State → α → Nat} {a' : α → Nat} {b : α → List Byte}
    (ha : ∀ t x, t.cores = s.cores → a t x = a' x) (xs : List α) :
    (xs.foldl (fun t x => t.write (a t x) (b x)) s).cores = s.cores ∧
      (xs.foldl (fun t x => t.write (a t x) (b x)) s).mem = Memory.writeAll a' b xs s.mem := by
  induction xs generalizing s with
  | nil => exact ⟨rfl, rfl⟩
  | cons x xs ih =>
    obtain ⟨h1, h2⟩ := ih (s := s.write (a s x) (b x)) ha
    refine ⟨h1, ?_⟩
    rw [List.foldl_cons, h2, Memory.writeAll, Memory.writeAll, List.foldl_cons, ← ha s x rfl]
    rfl

/-- The partition word of an idle core is that of the context (R295). -/
def State.partRestored (s : State) (n : Nat) (rest : List (Nat × Res)) (v : SavedMem) : State :=
  if rest.isEmpty then s.modCore n fun c => { c with part := v.part } else s

/-- The scratchpad range, the tiles and the weight-buffer units are written. -/
def State.bytesRestored (s : State) (n : Nat) (r : Res) (units : List Nat) (v : SavedMem) : State :=
  (units.mapIdx fun i u => (i, u)).foldl (fun t p => t.write (wbAddr n (256 * p.2)) ((v.wb.drop (256 * p.1)).take 256))
    ((v.tiles.mapIdx fun i b => (i, b)).foldl (fun t p => t.write (poolAddr n ((t.core n).tileOff r p.1)) p.2)
      (s.write (poolAddr n (recNat r.record 60 4)) v.sp))

/-- A trace ring that was on goes on. -/
def State.traceRestored (s : State) (n : Nat) (r : Res) : State :=
  if r.traced n then
    let ring := recNat r.record 96 4 % 2 ^ 22
    s.modCore n fun c => { c with traceEn := true, traceRing := ring, traceSeq := BitVec.ofNat 32 (s.traceNext n ring) }
  else s

theorem State.restoreBytes_eq (s : State) (n l : Nat) (r : Res) (v : SavedMem) : s.restoreBytes n l r v =
    let rest := (s.core n).besides [l]
    let units := unitsOf (unitRuns rest) r.wbMap.length
    let r' := { r with tileMap := tilesBeside rest v, wbMap := units }
    (((s.partRestored n rest v).bytesRestored n r' units v).modRes n l fun x =>
      { x with tileMap := tilesBeside rest v, wbMap := units }).traceRestored n r' := rfl

section
variable (hn : n < 80)
include hn

theorem State.partRestored_restores (rest : List (Nat × Res)) : (s.partRestored n rest v).mem = s.mem ∧
    (s.partRestored n rest v).core n = { s.core n with part := if rest.isEmpty then v.part else (s.core n).part } := by
  unfold State.partRestored
  split
  · exact ⟨State.modCore_mem _ _ _, State.core_modCore_self _ _ _ hn⟩
  · exact ⟨rfl, rfl⟩

omit hn in
theorem State.bytesRestored_restores (units : List Nat) : (s.bytesRestored n r units v).cores = s.cores ∧
    (s.bytesRestored n r units v).mem = Memory.writeAll (fun p => wbAddr n (256 * p.2)) (fun p => (v.wb.drop (256 * p.1)).take 256)
      (units.mapIdx fun i u => (i, u)) (Memory.writeAll (fun p => poolAddr n ((s.core n).tileOff r p.1)) Prod.snd
        (v.tiles.mapIdx fun i b => (i, b)) (Memory.writeN s.mem (poolAddr n (recNat r.record 60 4)) v.sp)) := by
  obtain ⟨h1, h2⟩ := State.foldl_write (s := s.write (poolAddr n (recNat r.record 60 4)) v.sp)
    (a := fun t p => poolAddr n ((t.core n).tileOff r p.1)) (a' := fun p => poolAddr n ((s.core n).tileOff r p.1)) (b := Prod.snd)
    (fun t p ht => by rw [State.core, ht]; rfl) (v.tiles.mapIdx fun i b => (i, b))
  obtain ⟨h3, h4⟩ := State.foldl_write (a := fun _ p => wbAddr n (256 * p.2)) (a' := fun p => wbAddr n (256 * p.2))
    (b := fun p => (v.wb.drop (256 * p.1)).take 256) (s := _) (fun _ _ _ => rfl) (units.mapIdx fun i u => (i, u))
  exact ⟨h3.trans h1, h4.trans (congrArg _ h2)⟩

theorem State.traceRestored_restores : (s.traceRestored n r).mem = s.mem ∧
    ∃ on ring seq, (s.traceRestored n r).core n = { s.core n with traceEn := on, traceRing := ring, traceSeq := seq } := by
  unfold State.traceRestored
  split
  · exact ⟨State.modCore_mem _ _ _, true, _, _, State.core_modCore_self _ _ _ hn⟩
  · exact ⟨rfl, _, _, _, rfl⟩

/-- What a restore leaves of the core, and of the memory. -/
theorem State.restoreBytes_restores (s : State) (l : Nat) (r : Res) (v : SavedMem) :
    (s.restoreBytes n l r v).mem = restoredMem n r v ((s.core n).besides [l]) (s.core n).part s.mem ∧
      ∃ tiles units part on ring seq, (s.restoreBytes n l r v).core n =
        { s.core n with
          res := Tbl.modify (s.core n).res l fun x => { x with tileMap := tiles, wbMap := units }
          part := part, traceEn := on, traceRing := ring, traceSeq := seq } := by
  rw [State.restoreBytes_eq]
  dsimp only
  generalize (s.core n).besides [l] = rest
  obtain ⟨hpmem, hpcore⟩ := State.partRestored_restores (s := s) (v := v) hn rest
  generalize s.partRestored n rest v = p at hpmem hpcore ⊢
  have hb := State.bytesRestored_restores (s := p) (n := n)
    (r := { r with tileMap := tilesBeside rest v, wbMap := unitsOf (unitRuns rest) r.wbMap.length }) (v := v) (unitsOf (unitRuns rest) r.wbMap.length)
  generalize p.bytesRestored n _ _ v = b at hb ⊢
  obtain ⟨hbcores, hbmem⟩ := hb
  have hbcore : b.core n = p.core n := by rw [State.core, hbcores, State.core]
  obtain ⟨hmem, on, ring, seq, hcore⟩ := State.traceRestored_restores
    (s := b.modRes n l fun x => { x with tileMap := tilesBeside rest v, wbMap := unitsOf (unitRuns rest) r.wbMap.length })
    (r := { r with tileMap := tilesBeside rest v, wbMap := unitsOf (unitRuns rest) r.wbMap.length }) hn
  refine ⟨?_, tilesBeside rest v, unitsOf (unitRuns rest) r.wbMap.length, if rest.isEmpty then v.part else (s.core n).part, on, ring, seq, ?_⟩
  · rw [hmem, State.modRes, State.modCore_mem, hbmem, hpmem, hpcore]
    rfl
  · rw [hcore, State.modRes_core _ _ _ _ hn, hbcore, hpcore]

end

end
end Sys2Proof.Machine

/-! A launch stands on its core again, its accesses issued and not yet its micro-threads (R286, R287, R295). -/

namespace Sys2Proof.Machine

section
variable {s t u : State} {n l a : Nat} {r : Res} {v : SavedMem} {c : Core}

theorem Tbl.filter_modify {α : Type} (t : Tbl α) (k : Nat) (f : α → α) {q : Nat × α → Bool} (h : ∀ x, q (k, x) = false) :
    (Tbl.modify t k f).filter q = t.filter q := by
  induction t with
  | nil => rfl
  | cons p t ih =>
    obtain ⟨j, x⟩ := p
    rw [Tbl.modify]
    split
    · subst_vars
      rw [List.filter_cons_of_neg (by simp [h]), List.filter_cons_of_neg (by simp [h])]
    · rw [List.filter_cons, List.filter_cons, ih]

/-- What is resident beside a launch does not depend on the launch. -/
theorem Core.besides_congr {d : Core} {f : Res → Res} (h : d.res = Tbl.modify c.res l f) : d.besides [l] = c.besides [l] := by
  rw [Core.besides, Core.besides, h]
  exact Tbl.filter_modify _ _ _ fun x => by simp

theorem State.readImage_core (hn : n < 80) : (s.readImage n l a).core n = { s.core n with
    slots := Tbl.mapKV (s.core n).slots fun slot m => if m.owner = some l then s.imageMicro a (s.core n) l slot m else m
    res := Tbl.modify (s.core n).res l (s.imageRes a ((s.core n).sets l).length) } := State.core_modCore_self _ _ _ hn

theorem State.enterNet_keeps (s : State) (j target : Nat) (m : Msg) : (s.enterNet j target m).mem = s.mem ∧
    ∃ net, (s.enterNet j target m).core n = { s.core n with net := net } := by
  refine ⟨State.modCore_mem _ _ _, ?_⟩
  by_cases h : n = target
  · subst h
    by_cases hn : n < 80
    · exact ⟨_, State.core_modCore_self _ _ _ hn⟩
    · rw [State.enterNet, State.modCore_out _ _ _ (Nat.le_of_not_lt hn)]
      exact ⟨_, rfl⟩
  · exact ⟨(s.core n).net, State.core_modCore_other _ _ _ _ h⟩

theorem State.foldl_enterNet (n j : Nat) (b : Msg → Msg) (ms : List (Nat × Msg)) (s : State) :
    let t := ms.foldl (fun t p => t.enterNet j p.1 (b p.2)) s
    t.mem = s.mem ∧ ∃ net, t.core n = { s.core n with net := net } := by
  induction ms generalizing s with
  | nil => exact ⟨rfl, _, rfl⟩
  | cons p ms ih =>
    obtain ⟨h1, net, h2⟩ := State.enterNet_keeps (n := n) s j p.1 (b p.2)
    obtain ⟨i1, net', i2⟩ := ih (s.enterNet j p.1 (b p.2))
    exact ⟨i1.trans h1, net', i2.trans (by rw [h2])⟩

/-- Saved entries stand ahead of those that came since (R295). -/
theorem State.restoreQueues_restores (hn : n < 80) (s : State) (v : SavedMem) : (s.restoreQueues n v).mem = s.mem ∧
    (s.restoreQueues n v).core n = { s.core n with
      net := ((s.restoreQueues n v).core n).net, chans := ((s.restoreQueues n v).core n).chans
      joins := ((s.restoreQueues n v).core n).joins
      mx := v.mx ++ (s.core n).mx, trp := v.trp ++ (s.core n).trp, gteq := v.gteq ++ (s.core n).gteq
      inbox := v.inbox ++ (s.core n).inbox, cwp := v.cwp } := by
  obtain ⟨h1, net, h2⟩ := State.foldl_enterNet n n (fun m => { m with box := .outbox }) v.outbox s
  unfold State.restoreQueues
  refine ⟨(State.modCore_mem _ _ _).trans h1, ?_⟩
  rw [State.core_modCore_self _ _ _ hn, h2]

/-- One access issued again changes the flights, and the store FIFO of its core. -/
def Reissues (n : Nat) (s t : State) : Prop := t.mem = s.mem ∧ ∃ fifo, t.core n = { s.core n with fifo := fifo }

theorem Reissues.trans (h : Reissues n s t) (h' : Reissues n t u) : Reissues n s u := by
  obtain ⟨h1, f, h2⟩ := h
  obtain ⟨g1, g, g2⟩ := h'
  exact ⟨g1.trans h1, g, by rw [g2, h2]⟩

theorem Reissues.foldl {α : Type} {f : State → α → State} (hf : ∀ s x, Reissues n s (f s x)) (xs : List α) (s : State) :
    Reissues n s (xs.foldl f s) := by
  induction xs generalizing s with
  | nil => exact ⟨rfl, _, rfl⟩
  | cons x xs ih => exact (hf s x).trans (ih _)

/-- A micro-thread whose waits for a page are gone: its accesses are issued again. -/
def Micro.unparked (l : Nat) (m : Micro) : Micro := if m.owner = some l then { m with parkedOn := [], codePark := none } else m

/-- A query whose wait for a page is gone. -/
def Query.unparked (l : Nat) (q : Query) : Query := if q.launch = l then { q with pageHeld := none } else q

/-- One recorded access is issued again (R295). -/
def State.reissueOne (n : Nat) (s : State) (id : Nat) : State :=
  match Tbl.get? s.flights id with
  | some f =>
    if f.stage = .faulted then s
    else if f.isLoad then s.sendOn id .request
    else if s.inFifo n id then s.setStage id .fifo
    else (s.setStage id .fifo).modCore n fun c => { c with fifo := c.fifo ++ [id] }
  | none => s

theorem State.reissue_eq (s : State) (n l : Nat) (v : SavedMem) : s.reissue n l v =
    (v.reissue.foldl (State.reissueOne n) s).modCore n fun c =>
      { c with slots := Tbl.mapKV c.slots fun _ m => m.unparked l, queries := Tbl.mapKV c.queries fun _ q => q.unparked l } := rfl

theorem Reissues.reissueOne (hn : n < 80) (s : State) (id : Nat) : Reissues n s (s.reissueOne n id) := by
  unfold State.reissueOne
  split
  · split
    · exact ⟨rfl, _, rfl⟩
    · split
      · exact ⟨rfl, _, rfl⟩
      · split
        · exact ⟨rfl, _, rfl⟩
        · exact ⟨State.modCore_mem _ _ _, _, State.core_modCore_self (s.setStage id .fifo) n _ hn⟩
  · exact ⟨rfl, _, rfl⟩

theorem State.reissue_reissues (hn : n < 80) (s : State) (v : SavedMem) : (s.reissue n l v).mem = s.mem ∧
    ∃ fifo, (s.reissue n l v).core n = { s.core n with
      fifo := fifo, queries := Tbl.mapKV (s.core n).queries fun _ q => q.unparked l
      slots := Tbl.mapKV (s.core n).slots fun _ m => m.unparked l } := by
  obtain ⟨hmem, fifo, hcore⟩ := Reissues.foldl (Reissues.reissueOne hn) v.reissue s
  rw [State.reissue_eq]
  refine ⟨(State.modCore_mem _ _ _).trans hmem, fifo, ?_⟩
  rw [State.core_modCore_self _ _ _ hn, hcore]

/-! The parts put together. -/

/-- A launch as the resume makes it resident (R295). -/
def Res.resumed (tiles units : List Nat) (r : Res) : Res :=
  { r with tileMap := tiles, wbMap := units, phase := .resident, saved := none, spill := [], ringNext := 0 }

/-- A saved launch on its core again, before its micro-threads go on (R295). -/
def State.restored (s : State) (n l at_ : Nat) (r : Res) (v : SavedMem) : State :=
  let v := s.imageMem at_ v
  let s := ((s.readImage n l at_).restoreBytes n l r v).restoreQueues n v
  let s := s.modRes n l fun r => { r with phase := .resident, saved := none, spill := [], ringNext := 0 }
  (s.modRes n l fun r => { r with spill := r.spill ++ [] }).reissue n l v

theorem State.resumeOn_eq (h : r.spill = []) : s.resumeOn n l a r v =
    ((((s.restored n l a r v).resumeGrant n l).settle).modLaunch l fun x => { x with areas := Tbl.erase x.areas n }).resumedAll l := by
  unfold State.resumeOn
  rw [h]
  rfl

/-- What a restore leaves of the core, and of the memory. -/
structure Restored (n l a : Nat) (r : Res) (v : SavedMem) (s t : State) : Prop where
  mem : t.mem = restoredMem n r (s.imageMem a v) ((s.core n).besides [l]) (s.core n).part s.mem
  slots : (t.core n).slots = Tbl.mapKV (s.core n).slots fun slot m =>
    (if m.owner = some l then s.imageMicro a (s.core n) l slot m else m).unparked l
  launch : ∃ tiles units, (t.core n).res =
    Tbl.modify (s.core n).res l fun r => (s.imageRes a ((s.core n).sets l).length r).resumed tiles units
  mx : (t.core n).mx = v.mx ++ (s.core n).mx
  trp : (t.core n).trp = v.trp ++ (s.core n).trp
  gteq : (t.core n).gteq = v.gteq ++ (s.core n).gteq
  inbox : (t.core n).inbox = v.inbox ++ (s.core n).inbox
  cwp : (t.core n).cwp = (s.imageMem a v).cwp

theorem State.restored_restored (hn : n < 80) (s : State) (l a : Nat) (r : Res) (v : SavedMem) :
    Restored n l a r v s (s.restored n l a r v) := by
  obtain ⟨b, hb⟩ : ∃ b, s.readImage n l a = b := ⟨_, rfl⟩
  have hbcore : b.core n = _ := hb ▸ State.readImage_core hn
  have hbmem : b.mem = s.mem := hb ▸ State.modCore_mem _ _ _
  obtain ⟨d, hd⟩ : ∃ d, b.restoreBytes n l r (s.imageMem a v) = d := ⟨_, rfl⟩
  obtain ⟨hdmem, tiles, units, part, on, ring, seq, hdcore⟩ := hd ▸ State.restoreBytes_restores hn b l r (s.imageMem a v)
  obtain ⟨e, he⟩ : ∃ e, d.restoreQueues n (s.imageMem a v) = e := ⟨_, rfl⟩
  obtain ⟨hemem, hecore⟩ := he ▸ State.restoreQueues_restores hn d (s.imageMem a v)
  obtain ⟨f, hf⟩ : ∃ f, (e.modRes n l fun r => { r with phase := .resident, saved := none, spill := [], ringNext := 0 }).modRes n l
    (fun r => { r with spill := r.spill ++ [] }) = f := ⟨_, rfl⟩
  have hfcore : f.core n = { e.core n with res := Tbl.modify (e.core n).res l fun r =>
      { r with phase := .resident, saved := none, spill := [], ringNext := 0 } } := by
    rw [← hf, State.modRes_modRes, State.modRes_core _ _ _ _ hn]
    rfl
  have hfmem : f.mem = e.mem := by rw [← hf, State.modRes_modRes]; exact State.modCore_mem _ _ _
  obtain ⟨hmem, fifo, hcore⟩ := State.reissue_reissues (l := l) hn f (s.imageMem a v)
  have ht : s.restored n l a r v = f.reissue n l (s.imageMem a v) := by
    rw [← hf, ← he, ← hd, ← hb]
    rfl
  rw [ht]
  rw [hfcore, hecore, hdcore, hbcore] at hcore
  refine ⟨?_, ?_, ⟨tiles, units, ?_⟩, by rw [hcore]; rfl, by rw [hcore]; rfl, by rw [hcore]; rfl, by rw [hcore]; rfl, by rw [hcore]⟩
  · rw [hmem, hfmem, hemem, hdmem, hbmem, hbcore]
    rw [Core.besides_congr (c := s.core n) (l := l) rfl]
  · rw [hcore]
    simp only [Tbl.mapKV, List.map_map]
    rfl
  · rw [hcore]
    simp only [Tbl.modify_modify]
    rfl

end
end Sys2Proof.Machine

/-! The micro-threads of a resumed launch go on (R29, R37). -/

namespace Sys2Proof.Machine

section
variable {s t u : State} {n l slot : Nat} {c d e : Core} {m : Micro}

/-- Micro-threads among some slots have changed, and the order in which they are stamped. -/
structure Core.SlotsMove (own : Nat → Prop) (c d : Core) : Prop where
  core : d = { c with slots := d.slots, eligible := d.eligible }
  others : ∀ x, ¬ own x → Tbl.get? d.slots x = Tbl.get? c.slots x

theorem Core.SlotsMove.refl (own : Nat → Prop) (c : Core) : c.SlotsMove own c := ⟨rfl, fun _ _ => rfl⟩

theorem Core.SlotsMove.trans {own : Nat → Prop} (h : c.SlotsMove own d) (h' : d.SlotsMove own e) : c.SlotsMove own e :=
  ⟨by rw [h'.core, h.core], fun x hx => (h'.others x hx).trans (h.others x hx)⟩

theorem Core.SlotsMove.mono {own own' : Nat → Prop} (h : c.SlotsMove own d) (hi : ∀ x, own x → own' x) : c.SlotsMove own' d :=
  ⟨h.core, fun x hx => h.others x (mt (hi x) hx)⟩

theorem Core.SlotsMove.modMicro (c : Core) (slot : Nat) (f : Micro → Micro) : c.SlotsMove (· = slot) (c.modMicro slot f) :=
  ⟨rfl, fun _ hx => Tbl.get?_set_other _ _ _ _ hx⟩

theorem Core.SlotsMove.stamp (c : Core) (slot : Nat) : c.SlotsMove (· = slot) (c.stamp slot) :=
  ⟨rfl, fun _ hx => Tbl.get?_set_other _ _ _ _ hx⟩

theorem Core.SlotsMove.refresh (c : Core) (slot : Nat) : c.SlotsMove (· = slot) (c.refresh slot) :=
  ⟨(c.refresh_slots slot).1, (c.refresh_slots slot).2⟩

theorem Core.SlotsMove.foldl {own : Nat → Prop} {f : Core → Nat → Core} {xs : List Nat}
    (hf : ∀ c : Core, ∀ x ∈ xs, c.SlotsMove own (f c x)) (c : Core) :
    c.SlotsMove own (xs.foldl f c) := by
  induction xs generalizing c with
  | nil => exact .refl own c
  | cons x xs ih => exact (hf c x (List.mem_cons_self ..)).trans (ih (fun c y hy => hf c y (List.mem_cons_of_mem _ hy)) _)

/-- Where each step changes the micro-thread of one slot, what it does to it is what the steps together do. -/
theorem Core.SlotsMove.foldl_at {f : Core → Nat → Core} (hf : ∀ (c : Core) x, c.SlotsMove (· = x) (f c x))
    {P : Option Micro → Option Micro → Prop}
    (hP : ∀ (c : Core) x, P (Tbl.get? c.slots x) (Tbl.get? (f c x).slots x)) {xs : List Nat} (hd : xs.Nodup) (c : Core) {y : Nat} (hy : y ∈ xs) :
    P (Tbl.get? c.slots y) (Tbl.get? (xs.foldl f c).slots y) := by
  induction xs generalizing c with
  | nil => exact absurd hy List.not_mem_nil
  | cons x xs ih =>
    obtain ⟨hx, hd⟩ := List.nodup_cons.1 hd
    by_cases hyx : y = x
    · subst hyx
      have : (f c y).SlotsMove (· ∈ xs) (xs.foldl f (f c y)) :=
        Core.SlotsMove.foldl (fun c z hz => (hf c z).mono fun w e => e ▸ hz) _
      rw [List.foldl_cons, this.others y hx]
      exact hP c y
    · have := ih hd (f c x) ((List.mem_cons.1 hy).resolve_left hyx)
      rwa [(hf c x).others y hyx] at this

/-! With its grant a micro-thread goes on where it stood (R29). -/

theorem Core.stamp_modMicro (hm : Tbl.get? c.slots slot = some m) (f : Micro → Micro) :
    Tbl.get? ((c.modMicro slot f).stamp slot).slots slot = some { f m with since := c.eligible } := by
  have hmicro : c.micro slot = m := by rw [Core.micro, hm]; rfl
  refine (Tbl.get?_set_self _ _ _).trans ?_
  rw [Core.micro_modMicro, if_pos rfl, hmicro]
  rfl

/-- `refresh` leaves the state of a micro-thread as it is, or moves it among those that are not faulted (R29). -/
theorem Core.refresh_life_cases (hm : Tbl.get? c.slots slot = some m) : ∃ u, Tbl.get? (c.refresh slot).slots slot = some u ∧
    (u.life = m.life ∨ m.life ∈ [.called, .free, .parked] ∧ u.life ∈ [.called, .free, .parked]) := by
  have hmicro : c.micro slot = m := by rw [Core.micro, hm]; rfl
  have hsame : ∃ u, Tbl.get? c.slots slot = some u ∧
      (u.life = m.life ∨ m.life ∈ [.called, .free, .parked] ∧ u.life ∈ [.called, .free, .parked]) := ⟨m, hm, .inl rfl⟩
  have hlife : (if m.blocked && !m.rearmed then Life.parked else m.modeLife) ∈ [Life.called, .free, .parked] := by
    unfold Micro.modeLife
    split
    · decide
    · split <;> decide
  unfold Core.refresh
  dsimp only
  rw [hmicro]
  generalize (if m.blocked && !m.rearmed then Life.parked else m.modeLife) = life at hlife ⊢
  split
  · exact hsame
  · split
    case h_4 => exact hsame
    all_goals
      rename_i hl
      split
      · exact ⟨_, Core.stamp_modMicro hm fun m => { m with rearmed := false }, .inl rfl⟩
      · split
        · exact hsame
        · exact ⟨_, Core.stamp_modMicro hm fun m => { m with life := life }, .inr ⟨by rw [hl]; decide, hlife⟩⟩

/-- What `refresh` makes of a micro-thread between figures, parked or faulted (R29). -/
theorem Core.refresh_life (hm : Tbl.get? c.slots slot = some m) (hl : m.life ∈ [.called, .free, .parked, .faulted]) :
    ∃ u, Tbl.get? (c.refresh slot).slots slot = some u ∧ u.life ∈ [.called, .free, .parked, .faulted] ∧
      (u.life = .faulted ↔ m.life = .faulted) ∧ u = { m with life := u.life, since := u.since, rearmed := u.rearmed } := by
  obtain ⟨u, hu, hlife⟩ := Core.refresh_life_cases hm
  obtain ⟨-, -, x, hx, he⟩ := Core.touches_refresh hm
  obtain rfl := Option.some.inj (hu.symm.trans hx)
  refine ⟨u, hu, ?_, ?_, he⟩
  · rcases hlife with h | ⟨-, h⟩
    · rwa [h]
    · revert h
      generalize u.life = b
      cases b <;> decide
  · rcases hlife with h | ⟨h, h'⟩
    · rw [h]
    · constructor
      · intro e; rw [e] at h'; exact absurd h' (by decide)
      · intro e; rw [e] at h; exact absurd h (by decide)

/-- A micro-thread of a halted launch that goes on in its state. -/
def Micro.GoesOn (m u : Micro) : Prop :=
  u.life ∈ [.called, .free, .parked, .faulted] ∧ (u.life = .faulted ↔ m.held = .faulted) ∧
    u = { m with life := u.life, cych := none, since := u.since, rearmed := u.rearmed }

/-- One micro-thread returns to the state it left. -/
def Core.wakeOne (c : Core) (slot : Nat) : Core :=
  if (c.micro slot).life = .halted then (c.modMicro slot fun m => { m with life := m.held, cych := none }).refresh slot else c

theorem Core.wakeSame_eq (c : Core) (l : Nat) : c.wakeSame l = (c.owned l).foldl Core.wakeOne c := rfl

theorem Core.wakeOne_moves (c : Core) (slot : Nat) : c.SlotsMove (· = slot) (c.wakeOne slot) := by
  unfold Core.wakeOne
  split
  · exact (Core.SlotsMove.modMicro c slot _).trans (.refresh _ slot)
  · exact .refl _ c

theorem Core.wakeSame_moves (c : Core) (l : Nat) : c.SlotsMove (· ∈ c.owned l) (c.wakeSame l) := by
  rw [Core.wakeSame_eq]
  exact Core.SlotsMove.foldl (fun c x hx => (c.wakeOne_moves x).mono fun _ e => e ▸ hx) c

theorem Core.wakeSame_goesOn (hs : Tbl.sorted c.slots = true) (hm : Tbl.get? c.slots slot = some m) (ho : m.owner = some l)
    (hl : m.life = .halted) (hh : m.held ∈ [.called, .free, .parked, .faulted]) :
    ∃ u, Tbl.get? (c.wakeSame l).slots slot = some u ∧ m.GoesOn u := by
  have hmem : slot ∈ c.owned l := (Core.mem_owned hs).2 (by rw [Core.micro, hm]; exact ho)
  refine Core.SlotsMove.foldl_at Core.wakeOne_moves (P := fun a b => ∀ m, a = some m → m.life = .halted →
    m.held ∈ [.called, .free, .parked, .faulted] → ∃ u, b = some u ∧ m.GoesOn u) (fun c x m hm hl hh => ?_) (Core.owned_nodup hs) c hmem
    m hm hl hh
  have hmicro : c.micro x = m := by rw [Core.micro, hm]; rfl
  rw [Core.wakeOne, hmicro, if_pos hl]
  obtain ⟨u, hu, h1, h2, h3⟩ := Core.refresh_life (c := c.modMicro x fun m => { m with life := m.held, cych := none })
    (Tbl.get?_set_self _ _ _) (by rw [hmicro]; exact hh)
  rw [hmicro] at h2 h3
  exact ⟨u, hu, h1, h2, h3⟩

/-! With another grant it is re-sliced (R37). -/

/-- One micro-thread is re-sliced. -/
def Core.resliceOne (c : Core) (slot : Nat) : Core :=
  match (c.micro slot).life with
  | .halted =>
    if (c.micro slot).held = .created then c.modMicro slot fun m => { m.resliceNew with life := m.held, cych := none }
    else (c.modMicro slot fun m => { m.reslice with cych := none }).stamp slot
  | .created => c.modMicro slot Micro.resliceNew
  | _ => c

theorem Core.wakeResliced_eq (c : Core) (l : Nat) : c.wakeResliced l = (c.owned l).foldl Core.resliceOne c := rfl

theorem Core.resliceOne_moves (c : Core) (slot : Nat) : c.SlotsMove (· = slot) (c.resliceOne slot) := by
  unfold Core.resliceOne
  split
  · split
    · exact .modMicro c slot _
    · exact (Core.SlotsMove.modMicro c slot _).trans (.stamp _ slot)
  · exact .modMicro c slot _
  · exact .refl _ c

theorem Core.wakeResliced_moves (c : Core) (l : Nat) : c.SlotsMove (· ∈ c.owned l) (c.wakeResliced l) := by
  rw [Core.wakeResliced_eq]
  exact Core.SlotsMove.foldl (fun c x hx => (c.resliceOne_moves x).mono fun _ e => e ▸ hx) c

theorem Core.wakeResliced_resliced (hs : Tbl.sorted c.slots = true) (hm : Tbl.get? c.slots slot = some m) (ho : m.owner = some l)
    (hl : m.life = .halted) (hh : m.held ≠ .created) :
    ∃ k, Tbl.get? (c.wakeResliced l).slots slot = some { m.reslice with cych := none, since := k } := by
  have hmem : slot ∈ c.owned l := (Core.mem_owned hs).2 (by rw [Core.micro, hm]; exact ho)
  refine Core.SlotsMove.foldl_at Core.resliceOne_moves (P := fun a b => ∀ m, a = some m → m.life = .halted → m.held ≠ .created →
    ∃ k, b = some { m.reslice with cych := none, since := k }) (fun c x m hm hl hh => ?_) (Core.owned_nodup hs) c hmem m hm hl hh
  have hmicro : c.micro x = m := by rw [Core.micro, hm]; rfl
  rw [Core.resliceOne, hmicro, hl]
  dsimp only
  rw [if_neg hh]
  exact ⟨_, Core.stamp_modMicro hm _⟩

end
end Sys2Proof.Machine

/-! What a recut leaves of halted micro-threads and of the core (R33, R37). -/

namespace Sys2Proof.Machine

section
variable {s t u : State} {n l slot k : Nat} {c d e : Core} {m : Micro} {own : Nat → Prop}

/-- The micro-thread `u` is `m` but for its part in levels (R267). -/
def Micro.LevelsLeft (m u : Micro) : Prop := u = { m with late := u.late, arrived := u.arrived, lvWaits := u.lvWaits }

theorem Micro.LevelsLeft.life {u : Micro} (h : m.LevelsLeft u) : u.life = m.life := by rw [h]

/-- Halted micro-threads keep all but their part in levels. -/
def Core.HaltedKeep (c d : Core) : Prop :=
  ∀ x m, Tbl.get? c.slots x = some m → m.life = .halted → ∃ u, Tbl.get? d.slots x = some u ∧ m.LevelsLeft u

theorem Core.HaltedKeep.of_slots (h : d.slots = c.slots) : c.HaltedKeep d := fun _ m hm _ => ⟨m, h ▸ hm, rfl⟩

theorem Core.HaltedKeep.trans (h : c.HaltedKeep d) (h' : d.HaltedKeep e) : c.HaltedKeep e := by
  intro x m hm hl
  obtain ⟨u, hu, hmu⟩ := h x m hm hl
  obtain ⟨w, hw, huw⟩ := h' x u hu (hmu.life.trans hl)
  exact ⟨w, hw, by rw [Micro.LevelsLeft, huw, hmu]⟩

theorem Core.HaltedKeep.modMicro {f : Micro → Micro} (hf : ∀ m : Micro, m.LevelsLeft (f m)) (c : Core) (slot : Nat) :
    c.HaltedKeep (c.modMicro slot f) := by
  intro x m hm _
  by_cases hx : x = slot
  · subst hx
    have hmicro : c.micro x = m := by rw [Core.micro, hm]; rfl
    exact ⟨f m, by rw [← hmicro]; exact Tbl.get?_set_self _ _ _, hf m⟩
  · exact ⟨m, (Tbl.get?_set_other _ _ _ _ hx).trans hm, rfl⟩

theorem Core.refresh_halted (h : (c.micro slot).life = .halted) : c.refresh slot = c := by
  unfold Core.refresh
  dsimp only
  rw [h]
  exact ite_self _

theorem Core.HaltedKeep.refresh (c : Core) (slot : Nat) : c.HaltedKeep (c.refresh slot) := by
  intro x m hm hl
  by_cases hx : x = slot
  · subst hx
    rw [Core.refresh_halted (by rw [Core.micro, hm]; exact hl)]
    exact ⟨m, hm, rfl⟩
  · exact ⟨m, ((c.refresh_slots slot).2 x hx).trans hm, rfl⟩

/-- Levels have moved, and with them only the slots `own`. -/
structure Recuts (n l : Nat) (own : Nat → Prop) (s t : State) : Prop where
  moves : LevelsMove n l s t
  core : t.core n = { s.core n with slots := (t.core n).slots, eligible := (t.core n).eligible, res := (t.core n).res }
  launches : (t.core n).launches = (s.core n).launches
  slots : ∀ x, ¬ own x → Tbl.get? (t.core n).slots x = Tbl.get? (s.core n).slots x
  halted : (s.core n).HaltedKeep (t.core n)

theorem Recuts.of_core (hm : LevelsMove n l s t) (h : t.core n = s.core n) : Recuts n l own s t :=
  ⟨hm, by rw [h], by rw [h], fun _ _ => by rw [h], .of_slots (by rw [h])⟩

theorem Recuts.refl (n l : Nat) (own : Nat → Prop) (s : State) : Recuts n l own s s := .of_core (.refl n l s) rfl

theorem Recuts.trans (h : Recuts n l own s t) (h' : Recuts n l own t u) : Recuts n l own s u :=
  ⟨h.moves.trans h'.moves, by rw [h'.core, h.core], h'.launches.trans h.launches, fun x hx => (h'.slots x hx).trans (h.slots x hx),
    h.halted.trans h'.halted⟩

theorem Recuts.of_fences (h : OnlyFences s t) : Recuts n l own s t := .of_core (.of_fences h) (h.core n)

theorem Recuts.foldl {α : Type} {f : State → α → State} {xs : List α} {s : State}
    (hf : ∀ t, Recuts n l own s t → ∀ x ∈ xs, Recuts n l own t (f t x)) : Recuts n l own s (xs.foldl f s) := by
  have h : ∀ (ys : List α) t, (∀ y ∈ ys, y ∈ xs) → Recuts n l own s t → Recuts n l own s (ys.foldl f t) := by
    intro ys
    induction ys with
    | nil => exact fun _ _ h => h
    | cons y ys ih =>
      exact fun t hy h => ih _ (fun z hz => hy z (List.mem_cons_of_mem _ hz)) (h.trans (hf t h y (hy y (List.mem_cons_self ..))))
  exact h xs s (fun _ h => h) (.refl n l own s)

theorem Recuts.modCore (hn : n < 80) {f : Core → Core} (hmove : LevelsMove n l s (s.modCore n f))
    (hslots : (s.core n).SlotsMove own (f (s.core n))) (hhalted : (s.core n).HaltedKeep (f (s.core n))) :
    Recuts n l own s (s.modCore n f) := by
  have hc := State.core_modCore_self s n f hn
  refine ⟨hmove, ?_, ?_, fun x hx => ?_, by rw [hc]; exact hhalted⟩
  · rw [hc, hslots.core]
  · rw [hc, hslots.core]
    rfl
  · rw [hc]
    exact hslots.others x hx

theorem Recuts.modMicro (hn : n < 80) (ho : own slot) {f : Micro → Micro} (hf : ∀ m : Micro, m.LevelsLeft (f m)) :
    Recuts n l own s (s.modMicro n slot f) :=
  .modCore hn (LevelsMove.modMicro hn fun m => by rw [hf m]) ((Core.SlotsMove.modMicro _ slot f).mono fun _ e => e ▸ ho)
    (.modMicro hf _ slot)

theorem Recuts.releaseLevel (hn : n < 80) (ho : own slot) (s : State) (dom : Nat) : Recuts n l own s (s.releaseLevel n l slot k dom) := by
  unfold State.releaseLevel
  dsimp only
  split
  · exact .refl n l own s
  · split
    · exact .modMicro hn ho fun _ => rfl
    · split
      · refine Recuts.trans (Recuts.modMicro hn ho ?_) (Recuts.trans (Recuts.of_fences (OnlyFences.addFence _ n l slot _ 1 dom))
          (Recuts.modCore hn (LevelsMove.refreshed hn ?_) (Core.SlotsMove.trans ((Core.SlotsMove.modMicro _ slot _).mono fun _ e => e ▸ ho)
            ((Core.SlotsMove.refresh _ slot).mono fun _ e => e ▸ ho)) (Core.HaltedKeep.trans (.modMicro ?_ _ slot) (.refresh _ slot))))
        · exact fun _ => rfl
        · exact fun _ => rfl
        · exact fun _ => rfl
      · exact .modMicro hn ho fun _ => rfl

theorem Core.launches_modify (c : Core) (l : Nat) {f : Res → Res} (hf : ∀ r, (f r).phase = r.phase) :
    ({ c with res := Tbl.modify c.res l f } : Core).launches = c.launches := by
  unfold Core.launches
  dsimp only
  induction c.res with
  | nil => rfl
  | cons p t ih =>
    obtain ⟨j, r⟩ := p
    rw [Tbl.modify]
    split
    · simp only [List.filter_cons, hf]
      split <;> rfl
    · simp only [List.filter_cons]
      split
      · rw [List.map_cons, ih, List.map_cons]
      · exact ih

theorem Recuts.modLevel (hn : n < 80) (f : Level → Level) : Recuts n l own s (s.modLevel n l k f) := by
  have hc : (s.modLevel n l k f).core n = { s.core n with res := Tbl.modify (s.core n).res l fun r => r.modLevel k f } :=
    State.modRes_core _ _ _ _ hn
  refine ⟨.modLevel hn f, by rw [hc], ?_, fun x _ => by rw [hc], .of_slots (by rw [hc])⟩
  rw [hc]
  exact Core.launches_modify _ _ fun _ => rfl

theorem Recuts.completeSet (hn : n < 80) (s : State) (i : Nat) {slots : List Nat} (ho : ∀ x ∈ slots, own x) :
    Recuts n l own s (s.completeSet n l k i slots) :=
  ((Recuts.foldl fun t _ x hx => Recuts.releaseLevel hn (ho x hx) t domSet).trans (Recuts.of_fences (OnlyFences.settle _))).trans
    (Recuts.modLevel hn _)

theorem mem_of_chunks_go {α : Type} {g j : Nat} {xs p : List α} {x : α} (hp : p ∈ chunks.go g j xs) (hx : x ∈ p) : x ∈ xs := by
  induction j generalizing xs with
  | zero => exact nomatch hp
  | succ j ih =>
    rw [chunks.go] at hp
    split at hp
    · exact nomatch hp
    · rcases List.mem_cons.1 hp with rfl | hp
      · exact List.mem_of_mem_take hx
      · exact List.mem_of_mem_drop (ih hp)

theorem Core.mem_of_sets {c : Core} {p : List Nat} {x : Nat} (hp : p ∈ c.sets l) (hx : x ∈ p) : x ∈ c.owned l := mem_of_chunks_go hp hx

theorem Recuts.completeSets (hn : n < 80) (s : State) (ho : ∀ p ∈ (s.core n).sets l, ∀ x ∈ p, own x) :
    Recuts n l own s (s.completeSets n l k) := by
  refine Recuts.foldl fun t _ p hp => ?_
  obtain ⟨i, hi, rfl⟩ := List.mem_mapIdx.1 hp
  split
  · split
    · exact Recuts.completeSet hn t _ (ho _ (List.getElem_mem hi))
    · exact .refl n l own t
  · exact .refl n l own t

/-- A recut of a launch's levels reaches its own slots. -/
theorem Recuts.recutLevels (hn : n < 80) (s : State) (hs : Tbl.sorted (s.core n).slots = true) :
    Recuts n l (· ∈ (s.core n).owned l) s (s.recutLevels n l) := by
  unfold State.recutLevels
  split
  · exact .refl n l _ s
  · refine Recuts.foldl fun t ht k _ => ?_
    split
    · have hmod (f : Level → Level) : Recuts n l (· ∈ (s.core n).owned l) t (t.modLevel n l k f) := .modLevel hn f
      refine (hmod _).trans (Recuts.completeSets hn _ fun p hp x hx => ?_)
      rw [(ht.trans (hmod _)).moves.sets hs] at hp
      exact Core.mem_of_sets hp hx
    · exact .refl n l _ t

/-- A recut: the accumulators move, and the levels. -/
theorem State.recut_recuts (hn : n < 80) (s : State) (hs : Tbl.sorted (s.core n).slots = true) (old : List (List Nat)) :
    ∃ f : Res → Res, (∀ r, f r = { r with xacs := (f r).xacs }) ∧
      Recuts n l (· ∈ (s.core n).owned l) (s.modRes n l f) (s.recut n l old) := by
  unfold State.recut
  dsimp only
  split
  · refine ⟨fun r => r, fun _ => rfl, ?_⟩
    rw [State.modRes_id]
    exact .refl n l _ s
  · refine ⟨fun r => { r with xacs := recutXacs r.xacs old ((s.core n).sets l) }, fun _ => rfl, ?_⟩
    have hc := State.modRes_core s n l (fun r => { r with xacs := recutXacs r.xacs old ((s.core n).sets l) }) hn
    have := Recuts.recutLevels (l := l) hn (s.modRes n l fun r => { r with xacs := recutXacs r.xacs old ((s.core n).sets l) }) (by rw [hc]; exact hs)
    rw [hc] at this
    exact this

end
end Sys2Proof.Machine

/-! The grant at a resume (R37). -/

namespace Sys2Proof.Machine

section
variable {s t u : State} {n l slot : Nat} {c d : Core} {m : Micro} {r : Res}

/-- What a resume's grant leaves of the core and its other launches. -/
structure Regrants (n l : Nat) (s t : State) : Prop where
  mem : t.mem = s.mem
  core : t.core n = { s.core n with slots := (t.core n).slots, eligible := (t.core n).eligible, res := (t.core n).res }
  others : ∀ k, k ≠ l → t.res? n k = s.res? n k
  launches : (t.core n).launches = (s.core n).launches
  micros : ∀ x m, s.microAt n x = some m → m.owner ≠ some l → t.microAt n x = some m

/-- A change of the micro-threads of the launch alone. -/
theorem Regrants.of_slots (hn : n < 80) (hs : Tbl.sorted (s.core n).slots = true) {f : Core → Core}
    (h : (s.core n).SlotsMove (· ∈ (s.core n).owned l) (f (s.core n))) : Regrants n l s (s.modCore n f) ∧ (s.modCore n f).res? n l = s.res? n l := by
  have hc := State.core_modCore_self s n f hn
  have hres (k : Nat) : (s.modCore n f).res? n k = s.res? n k := by rw [State.res?, hc, h.core, State.res?]
  refine ⟨⟨State.modCore_mem _ _ _, ?_, fun k _ => hres k, ?_, fun x m hm ho => ?_⟩, hres l⟩
  · rw [hc, h.core]
  · rw [hc, h.core]
    rfl
  · rw [State.microAt, hc, h.others x, ← State.microAt, hm]
    rw [Core.mem_owned hs, State.micro_of_microAt hm]
    exact ho

theorem Regrants.of_launch (hn : n < 80) {f : Res → Res} (hf : ∀ r, (f r).phase = r.phase) : Regrants n l s (s.modRes n l f) := by
  have hc := State.modRes_core s n l f hn
  refine ⟨State.modCore_mem _ _ _, by rw [hc], fun k hk => ?_, ?_, fun x m hm _ => ?_⟩
  · rw [State.res?_modRes hn]
    simp [hk]
  · rw [hc]
    exact Core.launches_modify _ _ hf
  · rw [State.microAt, hc]
    exact hm

theorem Regrants.of_recut (hs : Tbl.sorted (s.core n).slots = true) (h : Recuts n l (· ∈ (s.core n).owned l) s t) : Regrants n l s t := by
  refine ⟨h.moves.mem, h.core, h.moves.others, h.launches, fun x m hm ho => ?_⟩
  rw [State.microAt, h.slots x, ← State.microAt, hm]
  rw [Core.mem_owned hs, State.micro_of_microAt hm]
  exact ho

theorem Regrants.trans (h : Regrants n l s t) (h' : Regrants n l t u) : Regrants n l s u :=
  ⟨h'.mem.trans h.mem, by rw [h'.core, h.core], fun k hk => (h'.others k hk).trans (h.others k hk), h'.launches.trans h.launches,
    fun x m hm ho => h'.micros x m (h.micros x m hm ho) ho⟩

/-- The grant that a resumed launch gets (R31, R37). -/
def Res.sized (r : Res) (c : Core) : Nat := grantFor c.cap (r.setw.getD 0#64).toNat

/-- With its grant, or none, a launch goes on where it stood (R29). -/
theorem State.resumeGrant_same (hn : n < 80) (hs : Tbl.sorted (s.core n).slots = true) (hr : s.res? n l = some r)
    (hg : r.grant = none ∨ r.grant = some (r.sized (s.core n))) :
    let t := s.resumeGrant n l
    Regrants n l s t ∧ t.res? n l = some r ∧ ∀ x m, s.microAt n x = some m → m.owner = some l → m.life = .halted →
      m.held ∈ [.called, .free, .parked, .faulted] → ∃ u, t.microAt n x = some u ∧ m.GoesOn u := by
  have ht : s.resumeGrant n l = s.modCore n fun c => c.wakeSame l := by
    unfold State.resumeGrant
    rw [hr]
    dsimp only
    rcases hg with h | h
    · rw [h]
    · rw [h]
      exact if_pos rfl
  obtain ⟨h1, h2⟩ := Regrants.of_slots (f := fun c => c.wakeSame l) hn hs ((s.core n).wakeSame_moves l)
  rw [ht]
  refine ⟨h1, h2.trans hr, fun x m hm ho hl hh => ?_⟩
  rw [State.microAt, State.core_modCore_self _ _ _ hn]
  exact Core.wakeSame_goesOn hs hm ho hl hh

/-- A launch as another grant leaves it: its caller enters at CRESLICE (R37). -/
def Res.Resliced (old new : Nat) (r q : Res) : Prop :=
  q = { r with grant := some new, levels := q.levels, xacs := q.xacs, caller := q.caller } ∧
    q.caller.pc = BitVec.ofNat 64 (recNat r.record 32 8) ∧ q.caller.reg 10#5 = BitVec.ofNat 64 old ∧ q.caller.reg 11#5 = BitVec.ofNat 64 new

/-- The caller at CRESLICE, with the old and the new grant (R37). -/
def Caller.enterReslice (entry : DWord) (old new : Nat) (h : Caller) : Caller :=
  { (h.setReg 10#5 (BitVec.ofNat 64 old)).setReg 11#5 (BitVec.ofNat 64 new) with pc := entry }

theorem Caller.enterReslice_regs (entry : DWord) (old new : Nat) (h : Caller) :
    (h.enterReslice entry old new).reg 10#5 = BitVec.ofNat 64 old ∧ (h.enterReslice entry old new).reg 11#5 = BitVec.ofNat 64 new := by
  unfold Caller.enterReslice Caller.setReg Caller.reg
  constructor <;> simp

/-- With another grant a launch is re-sliced (R37). -/
theorem State.resumeGrant_resliced (hn : n < 80) (hs : Tbl.sorted (s.core n).slots = true) (hr : s.res? n l = some r) {old : Nat}
    (hg : r.grant = some old) (hne : r.sized (s.core n) ≠ old) :
    let t := s.resumeGrant n l
    Regrants n l s t ∧ (∃ q, t.res? n l = some q ∧ r.Resliced old (r.sized (s.core n)) q) ∧
      ∀ x m, s.microAt n x = some m → m.owner = some l → m.life = .halted → m.held ≠ .created →
        ∃ w k, m.LevelsLeft w ∧ t.microAt n x = some { w.reslice with cych := none, since := k } := by
  obtain ⟨new, hnew⟩ : ∃ new, r.sized (s.core n) = new := ⟨_, rfl⟩
  rw [hnew] at hne ⊢
  obtain ⟨a, ha⟩ : ∃ a, s.modRes n l (fun r => { r with grant := some new }) = a := ⟨_, rfl⟩
  have haslots : (a.core n).slots = (s.core n).slots := by rw [← ha, State.modRes_core _ _ _ _ hn]
  obtain ⟨f, hf, hcut⟩ := State.recut_recuts (l := l) hn a (by rw [haslots]; exact hs) ((s.core n).sets l)
  obtain ⟨b, hb⟩ : ∃ b, a.modRes n l f = b := ⟨_, rfl⟩
  obtain ⟨d, hd⟩ : ∃ d, a.recut n l ((s.core n).sets l) = d := ⟨_, rfl⟩
  obtain ⟨e, he⟩ : ∃ e, d.modCore n (fun c => c.wakeResliced l) = e := ⟨_, rfl⟩
  have hbslots : (b.core n).slots = (s.core n).slots := by rw [← hb, State.modRes_core _ _ _ _ hn, haslots]
  have hsb : Tbl.sorted (b.core n).slots = true := by rw [hbslots]; exact hs
  have howned : (b.core n).owned l = (a.core n).owned l := by rw [Core.owned, hbslots, ← haslots, Core.owned]
  rw [hb, hd, ← howned] at hcut
  have hsd : Tbl.sorted (d.core n).slots = true := hcut.moves.sorted hsb
  have hab : Regrants n l s b :=
    (ha ▸ Regrants.of_launch hn fun _ => rfl : Regrants n l s a).trans (hb ▸ Regrants.of_launch hn fun r => by rw [hf r])
  obtain ⟨hde, heres⟩ := Regrants.of_slots (f := fun c => c.wakeResliced l) hn hsd ((d.core n).wakeResliced_moves l)
  rw [he] at hde heres
  have ht : s.resumeGrant n l = e.modRes n l fun q =>
      { q with caller := q.caller.enterReslice (BitVec.ofNat 64 (recNat r.record 32 8)) old new } := by
    unfold State.resumeGrant
    rw [hr]
    dsimp only
    rw [hg]
    dsimp only
    rw [show grantFor (s.core n).cap (r.setw.getD 0#64).toNat = new from hnew, if_neg hne, ha, hd, he]
    rfl
  rw [ht]
  refine ⟨(hab.trans (.of_recut hsb hcut)).trans (hde.trans (.of_launch hn fun _ => rfl)), ?_, fun x m hm ho hl hh => ?_⟩
  · have har : a.res? n l = some { r with grant := some new } := ha ▸ State.res?_modRes_self hn hr
    have hbr : b.res? n l = some (f { r with grant := some new }) := hb ▸ State.res?_modRes_self hn har
    obtain ⟨lv, hdr⟩ := hcut.moves.res? hbr
    have her := heres.trans hdr
    refine ⟨_, State.res?_modRes_self hn her, ?_, ?_⟩
    · rw [hf]
    · exact ⟨rfl, Caller.enterReslice_regs _ _ _ _⟩
  · obtain ⟨w, hw, hmw⟩ := hcut.halted x m (by rw [hbslots]; exact hm) hl
    obtain ⟨k, hk⟩ := Core.wakeResliced_resliced hsd hw (by rw [hmw]; exact ho) (by rw [hmw]; exact hl) (by rw [hmw]; exact hh)
    refine ⟨w, k, hmw, ?_⟩
    rw [State.microAt, State.modRes_core _ _ _ _ hn, ← he, State.core_modCore_self _ _ _ hn]
    exact hk

end
end Sys2Proof.Machine

/-! CONTEXT_RESUME (R29, R37, R240, R288, R295). -/

namespace Sys2Proof.Machine

section
variable {s t u : State} {n l area ring slot : Nat} {c d : Core} {m : Micro} {r : Res} {v : SavedMem} {x : Launch}

/-! What a re-slice leaves of a micro-thread (R37). -/

theorem Micro.reslice_keeps (m : Micro) : m.reslice.regs = m.regs ∧ m.reslice.preds = m.preds ∧ m.reslice.gen = m.gen ∧
    m.reslice.pos = m.pos ∧ m.reslice.fault = m.fault := by
  unfold Micro.reslice
  split
  · exact ⟨rfl, rfl, rfl, rfl, rfl⟩
  · exact ⟨rfl, rfl, rfl, rfl, rfl⟩
  · exact ⟨rfl, rfl, rfl, rfl, rfl⟩

theorem Micro.nextFig_between (h : m.pos = none) : m.nextFig.getD 0#32 = if m.mode = .free then m.pc else m.callq.headD 0#32 := by
  unfold Micro.nextFig
  rw [h]
  cases m.mode
  · simp [List.headD_eq_head?_getD]
  · rfl

theorem Micro.reslice_between (hf : m.fault = none) (hp : m.pos = none) : m.reslice.life = .called ∧ m.reslice.mode = .called ∧
    m.reslice.callq = [] ∧ m.reslice.resume = if m.mode = .free then m.pc else m.callq.headD 0#32 := by
  rw [← Micro.nextFig_between hp]
  unfold Micro.reslice
  rw [hf, hp]
  exact ⟨rfl, rfl, rfl, rfl⟩

theorem Micro.reslice_faulted (hf : m.fault ≠ none) : m.reslice.life = m.held ∧ m.reslice.mode = m.mode := by
  obtain ⟨i, hi⟩ := Option.ne_none_iff_exists'.1 hf
  unfold Micro.reslice
  rw [hi]
  exact ⟨rfl, rfl⟩

/-! The launch as its image gives it back. -/

/-- A halted micro-thread of the launch as a resume restores it (R289). -/
def State.backMicro (s : State) (n l area slot : Nat) (m : Micro) : Micro :=
  { s.imageMicro area (s.core n) l slot m with parkedOn := [], codePark := none }

section
variable (h : Restored n l area r v s t)
include h

theorem Restored.microAt_own (hm : s.microAt n slot = some m) (ho : m.owner = some l) :
    t.microAt n slot = some (s.backMicro n l area slot m) := by
  rw [State.microAt] at hm
  rw [State.microAt, h.slots, Tbl.get?_mapKV, hm, Option.map_some, if_pos ho, Micro.unparked]
  exact congrArg some (if_pos ho)

theorem Restored.microAt_other (hm : s.microAt n slot = some m) (ho : m.owner ≠ some l) : t.microAt n slot = some m := by
  rw [State.microAt] at hm
  rw [State.microAt, h.slots, Tbl.get?_mapKV, hm, Option.map_some, if_neg ho, Micro.unparked, if_neg ho]

theorem Restored.res?_other {k : Nat} (hk : k ≠ l) : t.res? n k = s.res? n k := by
  obtain ⟨tiles, units, hres⟩ := h.launch
  rw [State.res?, hres]
  exact Tbl.get?_modify_other _ _ _ _ hk

theorem Restored.res? (hr : s.res? n l = some r) :
    ∃ tiles units, t.res? n l = some ((s.imageRes area ((s.core n).sets l).length r).resumed tiles units) := by
  obtain ⟨tiles, units, hres⟩ := h.launch
  refine ⟨tiles, units, ?_⟩
  rw [State.res?] at hr
  rw [State.res?, hres, Tbl.get?_modify_self, hr]
  rfl

theorem Restored.sorted (hs : Tbl.sorted (s.core n).slots = true) : Tbl.sorted (t.core n).slots = true := by
  rw [h.slots]
  exact Tbl.sorted_mapKV _ hs

end

/-! The event. -/

theorem State.resumedAll_dsc (s : State) (l : Nat) : s.resumedAll l = { s with dsc := (s.resumedAll l).dsc } := by
  unfold State.resumedAll
  split
  · rfl
  · dsimp only
    split
    · rfl
    · rfl

/-- After the grant, fences are settled and the scheduler told: the core and the memory stay. -/
theorem State.resumeOn_ends (h : r.spill = []) : let g := (s.restored n l area r v).resumeGrant n l
    (s.resumeOn n l area r v).mem = g.mem ∧ ∀ k, (s.resumeOn n l area r v).core k = g.core k := by
  have hset := OnlyFences.settle ((s.restored n l area r v).resumeGrant n l)
  rw [State.resumeOn_eq h, State.resumedAll_dsc]
  exact ⟨hset.mem, hset.core⟩

theorem exec_contextResume_fits (hr : s.res? n l = some r) (hx : s.launch? l = some x) (hp : r.phase = .saved) (hv : r.saved = some v)
    (hst : x.state = .resuming ∨ x.state = .placed)
    (hfits : ∀ k ∈ x.cores, ∃ q, s.res? k l = some q ∧
      (q.phase = .resident ∨ (q.phase = .saved ∧ (s.core k).fitsAgain l x.record [] = true)))
    (ha : Tbl.get? x.areas n = some (area, ring)) (hi : s.imageRefused n l area ring r.ringNext = none) :
    exec (.contextResume n l) s = .next (s.resumeOn n l area r v) := by
  have harea : s.areaOf n l = some (area, ring) := by rw [State.areaOf, hx]; exact ha
  have hmay : s.mayResume l x = true := by
    rw [State.mayResume, Bool.and_eq_true]
    refine ⟨by rcases hst with h | h <;> simp [h], List.all_eq_true.2 fun k hk => ?_⟩
    obtain ⟨q, hq, hq'⟩ := hfits k hk
    rw [hq]
    rcases hq' with h | ⟨h, h'⟩ <;> simp [*]
  rw [exec_contextResume, execContextResume, hx, hr, harea]
  dsimp only
  rw [hp, hv]
  dsimp only
  rw [if_neg (by simp [hmay]), hi]

/-- The grant of a restored launch: what both ways of going on have in common, and each (R29, R37). -/
structure TakesGrant (n l : Nat) (r q : Res) (s t : State) : Prop where
  keeps : q = { r with grant := q.grant, levels := q.levels, xacs := q.xacs, caller := q.caller }
  same : r.grant = none ∨ r.grant = some (r.sized (s.core n)) → q = r ∧
    ∀ x m, s.microAt n x = some m → m.owner = some l → m.life = .halted → m.held ∈ [.called, .free, .parked, .faulted] →
      ∃ u, t.microAt n x = some u ∧ m.GoesOn u
  resliced : ∀ old, r.grant = some old → r.sized (s.core n) ≠ old → r.Resliced old (r.sized (s.core n)) q ∧
    ∀ x m, s.microAt n x = some m → m.owner = some l → m.life = .halted → m.held ≠ .created →
      ∃ w k, m.LevelsLeft w ∧ t.microAt n x = some { w.reslice with cych := none, since := k }

theorem State.resumeGrant_takesGrant (hn : n < 80) (hs : Tbl.sorted (s.core n).slots = true) (hr : s.res? n l = some r) :
    Regrants n l s (s.resumeGrant n l) ∧ ∃ q, (s.resumeGrant n l).res? n l = some q ∧ TakesGrant n l r q s (s.resumeGrant n l) := by
  by_cases hg : r.grant = none ∨ r.grant = some (r.sized (s.core n))
  · obtain ⟨h1, h2, h3⟩ := State.resumeGrant_same hn hs hr hg
    refine ⟨h1, r, h2, rfl, fun _ => ⟨rfl, h3⟩, fun old ho hne => absurd hg ?_⟩
    rw [ho]
    simpa using Ne.symm hne
  · obtain ⟨hnone, hsome⟩ := not_or.1 hg
    obtain ⟨old, ho⟩ := Option.ne_none_iff_exists'.1 hnone
    have hne : r.sized (s.core n) ≠ old := fun e => hsome (by rw [ho, e])
    obtain ⟨h1, ⟨q, h2, h3⟩, h4⟩ := State.resumeGrant_resliced hn hs hr ho hne
    refine ⟨h1, q, h2, ?_, fun h => absurd h hg, fun old' ho' _ => ?_⟩
    · rw [h3.1]
    · obtain rfl := Option.some.inj (ho.symm.trans ho')
      exact ⟨h3, h4⟩

end
end Sys2Proof.Machine

/-! CONTEXT_RESUME, put together (R37, R295). -/

namespace Sys2Proof.Machine

section
variable {s t u : State} {n l area ring slot : Nat} {c d : Core} {m : Micro} {r : Res} {v : SavedMem} {x : Launch}

/-- What a resumed launch has from its image, whatever its grant (R295). -/
theorem Res.resumed_fields {r' q : Res} {tiles units : List Nat}
    (h : q = { r'.resumed tiles units with grant := q.grant, levels := q.levels, xacs := q.xacs, caller := q.caller }) :
    q.phase = .resident ∧ q.saved = none ∧ q.spill = [] ∧ q.ringNext = 0 ∧ q.record = r'.record ∧ q.mbox = r'.mbox ∧
      q.latches = r'.latches ∧ q.sent = r'.sent ∧ q.received = r'.received ∧ q.walker = r'.walker := by
  generalize q.grant = a, q.levels = b, q.xacs = d, q.caller = e at h
  subst h
  exact ⟨rfl, rfl, rfl, rfl, rfl, rfl, rfl, rfl, rfl, rfl⟩

/-- What a re-sliced micro-thread of the launch has from its image (R37, R289). -/
theorem Micro.resliced_back {b y w : Micro} {k : Nat} (hy : ({ b with parkedOn := [], codePark := none } : Micro).LevelsLeft y)
    (hw : w = { y.reslice with cych := none, since := k }) : w.regs = b.regs ∧ w.preds = b.preds ∧ w.gen = b.gen ∧
      w.pos = b.pos ∧ w.fault = b.fault ∧
      (b.fault = none → b.pos = none → w.life = .called ∧ w.mode = .called ∧ w.callq = [] ∧
        w.resume = if b.mode = .free then b.pc else b.callq.headD 0#32) ∧
      (b.fault ≠ none → w.life = b.held ∧ w.mode = b.mode) := by
  unfold Micro.LevelsLeft at hy
  generalize y.late = late, y.arrived = arrived, y.lvWaits = lv at hy
  subst hy hw
  obtain ⟨k1, k2, k3, k4, k5⟩ := Micro.reslice_keeps
    { b with parkedOn := [], codePark := none, late := late, arrived := arrived, lvWaits := lv }
  exact ⟨k1, k2, k3, k4, k5, fun hf hp => Micro.reslice_between hf hp, fun hf => Micro.reslice_faulted hf⟩

/-- What CONTEXT_RESUME leaves of a saved launch that fits its core. -/
theorem contextResume_resumes (hn : n < 80) (hr : s.res? n l = some r) (hx : s.launch? l = some x) (hp : r.phase = .saved)
    (hv : r.saved = some v) (hst : x.state = .resuming ∨ x.state = .placed)
    (hfits : ∀ k ∈ x.cores, ∃ q, s.res? k l = some q ∧
      (q.phase = .resident ∨ (q.phase = .saved ∧ (s.core k).fitsAgain l x.record [] = true)))
    (ha : Tbl.get? x.areas n = some (area, ring)) (hi : s.imageRefused n l area ring r.ringNext = none) (hspill : r.spill = [])
    (hs : Tbl.sorted (s.core n).slots = true) : Answers (.contextResume n l) s fun t =>
      let c := s.core n
      let r' := s.imageRes area (c.sets l).length r
      let v' := s.imageMem area v
      let back (slot : Nat) (m : Micro) : Micro := s.imageMicro area c l slot m
      ∃ q, t.res? n l = some q ∧ q.phase = .resident ∧ q.saved = none ∧ q.spill = [] ∧ q.ringNext = 0 ∧ q.record = r.record ∧
      q.mbox = r'.mbox ∧ q.latches = r'.latches ∧ q.sent = r.sent ∧ q.received = r.received ∧ q.walker = r'.walker ∧
      t.mem = (s.restoreBytes n l r v').mem ∧
      (v.tiles = [] → r.wbMap = [] → t.mem = Memory.writeN s.mem (poolAddr n (recNat r.record 60 4))
        (Memory.readN s.mem (s.sectionAt area 6) v.sp.length)) ∧
      (t.core n).mx = v.mx ++ c.mx ∧ (t.core n).trp = v.trp ++ c.trp ∧ (t.core n).gteq = v.gteq ++ c.gteq ∧
      (t.core n).inbox = v.inbox ++ c.inbox ∧ (t.core n).cwp = v'.cwp ∧
      (∀ k, k ≠ l → t.res? n k = s.res? n k) ∧
      (∀ slot m, s.microAt n slot = some m → m.owner ≠ some l → t.microAt n slot = some m) ∧
      let sized := grantFor (t.core n).cap (r'.setw.getD 0#64).toNat
      (r'.grant = none ∨ r'.grant = some sized → q.grant = r'.grant ∧ q.caller = r'.caller ∧ q.xacs = r'.xacs ∧
        ∀ slot m, s.microAt n slot = some m → m.owner = some l → m.life = .halted →
          m.held ∈ [.called, .free, .parked, .faulted] → ∃ u, t.microAt n slot = some u ∧
            u.life ∈ [.called, .free, .parked, .faulted] ∧ (u.life = .faulted ↔ m.held = .faulted) ∧
            u = { back slot m with
              life := u.life, parkedOn := [], codePark := none, cych := none, since := u.since, rearmed := u.rearmed }) ∧
      (∀ old, r'.grant = some old → sized ≠ old → q.grant = some sized ∧ q.caller.pc = BitVec.ofNat 64 (recNat r.record 32 8) ∧
        q.caller.reg 10#5 = BitVec.ofNat 64 old ∧ q.caller.reg 11#5 = BitVec.ofNat 64 sized ∧
        ∀ slot m, s.microAt n slot = some m → m.owner = some l → m.life = .halted → m.held ≠ .created → ∃ u,
          t.microAt n slot = some u ∧ u.regs = (back slot m).regs ∧ u.preds = (back slot m).preds ∧ u.gen = (back slot m).gen ∧
          u.pos = m.pos ∧ u.fault = m.fault ∧
          (m.fault = none → m.pos = none → u.life = .called ∧ u.mode = .called ∧ u.callq = [] ∧
            u.resume = (if m.mode = .free then (back slot m).pc else (back slot m).callq.headD 0#32)) ∧
          (m.fault ≠ none → u.life = m.held ∧ u.mode = m.mode)) := by
  obtain ⟨w, hw⟩ : ∃ w, s.restored n l area r v = w := ⟨_, rfl⟩
  obtain ⟨g, hg⟩ : ∃ g, w.resumeGrant n l = g := ⟨_, rfl⟩
  have hrest : Restored n l area r v s w := hw ▸ State.restored_restored hn s l area r v
  obtain ⟨tiles, units, hwr⟩ := hrest.res? hr
  obtain ⟨hgrant, q, hq, hgo⟩ := State.resumeGrant_takesGrant hn (hrest.sorted hs) hwr
  obtain ⟨hmem, hcore⟩ := State.resumeOn_ends (n := n) (l := l) (area := area) (v := v) (s := s) hspill
  rw [hg] at hgrant hq hgo
  simp only [hw, hg] at hmem hcore
  obtain ⟨t, ht⟩ : ∃ t, s.resumeOn n l area r v = t := ⟨_, rfl⟩
  rw [ht] at hmem hcore
  refine ⟨t, (exec_contextResume_fits hr hx hp hv hst hfits ha hi).trans (by rw [ht]), ?_⟩
  dsimp only
  have himage : (s.imageRes area ((s.core n).sets l).length r).record = r.record ∧ (s.imageRes area ((s.core n).sets l).length r).sent = r.sent ∧
    (s.imageRes area ((s.core n).sets l).length r).received = r.received := ⟨rfl, rfl, rfl⟩
  generalize s.imageRes area ((s.core n).sets l).length r = r' at himage hwr hgo ⊢
  obtain ⟨hrecord, hsent, hreceived⟩ := himage
  have hres (k : Nat) : t.res? n k = g.res? n k := by rw [State.res?, hcore, State.res?]
  have hmicro (x : Nat) : t.microAt n x = g.microAt n x := by rw [State.microAt, hcore, State.microAt]
  have htmem : t.mem = restoredMem n r (s.imageMem area v) ((s.core n).besides [l]) (s.core n).part s.mem := hmem.trans (hgrant.mem.trans hrest.mem)
  have hcap : (t.core n).cap = (w.core n).cap := by rw [hcore, Core.cap, hgrant.launches, Core.cap]
  obtain ⟨f1, f2, f3, f4, f5, f6, f7, f8, f9, f10⟩ := Res.resumed_fields hgo.keeps
  refine ⟨q, (hres l).trans hq, f1, f2, f3, f4, f5.trans hrecord, f6, f7, f8.trans hsent, f9.trans hreceived, f10, ?_, fun htiles hwb => ?_,
    ?_, ?_, ?_, ?_, ?_, fun k hk => ?_, fun slot m hm ho => ?_, ?_, ?_⟩
  · rw [htmem, (State.restoreBytes_restores hn s l r _).1]
  · rw [htmem, restoredMem_plain _ _ _ (by rw [State.imageMem, htiles]; rfl) hwb]
    rfl
  · rw [hcore, hgrant.core]
    exact hrest.mx
  · rw [hcore, hgrant.core]
    exact hrest.trp
  · rw [hcore, hgrant.core]
    exact hrest.gteq
  · rw [hcore, hgrant.core]
    exact hrest.inbox
  · rw [hcore, hgrant.core]
    exact hrest.cwp
  · rw [hres, hgrant.others k hk, hrest.res?_other hk]
  · rw [hmicro]
    exact hgrant.micros slot m (hrest.microAt_other hm ho) ho
  · intro hsame
    rw [hcap] at hsame
    obtain ⟨rfl, hmicros⟩ := hgo.same hsame
    refine ⟨rfl, rfl, rfl, fun slot m hm ho hl hh => ?_⟩
    rw [hmicro]
    exact hmicros slot _ (hrest.microAt_own hm ho) ho hl hh
  · intro old hold hne
    rw [hcap] at hne ⊢
    obtain ⟨⟨hq', hpc, h10, h11⟩, hmicros⟩ := hgo.resliced old hold hne
    refine ⟨by rw [hq']; rfl, hrecord ▸ hpc, h10, h11, fun slot m hm ho hl hh => ?_⟩
    obtain ⟨y, k, hy, hu⟩ := hmicros slot _ (hrest.microAt_own hm ho) ho hl hh
    exact ⟨_, (hmicro slot).trans hu, Micro.resliced_back hy rfl⟩

end
end Sys2Proof.Machine

/-! Pre-emption on a core (R285-R295). -/

namespace Sys2Proof.Proofs
open Sys2Proof Sys2Proof.Machine

/-- Settles O42: one lemma per event. -/
theorem preemptionResults : Obligations.PreemptionResults := by
  unfold Obligations.PreemptionResults
  intro s n l x r hs hn hr hx
  refine ⟨fun hst hp ha hg => preemptionRequest_results hs hn hr hx hst hp ha hg,
    fun line rest area ring hp hring hsig ha => eventSignal_caught hn hr hx hp hring ha hsig,
    fun src msg rest area ring hp hring hnet hl hk hb ha => spawnArrival_caught hn hr hx hp hring ha hnet hl hk hb,
    fun area ring hp he ha hq hd => contextSave_saves hs hn hr hx hp he ha hq hd,
    fun v area ring hp hv hst hfits ha hi hspill hsort => contextResume_resumes hn hr hx hp hv hst hfits ha hi hspill hsort,
    fun pre post e hc he hfrom hp hpre hparked hsort => corePark_parks hn hc he hfrom hp hpre hparked hsort,
    fun hparked => coreReset_resets hn hparked⟩

end Sys2Proof.Proofs

/-! Encoding and decoding: the halfwords of an instruction are read back as that instruction (R69-R86, R194, R305-R307). -/

namespace Sys2Proof

/-! A field of a word that is put together from fields: it lies above the lowest one, or in it. The width of the lowest field is a
numeral in each rule, so that `simp` finds the rule by the field's width. -/

section
variable {v start len : Nat} {x : BitVec v}

@[simp] theorem extract_above_1 {y : BitVec 1} (h : 1 ≤ start) : (x ++ y).extractLsb' start len = x.extractLsb' (start - 1) len :=
  BitVec.extractLsb'_append_eq_of_le h
@[simp] theorem extract_above_2 {y : BitVec 2} (h : 2 ≤ start) : (x ++ y).extractLsb' start len = x.extractLsb' (start - 2) len :=
  BitVec.extractLsb'_append_eq_of_le h
@[simp] theorem extract_above_3 {y : BitVec 3} (h : 3 ≤ start) : (x ++ y).extractLsb' start len = x.extractLsb' (start - 3) len :=
  BitVec.extractLsb'_append_eq_of_le h
@[simp] theorem extract_above_4 {y : BitVec 4} (h : 4 ≤ start) : (x ++ y).extractLsb' start len = x.extractLsb' (start - 4) len :=
  BitVec.extractLsb'_append_eq_of_le h
@[simp] theorem extract_above_5 {y : BitVec 5} (h : 5 ≤ start) : (x ++ y).extractLsb' start len = x.extractLsb' (start - 5) len :=
  BitVec.extractLsb'_append_eq_of_le h
@[simp] theorem extract_above_6 {y : BitVec 6} (h : 6 ≤ start) : (x ++ y).extractLsb' start len = x.extractLsb' (start - 6) len :=
  BitVec.extractLsb'_append_eq_of_le h
@[simp] theorem extract_above_7 {y : BitVec 7} (h : 7 ≤ start) : (x ++ y).extractLsb' start len = x.extractLsb' (start - 7) len :=
  BitVec.extractLsb'_append_eq_of_le h
@[simp] theorem extract_above_8 {y : BitVec 8} (h : 8 ≤ start) : (x ++ y).extractLsb' start len = x.extractLsb' (start - 8) len :=
  BitVec.extractLsb'_append_eq_of_le h

@[simp] theorem extract_within_1 {y : BitVec 1} (h : start + len ≤ 1) : (x ++ y).extractLsb' start len = y.extractLsb' start len :=
  BitVec.extractLsb'_append_eq_of_add_le h
@[simp] theorem extract_within_2 {y : BitVec 2} (h : start + len ≤ 2) : (x ++ y).extractLsb' start len = y.extractLsb' start len :=
  BitVec.extractLsb'_append_eq_of_add_le h
@[simp] theorem extract_within_3 {y : BitVec 3} (h : start + len ≤ 3) : (x ++ y).extractLsb' start len = y.extractLsb' start len :=
  BitVec.extractLsb'_append_eq_of_add_le h
@[simp] theorem extract_within_4 {y : BitVec 4} (h : start + len ≤ 4) : (x ++ y).extractLsb' start len = y.extractLsb' start len :=
  BitVec.extractLsb'_append_eq_of_add_le h
@[simp] theorem extract_within_5 {y : BitVec 5} (h : start + len ≤ 5) : (x ++ y).extractLsb' start len = y.extractLsb' start len :=
  BitVec.extractLsb'_append_eq_of_add_le h
@[simp] theorem extract_within_6 {y : BitVec 6} (h : start + len ≤ 6) : (x ++ y).extractLsb' start len = y.extractLsb' start len :=
  BitVec.extractLsb'_append_eq_of_add_le h
@[simp] theorem extract_within_7 {y : BitVec 7} (h : start + len ≤ 7) : (x ++ y).extractLsb' start len = y.extractLsb' start len :=
  BitVec.extractLsb'_append_eq_of_add_le h
@[simp] theorem extract_within_8 {y : BitVec 8} (h : start + len ≤ 8) : (x ++ y).extractLsb' start len = y.extractLsb' start len :=
  BitVec.extractLsb'_append_eq_of_add_le h

end

/-! The 32-bit formats (R79, R81, R194, R305), and the fields of a word in each. -/

/-- A word in format A. -/
def wordA (f7 : BitVec 7) (b a d maj : BitVec 6) : Word := f7 ++ b ++ a ++ d ++ maj ++ 1#1

/-- A word in format B. -/
def wordB (imm : BitVec 13) (a d maj : BitVec 6) : Word := imm ++ a ++ d ++ maj ++ 1#1

/-- A word in format C. -/
def wordC (f1 : BitVec 1) (c b a d maj : BitVec 6) : Word := f1 ++ c ++ b ++ a ++ d ++ maj ++ 1#1

/-- A trailer's word. -/
def wordT (off : BitVec 10) (aw : BitVec 8) (sense : BitVec 1) (p ctl : BitVec 3) : Word :=
  off ++ aw ++ sense ++ p ++ ctl ++ 0x3F#6 ++ 1#1

/-- A walker word (R305). -/
def wordW (imm : BitVec 11) (b a d : WReg) (op : BitVec 6) : Word := imm ++ b ++ a ++ d ++ op

/-- A word of an Xfig opcode (R194). -/
def wordX (f7 : BitVec 7) (rs2 rs1 : XReg) (f3 : BitVec 3) (rd : XReg) (op : BitVec 7) : Word := f7 ++ rs2 ++ rs1 ++ f3 ++ rd ++ op

section
variable (f7 : BitVec 7) (f1 : BitVec 1) (imm : BitVec 13) (c b a d maj : BitVec 6)

@[simp] theorem wordA_odd : (wordA f7 b a d maj).extractLsb' 0 1 = 1#1 := by simp [wordA]
@[simp] theorem wordA_major : (wordA f7 b a d maj).extractLsb' 1 6 = maj := by simp [wordA]
@[simp] theorem wordA_d : fD (wordA f7 b a d maj) = d := by simp [fD, wordA]
@[simp] theorem wordA_a : fA (wordA f7 b a d maj) = a := by simp [fA, wordA]
@[simp] theorem wordA_b : fB (wordA f7 b a d maj) = b := by simp [fB, wordA]
@[simp] theorem wordA_f7 : fF7 (wordA f7 b a d maj) = f7 := by simp [fF7, wordA]

@[simp] theorem wordB_odd : (wordB imm a d maj).extractLsb' 0 1 = 1#1 := by simp [wordB]
@[simp] theorem wordB_major : (wordB imm a d maj).extractLsb' 1 6 = maj := by simp [wordB]
@[simp] theorem wordB_d : fD (wordB imm a d maj) = d := by simp [fD, wordB]
@[simp] theorem wordB_a : fA (wordB imm a d maj) = a := by simp [fA, wordB]
@[simp] theorem wordB_imm : fImm13 (wordB imm a d maj) = imm := by simp [fImm13, wordB]

@[simp] theorem wordC_odd : (wordC f1 c b a d maj).extractLsb' 0 1 = 1#1 := by simp [wordC]
@[simp] theorem wordC_major : (wordC f1 c b a d maj).extractLsb' 1 6 = maj := by simp [wordC]
@[simp] theorem wordC_d : fD (wordC f1 c b a d maj) = d := by simp [fD, wordC]
@[simp] theorem wordC_a : fA (wordC f1 c b a d maj) = a := by simp [fA, wordC]
@[simp] theorem wordC_b : fB (wordC f1 c b a d maj) = b := by simp [fB, wordC]
@[simp] theorem wordC_c : fC (wordC f1 c b a d maj) = c := by simp [fC, wordC]
@[simp] theorem wordC_f1 : fF1 (wordC f1 c b a d maj) = f1 := by simp [fF1, wordC]

end

section
variable (off : BitVec 10) (aw : BitVec 8) (sense : BitVec 1) (p ctl : BitVec 3)

@[simp] theorem wordT_odd : (wordT off aw sense p ctl).extractLsb' 0 1 = 1#1 := by simp [wordT]
@[simp] theorem wordT_major : (wordT off aw sense p ctl).extractLsb' 1 6 = 0x3F#6 := by simp [wordT]
@[simp] theorem wordT_control : (wordT off aw sense p ctl).extractLsb' 7 3 = ctl := by simp [wordT]
@[simp] theorem wordT_p : (wordT off aw sense p ctl).extractLsb' 10 3 = p := by simp [wordT]
@[simp] theorem wordT_sense : (wordT off aw sense p ctl).extractLsb' 13 1 = sense := by simp [wordT]
@[simp] theorem wordT_await : (wordT off aw sense p ctl).extractLsb' 14 8 = aw := by simp [wordT]
@[simp] theorem wordT_off : (wordT off aw sense p ctl).extractLsb' 22 10 = off := by simp [wordT]

end

section
variable (imm : BitVec 11) (b a d : WReg) (op : BitVec 6)

@[simp] theorem wordW_op : (wordW imm b a d op).extractLsb' 0 6 = op := by simp [wordW]
@[simp] theorem wordW_d : wD (wordW imm b a d op) = d := by simp [wD, wordW]
@[simp] theorem wordW_a : wA (wordW imm b a d op) = a := by simp [wA, wordW]
@[simp] theorem wordW_b : wB (wordW imm b a d op) = b := by simp [wB, wordW]
@[simp] theorem wordW_imm : wImm (wordW imm b a d op) = imm := by simp [wImm, wordW]

end

section
variable (f7 : BitVec 7) (rs2 rs1 : XReg) (f3 : BitVec 3) (rd : XReg) (op : BitVec 7)

@[simp] theorem wordX_op : (wordX f7 rs2 rs1 f3 rd op).extractLsb' 0 7 = op := by simp [wordX]
@[simp] theorem wordX_rd : xRd (wordX f7 rs2 rs1 f3 rd op) = rd := by simp [xRd, wordX]
@[simp] theorem wordX_f3 : (wordX f7 rs2 rs1 f3 rd op).extractLsb' 12 3 = f3 := by simp [wordX]
@[simp] theorem wordX_rs1 : xRs1 (wordX f7 rs2 rs1 f3 rd op) = rs1 := by simp [xRs1, wordX]
@[simp] theorem wordX_rs2 : xRs2 (wordX f7 rs2 rs1 f3 rd op) = rs2 := by simp [xRs2, wordX]
@[simp] theorem wordX_f7 : xF7 (wordX f7 rs2 rs1 f3 rd op) = f7 := by simp [xF7, wordX]

end

/-! Operand fields narrower than a register code (R76). -/

section
variable (p : BitVec 3) (t : BitVec 4) (k : BitVec 2)

@[simp] theorem lo3_padded : lo3 (0#3 ++ p) = p := by simp [lo3]
@[simp] theorem hi3_padded : hi3 (0#3 ++ p) = 0#3 := by simp [hi3]
@[simp] theorem lo4_padded : lo4 (0#2 ++ t) = t := by simp [lo4]
@[simp] theorem hi2_padded : hi2 (0#2 ++ t) = 0#2 := by simp [hi2]
@[simp] theorem lo2_padded : lo2 (0#4 ++ k) = k := by simp [lo2]
@[simp] theorem hi4_padded : hi4 (0#4 ++ k) = 0#4 := by simp [hi4]

end

/-! A predicate in the low half of field d, and what stands above it (R86, R106). -/

theorem lo3_fD (w : Word) : lo3 (fD w) = w.extractLsb' 7 3 := by
  refine BitVec.eq_of_toNat_eq ?_
  simp [lo3, fD, Nat.shiftRight_eq_div_pow]

theorem hi3_fD (w : Word) : hi3 (fD w) = w.extractLsb' 10 3 := by
  refine BitVec.eq_of_toNat_eq ?_
  simp [hi3, fD, Nat.shiftRight_eq_div_pow]
  omega

/-- An instruction whose unused fields are zero is read (R78). -/
@[simp] theorem chk_of {ok : Prop} [Decidable ok] {i : Instr} (h : ok) : chk ok i = .ok i := if_pos h

/-! Two halfwords and the word they make (R71). -/

theorem joinHalves_of_word (w : Word) : joinHalves (w.extractLsb' 0 16) (w.extractLsb' 16 16) = w :=
  (BitVec.extractLsb'_append_extractLsb'_eq_extractLsb' rfl).trans BitVec.extractLsb'_eq_self

theorem extract_low_half (w : Word) {start len : Nat} (h : start + len ≤ 16) :
    (w.extractLsb' 0 16).extractLsb' start len = w.extractLsb' start len :=
  BitVec.extractLsb'_extractLsb'_of_le h

theorem low_seven {w : Word} {maj : BitVec 6} (hodd : w.extractLsb' 0 1 = 1#1) (hmaj : w.extractLsb' 1 6 = maj) :
    w.extractLsb' 0 7 = maj ++ 1#1 := by
  rw [← hodd, ← hmaj]
  exact Eq.symm (BitVec.extractLsb'_append_extractLsb'_eq_extractLsb' (by rfl))

theorem isTrailerWord_of_major {w : Word} (h : w.extractLsb' 1 6 ≠ 0x3F#6) : isTrailerWord w = false := by
  refine beq_eq_false_iff_ne.2 fun he => h ?_
  have : (w.extractLsb' 0 7).extractLsb' 1 6 = w.extractLsb' 1 6 := BitVec.extractLsb'_extractLsb'_of_le (by decide)
  rw [← this, he]; rfl

theorem hasExtension_of_control {w : Word} (h : w.extractLsb' 7 3 ≠ 7#3) : hasExtension w = false := by
  simp [hasExtension, h]

theorem hasExtension_of_major {w : Word} (h : w.extractLsb' 1 6 ≠ 0x3F#6) : hasExtension w = false := by
  simp [hasExtension, isTrailerWord_of_major h]

@[simp] theorem wordT_hasExtension (off : BitVec 10) (aw : BitVec 8) (sense : BitVec 1) (p : BitVec 3) :
    hasExtension (wordT off aw sense p 7#3) = true := by
  simp [hasExtension, isTrailerWord, low_seven (wordT_odd ..) (wordT_major ..)]

/-! What `decodeMicro` reads from a 16-bit instruction, from a word, and from a word with its extension (R71, R90). -/

theorem decodeMicro_half {h : Half} (he : h.extractLsb' 0 1 = 0#1) (rest : List Half) :
    decodeMicro ([h] ++ rest) = .ok (decode16 h, rest) := by
  simp [decodeMicro, he]

theorem decodeMicro_word {w : Word} {i : Instr} (hw : i.wf = true) (hodd : w.extractLsb' 0 1 = 1#1) (hx : hasExtension w = false)
    (hd : decodeMicroRaw w 0#32 = .ok i) (rest : List Half) : decodeMicro (halves w ++ rest) = .ok (i, rest) := by
  simp [decodeMicro, halves, hodd, joinHalves_of_word, hx, hd, wellFormed, hw]

theorem decodeMicro_extended {w ext : Word} {i : Instr} (hw : i.wf = true) (hodd : w.extractLsb' 0 1 = 1#1)
    (hx : hasExtension w = true) (hd : decodeMicroRaw w ext = .ok i) (rest : List Half) :
    decodeMicro (halves w ++ halves ext ++ rest) = .ok (i, rest) := by
  simp [decodeMicro, halves, hodd, joinHalves_of_word, hx, hd, wellFormed, hw]

theorem decodeWalker_word {w : Word} {i : Instr} (hw : i.wf = true) (h0 : w.extractLsb' 0 6 ≠ 0#6) (hd : decodeWalkerRaw w = .ok i) :
    decodeWalker w = .ok i := by
  have : w ≠ 0#32 := fun h => h0 (by rw [h]; rfl)
  simp [decodeWalker, this, hd, wellFormed, hw]

/-- A word of the two Xfig opcodes is no RISC-V word. -/
theorem decodeCaller_xfig {w : Word} {i : Instr} (hop : w.extractLsb' 0 7 = 0x0B#7 ∨ w.extractLsb' 0 7 = 0x2B#7)
    (hd : decodeXfig w = .ok i) : decodeCaller (w.extractLsb' 0 16) (w.extractLsb' 16 16) = (i, 2) := by
  have hq : (w.extractLsb' 0 16).extractLsb' 0 2 = 3#2 := by
    rw [extract_low_half w (by decide), ← BitVec.extractLsb'_extractLsb'_of_le (len' := 7) (by decide)]
    rcases hop with h | h <;> rw [h] <;> rfl
  have hc : decodeCaller32 w = i := by
    rcases hop with h | h <;> rw [decodeCaller32, h, hd] <;> rfl
  rw [decodeCaller, hq, joinHalves_of_word]
  exact congrArg (·, 2) hc

/-! What `decodeMicroRaw` runs at each major (R85, R86). -/

section
variable {w ext : Word}

theorem decodeMicroRaw_iop (h : w.extractLsb' 1 6 = 0x01#6) : decodeMicroRaw w ext = decodeIop w := by
  rw [decodeMicroRaw, h]; rfl
theorem decodeMicroRaw_addi (h : w.extractLsb' 1 6 = 0x02#6) : decodeMicroRaw w ext = .ok (.addi (fD w) (fA w) (fImm13 w)) := by
  rw [decodeMicroRaw, h]; rfl
theorem decodeMicroRaw_andi (h : w.extractLsb' 1 6 = 0x03#6) : decodeMicroRaw w ext = .ok (.andi (fD w) (fA w) (fImm13 w)) := by
  rw [decodeMicroRaw, h]; rfl
theorem decodeMicroRaw_ori (h : w.extractLsb' 1 6 = 0x04#6) : decodeMicroRaw w ext = .ok (.ori (fD w) (fA w) (fImm13 w)) := by
  rw [decodeMicroRaw, h]; rfl
theorem decodeMicroRaw_xori (h : w.extractLsb' 1 6 = 0x05#6) : decodeMicroRaw w ext = .ok (.xori (fD w) (fA w) (fImm13 w)) := by
  rw [decodeMicroRaw, h]; rfl
theorem decodeMicroRaw_shi (h : w.extractLsb' 1 6 = 0x06#6) : decodeMicroRaw w ext = decodeShi w := by
  rw [decodeMicroRaw, h]; rfl
theorem decodeMicroRaw_muli (h : w.extractLsb' 1 6 = 0x07#6) : decodeMicroRaw w ext = .ok (.muli (fD w) (fA w) (fImm13 w)) := by
  rw [decodeMicroRaw, h]; rfl
theorem decodeMicroRaw_lui (h : w.extractLsb' 1 6 = 0x08#6) : decodeMicroRaw w ext = .ok (.lui (fD w) (w.extractLsb' 13 19)) := by
  rw [decodeMicroRaw, h]; rfl
theorem decodeMicroRaw_cmp (h : w.extractLsb' 1 6 = 0x09#6) : decodeMicroRaw w ext = decodeCmp w := by
  rw [decodeMicroRaw, h]; rfl
theorem decodeMicroRaw_cmpi (h : w.extractLsb' 1 6 = 0x0A#6) : decodeMicroRaw w ext = decodeCmpi w := by
  rw [decodeMicroRaw, h]; rfl
theorem decodeMicroRaw_sel (h : w.extractLsb' 1 6 = 0x0B#6) :
    decodeMicroRaw w ext = chk (fF1 w = 0#1 ∧ hi3 (fC w) = 0#3) (.sel (fD w) (fA w) (fB w) (lo3 (fC w))) := by
  rw [decodeMicroRaw, h]; rfl
theorem decodeMicroRaw_prd (h : w.extractLsb' 1 6 = 0x0C#6) : decodeMicroRaw w ext = decodePrd w := by
  rw [decodeMicroRaw, h]; rfl
theorem decodeMicroRaw_fop (h : w.extractLsb' 1 6 = 0x0D#6) : decodeMicroRaw w ext = decodeFop w := by
  rw [decodeMicroRaw, h]; rfl
theorem decodeMicroRaw_dop (h : w.extractLsb' 1 6 = 0x0E#6) : decodeMicroRaw w ext = decodeDop w := by
  rw [decodeMicroRaw, h]; rfl
theorem decodeMicroRaw_hop (h : w.extractLsb' 1 6 = 0x0F#6) : decodeMicroRaw w ext = decodeHop w := by
  rw [decodeMicroRaw, h]; rfl
theorem decodeMicroRaw_ffma (h : w.extractLsb' 1 6 = 0x10#6) : decodeMicroRaw w ext = decodeFfma w := by
  rw [decodeMicroRaw, h]; rfl
theorem decodeMicroRaw_dfma (h : w.extractLsb' 1 6 = 0x11#6) : decodeMicroRaw w ext = decodeDfma w := by
  rw [decodeMicroRaw, h]; rfl
theorem decodeMicroRaw_hfma (h : w.extractLsb' 1 6 = 0x12#6) : decodeMicroRaw w ext = decodeHfma w := by
  rw [decodeMicroRaw, h]; rfl
theorem decodeMicroRaw_cvt (h : w.extractLsb' 1 6 = 0x13#6) : decodeMicroRaw w ext = decodeCvt w := by
  rw [decodeMicroRaw, h]; rfl
theorem decodeMicroRaw_sfu (h : w.extractLsb' 1 6 = 0x14#6) : decodeMicroRaw w ext = decodeSfu w := by
  rw [decodeMicroRaw, h]; rfl
theorem decodeMicroRaw_npk (h : w.extractLsb' 1 6 = 0x15#6) : decodeMicroRaw w ext = decodeNpk w := by
  rw [decodeMicroRaw, h]; rfl
theorem decodeMicroRaw_bit (h : w.extractLsb' 1 6 = 0x16#6) : decodeMicroRaw w ext = decodeBit w := by
  rw [decodeMicroRaw, h]; rfl
theorem decodeMicroRaw_lane (h : w.extractLsb' 1 6 = 0x17#6) : decodeMicroRaw w ext = decodeLane w := by
  rw [decodeMicroRaw, h]; rfl
theorem decodeMicroRaw_red (h : w.extractLsb' 1 6 = 0x18#6) : decodeMicroRaw w ext = decodeRed w := by
  rw [decodeMicroRaw, h]; rfl
theorem decodeMicroRaw_xac (h : w.extractLsb' 1 6 = 0x19#6) : decodeMicroRaw w ext = decodeXac w := by
  rw [decodeMicroRaw, h]; rfl
theorem decodeMicroRaw_mrg (h : w.extractLsb' 1 6 = 0x1A#6) : decodeMicroRaw w ext = decodeMrg w := by
  rw [decodeMicroRaw, h]; rfl
theorem decodeMicroRaw_ld (h : w.extractLsb' 1 6 = 0x1B#6) : decodeMicroRaw w ext = decodeMem w false := by
  rw [decodeMicroRaw, h]; rfl
theorem decodeMicroRaw_st (h : w.extractLsb' 1 6 = 0x1C#6) : decodeMicroRaw w ext = decodeMem w true := by
  rw [decodeMicroRaw, h]; rfl
theorem decodeMicroRaw_atom (h : w.extractLsb' 1 6 = 0x1D#6) : decodeMicroRaw w ext = decodeAtom w := by
  rw [decodeMicroRaw, h]; rfl
theorem decodeMicroRaw_fence (h : w.extractLsb' 1 6 = 0x1E#6) : decodeMicroRaw w ext = decodeFence w := by
  rw [decodeMicroRaw, h]; rfl
theorem decodeMicroRaw_cpy (h : w.extractLsb' 1 6 = 0x1F#6) : decodeMicroRaw w ext = decodeCpy w := by
  rw [decodeMicroRaw, h]; rfl
theorem decodeMicroRaw_gth (h : w.extractLsb' 1 6 = 0x20#6) : decodeMicroRaw w ext = decodeGth w := by
  rw [decodeMicroRaw, h]; rfl
theorem decodeMicroRaw_qop (h : w.extractLsb' 1 6 = 0x21#6) : decodeMicroRaw w ext = decodeQop w := by
  rw [decodeMicroRaw, h]; rfl
theorem decodeMicroRaw_msg (h : w.extractLsb' 1 6 = 0x22#6) : decodeMicroRaw w ext = decodeMsg w := by
  rw [decodeMicroRaw, h]; rfl
theorem decodeMicroRaw_sync (h : w.extractLsb' 1 6 = 0x23#6) : decodeMicroRaw w ext = decodeSync w := by
  rw [decodeMicroRaw, h]; rfl
theorem decodeMicroRaw_mma (h : w.extractLsb' 1 6 = 0x24#6) : decodeMicroRaw w ext = decodeMma w := by
  rw [decodeMicroRaw, h]; rfl
theorem decodeMicroRaw_mxa (h : w.extractLsb' 1 6 = 0x25#6) : decodeMicroRaw w ext = decodeMxa w := by
  rw [decodeMicroRaw, h]; rfl
theorem decodeMicroRaw_trav (h : w.extractLsb' 1 6 = 0x26#6) : decodeMicroRaw w ext = decodeTrav w := by
  rw [decodeMicroRaw, h]; rfl
theorem decodeMicroRaw_mint (h : w.extractLsb' 1 6 = 0x27#6) : decodeMicroRaw w ext = decodeMint w := by
  rw [decodeMicroRaw, h]; rfl
theorem decodeMicroRaw_sys (h : w.extractLsb' 1 6 = 0x28#6) : decodeMicroRaw w ext = decodeSys w := by
  rw [decodeMicroRaw, h]; rfl
theorem decodeMicroRaw_trailer (h : w.extractLsb' 1 6 = 0x3F#6) : decodeMicroRaw w ext = decodeTrailer w ext := by
  rw [decodeMicroRaw, h]; rfl
end

/-! An instruction is read back. -/

/-- What the decoders of an instruction set make of the halfwords of an instruction. -/
def ReadsBack (i : Instr) (hs : List Half) : Isa → Prop
  | .micro => ∀ rest, decodeMicro (hs ++ rest) = .ok (i, rest)
  | .walker => ∃ a b, hs = [a, b] ∧ decodeWalker (b ++ a) = .ok i
  | .caller => ∃ a b, hs = [a, b] ∧ decodeXfig (b ++ a) = .ok i ∧ decodeCaller a b = (i, 2)

/-- Every encoding of a well-formed instruction is read back. -/
def RoundTrips (i : Instr) : Prop := i.wf = true → ∀ isa hs, encode i = some (isa, hs) → ReadsBack i hs isa

namespace RoundTrips

section
variable {i : Instr} {w : Word}

/-- An event, or an instruction whose encoding is the RISC-V standard's, has no encoding here. -/
theorem of_none (he : encode i = none) : RoundTrips i := fun _ _ _ h => by rw [he] at h; cases h

theorem of_some {isa : Isa} {hs : List Half} (he : encode i = some (isa, hs)) (h : i.wf = true → ReadsBack i hs isa) :
    RoundTrips i := fun hw _ _ h' => by rw [he] at h'; cases h'; exact h hw

/-- A 16-bit form (R84). -/
theorem of_half {h : Half} (he : encode i = some (.micro, [h])) (heven : h.extractLsb' 0 1 = 0#1) (hd : decode16 h = i) :
    RoundTrips i := of_some he fun _ rest => hd ▸ decodeMicro_half heven rest

/-- A word of one of the majors 0x01-0x28: `dec` reads that major. -/
theorem of_major {maj : BitVec 6} {dec : Word → Except Reject Instr} (he : encode i = some (.micro, halves w))
    (hraw : ∀ {w ext}, w.extractLsb' 1 6 = maj → decodeMicroRaw w ext = dec w) (hodd : w.extractLsb' 0 1 = 1#1)
    (hmaj : w.extractLsb' 1 6 = maj) (hm : maj ≠ 0x3F#6) (hd : dec w = .ok i) : RoundTrips i :=
  of_some he fun hw => decodeMicro_word hw hodd (hasExtension_of_major (hmaj ▸ hm)) ((hraw hmaj).trans hd)

/-- An instruction in format A. -/
theorem of_A {f7 : BitVec 7} {b a d maj : BitVec 6} {dec : Word → Except Reject Instr}
    (he : encode i = some (.micro, encA f7 b a d maj)) (hraw : ∀ {w ext}, w.extractLsb' 1 6 = maj → decodeMicroRaw w ext = dec w)
    (hm : maj ≠ 0x3F#6) (hd : dec (wordA f7 b a d maj) = .ok i) : RoundTrips i :=
  of_major he hraw (wordA_odd f7 b a d maj) (wordA_major f7 b a d maj) hm hd

/-- An instruction in format B. -/
theorem of_B {imm : BitVec 13} {a d maj : BitVec 6} {dec : Word → Except Reject Instr}
    (he : encode i = some (.micro, encB imm a d maj)) (hraw : ∀ {w ext}, w.extractLsb' 1 6 = maj → decodeMicroRaw w ext = dec w)
    (hm : maj ≠ 0x3F#6) (hd : dec (wordB imm a d maj) = .ok i) : RoundTrips i :=
  of_major he hraw (wordB_odd imm a d maj) (wordB_major imm a d maj) hm hd

/-- An instruction in format C. -/
theorem of_C {f1 : BitVec 1} {c b a d maj : BitVec 6} {dec : Word → Except Reject Instr}
    (he : encode i = some (.micro, encC f1 c b a d maj)) (hraw : ∀ {w ext}, w.extractLsb' 1 6 = maj → decodeMicroRaw w ext = dec w)
    (hm : maj ≠ 0x3F#6) (hd : dec (wordC f1 c b a d maj) = .ok i) : RoundTrips i :=
  of_major he hraw (wordC_odd f1 c b a d maj) (wordC_major f1 c b a d maj) hm hd

/-- A trailer without an extension word (R81, R82). -/
theorem of_trailer {off : BitVec 10} {aw : BitVec 8} {sense : BitVec 1} {p ctl : BitVec 3}
    (he : encode i = some (.micro, encT off aw sense p ctl)) (hc : ctl ≠ 7#3)
    (hd : decodeTrailer (wordT off aw sense p ctl) 0#32 = .ok i) : RoundTrips i :=
  of_some he fun hw => decodeMicro_word hw (wordT_odd off aw sense p ctl) (hasExtension_of_control (by simpa using hc))
    ((decodeMicroRaw_trailer (wordT_major off aw sense p ctl)).trans hd)

/-- A FAR trailer and its extension word (R83). -/
theorem of_far {off : BitVec 10} {aw : BitVec 8} {sense : BitVec 1} {p : BitVec 3} {ext : Word}
    (he : encode i = some (.micro, encT off aw sense p 7#3 ++ halves ext))
    (hd : decodeTrailer (wordT off aw sense p 7#3) ext = .ok i) : RoundTrips i :=
  of_some he fun hw => decodeMicro_extended hw (wordT_odd off aw sense p 7#3) (wordT_hasExtension off aw sense p)
    ((decodeMicroRaw_trailer (wordT_major off aw sense p 7#3)).trans hd)

/-- A walker word (R305, R307): its opcode is not that of the unloaded slot. -/
theorem of_walker {imm : BitVec 11} {b a d : WReg} {op : BitVec 6} (he : encode i = some (.walker, halves (wordW imm b a d op)))
    (h0 : op ≠ 0#6) (hd : decodeWalkerRaw (wordW imm b a d op) = .ok i) : RoundTrips i := of_some he fun hw =>
  ⟨_, _, rfl, (congrArg decodeWalker (joinHalves_of_word _)).trans (decodeWalker_word hw (by simpa using h0) hd)⟩

/-- An Xfig word (R194). -/
theorem of_xfig {f7 : BitVec 7} {rs2 rs1 rd : XReg} {f3 : BitVec 3} {op : BitVec 7}
    (he : encode i = some (.caller, halves (wordX f7 rs2 rs1 f3 rd op))) (hop : op = 0x0B#7 ∨ op = 0x2B#7)
    (hd : decodeXfig (wordX f7 rs2 rs1 f3 rd op) = .ok i) : RoundTrips i := of_some he fun _ =>
  ⟨_, _, rfl, (congrArg decodeXfig (joinHalves_of_word _)).trans hd,
    decodeCaller_xfig ((wordX_op f7 rs2 rs1 f3 rd op).symm ▸ hop) hd⟩

end
end RoundTrips

theorem roundTrips (i : Instr) : RoundTrips i := by
  cases i with
  | add | sub | and | or | xor | andn | sll | srl | sra | rol | min | max | minu | maxu | mul | mulh | mulhu | adds | subs
    | clz | ctz | popc | brev | addD | subD | mulWD | muluWD =>
    exact .of_A rfl decodeMicroRaw_iop (by decide) (by simp [decodeIop])
  | addi => exact .of_B rfl decodeMicroRaw_addi (by decide) (by simp)
  | andi => exact .of_B rfl decodeMicroRaw_andi (by decide) (by simp)
  | ori => exact .of_B rfl decodeMicroRaw_ori (by decide) (by simp)
  | xori => exact .of_B rfl decodeMicroRaw_xori (by decide) (by simp)
  | muli => exact .of_B rfl decodeMicroRaw_muli (by decide) (by simp)
  | slli | srli | srai | roli =>
    exact .of_major rfl decodeMicroRaw_shi (by simp) (by simp) (by decide) (by simp [decodeShi, fD, fA])
  | lui => exact .of_major rfl decodeMicroRaw_lui (by simp) (by simp) (by decide) (by simp [fD])
  | cmpI32 | cmpF32 | cmpF64 | cmpI64 =>
    exact .of_major rfl decodeMicroRaw_cmp (by simp) (by simp) (by decide) (by simp [decodeCmp, lo3_fD, hi3_fD, fA, fB])
  | cmpi =>
    exact .of_major rfl decodeMicroRaw_cmpi (by simp) (by simp) (by decide) (by simp [decodeCmpi, lo3_fD, hi3_fD, fA, fImm13])
  | sel => exact .of_C rfl decodeMicroRaw_sel (by decide) (by simp)
  | movs | pand | por | pxor | pnot | p2g | g2p => exact .of_A rfl decodeMicroRaw_prd (by decide) (by simp [decodePrd])
  | fadd | fsub | fmul | fmin | fmax | fabs | fneg | fsgn | fcls | fflr | fceil | frndn =>
    exact .of_A rfl decodeMicroRaw_fop (by decide) (by simp [decodeFop])
  | dadd | dsub | dmul | dmin | dmax | dabs | dneg | dsgn | dcls | dflr | dceil | drndn =>
    exact .of_A rfl decodeMicroRaw_dop (by decide) (by simp [decodeDop])
  | add2 | sub2 | mul2 | min2 | max2 | add2Bf | sub2Bf | mul2Bf | min2Bf | max2Bf =>
    exact .of_A rfl decodeMicroRaw_hop (by decide) (by simp [decodeHop])
  | ffma | ffms => exact .of_C rfl decodeMicroRaw_ffma (by decide) (by simp [decodeFfma])
  | dfma | dfms => exact .of_C rfl decodeMicroRaw_dfma (by decide) (by simp [decodeDfma])
  | hfma | hfmaBf => exact .of_C rfl decodeMicroRaw_hfma (by decide) (by simp [decodeHfma])
  | f2i | f2u | i2f | u2f | d2f | f2d | d2i | i2d | f2h | h2f | f2bf | bf2f | d2l | l2d | f2h2 =>
    exact .of_A rfl decodeMicroRaw_cvt (by decide) (by simp [decodeCvt])
  | rcp | rsq | log2 | exp2 | sinr | cosr | drcp | drsq => exact .of_A rfl decodeMicroRaw_sfu (by decide) (by simp [decodeSfu])
  | pke4 | pke5 | upe4 | upe5 | pkb4 | upb4 => exact .of_A rfl decodeMicroRaw_npk (by decide) (by simp [decodeNpk])
  | bfe | bfi => exact .of_C rfl decodeMicroRaw_bit (by decide) (by simp [decodeBit])
  | shfl | rotl | bfly | bcast | voteall | voteany | ballot | linkr | linkw =>
    exact .of_A rfl decodeMicroRaw_lane (by decide) (by simp [decodeLane])
  | radd | rmin | rmax | rminu | rmaxu | rand | ror | rxor | rfadd | rfmin | rfmax | sadd | saddx | sfadd | rdadd =>
    exact .of_A rfl decodeMicroRaw_red (by decide) (by simp [decodeRed])
  | xclr | xadd | xmad | xrnd | xrndd => exact .of_A rfl decodeMicroRaw_xac (by decide) (by simp [decodeXac])
  | icount | iwrite | uwrite | mwrite => exact .of_A rfl decodeMicroRaw_mrg (by decide) (by simp [decodeMrg])
  | ld => exact .of_major rfl decodeMicroRaw_ld (by simp) (by simp) (by decide) (by simp [decodeMem, fD, fA])
  | st => exact .of_major rfl decodeMicroRaw_st (by simp) (by simp) (by decide) (by simp [decodeMem, fD, fA])
  | aaddW | aandW | aorW | axorW | aminW | amaxW | aminuW | amaxuW | aswapW | acasW | afaddW | aaddD | aswapD | acasD
    | afaddD =>
    exact .of_A rfl decodeMicroRaw_atom (by decide) (by simp [decodeAtom])
  | fenceFull | fenceAcq | fenceRel | fenceRsc =>
    exact .of_major rfl decodeMicroRaw_fence (by simp) (by simp) (by decide) (by simp [decodeFence, fD, fA])
  | cpost | ccancel => exact .of_A rfl decodeMicroRaw_cpy (by decide) (by simp [decodeCpy])
  | gpost | gstat => exact .of_A rfl decodeMicroRaw_gth (by decide) (by simp [decodeGth])
  | qinit | qpush | qpop | qpushn | qpopn | qcount => exact .of_A rfl decodeMicroRaw_qop (by decide) (by simp [decodeQop])
  | spawn | quit | sendw | recvw => exact .of_A rfl decodeMicroRaw_msg (by decide) (by simp [decodeMsg])
  | sign | cvwait | lvarr | lvwait | lvsync | qjoin | csig | waitev | yield =>
    exact .of_A rfl decodeMicroRaw_sync (by decide) (by simp [decodeSync])
  | mma => exact .of_A rfl decodeMicroRaw_mma (by decide) (by simp [decodeMma, wordA, fD, fA, fB])
  | accz | accld | accst | wbld | skset => exact .of_A rfl decodeMicroRaw_mxa (by decide) (by simp [decodeMxa])
  | tpost | hpop | hcount | tcfg | tcancel => exact .of_A rfl decodeMicroRaw_trav (by decide) (by simp [decodeTrav])
  | mint => exact .of_A rfl decodeMicroRaw_mint (by decide) (by simp [decodeMint])
  | nop | trap | ebrk | fstat | setrm => exact .of_A rfl decodeMicroRaw_sys (by decide) (by simp [decodeSys])
  | farOffset | farRegister => exact .of_far rfl (by simp [decodeTrailer])
  | next | br | jmp | call | ret | run | stop => exact .of_trailer rfl (by decide) (by simp [decodeTrailer])
  | mov16 | add16 | sub16 | and16 | or16 | xor16 | sll16 | srl16 | sra16 | addi16 | mul16 | fadd16 | fsub16 | fmul16
    | fmin16 | fmax16 =>
    exact .of_half rfl (by simp) (by simp [decode16])
  | nfetch | ndec | walkCmpI32 | walkCmpF32 => exact .of_walker rfl (by decide) (by simp [decodeWalkerRaw, wordW, wD, wA, wB])
  | box8 | tri | split | kcmp | dist | child | push | pop | kbest | emit | handoff | walkEnd | movi | walkMov | walkAdd
    | walkSub | walkFadd | walkFmul | walkFmin | walkFmax | walkBr | walkJmp =>
    exact .of_walker rfl (by decide) (by simp [decodeWalkerRaw])
  | figCall | figWait | figSync | figSetw | figAlloc | figRdreg | figWrreg | figResume | figMbox | figEvent | figLaunch
    | figInbox | figReplay =>
    exact .of_xfig rfl (by decide) (by simp [decodeXfig])
  | xfigStallComplete | callerLoad | callerStore | callerAmo | callerLr | callerSc | callerFence | callerFenceI
    | handlerReturn | callerEnd | xfgEventsWrite | xfgFhandlerWrite | xfgFsupWrite | registerWrite | eventInterrupt
    | callerException | corePark | coreReset | rotationSlotFill | codeFetchArrival | microthreadInitComplete
    | longLatencyResult | deferredFault | faultMessagePost | quitRetire | budgetRefill | storeFifoExit | storeAck
    | owningPortLoad | owningPortStore | owningPortAtomic | tluTranslation | faultRecordArrival | homeRead | homeStore
    | homeAtomic | cacheFillArrival | writeThroughAck | wakeMessage | mmaPerform | acczPerform | accldPerform | accstPerform
    | wbldPerform | sksetPerform | joinPass | copyStart | copyElement | copyEnd | signalEntryPerform | spawnArrival
    | wordArrival | bounceArrival | eventSignal | levelArrival | levelSummons | levelCompletion | queryAdmission | tcfgPerform
    | nodeFetchArrival | hitAppend | queryDone | gteRequestStart | gteProbe | gteGather | gteScatter | gteSadd | gteSfadd
    | gteSmin | gteSmax | gteNinv | gteRequestEnd | preemptionRequest | contextSave | contextResume | doorbellWrite
    | hostQueueTake | dispatchPlacement | preemptionDecision | resumeDecision | forcedResume | terminationSweep
    | watchdogWindow | managementAbort | faultrespWrite | faultheadWrite | shootgoWrite | shootdownDone | intstatClear
    | pcfgWrite | managementPoolRead | managementPoolWrite | moduleReset | plimitWrite | powerWindow | thermalStop
    | thermalTrip | patrolScrub | rtcExtend | rtcAttestationReport | rtcAttestationDone | rtcReadBootstat | rtcRaiseSvn
    | rtcExtendMr3 | snapgoWrite | snapstatWrite | debugSnapshotTrigger | linkTraining | pairctlRetrain | linkDown
    | linkResponseTimeout | twinRequestArrival | hqArrival | subqueryAdmission | hackArrival | hitArrival | hendArrival
    | hcanArrival | schedArrival | callerInstruction | reservedEncoding | unloadedWalkerSlot | thermalResume | powerLoss
    | clusterPowerGating | clusterPowerRestore | twinUnsupportedRequest | rtcUnknownRequest =>
    exact .of_none rfl

end Sys2Proof

namespace Sys2Proof.Proofs
open Sys2Proof Sys2Proof.Machine

/-- Settles O56: one reading per instruction format, then the instructions group by group. -/
theorem encodingRoundTrip : Obligations.EncodingRoundTrip := by
  intro i isa hs hw he
  have h := roundTrips i hw isa hs he
  cases isa <;> exact h

end Sys2Proof.Proofs

/-! What FP32, FP64 and packed arithmetic writes (R125-R128): the operand forms of `Laws/Lanes`, and sign bits as arithmetic. -/

namespace Sys2Proof.Machine

/-! The sign bit of a word of n + 1 bits (R125). -/

theorem div_half {x p : Nat} (h : x < p * 2) : x / p = 0 ∨ x / p = 1 := by
  have h2 := Nat.div_lt_of_lt_mul h
  generalize x / p = q at h2
  omega

theorem xor_half {x n : Nat} (h : x < 2 ^ n * 2) : x ^^^ 2 ^ n = (x + 2 ^ n) % (2 ^ n * 2) := by
  have hn : 0 < 2 ^ n := Nat.two_pow_pos n
  have hd := Nat.div_add_mod x (2 ^ n)
  have hm := Nat.mod_lt x hn
  rw [← Nat.div_add_mod (x ^^^ 2 ^ n) (2 ^ n), Nat.xor_div_two_pow, Nat.xor_mod_two_pow, Nat.div_self hn, Nat.mod_self, Nat.xor_zero]
  have hc := div_half h
  generalize 2 ^ n = p at *
  rcases hc with hc | hc
  · rw [hc] at hd ⊢
    rw [Nat.mod_eq_of_lt (a := x + p) (by omega), Nat.zero_xor]
    omega
  · rw [hc] at hd ⊢
    rw [Nat.mod_eq_sub_mod (a := x + p) (by omega), Nat.mod_eq_of_lt (a := x + p - p * 2) (by omega), Nat.xor_self]
    omega

theorem and_half {y n : Nat} (h : y < 2 ^ n * 2) : y &&& 2 ^ n = 2 ^ n * (y / 2 ^ n) := by
  rw [Nat.and_two_pow, Nat.testBit_eq_decide_div_mod_eq]
  rcases div_half h with hc | hc <;> simp [hc]

section
variable {n : Nat}

theorem clear_sign (x : BitVec (n + 1)) : x &&& BitVec.ofNat (n + 1) (2 ^ n - 1) = BitVec.ofNat (n + 1) (x.toNat % 2 ^ n) := by
  have hn : 2 ^ n - 1 < 2 ^ (n + 1) := by have := Nat.pow_lt_pow_succ (a := 2) (n := n) (by decide); omega
  have hx : x.toNat % 2 ^ n < 2 ^ (n + 1) := Nat.lt_of_le_of_lt (Nat.mod_le _ _) x.isLt
  refine BitVec.eq_of_toNat_eq ?_
  rw [BitVec.toNat_and, BitVec.toNat_ofNat, Nat.mod_eq_of_lt hn, Nat.and_two_pow_sub_one_eq_mod, BitVec.toNat_ofNat, Nat.mod_eq_of_lt hx]

theorem invert_sign (x : BitVec (n + 1)) : x ^^^ BitVec.ofNat (n + 1) (2 ^ n) = x + BitVec.ofNat (n + 1) (2 ^ n) := by
  have hs : 2 ^ n < 2 ^ (n + 1) := Nat.pow_lt_pow_succ (by decide)
  refine BitVec.eq_of_toNat_eq ?_
  rw [BitVec.toNat_xor, BitVec.toNat_add, BitVec.toNat_ofNat, Nat.mod_eq_of_lt hs, Nat.pow_succ]
  exact xor_half x.isLt

theorem copy_sign (x y : BitVec (n + 1)) :
    (x &&& BitVec.ofNat (n + 1) (2 ^ n - 1)) ||| (y &&& BitVec.ofNat (n + 1) (2 ^ n)) =
      BitVec.ofNat (n + 1) (x.toNat % 2 ^ n + y.toNat / 2 ^ n * 2 ^ n) := by
  have hs : 2 ^ n < 2 ^ (n + 1) := Nat.pow_lt_pow_succ (by decide)
  have hm := Nat.mod_lt x.toNat (Nat.two_pow_pos n)
  have hy : y.toNat < 2 ^ n * 2 := y.isLt
  refine BitVec.eq_of_toNat_eq ?_
  rw [clear_sign, BitVec.toNat_or, BitVec.toNat_and, BitVec.toNat_ofNat, BitVec.toNat_ofNat, BitVec.toNat_ofNat, Nat.mod_eq_of_lt hs,
    Nat.mod_eq_of_lt (Nat.lt_trans hm hs), and_half hy, Nat.or_comm, ← Nat.two_pow_add_eq_or_of_lt hm, Nat.add_comm, Nat.mul_comm,
    Nat.pow_succ, Nat.mod_eq_of_lt (a := x.toNat % 2 ^ n + _)]
  have hc := div_half hy
  generalize 2 ^ n = p at *
  rcases hc with hc | hc <;> rw [hc] <;> omega

end

/-! The two elements of a packed register (R41, R127). -/

theorem elem16_low (x : Word) : elem16 x 0 = x.toNat % 2 ^ 16 := by simp [elem16]

theorem elem16_high (x : Word) : elem16 x 1 = x.toNat / 2 ^ 16 := by
  have := x.isLt
  simp [elem16, Nat.shiftRight_eq_div_pow]
  omega

theorem packed2_eq (f : Nat → Nat → FpRes) (x y : Word) : packed2 f x y = bothHalves f x y := by
  simp [packed2, bothHalves, elem16_low, elem16_high]

theorem packed3_eq (f : Nat → Nat → Nat → FpRes) (x y z : Word) : packed3 f x y z = bothHalves3 f x y z := by
  simp [packed3, bothHalves3, elem16_low, elem16_high]

/-- No flags raised: FFLAGS stays (R46). -/
@[simp] theorem Micro.raise_none (m : Micro) : m.raise noFlags = m := by simp [Micro.raise, noFlags]

/-! From the operand forms to the results of floating-point instructions: `he` says what the instruction runs, `hv` what that computes. -/

section
variable {i : Instr} {w : Nat} {d a b c : Reg} {u : Micro → Word} {p : Micro → DWord} {v : Micro → FpRes}

theorem Writes.of_op1 {f : Word → Word} (he : ∀ s, exec i s = alu w (fun m => m.op1 f d a) s) (hv : ∀ m, f (m.reg a) = u m) :
    Writes i [d, a] d u := Writes.of_alu he fun m h => hv m ▸ Micro.op1_ready h

theorem Writes.of_op2 {f : Word → Word → Word} (he : ∀ s, exec i s = alu w (fun m => m.op2 f d a b) s)
    (hv : ∀ m, f (m.reg a) (m.reg b) = u m) : Writes i [d, a, b] d u := Writes.of_alu he fun m h => hv m ▸ Micro.op2_ready h

theorem WritesPair.of_opD1 {f : DWord → DWord} (he : ∀ s, exec i s = alu w (fun m => m.opD1 f d a) s)
    (hv : ∀ m, f (m.pair a) = p m) : WritesPair i (pairOf d ++ pairOf a) d p :=
  WritesPair.of_alu he fun m h => hv m ▸ Micro.opD1_ready h

theorem WritesPair.of_opD2 {f : DWord → DWord → DWord} (he : ∀ s, exec i s = alu w (fun m => m.opD2 f d a b) s)
    (hv : ∀ m, f (m.pair a) (m.pair b) = p m) : WritesPair i (pairOf d ++ pairOf a ++ pairOf b) d p :=
  WritesPair.of_alu he fun m h => hv m ▸ Micro.opD2_ready h

theorem WritesFp.of_fop1 {f : Micro → Word → FpRes} (he : ∀ s, exec i s = alu w (fun m => m.fop1 (f m) d a) s)
    (hv : ∀ m, f m (m.reg a) = v m) : WritesFp i [d, a] d v :=
  LaneResult.of_lanes he fun _ _ m h => hv m ▸ Micro.fop1_ready h

theorem WritesFp.of_fop2 {f : Micro → Word → Word → FpRes} (he : ∀ s, exec i s = alu w (fun m => m.fop2 (f m) d a b) s)
    (hv : ∀ m, f m (m.reg a) (m.reg b) = v m) : WritesFp i [d, a, b] d v :=
  LaneResult.of_lanes he fun _ _ m h => hv m ▸ Micro.fop2_ready h

theorem WritesFp.of_fop3 {f : Micro → Word → Word → Word → FpRes}
    (he : ∀ s, exec i s = alu w (fun m => m.fop3 (f m) d a b c) s) (hv : ∀ m, f m (m.reg a) (m.reg b) (m.reg c) = v m) :
    WritesFp i [d, a, b, c] d v := LaneResult.of_lanes he fun _ _ m h => hv m ▸ Micro.fop3_ready h

theorem WritesFpPair.of_dop1 {f : Micro → DWord → FpRes} (he : ∀ s, exec i s = alu w (fun m => m.dop1 (f m) d a) s)
    (hv : ∀ m, f m (m.pair a) = v m) : WritesFpPair i (pairOf d ++ pairOf a) d v :=
  LaneResult.of_lanes he fun _ _ m h => hv m ▸ Micro.dop1_ready h

theorem WritesFpPair.of_dop2 {f : Micro → DWord → DWord → FpRes} (he : ∀ s, exec i s = alu w (fun m => m.dop2 (f m) d a b) s)
    (hv : ∀ m, f m (m.pair a) (m.pair b) = v m) : WritesFpPair i (pairOf d ++ pairOf a ++ pairOf b) d v :=
  LaneResult.of_lanes he fun _ _ m h => hv m ▸ Micro.dop2_ready h

theorem WritesFpPair.of_dop3 {f : Micro → DWord → DWord → DWord → FpRes}
    (he : ∀ s, exec i s = alu w (fun m => m.dop3 (f m) d a b c) s) (hv : ∀ m, f m (m.pair a) (m.pair b) (m.pair c) = v m) :
    WritesFpPair i (pairOf d ++ pairOf a ++ pairOf b ++ pairOf c) d v :=
  LaneResult.of_lanes he fun _ _ m h => hv m ▸ Micro.dop3_ready h

/-- A result without flags is a plain write. -/
theorem Writes.of_fopDW {f : DWord → Nat} (he : ∀ s, exec i s = alu w (fun m => m.fopDW (fun x => (f x, noFlags)) d a) s)
    (hv : ∀ m, BitVec.ofNat 32 (f (m.pair a)) = u m) : Writes i ([d] ++ pairOf a) d u :=
  Writes.of_alu he fun m h => by rw [← hv m, Micro.fopDW_ready h, Micro.raise_none]

end

end Sys2Proof.Machine

namespace Sys2Proof.Proofs
open Sys2Proof Sys2Proof.Machine

/-- Settles O3: each instruction by its operand form; the sign-bit and packed forms by what they compute. -/
theorem floatResults : Obligations.FloatResults :=
  ⟨fun _ _ _ _ => ⟨
    .of_fop2 (fun _ => rfl) fun _ => rfl, .of_fop2 (fun _ => rfl) fun _ => rfl, .of_fop2 (fun _ => rfl) fun _ => rfl,
    .of_fop2 (fun _ => rfl) fun _ => rfl, .of_fop2 (fun _ => rfl) fun _ => rfl,
    .of_op1 (fun _ => rfl) fun _ => clear_sign (n := 31) _, .of_op1 (fun _ => rfl) fun _ => invert_sign (n := 31) _,
    .of_op2 (fun _ => rfl) fun _ => copy_sign (n := 31) _ _, .of_op1 (fun _ => rfl) fun _ => rfl,
    .of_fop1 (fun _ => rfl) fun _ => rfl, .of_fop1 (fun _ => rfl) fun _ => rfl, .of_fop1 (fun _ => rfl) fun _ => rfl,
    .of_fop3 (fun _ => rfl) fun _ => rfl, .of_fop3 (fun _ => rfl) fun _ => rfl⟩,
  fun _ _ _ _ => ⟨
    .of_dop2 (fun _ => rfl) fun _ => rfl, .of_dop2 (fun _ => rfl) fun _ => rfl, .of_dop2 (fun _ => rfl) fun _ => rfl,
    .of_dop2 (fun _ => rfl) fun _ => rfl, .of_dop2 (fun _ => rfl) fun _ => rfl,
    .of_opD1 (fun _ => rfl) fun _ => clear_sign (n := 63) _, .of_opD1 (fun _ => rfl) fun _ => invert_sign (n := 63) _,
    .of_opD2 (fun _ => rfl) fun _ => copy_sign (n := 63) _ _, .of_fopDW (fun _ => rfl) fun _ => rfl,
    .of_dop1 (fun _ => rfl) fun _ => rfl, .of_dop1 (fun _ => rfl) fun _ => rfl, .of_dop1 (fun _ => rfl) fun _ => rfl,
    .of_dop3 (fun _ => rfl) fun _ => rfl, .of_dop3 (fun _ => rfl) fun _ => rfl⟩,
  fun _ _ _ _ => ⟨
    .of_fop2 (fun _ => rfl) fun _ => packed2_eq _ _ _, .of_fop2 (fun _ => rfl) fun _ => packed2_eq _ _ _,
    .of_fop2 (fun _ => rfl) fun _ => packed2_eq _ _ _, .of_fop2 (fun _ => rfl) fun _ => packed2_eq _ _ _,
    .of_fop2 (fun _ => rfl) fun _ => packed2_eq _ _ _, .of_fop2 (fun _ => rfl) fun _ => packed2_eq _ _ _,
    .of_fop2 (fun _ => rfl) fun _ => packed2_eq _ _ _, .of_fop2 (fun _ => rfl) fun _ => packed2_eq _ _ _,
    .of_fop2 (fun _ => rfl) fun _ => packed2_eq _ _ _, .of_fop2 (fun _ => rfl) fun _ => packed2_eq _ _ _,
    .of_fop3 (fun _ => rfl) fun _ => packed3_eq _ _ _ _, .of_fop3 (fun _ => rfl) fun _ => packed3_eq _ _ _ _⟩⟩

end Sys2Proof.Proofs

/-! Set-converged instructions: what a member of a set makes of the values of its lanes (R35, R146, R151). -/

namespace Sys2Proof.Machine

section
variable {α : Type} {s : State} {n k slot w : Nat} {g : Group} {m : Micro} {rs : List Reg} {read : Micro → Except Flt α} {val : Micro → α}

/-- A lane whose micro-thread is ready, if it is active at all, gives its value. -/
theorem State.active_ready (h : s.MembersReady n g rs) (hr : ∀ m, m.Ready rs → read m = .ok (val m)) (x : Nat) :
    (s.core n).active g read x = (if x ∈ g.members then s.microAt n x else none).map val := by
  by_cases hx : x ∈ g.members
  · obtain ⟨u, hu, hready⟩ := h x hx
    have hu' : (s.core n).micro x = u := State.micro_of_microAt hu
    simp [Core.active, hx, hu, hu', hr u hready]
  · simp [Core.active, hx]

/-- The values of a slot's lanes. -/
theorem State.lanes_active (h : s.MembersReady n g rs) (hr : ∀ m, m.Ready rs → read m = .ok (val m)) (slot : Nat) :
    ((s.core n).place g.launch slot).2.2.map ((s.core n).active g read) = (s.lanesOf n g slot).map (Option.map val) := by
  rw [State.lanesOf, List.map_map]
  exact List.map_congr_left fun x _ => s.active_ready h hr x

/-- A set-converged instruction whose members are ready gives its result (see `SetResult`): `read` gives the value `val`. -/
theorem SetResult.of_setTurn {i : Instr} {write : List (Option α) → Nat → Nat → α → Micro → Micro}
    {f : List (Option Micro) → Nat → Micro → Micro} (he : ∀ s, exec i s = setTurn w read write s)
    (hr : ∀ m, m.Ready rs → read m = .ok (val m))
    (hf : ∀ lanes setNo lane m, write (lanes.map (Option.map val)) setNo lane (val m) m = f lanes lane m) : SetResult i rs f := by
  intro s n k g slot m ⟨⟨c, hs⟩, hmem, hm⟩ hready
  obtain ⟨hn, rfl, hg, -⟩ := State.seat_parts hs
  have hok : read m = .ok (val m) := by
    obtain ⟨u, hu, hu'⟩ := hready slot hmem
    exact hr m (Option.some.inj (hm.symm.trans hu) ▸ hu')
  refine ⟨_, by rw [he, setTurn, hs], ?_, ?_⟩
  · simp only [State.microAt] at hm ⊢
    rw [State.core_modCore_self _ _ _ hn]
    simp only [Core.endTurn_slots, Core.runSets, Tbl.get?_mapKV, hm, Option.map_some, List.contains_eq_mem, hmem, decide_true, ite_true, hok,
      State.lanes_active hready hr, hf]
    rfl
  · refine onlyMembers_turn s n k g _ 4 w false hn fun x hx => ?_
    simp only [Tbl.get?_mapKV]
    cases Tbl.get? (s.core n).slots x <;> simp [hx]

end

/-! Folds over the lanes of a set: an inactive lane gives the identity (R59). -/

section
variable {α β : Type}

theorem foldl_getD_actives {f : α → β → α} {e : β} (hf : ∀ x, f x e = x) (val : Micro → β) (lanes : List (Option Micro)) (a : α) :
    (lanes.map (Option.map val)).foldl (fun acc v => f acc (v.getD e)) a = (actives lanes).foldl (fun acc u => f acc (val u)) a := by
  induction lanes generalizing a with
  | nil => rfl
  | cons x lanes ih => cases x <;> simp [actives, hf] <;> exact ih _

end

/-- The values of the active lanes reduced in a word are those of the integers they stand for. -/
theorem foldl_ofInt {f : Word → Word → Word} {g : Int → Int → Int} (h : ∀ x y, (f x y).toInt = g x.toInt y.toInt) (val : Micro → Word)
    (l : List Micro) (e : Word) :
    l.foldl (fun acc u => f acc (val u)) e = BitVec.ofInt 32 (l.foldl (fun v u => g v (val u).toInt) e.toInt) := by
  rw [List.foldl_hom BitVec.toInt (g₁ := fun acc u => f acc (val u)) fun x u => (h x (val u)).symm, BitVec.ofInt_toInt]

theorem foldl_ofNat {f : Word → Word → Word} {g : Nat → Nat → Nat} (h : ∀ x y, (f x y).toNat = g x.toNat y.toNat) (val : Micro → Word)
    (l : List Micro) (e : Word) :
    l.foldl (fun acc u => f acc (val u)) e = BitVec.ofNat 32 (l.foldl (fun v u => g v (val u).toNat) e.toNat) := by
  rw [List.foldl_hom BitVec.toNat (g₁ := fun acc u => f acc (val u)) fun x u => (h x (val u)).symm, BitVec.ofNat_toNat, BitVec.setWidth_eq]

theorem toInt_lesser (x y : Word) : (if y.slt x then y else x).toInt = min x.toInt y.toInt := by
  simp only [BitVec.slt_iff_toInt_lt]
  split <;> omega

theorem toInt_greater (x y : Word) : (if x.slt y then y else x).toInt = max x.toInt y.toInt := by
  simp only [BitVec.slt_iff_toInt_lt]
  split <;> omega

theorem toNat_lesser (x y : Word) : (if y.ult x then y else x).toNat = min x.toNat y.toNat := by
  simp only [BitVec.ult_iff_lt, BitVec.lt_def]
  split <;> omega

theorem toNat_greater (x y : Word) : (if x.ult y then y else x).toNat = max x.toNat y.toNat := by
  simp only [BitVec.ult_iff_lt, BitVec.lt_def]
  split <;> omega

theorem foldl_add_sum (val : Micro → Word) (l : List Micro) : l.foldl (fun acc u => acc + val u) 0#32 = (l.map val).sum := by
  rw [List.sum_eq_foldl, List.foldl_map]
  rfl

/-! The reductions (R151). -/

theorem Micro.reduceArgs_ready {m : Micro} {d a : Reg} (h : m.Ready [d, a]) : Micro.reduceArgs d a m = .ok (m.reg a) := by
  simp only [Micro.reduceArgs, Micro.need_ok h, Micro.rd_ok (h a (by simp)).2, Micro.wrOk_clear (h d (by simp)).2.1, bind, Except.bind]

theorem Micro.reducePair_ready {m : Micro} {d a : Reg} (h : m.Ready (pairOf d ++ pairOf a)) :
    (do m.need [d, a]; let x ← m.rdPair a; m.wrOk d 2; .ok x : Except Flt DWord) = .ok (m.pair a) := by
  simp only [Micro.need_ok (h.sub (qs := [d, a]) (by simp [pairOf])),
    Micro.rdPair_ok (h.clear (qs := groupCodes a 2) (by simp [pairOf])),
    Micro.wrOk_ok (h.clear (qs := groupCodes d 2) (by simp [pairOf])), bind, Except.bind]

section
variable {i : Instr} {w : Nat} {d a : Reg}

/-- An integer reduction over a set (R59): `he` is the identity, `hv` what the active lanes give. -/
theorem SetResult.of_reduceInt (f : Word → Word → Word) (e : Word) {v : List (Option Micro) → Word}
    (hi : ∀ s, exec i s = reduceInt f e d a s) (he : ∀ x, f x e = x)
    (hv : ∀ lanes, (actives lanes).foldl (fun acc u => f acc (u.reg a)) e = v lanes) :
    SetResult i [d, a] fun lanes _ m => m.setReg d (v lanes) :=
  .of_setTurn hi (fun _ h => Micro.reduceArgs_ready h) fun lanes _ _ _ => by rw [foldl_getD_actives he, hv]

/-- A scan over a set: the sum of the active ones of the lanes that `upTo` keeps (R61, R151). -/
theorem SetResult.of_scan {upTo : Nat → Nat}
    (hi : ∀ s, exec i s = setTurn w (Micro.reduceArgs d a)
      (fun vals _ lane _ m => m.setReg d ((vals.take (upTo lane)).foldl (fun acc v => acc + v.getD 0#32) 0#32)) s) :
    SetResult i [d, a] fun lanes lane m => m.setReg d (((actives (lanes.take (upTo lane))).map fun u => u.reg a).sum) :=
  .of_setTurn hi (fun _ h => Micro.reduceArgs_ready h) fun _ _ _ _ => by
    rw [← List.map_take, foldl_getD_actives (fun _ => BitVec.add_zero _), foldl_add_sum]

end

/-- The codes that the lanes give to a floating-point sum: an inactive lane gives the identity. -/
theorem map_codes {n : Nat} (val : Micro → BitVec n) (e : Nat) (lanes : List (Option Micro)) :
    ((lanes.map (Option.map val)).map fun v => (v.map BitVec.toNat).getD e) = lanes.map fun x => (x.map fun u => (val u).toNat).getD e := by
  rw [List.map_map]
  exact List.map_congr_left fun x _ => by cases x <;> rfl

/-! What each integer reduction reduces with. -/

theorem exec_radd (d a : Reg) (s : State) : exec (.radd d a) s = reduceInt (fun x y => x + y) 0#32 d a s := rfl
theorem exec_rmin (d a : Reg) (s : State) : exec (.rmin d a) s = reduceInt (fun x y => if y.slt x then y else x) 0x7FFFFFFF#32 d a s := rfl
theorem exec_rmax (d a : Reg) (s : State) : exec (.rmax d a) s = reduceInt (fun x y => if x.slt y then y else x) 0x80000000#32 d a s := rfl
theorem exec_rminu (d a : Reg) (s : State) : exec (.rminu d a) s = reduceInt (fun x y => if y.ult x then y else x) 0xFFFFFFFF#32 d a s := rfl
theorem exec_rmaxu (d a : Reg) (s : State) : exec (.rmaxu d a) s = reduceInt (fun x y => if x.ult y then y else x) 0#32 d a s := rfl
theorem exec_rand (d a : Reg) (s : State) : exec (.rand d a) s = reduceInt (fun x y => x &&& y) 0xFFFFFFFF#32 d a s := rfl
theorem exec_ror (d a : Reg) (s : State) : exec (.ror d a) s = reduceInt (fun x y => x ||| y) 0#32 d a s := rfl
theorem exec_rxor (d a : Reg) (s : State) : exec (.rxor d a) s = reduceInt (fun x y => x ^^^ y) 0#32 d a s := rfl

/-! The identities of the signed and unsigned minimum and maximum. -/

theorem lesser_identity (x : Word) : (if (0x7FFFFFFF#32).slt x then 0x7FFFFFFF#32 else x) = x := by
  refine if_neg ?_
  rw [BitVec.slt_iff_toInt_lt, Int.not_lt]
  exact Int.le_of_lt_add_one BitVec.toInt_lt

theorem greater_identity (x : Word) : (if x.slt 0x80000000#32 then 0x80000000#32 else x) = x := by
  refine if_neg ?_
  rw [BitVec.slt_iff_toInt_lt, Int.not_lt]
  exact BitVec.le_toInt x

theorem unsigned_lesser_identity (x : Word) : (if (0xFFFFFFFF#32).ult x then 0xFFFFFFFF#32 else x) = x := by
  refine if_neg ?_
  rw [BitVec.ult_iff_lt, BitVec.not_lt]
  exact BitVec.le_def.2 (Nat.le_of_lt_succ x.isLt)

theorem unsigned_greater_identity (x : Word) : (if x.ult 0#32 then 0#32 else x) = x := by
  refine if_neg ?_
  rw [BitVec.ult_iff_lt]
  exact BitVec.not_lt_zero

end Sys2Proof.Machine

namespace Sys2Proof.Proofs
open Sys2Proof Sys2Proof.Machine

/-- Settles O8: integer reductions by their identities, scans, then the floating-point trees, scans, minima and maxima. -/
theorem reductionResults : Obligations.ReductionResults := by
  refine ⟨fun d a => ⟨?_, ?_, ?_, ?_, ?_, ?_, ?_, ?_, ?_, ?_⟩, fun d a => ⟨?_, ?_, ?_, ?_, ?_⟩⟩
  · exact .of_reduceInt _ _ (exec_radd d a) (fun _ => BitVec.add_zero _) fun _ => foldl_add_sum _ _
  · exact .of_reduceInt _ _ (exec_rmin d a) lesser_identity fun _ => foldl_ofInt toInt_lesser _ _ _
  · exact .of_reduceInt _ _ (exec_rmax d a) greater_identity fun _ => foldl_ofInt toInt_greater _ _ _
  · exact .of_reduceInt _ _ (exec_rminu d a) unsigned_lesser_identity fun _ => foldl_ofNat toNat_lesser _ _ _
  · exact .of_reduceInt _ _ (exec_rmaxu d a) unsigned_greater_identity fun _ => foldl_ofNat toNat_greater _ _ _
  · exact .of_reduceInt _ _ (exec_rand d a) (fun _ => BitVec.and_allOnes) fun _ => rfl
  · exact .of_reduceInt _ _ (exec_ror d a) (fun _ => BitVec.or_zero) fun _ => rfl
  · exact .of_reduceInt _ _ (exec_rxor d a) (fun _ => BitVec.xor_zero) fun _ => rfl
  · exact .of_scan fun _ => rfl
  · exact .of_scan fun _ => rfl
  · exact .of_setTurn (fun _ => rfl) (fun _ h => Micro.reduceArgs_ready h) fun _ _ _ _ => by rw [map_codes]; rfl
  · exact .of_setTurn (fun _ => rfl) (fun _ h => Micro.reduceArgs_ready h) fun _ _ _ _ => by
      rw [← List.map_take, map_codes, ← List.map_take]; rfl
  · exact .of_setTurn (fun _ => rfl) (fun _ h => Micro.reduceArgs_ready h) fun _ _ _ _ => rfl
  · exact .of_setTurn (fun _ => rfl) (fun _ h => Micro.reduceArgs_ready h) fun _ _ _ _ => rfl
  · exact .of_setTurn (fun _ => rfl) (fun _ h => Micro.reducePair_ready h) fun _ _ _ _ => by rw [map_codes]; rfl

end Sys2Proof.Proofs

/-! The exact accumulators of the sets of a launch (R32, R62, R152, R153), and the register links (R149, R150). -/

namespace Sys2Proof.Machine

/-- The pieces of a list: piece `j` is the `j`-th run of `g`. -/
theorem getElem?_chunks_go {α : Type} {g : Nat} (hg : 0 < g) (n j : Nat) (xs : List α) (hn : xs.length ≤ n) :
    (chunks.go g n xs)[j]? = if j * g < xs.length then some ((xs.drop (j * g)).take g) else none := by
  induction n generalizing j xs with
  | zero =>
    obtain rfl := List.eq_nil_of_length_eq_zero (Nat.le_zero.1 hn)
    simp [chunks.go]
  | succ n ih =>
    rw [chunks.go]
    split
    · simp_all
    · cases j with
      | zero => simp_all [List.length_pos_iff]
      | succ j =>
        rw [List.getElem?_cons_succ, ih j (xs.drop g) (by rw [List.length_drop]; omega), List.drop_drop, List.length_drop, Nat.succ_mul,
          Nat.add_comm g]
        exact if_congr (by omega) rfl rfl

section
variable {c : Core} {l j x : Nat} {p : List Nat}

/-- The set of a number (R32). -/
theorem Core.getElem?_sets : (c.sets l)[j]? =
    if j * max 1 (c.grantOf l) < (c.owned l).length then
      some (((c.owned l).drop (j * max 1 (c.grantOf l))).take (max 1 (c.grantOf l))) else none :=
  getElem?_chunks_go (by omega) _ _ _ (Nat.le_refl _)

/-- The place of an owned slot names its set. -/
theorem Core.getElem?_sets_place (hx : x ∈ c.owned l) : (c.sets l)[(c.place l x).1]? = some (c.place l x).2.2 := by
  have hi := List.idxOf_lt_length_of_mem hx
  rw [Core.getElem?_sets]
  exact if_pos (Nat.lt_of_le_of_lt (Nat.div_mul_le_self _ _) hi)

/-- An owned slot stands in its set. -/
theorem Core.mem_place (hx : x ∈ c.owned l) : x ∈ (c.place l x).2.2 := by
  have hi := List.idxOf_lt_length_of_mem hx
  have hlane : (c.owned l).idxOf x % max 1 (c.grantOf l) < max 1 (c.grantOf l) := Nat.mod_lt _ (by omega)
  refine List.mem_iff_getElem?.2 ⟨(c.place l x).2.1, ?_⟩
  simp only [Core.place]
  rw [List.getElem?_take_of_lt hlane, List.getElem?_drop, Nat.div_add_mod', List.getElem?_eq_getElem hi, List.getElem_idxOf hi]

/-- A slot that stands in a set has that set's number. -/
theorem Core.place_of_mem (hs : Tbl.sorted c.slots = true) (hp : (c.sets l)[j]? = some p) (hx : x ∈ p) : (c.place l x).1 = j := by
  have hg : 0 < max 1 (c.grantOf l) := by omega
  rw [Core.getElem?_sets] at hp
  split at hp
  · obtain rfl := Option.some.inj hp
    obtain ⟨i, hi, rfl⟩ := List.mem_iff_getElem.1 hx
    rw [List.length_take] at hi
    simp only [Core.place, List.getElem_take, List.getElem_drop, (Core.owned_nodup hs).idxOf_getElem]
    rw [Nat.mul_comm, Nat.mul_add_div hg, Nat.div_eq_of_lt (by omega), Nat.add_zero]
  · cases hp

end

/-! Accumulators written one after another. -/

/-- The table of accumulators after those of the numbered sets with a value took what `new` makes of their values. -/
def xacsAfter {α β : Type} (vals : α → List β) (new : List β → Nat → Xac) (sets : List (α × Nat)) (x : Tbl Xac) : Tbl Xac :=
  sets.foldl (fun x p => if vals p.1 = [] then x else Tbl.set x p.2 (new (vals p.1) p.2)) x

section
variable {α β : Type} {vals : α → List β} {new : List β → Nat → Xac} {sets : List (α × Nat)} {j : Nat}

theorem xacsAfter_other (h : ∀ p ∈ sets, p.2 = j → vals p.1 = []) (x : Tbl Xac) : Tbl.get? (xacsAfter vals new sets x) j = Tbl.get? x j := by
  induction sets generalizing x with
  | nil => rfl
  | cons p sets ih =>
    rw [xacsAfter, List.foldl_cons]
    refine (ih (fun q hq => h q (List.mem_cons_of_mem _ hq)) _).trans ?_
    split
    · rfl
    · exact Tbl.get?_set_other _ _ _ _ fun hj => ‹¬ _› (h p List.mem_cons_self hj.symm)

theorem xacsAfter_self {p : α × Nat} (hd : sets.Pairwise fun p q => p.2 ≠ q.2) (hp : p ∈ sets) (hv : vals p.1 ≠ []) (x : Tbl Xac) :
    Tbl.get? (xacsAfter vals new sets x) p.2 = some (new (vals p.1) p.2) := by
  induction sets generalizing x with
  | nil => cases hp
  | cons q sets ih =>
    obtain ⟨hq, hd⟩ := List.pairwise_cons.1 hd
    rw [xacsAfter, List.foldl_cons]
    rcases List.mem_cons.1 hp with rfl | hp
    · rw [if_neg hv]
      exact (xacsAfter_other (fun r hr hj => absurd hj.symm (hq r hr)) _).trans (Tbl.get?_set_self _ _ _)
    · exact ih hd hp _

end

/-- The numbers of an indexed list are distinct. -/
theorem pairwise_zipIdx {α : Type} (l : List α) : l.zipIdx.Pairwise fun p q => p.2 ≠ q.2 := by
  have h : (l.zipIdx.map Prod.snd).Nodup := by
    rw [List.zipIdx_map_snd]
    exact List.nodup_range'
  exact List.pairwise_map.1 h

theorem Tbl.modify_id {α : Type} (t : Tbl α) (k : Nat) : Tbl.modify t k (fun a => a) = t := by
  induction t with
  | nil => rfl
  | cons p t ih =>
    obtain ⟨j, a⟩ := p
    by_cases h : j = k <;> simp [Tbl.modify, h, ih]

/-- A key that stands in a table is found. -/
theorem Tbl.exists_get?_of_mem {α : Type} {t : Tbl α} {k : Nat} (h : k ∈ t.map Prod.fst) : ∃ a, Tbl.get? t k = some a := by
  induction t with
  | nil => cases h
  | cons p t ih =>
    obtain ⟨j, a⟩ := p
    by_cases hk : j = k
    · exact ⟨a, by simp [Tbl.get?, hk]⟩
    · obtain ⟨b, hb⟩ := ih ((List.mem_cons.1 h).resolve_left (Ne.symm hk))
      exact ⟨b, by simp [Tbl.get?, hk, hb]⟩

/-- A launch of a core is found. -/
theorem Core.exists_of_mem_launches {c : Core} {l : Nat} (h : l ∈ c.launches) : ∃ r, Tbl.get? c.res l = some r :=
  Tbl.exists_get?_of_mem (List.Sublist.subset (List.filter_sublist.map Prod.fst) h)

/-- Writes of a launch's accumulators, one set after another, are one change of the launch. -/
theorem Core.foldl_xacs {α β : Type} {vals : α → List β} {new : List β → Nat → Xac} {l : Nat} {step : Core → α × Nat → Core}
    (h : ∀ t p, step t p =
      if vals p.1 = [] then t else t.modRes l fun r => { r with xacs := Tbl.set r.xacs p.2 (new (vals p.1) p.2) })
    (sets : List (α × Nat)) (c : Core) :
    sets.foldl step c = c.modRes l fun r => { r with xacs := xacsAfter vals new sets r.xacs } := by
  induction sets generalizing c with
  | nil => simp [xacsAfter, Core.modRes, Tbl.modify_id]
  | cons p sets ih =>
    rw [List.foldl_cons, ih, h]
    simp only [xacsAfter, List.foldl_cons]
    by_cases hv : vals p.1 = [] <;> simp [hv, Core.modRes, Tbl.modify_modify]

section
variable {s t : State} {n l k : Nat} {g : Group} {f f' : Res → Res}

theorem OnlySlots.congr (h : OnlySlots n l f s t) (hf : ∀ r, s.res? n l = some r → f r = f' r) : OnlySlots n l f' s t := by
  obtain ⟨hcore, hparts, hres⟩ := h
  refine ⟨hcore, hparts, fun x => (hres x).trans ?_⟩
  cases hx : s.res? n x with
  | none => rfl
  | some r =>
    by_cases hl : x = l
    · subst hl
      simp [hf r hx]
    · simp [hl]

/-- The end of a turn that changed micro-threads and the group's launch. -/
theorem onlySlots_turn (s : State) (n k : Nat) (g : Group) (slots : Tbl Micro) (f : Res → Res) (len w : Nat) (ll : Bool) (hn : n < 80) :
    OnlySlots n g.launch f s
      (s.modCore n fun _ => (Core.modRes { s.core n with slots := slots } g.launch f).endTurn k g len w ll) := by
  have hc := State.core_modCore_self s n (fun _ => (Core.modRes { s.core n with slots := slots } g.launch f).endTurn k g len w ll) hn
  refine ⟨⟨State.modCore_eq s n _, fun x hx => State.core_modCore_other s n x _ hx⟩, ?_, fun x => ?_⟩
  · rw [hc, Core.endTurn, Core.charge_eq]
    rfl
  · rw [State.res?, State.res?, hc]
    refine (Core.charge_res _ g.launch (w * g.members.length) x).trans ?_
    rw [Core.modRes, Tbl.get?_modify, Option.map_map]
    rfl

end

section
variable {α : Type} {i : Instr} {w : Nat} {rs : List Reg} {read : Micro → Except Flt α} {val : Micro → α}

/-- The values of the active lanes of a member's set. -/
theorem State.filterMap_active {s : State} {n : Nat} {g : Group} (h : s.MembersReady n g rs) (hr : ∀ m, m.Ready rs → read m = .ok (val m))
    (slot : Nat) :
    ((s.core n).place g.launch slot).2.2.filterMap ((s.core n).active g read) = (actives (s.lanesOf n g slot)).map val := by
  have hl := congrArg (List.filterMap id) (s.lanes_active h hr slot)
  rw [List.filterMap_map, List.filterMap_map] at hl
  rw [actives, List.map_filterMap]
  exact hl

/-- What a turn on the accumulators makes of the launch. -/
def Core.xacsTurn (c : Core) (g : Group) (read : Micro → Except Flt α) (upd : List α → Xac → Xac) (r : Res) : Res :=
  { r with xacs := xacsAfter (List.filterMap (c.active g read)) (fun vs j => upd vs (c.xac g.launch j)) (c.sets g.launch).zipIdx r.xacs }

theorem xacTurn_eq {s : State} {n k : Nat} {c : Core} {g : Group} (hs : s.seat? = some (n, k, c, g)) (upd : List α → Xac → Xac)
    (write : Xac → Micro → Micro) :
    xacTurn w read upd write s = .next (s.modCore n fun _ =>
      ((c.runSets g s.curWord read fun _ setNo _ _ m => write (c.xac g.launch setNo) m).modRes g.launch
        (c.xacsTurn g read upd)).endTurn k g 4 w false) := by
  rw [xacTurn, hs]
  refine congrArg Host.Outcome.next (congrArg (State.modCore s n) (funext fun _ => congrArg (Core.endTurn · k g 4 w false) ?_))
  refine Core.foldl_xacs (fun t p => ?_) _ _
  split <;> simp_all

section
variable {c : Core} {g : Group} {upd : List α → Xac → Xac} {j : Nat}

/-- The accumulator of a set with an active lane takes the values of its lanes. -/
theorem Core.xacsTurn_self {p : List Nat} (hp : (c.sets g.launch)[j]? = some p) (hv : p.filterMap (c.active g read) ≠ []) (r : Res) :
    Tbl.get? (c.xacsTurn g read upd r).xacs j = some (upd (p.filterMap (c.active g read)) (c.xac g.launch j)) :=
  xacsAfter_self (new := fun vs j => upd vs (c.xac g.launch j)) (p := (p, j)) (pairwise_zipIdx _) (List.mk_mem_zipIdx_iff_getElem?.2 hp) hv _

/-- The accumulator of a set with no member in the group stays. -/
theorem Core.xacsTurn_other (hs : Tbl.sorted c.slots = true) (hj : ∀ x ∈ g.members, (c.place g.launch x).1 ≠ j) (r : Res) :
    Tbl.get? (c.xacsTurn g read upd r).xacs j = Tbl.get? r.xacs j := by
  refine xacsAfter_other (vals := List.filterMap (c.active g read)) (new := fun vs j => upd vs (c.xac g.launch j))
    (fun p hp hpj => List.filterMap_eq_nil_iff.2 fun x hx => ?_) _
  have hset : (c.sets g.launch)[j]? = some p.1 := hpj ▸ List.mem_zipIdx_iff_getElem?.1 hp
  have : x ∉ g.members := fun hm => hj x hm (Core.place_of_mem hs hset hx)
  simp [Core.active, this]

end

/-- An instruction on the exact accumulators whose members are ready gives its result (see `XacResult`). -/
theorem XacResult.of_xacTurn {upd : List α → Xac → Xac} {upd' : List Micro → Xac → Xac} {write : Xac → Micro → Micro}
    (he : ∀ s, exec i s = xacTurn w read upd write s) (hr : ∀ m, m.Ready rs → read m = .ok (val m))
    (hu : ∀ us x, upd (us.map val) x = upd' us x) : XacResult i rs upd' write := by
  intro s n k c g hs hl hsort hown hready
  obtain ⟨hn, rfl, hg, -⟩ := State.seat_parts hs
  obtain ⟨r, hres⟩ : ∃ r, s.res? n g.launch = some r := Core.exists_of_mem_launches hl
  refine ⟨_, (he s).trans (xacTurn_eq hs upd write), ?_⟩
  generalize ht : s.modCore n _ = t
  have hframe : OnlySlots n g.launch ((s.core n).xacsTurn g read upd) s t := ht ▸ onlySlots_turn s n k g _ _ 4 w false hn
  have hlaunch : t.res? n g.launch = some { (s.core n).xacsTurn g read upd r with budget := ((t.res? n g.launch).map Res.budget).getD 0 } := by
    have h := hframe.2.2 g.launch
    rwa [hres, Option.map_some, if_pos rfl] at h
  have hxac : ∀ j, t.xacOf n g.launch j = (Tbl.get? ((s.core n).xacsTurn g read upd r).xacs j).getD Xac.zero := fun j => by
    rw [State.xacOf, hlaunch]
  have hslot : ∀ x, t.microAt n x = Tbl.get? ((s.core n).runSets g s.curWord read fun _ setNo _ _ m =>
      write ((s.core n).xac g.launch setNo) m).slots x := fun x => by
    rw [State.microAt, ← ht, State.core_modCore_self _ _ _ hn, Core.endTurn_slots]
    rfl
  refine ⟨fun slot m hm hslotm => ⟨?_, ?_⟩, fun j hj => ?_, fun x hx => ?_, ?_⟩
  · obtain ⟨u, hu, huready⟩ := hready slot hm
    obtain rfl : m = u := Option.some.inj (hslotm.symm.trans hu)
    rw [hslot, Core.runSets, Tbl.get?_mapKV, show Tbl.get? (s.core n).slots slot = some m from hslotm]
    simp only [Option.map_some, List.contains_eq_mem, hm, decide_true, ite_true, hr m huready]
    rfl
  · have hvals := s.filterMap_active hready hr slot
    have hmem : m ∈ actives (s.lanesOf n g slot) := List.mem_filterMap.2 ⟨some m, List.mem_map.2
      ⟨slot, Core.mem_place (hown slot hm), by rw [if_pos hm, hslotm]⟩, rfl⟩
    have hne : ((s.core n).place g.launch slot).2.2.filterMap ((s.core n).active g read) ≠ [] := by
      rw [hvals]
      exact List.ne_nil_of_mem (List.mem_map_of_mem hmem)
    rw [hxac, State.setOf, Core.xacsTurn_self (Core.getElem?_sets_place (hown slot hm)) hne, hvals, hu]
    rfl
  · rw [hxac, Core.xacsTurn_other hsort hj, State.xacOf, hres]
  · rw [hslot, Core.runSets, Tbl.get?_mapKV, State.microAt]
    cases Tbl.get? (s.core n).slots x <;> simp [hx]
  · refine hframe.congr fun q hq => ?_
    obtain rfl := Option.some.inj (hq.symm.trans hres)
    rw [hlaunch]
    rfl

end

section
variable {a b d : Reg} {m : Micro}

/-! What the members of a turn on the accumulators read. -/

theorem Micro.xadd_ready (h : m.Ready [a]) : (do m.need [a]; m.rd a : Except Flt Word) = .ok (m.reg a) := by
  simp only [Micro.need_ok h, Micro.rd_ok (h a (by simp)).2, bind, Except.bind]

theorem Micro.xmad_ready (h : m.Ready [a, b]) :
    (do m.need [a, b]; let x ← m.rd a; let y ← m.rd b; .ok (x, y) : Except Flt (Word × Word)) = .ok (m.reg a, m.reg b) := by
  simp only [Micro.need_ok h, Micro.rd_ok (h a (by simp)).2, Micro.rd_ok (h b (by simp)).2, bind, Except.bind]

theorem Micro.xrnd_ready (h : m.Ready [d]) : (do m.need [d]; m.wrOk d 1 : Except Flt Unit) = .ok () := by
  simp only [Micro.need_ok h, Micro.wrOk_clear (h d (by simp)).2.1, bind, Except.bind]

theorem Micro.xrndd_ready (h : m.Ready (pairOf d)) : (do m.need [d]; m.wrOk d 2 : Except Flt Unit) = .ok () := by
  simp only [Micro.need_ok (h.sub (qs := [d]) (by simp [pairOf])), Micro.wrOk_ok (h.clear (qs := groupCodes d 2) (by simp [pairOf])), bind,
    Except.bind]

/-! The turn of each instruction on the accumulators. -/

theorem exec_xclr (s : State) : exec .xclr s = xacTurn 1 (fun _ => .ok ()) (fun _ _ => Xac.zero) (fun _ m => m) s := rfl

theorem exec_xadd (a : Reg) (s : State) : exec (.xadd a) s =
    xacTurn 2 (fun m => do m.need [a]; m.rd a) (fun vs x => vs.foldl (fun x v => x.addTerm (fp32.value v.toNat)) x) (fun _ m => m) s := rfl

theorem exec_xmad (a b : Reg) (s : State) : exec (.xmad a b) s =
    xacTurn 2 (fun m => do m.need [a, b]; let x ← m.rd a; let y ← m.rd b; .ok (x, y))
      (fun vs x => vs.foldl (fun x v => x.addTerm (xacProduct v.1.toNat v.2.toNat)) x) (fun _ m => m) s := rfl

theorem exec_xrnd (d : Reg) (s : State) : exec (.xrnd d) s =
    xacTurn 2 (fun m => do m.need [d]; m.wrOk d 1) (fun _ x => x)
      (fun x m => (m.setReg d (BitVec.ofNat 32 (x.rounded fp32).1)).raise (x.rounded fp32).2) s := rfl

theorem exec_xrndd (d : Reg) (s : State) : exec (.xrndd d) s =
    xacTurn 4 (fun m => do m.need [d]; m.wrOk d 2) (fun _ x => x)
      (fun x m => (m.setPair d (BitVec.ofNat 64 (x.rounded fp64).1)).raise (x.rounded fp64).2) s := rfl

end

end Sys2Proof.Machine

/-! The register links (R149, R150). -/

namespace Sys2Proof.Machine

section
variable {c : Core} {l x : Nat} {a d num : Reg} {m u : Micro}

/-- The micro-thread of a launch that a slot holds has a register of that number with no result outstanding (R149). -/
def Core.Linked (c : Core) (l x : Nat) (num : Reg) (u : Micro) : Prop :=
  x < 1024 ∧ Tbl.get? c.slots x = some u ∧ u.owner = some l ∧ u.life ≠ .created ∧ u.life ≠ .retired ∧ num.toNat < u.bud ∧
    u.pend.getLsbD num.toNat = false

theorem Core.linkTarget_ok {slot : Word} {write : Bool} (h : c.Linked l slot.toNat num u) : c.linkTarget l slot num write = .ok u := by
  obtain ⟨hx, hu, howner, hcreated, hretired, hbud, hpend⟩ := h
  have hmicro : c.micro slot.toNat = u := by rw [Core.micro, hu, Option.getD_some]
  simp [Core.linkTarget, hmicro, howner, hcreated, hretired, hpend, Config.numSlots, Nat.not_le.2 hx, Nat.not_le.2 hbud]

theorem Core.linkWrite_ready (hnum : num.toNat < 56) (h : m.Ready [d, a]) (hu : c.Linked l (m.reg a).toNat num u) :
    c.linkWrite l d a num m = .ok ((m.reg a).toNat, m.reg d) := by
  simp only [Core.linkWrite, if_neg (Nat.not_le.2 hnum), Micro.need_ok h, Micro.rd_ok (h d (by simp)).2, Micro.rd_ok (h a (by simp)).2,
    Core.linkTarget_ok hu, bind, Except.bind]

/-- Of two writes of one register the later one counts. -/
theorem Micro.setReg_setReg (m : Micro) (r : Reg) (v w : Word) : (m.setReg r v).setReg r w = m.setReg r w := by
  simp [Micro.setReg, BitVec.and_assoc]

/-! Links written one after another, by the members `ys`: `y` writes `val y` into the slot `target y`. -/

/-- The core after the links of `ys` are written. -/
def Core.linkAll (c : Core) (num : Reg) (target : Nat → Nat) (val : Nat → Word) (ys : List Nat) : Core :=
  ys.foldl (fun t y => t.modMicro (target y) fun m => m.setReg num (val y)) c

variable {target : Nat → Nat} {val : Nat → Word} {ys : List Nat}

theorem Core.linkAll_cons (y : Nat) : c.linkAll num target val (y :: ys) =
    (c.modMicro (target y) fun m => m.setReg num (val y)).linkAll num target val ys := rfl

theorem Core.linkAll_eq (c : Core) : c.linkAll num target val ys = { c with slots := (c.linkAll num target val ys).slots } := by
  induction ys generalizing c with
  | nil => rfl
  | cons y ys ih => rw [Core.linkAll_cons, ih]; rfl

/-- A slot that no member names stays. -/
theorem Core.linkAll_other (h : ∀ y ∈ ys, target y ≠ x) (c : Core) :
    Tbl.get? (c.linkAll num target val ys).slots x = Tbl.get? c.slots x := by
  induction ys generalizing c with
  | nil => rfl
  | cons y ys ih =>
    rw [Core.linkAll_cons, ih fun z hz => h z (List.mem_cons_of_mem _ hz)]
    exact Tbl.get?_set_other _ _ _ _ (h y List.mem_cons_self).symm

/-- A slot that members name takes the value of the highest of them. -/
theorem Core.linkAll_last (hys : ys.Pairwise (· < ·)) {y : Nat} (hy : y ∈ ys) (hlast : ∀ z ∈ ys, y < z → target z ≠ target y) (c : Core) :
    Tbl.get? (c.linkAll num target val ys).slots (target y) = some ((c.micro (target y)).setReg num (val y)) := by
  induction ys generalizing c with
  | nil => cases hy
  | cons z ys ih =>
    obtain ⟨hz, hys⟩ := List.pairwise_cons.1 hys
    rw [Core.linkAll_cons]
    rcases List.mem_cons.1 hy with rfl | hy
    · rw [Core.linkAll_other fun w hw => hlast w (List.mem_cons_of_mem _ hw) (hz w hw)]
      exact Tbl.get?_set_self _ _ _
    · rw [ih hys hy fun w hw => hlast w (List.mem_cons_of_mem _ hw)]
      by_cases ht : target y = target z
      · rw [ht, Core.micro_modMicro_self, Micro.setReg_setReg]
      · rw [Core.micro_modMicro_other _ _ _ _ ht]

end

section
variable {s : State} {n k : Nat} {g : Group} {a d num : Reg}

/-- LINKR on ready operands reads the register of the micro-thread linked to. -/
theorem exec_linkr_answers {slot : Nat} {m u : Micro} (hnum : num.toNat < 56) (h : s.Member n k g slot m) (howner : m.owner = some g.launch)
    (hm : m.Ready [d, a]) (hu : (s.core n).Linked g.launch (m.reg a).toNat num u) (hbad : u.bad.getLsbD num.toNat = false) :
    Answers (.linkr d a num) s fun t => t.microAt n slot = some (m.setReg d (u.reg num)) ∧ OnlyMembers n g s t := by
  obtain ⟨t, ht, hframe, hslot⟩ := lanes_spec 4 1 (fun c slot m => do
    if 56 ≤ num.toNat then .error .illegal
    else
      m.need [d, a]
      let x ← m.rd a
      m.wrOk d 1
      let t ← c.linkTarget ((c.micro slot).owner.getD 0) x num false
      if t.bad.getLsbD num.toNat then .error (.machineCheck num)
      else .ok (m.setReg d (t.reg num))) h
  refine ⟨t, ht, ?_, hframe⟩
  have hself : (s.core n).micro slot = m := State.micro_of_microAt h.2.2
  rw [hslot]
  simp only [if_neg (Nat.not_le.2 hnum), Micro.need_ok hm, Micro.rd_ok (hm a (by simp)).2, Micro.wrOk_clear (hm d (by simp)).2.1, hself,
    howner, Option.getD_some, Core.linkTarget_ok hu, hbad, Bool.false_eq_true, if_false, bind, Except.bind]

/-- LINKW on ready operands: no member changes for itself, and then every member writes its d, in ascending slot order. -/
theorem exec_linkw_eq {c : Core} (hnum : num.toNat < 56) (hs : s.seat? = some (n, k, c, g))
    (hm : ∀ x ∈ g.members, ∃ m u, Tbl.get? c.slots x = some m ∧ m.Ready [d, a] ∧ c.Linked g.launch (m.reg a).toNat num u) :
    ∃ slots : Tbl Micro, (∀ x, Tbl.get? slots x = Tbl.get? c.slots x) ∧
      exec (.linkw d a num) s = .next (s.modCore n fun _ =>
        (Core.linkAll { c with slots := slots } num (fun y => ((c.micro y).reg a).toNat) (fun y => (c.micro y).reg d)
          g.members).endTurn k g 4 1 false) := by
  have hexec : exec (.linkw d a num) s = execLinkw d a num s := rfl
  refine ⟨(c.runLanes g s.curWord 4 fun _ m => match c.linkWrite g.launch d a num m with
      | .ok _ => .ok m
      | .error e => .error e).slots, fun x => ?_, ?_⟩
  · rw [Core.runLanes, Tbl.get?_mapKV]
    by_cases hx : x ∈ g.members
    · obtain ⟨m, u, hxm, hready, hu⟩ := hm x hx
      simp [hxm, hx, Core.linkWrite_ready hnum hready hu]
    · simp [hx]
  · rw [hexec, execLinkw, hs]
    refine congrArg Host.Outcome.next (congrArg (State.modCore s n) (funext fun _ => congrArg (Core.endTurn · k g 4 1 false) ?_))
    refine List.foldl_ext _ _ _ fun t y hy => ?_
    obtain ⟨m, u, hym, hready, hu⟩ := hm y hy
    have hmicro : c.micro y = m := by rw [Core.micro, hym, Option.getD_some]
    simp only [hmicro, Core.linkWrite_ready hnum hready hu]

/-- The end of a turn that changed micro-threads alone. -/
theorem onlySlots_of_slots (s : State) (n k : Nat) (g : Group) (slots : Tbl Micro) (len w : Nat) (ll : Bool) (hn : n < 80) :
    OnlySlots n g.launch (fun r => r) s (s.modCore n fun _ => Core.endTurn { s.core n with slots := slots } k g len w ll) := by
  have h := onlySlots_turn s n k g slots (fun r => r) len w ll hn
  rwa [Core.modRes, Tbl.modify_id] at h

end

end Sys2Proof.Machine

namespace Sys2Proof.Proofs
open Sys2Proof Sys2Proof.Machine

/-- Settles O9: the turn on the accumulators instruction by instruction, the register linked to, and the links written in slot order. -/
theorem exactAccumulatorAndLinkResults : Obligations.ExactAccumulatorAndLinkResults := by
  refine ⟨fun d a b => ⟨?_, ?_, ?_, ?_, ?_⟩, fun d a num s n k g hnum => ⟨?_, ?_⟩⟩
  · exact .of_xacTurn (val := fun _ => ()) exec_xclr (fun _ _ => rfl) fun _ _ => rfl
  · exact .of_xacTurn (exec_xadd a) (fun _ h => Micro.xadd_ready h) fun _ _ => List.foldl_map
  · exact .of_xacTurn (exec_xmad a b) (fun _ h => Micro.xmad_ready h) fun _ _ => List.foldl_map
  · exact .of_xacTurn (val := fun _ => ()) (exec_xrnd d) (fun _ h => Micro.xrnd_ready h) fun _ _ => rfl
  · exact .of_xacTurn (val := fun _ => ()) (exec_xrndd d) (fun _ h => Micro.xrndd_ready h) fun _ _ => rfl
  · exact fun slot m u h howner hm hu hbad => exec_linkr_answers hnum h howner hm hu hbad
  · rintro ⟨c, hs⟩ hmembers hm names
    obtain ⟨hn, rfl, -, -⟩ := State.seat_parts hs
    obtain ⟨slots, hslots, hexec⟩ := exec_linkw_eq hnum hs hm
    refine ⟨_, hexec, ?_⟩
    generalize ht : s.modCore n _ = t
    have hslot : ∀ x, t.microAt n x = Tbl.get? (Core.linkAll { s.core n with slots := slots } num
        (fun y => (((s.core n).micro y).reg a).toNat) (fun y => ((s.core n).micro y).reg d) g.members).slots x := fun x => by
      rw [State.microAt, ← ht, State.core_modCore_self _ _ _ hn, Core.endTurn_slots]
    have hnames : ∀ y ∈ g.members, names y (((s.core n).micro y).reg a).toNat := fun y hy => by
      obtain ⟨m, u, hym, -⟩ := hm y hy
      exact ⟨m, hym, by rw [State.micro_of_microAt hym]⟩
    refine ⟨fun y hy m x u hym hx hxu hlast => ?_, fun x hx => ?_, ?_⟩
    · obtain rfl := State.micro_of_microAt hym
      subst hx
      have hother : ∀ z ∈ g.members, y < z → (((s.core n).micro z).reg a).toNat ≠ (((s.core n).micro y).reg a).toNat :=
        fun z hz hyz he => hlast z hz hyz (he ▸ hnames z hz)
      rw [hslot, Core.linkAll_last hmembers hy hother, Core.micro, hslots, show Tbl.get? (s.core n).slots _ = some u from hxu,
        Option.getD_some]
    · have hother : ∀ y ∈ g.members, (((s.core n).micro y).reg a).toNat ≠ x := fun y hy he => hx y hy (he ▸ hnames y hy)
      rw [hslot, Core.linkAll_other hother, hslots]
      rfl
    · rw [← ht, Core.linkAll_eq]
      exact onlySlots_of_slots s n k g _ 4 1 false hn

end Sys2Proof.Proofs

/-! Codes and values of the arithmetic formats: NaNs, zeros and signs (R42, R43), and what a sum, a product, a minimum and a maximum make
of them (R44, R46, R47). -/

namespace Sys2Proof.Machine

/-- A format with infinities, whose sign bit lies above its exponent and its fraction, and whose fraction has a quiet bit. -/
def Fmt.Arithmetic (f : Fmt) : Prop := f.hasInf = true ∧ 2 ≤ f.prec ∧ f.prec < f.width

/-- The code of a NaN (R43). -/
def Fmt.NanCode (f : Fmt) (z : Nat) : Prop := f.infCode < z % f.signBit

/-- The code of a signalling NaN (R43): its quiet bit is clear. -/
def Fmt.Signals (f : Fmt) (z : Nat) : Prop := f.NanCode z ∧ z / 2 ^ (f.prec - 2) % 2 = 0

/-- The code with its sign bit inverted. -/
def Fmt.flip (f : Fmt) (z : Nat) : Nat := if z < f.signBit then z + f.signBit else z - f.signBit

section
variable {f : Fmt} {x y z : Nat}

theorem Fmt.two_signBit (hf : f.Arithmetic) : 2 * f.signBit = 2 ^ f.width := by
  obtain ⟨-, hp, hw⟩ := hf
  rw [Fmt.signBit, ← Nat.pow_succ']
  congr 1
  omega

theorem Fmt.signBit_pos : 0 < f.signBit := Nat.two_pow_pos _

/-- The quiet bit of a code does not depend on its sign. -/
theorem Fmt.testBit_quiet (hf : f.Arithmetic) (z : Nat) :
    (z % f.signBit / (f.hidden / 2)).testBit 0 = decide (z / 2 ^ (f.prec - 2) % 2 = 1) := by
  obtain ⟨-, hp, hw⟩ := hf
  have hhalf : f.hidden / 2 = 2 ^ (f.prec - 2) := by
    rw [Fmt.hidden, show f.prec - 1 = f.prec - 2 + 1 by omega, Nat.pow_succ, Nat.mul_div_cancel _ (by decide)]
  rw [hhalf, Nat.testBit_div_two_pow, Fmt.signBit, Nat.testBit_mod_two_pow, Nat.testBit_eq_decide_div_mod_eq, Nat.zero_add]
  simp [show f.prec - 2 < f.width - 1 by omega]

theorem Fmt.value_nan (hf : f.Arithmetic) (h : f.NanCode z) : f.value z = .nan (decide (z / 2 ^ (f.prec - 2) % 2 = 0)) := by
  have h' : f.maxCode + 1 < z % f.signBit := h
  have hbit : (!decide (z / 2 ^ (f.prec - 2) % 2 = 1)) = decide (z / 2 ^ (f.prec - 2) % 2 = 0) := by
    rcases Nat.mod_two_eq_zero_or_one (z / 2 ^ (f.prec - 2)) with h | h <;> simp [h]
  simp only [Fmt.value, if_neg (show ¬ z % f.signBit ≤ f.maxCode by omega), hf.1, Fmt.infCode, Bool.true_and, beq_iff_eq,
    if_neg (show ¬ z % f.signBit = f.maxCode + 1 by omega), Fmt.testBit_quiet hf, hbit]

theorem Fmt.value_fin (h : z % f.signBit ≤ f.maxCode) : f.value z =
    .fin (decide (f.signBit ≤ z % 2 ^ f.width)) (f.magnitude (z % f.signBit)).1 (f.magnitude (z % f.signBit)).2 := if_pos h

theorem Fmt.value_inf (hf : f.Arithmetic) (h : z % f.signBit = f.infCode) : f.value z = .inf (decide (f.signBit ≤ z % 2 ^ f.width)) := by
  simp only [Fmt.value, h, hf.1, if_neg (show ¬ f.infCode ≤ f.maxCode from Nat.not_succ_le_self _), BEq.rfl, Bool.and_self, if_true]

theorem Fmt.value_isNan (hf : f.Arithmetic) : (f.value z).isNan = true ↔ f.NanCode z := by
  refine ⟨fun h => ?_, fun h => by rw [Fmt.value_nan hf h]; rfl⟩
  by_contra hz
  rw [Fmt.NanCode, Fmt.infCode] at hz
  by_cases hc : z % f.signBit ≤ f.maxCode
  · rw [Fmt.value_fin hc] at h
    cases h
  · have heq : z % f.signBit = f.infCode := by rw [Fmt.infCode]; omega
    rw [Fmt.value_inf hf heq] at h
    cases h

theorem Num.isNan_of_isSignalling {v : Num} (h : v.isSignalling = true) : v.isNan = true := by
  cases v with
  | nan _ => rfl
  | inf _ => cases h
  | fin _ _ _ => cases h

theorem Fmt.value_isSignalling (hf : f.Arithmetic) : (f.value z).isSignalling = true ↔ f.Signals z := by
  by_cases hz : f.NanCode z
  · rw [Fmt.value_nan hf hz]
    simp [Num.isSignalling, Fmt.Signals, hz]
  · exact iff_of_false (fun h => hz ((Fmt.value_isNan hf).1 (Num.isNan_of_isSignalling h))) fun h => hz h.1

@[simp] theorem Num.negate_isNan (v : Num) : v.negate.isNan = v.isNan := by cases v <;> rfl

@[simp] theorem Num.negate_isSignalling (v : Num) : v.negate.isSignalling = v.isSignalling := by cases v <;> rfl

/-- The result of an operation on a NaN (R43, R46): the canonical NaN, invalid where an operand signals. -/
def Fmt.nanResult (f : Fmt) (signals : Bool) : FpRes := if signals then f.invalid else f.quiet

theorem Num.nan_cases {u v : Num} (h : u.isNan = true ∨ v.isNan = true) : (∃ b, u = .nan b) ∨ ∃ b, v = .nan b := by
  cases u with
  | nan b => exact .inl ⟨b, rfl⟩
  | inf _ | fin _ _ _ => cases v <;> simp_all [Num.isNan]

theorem addNum_nan {rm : Rm} {u v : Num} (h : u.isNan = true ∨ v.isNan = true) :
    addNum f rm u v = f.nanResult (u.isSignalling || v.isSignalling) := by
  refine ite_congr rfl (fun _ => rfl) fun _ => ?_
  rcases Num.nan_cases h with ⟨_, rfl⟩ | ⟨_, rfl⟩
  · rfl
  · cases u <;> rfl

theorem mulNum_nan {rm : Rm} {u v : Num} (h : u.isNan = true ∨ v.isNan = true) :
    mulNum f rm u v = f.nanResult (u.isSignalling || v.isSignalling) := by
  refine ite_congr rfl (fun _ => rfl) fun _ => ?_
  rcases Num.nan_cases h with ⟨_, rfl⟩ | ⟨_, rfl⟩
  · rfl
  · cases u <;> rfl

/-- A sum, a difference or a product with a NaN (R43). -/
theorem fpOps_nan {rm : Rm} (hf : f.Arithmetic) (h : f.NanCode x ∨ f.NanCode y) :
    ∀ op ∈ [fpAdd f rm, fpSub f rm, fpMul f rm], op x y = f.nanResult ((f.value x).isSignalling || (f.value y).isSignalling) := by
  have hnan := h.imp (Fmt.value_isNan hf).2 (Fmt.value_isNan hf).2
  intro op hop
  simp only [List.mem_cons, List.not_mem_nil, or_false] at hop
  rcases hop with rfl | rfl | rfl
  · exact addNum_nan hnan
  · refine (addNum_nan (hnan.imp_right (Num.negate_isNan _).trans)).trans ?_
    rw [Num.negate_isSignalling]
  · exact mulNum_nan hnan

theorem Fmt.nanResult_code (b : Bool) : (f.nanResult b).1 = f.nanCode := by cases b <;> rfl

/-! Minimum and maximum (R44). -/

theorem fpMinMax_flags (big : Bool) :
    (fpMinMax f big x y).2 = if (f.value x).isSignalling || (f.value y).isSignalling then flagNV else noFlags := by
  simp only [fpMinMax]
  split_ifs <;> rfl

theorem fpMinMax_code (big : Bool) : (fpMinMax f big x y).1 =
    if (f.value x).isNan then if (f.value y).isNan then f.nanCode else y
    else if (f.value y).isNan then x
    else if (if big then numLt true (f.value x) (f.value y) else numLt true (f.value y) (f.value x)) then y else x := by
  simp only [fpMinMax]
  cases big <;> split_ifs <;> rfl

/-! Zeros and signs. -/

theorem Fmt.magnitude_zero : f.magnitude 0 = (0, f.emin) := by simp [Fmt.magnitude]

theorem Fmt.value_zero : f.value 0 = .fin false 0 f.emin := by
  rw [Fmt.value_fin (by simp), Nat.zero_mod, Nat.zero_mod, Fmt.magnitude_zero, decide_eq_false (Nat.not_le.2 f.signBit_pos)]

theorem Fmt.value_signBit (hf : f.Arithmetic) : f.value f.signBit = .fin true 0 f.emin := by
  have hlt : f.signBit < 2 ^ f.width := by
    have := f.two_signBit hf
    have := f.signBit_pos
    omega
  rw [Fmt.value_fin (by simp), Nat.mod_self, Fmt.magnitude_zero, Nat.mod_eq_of_lt hlt, decide_eq_true (Nat.le_refl _)]

@[simp] theorem Fmt.code_zero (neg : Bool) (e : Int) : f.code (.fin neg 0 e) = if neg then f.signBit else 0 := by simp [Fmt.code]

/-- Inverting the sign bit of a finite code negates its value. -/
theorem Fmt.value_flip (hf : f.Arithmetic) (hx : x < 2 ^ f.width) (h : x % f.signBit ≤ f.maxCode) :
    f.value (f.flip x) = (f.value x).negate := by
  have htwo := f.two_signBit hf
  by_cases hs : x < f.signBit
  · have hflip : f.flip x = x + f.signBit := if_pos hs
    rw [hflip, Fmt.value_fin h, Fmt.value_fin (by rwa [Nat.add_mod_right]), Nat.add_mod_right, Nat.mod_eq_of_lt hx,
      Nat.mod_eq_of_lt (by omega : x + f.signBit < 2 ^ f.width), decide_eq_false (Nat.not_le.2 hs), decide_eq_true (Nat.le_add_left _ _)]
    rfl
  · have hle := Nat.le_of_not_lt hs
    have hflip : f.flip x = x - f.signBit := if_neg hs
    have hmod : (x - f.signBit) % f.signBit = x % f.signBit := (Nat.mod_eq_sub_mod hle).symm
    rw [hflip, Fmt.value_fin h, Fmt.value_fin (by rwa [hmod]), hmod, Nat.mod_eq_of_lt hx,
      Nat.mod_eq_of_lt (by omega : x - f.signBit < 2 ^ f.width), decide_eq_true hle,
      decide_eq_false (by omega : ¬ f.signBit ≤ x - f.signBit)]
    rfl

/-- An exact zero sum of a finite value and its negation is +0, −0 in RDN (R47). -/
theorem addNum_negate (rm : Rm) (n : Bool) (m : Nat) (e : Int) :
    addNum f rm (.fin n m e) (Num.negate (.fin n m e)) = (if rm = .rdn then f.signBit else 0, noFlags) := by
  have hsum : scaled n m e e + scaled (!n) m e e = 0 := by cases n <;> simp [scaled]
  have hsign : (n == !n) = false := by cases n <;> rfl
  simp [addNum, Num.isSignalling, Num.negate, addFin, hsum, hsign]

end

end Sys2Proof.Machine

namespace Sys2Proof.Proofs
open Sys2Proof Sys2Proof.Machine

theorem arithmetic_of_mem {f : Fmt} (h : f ∈ [fp16, bf16, fp32, fp64]) : f.Arithmetic := by
  simp only [List.mem_cons, List.not_mem_nil, or_false] at h
  rcases h with rfl | rfl | rfl | rfl <;> exact ⟨rfl, by decide, by decide⟩

/-- Settles O52: NaN operands, minima and maxima, then the sums that are exactly zero. -/
theorem floatRules : Obligations.FloatRules := by
  intro f hmem rm x y hx hy nan signals flip
  have hf := arithmetic_of_mem hmem
  have hsig : ∀ z, (f.value z).isSignalling = true ↔ signals z := fun _ => Fmt.value_isSignalling hf
  have hnan : ∀ z, (f.value z).isNan = true ↔ nan z := fun _ => Fmt.value_isNan hf
  refine ⟨fun h op hop => ?_, fun big => ⟨fun h1 h2 => ?_, fun h1 h2 => ?_, fun h1 h2 => ?_, fun h1 h2 => ?_, fun h => ?_, fun h1 h2 => ?_⟩,
    ?_, ?_, ?_, ?_, fun h => ⟨?_, ?_⟩, ?_⟩
  · rw [fpOps_nan hf h op hop]
    refine ⟨Fmt.nanResult_code _, fun h => ?_, fun h1 h2 => ?_⟩
    · rw [← hsig, ← hsig, ← Bool.or_eq_true] at h
      rw [h]
      rfl
    · rw [← hsig, Bool.not_eq_true] at h1 h2
      rw [h1, h2]
      rfl
  · rw [fpMinMax_code, if_pos ((hnan x).2 h1), if_pos ((hnan y).2 h2)]
  · rw [fpMinMax_code, if_pos ((hnan x).2 h1), if_neg (mt (hnan y).1 h2)]
  · rw [fpMinMax_code, if_neg (mt (hnan x).1 h1), if_pos ((hnan y).2 h2)]
  · rw [fpMinMax_code, if_neg (mt (hnan x).1 h1), if_neg (mt (hnan y).1 h2)]
    exact (ite_eq_or_eq _ y x).symm
  · rw [fpMinMax_flags, if_pos (by rwa [Bool.or_eq_true, hsig, hsig])]
    rfl
  · rw [fpMinMax_flags, if_neg (by rw [Bool.or_eq_true, hsig, hsig]; exact not_or.2 ⟨h1, h2⟩)]
    rfl
  iterate 4
    rw [fpMinMax_code, Fmt.value_zero, Fmt.value_signBit hf]
    simp [Num.isNan, numLt, scaled]
  · rw [fpAdd, show f.value (flip x) = _ from Fmt.value_flip hf hx (Nat.le_of_lt_succ h), Fmt.value_fin (Nat.le_of_lt_succ h)]
    exact addNum_negate rm _ _ _
  · rw [fpSub, Fmt.value_fin (Nat.le_of_lt_succ h)]
    exact addNum_negate rm _ _ _
  · rw [fpAdd, Fmt.value_signBit hf]
    simp [addNum, Num.isSignalling, addFin, scaled, noFlags]

end Sys2Proof.Proofs

/-! What the decoders accept (R71, R76-R90, R194, R305-R307). -/

namespace Sys2Proof

/-- A reading that gives no instruction but a well-formed one. -/
def ReadsWf (r : Except Reject Instr) : Prop := ∀ i, r = .ok i → i.wf = true

section
variable {i : Instr} {r : Except Reject Instr}

theorem ReadsWf.ok (h : i.wf = true) : ReadsWf (.ok i) := by rintro _ ⟨⟩; exact h

theorem ReadsWf.error {e : Reject} : ReadsWf (.error e) := fun _ => nofun

/-- The check of unused fields (R78) adds no instruction. -/
theorem ReadsWf.chk {ok : Prop} [Decidable ok] (h : i.wf = true) : ReadsWf (chk ok i) := by
  unfold Sys2Proof.chk
  split
  · exact .ok h
  · exact .error

/-- The operand rules (R76, R77) let well-formed instructions through, and no others. -/
theorem ReadsWf.wellFormed : ReadsWf (wellFormed r) := by
  unfold Sys2Proof.wellFormed
  split
  · split
    · exact .ok ‹_›
    · exact .error
  · exact .error

end

/-- Every pattern of a 16-bit instruction is well-formed (R84). -/
theorem decode16_wf (h : Half) : (decode16 h).wf = true := by
  unfold decode16
  split <;> rfl

theorem decodeWalker_readsWf (w : Word) : ReadsWf (decodeWalker w) := by
  unfold decodeWalker
  split
  · exact .ok rfl
  · exact .wellFormed

/-- The Xfig words have no operand rule (R194). -/
theorem decodeXfig_readsWf (w : Word) : ReadsWf (decodeXfig w) := by
  unfold decodeXfig
  split
  case h_6 | h_8 =>
    split
    · exact .ok rfl
    · exact .chk rfl
  case h_12 => exact .error
  all_goals exact .chk rfl

/-- A micro-thread instruction that is read: a 16-bit one, a word, or a trailer with its extension word (R71, R83). -/
theorem decodeMicro_cases {hs : List Half} {i : Instr} {rest : List Half} (h : decodeMicro hs = .ok (i, rest)) :
    (∃ x, hs = x :: rest ∧ i = decode16 x) ∨
    (∃ x y, hs = x :: y :: rest ∧ wellFormed (decodeMicroRaw (joinHalves x y) 0#32) = .ok i) ∨
    ∃ x y u v, hs = x :: y :: u :: v :: rest ∧ wellFormed (decodeMicroRaw (joinHalves x y) (joinHalves u v)) = .ok i := by
  unfold decodeMicro at h
  split at h
  case h_1 => cases h
  case h_2 x t =>
    split at h
    case isTrue => cases h; exact .inl ⟨x, rfl, rfl⟩
    case isFalse =>
      split at h
      case h_1 => cases h
      case h_2 y t2 =>
        dsimp only at h
        split at h
        case isTrue =>
          split at h
          case h_1 u v t4 =>
            split at h
            case h_1 j hj => cases h; exact .inr (.inr ⟨x, y, u, v, rfl, hj⟩)
            case h_2 => cases h
          case h_2 => cases h
        case isFalse =>
          split at h
          case h_1 j hj => cases h; exact .inr (.inl ⟨x, y, rfl, hj⟩)
          case h_2 => cases h

end Sys2Proof

namespace Sys2Proof.Proofs
open Sys2Proof Sys2Proof.Machine

/-- Settles O55: the micro-thread's decoder by the three lengths of what it reads, the others by the check that ends them. -/
theorem decodedInstructionsAreWellFormed : Obligations.DecodedInstructionsAreWellFormed := by
  refine ⟨fun hs i rest h => ?_, decodeWalker_readsWf, decodeXfig_readsWf⟩
  obtain ⟨x, rfl, rfl⟩ | ⟨x, y, rfl, hi⟩ | ⟨x, y, u, v, rfl, hi⟩ := decodeMicro_cases h
  · exact ⟨decode16_wf x, x, [], rfl⟩
  · exact ⟨ReadsWf.wellFormed i hi, x, [y], rfl⟩
  · exact ⟨ReadsWf.wellFormed i hi, x, [y, u, v], rfl⟩

end Sys2Proof.Proofs

/-! The 16-bit forms beside their 32-bit instructions, and what MOVS reads (R19, R84, R94, R110). -/

namespace Sys2Proof.Machine

section
variable {s : State} {n k slot : Nat} {g : Group} {m : Micro}

theorem signExtend_signExtend {u v w : Nat} (x : BitVec u) (hv : u ≤ v) (hw : v ≤ w) :
    (x.signExtend v).signExtend w = x.signExtend w := by
  refine BitVec.eq_of_toInt_eq ?_
  rw [BitVec.toInt_signExtend_of_le hw, BitVec.toInt_signExtend_of_le hv, BitVec.toInt_signExtend_of_le (Nat.le_trans hv hw)]

/-- Two instructions do the same to a micro-thread that faults in neither, whatever their lengths and weights. -/
def SameOn (s : State) (n slot : Nat) (g : Group) (i j : Instr) : Prop :=
  Answers i s fun t => Answers j s fun u => t.microAt n slot = u.microAt n slot ∧ OnlyMembers n g s t

theorem SameOn.of_lanes {i j : Instr} {len len' w w' : Nat} {f : Micro → Except Flt Micro} {x : Micro} (h : s.Member n k g slot m)
    (hi : exec i s = lanes len w (fun _ _ m => f m) s) (hj : exec j s = lanes len' w' (fun _ _ m => f m) s) (hx : f m = .ok x) :
    SameOn s n slot g i j := by
  obtain ⟨t, ht, ho, hm⟩ := lanes_spec len w (fun _ _ m => f m) h
  obtain ⟨u, hu, -, hm'⟩ := lanes_spec len' w' (fun _ _ m => f m) h
  rw [hx] at hm hm'
  exact ⟨t, hi.trans ht, u, hj.trans hu, hm.trans hm'.symm, ho⟩

/-- The 16-bit form of an integer instruction on two registers (R84). -/
theorem SameOn.of_op2 {i j : Instr} {w w' : Nat} {f : Word → Word → Word} {d b : Reg} (h : s.Member n k g slot m)
    (hr : m.Ready [d, b]) (hi : exec i s = alu16 w (fun m => m.op2 f d d b) s) (hj : exec j s = alu w' (fun m => m.op2 f d d b) s) :
    SameOn s n slot g i j := .of_lanes h hi hj (Micro.op2_ready (hr.sub (by simp)))

/-- The 16-bit form of a floating-point instruction on two registers (R84). -/
theorem SameOn.of_fop2 {i j : Instr} {w w' : Nat} {f : Micro → Word → Word → FpRes} {d b : Reg} (h : s.Member n k g slot m)
    (hr : m.Ready [d, b]) (hi : exec i s = alu16 w (fun m => m.fop2 (f m) d d b) s)
    (hj : exec j s = alu w' (fun m => m.fop2 (f m) d d b) s) :
    SameOn s n slot g i j := .of_lanes h hi hj (Micro.fop2_ready (hr.sub (by simp)))

/-- ADDI in its 16-bit form: its immediate is extended from 5 bits, at once or through the 13 of the long form. -/
theorem addi16_same {d : Reg} (imm : BitVec 5) (h : s.Member n k g slot m) (hr : m.Ready [d]) :
    SameOn s n slot g (.addi16 d imm) (.addi d d (imm.signExtend 13)) := by
  have hj : exec (.addi d d (imm.signExtend 13)) s =
      alu 1 (fun m => m.op1 (fun x => x + (imm.signExtend 13).signExtend 32) d d) s := rfl
  rw [signExtend_signExtend imm (by decide) (by decide)] at hj
  exact .of_lanes h rfl hj (Micro.op1_ready (hr.sub (by simp)))

theorem mov16_moves (d : Reg) (b : BitVec 5) (h : s.Member n k g slot m) (hr : m.Ready [d, reg16 b]) :
    Answers (.mov16 d b) s fun t => t.microAt n slot = some (m.setReg d (m.reg (reg16 b))) ∧ OnlyMembers n g s t :=
  LaneResult.of_lanes (i := .mov16 d b) (fun _ => rfl) (fun _ _ _ hr => Micro.op1_ready hr) s n k g slot m h hr

/-! MOVS. -/

/-- What a member's MOVS of a special register gives in a state (R19). -/
def movsLane (s : State) (n : Nat) (g : Group) (d : Reg) (idx : BitVec 6) (c : Core) (slot : Nat) (m : Micro) : Except Flt Micro := do
  if 31 ≤ idx.toNat then .error .illegal
  else
    m.need [d]
    m.wrOk d 1
    let m := m.setReg d (s.special n g.launch slot m idx.toNat)
    .ok (if idx.toNat = 17 then { m with cych := some (hiWord c.cyc) } else m)

theorem exec_movs (h : s.Member n k g slot m) (d : Reg) (idx : BitVec 6) :
    exec (.movs d idx) s =
      let t := if idx.toNat = 17 ∨ idx.toNat = 18 then s.passTime n else s
      lanes 4 1 (movsLane t n g d idx) t := by
  obtain ⟨⟨c, hs⟩, -⟩ := h
  show execMovs d idx s = _
  rw [execMovs, hs]
  rfl

theorem movsLane_ready {d : Reg} {idx : BitVec 6} (c : Core) (hr : m.Ready [d]) (hi : idx.toNat < 31) :
    movsLane s n g d idx c slot m = .ok
      (let u := m.setReg d (s.special n g.launch slot m idx.toNat)
       if idx.toNat = 17 then { u with cych := some (hiWord c.cyc) } else u) := by
  simp only [movsLane, if_neg (Nat.not_le.2 hi), Micro.need_ok hr,
    Micro.wrOk_ok (r := d) (n := 1) (hr.clear (qs := groupCodes d 1) (by simp)), bind, Except.bind]

/-- A special register that does not count cycles is read as it stands. -/
theorem movs_reads {d : Reg} {idx : BitVec 6} {v : Word} (h : s.Member n k g slot m) (hr : m.Ready [d])
    (hi : idx.toNat < 31 ∧ idx.toNat ≠ 17 ∧ idx.toNat ≠ 18) (hv : s.special n g.launch slot m idx.toNat = v) :
    Answers (.movs d idx) s fun t => t.microAt n slot = some (m.setReg d v) ∧ OnlyMembers n g s t := by
  obtain ⟨hlt, h17, h18⟩ := hi
  obtain ⟨t, ht, ho, hm⟩ := lanes_spec 4 1 (movsLane s n g d idx) h
  refine ⟨t, ?_, ?_, ho⟩
  · rw [exec_movs h, if_neg (not_or.2 ⟨h17, h18⟩)]
    exact ht
  · rw [hm, movsLane_ready _ hr hlt, hv, if_neg h17]

theorem State.special_budget {l : Nat} {r : Res} (h : s.res? n l = some r) :
    s.special n l slot m 21 = BitVec.ofInt 32 r.budget := by
  rw [State.res?] at h
  simp only [State.special, h]

/-! A read of the cycle counter: it has moved on when it is read. -/

theorem State.passTime_core (hn : n < 80) :
    (s.passTime n).core n = { s.core n with cyc := (s.core n).cyc + BitVec.ofNat 64 s.draw } :=
  State.core_modCore_self s n _ hn

/-- The time that passed is named by the counter as it then stands. -/
theorem State.passTime_eq (hn : n < 80) :
    s.passTime n = { s.modCore n (fun c => { c with cyc := ((s.passTime n).core n).cyc }) with fresh := s.fresh + 1 } := by
  have he : s.modCore n (fun c => { c with cyc := c.cyc + BitVec.ofNat 64 s.draw }) =
      s.modCore n (fun c => { c with cyc := ((s.passTime n).core n).cyc }) :=
    State.modCore_congr s n (by rw [State.passTime_core hn])
  rw [← he]
  rfl

theorem State.Member.core_lt (h : s.Member n k g slot m) : n < 80 := h.1.elim fun _ hs => (State.seat_parts hs).1

theorem State.Member.passTime (h : s.Member n k g slot m) : (s.passTime n).Member n k g slot m := by
  obtain ⟨⟨c, hs⟩, hmem, hm⟩ := h
  obtain ⟨hn, rfl, hg, p, r, hf, rfl⟩ := State.seat_parts hs
  have hcore := State.passTime_core (s := s) hn
  have hfocus : (s.passTime n).focus = .group n p r := (State.modCore_focus s n _).trans hf
  refine ⟨⟨(s.passTime n).core n, ?_⟩, hmem, ?_⟩
  · have hg' : Tbl.get? ((s.passTime n).core n).groups (p * 8 + r) = some g := by rw [hcore]; exact hg
    simp only [State.seat?, hfocus, State.cores_at _ n hn, hg']
  · rw [State.microAt, hcore]
    exact hm

/-- A MOVS of CYC or CYCH: `u` of the micro-thread, by the counter that it read. -/
theorem movs_timed {d : Reg} {idx : BitVec 6} {u : DWord → Micro} (h : s.Member n k g slot m)
    (hi : idx.toNat = 17 ∨ idx.toNat = 18)
    (hu : ∀ c, ((s.passTime n).core n).cyc = c → movsLane (s.passTime n) n g d idx ((s.passTime n).core n) slot m = .ok (u c)) :
    Answers (.movs d idx) s fun t =>
      t.microAt n slot = some (u (t.core n).cyc) ∧
        OnlyMembers n g { s.modCore n (fun c => { c with cyc := (t.core n).cyc }) with fresh := s.fresh + 1 } t := by
  have hn := h.core_lt
  obtain ⟨t, ht, ho, hm⟩ := lanes_spec 4 1 (movsLane (s.passTime n) n g d idx) h.passTime
  have hcyc : (t.core n).cyc = ((s.passTime n).core n).cyc := by rw [ho.2.2.1]
  refine ⟨t, ?_, ?_, ?_⟩
  · rw [exec_movs h, if_pos hi]
    exact ht
  · rw [hm, hcyc, hu _ rfl]
  · rw [hcyc, ← State.passTime_eq hn]
    exact ho

end
end Sys2Proof.Machine

namespace Sys2Proof.Proofs
open Sys2Proof Sys2Proof.Machine

/-- Settles O6: each short form by the operand form that it shares with its long one; MOVS register by register, those of the
cycle counter in the state in which the time has passed. -/
theorem shortFormAndSpecialRegisterResults : Obligations.ShortFormAndSpecialRegisterResults := by
  refine ⟨fun d b s n k g slot m h hr => ⟨?_, mov16_moves d b h hr⟩,
    fun d s n k g slot m h hr => ⟨?_, fun r hres => ?_, fun j => ?_, fun j => ?_, ?_, ?_⟩⟩
  · intro i j hij
    simp only [List.mem_cons, Prod.mk.injEq, List.not_mem_nil, or_false] at hij
    rcases hij with ⟨rfl, rfl⟩ | ⟨rfl, rfl⟩ | ⟨rfl, rfl⟩ | ⟨rfl, rfl⟩ | ⟨rfl, rfl⟩ | ⟨rfl, rfl⟩ | ⟨rfl, rfl⟩ | ⟨rfl, rfl⟩ |
      ⟨rfl, rfl⟩ | ⟨rfl, rfl⟩ | ⟨rfl, rfl⟩ | ⟨rfl, rfl⟩ | ⟨rfl, rfl⟩ | ⟨rfl, rfl⟩ | ⟨rfl, rfl⟩
    iterate 9 exact SameOn.of_op2 h hr rfl rfl
    iterate 5 exact SameOn.of_fop2 h hr rfl rfl
    exact addi16_same b h (hr.sub (by simp))
  · intro i v hiv
    simp only [List.mem_cons, Prod.mk.injEq, List.not_mem_nil, or_false] at hiv
    rcases hiv with ⟨rfl, rfl⟩ | ⟨rfl, rfl⟩ | ⟨rfl, rfl⟩ | ⟨rfl, rfl⟩ | ⟨rfl, rfl⟩ | ⟨rfl, rfl⟩ | ⟨rfl, rfl⟩ | ⟨rfl, rfl⟩ |
      ⟨rfl, rfl⟩ | ⟨rfl, rfl⟩ | ⟨rfl, rfl⟩ | ⟨rfl, rfl⟩ | ⟨rfl, rfl⟩ | ⟨rfl, rfl⟩ | ⟨rfl, rfl⟩ | ⟨rfl, rfl⟩
    all_goals refine movs_reads h hr (by decide) ?_
    -- ZERO, LANE, GRANT and SLOT; GEN; SETNO, CORE, CLUSTER and LAUNCH; FFLAGS and FRM; CSP, RESUME and STALE; ROLE and SETN.
    iterate 4 rfl
    · exact (BitVec.ofNat_toNat ..).symm
    iterate 4 rfl
    iterate 2 exact (BitVec.ofNat_toNat ..).symm
    iterate 3 exact ((BitVec.ofNat_toNat ..).trans (BitVec.setWidth_eq _)).symm
    iterate 2 rfl
  · exact movs_reads h hr (by decide) (State.special_budget hres)
  · fin_cases j <;> exact movs_reads h hr (by decide) rfl
  · fin_cases j <;> exact movs_reads h hr (by decide) rfl
  · refine movs_timed (u := fun c => { m.setReg d (loWord c) with cych := some (hiWord c) }) h (.inl rfl) fun c hc => ?_
    rw [movsLane_ready _ hr (by decide), ← hc]
    rfl
  · refine movs_timed (u := fun c => m.setReg d (m.cych.getD (hiWord c))) h (.inr rfl) fun c hc => ?_
    rw [movsLane_ready _ hr (by decide), ← hc]
    rfl

end Sys2Proof.Proofs

/-! FIG.RESUME of a micro-thread that stands at an instruction of its figure (R88, R200). -/

namespace Sys2Proof.Machine

section
variable {s t u : State} {n l slot : Nat} {r : Res} {m : Micro} {i : FaultInfo} {rd rs1 rs2 : XReg}

theorem exec_figResume : exec (.figResume rd rs1 rs2) s = xfig none (figResumeAct rd rs1 rs2) s := rfl

/-- The caller's rs1 names the slot of a faulted micro-thread of its own launch. -/
structure NamesFault (s : State) (n l : Nat) (r : Res) (rs1 : XReg) (slot : Nat) (m : Micro) (i : FaultInfo) : Prop where
  calling : s.Calling n l r
  named : (r.caller.reg rs1).toNat = slot
  isSlot : slot < 1024
  micro : s.microAt n slot = some m
  faulted : m.life = .faulted
  fault : m.fault = some i
  owner : m.owner = some l

theorem figResumeAct_accepts (h : NamesFault s n l r rs1 slot m i) (hmode : (r.caller.reg rs2).toNat ≤ 2) :
    figResumeAct rd rs1 rs2 s n l (s.core n) r =
      .done ((s.resumeFault n l slot (r.caller.reg rs2).toNat r i).setX n l rd (BitVec.ofNat 64 0)) := by
  simp only [figResumeAct, h.named, State.micro_of_microAt h.micro, h.faulted, h.fault, h.owner, Config.numSlots, h.isSlot, hmode,
    and_self, if_true]

/-- Another mode, another launch's micro-thread, or one that is not faulted: FIG.RESUME is refused. -/
theorem figResume_refused (h : s.Calling n l r) (hs : (r.caller.reg rs1).toNat = slot) (hm : (s.core n).micro slot = m)
    (hr : (r.caller.reg rs2).toNat > 2 ∨ m.owner ≠ some l ∨ m.life ≠ .faulted) :
    Answers (.figResume rd rs1 rs2) s fun t => XfigDone n l r rd 1 (fun r => r) s t ∧ OnlyLaunch n l s t := by
  refine xfig_gives h ?_ exec_figResume
  simp only [figResumeAct, hs, hm]
  split
  case h_1 hl _ =>
    rw [if_neg]
    rintro ⟨ho, -, hmode⟩
    rcases hr with hr | hr | hr
    · exact absurd hmode (Nat.not_le.2 hr)
    · exact hr ho
    · exact hr hl
  case h_2 => rfl

/-! Retry and skip: the micro-thread goes back to its mode, newly eligible. -/

/-- What a micro-thread becomes that goes back to the mode it left (R29). -/
theorem Micro.resumeAt_eq (m : Micro) (p : Option Pos) : m.resumeAt p =
    { m with life := if m.waits && p.isNone && !m.rearmed then .parked else m.modeLife, fault := none, pos := p } := rfl

theorem Micro.modeLife_eq (m : Micro) : m.modeLife = if m.mode = .called then .called else .free := by
  unfold Micro.modeLife
  cases m.mode <;> rfl

theorem Micro.retry_eq (m : Micro) (i : FaultInfo) : m.retry i =
    { m with
      life := if i.inFig = false ∧ m.waits = true ∧ m.rearmed = false then .parked else if m.mode = .called then .called else .free
      fault := none, pos := if i.inFig then some ⟨i.fig, i.off, i.ll⟩ else none } := by
  have hp : (m.waits && (if i.inFig then some (⟨i.fig, i.off, i.ll⟩ : Pos) else none).isNone && !m.rearmed) =
      decide (i.inFig = false ∧ m.waits = true ∧ m.rearmed = false) := by
    cases i.inFig <;> simp
  rw [Micro.retry, Micro.resumeAt_eq, Micro.modeLife_eq, hp]
  simp only [decide_eq_true_eq]

theorem Micro.skipBody_eq (hf : i.inFig = true) (ll : Bool) : m.skipBody i ll =
    { m with
      life := if m.mode = .called then .called else .free, fault := none
      pos := some ⟨i.fig, i.off + i.len, i.ll + if ll then 1 else 0⟩ } := by
  rw [Micro.skipBody, if_pos hf, Micro.resumeAt_eq, Micro.modeLife_eq]
  simp only [Option.isNone_some, Bool.and_false, Bool.false_and, Bool.false_eq_true, if_false]

/-- A resume that makes the micro-thread `g` of itself, newly eligible. -/
theorem figResume_stamps (h : NamesFault s n l r rs1 slot m i) (hmode : (r.caller.reg rs2).toNat ≤ 2) {g : Micro → Micro}
    (hg : s.resumeFault n l slot (r.caller.reg rs2).toNat r i = s.modCore n fun c => (c.modMicro slot g).stamp slot) :
    Answers (.figResume rd rs1 rs2) s fun t =>
      XfigDone n l r rd 0 (fun r => r) s t ∧ t.microAt n slot = some { g m with since := (s.core n).eligible } ∧
        (∀ x, x ≠ slot → t.microAt n x = s.microAt n x) ∧ OnlyMicros n s t := by
  have hact := figResumeAct_accepts (rd := rd) h hmode
  rw [hg] at hact
  obtain ⟨t, ht, hdone, hmicro, honly⟩ :=
    xfig_done_micros (F := fun c => (c.modMicro slot g).stamp slot) h.calling rfl hact exec_figResume
  refine ⟨t, ht, hdone, (hmicro slot).trans ?_, fun x hx => (hmicro x).trans ?_, honly⟩
  · rw [Core.stamp_eq, Tbl.get?_set_self, Core.micro_modMicro_self, State.micro_of_microAt h.micro]
    rfl
  · rw [Core.stamp_eq, Tbl.get?_set_other _ _ _ _ hx, Core.modMicro_eq, Tbl.get?_set_other _ _ _ _ hx, State.microAt]

theorem State.resumeFault_retry (hi : i.redo = .instruction) :
    s.resumeFault n l slot 0 r i = s.modCore n fun c => (c.modMicro slot fun m => m.retry i).stamp slot := by
  simp [State.resumeFault, hi]

/-- A body instruction is passed over; one that is long-latency keeps its number (R72, R88). -/
theorem State.resumeFault_skip (hi : i.redo = .instruction) (hf : i.inFig = true) (ht : i.trailer = none) (hlen : 0 < i.len) :
    s.resumeFault n l slot 1 r i = s.modCore n fun c =>
      (c.modMicro slot fun m => m.skipBody i (s.placeIn r i.fig i.off).1).stamp slot := by
  have hlen : i.len ≠ 0 := Nat.ne_of_gt hlen
  simp only [State.resumeFault, hi, State.skipInstr, hf, hlen, ht, if_neg, Bool.not_true, Bool.false_eq_true,
    Nat.one_ne_zero, OfNat.one_ne_ofNat, not_false_eq_true]

/-! Retirement. -/

theorem State.resumeFault_retire : s.resumeFault n l slot 2 r i = s.retireMicro n slot := rfl

/-- An access that serves no micro-thread of the slot. -/
def Flight.Spares (f : Flight) (n slot : Nat) : Prop := f.core ≠ n ∨ ∀ w ∈ f.who, w.slot ≠ slot

theorem Tbl.keys_modify {α : Type} (t : Tbl α) (k : Nat) (f : α → α) : (Tbl.modify t k f).map Prod.fst = t.map Prod.fst := by
  induction t with
  | nil => rfl
  | cons p r ih =>
    obtain ⟨j, a⟩ := p
    by_cases h : j = k <;> simp [Tbl.modify, h, ih]

theorem Tbl.sorted_modify {α : Type} {t : Tbl α} (k : Nat) (f : α → α) (h : Tbl.sorted t = true) :
    Tbl.sorted (Tbl.modify t k f) = true := by
  induction t with
  | nil => rfl
  | cons p r ih =>
    obtain ⟨j, a⟩ := p
    have hall := Tbl.sorted_all j a r h
    have hr := ((Tbl.sorted_cons j a r).1 h).2
    by_cases hj : j = k
    · simp only [Tbl.modify, hj, if_true] at hall ⊢
      exact Tbl.sorted_of_all k (f a) r hall hr
    · simp only [Tbl.modify, hj, if_false]
      refine Tbl.sorted_of_all j a _ (fun q hq => ?_) (ih hr)
      have hq : q.1 ∈ r.map Prod.fst := Tbl.keys_modify r k f ▸ List.mem_map_of_mem hq
      obtain ⟨p, hp, he⟩ := List.mem_map.1 hq
      exact he ▸ hall p hp

/-- The accesses in flight once a micro-thread has left one of them. -/
def withdraw (slot : Nat) (gen : Half) (fl : Tbl Flight) (p : Nat × Flight) : Tbl Flight :=
  let rest := p.2.who.filter fun w => !(w.slot == slot && w.gen == gen)
  if rest.isEmpty then Tbl.erase fl p.1 else Tbl.modify fl p.1 fun f => { f with who := rest }

theorem State.leaveFlight_flown (s : State) (fl : Tbl Flight) (k : Nat) (p : Nat × Flight) (slot : Nat) (gen : Half) :
    (s.flown fl k).leaveFlight p.1 p.2 slot gen = s.flown (withdraw slot gen fl p) k := by
  simp only [State.leaveFlight, withdraw]
  split <;> rfl

theorem State.foldl_leaveFlight (s : State) (k slot : Nat) (gen : Half) (ps : List (Nat × Flight)) (fl : Tbl Flight) :
    ps.foldl (fun t p => t.leaveFlight p.1 p.2 slot gen) (s.flown fl k) = s.flown (ps.foldl (withdraw slot gen) fl) k := by
  induction ps generalizing fl with
  | nil => rfl
  | cons p ps ih => rw [List.foldl_cons, State.leaveFlight_flown, ih, List.foldl_cons]

theorem withdraw_sorted {gen : Half} {fl : Tbl Flight} (h : Tbl.sorted fl = true) (p : Nat × Flight) :
    Tbl.sorted (withdraw slot gen fl p) = true := by
  unfold withdraw
  dsimp only
  split
  · exact Tbl.sorted_erase _ _ h
  · exact Tbl.sorted_modify _ _ h

theorem get?_withdraw_other {gen : Half} {fl : Tbl Flight} {p : Nat × Flight} {id : Nat} (h : id ≠ p.1) :
    Tbl.get? (withdraw slot gen fl p) id = Tbl.get? fl id := by
  unfold withdraw
  dsimp only
  split
  · exact Tbl.get?_erase_other _ _ _ h
  · exact Tbl.get?_modify_other _ _ _ _ h

theorem foldl_withdraw {gen : Half} {ps : List (Nat × Flight)} {fl : Tbl Flight} (h : Tbl.sorted fl = true) :
    Tbl.sorted (ps.foldl (withdraw slot gen) fl) = true ∧
      ∀ id, id ∉ ps.map Prod.fst → Tbl.get? (ps.foldl (withdraw slot gen) fl) id = Tbl.get? fl id := by
  induction ps generalizing fl with
  | nil => exact ⟨h, fun _ _ => rfl⟩
  | cons p ps ih =>
    obtain ⟨hs, hg⟩ := ih (withdraw_sorted (slot := slot) (gen := gen) h p)
    refine ⟨hs, fun id hid => ?_⟩
    simp only [List.map_cons, List.mem_cons, not_or] at hid
    exact (hg id hid.2).trans (get?_withdraw_other hid.1)

/-- A micro-thread that no queue links leaves at most the access that it waits in. -/
theorem State.unlinkMicro_none (hl : ((s.core n).micro slot).linked = .none) (hs : Tbl.sorted s.flights = true) :
    ∃ fl, s.unlinkMicro n slot = s.flown fl s.nextId ∧ Tbl.sorted fl = true ∧
      ∀ id f, Tbl.get? s.flights id = some f → f.Spares n slot → Tbl.get? fl id = some f := by
  cases hw : s.linkedFlight n slot with
  | none => exact ⟨s.flights, by simp only [State.unlinkMicro, hl, hw, State.flown_self], hs, fun _ _ h _ => h⟩
  | some p =>
    obtain ⟨k, f'⟩ := p
    have he : s.unlinkMicro n slot = s.dropFlight k := by simp only [State.unlinkMicro, hl, hw]
    refine ⟨_, he, Tbl.sorted_erase _ _ hs, fun id f hf hsp => ?_⟩
    have hmem := List.mem_of_find?_eq_some hw
    have hlinked := List.find?_some hw
    simp only [Bool.and_eq_true, beq_iff_eq, List.any_eq_true] at hlinked
    obtain ⟨⟨⟨hcore, -⟩, -⟩, w, hwho, hslot⟩ := hlinked
    refine (Tbl.get?_erase_other _ _ _ fun e => ?_).trans hf
    subst e
    obtain rfl := Option.some.inj ((Tbl.get?_of_mem hs hmem).symm.trans hf)
    exact hsp.elim (fun h => h hcore) fun h => h w hwho hslot

/-- A retirement changes the micro-thread, and takes it out of the accesses that it stood in; then fences may end. -/
theorem State.retireMicro_eq (hl : ((s.core n).micro slot).linked = .none) (hs : Tbl.sorted s.flights = true) :
    ∃ fl, s.retireMicro n slot = ((s.modMicro n slot Micro.retire).flown fl s.nextId).settle ∧ Tbl.sorted fl = true ∧
      ∀ id f, Tbl.get? s.flights id = some f → f.Spares n slot → Tbl.get? fl id = some f := by
  obtain ⟨fl, he, hfl, hkeep⟩ := State.unlinkMicro_none hl hs
  have hmod : (s.flown fl s.nextId).modMicro n slot Micro.retire = (s.modMicro n slot Micro.retire).flown fl s.nextId :=
    State.flown_modCore s fl s.nextId n _
  simp only [State.retireMicro, he, hmod, State.flown_flights, State.foldl_leaveFlight]
  refine ⟨_, rfl, (foldl_withdraw hfl).1, fun id f hf hsp => ((foldl_withdraw hfl).2 id fun hid => ?_).trans (hkeep id f hf hsp)⟩
  obtain ⟨⟨_, f'⟩, hp, rfl⟩ := List.mem_map.1 hid
  obtain ⟨hmem, hmine⟩ := List.mem_filter.1 hp
  obtain rfl := Option.some.inj ((Tbl.get?_of_mem hfl hmem).symm.trans (hkeep _ f hf hsp))
  simp only [Bool.and_eq_true, beq_iff_eq, List.any_eq_true] at hmine
  obtain ⟨⟨⟨hcore, -⟩, -⟩, w, hwho, hslot, -⟩ := hmine
  exact hsp.elim (fun h => h hcore) fun h => h w hwho hslot

/-- What the retirement of a micro-thread leaves (R88, R256): fences may have ended. -/
structure Retires (n slot : Nat) (s u : State) : Prop where
  state : u = { s with cores := u.cores, flights := u.flights, clusters := u.clusters }
  core : u.core n = (s.core n).modMicro slot Micro.retire
  cores : ∀ x, x ≠ n → u.core x = s.core x
  drops : OnlyDrops s u
  spares : ∀ id f, Tbl.get? s.flights id = some f → f.isFence = false → f.Spares n slot →
    ∃ v, Tbl.get? u.flights id = some v ∧ v = { f with stage := v.stage }

theorem State.retireMicro_retires (hn : n < 80) (hl : ((s.core n).micro slot).linked = .none) (hs : Tbl.sorted s.flights = true) :
    Retires n slot s (s.retireMicro n slot) := by
  obtain ⟨fl, he, hfl, hkeep⟩ := State.retireMicro_eq hl hs
  rw [he]
  have hset := State.settle_settles (s := (s.modMicro n slot Micro.retire).flown fl s.nextId) hfl
  refine ⟨?_, (hset.core n).trans (State.core_modCore_self s n _ hn), fun x hx => (hset.core x).trans (State.core_modCore_other s n x _ hx),
    OnlyDrops.trans (OnlyDrops.of_clusters (State.modCore_clusters s n _)) hset.drops, fun id f hf hn hsp => ?_⟩
  · rw [hset.state, State.modMicro, State.modCore_eq]
    rfl
  · obtain ⟨v, hv, he, -⟩ := hset.keeps id f (hkeep id f hf hsp) hn
    exact ⟨v, hv, he⟩

/-- Beside the accesses in flight and the clusters, a retirement changes micro-threads alone. -/
theorem Retires.onlyMicros (h : Retires n slot s u) : OnlyMicros n s { u with flights := s.flights, clusters := s.clusters } := by
  refine ⟨by rw [h.state], h.cores, ?_⟩
  show u.core n = { s.core n with res := (u.core n).res, slots := (u.core n).slots, eligible := (u.core n).eligible }
  rw [h.core]
  rfl

theorem Retires.res? (h : Retires n slot s u) (x : Nat) : u.res? n x = s.res? n x := by
  rw [State.res?, h.core, Core.modMicro_eq, State.res?]

/-- What other accesses in flight and other clusters make no difference to. -/
theorem OnlyMicros.flown (h : OnlyMicros n s t) (fl : Tbl Flight) (cl : Vector Cluster 10) :
    OnlyMicros n { s with flights := fl, clusters := cl } { t with flights := fl, clusters := cl } := by
  obtain ⟨h1, h2, h3⟩ := h
  exact ⟨by rw [h1], h2, h3⟩

theorem figResume_retires (hf : NamesFault s n l r rs1 slot m i) (hsound : s.Sound) (hmode : (r.caller.reg rs2).toNat = 2)
    (hlink : m.linked = .none) :
    Answers (.figResume rd rs1 rs2) s fun t =>
      XfigDone n l r rd 0 (fun r => r) s t ∧ t.microAt n slot = some m.retire ∧
        (∀ x, x ≠ slot → t.microAt n x = s.microAt n x) ∧ OnlyDrops s t ∧
        OnlyMicros n s { t with flights := s.flights, clusters := s.clusters } ∧
        ∀ id f, Tbl.get? s.flights id = some f → f.isFence = false → f.Spares n slot →
          ∃ u, Tbl.get? t.flights id = some u ∧ u = { f with stage := u.stage } := by
  have h := hf.calling
  have hn := h.2.1
  have hmicro := State.micro_of_microAt hf.micro
  obtain ⟨-, -, -, hsorted, -⟩ := hsound
  have hret := State.retireMicro_retires hn (hmicro.symm ▸ hlink) hsorted
  have hact := figResumeAct_accepts (rd := rd) hf (Nat.le_of_eq hmode)
  rw [hmode, State.resumeFault_retire] at hact
  generalize s.retireMicro n slot = u at hret hact
  have hlast := OnlyLaunch.modRes (s := u) (l := l) (f := (Res.xdone · rd (BitVec.ofNat 64 0))) hn
  refine ⟨_, exec_figResume.trans (xfig_done h hact),
    XfigDone.of_res h ((hret.res? l).trans h.2.2) rfl hret.cores (fun x _ => hret.res? x) (by rw [hret.state]), ?_, fun x hx => ?_,
    hret.drops.trans (OnlyDrops.of_clusters (by rw [hlast.1])), hret.onlyMicros.trans (hlast.micros.flown _ _), ?_⟩
  · rw [hlast.microAt, State.microAt, hret.core, Core.modMicro_eq, Tbl.get?_set_self, hmicro]
  · rw [hlast.microAt, State.microAt, hret.core, Core.modMicro_eq, Tbl.get?_set_other _ _ _ _ hx, State.microAt]
  · rw [hlast.1]
    exact hret.spares

end
end Sys2Proof.Machine

/-! FIG.LAUNCH: the fence before it, and the record that it posts (R174, R202, R387, R388). -/

namespace Sys2Proof.Machine

section
variable {s t u : State} {n l : Nat} {r : Res} {f : Flight} {id : Nat} {rd rs1 : XReg}

/-! Which fences have ended once the fences of a state are settled. -/

theorem Flight.losesPlace_other {cl : Nat} (h : f.isLoad = false) : f.losesPlace cl = f := by
  simp [Flight.losesPlace, h]

/-- A fence that ends goes, and an access that is no load stays as it is. -/
theorem State.endFence_get? {p : Nat × Flight} (hp : p.2.isFence = true) (hs : Tbl.sorted s.flights = true)
    (hf : ∀ f, Tbl.get? s.flights id = some f → f.isLoad = false) :
    Tbl.get? (s.endFence p).flights id = if id = p.1 then none else Tbl.get? s.flights id := by
  have hdrop : Tbl.get? (s.dropFlight p.1).flights id = if id = p.1 then none else Tbl.get? s.flights id := by
    split
    case isTrue h => exact h ▸ Tbl.get?_erase_self _ _ hs
    case isFalse h => exact Tbl.get?_erase_other _ _ _ h
  have hacquire (cl : Nat) : Tbl.get? ((s.dropFlight p.1).acquire cl).flights id = Tbl.get? (s.dropFlight p.1).flights id := by
    rw [State.acquire_flights, Tbl.get?_mapKV, hdrop]
    split
    · rfl
    · cases hg : Tbl.get? s.flights id with
      | none => rfl
      | some f => exact congrArg some (Flight.losesPlace_other (hf f hg))
  rw [← hdrop]
  unfold State.endFence
  unfold Flight.isFence at hp
  split
  case h_1 =>
    dsimp only
    split
    · exact hacquire _
    · rfl
  case h_2 h =>
    split at hp
    case h_1 he => exact absurd he (h _ _ _)
    case h_2 => cases hp

theorem State.endFence_sorted (p : Nat × Flight) (hs : Tbl.sorted s.flights = true) : Tbl.sorted (s.endFence p).flights = true := by
  have hdrop : Tbl.sorted (s.dropFlight p.1).flights = true := Tbl.sorted_erase _ _ hs
  unfold State.endFence
  split
  · dsimp only
    split
    · rw [State.acquire_flights]
      exact Tbl.sorted_mapKV _ hdrop
    · exact hdrop
  · exact hs

theorem State.foldl_endFence_get? {ps : List (Nat × Flight)} (hp : ∀ p ∈ ps, p.2.isFence = true) (hs : Tbl.sorted s.flights = true)
    (hf : ∀ f, Tbl.get? s.flights id = some f → f.isLoad = false) :
    Tbl.get? (ps.foldl State.endFence s).flights id = if id ∈ ps.map Prod.fst then none else Tbl.get? s.flights id := by
  induction ps generalizing s with
  | nil => rfl
  | cons p ps ih =>
    have hone := State.endFence_get? (hp p List.mem_cons_self) hs hf
    have hf' (f : Flight) (h : Tbl.get? (s.endFence p).flights id = some f) : f.isLoad = false := by
      rw [hone] at h
      split at h
      · cases h
      · exact hf f h
    rw [List.foldl_cons, ih (fun q hq => hp q (List.mem_cons_of_mem _ hq)) (State.endFence_sorted p hs) hf', hone, List.map_cons]
    by_cases hid : id = p.1
    · rw [if_pos hid, ite_self, if_pos (hid ▸ List.mem_cons_self)]
    · simp only [List.mem_cons, hid, false_or, if_false]

/-- Once the fences are settled, an access that is no load is gone if it is a fence whose condition holds, and else as it was (R174). -/
theorem State.settle_get? (hs : Tbl.sorted s.flights = true) (hf : Tbl.get? s.flights id = some f) (hl : f.isLoad = false) :
    Tbl.get? s.settle.flights id = if s.fenceDone id f then none else some f := by
  have hmem : id ∈ (s.flights.filter fun p => s.fenceDone p.1 p.2).map Prod.fst ↔ s.fenceDone id f = true := by
    refine ⟨fun h => ?_, fun h => List.mem_map.2 ⟨(id, f), List.mem_filter.2 ⟨Tbl.mem_of_get? hf, h⟩, rfl⟩⟩
    obtain ⟨⟨_, f'⟩, hp, rfl⟩ := List.mem_map.1 h
    obtain ⟨hp, hdone⟩ := List.mem_filter.1 hp
    obtain rfl := Option.some.inj ((Tbl.get?_of_mem hs hp).symm.trans hf)
    exact hdone
  have hload (g : Flight) (hg : Tbl.get? s.flights id = some g) : g.isLoad = false := Option.some.inj (hf.symm.trans hg) ▸ hl
  rw [State.settle, State.foldl_endFence_get? (fun p hp => State.fenceDone_isFence (List.mem_filter.1 hp).2) hs hload, hf]
  simp only [hmem]

/-- A fence looks at the accesses before it: that it is in flight itself makes no difference to it. -/
theorem State.fenceDone_addFlight (hid : ∀ p ∈ s.flights, p.1 < s.nextId) (g : Flight) :
    (s.addFlight g).fenceDone s.nextId f = s.fenceDone s.nextId f := by
  have hall (q : Nat × Flight → Bool) (hq : ∀ p, s.nextId ≤ p.1 → q p = true) :
      (s.addFlight g).flights.all q = s.flights.all q := by
    rw [Bool.eq_iff_iff, List.all_eq_true, List.all_eq_true]
    refine ⟨fun h p hp => h p (Tbl.mem_set_of_ne hp (Nat.ne_of_lt (hid p hp))), fun h p hp => ?_⟩
    rcases Tbl.mem_set _ _ _ p hp with rfl | hp
    · exact hq _ (Nat.le_refl _)
    · exact h p hp
  unfold State.fenceDone
  split
  case h_1 kind scope entries _ =>
    exact congrArg (· && _) (hall (fun p => decide (s.nextId ≤ p.1) || !p.2.sameAgent f || s.fenceSees p.1 p.2 kind scope) fun p hp => by
      simp [hp])
  case h_2 => rfl

/-! The caller's fence. -/

/-- The fence that FIG.LAUNCH sends before it (R388). -/
def State.launchFence (s : State) (n l : Nat) : Flight :=
  { core := n, launch := l, agent := .caller, who := [], fig := 0#32, off := 0, word := 0#32, ll := 8, dst := 0#6
    dstN := 0, ea := 0#64, sent := s.nextId, op := .fence 3 4 (s.cluster (clusterOf n)).wtb, stage := .request }

theorem State.callerFenceOf_eq (s : State) (n l : Nat) :
    s.callerFenceOf n l 3 4 = (s.addFlight (s.launchFence n l)).settle := rfl

/-- What the accesses in flight and the clusters make no difference to. -/
theorem OnlyLaunch.flown (h : OnlyLaunch n l u t) (hu : u = { s with flights := u.flights, clusters := u.clusters, nextId := u.nextId }) :
    OnlyLaunch n l s { t with flights := s.flights, clusters := s.clusters, nextId := s.nextId } := by
  obtain ⟨h1, h2, h3, h4⟩ := h
  have hcore (x : Nat) : u.core x = s.core x := by rw [hu]; rfl
  refine ⟨?_, fun x hx => (h2 x hx).trans (hcore x), h3.trans (by rw [hcore]; rfl), fun x hx => (h4 x hx).trans ?_⟩
  · rw [h1, hu]
  · rw [State.res?, hcore, State.res?]

theorem exec_figLaunch : exec (.figLaunch rd rs1) s = xfig (some (.launch rd rs1)) (figLaunchAct rd rs1) s := rfl

/-- FIG.LAUNCH first sends its fence, and stalls. -/
theorem figLaunch_fences (h : s.Calling n l r) (hsound : s.Sound) (hst : r.caller.stall = none) :
    Answers (.figLaunch rd rs1) s fun t =>
      t.res? n l = some { r with caller := { r.caller with stall := some (.launch rd rs1) } } ∧
      Tbl.get? t.flights s.nextId = (if s.fenceDone s.nextId (s.launchFence n l) then none else some (s.launchFence n l)) ∧
      t.nextId = s.nextId + 1 ∧ OnlyDrops s t ∧ SettlesFlights s.nextId s t ∧
      OnlyLaunch n l s { t with flights := s.flights, clusters := s.clusters, nextId := s.nextId } := by
  obtain ⟨-, -, -, hsorted, hid⟩ := hsound
  have hn := h.2.1
  have hact : figLaunchAct rd rs1 s n l (s.core n) r = .stall (s.callerFenceOf n l 3 4) := by simp only [figLaunchAct, hst]
  rw [State.callerFenceOf_eq] at hact
  have hfl : Tbl.sorted (s.addFlight (s.launchFence n l)).flights = true := Tbl.sorted_set _ _ _ hsorted
  have hset := State.settle_settles hfl
  have hget := State.settle_get? hfl (Tbl.get?_set_self _ s.nextId (s.launchFence n l)) rfl
  rw [State.fenceDone_addFlight hid] at hget
  generalize (s.addFlight (s.launchFence n l)).settle = u at hact hset hget
  have hcore : u.core n = s.core n := hset.core n
  have hnext : u.nextId = s.nextId + 1 := by rw [hset.state]; rfl
  have hstate : u = { s with flights := u.flights, clusters := u.clusters, nextId := u.nextId } := by
    rw [hset.state]
    rfl
  have hlast := OnlyLaunch.modRes (s := u) (l := l)
    (f := fun r => { r with caller := { r.caller with stall := some (.launch rd rs1) } }) hn
  have hsame : (u.modRes n l fun r => { r with caller := { r.caller with stall := some (.launch rd rs1) } }).flights = u.flights := by
    rw [hlast.1]
  refine ⟨_, exec_figLaunch.trans (xfig_stall h hact), State.res?_modRes_self hn ?_, by rw [hsame, hget], ?_, ?_, ?_, hlast.flown hstate⟩
  · rw [State.res?, hcore]
    exact h.2.2
  · rw [hlast.1]
    exact hnext
  · have hdrops : OnlyDrops s u := hset.drops
    exact hdrops.trans (OnlyDrops.of_clusters (by rw [hlast.1]))
  · intro id f hne hf hfence
    rw [hsame]
    exact hset.flights (fun j hj => Tbl.get?_set_other _ _ _ _ hj) id f hne hf hfence

/-- Behind its fence FIG.LAUNCH waits. -/
theorem figLaunch_waits (h : s.Calling n l r) (hst : r.caller.stall ≠ none) (hf : s.callerFenced n l = true) :
    Answers (.figLaunch rd rs1) s fun t =>
      t.res? n l = some { r with caller := { r.caller with stall := some (.launch rd rs1) } } ∧ OnlyLaunch n l s t := by
  obtain ⟨st, hst⟩ := Option.ne_none_iff_exists'.1 hst
  exact xfig_stalls h (by simp only [figLaunchAct, hst, hf, if_true]) exec_figLaunch

/-! The record is posted. -/

theorem figLaunchAct_posts (hst : r.caller.stall ≠ none) (hf : s.callerFenced n l = false) {id : Nat} (c : Core)
    (hp : s.postLaunch n l (r.caller.reg rs1) = (id, u)) :
    figLaunchAct rd rs1 s n l c r = .done (u.setX n l rd (BitVec.ofNat 64 id)) := by
  obtain ⟨st, hst⟩ := Option.ne_none_iff_exists'.1 hst
  simp only [figLaunchAct, hst, hf, hp, Bool.false_eq_true, if_false]

/-- A FIG.LAUNCH that is refused gives 0. -/
theorem figLaunch_refused (h : s.Calling n l r) (hst : r.caller.stall ≠ none) (hf : s.callerFenced n l = false)
    (hp : s.postLaunch n l (r.caller.reg rs1) = (0, s)) :
    Answers (.figLaunch rd rs1) s fun t => XfigDone n l r rd 0 (fun r => r) s t ∧ OnlyLaunch n l s t :=
  xfig_gives h (figLaunchAct_posts hst hf _ hp) exec_figLaunch

section
variable {x : Launch} {va : DWord} {bytes : List Byte} {prio : Nat}

/-- An address off a line, in an array or not canonical is refused. -/
theorem State.postLaunch_misplaced (hx : s.launch? l = some x) (hva : va.toNat % 64 ≠ 0 ∨ isArray va = true ∨ canonical va = false) :
    s.postLaunch n l va = (0, s) := by
  simp only [State.postLaunch, hx]
  refine if_pos ?_
  rcases hva with h | h | h <;> simp [h]

/-- A record that is read is refused or accepted, under the greatest priority that the launch's root queue allows (R387, R388). -/
theorem State.postLaunch_read (hx : s.launch? l = some x) (hva : va.toNat % 64 = 0) (ha : isArray va = false) (hc : canonical va = true)
    (hr : s.readRecord x.asid (va.toNat % 2 ^ 48) 8 = .ok bytes)
    (hq : ∀ q : HostQ, s.dsc.queues[x.rootq]? = some q → prio = q.cfg.toNat / 2 ^ 35 % 8)
    (hnone : s.dsc.queues[x.rootq]? = none → prio = x.rootPrio) :
    s.postLaunch n l va =
      (s.refuses bytes x.asid x.part prio).elim (s.accept bytes x.rootq x.rootPrio none (some (n, l))) fun _ => (0, s) := by
  have hplaced : ¬ (va.toNat % 64 ≠ 0 ∨ (!canonical va) = true ∨ isArray va = true) := by simp [hva, ha, hc]
  simp only [State.postLaunch, hx, if_neg hplaced, hr]
  cases h : s.dsc.queues[x.rootq]? with
  | none =>
    rw [hnone h]
    cases s.refuses bytes x.asid x.part x.rootPrio <;> rfl
  | some q =>
    have hprio : (q.cfg.extractLsb' 35 3).toNat = prio := by
      rw [hq q h, ← Nat.shiftRight_eq_div_pow]
      exact BitVec.extractLsb'_toNat ..
    simp only [hprio]
    cases s.refuses bytes x.asid x.part prio <;> rfl

end

/-- A waiting launch, as the scheduler accepts it from a poster (R388, R389). -/
def State.postedLaunch (s : State) (record : List Byte) (x : Launch) (n l : Nat) : Launch :=
  { record := record, state := .waiting, rootq := x.rootq, rootPrio := x.rootPrio, entry := none, poster := some (n, l)
    restarts := 0
    order := s.dsc.orders, since := (s.part (recNat record 10 1)).decisions, x0 := 0, y0 := 0, areas := []
    sweep := none, twinSweep := none, pairIndex := none, proposed := false, fin := none, released := false
    endRefused := false }

/-- The number of the next launch (R389). -/
def State.nextIdent (s : State) : Nat := if s.dsc.idents + 1 = 2 ^ 31 then 1 else s.dsc.idents + 1

/-- The scheduler with a launch accepted. -/
def State.accepts (s : State) (id : Nat) (y : Launch) : State :=
  { s with dsc := { s.dsc with idents := s.nextIdent, orders := s.dsc.orders + 1, launches := Tbl.set s.dsc.launches id y } }

theorem State.accept_eq (s : State) (record : List Byte) (x : Launch) (n l : Nat) :
    s.accept record x.rootq x.rootPrio none (some (n, l)) =
      (s.nextIdent + 2 ^ 31 * s.cardNo, s.accepts (s.nextIdent + 2 ^ 31 * s.cardNo) (s.postedLaunch record x n l)) := rfl

/-- A FIG.LAUNCH that is accepted gives the identifier of the launch. -/
theorem figLaunch_posts (h : s.Calling n l r) (hst : r.caller.stall ≠ none) (hf : s.callerFenced n l = false) {y : Launch}
    (hp : s.postLaunch n l (r.caller.reg rs1) = (id, s.accepts id y)) :
    Answers (.figLaunch rd rs1) s fun t =>
      XfigDone n l r rd id (fun r => r) s t ∧ OnlyLaunch n l s { t with dsc := s.dsc } ∧ t.dsc = (s.accepts id y).dsc := by
  have hlast := OnlyLaunch.modRes (s := s.accepts id y) (l := l) (f := (Res.xdone · rd (BitVec.ofNat 64 id))) h.2.1
  obtain ⟨h1, h2, h3, h4⟩ := hlast
  refine ⟨_, exec_figLaunch.trans (xfig_done h (figLaunchAct_posts hst hf _ hp)),
    XfigDone.of_res h h.2.2 rfl (fun _ _ => rfl) (fun _ _ => rfl) rfl, ⟨?_, h2, h3, h4⟩, by rw [h1]⟩
  rw [h1]
  rfl

end
end Sys2Proof.Machine

namespace Sys2Proof.Proofs
open Sys2Proof Sys2Proof.Machine

/-- Settles O31: the faulted micro-thread retried, passed over and retired; then FIG.LAUNCH before, behind and after its fence. -/
theorem faultResumeAndLaunchPostResults : Obligations.FaultResumeAndLaunchPostResults := by
  refine ⟨fun rd rs1 rs2 s n l r slot m h hs hlt hm => ⟨fun i hl hi ho hredo => ⟨fun hmode => ?_, fun hmode hlink hsound => ?_,
      fun hmode hfig htr hlen => ?_⟩, figResume_refused h hs (State.micro_of_microAt hm)⟩,
    fun rd rs1 s n l r h hsound => ⟨figLaunch_fences h hsound, figLaunch_waits h, fun x hst hf hx =>
      ⟨fun hva => figLaunch_refused h hst hf (State.postLaunch_misplaced hx hva), fun bytes prio hva ha hc hr hq hnone => ?_⟩⟩⟩
  · obtain ⟨t, ht, hdone, hmicro, hother, honly⟩ := figResume_stamps (rd := rd) ⟨h, hs, hlt, hm, hl, hi, ho⟩ (by omega)
      (hmode ▸ State.resumeFault_retry hredo)
    refine ⟨t, ht, hdone, ⟨_, hmicro, ?_⟩, hother, honly⟩
    rw [Micro.retry_eq]
  · obtain ⟨t, ht, hdone, hmicro, hframe⟩ := figResume_retires (rd := rd) ⟨h, hs, hlt, hm, hl, hi, ho⟩ hsound hmode hlink
    exact ⟨t, ht, hdone, ⟨_, hmicro, rfl, rfl, rfl, rfl, rfl, rfl, rfl, rfl, rfl⟩, hframe⟩
  · obtain ⟨t, ht, hdone, hmicro, hother, honly⟩ := figResume_stamps (rd := rd) ⟨h, hs, hlt, hm, hl, hi, ho⟩ (by omega)
      (hmode ▸ State.resumeFault_skip hredo hfig htr hlen)
    refine ⟨t, ht, hdone, ⟨_, ⟨i.fig, i.off + i.len, i.ll + if (s.placeIn r i.fig i.off).1 then 1 else 0⟩, hmicro, ?_, rfl, rfl,
      Nat.le_add_right .., ?_⟩, hother, honly⟩
    · rw [Micro.skipBody_eq hfig]
    · exact Nat.add_le_add_left (by split <;> decide) _
  · have hpost := State.postLaunch_read (n := n) hx hva ha hc hr hq hnone
    refine ⟨fun hacc => ?_, fun href => ?_⟩
    · rw [hacc] at hpost
      obtain ⟨t, ht, hdone, honly, hdsc⟩ := figLaunch_posts (rd := rd) h hst hf hpost
      refine ⟨t, ht, hdone, honly, ⟨s.postedLaunch bytes x n l, ?_, rfl, rfl, rfl, rfl, rfl, rfl, rfl, rfl⟩, fun j hj => ?_,
        by rw [hdsc]; rfl⟩
      · rw [hdsc]
        exact Tbl.get?_set_self _ _ _
      · rw [hdsc]
        exact Tbl.get?_set_other _ _ _ _ hj
    · obtain ⟨reason, hreason⟩ := Option.ne_none_iff_exists'.1 href
      rw [hreason] at hpost
      exact figLaunch_refused h hst hf hpost

end Sys2Proof.Proofs

/-! What integer arithmetic, counts, pairs, immediates and shifts write (R100-R105): what each operation computes, as arithmetic. -/

namespace Sys2Proof.Machine

/-! The lesser and the greater of two words (R100). -/

theorem lesser_eq (x y : Word) : (if x.slt y then x else y) = BitVec.ofInt 32 (min x.toInt y.toInt) := by
  rw [min_comm, ← toInt_lesser, BitVec.ofInt_toInt]

theorem greater_eq (x y : Word) : (if x.slt y then y else x) = BitVec.ofInt 32 (max x.toInt y.toInt) := by
  rw [← toInt_greater, BitVec.ofInt_toInt]

theorem unsigned_lesser_eq (x y : Word) : (if x.ult y then x else y) = BitVec.ofNat 32 (min x.toNat y.toNat) := by
  rw [min_comm, ← toNat_lesser, BitVec.ofNat_toNat, BitVec.setWidth_eq]

theorem unsigned_greater_eq (x y : Word) : (if x.ult y then y else x) = BitVec.ofNat 32 (max x.toNat y.toNat) := by
  rw [← toNat_greater, BitVec.ofNat_toNat, BitVec.setWidth_eq]

/-! Products, and their upper words (R100, R102). -/

theorem signedProduct_eq (x y : Word) : signedProduct x y = BitVec.ofInt 64 (x.toInt * y.toInt) := (BitVec.ofInt_mul _ _).symm

theorem unsignedProduct_eq (x y : Word) : unsignedProduct x y = BitVec.ofNat 64 (x.toNat * y.toNat) := by
  rw [unsignedProduct, BitVec.ofNat_mul, BitVec.ofNat_toNat, BitVec.ofNat_toNat]

theorem lowProduct_eq (x y : Word) : x * y = BitVec.ofNat 32 (x.toNat * y.toNat) := by
  rw [BitVec.ofNat_mul, BitVec.ofNat_toNat, BitVec.ofNat_toNat, BitVec.setWidth_eq, BitVec.setWidth_eq]

theorem hiWord_ofInt (v : Int) : hiWord (BitVec.ofInt 64 v) = BitVec.ofInt 32 (v / 2 ^ 32) := by
  refine BitVec.eq_of_toNat_eq ?_
  simp only [hiWord, BitVec.extractLsb'_toNat, BitVec.toNat_ofInt, Nat.shiftRight_eq_div_pow]
  omega

theorem hiWord_ofNat (v : Nat) : hiWord (BitVec.ofNat 64 v) = BitVec.ofNat 32 (v / 2 ^ 32) := by
  refine BitVec.eq_of_toNat_eq ?_
  simp only [hiWord, BitVec.extractLsb'_toNat, BitVec.toNat_ofNat, Nat.shiftRight_eq_div_pow]
  omega

theorem hiWord_signedProduct (x y : Word) : hiWord (signedProduct x y) = BitVec.ofInt 32 (x.toInt * y.toInt / 2 ^ 32) := by
  rw [signedProduct_eq, hiWord_ofInt]

theorem hiWord_unsignedProduct (x y : Word) : hiWord (unsignedProduct x y) = BitVec.ofNat 32 (x.toNat * y.toNat / 2 ^ 32) := by
  rw [unsignedProduct_eq, hiWord_ofNat]

/-! Counts and the reversal of bits (R100). -/

theorem bitLen_eq_size (n : Nat) : bitLen n = n.size := by
  refine eq_of_forall_ge_iff fun k => ?_
  rw [bitLen, Nat.size_le]
  split
  case isTrue h => simp [h]
  case isFalse h => rw [Nat.succ_le_iff, Nat.log2_lt h]

theorem leadingZeros_eq (x : Word) : leadingZeros x = BitVec.ofNat 32 (32 - x.toNat.size) := by
  rw [leadingZeros, bitLen_eq_size]

theorem popCount_eq (x : Word) : popCount x = BitVec.ofNat 32 ((List.range 32).countP fun i => x.getLsbD i) := by
  rw [popCount, List.countP_eq_length_filter]

theorem bitReverse_eq (x : Word) : bitReverse x = BitVec.ofFnLE fun i : Fin 32 => x.getLsbD (31 - i) := by
  refine BitVec.eq_of_getElem_eq fun i hi => ?_
  rw [bitReverse, BitVec.getElem_reverse, BitVec.getElem_ofFnLE, BitVec.getMsbD, decide_eq_true hi]
  rfl

theorem two_pow_dvd_iff {x k : Nat} : 2 ^ k ∣ x ↔ ∀ j < k, x.testBit j = false := by
  constructor
  · rintro ⟨y, rfl⟩ j hj
    rw [Nat.testBit_two_pow_mul, decide_eq_false (Nat.not_le.2 hj), Bool.false_and]
  · refine fun h => Nat.dvd_of_mod_eq_zero (Nat.eq_of_testBit_eq fun j => ?_)
    rw [Nat.testBit_mod_two_pow, Nat.zero_testBit]
    by_cases hj : j < k
    · rw [h j hj, Bool.and_false]
    · rw [decide_eq_false hj, Bool.false_and]

/-- The lowest one bit of a number that is not 0 is the power of two in it. -/
theorem padicValNat_of_lowest {x i : Nat} (hi : x.testBit i = true) (hj : ∀ j < i, x.testBit j = false) : padicValNat 2 x = i := by
  have hx : x ≠ 0 := by rintro rfl; simp at hi
  refine eq_of_forall_le_iff fun k => ?_
  rw [← padicValNat_dvd_iff_le hx, two_pow_dvd_iff]
  refine ⟨fun h => Nat.le_of_not_lt fun hk => ?_, fun hk j h => hj j (h.trans_le hk)⟩
  rw [h i hk] at hi
  cases hi

theorem trailingZeros_eq (x : Word) :
    trailingZeros x = if x = 0#32 then 32#32 else BitVec.ofNat 32 (padicValNat 2 x.toNat) := by
  rw [trailingZeros]
  cases hf : (List.range 32).find? fun i => x.getLsbD i with
  | none =>
    rw [if_pos]
    · rfl
    · refine BitVec.eq_of_getLsbD_eq fun i hi => ?_
      simpa using List.find?_eq_none.1 hf i (List.mem_range.2 hi)
  | some i =>
    obtain ⟨hi, -, hj⟩ := List.find?_range_eq_some.1 hf
    rw [if_neg, padicValNat_of_lowest hi fun j hlt => (Bool.not_eq_true' _).mp (hj j hlt), Option.getD_some]
    rintro rfl
    simp at hi

/-! Immediates (R103-R105). -/

theorem add_signExtend (x : Word) (imm : BitVec 13) : x + imm.signExtend 32 = BitVec.ofInt 32 (x.toInt + imm.toInt) := by
  rw [BitVec.ofInt_add, BitVec.ofInt_toInt]
  rfl

theorem mul_signExtend (x : Word) (imm : BitVec 13) : x * imm.signExtend 32 = BitVec.ofInt 32 (x.toInt * imm.toInt) := by
  rw [BitVec.ofInt_mul, BitVec.ofInt_toInt]
  rfl

theorem append_zeros (u : BitVec 19) : (u ++ 0#13 : Word) = BitVec.ofNat 32 (u.toNat * 2 ^ 13) := by
  have hu := u.isLt
  refine BitVec.eq_of_toNat_eq ?_
  rw [toNat_append_add, BitVec.toNat_ofNat, BitVec.toNat_ofNat]
  omega

/-! Two more operand forms. -/

section
variable {i : Instr} {w : Nat} {d a b : Reg} {u : Micro → Word} {p : Micro → DWord}

theorem Writes.of_op0 {v : Micro → Word} (he : ∀ s, exec i s = alu w (fun m => m.op0 (v m) d) s) (hv : ∀ m, v m = u m) :
    Writes i [d] d u := Writes.of_alu he fun m h => hv m ▸ Micro.op0_ready h

theorem WritesPair.of_opWD {f : Word → Word → DWord} (he : ∀ s, exec i s = alu w (fun m => m.opWD f d a b) s)
    (hv : ∀ m, f (m.reg a) (m.reg b) = p m) : WritesPair i (pairOf d ++ [a, b]) d p :=
  WritesPair.of_alu he fun m h => hv m ▸ Micro.opWD_ready h

end

end Sys2Proof.Machine

namespace Sys2Proof.Proofs
open Sys2Proof Sys2Proof.Machine

/-- Settles O1: each instruction by its operand form and by what its operation computes. -/
theorem integerResults : Obligations.IntegerResults :=
  ⟨fun _ _ _ => ⟨
    .of_op2 (fun _ => rfl) fun _ => rfl, .of_op2 (fun _ => rfl) fun _ => rfl, .of_op2 (fun _ => rfl) fun _ => rfl,
    .of_op2 (fun _ => rfl) fun _ => rfl, .of_op2 (fun _ => rfl) fun _ => rfl, .of_op2 (fun _ => rfl) fun _ => rfl,
    .of_op2 (fun _ => rfl) fun _ => rfl, .of_op2 (fun _ => rfl) fun _ => rfl, .of_op2 (fun _ => rfl) fun _ => rfl,
    .of_op2 (fun _ => rfl) fun _ => rfl,
    .of_op2 (fun _ => rfl) fun _ => lesser_eq _ _, .of_op2 (fun _ => rfl) fun _ => greater_eq _ _,
    .of_op2 (fun _ => rfl) fun _ => unsigned_lesser_eq _ _, .of_op2 (fun _ => rfl) fun _ => unsigned_greater_eq _ _,
    .of_op2 (fun _ => rfl) fun _ => lowProduct_eq _ _, .of_op2 (fun _ => rfl) fun _ => hiWord_signedProduct _ _,
    .of_op2 (fun _ => rfl) fun _ => hiWord_unsignedProduct _ _,
    .of_op2 (fun _ => rfl) fun _ => rfl, .of_op2 (fun _ => rfl) fun _ => rfl⟩,
  fun _ _ => ⟨
    .of_op1 (fun _ => rfl) fun _ => leadingZeros_eq _, .of_op1 (fun _ => rfl) fun _ => trailingZeros_eq _,
    .of_op1 (fun _ => rfl) fun _ => popCount_eq _, .of_op1 (fun _ => rfl) fun _ => bitReverse_eq _⟩,
  fun _ _ _ => ⟨
    .of_opD2 (fun _ => rfl) fun _ => rfl, .of_opD2 (fun _ => rfl) fun _ => rfl,
    .of_opWD (fun _ => rfl) fun _ => signedProduct_eq _ _, .of_opWD (fun _ => rfl) fun _ => unsignedProduct_eq _ _⟩,
  fun _ _ imm _ u => ⟨
    .of_op1 (fun _ => rfl) fun _ => add_signExtend _ imm, .of_op1 (fun _ => rfl) fun _ => rfl,
    .of_op1 (fun _ => rfl) fun _ => rfl, .of_op1 (fun _ => rfl) fun _ => rfl,
    .of_op1 (fun _ => rfl) fun _ => mul_signExtend _ imm,
    .of_op1 (fun _ => rfl) fun _ => rfl, .of_op1 (fun _ => rfl) fun _ => rfl, .of_op1 (fun _ => rfl) fun _ => rfl,
    .of_op1 (fun _ => rfl) fun _ => rfl,
    .of_op0 (fun _ => rfl) fun _ => append_zeros u⟩⟩

end Sys2Proof.Proofs

/-! What comparisons, selections, predicate logic, FSTAT and SETRM write (R17, R106-R109, R112, R114, R115). -/

namespace Sys2Proof.Machine

/-! The integer conditions (R106). -/

section
variable {w : Nat} (x y : BitVec w)

theorem intCompare_eq : intCompare 0#3 x y = true ↔ x.toNat = y.toNat := by
  rw [BitVec.toNat_inj]
  exact beq_iff_eq

theorem intCompare_ne : intCompare 1#3 x y = true ↔ x.toNat ≠ y.toNat := by
  rw [Ne, BitVec.toNat_inj]
  exact bne_iff_ne

theorem intCompare_lt : intCompare 2#3 x y = true ↔ x.toInt < y.toInt := BitVec.slt_iff_toInt_lt
theorem intCompare_le : intCompare 3#3 x y = true ↔ x.toInt ≤ y.toInt := BitVec.sle_iff_toInt_le
theorem intCompare_gt : intCompare 4#3 x y = true ↔ y.toInt < x.toInt := BitVec.slt_iff_toInt_lt
theorem intCompare_ge : intCompare 5#3 x y = true ↔ y.toInt ≤ x.toInt := BitVec.sle_iff_toInt_le
theorem intCompare_ltu : intCompare 6#3 x y = true ↔ x.toNat < y.toNat := BitVec.ult_iff_lt
theorem intCompare_geu : intCompare 7#3 x y = true ↔ y.toNat ≤ x.toNat := BitVec.ule_iff_le

end

/-! From the forms that write a predicate to the results of instructions. -/

section
variable {i : Instr} {w : Nat} {a b : Reg} {p q r : PReg} {v : Micro → Bool × FFlags}

/-- A predicate written and its flags raised are what `WritesPred` says. -/
theorem WritesPred.of_alu {rs : List Reg} {f : Micro → Except Flt Micro} (he : ∀ s, exec i s = alu w f s)
    (hf : ∀ m, m.Ready rs → f m = .ok ((m.setPred p (v m).1).raise (v m).2)) : WritesPred i rs p v :=
  LaneResult.of_lanes he fun _ _ m h => by rw [hf m h, Micro.setPred_eq]; rfl

theorem WritesPred.of_cmp2 {f : Word → Word → Bool × FFlags} (he : ∀ s, exec i s = alu w (fun m => m.cmp2 f p a b) s)
    (hv : ∀ m, f (m.reg a) (m.reg b) = v m) : WritesPred i [a, b] p v :=
  .of_alu he fun m h => hv m ▸ Micro.cmp2_ready h

theorem WritesPred.of_cmpD2 {f : DWord → DWord → Bool × FFlags} (he : ∀ s, exec i s = alu w (fun m => m.cmpD2 f p a b) s)
    (hv : ∀ m, f (m.pair a) (m.pair b) = v m) : WritesPred i (pairOf a ++ pairOf b) p v :=
  .of_alu he fun m h => hv m ▸ Micro.cmpD2_ready h

theorem WritesPred.of_cmpImm {f : Word → Bool} (he : ∀ s, exec i s = alu w (fun m => m.cmpImm f p a) s)
    (hv : ∀ m, (f (m.reg a), noFlags) = v m) : WritesPred i [a] p v :=
  .of_alu he fun m h => by rw [← hv m, Micro.cmpImm_ready h, Micro.raise_none]

theorem WritesPred.of_pred2 {f : Bool → Bool → Bool} (he : ∀ s, exec i s = alu w (fun m => m.pred2 f p q r) s)
    (hv : ∀ m, (f (m.pred q) (m.pred r), noFlags) = v m) : WritesPred i [] p v :=
  .of_alu he fun m _ => by rw [← hv m, Micro.raise_none]; rfl

end

section
variable {d a b : Reg}

theorem sel_writes {p : PReg} : Writes (.sel d a b p) [d, a, b] d fun m => if m.pred p then m.reg a else m.reg b :=
  Writes.of_alu (fun _ => rfl) fun _ h => Micro.op2_ready h

/-! The moves between predicates and registers (R112): p7 reads true. -/

theorem predicates_word (v : BitVec 7) : (0#24 ++ 1#1 ++ v : Word) = BitVec.ofNat 32 (v.toNat + 128) := by
  have hv := v.isLt
  refine BitVec.eq_of_toNat_eq ?_
  rw [toNat_append_add, BitVec.toNat_ofNat]
  change 1 * 2 ^ 7 + v.toNat = _
  omega

/-- Bits replaced under a mask. -/
theorem masked_bits (v : BitVec 7) (x y : Word) : (v &&& ~~~y.setWidth 7) ||| (x.setWidth 7 &&& y.setWidth 7) =
    BitVec.ofFnLE fun i : Fin 7 => if y.getLsbD i then x.getLsbD i else v.getLsbD i := by
  refine BitVec.eq_of_getLsbD_eq fun i hi => ?_
  rw [BitVec.getLsbD_ofFnLE, dif_pos hi]
  simp only [BitVec.getLsbD_or, BitVec.getLsbD_and, BitVec.getLsbD_not, BitVec.getLsbD_setWidth, hi, decide_true, Bool.true_and]
  cases y.getLsbD i <;> simp

theorem g2p_writes : LaneResult (.g2p a b) (fun m => m.Ready [a, b]) fun m =>
    { m with preds := BitVec.ofFnLE fun i : Fin 7 => if (m.reg b).getLsbD i then (m.reg a).getLsbD i else m.preds.getLsbD i } :=
  LaneResult.of_lanes (fun _ => rfl) fun _ _ m h => by
    simp only [Micro.need_ok h, Micro.rd_ok (h a (by simp)).2, Micro.rd_ok (h b (by simp)).2, bind, Except.bind, masked_bits]

/-! FSTAT and SETRM (R114, R115). -/

theorem fstat_writes : LaneResult (.fstat d a) (fun m => m.Ready [d, a]) fun m =>
    { m.setReg d (m.fflags.setWidth 32) with fflags := m.fflags &&& ~~~((m.reg a).setWidth 5) } :=
  LaneResult.of_lanes (fun _ => rfl) fun _ _ m h => by
    simp only [Micro.need_ok h, Micro.rd_ok (h a (by simp)).2, Micro.wrOk_clear (h d (by simp)).2.1, bind, Except.bind]

theorem setrm_writes : LaneResult (.setrm d a) (fun m => m.Ready [d, a] ∧ (m.reg a).toNat ≤ 4) fun m =>
    { m.setReg d (m.frm.setWidth 32) with frm := (m.reg a).setWidth 3 } :=
  LaneResult.of_lanes (exec_setrm d a) fun _ _ m ⟨h, hv⟩ => by
    simp only [Micro.need_ok h, Micro.rd_ok (h a (by simp)).2, Micro.wrOk_clear (h d (by simp)).2.1, bind, Except.bind]
    exact if_pos hv

end

end Sys2Proof.Machine

namespace Sys2Proof.Proofs
open Sys2Proof Sys2Proof.Machine

/-- Settles O2: comparisons and predicate logic by their operand forms, the conditions one by one, then the moves. -/
theorem comparisonAndPredicateResults : Obligations.ComparisonAndPredicateResults :=
  ⟨fun _ _ _ _ _ => ⟨.of_cmp2 (fun _ => rfl) fun _ => rfl, .of_cmpD2 (fun _ => rfl) fun _ => rfl,
    .of_cmpImm (fun _ => rfl) fun _ => rfl, .of_cmp2 (fun _ => rfl) fun _ => rfl, .of_cmpD2 (fun _ => rfl) fun _ => rfl⟩,
  fun x y => ⟨intCompare_eq x y, intCompare_ne x y, intCompare_lt x y, intCompare_le x y, intCompare_gt x y, intCompare_ge x y,
    intCompare_ltu x y, intCompare_geu x y⟩,
  fun _ _ _ _ _ _ => ⟨sel_writes, .of_pred2 (fun _ => rfl) fun _ => rfl, .of_pred2 (fun _ => rfl) fun _ => rfl,
    .of_pred2 (fun _ => rfl) fun _ => rfl, .of_pred2 (fun _ => rfl) fun _ => rfl,
    .of_op0 (fun _ => rfl) fun m => predicates_word m.preds, g2p_writes, LaneResult.of_lanes (fun _ => rfl) fun _ _ _ _ => rfl,
    fstat_writes, setrm_writes⟩⟩

end Sys2Proof.Proofs

/-! What BFE, BFI and the packing and unpacking instructions write (R111, R136-R138). -/

namespace Sys2Proof.Machine

/-! Bit fields (R111): the field that a control word names, bit by bit. -/

/-- The lowest bit of the field. -/
def fieldPos (y : Word) : Nat := y.toNat % 32

/-- The length of the field, which ends at bit 31 at the latest. -/
def fieldLen (y : Word) : Nat := min (y.toNat / 256 % 64) (32 - fieldPos y)

section
variable {i p l : Nat} (x y z : Word)

theorem extract_fieldPos : (y.extractLsb' 0 5).toNat = fieldPos y := by
  rw [BitVec.extractLsb'_toNat, Nat.shiftRight_zero, fieldPos]

theorem extract_fieldLen : min (y.extractLsb' 8 6).toNat (32 - fieldPos y) = fieldLen y := by
  rw [BitVec.extractLsb'_toNat, Nat.shiftRight_eq_div_pow, fieldLen]

theorem getLsbD_mask (hi : i < 32) : (BitVec.ofNat 32 (2 ^ l - 1)).getLsbD i = decide (i < l) := by
  rw [BitVec.getLsbD_ofNat, Nat.testBit_two_pow_sub_one, decide_eq_true hi, Bool.true_and]

theorem getLsbD_field (hi : i < 32) :
    ((x >>> p) &&& BitVec.ofNat 32 (2 ^ l - 1)).getLsbD i = (decide (i < l) && x.getLsbD (p + i)) := by
  rw [BitVec.getLsbD_and, BitVec.getLsbD_ushiftRight, getLsbD_mask hi, Bool.and_comm]

/-- A field under its mask; the bits above it are copies of a sign. -/
theorem getLsbD_extended (sign : Bool) (hi : i < 32) :
    (if sign then (x >>> p &&& BitVec.ofNat 32 (2 ^ l - 1)) ||| ~~~BitVec.ofNat 32 (2 ^ l - 1)
      else x >>> p &&& BitVec.ofNat 32 (2 ^ l - 1)).getLsbD i = if i < l then x.getLsbD (p + i) else sign := by
  cases sign <;> by_cases h : i < l <;>
    simp only [Bool.false_eq_true, if_true, if_false, BitVec.getLsbD_or, BitVec.getLsbD_not, getLsbD_field x hi, getLsbD_mask hi, h, hi,
      decide_true, decide_false, Bool.true_and, Bool.false_and, Bool.not_true, Bool.not_false, Bool.or_false, Bool.or_true]

theorem bitExtract_eq : bitExtract x y = BitVec.ofFnLE fun i : Fin 32 =>
    if i.val < fieldLen y then x.getLsbD (fieldPos y + i)
    else y.getLsbD 16 && fieldLen y != 0 && x.getLsbD (fieldPos y + fieldLen y - 1) := by
  refine BitVec.eq_of_getLsbD_eq fun i hi => ?_
  have hl : fieldLen y ≤ 32 := (Nat.min_le_right _ _).trans (Nat.sub_le _ _)
  simp only [bitExtract, extract_fieldPos, extract_fieldLen, BitVec.getLsbD_ofFnLE, dif_pos hi, getLsbD_extended x _ hi]
  cases hf : fieldLen y with
  | zero => simp
  | succ k => simp [getLsbD_field x (hf ▸ hl)]

theorem bitInsert_eq : bitInsert x y z = BitVec.ofFnLE fun i : Fin 32 =>
    if fieldPos y ≤ i.val ∧ i.val < fieldPos y + fieldLen y then x.getLsbD (i - fieldPos y) else z.getLsbD i := by
  refine BitVec.eq_of_getLsbD_eq fun i hi => ?_
  simp only [bitInsert, extract_fieldPos, extract_fieldLen, BitVec.getLsbD_ofFnLE, BitVec.getLsbD_or, BitVec.getLsbD_and,
    BitVec.getLsbD_not, BitVec.getLsbD_shiftLeft, hi, decide_true, Bool.true_and, getLsbD_mask (Nat.lt_of_le_of_lt (Nat.sub_le i _) hi)]
  by_cases hp : fieldPos y ≤ i
  · by_cases hl : i < fieldPos y + fieldLen y
    · simp [hp, hl, Nat.not_lt.2 hp, Nat.sub_lt_left_of_lt_add hp hl]
    · have : ¬ i - fieldPos y < fieldLen y := by omega
      simp [hl, this]
  · simp [hp, Nat.lt_of_not_le hp]

end

section
variable {m : Micro} {f : Fmt} {d a b c : Reg}

theorem Writes.of_op3 {i : Instr} {w : Nat} {f : Word → Word → Word → Word} {u : Micro → Word}
    (he : ∀ s, exec i s = alu w (fun m => m.op3 f d a b c) s) (hv : ∀ m, f (m.reg a) (m.reg b) (m.reg c) = u m) :
    Writes i [d, a, b, c] d u := Writes.of_alu he fun m h => hv m ▸ Micro.op3_ready h

/-! Packing into bytes and unpacking from them (R136). -/

/-- A control word names a rounding mode, 7 standing for FRM. -/
theorem Micro.npkRm_some {v : Word} (h : v.toNat < 16 ∧ v.toNat % 8 ≠ 5 ∧ v.toNat % 8 ≠ 6) :
    m.npkRm v = some (m.cvtRm (v.setWidth 3)) := by
  have hc : v.extractLsb' 0 3 = v.setWidth 3 := (BitVec.setWidth_eq_extractLsb' (by decide)).symm
  refine (if_neg ?_).trans (congrArg _ (congrArg _ hc))
  simp only [← BitVec.toNat_inj, ne_eq, BitVec.extractLsb'_toNat, BitVec.toNat_ofNat, Nat.shiftRight_eq_div_pow]
  omega

/-- What PKE4 and PKE5 make of register `k` of the source group, under their control word. -/
def Micro.packed (m : Micro) (f : Fmt) (a b : Reg) (k : Nat) : FpRes :=
  fpNarrow fp32 f ((m.reg b).getLsbD 3) (m.cvtRm ((m.reg b).setWidth 3)) (m.reg (a + BitVec.ofNat 6 k)).toNat

theorem foldr_bytes (e : Nat → FpRes) : ((List.range 4).map e).foldr (fun r acc => r.1 + 256 * acc) 0 =
    (e 0).1 + 2 ^ 8 * (e 1).1 + 2 ^ 16 * (e 2).1 + 2 ^ 24 * (e 3).1 := by
  simp only [List.range_succ, List.range_zero, List.nil_append, List.cons_append, List.map_cons, List.map_nil, List.foldr_cons,
    List.foldr_nil]
  omega

theorem foldl_flags (e : Nat → FpRes) : ((List.range 4).map e).foldl (fun fl r => fl ||| r.2) noFlags =
    (e 0).2 ||| (e 1).2 ||| (e 2).2 ||| (e 3).2 := by
  simp [List.range_succ, noFlags]

theorem Micro.packBytes_ready (h : m.Ready ([d, b] ++ groupCodes a 4))
    (hv : (m.reg b).toNat < 16 ∧ (m.reg b).toNat % 8 ≠ 5 ∧ (m.reg b).toNat % 8 ≠ 6) :
    let e := m.packed f a b
    m.packBytes f d a b = .ok ((m.setReg d (BitVec.ofNat 32 ((e 0).1 + 2 ^ 8 * (e 1).1 + 2 ^ 16 * (e 2).1 + 2 ^ 24 * (e 3).1))).raise
      ((e 0).2 ||| (e 1).2 ||| (e 2).2 ||| (e 3).2)) := by
  have ha := self_mem_groupCodes a (n := 4) (by decide)
  have hmap : (((groupCodes a 4).map m.reg).map fun v =>
      fpNarrow fp32 f ((m.reg b).getLsbD 3) (m.cvtRm ((m.reg b).setWidth 3)) v.toNat) = (List.range 4).map (m.packed f a b) := by
    rw [groupCodes, List.map_map, List.map_map]
    rfl
  simp only [Micro.packBytes, Micro.need_ok (rs := [d, a, b]) (h.sub (by simp [ha])),
    Micro.rdGroup_ok (h.clear (qs := groupCodes a 4) (by simp +contextual)), Micro.rd_ok (h b (by simp)).2,
    Micro.wrOk_clear (h d (by simp)).2.1, Micro.npkRm_some hv, bind, Except.bind, hmap, foldr_bytes, foldl_flags]

/-- A group of four set, register by register. -/
theorem Micro.setGroup_four (m : Micro) (d : Reg) (e : Nat → FpRes) :
    m.setGroup d (((List.range 4).map e).map fun r => BitVec.ofNat 32 r.1) =
      (((m.setReg d (BitVec.ofNat 32 (e 0).1)).setReg (d + 1#6) (BitVec.ofNat 32 (e 1).1)).setReg (d + 2#6)
        (BitVec.ofNat 32 (e 2).1)).setReg (d + 3#6) (BitVec.ofNat 32 (e 3).1) := by
  simp [List.range_succ, Micro.setGroup, BitVec.add_assoc]

/-- What UPE4 and UPE5 make of byte `k` of their source. -/
def Micro.unpacked (m : Micro) (f : Fmt) (a : Reg) (k : Nat) : FpRes := fpWiden f fp32 ((m.reg a).toNat / 2 ^ (8 * k) % 2 ^ 8)

theorem Micro.unpackBytes_ready {nv : Bool} (h : m.Ready (groupCodes d 4 ++ [a])) :
    let e := m.unpacked f a
    let r := (((m.setReg d (BitVec.ofNat 32 (e 0).1)).setReg (d + 1#6) (BitVec.ofNat 32 (e 1).1)).setReg (d + 2#6)
      (BitVec.ofNat 32 (e 2).1)).setReg (d + 3#6) (BitVec.ofNat 32 (e 3).1)
    m.unpackBytes f nv d a = .ok (if nv then r.raise ((e 0).2 ||| (e 1).2 ||| (e 2).2 ||| (e 3).2) else r) := by
  have hd := self_mem_groupCodes d (n := 4) (by decide)
  have hw : m.wrOk d 4 = .ok () := Micro.wrOk_ok (h.clear (by simp +contextual))
  have hmap : ((List.range 4).map fun k => fpWiden f fp32 ((m.reg a).extractLsb' (8 * k) 8).toNat) =
      (List.range 4).map (m.unpacked f a) :=
    List.map_congr_left fun k _ => by rw [BitVec.extractLsb'_toNat, Nat.shiftRight_eq_div_pow]; rfl
  simp only [Micro.unpackBytes, Micro.need_ok (rs := [d, a]) (h.sub (by simp [hd])), Micro.rd_ok (h a (by simp)).2, hw, bind, Except.bind,
    hmap, Micro.setGroup_four, foldl_flags]

/-! B4 blocks (R137, R138). -/

theorem Micro.packBlock_ready (h : m.Ready (pairOf d ++ [b] ++ groupCodes a 8))
    (hv : (m.reg b).toNat < 8 ∧ (m.reg b).toNat ≠ 5 ∧ (m.reg b).toNat ≠ 6) :
    let r := packB4 (m.cvtRm ((m.reg b).setWidth 3)) ((groupCodes a 8).map fun c => fp32.value (m.reg c).toNat)
    m.packBlock d a b = .ok (((m.setReg d r.1).setReg (d + 1#6) r.2.1).raise r.2.2) := by
  have ha := self_mem_groupCodes a (n := 8) (by decide)
  have hw : m.wrOk d 2 = .ok () := Micro.wrOk_ok (h.clear (by simp [pairOf]))
  have hbit : (m.reg b).getLsbD 3 = false := Nat.testBit_lt_two_pow hv.1
  have hmode : m.npkRm (m.reg b) = some (m.cvtRm ((m.reg b).setWidth 3)) := Micro.npkRm_some (by omega)
  simp only [Micro.packBlock, Micro.need_ok (rs := [d, a, b]) (h.sub (by simp [ha, pairOf])),
    Micro.rdGroup_ok (h.clear (qs := groupCodes a 8) (by simp +contextual)), Micro.rd_ok (h b (by simp)).2, hw, bind, Except.bind,
    hmode, hbit, List.map_map]
  rfl

/-- An element of a block on its way into an FP32 register: only a magnitude that is not 0 is rounded. -/
def b4Element (rm : Rm) : Num → FpRes
  | .fin n 0 x => (fp32.code (.fin n 0 x), 0#5)
  | .fin n (q + 1) x => fp32.round rm n (q + 1) x
  | v => (fp32.code v, 0#5)

/-- A group set to the results of a list, with their flags. -/
theorem Micro.setGroup_results {e e' : Nat → FpRes} (he : ∀ k, e k = e' k) (m : Micro) (d : Reg) (l : List Nat) :
    (m.setGroup d ((l.map e).map fun r => BitVec.ofNat 32 r.1)).raise ((l.map e).foldl (fun fl r => fl ||| r.2) noFlags) =
      (m.setGroup d (l.map fun k => BitVec.ofNat 32 (e' k).1)).raise (l.foldl (fun fl k => fl ||| (e' k).2) 0#5) := by
  rw [funext he, List.map_map, List.foldl_map]
  rfl

theorem loWord_mkPair (lo hi : Word) : loWord (mkPair lo hi) = lo := BitVec.extractLsb'_append_eq_right

/-- Bits of a pair above bit 31 are bits of its odd register. -/
theorem extract_mkPair_above (lo hi : Word) {i n : Nat} (h : 32 ≤ i) : (mkPair lo hi).extractLsb' i n = hi.extractLsb' (i - 32) n :=
  BitVec.extractLsb'_append_eq_of_le h

/-- A side word whose scale and escape bytes are not the reserved ones is well-formed (R54). -/
theorem wellFormedSide {v : Word} (hv : v.toNat < 2 ^ 16) (hscale : v.toNat % 256 ≠ 255) (hescape : v.toNat / 256 % 128 ≠ 127) :
    b4IllFormed (v.setWidth 16) = false := by
  simp only [b4IllFormed, Bool.or_eq_false_iff, beq_eq_false_iff_ne, ne_eq, ← BitVec.toNat_inj, BitVec.extractLsb'_toNat,
    BitVec.toNat_setWidth, BitVec.toNat_ofNat, Nat.shiftRight_eq_div_pow]
  omega

/-- Element `k` of the block in a pair. -/
def Micro.blockElement (m : Micro) (a : Reg) (k : Nat) : FpRes :=
  b4Element m.rm (b4Value (m.reg a) ((m.reg (a + 1#6)).setWidth 16) k)

theorem Micro.unpackBlock_ready (h : m.Ready (groupCodes d 8 ++ pairOf a)) (hside : (m.reg (a + 1#6)).toNat < 2 ^ 16)
    (hscale : (m.reg (a + 1#6)).toNat % 256 ≠ 255) (hescape : (m.reg (a + 1#6)).toNat / 256 % 128 ≠ 127) :
    m.unpackBlock d a = .ok ((m.setGroup d ((List.range 8).map fun k => BitVec.ofNat 32 (m.blockElement a k).1)).raise
      ((List.range 8).foldl (fun fl k => fl ||| (m.blockElement a k).2) 0#5)) := by
  have hd := self_mem_groupCodes d (n := 8) (by decide)
  have hp : m.rdPair a = .ok (m.pair a) := Micro.rdPair_ok (h.clear (by simp [pairOf]))
  have hw : m.wrOk d 8 = .ok () := Micro.wrOk_ok (h.clear (by simp +contextual))
  have hlow : loWord (m.pair a) = m.reg a := loWord_mkPair _ _
  have hpart : (m.pair a).extractLsb' 32 16 = (m.reg (a + 1#6)).setWidth 16 :=
    (extract_mkPair_above _ _ (by decide)).trans (BitVec.setWidth_eq_extractLsb' (by decide)).symm
  have hrest : (m.pair a).extractLsb' 48 16 = 0#16 := by
    rw [Micro.pair, extract_mkPair_above _ _ (by decide), ← BitVec.toNat_inj, BitVec.extractLsb'_toNat, Nat.shiftRight_eq_div_pow,
      Nat.div_eq_of_lt hside]
    rfl
  have hformed := wellFormedSide hside hscale hescape
  simp only [Micro.unpackBlock, Micro.need_ok (rs := [d, a]) (h.sub (by simp [hd, pairOf])), hp, hw, bind, Except.bind, hlow, hpart,
    hrest, hformed]
  refine (if_neg (by simp)).trans (congrArg Except.ok (Micro.setGroup_results (fun k => ?_) m d _))
  rw [Micro.blockElement]
  cases b4Value (m.reg a) ((m.reg (a + 1#6)).setWidth 16) k with
  | fin n q x => cases q <;> rfl
  | inf n => rfl
  | nan s => rfl

end

end Sys2Proof.Machine

namespace Sys2Proof.Proofs
open Sys2Proof Sys2Proof.Machine

/-- Settles O5: the bit fields bit by bit, the packing and unpacking instructions by what their operand form computes. -/
theorem bitFieldAndPackingResults : Obligations.BitFieldAndPackingResults := by
  refine ⟨fun d a b c => ⟨.of_op2 (fun _ => rfl) fun _ => bitExtract_eq _ _, .of_op3 (fun _ => rfl) fun _ => bitInsert_eq _ _ _⟩,
    fun d a b => ⟨fun i f hi => ?_, fun i f nv hi => ?_,
      LaneResult.of_lanes (exec_pkb4 d a b) fun _ _ _ h => Micro.packBlock_ready h.1 h.2,
      LaneResult.of_lanes (exec_upb4 d a) fun _ _ _ ⟨h, hside, hscale, hescape⟩ => Micro.unpackBlock_ready h hside hscale hescape⟩⟩
  · simp only [List.mem_cons, Prod.mk.injEq, List.not_mem_nil, or_false] at hi
    rcases hi with ⟨rfl, rfl⟩ | ⟨rfl, rfl⟩
    · exact LaneResult.of_lanes (exec_pke4 d a b) fun _ _ _ h => Micro.packBytes_ready h.1 h.2
    · exact LaneResult.of_lanes (exec_pke5 d a b) fun _ _ _ h => Micro.packBytes_ready h.1 h.2
  · simp only [List.mem_cons, Prod.mk.injEq, List.not_mem_nil, or_false] at hi
    rcases hi with ⟨rfl, rfl, rfl⟩ | ⟨rfl, rfl, rfl⟩
    · exact LaneResult.of_lanes (fun _ => rfl) fun _ _ _ h => Micro.unpackBytes_ready h
    · exact LaneResult.of_lanes (fun _ => rfl) fun _ _ _ h => Micro.unpackBytes_ready h

end Sys2Proof.Proofs

/-! What conversions and special functions write (R66-R68, R130-R134): two more operand forms, and integers as the bits of a register. -/

namespace Sys2Proof.Machine

section
variable {i : Instr} {w : Nat} {d a : Reg} {v : Micro → FpRes}

theorem WritesFp.of_fopDW {f : Micro → DWord → FpRes} (he : ∀ s, exec i s = alu w (fun m => m.fopDW (f m) d a) s)
    (hv : ∀ m, f m (m.pair a) = v m) : WritesFp i ([d] ++ pairOf a) d v :=
  LaneResult.of_lanes he fun _ _ m h => hv m ▸ Micro.fopDW_ready h

theorem WritesFpPair.of_fopWD {f : Micro → Word → FpRes} (he : ∀ s, exec i s = alu w (fun m => m.fopWD (f m) d a) s)
    (hv : ∀ m, f m (m.reg a) = v m) : WritesFpPair i (pairOf d ++ [a]) d v :=
  LaneResult.of_lanes he fun _ _ m h => hv m ▸ Micro.fopWD_ready h

/-- The bits of an integer are its residue (R131). -/
theorem intRes_eq (w : Nat) (r : Int × FFlags) : intRes w r = asBits w r := by simp [intRes, asBits, BitVec.toNat_ofInt]

/-! What F2H2 deals to its two elements (R130): element 0 is of the even register, element 1 of the odd one. -/

theorem deal0_mkPair (lo hi : Word) : deal0 (mkPair lo hi) = hi.extractLsb' 0 16 ++ lo.extractLsb' 0 16 := by
  rw [deal0, extract_mkPair_above lo hi (by decide), mkPair, BitVec.extractLsb'_append_eq_of_add_le (by decide)]

theorem deal1_mkPair (lo hi : Word) : deal1 (mkPair lo hi) = hi.extractLsb' 16 16 ++ lo.extractLsb' 16 16 := by
  rw [deal1, extract_mkPair_above lo hi (by decide), mkPair, BitVec.extractLsb'_append_eq_of_add_le (by decide)]

theorem elem16_append (u v : Half) : elem16 (u ++ v) 0 = v.toNat ∧ elem16 (u ++ v) 1 = u.toNat :=
  ⟨congrArg BitVec.toNat BitVec.extractLsb'_append_eq_right, congrArg BitVec.toNat BitVec.extractLsb'_append_eq_left⟩

/-- A word is the sum of its halves. -/
theorem halves_sum (x : Word) : (x.extractLsb' 0 16).toNat + 65536 * (x.extractLsb' 16 16).toNat = x.toNat := by
  have hx := x.isLt
  rw [BitVec.extractLsb'_toNat, BitVec.extractLsb'_toNat, Nat.shiftRight_eq_div_pow, Nat.shiftRight_eq_div_pow]
  omega

/-- A packed operation on the halves dealt from a pair is one operation on each of its words (R130, R132). -/
theorem packed2_dealt (f : Nat → FpRes) (lo hi : Word) :
    packed2 (fun u v => f (u + 65536 * v)) (deal0 (mkPair lo hi)) (deal1 (mkPair lo hi)) =
      ((f lo.toNat).1 + 65536 * (f hi.toNat).1, (f lo.toNat).2 ||| (f hi.toNat).2) := by
  simp only [packed2, deal0_mkPair, deal1_mkPair, elem16_append, halves_sum]

end

end Sys2Proof.Machine

namespace Sys2Proof.Proofs
open Sys2Proof Sys2Proof.Machine

/-- Settles O4: each instruction by its operand form; clamped integers by their bits, F2H2 by the words of its pair. -/
theorem conversionAndSpecialFunctionResults : Obligations.ConversionAndSpecialFunctionResults :=
  ⟨fun _ _ _ => ⟨
    .of_fop1 (fun _ => rfl) fun _ => intRes_eq _ _, .of_fop1 (fun _ => rfl) fun _ => intRes_eq _ _,
    .of_fop1 (fun _ => rfl) fun _ => rfl, .of_fop1 (fun _ => rfl) fun _ => rfl,
    .of_fopDW (fun _ => rfl) fun _ => rfl, .of_fopWD (fun _ => rfl) fun _ => rfl,
    .of_fopDW (fun _ => rfl) fun _ => intRes_eq _ _, .of_fopWD (fun _ => rfl) fun _ => rfl,
    .of_fop1 (fun _ => rfl) fun _ => rfl, .of_fop1 (fun _ => rfl) fun _ => congrArg _ (elem16_low _),
    .of_fop1 (fun _ => rfl) fun _ => rfl, .of_fop1 (fun _ => rfl) fun _ => congrArg _ (elem16_low _),
    .of_dop1 (fun _ => rfl) fun _ => intRes_eq _ _, .of_dop1 (fun _ => rfl) fun _ => rfl,
    .of_fopDW (fun _ => rfl) fun m => packed2_dealt (fun x => fpNarrow fp32 fp16 false (m.cvtRm _) x) _ _⟩,
  fun _ _ => ⟨
    .of_fop1 (fun _ => rfl) fun _ => rfl, .of_fop1 (fun _ => rfl) fun _ => rfl, .of_fop1 (fun _ => rfl) fun _ => rfl,
    .of_fop1 (fun _ => rfl) fun _ => rfl, .of_fop1 (fun _ => rfl) fun _ => rfl, .of_fop1 (fun _ => rfl) fun _ => rfl,
    .of_dop1 (fun _ => rfl) fun _ => rfl, .of_dop1 (fun _ => rfl) fun _ => rfl⟩⟩

end Sys2Proof.Proofs

/-! The class of a code by its fields (R126). -/

namespace Sys2Proof.Machine

/-- The bit of the class mask of a code with these fields: sign, exponent `e`, fraction `r`, quiet bit `q`; `top` is the exponent of all
ones (R126). -/
def classBit (sign : Bool) (e r top q : Nat) : Nat :=
  if e = top ∧ r ≠ 0 then (if q = 0 then 8 else 9)
  else if e = top then (if sign then 0 else 7)
  else if e ≠ 0 then (if sign then 1 else 6)
  else if r ≠ 0 then (if sign then 2 else 5)
  else if sign then 3 else 4

/-- A format whose exponent field goes up to `top`, with infinity at that exponent and fraction 0 (R42, R43). -/
structure Fmt.TopExponent (f : Fmt) (top : Nat) : Prop where
  arithmetic : f.Arithmetic
  inf : f.infCode = f.hidden * top
  sign : f.signBit = f.hidden * (top + 1)

/-- The exponent field of a code. -/
def Fmt.exponent (f : Fmt) (x : Nat) : Nat := x % f.signBit / f.hidden

/-- The fraction field of a code. -/
def Fmt.fraction (f : Fmt) (x : Nat) : Nat := x % f.signBit % f.hidden

section
variable {f : Fmt} {top x : Nat}

theorem Fmt.hidden_pos : 0 < f.hidden := Nat.two_pow_pos _

theorem Fmt.exponent_eq (h : f.TopExponent top) : f.exponent x = x / f.hidden % (top + 1) := by
  rw [Fmt.exponent, h.sign, Nat.mod_mul_right_div_self]

theorem Fmt.fraction_eq (h : f.TopExponent top) : f.fraction x = x % f.hidden := by
  rw [Fmt.fraction, h.sign, Nat.mod_mul_right_mod]

/-- A code of the highest exponent lies above infinity by its fraction. -/
theorem Fmt.code_of_top (h : f.TopExponent top) (he : f.exponent x = top) : x % f.signBit = f.infCode + f.fraction x := by
  rw [h.inf, ← he]
  exact (Nat.div_add_mod _ _).symm

/-- A code of a lower exponent is that of a finite number. -/
theorem Fmt.code_finite (h : f.TopExponent top) (he : f.exponent x ≠ top) : x % f.signBit ≤ f.maxCode := by
  have hle : f.exponent x ≤ top := by
    rw [Fmt.exponent_eq h]
    exact Nat.le_of_lt_succ (Nat.mod_lt _ top.succ_pos)
  have hlt : x % f.signBit < f.hidden * top := by
    rw [Nat.mul_comm]
    exact (Nat.div_lt_iff_lt_mul f.hidden_pos).1 (Nat.lt_of_le_of_ne hle he)
  exact Nat.le_of_lt_succ (hlt.trans_eq h.inf.symm)

/-- The magnitude of a code with exponent 0 is its fraction (R42). -/
theorem Fmt.magnitude_subnormal (h : f.exponent x = 0) : (f.magnitude (x % f.signBit)).1 = f.fraction x :=
  congrArg Prod.fst (if_pos h)

/-- The magnitude of any other code has the hidden bit (R42). -/
theorem Fmt.magnitude_normal (h : f.exponent x ≠ 0) : (f.magnitude (x % f.signBit)).1 ≠ 0 := by
  have hm : (f.magnitude (x % f.signBit)).1 = f.fraction x + f.hidden := congrArg Prod.fst (if_neg h)
  have := f.hidden_pos
  omega

theorem fpClass_nan {b : Bool} (h : f.value x = .nan b) : fpClass f x = 2 ^ if b then 8 else 9 := by
  cases b <;> simp [fpClass, h]

theorem fpClass_inf {neg : Bool} (h : f.value x = .inf neg) : fpClass f x = 2 ^ if neg then 0 else 7 := by
  cases neg <;> simp [fpClass, h]

/-- The class of a finite number: zero, subnormal or normal. -/
theorem fpClass_fin {neg : Bool} {m : Nat} {e : Int} (h : f.value x = .fin neg m e) : fpClass f x =
    2 ^ if m = 0 then if neg then 3 else 4 else if f.exponent x = 0 then if neg then 2 else 5 else if neg then 1 else 6 := by
  have hsmall : (x % f.signBit < f.hidden) ↔ f.exponent x = 0 := (Nat.div_eq_zero_iff_lt f.hidden_pos).symm
  by_cases hm : m = 0
  · cases neg <;> simp [fpClass, h, hm]
  · by_cases he : f.exponent x = 0 <;> cases neg <;> simp [fpClass, h, hm, hsmall, he]

/-- The class mask of a code has the bit that its fields give (R126). -/
theorem fpClass_eq (h : f.TopExponent top) (hx : x < 2 ^ f.width) : fpClass f x =
    2 ^ classBit (decide (f.signBit ≤ x)) (x / f.hidden % (top + 1)) (x % f.hidden) top (x / 2 ^ (f.prec - 2) % 2) := by
  rw [← Fmt.exponent_eq h, ← Fmt.fraction_eq h, classBit]
  by_cases he : f.exponent x = top
  · have hcode := Fmt.code_of_top h he
    by_cases hr : f.fraction x = 0
    · rw [fpClass_inf (Fmt.value_inf h.arithmetic (by rw [hcode, hr, Nat.add_zero])), Nat.mod_eq_of_lt hx]
      simp [he, hr]
    · have hnan : f.NanCode x := by rw [Fmt.NanCode, hcode]; omega
      rw [fpClass_nan (Fmt.value_nan h.arithmetic hnan)]
      simp [he, hr]
  · rw [fpClass_fin (Fmt.value_fin (Fmt.code_finite h he)), Nat.mod_eq_of_lt hx]
    by_cases h0 : f.exponent x = 0
    · have htop : 0 ≠ top := h0 ▸ he
      rw [Fmt.magnitude_subnormal h0]
      by_cases hr : f.fraction x = 0 <;> simp [htop, h0, hr]
    · simp [he, h0, Fmt.magnitude_normal h0]

theorem fp32_topExponent : fp32.TopExponent 255 := ⟨⟨rfl, by decide, by decide⟩, rfl, rfl⟩

theorem fp64_topExponent : fp64.TopExponent 2047 := ⟨⟨rfl, by decide, by decide⟩, rfl, rfl⟩

end

end Sys2Proof.Machine

namespace Sys2Proof.Proofs
open Sys2Proof Sys2Proof.Machine

/-- Settles O51: the class of a code by its fields, in FP32 and in FP64. -/
theorem classMaskResults : Obligations.ClassMaskResults := fun _ _ =>
  ⟨.of_op1 (fun _ => rfl) fun m => congrArg _ (fpClass_eq fp32_topExponent (m.reg _).isLt),
    .of_fopDW (fun _ => rfl) fun m => congrArg _ (fpClass_eq fp64_topExponent (m.pair _).isLt)⟩

end Sys2Proof.Proofs

/-! The lane exchanges and the votes of a set (R147, R148). -/

namespace Sys2Proof.Machine

section
variable {i : Instr} {w : Nat} {d a b : Reg}

/-- What a lane gets of register `a` of the lane `j` of its set: its own `a` where that lane is inactive or outside the set (R147). -/
def laneValue (a : Reg) (lanes : List (Option Micro)) (j : Nat) (m : Micro) : Word :=
  match lanes[j]? with
  | some (some u) => u.reg a
  | _ => m.reg a

theorem exec_shfl (s : State) : exec (.shfl d a b) s = shuffle (fun _ _ y => y.toNat) d a b s := rfl
theorem exec_rotl (s : State) : exec (.rotl d a b) s =
    shuffle (fun vals lane y => (lane + y.toNat % vals.length) % vals.length) d a b s := rfl
theorem exec_bfly (s : State) : exec (.bfly d a b) s = shuffle (fun _ lane y => lane ^^^ (y.toNat % 64)) d a b s := rfl
theorem exec_bcast (s : State) : exec (.bcast d a b) s =
    shuffle (fun vals _ y => ((vals.findSome? fun v => v).map fun u => u.2.toNat).getD y.toNat) d a b s := by
  have h (vals : List (Option (Word × Word))) (y : Word) :
      (match vals.findSome? fun v => v with
        | some u => u.2.toNat
        | none => y.toNat) = ((vals.findSome? fun v => v).map fun u => u.2.toNat).getD y.toNat := by
    cases vals.findSome? fun v => v <;> rfl
  simp only [← h]
  rfl

theorem Micro.shuffleArgs_ready {m : Micro} (h : m.Ready [d, a, b]) : Micro.shuffleArgs d a b m = .ok (m.reg a, m.reg b) := by
  simp only [Micro.shuffleArgs, Micro.need_ok h, Micro.rd_ok (h a (by simp)).2, Micro.rd_ok (h b (by simp)).2,
    Micro.wrOk_clear (h d (by simp)).2.1, bind, Except.bind]

/-- A lane exchange (R147): `source` is the lane that each lane reads. -/
theorem SetResult.of_shuffle {src : List (Option (Word × Word)) → Nat → Word → Nat} {source : List (Option Micro) → Nat → Micro → Nat}
    (hi : ∀ s, exec i s = shuffle src d a b s)
    (hsrc : ∀ lanes lane m, src (lanes.map (Option.map fun u => (u.reg a, u.reg b))) lane (m.reg b) = source lanes lane m) :
    SetResult i [d, a, b] fun lanes lane m => m.setReg d (laneValue a lanes (source lanes lane m) m) :=
  .of_setTurn hi (fun _ h => Micro.shuffleArgs_ready h) fun lanes _ lane m => by
    rw [hsrc, laneValue, List.getElem?_map]
    rcases lanes[source lanes lane m]? with _ | _ | u <;> rfl

/-- The first value that a set's lanes give is that of its lowest active lane. -/
theorem findSome?_lanes {α : Type} (val : Micro → α) (lanes : List (Option Micro)) :
    (lanes.map (Option.map val)).findSome? (fun v => v) = (actives lanes).head?.map val := by
  induction lanes with
  | nil => rfl
  | cons x lanes ih =>
    cases x with
    | none => exact ih
    | some u => rfl

theorem all_lanes (p : Micro → Bool) (lanes : List (Option Micro)) :
    (lanes.map (Option.map p)).all (fun v => v.getD true) = (actives lanes).all p := by
  induction lanes with
  | nil => rfl
  | cons x lanes ih => cases x <;> simp_all [actives]

theorem any_lanes (p : Micro → Bool) (lanes : List (Option Micro)) :
    (lanes.map (Option.map p)).any (fun v => v.getD false) = (actives lanes).any p := by
  induction lanes with
  | nil => rfl
  | cons x lanes ih => cases x <;> simp_all [actives]

/-- Bit `j` of a ballot is the vote of lane `j`. -/
theorem testBit_ballotMask (vals : List (Option Bool)) (j : Nat) : (ballotMask vals).testBit j = (vals[j]? == some (some true)) := by
  induction vals generalizing j with
  | nil => simp [ballotMask]
  | cons v vals ih =>
    have hbit : (if v = some true then 1 else 0) = (decide (v = some true)).toNat := by by_cases h : v = some true <;> simp [h]
    rw [ballotMask, hbit, Nat.add_comm, ← Nat.bit_val]
    cases j with
    | zero => cases v <;> simp
    | succ j => rw [Nat.testBit_bit_succ, ih, List.getElem?_cons_succ]

theorem ballot_bits (q : PReg) (lanes : List (Option Micro)) :
    BitVec.ofNat 64 (ballotMask (lanes.map (Option.map fun u => u.pred q))) =
      BitVec.ofFnLE fun i : Fin 64 => match lanes[i.val]? with
        | some (some u) => u.pred q
        | _ => false := by
  ext j hj
  rw [BitVec.getElem_eq_testBit_toNat, BitVec.toNat_ofNat, Nat.testBit_mod_two_pow, decide_eq_true hj, Bool.true_and, testBit_ballotMask, List.getElem?_map, BitVec.getElem_ofFnLE]
  rcases lanes[j]? with _ | _ | u
  · rfl
  · rfl
  · cases h : u.pred q <;> simp [h]

theorem Micro.ballotArgs_ready {m : Micro} {q : PReg} (h : m.Ready (pairOf d)) :
    (do m.need [d]; m.wrOk d 2; .ok (m.pred q) : Except Flt Bool) = .ok (m.pred q) := by
  simp only [Micro.need_ok (h.sub (qs := [d]) (by simp [pairOf])), Micro.wrOk_ok (h.clear (qs := groupCodes d 2) (by simp [pairOf])),
    bind, Except.bind]

end
end Sys2Proof.Machine

namespace Sys2Proof.Proofs
open Sys2Proof Sys2Proof.Machine

/-- Settles O7: the exchanges by the lane that each lane reads, then the votes over the active lanes and their ballot. -/
theorem laneExchangeAndVoteResults : Obligations.LaneExchangeAndVoteResults := by
  refine ⟨fun d a b => ⟨?_, ?_, ?_, ?_⟩, fun p q d => ⟨?_, ?_, ?_⟩⟩
  · exact .of_shuffle exec_shfl fun _ _ _ => rfl
  · exact .of_shuffle exec_rotl fun _ _ _ => by rw [List.length_map, Nat.add_mod_mod]
  · exact .of_shuffle exec_bfly fun _ _ _ => rfl
  · exact .of_shuffle exec_bcast fun _ _ _ => by rw [findSome?_lanes, Option.map_map]; rfl
  · exact .of_setTurn (fun _ => rfl) (fun _ _ => rfl) fun lanes _ _ _ => by rw [all_lanes]
  · exact .of_setTurn (fun _ => rfl) (fun _ _ => rfl) fun lanes _ _ _ => by rw [any_lanes]
  · exact .of_setTurn (fun _ => rfl) (fun _ h => Micro.ballotArgs_ready h) fun lanes _ _ m => congrArg (m.setPair d) (ballot_bits q lanes)

end Sys2Proof.Proofs

/-! What an address is found to be at issue (R154-R158, R355, R356), and the posts of LD and ST (R159, R160). -/

namespace Sys2Proof.Machine

section
variable {n : Nat} {r : Res} {ea : DWord} {size : Nat} {arr : Bool}

/-! Fields of an address. -/

theorem extract_toNat {w : Nat} (x : BitVec w) (i k : Nat) : (x.extractLsb' i k).toNat = x.toNat / 2 ^ i % 2 ^ k := by
  rw [BitVec.extractLsb'_toNat, Nat.shiftRight_eq_div_pow]

theorem extract_eq_iff {w : Nat} {x : BitVec w} {i k : Nat} {c : BitVec k} : x.extractLsb' i k = c ↔ x.toNat / 2 ^ i % 2 ^ k = c.toNat := by
  rw [← BitVec.toNat_inj, extract_toNat]

theorem extract_above {w : Nat} {x : BitVec w} {i : Nat} (k : Nat) (h : x.toNat < 2 ^ i) : x.extractLsb' i k = 0#k :=
  extract_eq_iff.2 (by rw [Nat.div_eq_of_lt h, Nat.zero_mod]; rfl)

theorem getLsbD_eq_decide {w : Nat} (x : BitVec w) (i : Nat) : x.getLsbD i = decide (x.toNat / 2 ^ i % 2 = 1) := by
  rw [BitVec.getLsbD, Nat.testBit_eq_decide_div_mod_eq]

theorem upper16 (ea : DWord) : ea.toNat / 2 ^ 48 % 2 ^ 16 = ea.toNat / 2 ^ 48 := Nat.mod_eq_of_lt (by have := ea.isLt; omega)

theorem isArray_iff : isArray ea = true ↔ ea.toNat / 2 ^ 48 = 0xFFFE ∨ ea.toNat / 2 ^ 48 = 0xFFFD := by
  simp only [isArray, Bool.or_eq_true, beq_iff_eq, extract_eq_iff, upper16]
  rfl

theorem not_isArray (he : ea.toNat / 2 ^ 48 ≠ 0xFFFE) (hd : ea.toNat / 2 ^ 48 ≠ 0xFFFD) : isArray ea = false :=
  Bool.eq_false_iff.2 fun h => (isArray_iff.1 h).elim he hd

theorem canonical_iff : canonical ea = true ↔ ea.toNat / 2 ^ 47 = 0 ∨ ea.toNat / 2 ^ 47 = 0x1FFFF := by
  have : ea.toNat / 2 ^ 47 % 2 ^ 17 = ea.toNat / 2 ^ 47 := Nat.mod_eq_of_lt (by have := ea.isLt; omega)
  simp only [canonical, Bool.or_eq_true, beq_iff_eq, extract_eq_iff, this]
  rfl

/-! The check of an address by its form. -/

/-- An aligned address has its target (R158). -/
theorem checkAddr_array (h : isArray ea = true) : checkAddr n r ea size arr =
    match resolveArray n r ea with
    | some t => if ea.toNat % size = 0 then .ok t else .error (.misaligned (ea22 ea))
    | none => .error (.arrayRange (ea22 ea)) := by
  simp only [checkAddr, h, if_true]
  cases resolveArray n r ea <;> rfl

theorem checkAddr_global (h : isArray ea = false) : checkAddr n r ea size arr =
    if arr then .error (.arrayRange (ea22 ea))
    else if canonical ea then
      if ea.toNat % size = 0 then .ok (.global (ea.toNat % 2 ^ 48)) else .error (.misaligned (ea22 ea))
    else .error (.protection 3 (ea22 ea)) := by
  simp only [checkAddr, h, Bool.false_eq_true, if_false]
  cases arr
  · cases canonical ea <;> rfl
  · rfl

theorem coreAt_eq {x y : Nat} (hx : x < 10) (hy : y < 8) : coreAt x y = some (10 * y + x) := if_pos ⟨hx, hy⟩

theorem coreAtInt_eq {x y : Int} (h0 : 0 ≤ x) (hx : x < 10) (h0' : 0 ≤ y) (hy : y < 8) :
    coreAtInt x y = some (10 * y.toNat + x.toNat) := by
  rw [coreAtInt, if_pos ⟨h0, h0'⟩, coreAt_eq (by omega) (by omega)]

theorem coreAtInt_none {x y : Int} (h : ¬ (0 ≤ x ∧ x < 10 ∧ 0 ≤ y ∧ y < 8)) : coreAtInt x y = none := by
  unfold coreAtInt
  split
  · exact if_neg fun hxy => h (by have : x.toNat < 10 := hxy.1; have : y.toNat < 8 := hxy.2; omega)
  · rfl

/-- The reserved bits below the offset's, and an offset beyond the pool (R156). -/
theorem resolveArray_beyond (h : ea.toNat / 2 ^ 22 % 2 ^ 9 ≠ 0 ∨ 0x23FFFF < ea.toNat % 2 ^ 22) : resolveArray n r ea = none := by
  refine if_pos (h.imp (fun h e => h (extract_eq_iff.1 e)) fun h => ?_)
  exact h

theorem resolveArray_absolute (h : ea.toNat / 2 ^ 48 = 0xFFFE) (hr : ea.toNat / 2 ^ 22 % 2 ^ 9 = 0) (ho : ea.toNat % 2 ^ 22 ≤ 0x23FFFF) :
    resolveArray n r ea =
      if ea.toNat / 2 ^ 41 % 2 ^ 7 ≠ 0 then none
      else (coreAt (ea.toNat / 2 ^ 35 % 32) (ea.toNat / 2 ^ 31 % 16)).map fun c =>
        .pool (decide (ea.toNat / 2 ^ 40 % 2 = 1)) c (ea.toNat % 2 ^ 22) := by
  have hoff : ¬ (ea.extractLsb' 22 9 ≠ 0#9 ∨ Config.poolBytes ≤ ea22 ea) := by
    rw [not_or, not_not, extract_eq_iff, Nat.not_le]
    exact ⟨hr, Nat.lt_succ_of_le ho⟩
  have hform : ea.extractLsb' 48 16 = 0xFFFE#16 := extract_eq_iff.2 ((upper16 ea).trans h)
  rw [resolveArray]
  dsimp only
  rw [if_neg hoff, if_pos hform]
  simp only [ne_eq, extract_eq_iff, getLsbD_eq_decide, extract_toNat]
  rfl

/-- The column and the row that the relative form names before it wraps (R355, R356). -/
def relX (n : Nat) (ea : DWord) : Int := n % 10 + (ea.extractLsb' 35 5).toInt
def relY (n : Nat) (ea : DWord) : Int := n / 10 + (ea.extractLsb' 31 4).toInt

theorem resolveArray_relative (h : ea.toNat / 2 ^ 48 = 0xFFFD) (hr : ea.toNat / 2 ^ 22 % 2 ^ 9 = 0) (ho : ea.toNat % 2 ^ 22 ≤ 0x23FFFF) :
    resolveArray n r ea =
      if ea.toNat / 2 ^ 42 % 2 ^ 6 ≠ 0 then none
      else
        (if ea.toNat / 2 ^ 41 % 2 = 1 then
          coreAtInt (r.x0 + (relX n ea - r.x0) % (max 1 (recNat r.record 14 1) : Nat))
            (r.y0 + (relY n ea - r.y0) % (max 1 (recNat r.record 15 1) : Nat))
        else coreAtInt (relX n ea) (relY n ea)).map fun c => .pool (decide (ea.toNat / 2 ^ 40 % 2 = 1)) c (ea.toNat % 2 ^ 22) := by
  have hoff : ¬ (ea.extractLsb' 22 9 ≠ 0#9 ∨ Config.poolBytes ≤ ea22 ea) := by
    rw [not_or, not_not, extract_eq_iff, Nat.not_le]
    exact ⟨hr, Nat.lt_succ_of_le ho⟩
  have hform : ea.extractLsb' 48 16 ≠ 0xFFFE#16 := by
    rw [ne_eq, extract_eq_iff, upper16, h]
    decide
  rw [resolveArray]
  dsimp only
  rw [if_neg hoff, if_neg hform]
  simp only [ne_eq, extract_eq_iff, getLsbD_eq_decide, decide_eq_true_eq, apply_ite (Option.map _)]
  rfl

theorem checkAddr_array_none (h : isArray ea = true) (hr : resolveArray n r ea = none) :
    checkAddr n r ea size arr = .error (.arrayRange (ea.toNat % 2 ^ 22)) := by
  rw [checkAddr_array h, hr]
  rfl

theorem checkAddr_array_some {t : Target} (h : isArray ea = true) (hr : resolveArray n r ea = some t) :
    checkAddr n r ea size arr = if ea.toNat % size = 0 then .ok t else .error (.misaligned (ea.toNat % 2 ^ 22)) := by
  rw [checkAddr_array h, hr]
  rfl

/-- What no form of an array address may have (R156). -/
theorem resolveArray_reserved {P : Prop} (h : ea.toNat / 2 ^ 22 % 2 ^ 9 ≠ 0 ∨ 0x23FFFF < ea.toNat % 2 ^ 22 ∨ P)
    (hp : ea.toNat / 2 ^ 22 % 2 ^ 9 = 0 → ea.toNat % 2 ^ 22 ≤ 0x23FFFF → P → resolveArray n r ea = none) : resolveArray n r ea = none := by
  by_cases hr : ea.toNat / 2 ^ 22 % 2 ^ 9 = 0
  · by_cases ho : ea.toNat % 2 ^ 22 ≤ 0x23FFFF
    · exact hp hr ho ((h.resolve_left (not_not.2 hr)).resolve_left (Nat.not_lt.2 ho))
    · exact resolveArray_beyond (.inr (Nat.lt_of_not_le ho))
  · exact resolveArray_beyond (.inl hr)

/-- In the absolute form the core's column and row are given (R156). -/
theorem resolveArray_absolute_none (h : ea.toNat / 2 ^ 48 = 0xFFFE)
    (hb : ea.toNat / 2 ^ 41 % 2 ^ 7 ≠ 0 ∨ ea.toNat / 2 ^ 22 % 2 ^ 9 ≠ 0 ∨ 0x23FFFF < ea.toNat % 2 ^ 22 ∨
      10 ≤ ea.toNat / 2 ^ 35 % 32 ∨ 8 ≤ ea.toNat / 2 ^ 31 % 16) : resolveArray n r ea = none := by
  refine resolveArray_reserved (P := ea.toNat / 2 ^ 41 % 2 ^ 7 ≠ 0 ∨ 10 ≤ ea.toNat / 2 ^ 35 % 32 ∨ 8 ≤ ea.toNat / 2 ^ 31 % 16) (by tauto)
    fun hr ho hp => ?_
  rw [resolveArray_absolute h hr ho]
  split
  · rfl
  · rw [coreAt, if_neg fun hxy => ?_]
    · rfl
    · have hx : ea.toNat / 2 ^ 35 % 32 < 10 := hxy.1
      have hy : ea.toNat / 2 ^ 31 % 16 < 8 := hxy.2
      omega

/-- In the relative form without W the core lies on the mesh (R355). -/
theorem resolveArray_off_mesh (h : ea.toNat / 2 ^ 48 = 0xFFFD) (hw : ea.toNat / 2 ^ 41 % 2 = 0)
    (hxy : ¬ (0 ≤ relX n ea ∧ relX n ea < 10 ∧ 0 ≤ relY n ea ∧ relY n ea < 8)) : resolveArray n r ea = none := by
  refine resolveArray_reserved (P := True) (.inr (.inr trivial)) fun hr ho _ => ?_
  have hbit : ¬ ea.toNat / 2 ^ 41 % 2 = 1 := by omega
  rw [resolveArray_relative h hr ho, if_neg hbit, coreAtInt_none hxy]
  split <;> rfl

/-- With W the core is wrapped into the launch's rectangle, which lies on the mesh (R356). -/
theorem resolveArray_wrapped (h : ea.toNat / 2 ^ 48 = 0xFFFD) (hw : ea.toNat / 2 ^ 41 % 2 ^ 7 = 1) (hr : ea.toNat / 2 ^ 22 % 2 ^ 9 = 0)
    (ho : ea.toNat % 2 ^ 22 ≤ 0x23FFFF) {w t : Nat} (ew : w = recNat r.record 14 1) (et : t = recNat r.record 15 1) (hw0 : 0 < w)
    (ht0 : 0 < t) (hx : r.x0 + w ≤ 10) (hy : r.y0 + t ≤ 8) :
    resolveArray n r ea = some (.pool (decide (ea.toNat / 2 ^ 40 % 2 = 1))
      (10 * (r.y0 + ((relY n ea - r.y0) % t).toNat) + (r.x0 + ((relX n ea - r.x0) % w).toNat)) (ea.toNat % 2 ^ 22)) := by
  have hres : ¬ ea.toNat / 2 ^ 42 % 2 ^ 6 ≠ 0 := by omega
  have hbit : ea.toNat / 2 ^ 41 % 2 = 1 := by omega
  have hxn := Int.emod_nonneg (relX n ea - r.x0) (b := w) (by omega)
  have hyn := Int.emod_nonneg (relY n ea - r.y0) (b := t) (by omega)
  have hxl := Int.emod_lt_of_pos (relX n ea - r.x0) (b := w) (by omega)
  have hyl := Int.emod_lt_of_pos (relY n ea - r.y0) (b := t) (by omega)
  rw [resolveArray_relative h hr ho, if_neg hres, if_pos hbit, ← ew, ← et, Nat.max_eq_right hw0, Nat.max_eq_right ht0,
    coreAtInt_eq (by omega) (by omega) (by omega) (by omega), Int.toNat_add (by omega) hxn, Int.toNat_add (by omega) hyn,
    Int.toNat_natCast, Int.toNat_natCast]
  rfl

/-! LD and ST at issue. -/

theorem sizeBytes_eq (size : BitVec 3) : sizeBytes size = [1, 1, 2, 2, 4, 8, 16, 16].getD size.toNat 0 := by
  revert size; decide

theorem sizeRegs_eq (size : BitVec 3) (h : size ≠ 7#3) : sizeRegs size = [1, 1, 1, 1, 1, 2, 4, 1].getD size.toNat 0 := by
  revert size; decide

theorem sizeRegs_pos (size : BitVec 3) : 0 < sizeRegs size := by
  revert size; decide

/-- The offset is scaled by the size (R154). -/
theorem effective_eq (base : DWord) (off : BitVec 8) (size : BitVec 3) :
    effective base off size = BitVec.ofInt 64 (base.toNat + off.toInt * sizeBytes size) := by
  rw [BitVec.ofInt_add, BitVec.ofInt_mul, BitVec.ofInt_natCast, BitVec.ofInt_natCast, BitVec.ofNat_toNat, BitVec.setWidth_eq]
  rfl

variable {d base : Reg} {sz : BitVec 3} {kind : BitVec 2} {off : BitVec 8}

/-- LD posts one access, for which its destinations are pending (R159): no access posted before it is one to share. -/
theorem Posts.of_load : Posts (.ld d base sz kind off) (groupCodes d (sizeRegs sz) ++ pairOf base) false d (sizeRegs sz)
    (fun m => effective (m.pair base) off sz)
    (fun _ n _ m r o => (∃ t, checkAddr n r (effective (m.pair base) off sz) (sizeBytes sz) (kind == 2#2) = .ok t) ∧
      o = .load sz kind) := by
  refine .of_turn (room := fun _ => always) (body := fun s => issueLoad s.nextId d base sz kind off) (fun _ => rfl)
    (fun _ _ _ _ _ _ _ _ _ _ => rfl) ?_
  rintro s n g slot m r o hr hs hm ⟨⟨t, ht⟩, rfl⟩
  have hpos := sizeRegs_pos sz
  have hneed : m.Ready [d, base] := hm.sub fun x hx => by
    have hd := self_mem_groupCodes d hpos
    simp only [List.mem_cons, List.not_mem_nil, or_false] at hx
    rcases hx with rfl | rfl <;> simp [pairOf, *]
  have hpair := Micro.rdPair_ok (hm.clear (qs := groupCodes base 2) (by simp [pairOf]))
  have hdst := Micro.wrOk_ok (hm.clear (qs := groupCodes d (sizeRegs sz)) (by simp +contextual))
  have hnone (q : Nat × Flight → Bool) : (s.flights.find? fun p => decide (s.nextId ≤ p.1) && q p) = none := by
    rw [List.find?_eq_none]
    intro p hp
    simp [Nat.not_le.2 (hs.2.2.2.2 p hp)]
  have hmod : (s.modMicro n slot fun m => m.setPend d (sizeRegs sz)).flights = s.flights := State.modCore_flights _ _ _
  simp only [issueLoad, Micro.need_ok hneed, hpair, hdst, hr, ht, bind, Except.bind, State.posted, hpos.ne', ne_eq, Bool.and_assoc,
    not_false_eq_true, decide_true, if_false, Bool.false_eq_true]
  rw [hmod, hnone]

/-- ST reads its data and enters the FIFO (R160). -/
theorem Posts.of_store : Posts (.st d base sz kind off) (groupCodes d (sizeRegs sz) ++ pairOf base) true d 0
    (fun m => effective (m.pair base) off sz)
    (fun _ n _ m r o => (∃ t, checkAddr n r (effective (m.pair base) off sz) (sizeBytes sz) (kind == 2#2) = .ok t) ∧
      o = .store (sizeBytes sz) kind (BitVec.ofNat 128 (joinWords (m.group d (sizeRegs sz)) % 2 ^ (8 * sizeBytes sz)))) := by
  refine .of_turn (room := fun _ => always) (body := fun _ => issueStore d base sz kind off) (fun _ => rfl)
    (fun _ _ _ _ _ _ _ _ _ _ => rfl) ?_
  rintro s n g slot m r o hr - hm ⟨⟨t, ht⟩, rfl⟩
  have hneed : m.Ready [d, base] := hm.sub fun x hx => by
    have hd := self_mem_groupCodes d (sizeRegs_pos sz)
    simp only [List.mem_cons, List.not_mem_nil, or_false] at hx
    rcases hx with rfl | rfl <;> simp [pairOf, *]
  have hpair := Micro.rdPair_ok (hm.clear (qs := groupCodes base 2) (by simp [pairOf]))
  have hgroup := Micro.rdGroup_ok (hm.clear (qs := groupCodes d (sizeRegs sz)) (by simp +contextual))
  simp only [issueStore, Micro.need_ok hneed, hpair, hgroup, hr, ht, bind, Except.bind, State.posted, if_true]
  rfl

end
end Sys2Proof.Machine

namespace Sys2Proof.Proofs
open Sys2Proof Sys2Proof.Machine

/-- Settles O10: the check of an address by its tag, and LD and ST of every size through
`Posts`. -/
theorem loadAndStorePosts : Obligations.LoadAndStorePosts := by
  refine ⟨fun n r ea size arr hsize => ⟨?_, ?_, ?_, ?_, ?_, ?_, ?_, ?_, ?_⟩, fun d base size kind off hsize => ⟨?_, ?_⟩⟩
  · intro he hd ha h0 h1
    rw [checkAddr_global (not_isArray he hd), ha, if_neg Bool.false_ne_true, if_neg fun hc => (canonical_iff.1 hc).elim h0 h1]
    rfl
  · intro he hd ha hc
    rw [checkAddr_global (not_isArray he hd), ha, if_neg Bool.false_ne_true, if_pos (canonical_iff.2 hc)]
    rfl
  · intro he hd ha
    rw [checkAddr_global (not_isArray he hd), ha, if_pos rfl]
    rfl
  · exact fun hf hb => checkAddr_array_none (isArray_iff.2 (.inl hf)) (resolveArray_absolute_none hf hb)
  · intro hf hz hr ho hx hy
    refine checkAddr_array_some (isArray_iff.2 (.inl hf)) ?_
    rw [resolveArray_absolute hf hr ho, if_neg (not_not.2 hz), coreAt_eq hx hy]
    rfl
  · intro hf hb
    refine checkAddr_array_none (isArray_iff.2 (.inr hf)) (resolveArray_reserved (P := ea.toNat / 2 ^ 42 % 2 ^ 6 ≠ 0) (by tauto) fun hr ho hz => ?_)
    rw [resolveArray_relative hf hr ho, if_pos hz]
  · exact fun hf hw hxy => checkAddr_array_none (isArray_iff.2 (.inr hf)) (resolveArray_off_mesh hf hw hxy)
  · intro hf hz hr ho h0 hx h0' hy
    have hres : ¬ ea.toNat / 2 ^ 42 % 2 ^ 6 ≠ 0 := by omega
    have hbit : ¬ ea.toNat / 2 ^ 41 % 2 = 1 := by omega
    refine checkAddr_array_some (isArray_iff.2 (.inr hf)) ?_
    rw [resolveArray_relative hf hr ho, if_neg hres, if_neg hbit]
    exact congrArg (Option.map _) (coreAtInt_eq h0 hx h0' hy)
  · exact fun hf hz hr ho w h hw hh hw0 hh0 hx hy =>
      checkAddr_array_some (isArray_iff.2 (.inr hf)) (resolveArray_wrapped hf hz hr ho hw hh hw0 hh0 hx hy)
  · rw [← sizeBytes_eq, ← sizeRegs_eq size hsize]
    simp only [← effective_eq]
    exact .of_load
  · rw [← sizeBytes_eq, ← sizeRegs_eq size hsize]
    simp only [← effective_eq]
    exact .of_store

end Sys2Proof.Proofs

/-! Atomics: their posts (R163, R164), and the value that each leaves at its location (R163). -/

namespace Sys2Proof.Machine

section
variable {i : Instr} {f7 : BitVec 7} {nb nd size : Nat} {d a b : Reg}

/-- An atomic enters the store FIFO with its operand (R164). -/
theorem Posts.of_atomic (hnd : 0 < nd) (hnb : 0 < nb) (he : ∀ s, exec i s = turn 1 true always (issueAtomic f7 nb nd size d a b) s) :
    Posts i (groupCodes d nd ++ pairOf a ++ groupCodes b nb) true d nd (fun m => m.pair a)
      (fun _ n _ m r o => (∃ t, checkAddr n r (m.pair a) size false = .ok t) ∧
        o = .atomic f7 (BitVec.ofNat 128 (joinWords (m.group b nb)))) := by
  refine .of_turn (room := fun _ => always) (body := fun _ => issueAtomic f7 nb nd size d a b) he (fun _ _ _ _ _ _ _ _ _ _ => rfl) ?_
  rintro s n g slot m r o hr - hm ⟨⟨t, ht⟩, rfl⟩
  have hneed : m.Ready [d, a, b] := hm.sub fun x hx => by
    have hd := self_mem_groupCodes d hnd
    have hb := self_mem_groupCodes b hnb
    simp only [List.mem_cons, List.not_mem_nil, or_false] at hx
    rcases hx with rfl | rfl | rfl <;> simp [pairOf, *]
  have hpair := Micro.rdPair_ok (hm.clear (qs := groupCodes a 2) (by simp [pairOf]))
  have hgroup := Micro.rdGroup_ok (hm.clear (qs := groupCodes b nb) (by simp +contextual))
  have hdst := Micro.wrOk_ok (hm.clear (qs := groupCodes d nd) (by simp +contextual))
  simp only [issueAtomic, Micro.need_ok hneed, hpair, hgroup, hdst, hr, ht, bind, Except.bind, State.posted, hnd.ne', ne_eq,
    not_false_eq_true, decide_true, if_false, if_true]
  rfl

/-! The value an atomic leaves (R163), of a word `o` or a pair of words `o`, and its operand. -/

theorem toNat_signed_lesser (o b : Word) :
    (if b.slt o then b else o).toNat = if o.toInt ≤ b.toInt then o.toNat else b.toNat := by
  simp only [BitVec.slt_iff_toInt_lt, ← Int.not_le, ite_not, apply_ite BitVec.toNat]

theorem toNat_signed_greater (o b : Word) :
    (if o.slt b then b else o).toNat = if o.toInt ≤ b.toInt then b.toNat else o.toNat := by
  simp only [BitVec.slt_iff_toInt_lt, apply_ite BitVec.toNat, Int.le_iff_lt_or_eq, BitVec.toInt_inj]
  by_cases he : o = b
  · simp [he]
  · simp [he]

theorem toNat_swapped {n : Nat} (o b c : BitVec n) : (if o = b then c else o).toNat = if o.toNat = b.toNat then c.toNat else o.toNat := by
  simp only [apply_ite BitVec.toNat, BitVec.toNat_inj]

/-- The word forms. -/
theorem atomResult_word (o : Word) (v : QWord) :
    let w := v.toNat % 2 ^ 32
    (atomResult 0#7 o.toNat v).1 = (o.toNat + w) % 2 ^ 32 ∧ (atomResult 1#7 o.toNat v).1 = o.toNat &&& w ∧
      (atomResult 2#7 o.toNat v).1 = o.toNat ||| w ∧ (atomResult 3#7 o.toNat v).1 = o.toNat ^^^ w ∧
      (atomResult 4#7 o.toNat v).1 = (if o.toInt ≤ (BitVec.ofNat 32 w).toInt then o.toNat else w) ∧
      (atomResult 5#7 o.toNat v).1 = (if o.toInt ≤ (BitVec.ofNat 32 w).toInt then w else o.toNat) ∧
      (atomResult 6#7 o.toNat v).1 = min o.toNat w ∧ (atomResult 7#7 o.toNat v).1 = max o.toNat w ∧
      (atomResult 8#7 o.toNat v).1 = w ∧
      (atomResult 9#7 o.toNat v).1 = (if o.toNat = w then v.toNat / 2 ^ 32 % 2 ^ 32 else o.toNat) ∧
      atomResult 10#7 o.toNat v = fpAdd fp32 .rne o.toNat w := by
  obtain ⟨b, hb, hw⟩ : ∃ b : Word, v.extractLsb' 0 32 = b ∧ v.toNat % 2 ^ 32 = b.toNat := ⟨_, rfl, by simp⟩
  have hnew : (v.extractLsb' 32 32).toNat = v.toNat / 2 ^ 32 % 2 ^ 32 := by
    rw [BitVec.extractLsb'_toNat, Nat.shiftRight_eq_div_pow]
  simp only [hw, atomResult, hb, BitVec.ofNat_toNat, BitVec.setWidth_eq]
  exact ⟨BitVec.toNat_add o b, BitVec.toNat_and .., BitVec.toNat_or .., BitVec.toNat_xor .., toNat_signed_lesser o b,
    toNat_signed_greater o b, toNat_lesser o b, toNat_greater o b, rfl, hnew ▸ toNat_swapped o b _, rfl⟩

/-- The forms on pairs. -/
theorem atomResult_pair (o : DWord) (v : QWord) :
    let d := v.toNat % 2 ^ 64
    (atomResult 11#7 o.toNat v).1 = (o.toNat + d) % 2 ^ 64 ∧ (atomResult 12#7 o.toNat v).1 = d ∧
      (atomResult 13#7 o.toNat v).1 = (if o.toNat = d then v.toNat / 2 ^ 64 else o.toNat) ∧
      atomResult 14#7 o.toNat v = fpAdd fp64 .rne o.toNat d := by
  obtain ⟨b, hb, hd⟩ : ∃ b : DWord, v.extractLsb' 0 64 = b ∧ v.toNat % 2 ^ 64 = b.toNat := ⟨_, rfl, by simp⟩
  have hnew : (v.extractLsb' 64 64).toNat = v.toNat / 2 ^ 64 := by
    rw [BitVec.extractLsb'_toNat, Nat.shiftRight_eq_div_pow]
    exact Nat.mod_eq_of_lt (by have := v.isLt; omega)
  simp only [hd, atomResult, hb, BitVec.ofNat_toNat, BitVec.setWidth_eq]
  exact ⟨BitVec.toNat_add o b, rfl, hnew ▸ toNat_swapped o b _, rfl⟩

end
end Sys2Proof.Machine

namespace Sys2Proof.Proofs
open Sys2Proof Sys2Proof.Machine

/-- Settles O11: the posts form by form, then the value left in a word and in a pair. -/
theorem atomicResults : Obligations.AtomicResults := by
  refine ⟨fun d a b => ?_, fun old v => ⟨fun h => ?_, fun h => ?_⟩⟩
  · refine ⟨?_, ?_, ?_, ?_, ?_, ?_, ?_, ?_, ?_, ?_, ?_, ?_, ?_, ?_, ?_⟩ <;>
      exact .of_atomic (by decide) (by decide) fun _ => rfl
  · have hrows := atomResult_word (BitVec.ofNat 32 old) v
    rwa [BitVec.toNat_ofNat, Nat.mod_eq_of_lt h] at hrows
  · have hrows := atomResult_pair (BitVec.ofNat 64 old) v
    rwa [BitVec.toNat_ofNat, Nat.mod_eq_of_lt h] at hrows

end Sys2Proof.Proofs

/-! MRG, the posts to the engines of a core, and MINT at issue (R166-R168, R204, R244, R265, R301, R302, R304, R337, R346). -/

namespace Sys2Proof.Machine

/-! Room in the queues (R242). -/

/-- A turn of one micro-thread issues when every queue it needs has room for one more entry. -/
theorem hasRoom_alone {s : State} {n slot : Nat} {g : Group} {needs : Micro → List Nat} (hg : g.members = [slot])
    (h : ∀ q ∈ needs ((s.core n).micro slot), s.roomIn n q) : hasRoom needs s n g = true := by
  rw [hasRoom, Bool.or_eq_true, List.all_eq_true]
  refine .inr fun q _ => ?_
  by_cases hq : q ∈ needs ((s.core n).micro slot)
  · simpa [hg, hq, queueRoom] using Nat.succ_le_of_lt (h q hq)
  · simp [hg, hq]

/-- An instruction that needs room in queues, and whose body then posts a flight, has `Posts`. -/
theorem Posts.of_room {i : Instr} {rs : List Reg} {fifo : Bool} {d : Reg} {nd : Nat} {ea : Micro → DWord}
    {ok : State → Nat → Group → Micro → Res → Op → Prop} {w : Nat} {ll : Bool} {needs : Micro → List Nat}
    {body : State → Nat → Group → Nat → Micro → Except Flt State} (he : ∀ s, exec i s = turn w ll (hasRoom needs) body s)
    (hr : ∀ s n g m r o, ok s n g m r o → ∀ q ∈ needs m, s.roomIn n q)
    (hb : ∀ s n g slot m r o, s.res? n g.launch = some r → m.Ready rs → ok s n g m r o →
      body s n g slot m = .ok (s.posted n slot d nd fifo
        (g.flight s n slot m (nd ≠ 0) d nd (ea m) o (if fifo then .fifo else .request)))) :
    Posts i rs fifo d nd ea ok :=
  .of_turn (room := fun _ => hasRoom needs) (body := fun _ => body) he
    (fun s n g _ m r o hg hmi ho => hasRoom_alone hg (hmi ▸ hr s n g m r o ho))
    fun s n g slot m r o hl _ hm ho => hb s n g slot m r o hl hm ho

/-- The same without a queue. -/
theorem Posts.of_always {i : Instr} {rs : List Reg} {fifo : Bool} {d : Reg} {nd : Nat} {ea : Micro → DWord}
    {ok : State → Nat → Group → Micro → Res → Op → Prop} {w : Nat} {ll : Bool}
    {body : State → Nat → Group → Nat → Micro → Except Flt State} (he : ∀ s, exec i s = turn w ll always body s)
    (hb : ∀ s n g slot m r o, s.res? n g.launch = some r → m.Ready rs → ok s n g m r o →
      body s n g slot m = .ok (s.posted n slot d nd fifo
        (g.flight s n slot m (nd ≠ 0) d nd (ea m) o (if fifo then .fifo else .request)))) :
    Posts i rs fifo d nd ea ok :=
  .of_turn (room := fun _ => always) (body := fun _ => body) he (fun _ _ _ _ _ _ _ _ _ _ => rfl)
    fun s n g slot m r o hl _ hm ho => hb s n g slot m r o hl hm ho

section
variable {d a b : Reg} {ch : BitVec 2}

/-! The copy engine (R244, R265). -/

theorem cpost_posts : Posts (.cpost d a b) (pairOf d ++ [a, b]) true d 2 (fun _ => 0#64)
    (fun s n _ m _ o => (m.reg b).toNat < 4 ∧ (m.reg a).toNat < 2 ^ 22 ∧ (m.reg a).toNat % 32 = 0 ∧
      (s.core n).inSp (m.reg a).toNat 32 = true ∧ s.roomIn n (m.reg b).toNat ∧ o = .copy (m.reg b).toNat (m.reg a).toNat) := by
  refine .of_room (fun _ => rfl) ?_ ?_
  · rintro s n g m r o ⟨hb, -, -, -, hroom, -⟩ q hq
    rw [if_pos hb, List.mem_singleton] at hq
    exact hq ▸ hroom
  · rintro s n g slot m r o - hm ⟨hb, ha, hal, hsp, -, rfl⟩
    have hneed := Micro.need_ok (hm.sub (qs := [d, a, b]) (by simp [pairOf]))
    have hra := Micro.rd_ok (hm a (by simp)).2
    have hrb := Micro.rd_ok (hm b (by simp)).2
    have hd := Micro.wrOk_ok (hm.clear (qs := groupCodes d 2) (by simp [pairOf]))
    simp only [hneed, hra, hrb, hd, bind, Except.bind, extract_above (i := 2) 30 hb, extract_above 10 ha, hal, hsp, ne_eq,
      not_true_eq_false, or_self, if_false, Bool.not_true, Bool.false_eq_true]
    rfl

theorem ccancel_posts : Posts (.ccancel a) [a] true 0#6 0 (fun _ => 0#64)
    (fun _ _ _ m _ o => (m.reg a).toNat < 4 ∧ o = .cancel (m.reg a).toNat) := by
  refine .of_always (fun _ => rfl) ?_
  rintro s n g slot m r o - hm ⟨ha, rfl⟩
  simp only [Micro.need_ok hm, Micro.rd_ok (hm a (by simp)).2, bind, Except.bind, extract_above (i := 2) 30 ha, ne_eq,
    not_true_eq_false, if_false]
  rfl

theorem csig_posts : Posts (.csig ch a) [a] true 0#6 0 (fun _ => 0#64)
    (fun s n _ m _ o => (m.reg a).toNat < 64 ∧ s.roomIn n ch.toNat ∧ o = .csig ch.toNat (m.reg a).toNat) := by
  refine .of_room (fun _ => rfl) ?_ ?_
  · rintro s n g m r o ⟨-, hroom, -⟩ q hq
    exact List.mem_singleton.1 hq ▸ hroom
  · rintro s n g slot m r o - hm ⟨ha, -, rfl⟩
    simp only [Micro.need_ok hm, Micro.rd_ok (hm a (by simp)).2, bind, Except.bind, Nat.not_le.2 ha, if_false]
    rfl

/-! The gather/scatter engine (R337, R346). -/

theorem gpost_posts : Posts (.gpost d a) [d, a] true d 1 (fun _ => 0#64)
    (fun s n _ m _ o => (m.reg a).toNat < 2 ^ 22 ∧ (m.reg a).toNat % 64 = 0 ∧ (s.core n).inSp (m.reg a).toNat 64 = true ∧
      s.roomIn n 6 ∧ o = .gpost (m.reg a).toNat) := by
  refine .of_room (fun _ => rfl) ?_ ?_
  · rintro s n g m r o ⟨-, -, -, hroom, -⟩ q hq
    exact List.mem_singleton.1 hq ▸ hroom
  · rintro s n g slot m r o - hm ⟨ha, hal, hsp, -, rfl⟩
    have hd := Micro.wrOk_ok (hm.clear (qs := groupCodes d 1) (by simp))
    simp only [Micro.need_ok hm, Micro.rd_ok (hm a (by simp)).2, hd, bind, Except.bind, extract_above 10 ha, hal, hsp, ne_eq,
      not_true_eq_false, if_false, Bool.not_true, Bool.false_eq_true]
    rfl

theorem gstat_posts : Posts (.gstat d a) (pairOf d ++ [a]) true d 2 (fun _ => 0#64) (fun _ _ _ m _ o => o = .gstat (m.reg a)) := by
  refine .of_always (fun _ => rfl) ?_
  rintro s n g slot m r o - hm rfl
  have hneed := Micro.need_ok (hm.sub (qs := [d, a]) (by simp [pairOf]))
  have hd := Micro.wrOk_ok (hm.clear (qs := groupCodes d 2) (by simp [pairOf]))
  simp only [hneed, Micro.rd_ok (hm a (by simp)).2, hd, bind, Except.bind]
  rfl

/-! The traversal processor (R301, R302, R304). -/

theorem tpost_posts : Posts (.tpost d a) (pairOf d ++ [a]) true d 2 (fun _ => 0#64)
    (fun s n _ m _ o => (m.reg a).toNat < 2 ^ 22 ∧ (m.reg a).toNat % 128 = 0 ∧ (s.core n).inSp (m.reg a).toNat 128 = true ∧
      s.roomIn n 5 ∧ o = .tpost (m.reg a).toNat) := by
  refine .of_room (fun _ => rfl) ?_ ?_
  · rintro s n g m r o ⟨-, -, -, hroom, -⟩ q hq
    exact List.mem_singleton.1 hq ▸ hroom
  · rintro s n g slot m r o - hm ⟨ha, hal, hsp, -, rfl⟩
    have hneed := Micro.need_ok (hm.sub (qs := [d, a]) (by simp [pairOf]))
    have hd := Micro.wrOk_ok (hm.clear (qs := groupCodes d 2) (by simp [pairOf]))
    simp only [hneed, Micro.rd_ok (hm a (by simp)).2, hd, bind, Except.bind, extract_above 10 ha, hal, hsp, ne_eq,
      not_true_eq_false, if_false, Bool.not_true, Bool.false_eq_true]
    rfl

theorem hcount_posts : Posts (.hcount d a) (pairOf d ++ [a]) true d 2 (fun _ => 0#64)
    (fun _ _ _ m _ o => (m.reg a).toNat < 8 ∧ o = .hcount (m.reg a).toNat) := by
  refine .of_always (fun _ => rfl) ?_
  rintro s n g slot m r o - hm ⟨ha, rfl⟩
  have hneed := Micro.need_ok (hm.sub (qs := [d, a]) (by simp [pairOf]))
  have hd := Micro.wrOk_ok (hm.clear (qs := groupCodes d 2) (by simp [pairOf]))
  simp only [hneed, Micro.rd_ok (hm a (by simp)).2, hd, bind, Except.bind, hitQueueNo, extract_above (i := 3) 29 ha, ne_eq,
    not_true_eq_false, if_false]
  rfl

theorem tcancel_posts : Posts (.tcancel a) [a] true 0#6 0 (fun _ => 0#64) (fun _ _ _ m _ o => o = .tcancel (m.reg a)) := by
  refine .of_always (fun _ => rfl) ?_
  rintro s n g slot m r o - hm rfl
  simp only [Micro.need_ok hm, Micro.rd_ok (hm a (by simp)).2, bind, Except.bind]
  rfl

/-- A TCFG's control word is legal, and its source has `len` bytes at a multiple of `align` (R302). -/
def TcfgFrom (w : Word) (len align : Nat) : Prop := tcfgControlOk w = true ∧ tcfgSource w = (len, align)

theorem tcfg_table {w : Word} (h : w.toNat = 0) : TcfgFrom w 512 64 := by
  obtain rfl : w = 0#32 := BitVec.eq_of_toNat_eq h
  exact ⟨by decide, by decide⟩

theorem tcfg_code {w : Word} (h : w.toNat / 2 ^ 26 = 16) (hz : w.toNat / 2 ^ 11 % 2 ^ 5 = 0) (hc : 1 ≤ w.toNat % 2 ^ 11)
    (hf : w.toNat / 2 ^ 16 % 2 ^ 10 + w.toNat % 2 ^ 11 ≤ 1024) : TcfgFrom w (4 * (w.toNat % 2 ^ 11)) 4 := by
  have hkind : w.toNat / 2 ^ 30 % 2 ^ 2 = 1 := by omega
  have hzero : w.extractLsb' 26 4 = 0#4 := extract_eq_iff.2 (by rw [h]; rfl)
  have hzero' : w.extractLsb' 11 5 = 0#5 := extract_eq_iff.2 hz
  constructor
  · simp only [tcfgControlOk, extract_toNat, hkind, hzero, hzero', Nat.pow_zero, Nat.div_one, beq_self_eq_true, Bool.true_and,
      Bool.and_eq_true, decide_eq_true_eq]
    omega
  · simp only [tcfgSource, extract_toNat, hkind, Nat.pow_zero, Nat.div_one]

theorem tcfg_queue {w : Word} (h : w.toNat / 2 ^ 3 = 2 ^ 28) : TcfgFrom w 16 16 := by
  have hkind : w.toNat / 2 ^ 30 % 2 ^ 2 = 2 := by omega
  have hzero : w.extractLsb' 3 27 = 0#27 := extract_eq_iff.2 (by rw [h]; rfl)
  constructor
  · simp only [tcfgControlOk, extract_toNat, hkind, hzero, beq_self_eq_true]
  · simp only [tcfgSource, extract_toNat, hkind]

/-- TCFG of a legal control word whose source lies in the scratchpad. -/
theorem tcfg_posts : Posts (.tcfg a b) [a, b] true 0#6 0 (fun _ => 0#64)
    (fun s n _ m _ o => (m.reg a).toNat < 2 ^ 22 ∧ s.roomIn n 5 ∧ o = .tcfg (m.reg a).toNat (m.reg b) ∧
      ∃ len align, TcfgFrom (m.reg b) len align ∧ (m.reg a).toNat % align = 0 ∧ (s.core n).inSp (m.reg a).toNat len = true) := by
  refine .of_room (fun _ => rfl) ?_ ?_
  · rintro s n g m r o ⟨-, hroom, -⟩ q hq
    exact List.mem_singleton.1 hq ▸ hroom
  · rintro s n g slot m r o - hm ⟨ha, -, rfl, len, align, ⟨hok, hsrc⟩, hal, hsp⟩
    simp only [Micro.need_ok hm, Micro.rd_ok (hm a (by simp)).2, Micro.rd_ok (hm b (by simp)).2, bind, Except.bind,
      extract_above 10 ha, hok, hsrc, hal, hsp, ne_eq, not_true_eq_false, or_self, if_false, Bool.not_true, Bool.false_eq_true]
    rfl

/-! Descriptors in registers. -/

theorem wordAt_group {m : Micro} {r : Reg} {n i : Nat} (h : i < n) : wordAt (m.group r n) i = m.reg (r + BitVec.ofNat 6 i) := by
  simp [wordAt, Micro.group, groupCodes, h]

theorem pairAt_group {m : Micro} {r : Reg} {n i : Nat} (h : i + 1 < n) :
    pairAt (m.group r n) i = m.pair (r + BitVec.ofNat 6 i) := by
  rw [pairAt, wordAt_group (Nat.lt_of_succ_lt h), wordAt_group h, Micro.pair, BitVec.ofNat_add, ← BitVec.add_assoc]

/-! MINT (R204). -/

theorem mint_posts : Posts (.mint d a) (pairOf d ++ groupCodes a 8) true d 2 (fun m => m.pair a)
    (fun _ _ _ m _ o =>
      ((m.pair a).toNat < 2 ^ 47 ∨ 2 ^ 64 - 2 ^ 47 ≤ (m.pair a).toNat) ∧ (m.pair a).toNat % 4096 = 0 ∧
      8 ≤ (m.reg (a + 2#6)).toNat ∧ (m.reg (a + 2#6)).toNat ≤ 0x8000000 ∧ (m.reg (a + 2#6)).toNat % 8 = 0 ∧
      (m.reg (a + 3#6)).toNat % 8 = 0 ∧ (m.reg (a + 4#6)).toNat < 4 ∧ m.reg (a + 5#6) = 0#32 ∧ m.reg (a + 6#6) = 0#32 ∧
      m.reg (a + 7#6) = 0#32 ∧ o = .mint (m.group a 8)) := by
  refine .of_always (fun _ => rfl) ?_
  rintro s n g slot m r o - hm ⟨hc, hal, hlo, hhi, h2, h3, h4, h5, h6, h7, rfl⟩
  have hneed := Micro.need_ok (hm.sub (qs := [d, a]) (by simp [pairOf, self_mem_groupCodes]))
  have hws := Micro.rdGroup_ok (hm.clear (qs := groupCodes a 8) (by simp +contextual))
  have hd := Micro.wrOk_ok (hm.clear (qs := groupCodes d 2) (by simp [pairOf]))
  have hbase : pairAt (m.group a 8) 0 = m.pair a := (pairAt_group (by decide)).trans (by rw [BitVec.add_zero])
  have hlt := (m.pair a).isLt
  have hna : isArray (m.pair a) = false := not_isArray (by omega) (by omega)
  have hcan : canonical (m.pair a) = true := canonical_iff.2 (by omega)
  have hcheck : mintCheck (m.group a 8) = .ok () := by
    simp only [mintCheck, hbase, hna, hcan, hal, wordAt_group (show 2 < 8 by decide), wordAt_group (show 3 < 8 by decide),
      wordAt_group (show 4 < 8 by decide), wordAt_group (show 5 < 8 by decide), wordAt_group (show 6 < 8 by decide),
      wordAt_group (show 7 < 8 by decide), h2, h3, h5, h6, h7, extract_above (i := 2) 30 h4, Nat.not_lt.2 hlo, Nat.not_lt.2 hhi, ne_eq,
      not_true_eq_false, or_self, if_false, Bool.not_true, Bool.false_eq_true]
  simp only [hneed, hws, hd, bind, Except.bind]
  rw [← Micro.group, hcheck, hbase]
  rfl

/-! MRG (R166-R168). -/

/-- The key size that a merge's descriptor names (R166). -/
def Micro.keySize (m : Micro) (a : Reg) : Nat := if (m.reg (a + 6#6)).getLsbD 0 then 8 else 4

theorem mergeKey_group {m : Micro} : mergeKey (m.group a 8) = m.keySize a := by
  rw [mergeKey, wordAt_group (by decide)]
  rfl

/-- The two streams that a merge reads pass their checks (R166, R168). -/
def Micro.Streams (m : Micro) (a : Reg) (n : Nat) (r : Res) : Prop :=
  (m.reg (a + 6#6)).toNat < 4 ∧ m.reg (a + 7#6) = 0#32 ∧
    (∃ t, checkAddr n r (m.pair a) (m.keySize a) false = .ok t) ∧
    ∃ t, checkAddr n r (m.pair (a + 2#6)) (m.keySize a) false = .ok t

/-- A range of keys lies before the output or behind it (R168). -/
def Micro.Apart (m : Micro) (a b : Reg) (p : DWord) (count : Word) : Prop :=
  (m.pair b).toNat + (m.reg (b + 2#6)).toNat * m.keySize a ≤ p.toNat ∨ p.toNat + count.toNat * m.keySize a ≤ (m.pair b).toNat

theorem rangesMeet_apart {x nx y ny : Nat} (h : x + nx ≤ y ∨ y + ny ≤ x) : rangesMeet x nx y ny = false := by
  have : ¬ (x < y + ny ∧ y < x + nx) := by omega
  simp only [rangesMeet, Span.meets, Bool.and_eq_false_iff, decide_eq_false_iff_not]
  tauto

theorem icount_posts : Posts (.icount d a) ([d] ++ groupCodes a 8) false d 1 (fun m => m.pair a)
    (fun _ n _ m r o => m.Streams a n r ∧ o = .merge 0#7 (m.group a 8) [] Merge.start) := by
  refine .of_always (fun _ => rfl) ?_
  rintro s n g slot m r o hr hm ⟨⟨h6, h7, ⟨t, ht⟩, u, hu⟩, rfl⟩
  have hneed := Micro.need_ok (hm.sub (qs := [d, a]) (by simp [self_mem_groupCodes]))
  have hda : m.rdGroup a 8 = .ok (m.group a 8) := Micro.rdGroup_ok (hm.clear (qs := groupCodes a 8) (by simp +contextual))
  have hd := Micro.wrOk_ok (hm.clear (qs := groupCodes d 1) (by simp))
  have h0 : pairAt (m.group a 8) 0 = m.pair a := (pairAt_group (by decide)).trans (by rw [BitVec.add_zero])
  simp only [issueMerge, if_true, hneed, hda, hd, bind, Except.bind, mergeKey_group, wordAt_group (show 6 < 8 by decide),
    wordAt_group (show 7 < 8 by decide), extract_above (i := 2) 30 h6, h7, hr, h0, pairAt_group (show 2 + 1 < 8 by decide), ht, hu, ne_eq,
    not_true_eq_false, false_and, false_or, if_false]
  rfl

theorem merge_posts {i : Instr} {f7 : BitVec 7} (hf : f7 ≠ 0#7) (he : ∀ s, exec i s = turn 1 true always (issueMerge f7 d a b) s) :
    Posts i ([d] ++ groupCodes a 8 ++ groupCodes b 4) false d 1 (fun m => m.pair a)
      (fun _ n _ m r o => m.Streams a n r ∧ m.reg (b + 3#6) = 0#32 ∧ (∃ t, checkAddr n r (m.pair b) (m.keySize a) false = .ok t) ∧
        m.Apart a b (m.pair a) (m.reg (a + 4#6)) ∧ m.Apart a b (m.pair (a + 2#6)) (m.reg (a + 5#6)) ∧
        o = .merge f7 (m.group a 8) (m.group b 4) Merge.start) := by
  refine .of_always he ?_
  rintro s n g slot m r o hr hm ⟨⟨h6, h7, ⟨t, ht⟩, u, hu⟩, h3, ⟨v, hv⟩, hx, hy, rfl⟩
  have hneed := Micro.need_ok (hm.sub (qs := [d, a, b]) (by simp [self_mem_groupCodes]))
  have hda : m.rdGroup a 8 = .ok (m.group a 8) := Micro.rdGroup_ok (hm.clear (qs := groupCodes a 8) (by simp +contextual))
  have hdb : m.rdGroup b 4 = .ok (m.group b 4) := Micro.rdGroup_ok (hm.clear (qs := groupCodes b 4) (by simp +contextual))
  have hd := Micro.wrOk_ok (hm.clear (qs := groupCodes d 1) (by simp))
  have h0 : pairAt (m.group a 8) 0 = m.pair a := (pairAt_group (by decide)).trans (by rw [BitVec.add_zero])
  have h0' : pairAt (m.group b 4) 0 = m.pair b := (pairAt_group (by decide)).trans (by rw [BitVec.add_zero])
  simp only [issueMerge, if_neg hf, hneed, hda, hdb, hd, bind, Except.bind, mergeKey_group, wordAt_group (show 6 < 8 by decide),
    wordAt_group (show 7 < 8 by decide), wordAt_group (show 3 < 4 by decide), wordAt_group (show 2 < 4 by decide),
    wordAt_group (show 4 < 8 by decide), wordAt_group (show 5 < 8 by decide), extract_above (i := 2) 30 h6, h7, h3, hr, h0, h0',
    pairAt_group (show 2 + 1 < 8 by decide), ht, hu, hv, rangesMeet_apart hx, rangesMeet_apart hy, ne_eq, not_true_eq_false,
    Bool.false_eq_true, and_false, or_self, if_false]
  rfl

end
end Sys2Proof.Machine

namespace Sys2Proof.Proofs
open Sys2Proof Sys2Proof.Machine

/-- Settles O12: the merges, the posts to the engines with TCFG by its control word, and MINT. -/
theorem engineMergeAndMintPosts : Obligations.EngineMergeAndMintPosts := by
  refine ⟨fun d a b => ⟨icount_posts, merge_posts (by decide) fun _ => rfl, merge_posts (by decide) fun _ => rfl,
      merge_posts (by decide) fun _ => rfl⟩,
    fun d a b ch => ⟨cpost_posts, ccancel_posts, csig_posts, gpost_posts, gstat_posts, tpost_posts, hcount_posts, tcancel_posts, ?_⟩,
    fun d a => mint_posts⟩
  rintro s n k g slot m r o h hs hm ⟨ha, hroom, ho, hc⟩
  refine tcfg_posts s n k g slot m r o h hs hm ⟨ha, hroom, ho, ?_⟩
  rcases hc with ⟨h0, hal, hsp⟩ | ⟨hk, hz, h1, hle, hal, hsp⟩ | ⟨hk, hal, hsp⟩
  · exact ⟨_, _, tcfg_table h0, hal, hsp⟩
  · exact ⟨_, _, tcfg_code hk hz h1 hle, hal, hsp⟩
  · exact ⟨_, _, tcfg_queue hk, hal, hsp⟩

end Sys2Proof.Proofs

/-! A fence is sent, and the fences whose conditions hold end (R173, R174, R330). -/

namespace Sys2Proof.Machine

section
variable {s t : State} {n l cl id : Nat} {f g : Flight}

theorem Flight.isFence_iff : f.isFence = true ↔ ∃ kind scope entries, f.op = .fence kind scope entries := by
  unfold Flight.isFence
  split
  case h_1 kind scope entries e => exact ⟨fun _ => ⟨kind, scope, entries, e⟩, fun _ => rfl⟩
  case h_2 h => exact ⟨fun e => (Bool.false_ne_true e).elim, fun ⟨kind, scope, entries, e⟩ => (h _ _ _ e).elim⟩

theorem Flight.isFence_not_load (h : f.isFence = true) : f.isLoad = false := by
  obtain ⟨kind, scope, entries, e⟩ := Flight.isFence_iff.1 h
  simp only [Flight.isLoad, e]

/-! The lines that an acquire drops. -/

/-- A cluster holds no data line (R330). -/
def State.NoDataLines (s : State) (cl : Nat) : Prop := ∀ x ∈ (s.cluster cl).lines, x.node = true

theorem OnlyDrops.noDataLines (h : OnlyDrops s t) (hs : s.NoDataLines cl) : t.NoDataLines cl := fun x hx => hs x ((h cl).2 x hx)

theorem State.acquire_noDataLines (s : State) (h : cl < 10) : (s.acquire cl).NoDataLines cl := by
  intro x hx
  have hc : (s.acquire cl).cluster cl = (s.dropLines cl fun l => !l.node).cluster cl := rfl
  rw [hc, State.dropLines, State.cluster_modCluster_self _ _ _ h] at hx
  simpa using (List.mem_filter.1 hx).2

theorem OnlyDrops.endFence (s : State) (p : Nat × Flight) : OnlyDrops s (s.endFence p) := by
  unfold State.endFence
  split
  · dsimp only
    split
    · exact (OnlyDrops.of_clusters rfl).trans (Settles.acquire (s.dropFlight p.1) _).drops
    · exact .of_clusters rfl
  · exact .refl s

theorem OnlyDrops.foldl_endFence (s : State) (ps : List (Nat × Flight)) : OnlyDrops s (ps.foldl State.endFence s) := by
  induction ps generalizing s with
  | nil => exact .refl s
  | cons p ps ih => exact (OnlyDrops.endFence s p).trans (ih _)

/-- A fence that is an acquire for its whole cluster. -/
def Op.acquires (o : Op) : Prop := ∃ kind scope entries, o = .fence kind scope entries ∧ (kind = 0 ∨ kind = 1 ∨ kind = 5) ∧ 4 ≤ scope

theorem State.endFence_noDataLines {p : Nat × Flight} (h : p.2.op.acquires) (hcl : clusterOf p.2.core < 10) :
    (s.endFence p).NoDataLines (clusterOf p.2.core) := by
  obtain ⟨kind, scope, entries, ho, hk, hsc⟩ := h
  simp only [State.endFence, ho, hk, hsc, and_self, if_true]
  exact State.acquire_noDataLines _ hcl

theorem State.foldl_endFence_noDataLines {p : Nat × Flight} {ps : List (Nat × Flight)} (hp : p ∈ ps) (h : p.2.op.acquires)
    (hcl : clusterOf p.2.core < 10) : (ps.foldl State.endFence s).NoDataLines (clusterOf p.2.core) := by
  induction ps generalizing s with
  | nil => cases hp
  | cons q ps ih =>
    rcases List.mem_cons.1 hp with rfl | hp
    · exact (OnlyDrops.foldl_endFence _ ps).noDataLines (State.endFence_noDataLines h hcl)
    · exact ih hp

/-- What stands once a fence `f` is sent and the fences whose conditions hold have ended. -/
structure FenceSent (f : Flight) (s t : State) : Prop where
  state : t = { s with flights := t.flights, clusters := t.clusters, nextId := s.nextId + 1 }
  own : Tbl.get? t.flights s.nextId = if s.fenceDone s.nextId f then none else some f
  drops : OnlyDrops s t
  settles : SettlesFlights s.nextId s t
  acquires : f.op.acquires → f.core < 80 → s.fenceDone s.nextId f = true → t.NoDataLines (clusterOf f.core)

theorem State.addFlight_settle_fence (hs : s.Sound) (hg : { g with sent := s.nextId } = f) (hf : f.isFence = true) :
    FenceSent f s (s.addFlight g).settle := by
  obtain ⟨-, -, -, hsorted, hid⟩ := hs
  have hfl : Tbl.sorted (s.addFlight g).flights = true := Tbl.sorted_set _ _ _ hsorted
  have hself : Tbl.get? (s.addFlight g).flights s.nextId = some f := (Tbl.get?_set_self ..).trans (congrArg some hg)
  have hset := State.settle_settles hfl
  have hdone : (s.addFlight g).fenceDone s.nextId f = s.fenceDone s.nextId f := State.fenceDone_addFlight hid g
  refine ⟨?_, ?_, ?_, hset.flights fun j hj => Tbl.get?_set_other _ _ _ _ hj, fun ha hn hd => ?_⟩
  · rw [hset.state]
    rfl
  · rw [State.settle_get? hfl hself (Flight.isFence_not_load hf), hdone]
  · have : OnlyDrops s (s.addFlight g) := .of_clusters rfl
    exact this.trans hset.drops
  · exact State.foldl_endFence_noDataLines (p := (s.nextId, f))
      (List.mem_filter.2 ⟨Tbl.mem_of_get? hself, hdone.trans hd⟩) ha (clusterOf_lt hn)

theorem FenceSent.core (h : FenceSent f s t) (x : Nat) : t.core x = s.core x := by rw [h.state]; rfl

end

/-! FENCE of a micro-thread alone in its group (R173, R174). -/

section
variable {s : State} {n k slot kind w : Nat} {g : Group} {m : Micro} {r : Res} {scope : BitVec 3} {i : Instr} {ll : Bool}

/-- The fence that FENCE sends (R363). -/
def Group.fence (g : Group) (s : State) (n slot : Nat) (m : Micro) (kind scope : Nat) : Flight :=
  { core := n, launch := g.launch, agent := .micro, who := [⟨slot, m.gen, true, false⟩], fig := g.fig, off := g.off
    word := s.curWord, ll := 8, dst := 0#6, dstN := 0, ea := 0#64, sent := s.nextId
    op := .fence kind scope (s.fenceEntries n kind scope), stage := .request }

/-- A turn of one micro-thread that leaves its core as it is, and lets fences end. -/
theorem OnlyTurnFence.of_flights {u : State} (h : s.Alone n k g slot m r)
    (hu : u = { s with flights := u.flights, clusters := u.clusters, nextId := u.nextId }) (hd : OnlyDrops s u)
    (hf : SettlesFlights s.nextId s u) :
    let t := u.modCore n fun c => c.endTurn k g 4 w ll
    t.flights = u.flights ∧ t.clusters = u.clusters ∧ t.microAt n slot = some m ∧ OnlyCharged n s t ∧
      (t.core n).fifo = (s.core n).fifo ∧ OnlyTurnFence n slot s t := by
  obtain ⟨⟨⟨c, hc⟩, -, hm⟩, -, -⟩ := id h
  have hn := (State.seat_parts hc).1
  have hcore (x : Nat) : u.core x = s.core x := by rw [hu]; rfl
  obtain ⟨e1, e2, e3, e4, e5⟩ := endTurn_facts u n k g w ll hn
  dsimp only
  generalize u.modCore n (fun c => c.endTurn k g 4 w ll) = t at *
  have hfl : t.flights = u.flights := by rw [e1]
  have hcl : t.clusters = u.clusters := by rw [e1]
  rw [hcore] at e3 e4
  refine ⟨hfl, hcl, ?_, fun x => ?_, by rw [e4], ⟨?_, fun x hx => (e2 x hx).trans (hcore x), fun x _ => ?_, ?_⟩, ?_, ?_⟩
  · rw [State.microAt, e3]
    exact hm
  · have hres : u.res? n x = s.res? n x := by rw [State.res?, hcore, State.res?]
    simpa [hres] using e5 x
  · rw [e1]
    conv_lhs => rw [hu]
  · exact congrArg (Tbl.get? · x) e3
  · change t.core n = { s.core n with
      slots := (t.core n).slots, groups := (t.core n).groups, res := (t.core n).res, eligible := (t.core n).eligible
      fifo := (t.core n).fifo, mx := (t.core n).mx }
    rw [e4]
  · exact hd.trans (.of_clusters hcl)
  · intro j f hj hg' hfence
    rw [hfl]
    exact hf j f hj hg' hfence

/-- FENCE sends its fence, but for scope 0 (R173). -/
theorem fence_answers (he : ∀ s, exec i s = turn 1 false always (issueFence kind scope.toNat) s) (h : s.Alone n k g slot m r)
    (hs : s.Sound) :
    Answers i s fun t =>
      (scope = 0#3 → t.flights = s.flights ∧ t.clusters = s.clusters) ∧
      (scope ≠ 0#3 → Tbl.get? t.flights s.nextId =
        if s.fenceDone s.nextId (g.fence s n slot m kind scope.toNat) then none else some (g.fence s n slot m kind scope.toNat)) ∧
      (4 ≤ scope.toNat → kind = 0 ∨ kind = 1 → s.fenceDone s.nextId (g.fence s n slot m kind scope.toNat) = true →
        t.NoDataLines (clusterOf n)) ∧
      t.microAt n slot = some m ∧ OnlyCharged n s t ∧ (t.core n).fifo = (s.core n).fifo ∧ OnlyTurnFence n slot s t := by
  obtain ⟨⟨⟨c, hc⟩, -, -⟩, -, -⟩ := id h
  have hn := (State.seat_parts hc).1
  by_cases h0 : scope = 0#3
  · obtain ⟨hfl, hcl, hrest⟩ := OnlyTurnFence.of_flights (w := 1) (ll := false) h (u := s) rfl (.refl s)
      fun _ f _ hf _ => ⟨f, hf, rfl, .inl rfl⟩
    have hbody : issueFence kind scope.toNat s n g slot m = .ok s := if_pos (congrArg BitVec.toNat h0)
    exact ⟨_, (he s).trans (turn_alone h rfl hbody), fun _ => ⟨hfl, hcl⟩, fun hne => absurd h0 hne,
      fun h4 => absurd (h0 ▸ h4) (by decide), hrest⟩
  · have hsent := State.addFlight_settle_fence (g := g.flight s n slot m false 0#6 0 0#64
      (.fence kind scope.toNat (s.fenceEntries n kind scope.toNat)) .request) (f := g.fence s n slot m kind scope.toNat) hs rfl rfl
    have hbody : issueFence kind scope.toNat s n g slot m = .ok (s.addFlight (g.flight s n slot m false 0#6 0 0#64
        (.fence kind scope.toNat (s.fenceEntries n kind scope.toNat)) .request)).settle :=
      if_neg fun e => h0 (BitVec.eq_of_toNat_eq e)
    have hstate := hsent.state
    obtain ⟨hfl, hcl, hrest⟩ := OnlyTurnFence.of_flights (w := 1) (ll := false) h (by rw [hstate]) hsent.drops hsent.settles
    refine ⟨_, (he s).trans (turn_alone h rfl hbody), fun e => absurd e h0, fun _ => (congrArg (Tbl.get? · s.nextId) hfl).trans hsent.own,
      fun h4 hk hd => ?_, hrest⟩
    have hlines := hsent.acquires ⟨kind, scope.toNat, _, rfl, hk.imp_right .inl, h4⟩ hn hd
    exact (OnlyDrops.of_clusters hcl).noDataLines hlines

/-! What a release and an acquire wait for at the device scope (R174). -/

theorem State.fenceSees_load {id : Nat} {f : Flight} {sz : BitVec 3} {kd : BitVec 2} (h : f.op = .load sz kd) (kind scope : Nat) :
    s.fenceSees id f kind scope = true ↔ f.bound = true := by
  have hfence : f.isFence = false := by simp only [Flight.isFence, h]
  have hstore : f.isStore = false := by simp only [Flight.isStore, h]
  have hload : f.isLoad = true := by simp only [Flight.isLoad, h]
  cases hb : f.bound <;> simp [State.fenceSees, hfence, hstore, hload, hb]

/-- An acquire waits for no store, a release for those of the own pool and of global memory until they are performed, and a
remote-store completion for the acknowledgement of a remote one. -/
theorem State.fenceSees_store {id : Nat} {f : Flight} {bytes : Nat} {kd : BitVec 2} {v : QWord} (h : f.op = .store bytes kd v)
    (hin : s.inFifo f.core id = true) (hst : f.stage ≠ .faulted) :
    s.fenceSees id f 1 4 = true ∧ (s.remoteStore f = false → s.fenceSees id f 2 4 = false) ∧
      (s.remoteStore f = true → s.fenceSees id f 2 4 = true ∧ (f.stage ≠ .twin → s.fenceSees id f 3 4 = false)) := by
  have hfence : f.isFence = false := by simp only [Flight.isFence, h]
  have hstore : f.isStore = true := by simp only [Flight.isStore, h]
  have hload : f.isLoad = false := by simp only [Flight.isLoad, h]
  refine ⟨?_, fun hr => ?_, fun hr => ⟨?_, fun ht => ?_⟩⟩ <;> simp [State.fenceSees, *]

end
end Sys2Proof.Machine

namespace Sys2Proof.Proofs
open Sys2Proof Sys2Proof.Machine

/-- Settles O14: the four fences by what FENCE sends, then what a fence waits for. -/
theorem fenceResults : Obligations.FenceResults :=
  ⟨fun _ =>
    ⟨fun _ _ _ _ _ _ _ => fence_answers fun _ => rfl, fun _ _ _ _ _ _ _ => fence_answers fun _ => rfl,
      fun _ _ _ _ _ _ _ => fence_answers fun _ => rfl, fun _ _ _ _ _ _ _ => fence_answers fun _ => rfl⟩,
    fun s _ _ => ⟨fun _ _ h => ⟨s.fenceSees_load h 1 4, s.fenceSees_load h 2 4⟩,
      fun _ _ _ h hin _ hst => s.fenceSees_store h hin hst⟩⟩

end Sys2Proof.Proofs

/-! What an SC does, what ends a reservation, and the caller's fences (R163, R191). -/

namespace Sys2Proof.Machine

section
variable {s : State} {f : Flight} {dbl : Bool} {v : DWord} {pa n l kind : Nat} {r : Res} {i : Instr}

/-! Reservations. -/

theorem State.holdsLine_iff {line : Nat} : s.holdsLine f line = true ↔ (f.core, f.launch, line) ∈ s.resvs := by
  rw [State.holdsLine, List.any_eq_true]
  constructor
  · rintro ⟨⟨a, b, c⟩, hx, he⟩
    obtain ⟨⟨rfl, rfl⟩, rfl⟩ : (a = f.core ∧ b = f.launch) ∧ c = line := by simpa using he
    exact hx
  · exact fun h => ⟨_, h, by simp⟩

theorem State.atomicAt_sc (h : f.op = .sc dbl v) : s.atomicAt f pa =
    if s.holdsLine f (pa / 64) then (0#128, 0#5, some (v.toNat % 2 ^ (if dbl then 64 else 32))) else (1#128, 0#5, none) := by
  have hsize : 8 * f.size = if dbl then 64 else 32 := by cases dbl <;> simp only [Flight.size, h] <;> rfl
  simp only [State.atomicAt, h, hsize]
  rfl

/-- A write ends the reservations of the lines that it meets. -/
theorem State.mem_write_resvs {bs : List Byte} {x : Nat × Nat × Nat} :
    x ∈ (s.write pa bs).resvs ↔ x ∈ s.resvs ∧ (x.2.2 < pa / 64 ∨ pa + bs.length ≤ x.2.2 * 64) := by
  rw [State.write, List.mem_filter, Bool.not_eq_true', Bool.and_eq_false_iff, decide_eq_false_iff_not, decide_eq_false_iff_not,
    Nat.not_le, Nat.not_lt]

/-! The caller's fences. -/

/-- The fence that FENCE or FENCE.I of the caller sends (R191). -/
def State.callerFence (s : State) (n l kind : Nat) : Flight :=
  { core := n, launch := l, agent := .caller, who := [], fig := 0#32, off := 0, word := 0#32, ll := 8, dst := 0#6
    dstN := 0, ea := 0#64, sent := s.nextId, op := .fence kind 5 (s.fenceEntries n kind 5), stage := .request }

theorem fetchHeld_of_flight {id : Nat} (h : Tbl.get? s.flights id = some f) (hc : f.core = n) (hl : f.launch = l) (ha : f.agent = .caller)
    {entries : List Nat} {scope : Nat} (ho : f.op = .fence 4 scope entries) : s.fetchHeld n l = true :=
  List.any_eq_true.2 ⟨_, Tbl.mem_of_get? h, by simp [hc, hl, ha, ho]⟩

/-- A fence of the caller is sent, and the pc moves on. -/
theorem callerFence_answers (he : ∀ s, exec i s = callerFenceDo kind s) (h : s.Calling n l r) (hs : s.Sound) :
    Answers i s fun t =>
      Tbl.get? t.flights s.nextId = (if s.fenceDone s.nextId (s.callerFence n l kind) then none else some (s.callerFence n l kind)) ∧
      t.res? n l = some { r with caller := { r.caller with pc := r.caller.pc + 4#64 } } ∧
      (s.fenceDone s.nextId (s.callerFence n l kind) = false → kind = 4 → t.fetchHeld n l = true) ∧
      t.nextId = s.nextId + 1 ∧ OnlyDrops s t ∧ SettlesFlights s.nextId s t ∧
      OnlyLaunch n l s { t with clusters := s.clusters, flights := s.flights, nextId := s.nextId } := by
  obtain ⟨-, hn, hr⟩ := id h
  have hsent : FenceSent (s.callerFence n l kind) s (s.callerFenceOf n l kind 5) := State.addFlight_settle_fence hs rfl rfl
  have hrun : exec i s = .next ((s.callerFenceOf n l kind 5).modCaller n l fun h => h.next 4#64) := by
    rw [he, callerFenceDo, h.seat]
  generalize s.callerFenceOf n l kind 5 = u at hsent hrun
  rw [State.modCaller_eq] at hrun
  have hlast : OnlyLaunch n l u (u.modRes n l fun r => { r with caller := r.caller.next 4#64 }) := .modRes hn
  have hru : u.res? n l = some r := by rw [State.res?, hsent.core, ← State.res?, hr]
  have hrt := State.res?_modRes_self (f := fun r => { r with caller := r.caller.next 4#64 }) hn hru
  generalize u.modRes n l (fun r => { r with caller := r.caller.next 4#64 }) = t at hrun hlast hrt
  have hfl : t.flights = u.flights := by rw [hlast.1]
  have hown : Tbl.get? t.flights s.nextId = _ := (congrArg (Tbl.get? · s.nextId) hfl).trans hsent.own
  refine ⟨t, hrun, hown, hrt, fun hd hk => ?_, ?_, ?_, ?_, ?_⟩
  · rw [hd] at hown
    subst hk
    exact fetchHeld_of_flight hown rfl rfl rfl rfl
  · rw [hlast.1, hsent.state]
  · exact hsent.drops.trans (.of_clusters (by rw [hlast.1]))
  · exact fun j f hj hf hfence => by
      rw [hfl]
      exact hsent.settles j f hj hf hfence
  · exact hlast.flown (by rw [hsent.state])

end
end Sys2Proof.Machine

namespace Sys2Proof.Proofs
open Sys2Proof Sys2Proof.Machine

/-- Settles O28: an SC by its caller's reservation, what a write leaves of the reservations, and the caller's two fences. -/
theorem callerReservationAndFenceResults : Obligations.CallerReservationAndFenceResults :=
  ⟨fun _ _ _ _ _ _ =>
    ⟨fun h hin => (State.atomicAt_sc h).trans (if_pos (State.holdsLine_iff.2 hin)),
      fun h hin => (State.atomicAt_sc h).trans (if_neg fun hl => hin (State.holdsLine_iff.1 hl)),
      fun _ hx => State.mem_write_resvs.trans (and_iff_right hx)⟩,
    fun _ _ _ _ h hs => ⟨callerFence_answers (fun _ => rfl) h hs, callerFence_answers (fun _ => rfl) h hs⟩⟩

end Sys2Proof.Proofs

/-! A translation that the walker finds draws a free value, whatever else it keeps. -/

namespace Sys2Proof.Machine
section

/-- A walk that finds a leaf draws the choice of the entry that it replaces (R357). -/
theorem State.cacheLeaf_fresh {s : State} {asid va root : Nat} {need : Need} (hroot : s.asidRoot asid = some root)
    (hwalk : (walkFrom s.mem va need 3 root).2 ≠ none) : (s.cacheLeaf asid va need).fresh = s.fresh + 1 := by
  obtain ⟨leaf, hleaf⟩ := Option.ne_none_iff_exists'.1 hwalk
  unfold State.cacheLeaf
  simp [hroot, hleaf]

/-- A load that may be performed and is translated leaves its leaf cached. -/
theorem State.tluTranslation_load_fresh {s t : State} {id va pa : Nat} {cc : Bool} {f : Flight} (hf : Tbl.get? s.flights id = some f)
    (htarget : s.targetOfFlight f = .global va) (hmerge : f.isMerge = false) (hmay : s.translateMay id f = true) (hload : f.isLoad = true)
    (htr : s.translate (s.asidOf f.core f.launch) va .read = .ok pa cc) (ht : exec (.tluTranslation id) s = .next t) :
    t.fresh = (s.cacheLeaf (s.asidOf f.core f.launch) va .read).fresh := by
  have hexec : exec (.tluTranslation id) s = .next ((s.cacheLeaf (s.asidOf f.core f.launch) va .read).sendOn id (.home pa cc)) := by
    show execTluTranslation id s = _
    simp [execTluTranslation, onFlight, hf, htarget, hmerge, hmay, hload, htr]
  obtain rfl : _ = t := Host.Outcome.next.inj (hexec.symm.trans ht)
  rfl

end
end Sys2Proof.Machine

namespace Sys2Proof.Proofs
open Sys2Proof Sys2Proof.Machine

/-- A load of a word that asks for its translation; its launch is not resident, so its address is 0 in the space 0. -/
def askingLoad : Flight :=
  { core := 0, launch := 1, agent := .micro, who := [], fig := 0#32, off := 0, word := 0#32, ll := 0, dst := 4#6, dstN := 1, ea := 0#64
    sent := 0, op := .load 4#3 0#2, stage := .request }

/-- The load in flight where the space 0 has tables: its root is page 0x90, whose first entry is a readable leaf that maps 0 to itself. -/
def walkedState : State :=
  (({ State.reset with flights := [(0, askingLoad)], nextId := 1, dsc := { State.reset.dsc with asidtab := 0x80000#64 } } : State).write
    0x80000 (bytesOfNat 8 (2 ^ 63 + 0x90))).write 0x90000 (bytesOfNat 8 0x53)

theorem walkedState_sound : walkedState.Sound := by
  refine ⟨Memory.wf_writeN _ _ _ (Memory.wf_writeN _ _ _ rfl), ?_⟩
  decide

theorem walkedState_asidRoot : walkedState.asidRoot 0 = some 0x90 := rfl

theorem walkedState_walk : walkFrom walkedState.mem 0 .read 3 0x90 = (.ok 0 true, some (3, 0x53#64)) := rfl

theorem walkedState_translate : walkedState.translate 0 0 .read = .ok 0 true := by
  have hleaves : (walkedState.tlu (tluOf 0)).leaves = [] := rfl
  simp only [State.translate, hleaves, List.find?_nil, Option.map_none, walkedState_asidRoot, walkedState_walk]

theorem walkedState_fresh : (walkedState.cacheLeaf 0 0 .read).fresh = walkedState.fresh + 1 :=
  State.cacheLeaf_fresh walkedState_asidRoot (by rw [walkedState_walk]; exact Option.some_ne_none _)

/-- Refutes O34: the clause of a load's translation keeps the counter of the free values, and the load of `walkedState` moves it, as a walk
that finds a leaf draws which entry of the TLU it replaces. -/
theorem not_globalAccessAndDeliveryResults : ¬ Obligations.GlobalAccessAndDeliveryResults := by
  unfold Obligations.GlobalAccessAndDeliveryResults
  rintro ⟨haccess, -⟩
  have htarget : walkedState.targetOfFlight askingLoad = .global 0 := rfl
  have hflight : Tbl.get? walkedState.flights 0 = some askingLoad := rfl
  obtain ⟨hload, -⟩ := haccess walkedState 0 askingLoad 0 walkedState_sound hflight (by decide) htarget
  obtain ⟨t, hexec, -, -, hframe⟩ := hload 4#3 0#2 0 true rfl ⟨by decide, by decide, rfl⟩ walkedState_translate
  have hmoved := State.tluTranslation_load_fresh hflight htarget rfl (by decide) rfl walkedState_translate hexec
  have hkept : t.fresh = walkedState.fresh := (congrArg State.fresh hframe).trans rfl
  exact absurd (hkept.symm.trans (hmoved.trans walkedState_fresh)) (Nat.succ_ne_self _).symm

end Sys2Proof.Proofs

/-! What performing an access leaves alone (R174, R191, R284). -/

namespace Sys2Proof.Machine

section
variable {s t u w : State} {n id a k v pa len : Nat} {f : Flight} {st : Stage} {bs : List Byte}

theorem WritesBeside.write (s : State) (a : Nat) (bs : List Byte) : WritesBeside s (s.write a bs) := OnlyWrites.write s a bs

theorem WritesBeside.poke (s : State) (a k v : Nat) : WritesBeside s (s.poke a k v) := .write s a _

theorem WritesBeside.modCore (s : State) (n : Nat) (g : Core → Core) : WritesBeside s (s.modCore n g) := .of_cores (State.modCore_eq ..)

theorem WritesBeside.corrects (s : State) (pa len : Nat) : WritesBeside s (s.corrects pa len) := by
  obtain ⟨hstate, hwatch⟩ := s.corrects_only pa len
  have hbad : (s.corrects pa len).watch.bad = s.watch.bad := by rw [hwatch]
  refine ⟨?_, fun x hx => ?_, ?_, fun x hx => hbad ▸ hx, fun x hx => (State.mem_corrects_weak.1 hx).1⟩
  · rw [hstate]
  · rw [hstate] at hx
    exact hx
  · change (s.corrects pa len).watch = { s.watch with
      bad := (s.corrects pa len).watch.bad, weak := (s.corrects pa len).watch.weak, corrected := (s.corrects pa len).watch.corrected }
    rw [hbad]
    exact hwatch

theorem WritesBeside.correctsPoke (s : State) (pa len a k v : Nat) : WritesBeside s ((s.corrects pa len).poke a k v) :=
  (WritesBeside.corrects s pa len).trans (.poke _ a k v)

theorem WritesBeside.clusters (h : WritesBeside s w) : w.clusters = s.clusters := by
  have hc := congrArg State.clusters h.1
  exact hc

theorem WritesBeside.flights (h : WritesBeside s w) : w.flights = s.flights := by
  have hc := congrArg State.flights h.1
  exact hc

/-- An access `id` was performed, beside its cores: bytes were written, and fences that waited for it may have ended. -/
structure Performs (id : Nat) (s t : State) : Prop where
  writes : OnlyWrites s { t with flights := s.flights, clusters := s.clusters, cores := s.cores }
  drops : OnlyDrops s t
  settles : SettlesFlights id s t

/-- The table of the accesses in flight is changed under one number. -/
structure FlightsBut (id : Nat) (s u : State) : Prop where
  others : ∀ j, j ≠ id → Tbl.get? u.flights j = Tbl.get? s.flights j
  sorted : Tbl.sorted s.flights = true → Tbl.sorted u.flights = true

theorem FlightsBut.modify (g : Flight → Flight) (h : u.flights = Tbl.modify s.flights id g) : FlightsBut id s u :=
  ⟨fun j hj => by rw [h, Tbl.get?_modify_other _ _ _ _ hj], fun hs => by rw [h]; exact Tbl.sorted_modify _ _ hs⟩

theorem FlightsBut.setStage (h : w.flights = s.flights) (st : Stage) : FlightsBut id s (w.setStage id st) :=
  .modify _ (by rw [State.setStage, State.modFlight, h])

theorem FlightsBut.dropFlight (h : w.flights = s.flights) : FlightsBut id s (w.dropFlight id) :=
  ⟨fun j hj => by rw [State.dropFlight, h, Tbl.get?_erase_other _ _ _ hj], fun hs => Tbl.sorted_erase _ _ (h ▸ hs)⟩

theorem FlightsBut.settlesFlights (h : FlightsBut id s u) : SettlesFlights id s u :=
  fun j f hj hf _ => ⟨f, (h.others j hj).trans hf, rfl, .inl rfl⟩

theorem Performs.of_writes (hw : WritesBeside s w) (hu : u = { w with flights := u.flights }) (hf : FlightsBut id s u) :
    Performs id s u := by
  have hc : u.clusters = s.clusters := (congrArg State.clusters hu).trans hw.clusters
  refine ⟨?_, .of_clusters hc, hf.settlesFlights⟩
  have hx : { u with flights := s.flights, clusters := s.clusters, cores := s.cores } = { w with cores := s.cores } := by
    rw [hu]
    exact congrArg (fun x : State => { w with cores := s.cores, flights := x.flights, clusters := x.clusters }) hw.1.symm
  rw [hx]
  exact hw

theorem Performs.settle (h : Performs id s u) (hf : FlightsBut id s u) (hs : Tbl.sorted s.flights = true) : Performs id s u.settle := by
  have hset := State.settle_settles (hf.sorted hs)
  refine ⟨?_, h.drops.trans hset.drops, hset.flights hf.others⟩
  have hx : { u.settle with flights := s.flights, clusters := s.clusters, cores := s.cores } =
      { u with flights := s.flights, clusters := s.clusters, cores := s.cores } := by rw [hset.state]
  rw [hx]
  exact h.writes

theorem Performs.onlyFlightsMem (h : Performs id s t) (hc : ∀ n, t.core n = { s.core n with traceSeq := (t.core n).traceSeq }) :
    OnlyFlightsMem id s t := ⟨h.writes, h.drops, h.settles, hc⟩

theorem Performs.onlyFlightsMem_of_cores (h : Performs id s t) (hc : t.cores = s.cores) : OnlyFlightsMem id s t :=
  h.onlyFlightsMem fun n => by rw [State.core, hc, State.core]

/-- The cores aside. -/
theorem Performs.besideCores (h : Performs id s t) : OnlyFlightsMem id s { t with cores := s.cores } :=
  ⟨h.writes, h.drops, h.settles, fun _ => rfl⟩

/-! The access itself while fences end. -/

/-- A stage that the end of a fence leaves. -/
def Stage.Stays (st : Stage) : Prop := ∀ b, st.Loses b → b = st

theorem Stage.stays_of (hfill : ∀ line c, st ≠ .fill line c) (hhome : ∀ pa c, st ≠ .home pa c) : st.Stays := by
  rintro b (h | ⟨line, c, h, -⟩ | ⟨pa, c, h, -⟩)
  · exact h
  · exact absurd h (hfill line c)
  · exact absurd h (hhome pa c)

theorem Stage.reply_stays (v : QWord) (fl : FFlags) : (Stage.reply v fl).Stays := stays_of (fun _ _ h => by cases h) fun _ _ h => by cases h
theorem Stage.half_stays (v : DWord) : (Stage.half v).Stays := stays_of (fun _ _ h => by cases h) fun _ _ h => by cases h
theorem Stage.acked_stays : Stage.acked.Stays := stays_of (fun _ _ h => by cases h) fun _ _ h => by cases h

theorem Settles.kept (h : Settles u t) (hf : Tbl.get? u.flights id = some f) (hfence : f.isFence = false) (hst : f.stage.Stays) :
    Tbl.get? t.flights id = some f := by
  obtain ⟨x, hx, he, hl⟩ := h.keeps id f hf hfence
  rw [hst _ hl] at he
  rw [hx, he]

theorem State.flies_setStage (hf : Tbl.get? s.flights id = some f) : (s.setStage id st).flies id f st := by
  rw [State.flies, State.setStage, State.modFlight, Tbl.get?_modify_self, hf]
  rfl

theorem State.flies_setStage_settle (hs : Tbl.sorted s.flights = true) (hf : Tbl.get? s.flights id = some f) (hfence : f.isFence = false)
    (hst : st.Stays) : (s.setStage id st).settle.flies id f st :=
  (State.settle_settles (Tbl.sorted_modify _ _ hs)).kept (State.flies_setStage hf) hfence hst

theorem State.settle_cores (hs : Tbl.sorted s.flights = true) : s.settle.cores = s.cores := by rw [(State.settle_settles hs).state]
theorem State.settle_mem (hs : Tbl.sorted s.flights = true) : s.settle.mem = s.mem := by rw [(State.settle_settles hs).state]

theorem Flight.not_fence_of_load {sz : BitVec 3} {kd : BitVec 2} (h : f.op = .load sz kd) : f.isFence = false := by
  simp only [Flight.isFence, h]
theorem Flight.not_fence_of_store {bytes : Nat} {kd : BitVec 2} {d : QWord} (h : f.op = .store bytes kd d) : f.isFence = false := by
  simp only [Flight.isFence, h]
theorem Flight.not_fence_of_atomic {f7 : BitVec 7} {b : QWord} (h : f.op = .atomic f7 b) : f.isFence = false := by
  simp only [Flight.isFence, h]

/-! Reads. -/

theorem OnlyFlights.of_settle (hw : w = { s with watch := w.watch }) (hc : OnlyCorrects s w) (hu : u = { w with flights := u.flights })
    (hf : FlightsBut id s u) (hs : Tbl.sorted s.flights = true) : OnlyFlights id s u.settle := by
  have hset := State.settle_settles (hf.sorted hs)
  have hwatch : u.settle.watch = w.watch := by rw [hset.state, hu]
  have hclusters : u.clusters = s.clusters := by rw [hu, hw]
  refine ⟨?_, (OnlyDrops.of_clusters hclusters).trans hset.drops, hset.flights hf.others, ?_⟩
  · rw [hset.state, hu, hw]
  · rw [OnlyCorrects, hwatch]
    exact hc

/-- A read that binds a value, or half of it, and lets fences end. -/
theorem Answers.of_bound {i : Instr} (hs : s.Sound) (hf : Tbl.get? s.flights id = some f) (hfence : f.isFence = false) (hst : st.Stays)
    (he : exec i s = .next ((s.corrects pa len).setStage id st).settle) :
    Answers i s fun t => t.flies id f st ∧ OnlyFlights id s t := by
  obtain ⟨-, -, -, hsorted, -⟩ := hs
  have hfl : (s.corrects pa len).flights = s.flights := by rw [(s.corrects_only pa len).1]
  refine ⟨_, he, State.flies_setStage_settle (by rw [hfl]; exact hsorted) (by rw [hfl]; exact hf) hfence hst,
    .of_settle (s.corrects_only pa len).1 (s.corrects_onlyCorrects pa len) rfl (.setStage hfl st) hsorted⟩

end
end Sys2Proof.Machine

/-! Loads at their owning port (R157, R159, R360). -/

namespace Sys2Proof.Machine

section
variable {s : State} {id c off : Nat} {f : Flight} {sz : BitVec 3} {kd : BitVec 2}

theorem extendLoad_of_size_16 (hop : f.op = .load sz kd) (h : f.size = 16) (v : Nat) : extendLoad sz v = BitVec.ofNat 128 v := by
  have hsz : sz.toNat ≠ 1 ∧ sz.toNat ≠ 3 := by
    constructor <;> intro e <;> simp [Flight.size, hop, e] at h
  unfold extendLoad
  split
  · exact absurd ‹_› hsz.1
  · exact absurd ‹_› hsz.2
  · rfl

theorem State.corrects_peek (s : State) (pa len a k : Nat) : (s.corrects pa len).peek a k = s.peek a k := by
  rw [State.peek, (s.corrects_only pa len).1, State.peek]

theorem State.portLoad_whole (hop : f.op = .load sz kd) (h : f.size ≠ 16) : s.portLoad id f c off =
    (s.corrects (poolAddr c off) f.size).setStage id (.reply (extendLoad sz (s.peek (poolAddr c off) f.size)) noFlags) := by
  simp only [State.portLoad, h, if_false, State.bindLoad, hop, State.corrects_peek]

theorem State.portLoad_first (h : f.size = 16) (hst : f.stage = .request) : s.portLoad id f c off =
    (s.corrects (poolAddr c off) 16).setStage id (.half (BitVec.ofNat 64 (s.peek (poolAddr c off) 8))) := by
  simp only [State.portLoad, h, if_true, hst, State.corrects_peek]

theorem State.portLoad_second {low : DWord} (hop : f.op = .load sz kd) (h : f.size = 16) (hst : f.stage = .half low) :
    s.portLoad id f c off = (s.corrects (poolAddr c off) 16).setStage id
      (.reply (BitVec.ofNat 128 (low.toNat + 2 ^ 64 * s.peek (poolAddr c (off + 8)) 8)) noFlags) := by
  simp only [State.portLoad, h, if_true, hst, State.bindLoad, hop, extendLoad_of_size_16 hop h, State.corrects_peek]

/-- A load that has come to its owning port and takes no byte of an own buffered store: it is checked there (R157). -/
theorem exec_owningPortLoad (hf : Tbl.get? s.flights id = some f) (hop : f.op = .load sz kd) (htg : s.targetOfFlight f = .pool false c off)
    (hport : f.atPort = true) (hmay : s.loadMay id f = true) (haway : s.away f.core f.launch = false)
    (hline : s.lineBusy f c off = false) (hfwd : s.forward id f = .none) :
    exec (.owningPortLoad id) s =
      if s.portOk c f.launch off f.size = false then .next ((s.deferFlight id f 0x04#8 4 off).refreshWho f)
      else if s.away c f.launch then .next (s.catchFlight c id f .caught)
      else if s.isBad (poolAddr c off) f.size then .next ((s.deferFlight id f 0x0D#8 1 off).refreshWho f)
      else .next (s.portLoad id f c off).settle := by
  show execOwningPortLoad id s = _
  simp only [execOwningPortLoad, onFlight, hf, hop, htg, hport, hmay, haway, hline, hfwd, Bool.not_true, Bool.or_self, Bool.false_eq_true,
    if_false, Bool.not_eq_true', apply_ite Host.Outcome.next]

theorem exec_owningPortLoad_performs (hf : Tbl.get? s.flights id = some f) (hop : f.op = .load sz kd)
    (htg : s.targetOfFlight f = .pool false c off) (hport : f.atPort = true) (hmay : s.loadMay id f = true)
    (haway : s.away f.core f.launch = false) (hline : s.lineBusy f c off = false) (hfwd : s.forward id f = .none)
    (hok : s.portOk c f.launch off f.size = true) (hhere : s.away c f.launch = false) (hbad : s.isBad (poolAddr c off) f.size = false) :
    exec (.owningPortLoad id) s = .next (s.portLoad id f c off).settle := by
  rw [exec_owningPortLoad hf hop htg hport hmay haway hline hfwd, if_neg (by rw [hok]; decide), if_neg (by rw [hhere]; decide),
    if_neg (by rw [hbad]; decide)]

theorem Flight.atPort_request (h : f.stage = .request) : f.atPort = true := by simp only [Flight.atPort, h]
theorem Flight.atPort_half {low : DWord} (h : f.stage = .half low) : f.atPort = true := by simp only [Flight.atPort, h]

end
end Sys2Proof.Machine

/-! An access that faults at its port: the fault waits for its micro-threads (R157, R169, R275). -/

namespace Sys2Proof.Machine

section
variable {s : State} {n id sub arg slot : Nat} {f : Flight} {code : Byte} {c : Core} {w : Who} {m : Micro}

theorem detailOf_deferred (hs : sub < 256) (ha : arg < 2 ^ 22) : detailOf true sub arg = BitVec.ofNat 32 (2 ^ 31 + sub * 2 ^ 22 + arg) := by
  rw [detailOf, Nat.mod_eq_of_lt hs, Nat.mod_eq_of_lt ha, if_pos rfl]

theorem State.targetOfFlight_off {twin : Bool} {x off : Nat} (h : s.targetOfFlight f = .pool twin x off) : off < 2 ^ 22 := by
  have hres {n : Nat} {r : Res} {ea : DWord} (h : resolveArray n r ea = some (.pool twin x off)) : off = ea22 ea := by
    unfold resolveArray at h
    dsimp only at h
    split at h
    · cases h
    · split at h
      · split at h
        · cases h
        · obtain ⟨_, -, he⟩ := Option.map_eq_some_iff.1 h
          cases he
          rfl
      · split at h
        · cases h
        · split at h <;>
          · obtain ⟨_, -, he⟩ := Option.map_eq_some_iff.1 h
            cases he
            rfl
  have hlt (ea : DWord) : ea22 ea < 2 ^ 22 := Nat.mod_lt _ (by decide)
  unfold State.targetOfFlight targetOf at h
  split at h
  case h_2 => cases h
  case h_1 r _ =>
    split at h
    case isFalse => cases h
    case isTrue =>
      cases hr : resolveArray f.core r f.ea with
      | none => rw [hr] at h; cases h
      | some t =>
        rw [hr] at h
        exact hres (hr.trans (congrArg some h)) ▸ hlt f.ea

/-- One of the micro-threads that an access serves has the slot. -/
def Who.Serves (who : List Who) (slot : Nat) : Prop := ∃ w ∈ who, w.slot = slot

theorem Core.SlotsMove.foldl_who {g : Core → Who → Core} (hg : ∀ (c : Core) w, c.SlotsMove (· = w.slot) (g c w)) (who : List Who) (c : Core) :
    c.SlotsMove (Who.Serves who) (who.foldl g c) := by
  induction who generalizing c with
  | nil => exact .refl _ c
  | cons w who ih =>
    refine .trans ((hg c w).mono fun x hx => ⟨w, List.mem_cons_self, hx.symm⟩) ((ih (g c w)).mono fun x hx => ?_)
    obtain ⟨v, hv, he⟩ := hx
    exact ⟨v, List.mem_cons_of_mem _ hv, he⟩

theorem State.foldl_modCore {α : Type} (g : α → Core → Core) (xs : List α) (s : State) :
    xs.foldl (fun t x => t.modCore n (g x)) s = s.modCore n fun c => xs.foldl (fun c x => g x c) c := by
  induction xs generalizing s with
  | nil => exact (State.modCore_id s n rfl).symm
  | cons x xs ih => rw [List.foldl_cons, ih, State.modCore_modCore]; rfl

theorem bne_eq_decide_ne (x y : Nat) : (x != y) = decide (x ≠ y) :=
  Bool.eq_iff_iff.2 (bne_iff_ne.trans decide_eq_true_iff.symm)

/-- The core whose store FIFO an entry has left. -/
def Core.without (id : Nat) (c : Core) : Core := { c with fifo := c.fifo.filter fun x => x ≠ id }

theorem State.popFifo_eq (s : State) (n id : Nat) : s.popFifo n id = s.modCore n (Core.without id) := by
  simp only [State.popFifo, bne_eq_decide_ne]
  rfl

/-- A micro-thread that an access `id` served takes its deferred fault (R169). -/
def Micro.takeDeferred (id : Nat) (i : FaultInfo) (m : Micro) : Micro :=
  if m.gen = i.gen then { m.defer i with parkedOn := m.parkedOn.filter fun x => x != id } else m

/-- The fault of an access for one of its micro-threads. -/
def Flight.faultFor (f : Flight) (id : Nat) (code : Byte) (sub arg : Nat) (w : Who) : FaultInfo :=
  deferredInfo code sub arg f.fig f.off w.gen (.access id)

/-- The micro-threads of an access take its fault, and go on or wait with it. -/
def Core.takeFaults (f : Flight) (id : Nat) (code : Byte) (sub arg : Nat) (c : Core) : Core :=
  f.who.foldl (fun c w => c.refresh w.slot)
    (f.who.foldl (fun c w => c.modMicro w.slot (Micro.takeDeferred id (f.faultFor id code sub arg w))) c)

theorem Core.takeFaults_moves (f : Flight) (id : Nat) (code : Byte) (sub arg : Nat) (c : Core) :
    c.SlotsMove (Who.Serves f.who) (c.takeFaults f id code sub arg) :=
  (SlotsMove.foldl_who (fun c w => .modMicro c w.slot (Micro.takeDeferred id (f.faultFor id code sub arg w))) f.who c).trans
    (.foldl_who (fun c w => .refresh c w.slot) f.who _)

theorem Core.takeFaults_one (hw : f.who = [w]) (hm : Tbl.get? c.slots w.slot = some m) :
    c.Touches w.slot (m.takeDeferred id (f.faultFor id code sub arg w)) (c.takeFaults f id code sub arg) := by
  have hmicro : c.micro w.slot = m := by rw [Core.micro, hm]; rfl
  rw [Core.takeFaults, hw, List.foldl_cons, List.foldl_cons, List.foldl_nil, List.foldl_nil, Core.modMicro, hmicro]
  exact (Core.touches_set c _).trans fun x hx => Core.touches_refresh hx

theorem State.deferFlight_micro (ha : f.agent = .micro) (hcode : code ≠ 0x0D#8) :
    (s.deferFlight id f code sub arg).refreshWho f =
      ((s.popFifo f.core id).setStage id .faulted).modCore f.core (Core.takeFaults f id code sub arg) := by
  have hdefer : s.deferFlight id f code sub arg = f.who.foldl (fun t w => t.modCore f.core fun c =>
      c.modMicro w.slot (Micro.takeDeferred id (f.faultFor id code sub arg w))) ((s.popFifo f.core id).setStage id .faulted) := by
    simp only [State.deferFlight, if_neg hcode, ha]
    rfl
  rw [hdefer, State.refreshWho, State.foldl_modCore, State.foldl_modCore, State.modCore_modCore]
  rfl

/-- An access of micro-threads that faults at its port is over, and its fault waits for them. -/
theorem State.deferFlight_defers (hn : f.core < 80) (hf : Tbl.get? s.flights id = some f) (ha : f.agent = .micro) (hcode : code ≠ 0x0D#8)
    (hs : sub < 256) (harg : arg < 2 ^ 22) : DefersTo id f code sub arg s ((s.deferFlight id f code sub arg).refreshWho f) := by
  rw [State.deferFlight_micro ha hcode]
  obtain ⟨t, ht⟩ : ∃ t, ((s.popFifo f.core id).setStage id .faulted).modCore f.core (Core.takeFaults f id code sub arg) = t := ⟨_, rfl⟩
  have hflights : t.flights = Tbl.modify s.flights id fun f => { f with stage := .faulted } := by
    rw [← ht, State.modCore_flights, State.setStage, State.modFlight, State.popFifo, State.modCore_flights]
  have hcore : t.core f.core = ((s.core f.core).without id).takeFaults f id code sub arg := by
    rw [← ht, State.core_modCore_self _ _ _ hn]
    refine congrArg (Core.takeFaults f id code sub arg) ?_
    change (s.popFifo f.core id).core f.core = _
    rw [State.popFifo_eq, State.core_modCore_self _ _ _ hn]
  have hmoves := Core.takeFaults_moves f id code sub arg ((s.core f.core).without id)
  have hstate : t = { s with cores := t.cores, flights := t.flights } := by
    rw [← ht, State.modCore_eq, State.setStage, State.modFlight, State.popFifo, State.modCore_eq s]
  rw [ht]
  refine ⟨?_, fun x hx => ?_, hstate, fun x hx => ?_, ?_, fun slot hslot => ?_, fun w m hw hm hg => ?_⟩
  · rw [State.flies, hflights, Tbl.get?_modify_self, hf]
    rfl
  · rw [hflights, Tbl.get?_modify_other _ _ _ _ hx]
  · rw [← ht, State.core_modCore_other _ _ _ _ hx]
    exact State.core_modCore_other _ _ _ _ hx
  · rw [hcore]
    exact hmoves.core
  · rw [State.microAt, hcore, hmoves.others slot fun ⟨w, hw, he⟩ => hslot w hw he]
    rfl
  · obtain ⟨-, -, u, hu, he⟩ := Core.takeFaults_one (c := (s.core f.core).without id) (id := id) (code := code) (sub := sub) (arg := arg) hw hm
    refine ⟨u, f.faultFor id code sub arg w, by rw [State.microAt, hcore]; exact hu, rfl, detailOf_deferred hs harg, rfl, rfl, rfl, rfl, rfl, ?_⟩
    rw [Micro.takeDeferred, if_pos (show m.gen = (f.faultFor id code sub arg w).gen from hg)] at he
    rw [he]
    simp only [Micro.defer, bne_eq_decide_ne]

end
end Sys2Proof.Machine

/-! Stores at their owning port (R157, R360, R364, R370, R371). -/

namespace Sys2Proof.Machine

/-- Only the bytes that are written of a number count. -/
theorem bytesOfNat_mod (k v : Nat) : bytesOfNat k (v % 256 ^ k) = bytesOfNat k v := by
  induction k generalizing v with
  | zero => rfl
  | succ k ih =>
    have hlow : BitVec.ofNat 8 (v % 256 ^ (k + 1)) = BitVec.ofNat 8 v := by
      apply BitVec.eq_of_toNat_eq
      rw [BitVec.toNat_ofNat, BitVec.toNat_ofNat]
      exact Nat.mod_mod_of_dvd v (Dvd.intro_left _ rfl)
    have hhigh : v % 256 ^ (k + 1) / 256 = v / 256 % 256 ^ k := by
      rw [Nat.pow_succ', Nat.mod_mul_right_div_self]
    rw [bytesOfNat, bytesOfNat, hlow, hhigh, ih]

section
variable {s u : State} {id c off bytes : Nat} {f : Flight} {kd : BitVec 2} {data : QWord}

theorem bytes_lowHalf (data : QWord) : bytesOfNat 8 (data.extractLsb' 0 64).toNat = bytesOfNat 8 data.toNat := by
  rw [BitVec.extractLsb'_toNat, Nat.shiftRight_zero]
  exact bytesOfNat_mod 8 data.toNat

theorem bytes_highHalf (data : QWord) : (data.extractLsb' 64 64).toNat = data.toNat / 2 ^ 64 := by
  rw [BitVec.extractLsb'_toNat, Nat.shiftRight_eq_div_pow, Nat.mod_eq_of_lt (by have := data.isLt; omega)]

/-! The trace. -/

/-- Writes of the access to the core are not traced (R370): the ring is off, or the core is its own. -/
def State.Untraced (s : State) (f : Flight) (c : Nat) : Prop := (s.core c).traceEn = false ∨ f.core = c

theorem State.not_untraced_iff : ¬ s.Untraced f c ↔ (s.core c).traceEn = true ∧ f.core ≠ c := by
  rw [State.Untraced, not_or, Bool.not_eq_false]

theorem State.trace_off (h : (s.core c).traceEn = false) (t : Tracer) (off k v : Nat) : s.trace c t off k v = s := by
  simp only [State.trace, h, Bool.false_eq_true, if_false]

theorem State.tracerOf_own (h : f.core = c) : s.tracerOf f c = none := if_pos h

theorem State.portWrite_untraced (h : s.Untraced f c) (off k v : Nat) :
    s.portWrite c off k v (u.tracerOf f c) = s.poke (poolAddr c off) k v := by
  rcases h with h | h
  · cases ht : u.tracerOf f c with
    | none => rfl
    | some t => exact State.trace_off (s := s.poke (poolAddr c off) k v) h t off k v
  · rw [State.tracerOf_own h]
    rfl

/-- The next trace entry of a core, for a write of so many bytes (R371). -/
def State.traceEntry (s : State) (c : Nat) (tr : Tracer) (off bytes v : Nat) : List Byte :=
  bytesOfNat 4 (s.core c).traceSeq.toNat ++ bytesOfNat 2 tr.src ++ [BitVec.ofNat 8 tr.kind, BitVec.ofNat 8 (Nat.log2 bytes)] ++
    bytesOfNat 4 off ++ bytesOfNat 4 (v % 2 ^ 32)

/-- Where the next trace entry of a core goes (R370). -/
def State.traceSlot (s : State) (c : Nat) : Nat := poolAddr c ((s.core c).traceRing + 16 * ((s.core c).traceSeq.toNat % 1024))

theorem State.tracerOf_other (h : f.core ≠ c) : ∃ tr, s.tracerOf f c = some tr := ⟨_, if_neg h⟩

theorem State.tracerOf_store (hop : f.op = .store bytes kd data) (ha : f.agent = .micro) (hc : f.core ≠ c) :
    s.tracerOf f c = some ⟨s.coreWord f.core, 1⟩ := by simp only [State.tracerOf, if_neg hc, ha, hop]

theorem State.portWrite_traced (ht : (s.core c).traceEn = true) (tr : Tracer) (k v : Nat) :
    s.portWrite c off k v (some tr) =
      ((s.poke (poolAddr c off) k v).write (s.traceSlot c) (s.traceEntry c tr off k v)).modCore c
        fun x => { x with traceSeq := x.traceSeq + 1#32 } := by
  have hcore : (s.poke (poolAddr c off) k v).core c = s.core c := rfl
  simp only [State.portWrite, State.trace, hcore, ht, if_true]
  rfl

/-! The store. -/

/-- A store that has come to its owning port and is in order there is performed. -/
theorem exec_owningPortStore (hf : Tbl.get? s.flights id = some f) (hop : f.op = .store bytes kd data)
    (htg : s.targetOfFlight f = .pool false c off) (hport : f.atPort = true) (hfifo : s.inFifo f.core id = false)
    (hline : s.lineBusy f c off = false) (hok : s.portOk c f.launch off bytes = true) (hhere : s.away c f.launch = false)
    (hbad : bytes < 4 → s.isBad (poolAddr c off) bytes = false) :
    exec (.owningPortStore id) s =
      let p := (s.corrects (poolAddr c off) bytes).portStore id f c off bytes data
      .next (if p.2 then (p.1.setStage id .acked).settle else p.1) := by
  have hb : (decide (bytes < 4) && s.isBad (poolAddr c off) bytes) = false := by
    by_cases h : bytes < 4
    · rw [hbad h, Bool.and_false]
    · rw [decide_eq_false h, Bool.false_and]
  show execOwningPortStore id s = _
  simp only [execOwningPortStore, onFlight, hf, hop, htg, hport, hfifo, hline, hok, hhere, hb, Bool.not_true, Bool.or_self,
    Bool.false_eq_true, if_false]

theorem State.portStore_whole (h : bytes ≠ 16) :
    s.portStore id f c off bytes data = (s.portWrite c off bytes data.toNat (s.tracerOf f c), true) := if_neg h

theorem State.portStore_first (h : s.Untraced f c) (hst : ∀ low, f.stage ≠ .half low) : s.portStore id f c off 16 data =
    ((s.poke (poolAddr c off) 8 (data.extractLsb' 0 64).toNat).setStage id (.half 0#64), false) := by
  unfold State.portStore
  rw [if_pos rfl]
  split
  case h_1 low e => exact absurd e (hst low)
  case h_2 =>
    rcases h with h | h
    · cases s.tracerOf f c with
      | none => rfl
      | some t =>
        exact congrArg (fun x : State => (x.setStage id (.half 0#64), false))
          (State.trace_off (s := s.poke (poolAddr c off) 8 (data.extractLsb' 0 64).toNat) h t off 16 data.toNat)
    · rw [State.tracerOf_own h]
      rfl

theorem State.portStore_second {low : DWord} (hst : f.stage = .half low) : s.portStore id f c off 16 data =
    (s.poke (poolAddr c (off + 8)) 8 (data.toNat / 2 ^ 64), true) := by
  simp only [State.portStore, if_true, hst, bytes_highHalf]
  rfl

/-- Bytes are written, the access goes on to a stage, and fences may end. -/
theorem Answers.of_written {i : Instr} {w : State} {st : Stage} (hs : s.Sound) (hf : Tbl.get? s.flights id = some f)
    (hfence : f.isFence = false) (hst : st.Stays) (hw : WritesBeside s w) (he : exec i s = .next (w.setStage id st).settle) :
    Answers i s fun t => t.flies id f st ∧ Performs id s t ∧ t.mem = w.mem ∧ t.cores = w.cores := by
  obtain ⟨-, -, -, hsorted, -⟩ := hs
  have hwsorted : Tbl.sorted w.flights = true := by rw [hw.flights]; exact hsorted
  have hbut : FlightsBut id s (w.setStage id st) := .setStage hw.flights st
  refine ⟨_, he, ?_, (Performs.of_writes hw rfl hbut).settle hbut hsorted, State.settle_mem (hbut.sorted hsorted),
    State.settle_cores (hbut.sorted hsorted)⟩
  exact State.flies_setStage_settle hwsorted (by rw [hw.flights]; exact hf) hfence hst

theorem State.Untraced.corrects (h : s.Untraced f c) (pa len : Nat) : (s.corrects pa len).Untraced f c := by
  rw [State.Untraced, State.core, (s.corrects_only pa len).1]
  exact h

theorem State.corrects_mem (s : State) (pa len : Nat) : (s.corrects pa len).mem = s.mem := by rw [(s.corrects_only pa len).1]
theorem State.corrects_cores (s : State) (pa len : Nat) : (s.corrects pa len).cores = s.cores := by rw [(s.corrects_only pa len).1]
theorem State.corrects_core (s : State) (pa len n : Nat) : (s.corrects pa len).core n = s.core n := by
  rw [State.core, State.corrects_cores, State.core]

theorem State.correctsPoke_mem (s : State) (pa len a k v : Nat) :
    ((s.corrects pa len).poke a k v).mem = Memory.writeN s.mem a (bytesOfNat k v) :=
  congrArg (Memory.writeN · a (bytesOfNat k v)) (State.corrects_mem s pa len)

/-! What each store leaves. -/

section
variable (hs : s.Sound) (hf : Tbl.get? s.flights id = some f) (hop : f.op = .store bytes kd data)
  (htg : s.targetOfFlight f = .pool false c off) (hfifo : s.inFifo f.core id = false) (hline : s.lineBusy f c off = false)
  (hok : s.portOk c f.launch off bytes = true) (hhere : s.away c f.launch = false)
include hs hf hop htg hfifo hline hok hhere

theorem owningPortStore_untraced (hst : f.stage = .request) (h16 : bytes ≠ 16) (hbad : bytes < 4 → s.isBad (poolAddr c off) bytes = false)
    (hu : s.Untraced f c) : Answers (.owningPortStore id) s fun t =>
      t.flies id f .acked ∧ Performs id s t ∧ t.mem = Memory.writeN s.mem (poolAddr c off) (bytesOfNat bytes data.toNat) ∧
        t.cores = s.cores := by
  have he := exec_owningPortStore hf hop htg (Flight.atPort_request hst) hfifo hline hok hhere hbad
  rw [State.portStore_whole h16, State.portWrite_untraced (State.Untraced.corrects hu _ _)] at he
  obtain ⟨t, ht, hfl, hp, hmem, hcores⟩ := Answers.of_written hs hf (Flight.not_fence_of_store hop) Stage.acked_stays
    (WritesBeside.correctsPoke s (poolAddr c off) bytes (poolAddr c off) bytes data.toNat) he
  exact ⟨t, ht, hfl, hp, hmem.trans (State.correctsPoke_mem ..), hcores.trans (State.corrects_cores ..)⟩

theorem owningPortStore_traced (hst : f.stage = .request) (h16 : bytes ≠ 16) (hbad : bytes < 4 → s.isBad (poolAddr c off) bytes = false)
    {tr : Tracer} (htr : s.tracerOf f c = some tr) (hn : c < 80) (hen : (s.core c).traceEn = true) : Answers (.owningPortStore id) s fun t =>
      t.flies id f .acked ∧ Performs id s t ∧
        t.mem = Memory.writeN (Memory.writeN s.mem (poolAddr c off) (bytesOfNat bytes data.toNat)) (s.traceSlot c)
          (s.traceEntry c tr off bytes data.toNat) ∧
        t.core c = { s.core c with traceSeq := (s.core c).traceSeq + 1#32 } ∧ ∀ x, x ≠ c → t.core x = s.core x := by
  have he := exec_owningPortStore hf hop htg (Flight.atPort_request hst) hfifo hline hok hhere hbad
  have hcore (n : Nat) := State.corrects_core s (poolAddr c off) bytes n
  have hslot : (s.corrects (poolAddr c off) bytes).traceSlot c = s.traceSlot c := by rw [State.traceSlot, hcore, State.traceSlot]
  have hentry : (s.corrects (poolAddr c off) bytes).traceEntry c tr off bytes data.toNat = s.traceEntry c tr off bytes data.toNat := by
    rw [State.traceEntry, hcore, State.traceEntry]
  have htracer : (s.corrects (poolAddr c off) bytes).tracerOf f c = some tr := by
    rw [(s.corrects_only _ _).1]
    exact htr
  rw [State.portStore_whole h16, htracer, State.portWrite_traced ((congrArg Core.traceEn (hcore c)).trans hen), hslot, hentry] at he
  obtain ⟨t, ht, hfl, hp, hmem, hcores⟩ := Answers.of_written hs hf (Flight.not_fence_of_store hop) Stage.acked_stays
    ((WritesBeside.correctsPoke s (poolAddr c off) bytes (poolAddr c off) bytes data.toNat).trans (.trans (.write _ _ _) (.modCore _ _ _))) he
  refine ⟨t, ht, hfl, hp, ?_, ?_, fun x hx => ?_⟩
  · rw [hmem, State.modCore_mem]
    exact congrArg (Memory.writeN · _ _) (State.correctsPoke_mem ..)
  · rw [State.core, hcores, ← State.core, State.core_modCore_self _ _ _ hn, State.core_write, State.core_poke, hcore]
  · rw [State.core, hcores, ← State.core, State.core_modCore_other _ _ _ _ hx, State.core_write, State.core_poke, hcore]

omit hs in
theorem owningPortStore_first (h16 : bytes = 16) (hst : f.stage = .request) (hu : s.Untraced f c) : Answers (.owningPortStore id) s fun t =>
    t.flies id f (.half 0#64) ∧ Performs id s t ∧ t.cores = s.cores ∧
      t.mem = Memory.writeN s.mem (poolAddr c off) (bytesOfNat 8 data.toNat) := by
  subst h16
  have he := exec_owningPortStore hf hop htg (Flight.atPort_request hst) hfifo hline hok hhere (by omega)
  rw [State.portStore_first (State.Untraced.corrects hu _ _) (by rw [hst]; exact fun _ h => by cases h)] at he
  have hw := WritesBeside.correctsPoke s (poolAddr c off) 16 (poolAddr c off) 8 (data.extractLsb' 0 64).toNat
  exact ⟨_, he, State.flies_setStage (by rw [hw.flights]; exact hf), .of_writes hw rfl (.setStage hw.flights _), State.corrects_cores ..,
    (State.correctsPoke_mem ..).trans (congrArg _ (bytes_lowHalf data))⟩

theorem owningPortStore_second {low : DWord} (h16 : bytes = 16) (hst : f.stage = .half low) : Answers (.owningPortStore id) s fun t =>
    t.flies id f .acked ∧ Performs id s t ∧ t.cores = s.cores ∧
      t.mem = Memory.writeN s.mem (poolAddr c (off + 8)) (bytesOfNat 8 (data.toNat / 2 ^ 64)) := by
  subst h16
  have he := exec_owningPortStore hf hop htg (Flight.atPort_half hst) hfifo hline hok hhere (by omega)
  rw [State.portStore_second hst] at he
  obtain ⟨t, ht, hfl, hp, hmem, hcores⟩ := Answers.of_written hs hf (Flight.not_fence_of_store hop) Stage.acked_stays
    (WritesBeside.correctsPoke s (poolAddr c off) 16 (poolAddr c (off + 8)) 8 (data.toNat / 2 ^ 64)) he
  exact ⟨t, ht, hfl, hp, hcores.trans (State.corrects_cores ..), hmem.trans (State.correctsPoke_mem ..)⟩

end

end
end Sys2Proof.Machine

/-! Atomics at their owning port (R157, R163, R164). -/

namespace Sys2Proof.Machine

section
variable {s u : State} {id c off : Nat} {f : Flight} {f7 : BitVec 7} {b : QWord}

theorem State.atomicAt_atomic (hop : f.op = .atomic f7 b) (pa : Nat) : s.atomicAt f pa =
    (BitVec.ofNat 128 (s.peek pa f.size), (atomResult f7 (s.peek pa f.size) b).2, some (atomResult f7 (s.peek pa f.size) b).1) := by
  simp only [State.atomicAt, hop, atomicReply]

theorem State.endReservation_atomic (hop : f.op = .atomic f7 b) : s.endReservation f = s := by simp only [State.endReservation, hop]

/-- An atomic performed at a port, where its write is not traced. -/
theorem State.portAtomic_untraced (hop : f.op = .atomic f7 b) (hu : s.Untraced f c) : s.portAtomic id f c off =
    ((s.corrects (poolAddr c off) f.size).poke (poolAddr c off) f.size (atomResult f7 (s.peek (poolAddr c off) f.size) b).1).setStage id
      (.reply (BitVec.ofNat 128 (s.peek (poolAddr c off) f.size)) (atomResult f7 (s.peek (poolAddr c off) f.size) b).2) := by
  simp only [State.portAtomic, State.atomicAt_atomic hop, State.portWrite_untraced (State.Untraced.corrects hu _ _),
    State.endReservation_atomic hop]

/-- An atomic that has come to its owning port is checked there. -/
theorem exec_owningPortAtomic (hf : Tbl.get? s.flights id = some f) (ha : f.isAtomic = true) (hst : f.stage = .request)
    (htg : s.targetOfFlight f = .pool false c off) (hline : s.lineBusy f c off = false) :
    exec (.owningPortAtomic id) s =
      if s.portOk c f.launch off f.size = false then .next ((s.deferFlight id f 0x04#8 4 off).refreshWho f)
      else if s.away c f.launch then .next (s.catchFlight c id f .caught)
      else if s.isBad (poolAddr c off) f.size then .next ((s.deferFlight id f 0x0D#8 1 off).refreshWho f)
      else .next (s.portAtomic id f c off).settle := by
  show execOwningPortAtomic id s = _
  simp only [execOwningPortAtomic, onFlight, hf, ha, hst, htg, hline, Bool.not_true, Bool.or_self, Bool.false_eq_true, if_false,
    Bool.not_eq_true', apply_ite Host.Outcome.next]

theorem owningPortAtomic_untraced (hs : s.Sound) (hf : Tbl.get? s.flights id = some f) (hop : f.op = .atomic f7 b) (hst : f.stage = .request)
    (htg : s.targetOfFlight f = .pool false c off) (hline : s.lineBusy f c off = false) (hok : s.portOk c f.launch off f.size = true)
    (hhere : s.away c f.launch = false) (hbad : s.isBad (poolAddr c off) f.size = false) (hu : s.Untraced f c) :
    Answers (.owningPortAtomic id) s fun t =>
      t.flies id f (.reply (BitVec.ofNat 128 (s.peek (poolAddr c off) f.size)) (atomResult f7 (s.peek (poolAddr c off) f.size) b).2) ∧
        Performs id s t ∧ t.cores = s.cores ∧
        t.mem = Memory.writeN s.mem (poolAddr c off) (bytesOfNat f.size (atomResult f7 (s.peek (poolAddr c off) f.size) b).1) := by
  have he := exec_owningPortAtomic hf (by simp only [Flight.isAtomic, hop]) hst htg hline
  rw [if_neg (by rw [hok]; decide), if_neg (by rw [hhere]; decide), if_neg (by rw [hbad]; decide), State.portAtomic_untraced hop hu] at he
  obtain ⟨t, ht, hfl, hp, hmem, hcores⟩ := Answers.of_written hs hf (Flight.not_fence_of_atomic hop) (Stage.reply_stays _ _)
    (WritesBeside.correctsPoke s _ _ _ _ _) he
  exact ⟨t, ht, hfl, hp, hcores.trans (State.corrects_cores ..), hmem.trans (State.correctsPoke_mem ..)⟩

theorem owningPortAtomic_defers (hf : Tbl.get? s.flights id = some f) (ha : f.isAtomic = true) (hst : f.stage = .request)
    (htg : s.targetOfFlight f = .pool false c off) (hline : s.lineBusy f c off = false) (hok : s.portOk c f.launch off f.size = false)
    (hn : f.core < 80) (hagent : f.agent = .micro) : Answers (.owningPortAtomic id) s fun t => DefersTo id f 0x04#8 4 off s t :=
  ⟨_, (exec_owningPortAtomic hf ha hst htg hline).trans (if_pos hok),
    State.deferFlight_defers hn hf hagent (by decide) (by decide) (State.targetOfFlight_off htg)⟩

end
end Sys2Proof.Machine

/-! The oldest entry leaves a store FIFO (R164, R270, R329, R353, R360). -/

namespace Sys2Proof.Machine

section
variable {s t u w : State} {n id off bytes : Nat} {rest : List Nat} {f : Flight} {kd : BitVec 2} {data : QWord}

/-- The oldest entry, where nothing holds it, leaves by its kind. -/
theorem exec_storeFifoExit (hfifo : (s.core n).fifo = id :: rest) (hf : Tbl.get? s.flights id = some f) (haway : s.away n f.launch = false)
    (hpark : f.stage ≠ .parked) (hheld : s.held id f = false) (hopen : s.loadsOpen id f = false) :
    exec (.storeFifoExit n) s = .next (s.exitEntry n id f) := by
  show execStoreFifoExit n s = _
  simp only [execStoreFifoExit, hfifo, hf, haway, hpark, hheld, hopen, Bool.and_false, Bool.or_self, Bool.false_eq_true, if_false,
    decide_false]

theorem Core.without_head {c : Core} (h : c.fifo = id :: rest) : c.without id = { c with fifo := rest.filter fun x => x ≠ id } := by
  rw [Core.without, h, List.filter_cons_of_neg (by simp)]

/-- What the exit of the oldest entry leaves of the cores. -/
def State.HeadLeft (n id : Nat) (rest : List Nat) (s t : State) : Prop :=
  t.core n = { s.core n with fifo := rest.filter fun x => x ≠ id } ∧ ∀ x, x ≠ n → t.core x = s.core x

theorem State.HeadLeft.of_cores (hn : n < 80) (hfifo : (s.core n).fifo = id :: rest) (h : t.cores = (u.popFifo n id).cores)
    (hu : u.cores = s.cores) : State.HeadLeft n id rest s t := by
  have hcore (x : Nat) : u.core x = s.core x := by rw [State.core, hu, State.core]
  have ht (x : Nat) : t.core x = (u.modCore n (Core.without id)).core x := by rw [State.core, h, ← State.core, State.popFifo_eq]
  refine ⟨?_, fun x hx => ?_⟩
  · rw [ht, State.core_modCore_self _ _ _ hn, hcore, Core.without_head hfifo]
  · rw [ht, State.core_modCore_other _ _ _ _ hx, hcore]

/-! Own stores. -/

theorem State.exitStore_own (htg : s.targetOfFlight f = .pool false n off) (hok : s.portOk n f.launch off bytes = true)
    (hbad : bytes < 4 → s.isBad (poolAddr n off) bytes = false) : s.exitStore n id f bytes data =
      let p := (s.corrects (poolAddr n off) bytes).portStore id f n off bytes data
      if p.2 then ((p.1.popFifo n id).dropFlight id).settle else p.1 := by
  have hb : (decide (bytes < 4) && s.isBad (poolAddr n off) bytes) = false := by
    by_cases h : bytes < 4
    · rw [hbad h, Bool.and_false]
    · rw [decide_eq_false h, Bool.false_and]
  simp only [State.exitStore, htg, hok, hb, ne_eq, not_true_eq_false, if_false, Bool.not_true, Bool.false_eq_true]

/-- A store of the own pool is performed and its entry is gone, and fences may end. -/
theorem Answers.of_left {i : Instr} (hs : s.Sound) (hn : n < 80) (hfifo : (s.core n).fifo = id :: rest) (hw : WritesBeside s w)
    (hwc : w.cores = s.cores) (he : exec i s = .next ((w.popFifo n id).dropFlight id).settle) : Answers i s fun t =>
      t.mem = w.mem ∧ Tbl.get? t.flights id = none ∧ State.HeadLeft n id rest s t ∧ Performs id s t := by
  obtain ⟨-, -, -, hsorted, -⟩ := hs
  have hpop : WritesBeside s (w.popFifo n id) := hw.trans (.modCore _ _ _)
  have hbut : FlightsBut id s ((w.popFifo n id).dropFlight id) := .dropFlight hpop.flights
  have hgone : Tbl.get? ((w.popFifo n id).dropFlight id).flights id = none := by
    rw [State.dropFlight]
    exact Tbl.get?_erase_self _ _ (by rw [hpop.flights]; exact hsorted)
  refine ⟨_, he, ?_, (State.settle_settles (hbut.sorted hsorted)).gone hgone, .of_cores hn hfifo ?_ hwc,
    (Performs.of_writes hpop rfl hbut).settle hbut hsorted⟩
  · rw [State.settle_mem (hbut.sorted hsorted)]
    exact State.modCore_mem ..
  · exact State.settle_cores (hbut.sorted hsorted)

section
variable (hn : n < 80) (hf : Tbl.get? s.flights id = some f) (hc : f.core = n) (hfifo : (s.core n).fifo = id :: rest)
  (haway : s.away n f.launch = false) (hpark : f.stage ≠ .parked) (hheld : s.held id f = false) (hopen : s.loadsOpen id f = false)
include hf hfifo haway hpark hheld hopen

theorem exec_exitStore (hop : f.op = .store bytes kd data) : exec (.storeFifoExit n) s = .next (s.exitStore n id f bytes data) := by
  rw [exec_storeFifoExit hfifo hf haway hpark hheld hopen]
  simp only [State.exitEntry, hop]

theorem exec_exitAtomic (ha : f.isAtomic = true) : exec (.storeFifoExit n) s = .next (s.exitAtomic n id f) := by
  rw [exec_storeFifoExit hfifo hf haway hpark hheld hopen]
  unfold Flight.isAtomic at ha
  split at ha
  case h_1 e => simp only [State.exitEntry, e]
  case h_2 e => simp only [State.exitEntry, e]
  case h_3 e => simp only [State.exitEntry, e]
  case h_4 => cases ha

variable (hop : f.op = .store bytes kd data) (htg : s.targetOfFlight f = .pool false n off) (hok : s.portOk n f.launch off bytes = true)
include hop htg hok hc

theorem storeFifoExit_own (hs : s.Sound) (hn : n < 80) (h16 : bytes ≠ 16) (hbad : bytes < 4 → s.isBad (poolAddr n off) bytes = false) :
    Answers (.storeFifoExit n) s fun t =>
      t.mem = Memory.writeN s.mem (poolAddr n off) (bytesOfNat bytes data.toNat) ∧ Tbl.get? t.flights id = none ∧
        State.HeadLeft n id rest s t ∧ Performs id s t := by
  have he := exec_exitStore hf hfifo haway hpark hheld hopen hop
  rw [State.exitStore_own htg hok hbad, State.portStore_whole h16, State.portWrite_untraced (.inr hc)] at he
  obtain ⟨t, ht, hmem, hrest⟩ := Answers.of_left hs hn hfifo (WritesBeside.correctsPoke s _ _ _ _ _) (State.corrects_cores ..) he
  exact ⟨t, ht, hmem.trans (State.correctsPoke_mem ..), hrest⟩

theorem storeFifoExit_first (h16 : bytes = 16) (hst : ∀ low, f.stage ≠ .half low) : Answers (.storeFifoExit n) s fun t =>
    t.mem = Memory.writeN s.mem (poolAddr n off) (bytesOfNat 8 data.toNat) ∧ t.flies id f (.half 0#64) ∧ t.cores = s.cores ∧
      Performs id s t := by
  subst h16
  have he := exec_exitStore hf hfifo haway hpark hheld hopen hop
  rw [State.exitStore_own htg hok (by omega), State.portStore_first (.inr hc) hst] at he
  have hw := WritesBeside.correctsPoke s (poolAddr n off) 16 (poolAddr n off) 8 (data.extractLsb' 0 64).toNat
  exact ⟨_, he, (State.correctsPoke_mem ..).trans (congrArg _ (bytes_lowHalf data)), State.flies_setStage (by rw [hw.flights]; exact hf),
    State.corrects_cores .., .of_writes hw rfl (.setStage hw.flights _)⟩

omit hc in
theorem storeFifoExit_second {low : DWord} (hs : s.Sound) (hn : n < 80) (h16 : bytes = 16) (hst : f.stage = .half low) :
    Answers (.storeFifoExit n) s fun t =>
      t.mem = Memory.writeN s.mem (poolAddr n (off + 8)) (bytesOfNat 8 (data.toNat / 2 ^ 64)) ∧ Tbl.get? t.flights id = none ∧
        State.HeadLeft n id rest s t ∧ Performs id s t := by
  subst h16
  have he := exec_exitStore hf hfifo haway hpark hheld hopen hop
  rw [State.exitStore_own htg hok (by omega), State.portStore_second hst] at he
  obtain ⟨t, ht, hmem, hrest⟩ := Answers.of_left hs hn hfifo (WritesBeside.correctsPoke s _ _ _ _ _) (State.corrects_cores ..) he
  exact ⟨t, ht, hmem.trans (State.correctsPoke_mem ..), hrest⟩

end

end
end Sys2Proof.Machine

/-! Entries of a store FIFO for another core's pool, and the atomics of the own one (R164, R353). -/

namespace Sys2Proof.Machine

section
variable {s t u : State} {n id c off : Nat} {rest : List Nat} {f : Flight} {st : Stage}

/-- An access that is sent on changes no memory. -/
theorem OnlyFlightsMem.of_state (hu : t = { s with cores := t.cores, flights := t.flights, nextId := t.nextId }) (hf : FlightsBut id s t) :
    OnlyFlightsMem id s { t with cores := s.cores, nextId := s.nextId } := by
  have hw : OnlyWrites s s := .refl s
  have hx : { t with flights := s.flights, clusters := s.clusters, cores := s.cores, nextId := s.nextId } = s := by rw [hu]
  have hc : t.clusters = s.clusters := by rw [hu]
  refine ⟨?_, .of_clusters hc, hf.settlesFlights, fun _ => rfl⟩
  change OnlyWrites s { t with flights := s.flights, clusters := s.clusters, cores := s.cores, nextId := s.nextId }
  rw [hx]
  exact hw

theorem State.get?_sendOn (hf : Tbl.get? s.flights id = some f) :
    Tbl.get? (s.sendOn id st).flights id = some { f with stage := st, sent := s.nextId } := by
  rw [State.sendOn, Tbl.get?_modify_self, hf]
  rfl

theorem State.exitAtomic_remote (htg : s.targetOfFlight f = .pool false c off) (hc : c ≠ n) :
    s.exitAtomic n id f = s.sendRequest n id := by
  simp only [State.exitAtomic, htg, ne_eq, hc, not_false_eq_true, if_true]

theorem State.exitStore_remote {bytes : Nat} {data : QWord} (htg : s.targetOfFlight f = .pool false c off) (hc : c ≠ n) :
    s.exitStore n id f bytes data = s.sendRequest n id := by
  simp only [State.exitStore, htg, ne_eq, hc, not_false_eq_true, if_true]

theorem Flight.isStore_iff : f.isStore = true ↔ ∃ bytes kd data, f.op = .store bytes kd data := by
  unfold Flight.isStore
  split
  case h_1 bytes kd data e => exact ⟨fun _ => ⟨bytes, kd, data, e⟩, fun _ => rfl⟩
  case h_2 h => exact ⟨fun e => (Bool.false_ne_true e).elim, fun ⟨bytes, kd, data, e⟩ => (h _ _ _ e).elim⟩

section
variable (hf : Tbl.get? s.flights id = some f) (hfifo : (s.core n).fifo = id :: rest) (haway : s.away n f.launch = false)
  (hpark : f.stage ≠ .parked) (hheld : s.held id f = false) (hopen : s.loadsOpen id f = false)
include hf hfifo haway hpark hheld hopen

theorem storeFifoExit_remote (hn : n < 80) (hop : f.isStore = true ∨ f.isAtomic = true) (htg : s.targetOfFlight f = .pool false c off)
    (hc : c ≠ n) : Answers (.storeFifoExit n) s fun t =>
      Tbl.get? t.flights id = some { f with stage := .request, sent := s.nextId } ∧ t.nextId = s.nextId + 1 ∧ t.mem = s.mem ∧
        t.clusters = s.clusters ∧ State.HeadLeft n id rest s t ∧ OnlyFlightsMem id s { t with cores := s.cores, nextId := s.nextId } := by
  have he : exec (.storeFifoExit n) s = .next (s.sendRequest n id) := by
    rcases hop with h | h
    · obtain ⟨bytes, kd, data, hop⟩ := Flight.isStore_iff.1 h
      rw [exec_exitStore hf hfifo haway hpark hheld hopen hop, State.exitStore_remote htg hc]
    · rw [exec_exitAtomic hf hfifo haway hpark hheld hopen h, State.exitAtomic_remote htg hc]
  have hstate : s.popFifo n id = { s with cores := (s.popFifo n id).cores } := State.modCore_eq ..
  have hflights : (s.popFifo n id).flights = s.flights := State.modCore_flights ..
  have hnext : (s.popFifo n id).nextId = s.nextId := State.modCore_nextId ..
  refine ⟨_, he, ?_, congrArg (· + 1) hnext, State.modCore_mem .., State.modCore_clusters .., .of_cores hn hfifo rfl rfl,
    .of_state ?_ (.modify (fun f => { f with stage := .request, sent := s.nextId }) ?_)⟩
  · rw [State.sendRequest, State.get?_sendOn (by rw [hflights]; exact hf), hnext]
  · rw [State.sendRequest, State.sendOn, hstate]
  · rw [State.sendRequest, State.sendOn, hnext, hflights]

theorem storeFifoExit_atomic {f7 : BitVec 7} {b : QWord} (hs : s.Sound) (hn : n < 80) (hc : f.core = n) (hop : f.op = .atomic f7 b)
    (htg : s.targetOfFlight f = .pool false n off) (hok : s.portOk n f.launch off f.size = true)
    (hbad : s.isBad (poolAddr n off) f.size = false) : Answers (.storeFifoExit n) s fun t =>
      t.flies id f (.reply (BitVec.ofNat 128 (s.peek (poolAddr n off) f.size)) (atomResult f7 (s.peek (poolAddr n off) f.size) b).2) ∧
        t.mem = Memory.writeN s.mem (poolAddr n off) (bytesOfNat f.size (atomResult f7 (s.peek (poolAddr n off) f.size) b).1) ∧
        State.HeadLeft n id rest s t ∧ Performs id s t := by
  have hpeek : (s.popFifo n id).peek (poolAddr n off) f.size = s.peek (poolAddr n off) f.size :=
    congrArg (fun m => natOfBytes (Memory.readN m (poolAddr n off) f.size)) (State.modCore_mem ..)
  have he := exec_exitAtomic hf hfifo haway hpark hheld hopen (by simp only [Flight.isAtomic, hop])
  have hexit : s.exitAtomic n id f = ((s.popFifo n id).portAtomic id f n off).settle := by
    simp only [State.exitAtomic, htg, hok, hbad, ne_eq, not_true_eq_false, if_false, Bool.not_true, Bool.false_eq_true]
  rw [hexit, State.portAtomic_untraced hop (.inr hc), hpeek] at he
  obtain ⟨t, ht, hfl, hp, hmem, hcores⟩ := Answers.of_written hs hf (Flight.not_fence_of_atomic hop) (Stage.reply_stays _ _)
    ((WritesBeside.modCore s n _).trans (WritesBeside.correctsPoke _ _ _ _ _ _)) he
  refine ⟨t, ht, hfl, ?_, .of_cores hn hfifo (hcores.trans (State.corrects_cores ..)) rfl, hp⟩
  rw [hmem, State.correctsPoke_mem, State.modCore_mem]

end

end
end Sys2Proof.Machine

/-! Entries of a store FIFO for G7 memory enter their cluster's write-through buffer (R164, R329). -/

namespace Sys2Proof.Machine

section
variable {s t u b : State} {n id cl pa va asid vline bytes v : Nat} {cc : Bool} {rest : List Nat} {f : Flight}

theorem State.popFifo_asidOf (s : State) (n id x l : Nat) : (s.popFifo n id).asidOf x l = s.asidOf x l := by
  have hres : (s.popFifo n id).res? x l = s.res? x l := by
    rw [State.popFifo_eq, State.res?, State.res?]
    by_cases hn : n < 80
    · rw [State.core_modCore _ _ _ _ hn]
      split
      · subst_vars
        rfl
      · rfl
    · rw [State.modCore_out _ _ _ (by omega)]
  rw [State.asidOf, hres, State.asidOf]

/-- What the entry of an access into the write-through buffer leaves, its cluster's lines aside. -/
structure BufferEntered (n id : Nat) (f : Flight) (pa : Nat) (cc : Bool) (s t : State) : Prop where
  own : Tbl.get? t.flights id = some { f with stage := .home pa cc, sent := s.nextId }
  state : t = { s with cores := t.cores, clusters := t.clusters, flights := t.flights, nextId := s.nextId + 1 }
  cores : t.cores = (s.popFifo n id).cores
  buffer : (t.cluster (clusterOf n)).wtb = (s.cluster (clusterOf n)).wtb ++ [id]
  clusters : ∀ k, k ≠ clusterOf n → (t.cluster k).wtb = (s.cluster k).wtb ∧ ∀ x ∈ (t.cluster k).lines, x ∈ (s.cluster k).lines
  others : ∀ x g, x ≠ id → Tbl.get? s.flights x = some g → g.isFence = false →
    ∃ u, Tbl.get? t.flights x = some u ∧ u = { g with stage := u.stage }
  sorted : Tbl.sorted s.flights = true → Tbl.sorted t.flights = true

theorem BufferEntered.settle (h : BufferEntered n id f pa cc s t) (hs : Tbl.sorted s.flights = true) (hl : f.isLoad = false)
    (hfence : f.isFence = false) : BufferEntered n id f pa cc s t.settle := by
  have hset := State.settle_settles (h.sorted hs)
  refine ⟨?_, ?_, ?_, ?_, fun k hk => ?_, fun x g hx hg hgf => ?_, fun _ => hset.sorted (h.sorted hs)⟩
  · rw [State.settle_get? (h.sorted hs) h.own hl]
    exact if_neg fun hd => Bool.false_ne_true (hfence.symm.trans (State.fenceDone_isFence hd))
  · rw [hset.state, h.state]
  · rw [hset.state]
    exact h.cores
  · rw [(hset.drops _).1]
    exact h.buffer
  · rw [(hset.drops _).1]
    exact ⟨(h.clusters k hk).1, fun x hx => (h.clusters k hk).2 x ((hset.drops k).2 x hx)⟩
  · obtain ⟨u, hu, he⟩ := h.others x g hx hg hgf
    obtain ⟨w, hw, he', -⟩ := hset.keeps x u hu (by rw [he]; exact hgf)
    exact ⟨w, hw, by rw [he', he]⟩

theorem BufferEntered.nextId (h : BufferEntered n id f pa cc s t) : t.nextId = s.nextId + 1 := by rw [h.state]

theorem BufferEntered.frame (h : BufferEntered n id f pa cc s t) :
    t = { s with cores := t.cores, clusters := t.clusters, flights := t.flights, nextId := t.nextId } := by
  rw [h.nextId]
  exact h.state

theorem BufferEntered.headLeft (h : BufferEntered n id f pa cc s t) (hn : n < 80) (hfifo : (s.core n).fifo = id :: rest) :
    State.HeadLeft n id rest s t := .of_cores hn hfifo h.cores rfl

/-- The accesses in flight change in their stages only, and `own` does not. -/
def State.MapsStages (own : Flight) (s t : State) : Prop :=
  ∃ g : Flight → Flight, (∀ f, g f = { f with stage := (g f).stage }) ∧ g own = own ∧ t.flights = Tbl.mapKV s.flights fun _ f => g f

/-- The access stands in the buffer: what is left is what becomes of the lines. -/
def State.buffered (s : State) (n id pa : Nat) (cc : Bool) : State :=
  ((s.popFifo n id).sendOn id (.home pa cc)).modCluster (clusterOf n) fun k => { k with wtb := k.wtb ++ [id] }

theorem BufferEntered.of_lines {g : Cluster → Cluster} (hn : n < 80) (hf : Tbl.get? s.flights id = some f)
    (hstate : t = { (s.buffered n id pa cc).modCluster (clusterOf n) g with flights := t.flights })
    (hg : ∀ c, (g c).wtb = c.wtb)
    (hmap : State.MapsStages { f with stage := .home pa cc, sent := s.nextId } (s.buffered n id pa cc) t) :
    BufferEntered n id f pa cc s t := by
  obtain ⟨m, hm, hown, hfl⟩ := hmap
  have hflights : (s.buffered n id pa cc).flights = Tbl.modify s.flights id fun f => { f with stage := .home pa cc, sent := s.nextId } := by
    rw [State.buffered, State.modCluster_flights, State.sendOn, State.popFifo, State.modCore_flights, State.modCore_nextId]
  have hcl := clusterOf_lt hn
  have hbase (k : Nat) : ((s.popFifo n id).sendOn id (.home pa cc)).cluster k = s.cluster k :=
    congrArg (fun x => (x[k]?).getD Cluster.reset) (State.modCore_clusters s n _)
  refine ⟨?_, ?_, ?_, ?_, fun k hk => ?_, fun x h hx hh _ => ?_, fun hs => ?_⟩
  · rw [hfl, Tbl.get?_mapKV, hflights, Tbl.get?_modify_self, hf]
    exact congrArg some hown
  · rw [hstate, State.modCluster_eq, State.buffered, State.modCluster_eq, State.sendOn, State.popFifo, State.modCore_eq]
  · rw [hstate, State.buffered, State.modCluster_eq, State.modCluster_eq]
    rfl
  · have hk : t.cluster (clusterOf n) = g ((s.buffered n id pa cc).cluster (clusterOf n)) := by
      rw [hstate]
      exact State.cluster_modCluster_self _ _ _ hcl
    rw [hk, hg, State.buffered, State.cluster_modCluster_self _ _ _ hcl, hbase]
  · have hk : t.cluster k = s.cluster k := by
      rw [hstate]
      exact (State.cluster_modCluster_other _ hk).trans ((State.cluster_modCluster_other _ hk).trans (hbase k))
    rw [hk]
    exact ⟨rfl, fun _ hx => hx⟩
  · refine ⟨m h, ?_, hm h⟩
    rw [hfl, Tbl.get?_mapKV, hflights, Tbl.get?_modify_other _ _ _ _ hx, hh]
    rfl
  · rw [hfl]
    exact Tbl.sorted_mapKV _ (by rw [hflights]; exact Tbl.sorted_modify _ _ hs)

/-! The lines of the cluster. -/

/-- A store's bytes reach a line of its address space on its way to the cluster (R329). -/
def Flight.takesBytes (s : State) (cl asid va bytes v : Nat) (f : Flight) : Flight :=
  match f.stage with
  | .fill line al =>
    if clusterOf f.core == cl && s.asidOf f.core f.launch == asid && f.vline == va / 64 then
      { f with stage := .fill (putLine line (va % 64) bytes v) al }
    else f
  | _ => f

theorem Flight.takesBytes_stage (s : State) (cl asid va bytes v : Nat) (f : Flight) :
    f.takesBytes s cl asid va bytes v = { f with stage := (f.takesBytes s cl asid va bytes v).stage } := by
  unfold Flight.takesBytes
  split
  · split <;> rfl
  · rfl

theorem State.updateLines_mapsStages (s : State) (cl asid va bytes v : Nat) {own : Flight} (hown : own.stage = .home pa cc) :
    State.MapsStages own s (s.updateLines cl asid va bytes v) := by
  refine ⟨Flight.takesBytes (s.updateLines cl asid va bytes v) cl asid va bytes v, Flight.takesBytes_stage _ _ _ _ _ _, ?_, ?_⟩
  · simp only [Flight.takesBytes, hown]
  · exact congrArg (fun x => Tbl.mapKV x fun _ f => f.takesBytes (s.updateLines cl asid va bytes v) cl asid va bytes v)
      (State.modCluster_flights s cl _)

/-- A dropped line on its way to the cluster loses its place there (R330). -/
def Flight.losesPlaceIf (cl : Nat) (p : Flight → Bool) (f : Flight) : Flight := if p f then f.losesPlace cl else f

theorem State.dropFills_flights (s : State) (cl : Nat) (p : Flight → Bool) :
    (s.dropFills cl p).flights = Tbl.mapKV s.flights fun _ f => f.losesPlaceIf cl p := by
  simp only [State.dropFills]
  congr 1
  funext _ f
  cases hp : p f
  · simp only [Flight.losesPlaceIf, hp, Bool.and_false, Bool.false_eq_true, if_false]
  · simp only [Flight.losesPlaceIf, hp, Bool.and_true, if_true]
    rfl

theorem State.dropFills_mapsStages {own : Flight} (hown : own.isLoad = false) (hb : b.flights = s.flights) (cl : Nat) (p : Flight → Bool) :
    State.MapsStages own s (b.dropFills cl p) := by
  refine ⟨Flight.losesPlaceIf cl p, fun f => ?_, ?_, ?_⟩
  · unfold Flight.losesPlaceIf
    split
    · exact (Flight.losesPlace_facts cl f).1
    · rfl
  · simp only [Flight.losesPlaceIf, Flight.losesPlace, hown, Bool.and_false, Bool.false_eq_true, if_false, ite_self]
  · rw [State.dropFills_flights, hb]

/-- A store in the buffer, and its bytes in the lines of its cluster. -/
theorem BufferEntered.intoBuffer (hn : n < 80) (hf : Tbl.get? s.flights id = some f) (hc : f.core = n) (bytes v : Nat) :
    BufferEntered n id f pa cc s (((s.popFifo n id).sendOn id (.home pa cc)).intoBuffer id f bytes v) := by
  subst hc
  exact .of_lines hn hf rfl (fun _ => rfl) (State.updateLines_mapsStages _ _ _ _ _ _ rfl)

/-- An atomic in the buffer, and its line no more in its cluster. -/
theorem BufferEntered.invalidateLine (hn : n < 80) (hf : Tbl.get? s.flights id = some f) (hl : f.isLoad = false) (asid vline : Nat) :
    BufferEntered n id f pa cc s ((s.buffered n id pa cc).invalidateLine (clusterOf n) asid vline) :=
  .of_lines hn hf rfl (fun _ => rfl) (State.dropFills_mapsStages (own := { f with stage := .home pa cc, sent := s.nextId }) hl (State.modCluster_flights _ _ _) _ _)

/-- The cluster's lines with a store's bytes in those of its address. -/
theorem State.intoBuffer_lines (hn : n < 80) (hc : f.core = n) (bytes v : Nat) :
    ((((s.popFifo n id).sendOn id (.home pa cc)).intoBuffer id f bytes v).cluster (clusterOf n)).lines =
      (s.cluster (clusterOf n)).lines.map fun l => if l.asid == s.asidOf n f.launch && l.vline == f.vline then
        { l with data := putLine l.data (f.ea.toNat % 2 ^ 48 % 64) bytes v } else l := by
  subst hc
  have hcl := clusterOf_lt hn
  have hasid : ((s.popFifo f.core id).sendOn id (.home pa cc)).asidOf f.core f.launch = s.asidOf f.core f.launch :=
    State.popFifo_asidOf s f.core id f.core f.launch
  have hbase : ((s.popFifo f.core id).sendOn id (.home pa cc)).cluster (clusterOf f.core) = s.cluster (clusterOf f.core) :=
    congrArg (fun x => (x[clusterOf f.core]?).getD Cluster.reset) (State.modCore_clusters s f.core _)
  rw [State.intoBuffer, hasid]
  refine (congrArg Cluster.lines (State.cluster_modCluster_self _ _ _ hcl)).trans ?_
  rw [State.cluster_modCluster_self _ _ _ hcl, hbase]
  rfl

theorem State.invalidateLine_lines (s : State) (cl asid vline : Nat) (h : cl < 10) :
    ((s.invalidateLine cl asid vline).cluster cl).lines = (s.cluster cl).lines.filter fun l => !(l.asid == asid && l.vline == vline) :=
  congrArg Cluster.lines (State.cluster_modCluster_self s cl _ h)

end
end Sys2Proof.Machine

/-! The buffer's entries, and acknowledgements (R174, R329). -/

namespace Sys2Proof.Machine

section
variable {s : State} {n id pa bytes : Nat} {cc : Bool} {va : Nat} {rest : List Nat} {f : Flight} {kd : BitVec 2} {data : QWord}

section
variable (hf : Tbl.get? s.flights id = some f) (hfifo : (s.core n).fifo = id :: rest) (haway : s.away n f.launch = false)
  (hpark : f.stage ≠ .parked) (hheld : s.held id f = false) (hopen : s.loadsOpen id f = false)
  (hn : n < 80) (htg : s.targetOfFlight f = .global va) (hst : f.stage = .ready pa cc) (hroom : (s.cluster (clusterOf n)).wtb.length < 64)
include hf hfifo haway hpark hheld hopen hn htg hst hroom

theorem storeFifoExit_globalStore (hs : s.Sound) (hc : f.core = n) (hop : f.op = .store bytes kd data) :
    Answers (.storeFifoExit n) s fun t => BufferEntered n id f pa cc s t ∧
      ∀ x ∈ (t.cluster (clusterOf n)).lines, ∃ y ∈ (s.cluster (clusterOf n)).lines,
        x = if y.asid == s.asidOf n f.launch && y.vline == f.vline then
          { y with data := putLine y.data (f.ea.toNat % 2 ^ 48 % 64) bytes data.toNat } else y := by
  obtain ⟨-, -, -, hsorted, -⟩ := hs
  have he := exec_exitStore hf hfifo haway hpark hheld hopen hop
  have hbuf : s.bufferOpen (clusterOf n) = true := decide_eq_true hroom
  have hexit : s.exitStore n id f bytes data =
      (((s.popFifo n id).sendOn id (.home pa cc)).intoBuffer id f bytes data.toNat).settle := by
    simp only [State.exitStore, htg, hst, hbuf, if_true]
  have hin : BufferEntered n id f pa cc s (((s.popFifo n id).sendOn id (.home pa cc)).intoBuffer id f bytes data.toNat) :=
    .intoBuffer hn hf hc bytes data.toNat
  have hload : f.isLoad = false := by simp only [Flight.isLoad, hop]
  refine ⟨_, he, ?_, fun x hx => ?_⟩
  · rw [hexit]
    exact hin.settle hsorted hload (Flight.not_fence_of_store hop)
  · rw [hexit] at hx
    have hx := ((State.settle_settles (hin.sorted hsorted)).drops _).2 x hx
    rw [State.intoBuffer_lines hn hc] at hx
    obtain ⟨y, hy, rfl⟩ := List.mem_map.1 hx
    exact ⟨y, hy, rfl⟩

theorem storeFifoExit_globalAtomic (ha : f.isAtomic = true) :
    Answers (.storeFifoExit n) s fun t => BufferEntered n id f pa cc s t ∧
      ∀ x ∈ (t.cluster (clusterOf n)).lines, x ∈ (s.cluster (clusterOf n)).lines ∧
        (x.asid == s.asidOf n f.launch && x.vline == f.vline) = false := by
  have he := exec_exitAtomic hf hfifo haway hpark hheld hopen ha
  have hbuf : s.bufferOpen (clusterOf n) = true := decide_eq_true hroom
  have hexit : s.exitAtomic n id f = (s.buffered n id pa cc).invalidateLine (clusterOf n) (s.asidOf n f.launch) f.vline := by
    simp only [State.exitAtomic, htg, hst, hbuf, if_true]
    rfl
  have hload : f.isLoad = false := by
    unfold Flight.isAtomic at ha
    split at ha
    case h_1 e => simp only [Flight.isLoad, e]
    case h_2 e => simp only [Flight.isLoad, e]
    case h_3 e => simp only [Flight.isLoad, e]
    case h_4 => cases ha
  refine ⟨_, he, ?_, fun x hx => ?_⟩
  · rw [hexit]
    exact .invalidateLine hn hf hload _ _
  · have hcl := clusterOf_lt hn
    have hbase : ((s.buffered n id pa cc).cluster (clusterOf n)).lines = (s.cluster (clusterOf n)).lines := by
      rw [State.buffered, State.cluster_modCluster_self _ _ _ hcl]
      exact congrArg (fun x => ((x[clusterOf n]?).getD Cluster.reset).lines) (State.modCore_clusters s n _)
    rw [hexit, State.invalidateLine_lines _ _ _ _ hcl, hbase] at hx
    obtain ⟨hx, hmine⟩ := List.mem_filter.1 hx
    exact ⟨hx, (Bool.not_eq_true' _).mp hmine⟩

end

/-- The acknowledgement of a store ends it (R174). -/
theorem storeAck_ends (hs : s.Sound) (hf : Tbl.get? s.flights id = some f) (hstore : f.isStore = true) (hst : f.stage = .acked)
    (hparent : s.hasParent f = false) (hout : id ∉ (s.cluster (clusterOf f.core)).wtb) :
    Answers (.storeAck id) s fun t => Tbl.get? t.flights id = none ∧ OnlyFlights id s t := by
  obtain ⟨-, -, -, hsorted, -⟩ := hs
  have hcontains : (s.cluster (clusterOf f.core)).wtb.contains id = false := by simpa using hout
  have he : exec (.storeAck id) s = .next (s.dropFlight id).settle := by
    show execStoreAck id s = _
    simp only [execStoreAck, onFlight, hf, hstore, hst, hparent, hcontains, beq_self_eq_true, Bool.true_or, Bool.not_false, Bool.and_self,
      if_true]
  have hbut : FlightsBut id s (s.dropFlight id) := .dropFlight rfl
  exact ⟨_, he, (State.settle_settles (hbut.sorted hsorted)).gone (Tbl.get?_erase_self _ _ hsorted),
    .of_settle (w := s) rfl ⟨rfl, fun _ h => h⟩ rfl hbut hsorted⟩

/-- A cluster whose write-through buffer an entry has left. -/
def Cluster.leave (id : Nat) (c : Cluster) : Cluster := { c with wtb := c.wtb.filter fun x => x ≠ id }

/-- An entry that is performed leaves the buffer (R329). -/
theorem writeThroughAck_leaves (hs : s.Sound) (hf : Tbl.get? s.flights id = some f) (hbound : f.bound = true)
    (hahead : s.entriesAhead id f = []) : Answers (.writeThroughAck id) s fun t =>
      (∀ cl, cl < 10 → t.cluster cl = { s.cluster cl with
          lines := (t.cluster cl).lines, wtb := (s.cluster cl).wtb.filter fun x => x ≠ id } ∧
        ∀ x ∈ (t.cluster cl).lines, x ∈ (s.cluster cl).lines) ∧
      t = { s with clusters := t.clusters, flights := t.flights } ∧ SettlesFlights s.nextId s t := by
  obtain ⟨-, -, -, hsorted, -⟩ := hs
  let u : State := { s with clusters := s.clusters.map (Cluster.leave id) }
  have he : exec (.writeThroughAck id) s = .next u.settle := by
    show execWriteThroughAck id s = _
    simp only [execWriteThroughAck, hf, hbound, hahead, List.isEmpty_nil, Bool.and_self, if_true, bne_eq_decide_ne]
    rfl
  have hset : Settles u u.settle := State.settle_settles hsorted
  have hcluster (cl : Nat) (h : cl < 10) : u.cluster cl = (s.cluster cl).leave id := by
    simp only [State.cluster, u, Vector.getElem?_eq_getElem h, Vector.getElem_map, Option.getD_some]
  refine ⟨_, he, fun cl h => ?_, ?_, hset.flights fun _ _ => rfl⟩
  · obtain ⟨hc, hl⟩ := hset.drops cl
    rw [hcluster cl h] at hc hl
    exact ⟨hc, hl⟩
  · rw [hset.state]

end
end Sys2Proof.Machine

/-! O33: the array ports and the store FIFO. -/

namespace Sys2Proof.Machine

section
variable {s : State} {id c off : Nat} {f : Flight} {sz : BitVec 3} {kd : BitVec 2}

/-- A store's size is not that of two halves. -/
theorem not_halves {bytes : Nat} (h : bytes ∈ [1, 2, 4, 8]) : bytes ≠ 16 := by
  rintro rfl
  exact absurd h (by decide)

/-- A part of a word is written only where it is good. -/
theorem good_of_part {bytes a : Nat} (h : 4 ≤ bytes ∨ s.isBad a bytes = false) (hlt : bytes < 4) : s.isBad a bytes = false :=
  h.resolve_left (Nat.not_le.2 hlt)

section
variable (hs : s.Sound) (hf : Tbl.get? s.flights id = some f) (hop : f.op = .load sz kd) (htg : s.targetOfFlight f = .pool false c off)
  (hmay : s.loadMay id f = true) (haway : s.away f.core f.launch = false) (hline : s.lineBusy f c off = false)
  (hfwd : s.forward id f = .none)
include hf hop htg hmay haway hline hfwd

theorem owningPortLoad_defers (hst : f.stage = .request) (hok : s.portOk c f.launch off f.size = false) (hn : f.core < 80)
    (hagent : f.agent = .micro) : Answers (.owningPortLoad id) s fun t => DefersTo id f 0x04#8 4 off s t :=
  ⟨_, (exec_owningPortLoad hf hop htg (Flight.atPort_request hst) hmay haway hline hfwd).trans (if_pos hok),
    State.deferFlight_defers hn hf hagent (by decide) (by decide) (State.targetOfFlight_off htg)⟩

variable (hok : s.portOk c f.launch off f.size = true) (hhere : s.away c f.launch = false) (hbad : s.isBad (poolAddr c off) f.size = false)
include hs hok hhere hbad

theorem owningPortLoad_whole (hst : f.stage = .request) (h16 : f.size ≠ 16) : Answers (.owningPortLoad id) s fun t =>
    t.flies id f (.reply (extendLoad sz (s.peek (poolAddr c off) f.size)) 0#5) ∧ OnlyFlights id s t := by
  have he := exec_owningPortLoad_performs hf hop htg (Flight.atPort_request hst) hmay haway hline hfwd hok hhere hbad
  rw [State.portLoad_whole hop h16] at he
  exact .of_bound hs hf (Flight.not_fence_of_load hop) (Stage.reply_stays _ _) he

theorem owningPortLoad_first (hst : f.stage = .request) (h16 : f.size = 16) : Answers (.owningPortLoad id) s fun t =>
    t.flies id f (.half (BitVec.ofNat 64 (s.peek (poolAddr c off) 8))) ∧ OnlyFlights id s t := by
  have he := exec_owningPortLoad_performs hf hop htg (Flight.atPort_request hst) hmay haway hline hfwd hok hhere hbad
  rw [State.portLoad_first h16 hst] at he
  exact .of_bound hs hf (Flight.not_fence_of_load hop) (Stage.half_stays _) he

theorem owningPortLoad_second {low : DWord} (hst : f.stage = .half low) (h16 : f.size = 16) : Answers (.owningPortLoad id) s fun t =>
    t.flies id f (.reply (BitVec.ofNat 128 (low.toNat + 2 ^ 64 * s.peek (poolAddr c (off + 8)) 8)) 0#5) ∧ OnlyFlights id s t := by
  have he := exec_owningPortLoad_performs hf hop htg (Flight.atPort_half hst) hmay haway hline hfwd hok hhere hbad
  rw [State.portLoad_second hop h16 hst] at he
  exact .of_bound hs hf (Flight.not_fence_of_load hop) (Stage.reply_stays _ _) he

end

end
end Sys2Proof.Machine

namespace Sys2Proof.Proofs
open Sys2Proof Sys2Proof.Machine

/-- Settles O33: loads, stores and atomics at their port, each entry's way out of the store FIFO, and the two acknowledgements. -/
theorem portAndFifoResults : Obligations.PortAndFifoResults := by
  unfold Obligations.PortAndFifoResults
  refine ⟨fun s id f c off hs hf htg hline hc hn => ⟨fun sz k hop hmay haway hfwd => ⟨?_, ?_, ?_⟩,
      fun bytes k data hop hfifo ⟨hok, hhere⟩ => ⟨?_, ?_, ?_⟩, ?_, ?_⟩,
    fun s n id rest f hs hn hf hfn => ⟨fun hfifo haway hpark hheld hopen => ⟨fun bytes k data off hop htg hok => ⟨?_, ?_, ?_⟩, ?_, ?_, ?_⟩,
      ?_, writeThroughAck_leaves hs hf⟩⟩
  · exact fun hst ⟨hok, hhere⟩ hbad => ⟨fun h16 => owningPortLoad_whole hs hf hop htg hmay haway hline hfwd hok hhere hbad hst h16,
      fun h16 => owningPortLoad_first hs hf hop htg hmay haway hline hfwd hok hhere hbad hst h16⟩
  · intro low hst h16 ⟨hok, hhere⟩ hbad
    exact owningPortLoad_second hs hf hop htg hmay haway hline hfwd (h16 ▸ hok) hhere (h16 ▸ hbad) hst h16
  · exact fun hst hok hagent => owningPortLoad_defers hf hop htg hmay haway hline hfwd hst hok hn hagent
  · intro hst hbytes hbad
    by_cases hu : s.Untraced f c
    · obtain ⟨t, ht, hfl, hp, hmem, hcores⟩ := owningPortStore_untraced hs hf hop htg hfifo hline hok hhere hst (not_halves hbytes)
        (good_of_part hbad) hu
      exact ⟨t, ht, hfl, hp.onlyFlightsMem_of_cores hcores, fun _ => ⟨hmem, hcores⟩,
        fun hen hcore => absurd hu (State.not_untraced_iff.2 ⟨hen, hcore⟩)⟩
    · obtain ⟨hen, hcore⟩ := State.not_untraced_iff.1 hu
      obtain ⟨tr, htr⟩ := State.tracerOf_other (s := s) hcore
      obtain ⟨t, ht, hfl, hp, hmem, hself, hothers⟩ := owningPortStore_traced hs hf hop htg hfifo hline hok hhere hst (not_halves hbytes)
        (good_of_part hbad) htr hc hen
      refine ⟨t, ht, hfl, hp.onlyFlightsMem fun x => ?_, fun h => absurd h hu, fun _ _ ha => ⟨?_, congrArg Core.traceSeq hself, hothers⟩⟩
      · by_cases hx : x = c
        · rw [hx, hself]
        · rw [hothers x hx]
      · obtain rfl := Option.some.inj (htr.symm.trans (State.tracerOf_store hop ha hcore))
        exact hmem
  · intro hst h16 hu
    obtain ⟨t, ht, hfl, hp, hcores, hmem⟩ := owningPortStore_first hf hop htg hfifo hline hok hhere h16 hst hu
    exact ⟨t, ht, hfl, hp.onlyFlightsMem_of_cores hcores, hcores, hmem⟩
  · intro low hst h16
    obtain ⟨t, ht, hfl, hp, hcores, hmem⟩ := owningPortStore_second hs hf hop htg hfifo hline hok hhere h16 hst
    exact ⟨t, ht, hfl, hp.onlyFlightsMem_of_cores hcores, hcores, hmem⟩
  · intro f7 b hop hst ⟨hok, hhere⟩ hbad hu
    obtain ⟨t, ht, hfl, hp, hcores, hmem⟩ := owningPortAtomic_untraced hs hf hop hst htg hline hok hhere hbad hu
    exact ⟨t, ht, hfl, hp.onlyFlightsMem_of_cores hcores, hcores, hmem⟩
  · exact fun ha hst hok hagent => owningPortAtomic_defers hf ha hst htg hline hok hn hagent
  · intro hbytes hbad
    obtain ⟨t, ht, hmem, hgone, ⟨hself, hothers⟩, hp⟩ := storeFifoExit_own hf hfn hfifo haway hpark hheld hopen hop htg hok hs hn
      (not_halves hbytes) (good_of_part hbad)
    exact ⟨t, ht, hmem, hgone, hself, hothers, hp.besideCores⟩
  · intro h16 hst
    obtain ⟨t, ht, hmem, hfl, hcores, hp⟩ := storeFifoExit_first hf hfn hfifo haway hpark hheld hopen hop htg hok h16 hst
    exact ⟨t, ht, hmem, hfl, hcores, hp.onlyFlightsMem_of_cores hcores⟩
  · intro low h16 hst
    obtain ⟨t, ht, hmem, hgone, ⟨hself, hothers⟩, hp⟩ := storeFifoExit_second hf hfifo haway hpark hheld hopen hop htg hok hs hn h16 hst
    exact ⟨t, ht, hmem, hgone, hself, hothers, hp.besideCores⟩
  · intro c off hop htg hc
    obtain ⟨t, ht, hfl, hnext, hmem, hcl, ⟨hself, hothers⟩, hp⟩ := storeFifoExit_remote hf hfifo haway hpark hheld hopen hn hop htg hc
    exact ⟨t, ht, hfl, hnext, hmem, hcl, hself, hothers, hp⟩
  · intro f7 b off hop htg hok hbad
    obtain ⟨t, ht, hfl, hmem, ⟨hself, hothers⟩, hp⟩ := storeFifoExit_atomic hf hfifo haway hpark hheld hopen hs hn hfn hop htg hok hbad
    exact ⟨t, ht, hfl, hmem, hself, hothers, hp.besideCores⟩
  · intro va pa cc hop htg hst hroom
    rcases hop with h | h
    · obtain ⟨bytes, kd, data, hop⟩ := Flight.isStore_iff.1 h
      obtain ⟨t, ht, hin, hlines⟩ := storeFifoExit_globalStore hf hfifo haway hpark hheld hopen hn htg hst hroom hs hfn hop
      obtain ⟨hself, hothers⟩ := hin.headLeft hn hfifo
      refine ⟨t, ht, hin.own, hin.nextId, hself, hothers, hin.frame, hin.clusters, hin.buffer, fun bytes' kd' data' hop' => ?_,
        fun ha => ?_, hin.others⟩
      · cases hop.symm.trans hop'
        exact hlines
      · simp only [Flight.isAtomic, hop] at ha
        cases ha
    · obtain ⟨t, ht, hin, hlines⟩ := storeFifoExit_globalAtomic hf hfifo haway hpark hheld hopen hn htg hst hroom h
      obtain ⟨hself, hothers⟩ := hin.headLeft hn hfifo
      refine ⟨t, ht, hin.own, hin.nextId, hself, hothers, hin.frame, hin.clusters, hin.buffer, fun bytes kd data hop => ?_,
        fun _ => hlines, hin.others⟩
      simp only [Flight.isAtomic, hop] at h
      cases h
  · intro hstore hst hparent hout
    exact storeAck_ends hs hf hstore hst hparent (hfn ▸ hout)

end Sys2Proof.Proofs
